-- ==== Sys2Proof/Word.lean ====
section
/-! DEFINITION. The words of the module and the small types that name its units (R13). -/

namespace Sys2Proof

/-- One byte. -/
abbrev Byte := BitVec 8
/-- A 32-bit word: a scalar counter, a vector lane, a tag (R111, R127). -/
abbrev W32 := BitVec 32
/-- A 64-bit word: a set-up register, a sidereal time (R247, R618). -/
abbrev W64 := BitVec 64
/-- A 128-bit LVI instruction word (R299). -/
abbrev LviWord := BitVec 128
/-- A sparse table: rising keys, and no entry equal to what an absent key reads as. -/
abbrev Sparse (α : Type) := List (Nat × α)

/-- Global engine number 16n + m (R13). -/
abbrev Eng := Fin 256
/-- Task context of an engine (R131). -/
abbrev CtxId := Fin 4
/-- Compute die (R13). -/
abbrev Die := Fin 16
/-- HBM3E stack (R13). -/
abbrev Stack := Fin 16
/-- Link port (R13). -/
abbrev Port := Fin 18
/-- Partition (R13). -/
abbrev Part := Fin 8
/-- Submission or completion ring (R13). -/
abbrev RingId := Fin 1024
/-- Media die and its ingest port (R13). -/
abbrev Media := Fin 6
/-- Tier die (R13). -/
abbrev Tier := Fin 4
/-- Asterism within an engine (R13). -/
abbrev Ast := Fin 8
/-- PCIe function: 0 is PF0, k + 1 is VF(k + 1) (R480, R546). -/
abbrev Func := Fin 9
/-- A mailbox of a function, or the port of the debug connector (R565). -/
abbrev MailPort := Fin 10
/-- Stream slot of a media die (R439). -/
abbrev Slot := Fin 64

/-- Who issues an access or a region operation; it selects the error response (R568). -/
inductive Requester where
  | host (f : Func)
  | task (e : Eng) (c : CtxId)
  | dmaq (e : Eng) (q : Fin 9)
  | cmd (sq : RingId) (tag : BitVec 16)
  | core (g : Fin 64)
  | media (d : Media)
  | gather (d : Tier)
  | link (p : Port)
  deriving DecidableEq, Repr

/-- What the DRAM returns under a line before its tag check (R176, R578). -/
inductive Ecc where
  | clean
  | corrected
  | uncorrectable (syndrome : W64)
  | tampered
  deriving DecidableEq, Repr, Inhabited

/-- What a Transit names: the head instruction of a context, or a ring command (R251). -/
inductive TransitRef where
  | insn (e : Eng) (c : CtxId)
  | cmd (sq : RingId) (tag : BitVec 16)
  deriving DecidableEq, Repr

end Sys2Proof
end

