-- ==== Sys2Proof/Syntax.lean ====
section
/-! DEFINITION. The commands and events of the module: one constructor per row of
spec/opcode_table.json. An LVI row carries the engine, the context and the instruction word
(R299, R300). A ring row carries the ring and the TAG of the fetched entry that holds its
arguments (R486). A register row carries the function and the word written. A row of the
outside world (a packet, a datagram, a measurement) carries what arrives. -/

namespace Sys2Proof

/-- A Cangor packet after decryption (R400, R402): header fields, head-flit bytes 0x20 to
0xEF, and the body bytes. -/
structure Packet where
  typ : Byte
  vc : Fin 4
  map : Fin 4
  keyphase : Bool
  dst : BitVec 14
  dstEng : Byte
  src : BitVec 14
  epoch : BitVec 16
  arg : W32
  addr : W64
  pseq : W64
  inl : List Byte
  body : List Byte
  deriving DecidableEq, Repr

/-- The fields of a CTL segment (R404). -/
structure CtlSeg where
  scrub : Bool
  msg : Byte
  nak : Bool
  ack : BitVec 11
  credits : List (BitVec 16)
  frag : BitVec 16
  body : List Byte
  deriving DecidableEq, Repr

/-- What one side of a link port offers or brings to TRAINING (R395): a bit per rate, width and
FEC mode, the lanes that lock, and the transmit-equalisation code wanted (R538). -/
structure Offering where
  rates : BitVec 3
  widths : BitVec 3
  fec : BitVec 2
  lanes : BitVec 4
  eqWant : Byte
  deriving DecidableEq, Repr

/-- What a key-agreement message of a partner shows (R429, R552): its device ID, whether it is a
switch, whether its certificate and both transcript signatures verify; `kx`: its X25519 public key, 32 bytes, then its
ML-KEM-768 encapsulation key or ciphertext. -/
structure PeerKey where
  device : List Byte
  isSwitch : Bool
  certOk : Bool
  edOk : Bool
  mlOk : Bool
  kx : List Byte := []
  deriving DecidableEq, Repr

/-- An ISF datagram of an ingest port (R435): the IPv6 source, its UDP port (R433) and the whole UDP payload. -/
structure Datagram where
  srcAddr : List Byte
  srcPort : BitVec 16
  udp : List Byte
  deriving DecidableEq, Repr

/-- An Ethernet frame of an ingest port (R432, R433): what the port's filter looks at. -/
structure Frame where
  bytes : Nat
  etherType : BitVec 16
  extHeaders : Bool
  fragment : Bool
  udp : Bool
  dstPort : BitVec 16
  checksumOk : Bool
  fecCorr : Nat
  deriving DecidableEq, Repr

/-- One sample of a die's monitors (R532, R533). -/
structure MonSample where
  mon : Byte
  worst : Int
  mean : Int
  tj : Int
  deriving DecidableEq, Repr

/-- The container that demux finds around a picture (R457): a transport stream with its packet length, the programs of
its PAT and the elementary PIDs of the one selected; an MXF file with its operational pattern (0 OP1a, 1 OP-Atom), its
wrapping (0 frame, 1 clip) and its picture tracks; an elementary stream, in Annex B form or not; or none of these. -/
inductive Mux where
  | ts (packet : Nat) (programs : List Nat) (pids : Nat)
  | mxf (pattern wrapping : Nat) (tracks : List Nat)
  | es (annexB : Bool)
  | unknown
  deriving DecidableEq, Repr

/-- The video essence of a picture: the formats of R457, or another of a codec. -/
inductive Essence where
  | mpeg2Main | mpeg2Main422 | avcHigh | avcHigh422Intra | hevcMain | hevcMain10 | hevcMain42210
  | av1Main | vvcMain10 | dvIec61834 | dvSmpte314m
  | other (codec : Byte)
  deriving DecidableEq, Repr

/-- The sound and caption essences that go with it (R457). -/
inductive SideTrack where
  | mpegLayer2 | aacLc | heAac | smpte302m | cea608 | dvbSubtitles | teletext | other
  deriving DecidableEq, Repr

/-- What a decode core finds in the next picture of a stream (R457 to R460): the landing bytes it takes; the
picture's size, bit depth, whether it is two fields, the lower first; the matrix (1 BT.601, 2 BT.709, 3 BT.2020) and range
it signals; its presentation time in 90 kHz units and its duration in 27 MHz units; whether its bitstream is in error,
whether it is an intra random-access picture, whether it references a damaged one; its container, its essence, the
tracks beside it, and whether the last byte of the stream is decoded. -/
structure Picture where
  consumed : Nat
  width : Nat
  height : Nat
  depth : Nat
  fields : Bool
  lowerFirst : Bool
  matrix : Nat
  full : Bool
  pts : Nat
  dur : Nat
  inError : Bool
  intra : Bool
  refsLost : Bool
  mux : Mux
  essence : Essence
  tracks : List SideTrack
  last : Bool
  deriving DecidableEq, Repr

/-- Where a debug-unlock token is presented: a function's mailbox, whose request block says where it lies, or the debug
connector, which carries its bytes (R565). -/
inductive TokenAt where
  | mailbox (f : Func)
  | connector (token : List Byte)
  deriving DecidableEq, Repr

inductive Instr where
  -- sequencer class
  | nop (e : Eng) (c : CtxId) (w : LviWord)
  | endTask (e : Eng) (c : CtxId) (w : LviWord)
  | add (e : Eng) (c : CtxId) (w : LviWord)
  | cmp (e : Eng) (c : CtxId) (w : LviWord)
  | sel (e : Eng) (c : CtxId) (w : LviWord)
  | loop (e : Eng) (c : CtxId) (w : LviWord)
  | br (e : Eng) (c : CtxId) (w : LviWord)
  | setlt (e : Eng) (c : CtxId) (w : LviWord)
  | time (e : Eng) (c : CtxId) (w : LviWord)
  -- move class
  | move (e : Eng) (c : CtxId) (w : LviWord)
  | hqPush (e : Eng) (c : CtxId) (w : LviWord)
  | hqPop (e : Eng) (c : CtxId) (w : LviWord)
  | tierOpen (e : Eng) (c : CtxId) (w : LviWord)
  | tierSeal (e : Eng) (c : CtxId) (w : LviWord)
  | tierAbandon (e : Eng) (c : CtxId) (w : LviWord)
  | tierDone (e : Eng) (c : CtxId) (w : LviWord)
  | tierRelease (e : Eng) (c : CtxId) (w : LviWord)
  | chainStartInsn (e : Eng) (c : CtxId) (w : LviWord)
  -- OPX and dot-compatibility classes
  | opxPass (e : Eng) (c : CtxId) (w : LviWord)
  | opxDrain (e : Eng) (c : CtxId) (w : LviWord)
  | dotPass (e : Eng) (c : CtxId) (w : LviWord)
  | dotDrain (e : Eng) (c : CtxId) (w : LviWord)
  -- vector class
  | vld (e : Eng) (c : CtxId) (w : LviWord)
  | vst (e : Eng) (c : CtxId) (w : LviWord)
  | varith (e : Eng) (c : CtxId) (w : LviWord)
  | vcvt (e : Eng) (c : CtxId) (w : LviWord)
  | vtrans (e : Eng) (c : CtxId) (w : LviWord)
  | vred (e : Eng) (c : CtxId) (w : LviWord)
  | vact (e : Eng) (c : CtxId) (w : LviWord)
  | actBwd (e : Eng) (c : CtxId) (w : LviWord)
  | update (e : Eng) (c : CtxId) (w : LviWord)
  | topkHist (e : Eng) (c : CtxId) (w : LviWord)
  | topkSelect (e : Eng) (c : CtxId) (w : LviWord)
  | sign (e : Eng) (c : CtxId) (w : LviWord)
  -- exchange class
  | xchDrain (e : Eng) (c : CtxId) (w : LviWord)
  | xchNorm (e : Eng) (c : CtxId) (w : LviWord)
  | xchCollect (e : Eng) (c : CtxId) (w : LviWord)
  | xchMcast (e : Eng) (c : CtxId) (w : LviWord)
  | dispatch (e : Eng) (c : CtxId) (w : LviWord)
  | combine (e : Eng) (c : CtxId) (w : LviWord)
  | xchPhase (e : Eng) (c : CtxId) (w : LviWord)
  -- sync class
  | syncArm (e : Eng) (c : CtxId) (w : LviWord)
  | syncClear (e : Eng) (c : CtxId) (w : LviWord)
  | syncSignal (e : Eng) (c : CtxId) (w : LviWord)
  -- steps of the engines
  | transitDispatch (r : TransitRef)
  | contextSwitch (e : Eng)
  | leaveGrant (g : Fin 22)
  | stepInject (e : Eng) (base : Ast)
  | stepRetire (e : Eng) (a : Ast)
  | replayStart (e : Eng) (base : Ast)
  | passRetire (e : Eng) (base : Ast)
  | drainRowSend (e : Eng) (a : Ast)
  | gangForm (e : Eng) (base : Ast)
  | descriptorBurstFetch (e : Eng) (q : Fin 9)
  | dmaTransferStart (e : Eng) (q : Fin 9)
  | dmaLineLand (e : Eng) (id : Nat) (ecc : Ecc)
  | dmaTransferComplete (e : Eng) (id : Nat)
  | fetchDeadlineExpiry (e : Eng) (id : Nat)
  | prefetchWaitExpiry (e : Eng) (q : Fin 9)
  | syncOpArrival (d : Die) (srcs : List Nat)
  | hqOpArrival (d : Die) (srcs : List Nat)
  | chainStageStep (p : Part) (chain stage : Nat)
  | waitWatchdogExpiry (e : Eng) (c : CtxId)
  | reduceWriteApply (r : Requester) (op : Byte) (addr : Nat) (n : Nat) (payload : List Byte) (poisoned : Bool)
  | memoryRead (r : Requester) (addr len : Nat) (hint : Fin 4) (ecc : Ecc)
  | memoryWrite (r : Requester) (addr : Nat) (data : List Byte) (poisoned : Bool) (ecc : Ecc)
  | regionOpArrival (d : Tier) (i : Nat)
  -- rings
  | sqDoorbell (f : Func) (n : RingId) (off size : Nat) (v : W32)
  | cqDoorbell (f : Func) (n : RingId) (off size : Nat) (v : W32)
  | sqEntryFetch (n : RingId) (burst : Nat) (fetchError : Bool)
  | cqEntryWrite (n : RingId) (writeError : Bool)
  | cqInterruptDelay (n : RingId)
  | nopCommand (sq : RingId) (tag : BitVec 16)
  | abort (sq : RingId) (tag : BitVec 16)
  | xlatInvalidate (sq : RingId) (tag : BitVec 16)
  | programLoad (sq : RingId) (tag : BitVec 16)
  | programStart (sq : RingId) (tag : BitVec 16)
  | programUnload (sq : RingId) (tag : BitVec 16)
  | chainStart (sq : RingId) (tag : BitVec 16)
  | dma (sq : RingId) (tag : BitVec 16)
  | gatherRun (sq : RingId) (tag : BitVec 16)
  | gatherRunEnd (d : Tier)
  | tierRegionOpen (sq : RingId) (tag : BitVec 16)
  | tierRegionSeal (sq : RingId) (tag : BitVec 16)
  | tierRegionAbandon (sq : RingId) (tag : BitVec 16)
  | tierRegionRelease (sq : RingId) (tag : BitVec 16)
  | tierRegionReclaim (sq : RingId) (tag : BitVec 16)
  | layoutLoad (sq : RingId) (tag : BitVec 16)
  | epochAdvance (sq : RingId) (tag : BitVec 16)
  | phaseLoad (sq : RingId) (tag : BitVec 16)
  | phaseLoadRelease (bank : Fin 4)
  | slotDump (sq : RingId) (tag : BitVec 16)
  | breakCmd (sq : RingId) (tag : BitVec 16)
  | bpClear (sq : RingId) (tag : BitVec 16)
  | halt (sq : RingId) (tag : BitVec 16)
  | haltComplete (e : Eng)
  | resume (sq : RingId) (tag : BitVec 16)
  | scrub (sq : RingId) (tag : BitVec 16)
  | scrubQuiesceEnd (p : Part)
  | scrubStreamsEnd (p : Part)
  | scrubOverwriteEnd (p : Part)
  | scrubStreamIdleTimeout (d : Media) (s : Slot)
  -- host port and set-up registers
  | bar4Read (f : Func) (off len : Nat) (ecc : Ecc)
  | bar4Write (f : Func) (off : Nat) (data : List Byte) (ep : Bool)
  | configurationRequest (f : Func)
  | registerWrite (f : Func) (off size : Nat) (v : W64)
  | moduleEnable (f : Func) (v : W64)
  | moduleDisable (f : Func)
  | partEnable (f : Func) (k : Part) (v : W64)
  | sqEnable (f : Func) (n : RingId) (v : W64)
  | cqEnable (f : Func) (n : RingId) (v : W64)
  | moduleResetWrite (f : Func)
  | stage (f : Func) (v : W64)
  | commit (f : Func) (v : W64)
  | fwActivate (f : Func) (slot : Fin 16) (v : W64)
  | retrain (f : Func) (slot : Fin 16) (v : W64)
  | recal (f : Func) (slot : Fin 16) (v : W64)
  | regSet (f : Func) (slot : Fin 16) (v : W64)
  | serviceOperationEnd (slot : Fin 16) (result : Byte)
  | serviceCfgWrite (f : Func) (v : W64)
  -- power
  | powerCmdModule (f : Func) (v : W64) (tripHolds : Bool)
  | powerCmdDie (f : Func) (v : W64) (tripHolds : Bool)
  | powerCmdPort (f : Func) (v : W64) (tripHolds : Bool)
  | powerCmdLimits (f : Func) (v : W64) (tripHolds : Bool)
  | powerWalkStepDone (failUnit : Option (Fin 32 × Byte)) (floorWatts : Nat)
  | powerOn
  | perstAssert
  | pcieHotReset
  | pf0Flr
  | vfReset (k : Part)
  | inputMeasurement (mV cur watts : Nat)
  | inputUndervoltage (mV : Int)
  | inputOvervoltage (mV : Int)
  | inputOverpower (watts : Int)
  | dieOvertemperature (die : Fin 32) (sensor : Byte) (t8 : Int)
  | hbmOvertemperature (h : Stack) (sensor : Byte) (t8 : Int)
  | regulatorFault (rail : Byte) (mA : Int)
  | referenceLoss
  | pllUnlock
  | entropyFailure
  | thermalWarn (die : Fin 32) (sensor : Byte) (t8 : Int)
  | almanacSample (die : Fin 32) (m : MonSample)
  | emergencySample (die : Fin 32) (m : MonSample)
  | decodeCoreIdle (d : Media) (core : Fin 8)
  -- time
  | timeLoad (f : Func) (v : W64)
  | syncEnable (f : Func) (v : W64)
  | syncDisable (f : Func) (v : W64)
  | timeMeasurement
  | steeringStep
  | ppsInEdge (valid : Bool)
  | ref10mCompare (valid : Bool) (cycles : Nat)
  | externalInputLoss
  | ppsOutEdge
  -- Cangor links
  | lportEnable (f : Func) (p : Port) (v : W64)
  | trainingComplete (p : Port) (theirs : Offering) (ours : BitVec 4)
  | portStateTimeout (p : Port)
  | hello (p : Port) (module : BitVec 14) (versions : BitVec 3)
  | keyx (p : Port) (k : PeerKey)
  | rekey (p : Port) (k : PeerKey)
  | rekeyRequest (f : Func) (p : Port)
  | ctlSegment (p : Port) (c : CtlSeg)
  | ctlSegmentSend (p : Port)
  | segmentReceive (p : Port) (tag : W32) (body : List Byte)
  | scrubSegment (p : Port)
  | laneLoss (p : Port) (lane : Fin 4)
  | signal (p : Port) (k : Packet)
  | timeReq (p : Port) (k : Packet)
  | timeResp (p : Port) (k : Packet)
  | timeFollow (p : Port) (k : Packet)
  | norm (p : Port) (k : Packet)
  | normResult (p : Port) (k : Packet)
  | writeAck (p : Port) (k : Packet)
  | reduce (p : Port) (k : Packet)
  | report (p : Port) (k : Packet)
  | param (p : Port) (k : Packet)
  | token (p : Port) (k : Packet)
  | tokenRet (p : Port) (k : Packet)
  | tokenDrop (p : Port) (k : Packet)
  | tokenEnd (p : Port) (k : Packet)
  | bulk (p : Port) (k : Packet)
  | epochFutureTimeout (i : Nat)
  -- archive ingest
  | ethernetFrame (d : Media) (fr : Frame)
  | neighborSolicitation (d : Media) (target : List Byte)
  | echoRequest (d : Media) (target : List Byte)
  | data (d : Media) (g : Datagram)
  | offer (d : Media) (g : Datagram)
  | pauseRepeat (d : Media) (s : Slot)
  | resumeRepeat (d : Media) (s : Slot)
  | close (d : Media) (g : Datagram)
  | closeRepeat (d : Media) (s : Slot)
  | reorderTimeout (d : Media) (s : Slot)
  | rateWindowEnd (d : Media) (s : Slot)
  | decodePicture (d : Media) (s : Slot) (p : Picture)
  | samplePlace (d : Media) (s : Slot)
  | sampleDraw (p : Part)
  | streamEnable (f : Func) (d : Media) (s : Slot) (v : W64)
  | streamDisable (f : Func) (d : Media) (s : Slot) (v : W64)
  | hold (f : Func) (d : Media) (s : Slot) (v : W64)
  -- security
  | enrollKey (f : Func)
  | attest (f : Func)
  | bindLoad (f : Func)
  | bindExport (f : Func)
  | debugChallenge (f : MailPort)
  | debugUnlock (f : TokenAt)
  | debugLock (f : Func)
  | debugNonceExpiry (f : MailPort)
  | debugUnlockExpiry (i : Nat)
  | getVersion (req : List Byte)
  | getCapabilities (req : List Byte)
  | negotiateAlgorithms (req : List Byte)
  | getDigests (req : List Byte)
  | getCertificate (req : List Byte)
  | challenge (req : List Byte)
  | getMeasurements (req : List Byte)
  | mldsaSignatureRequest (req : List Byte)
  -- logs, trace and counters
  | fltClear (f : Func) (log : Fin 288) (v : W64)
  | eccStorm (log : Fin 288)
  | traceEnable (f : Func) (k : Part) (v : W64)
  | traceRecordTransfer (d : Die)
  | ecntSnap (f : Func) (d : Die) (v : W64)
  | ecntRead (f : Func) (e : Eng) (c : Fin 32)
  | ecntSelWrite (f : Func) (e : Eng) (c : Fin 32) (v : W64)
  | timeNowLowRead (f : Func)
  | perstDeassert (gen : Fin 8) (width : Fin 17)
  | segmentSlot (p : Port)
  | bulkPause (p : Port)
  | vectorComplete (e : Eng) (id : Nat)
  | expertRoundReopen (e : Eng) (expert : Nat)
  | overwriteEnd (unit : Fin 20) (failedLines : List Nat)
  | inputPowerLoss
  | hbmRefreshRateChange (h : Stack) (mult4 : Byte)
  deriving DecidableEq, Repr

end Sys2Proof
end

