-- ==== Sys2Proof/Decode.lean ====
section
/-! DEFINITION. The commands that words spell. spec/opcode_table.json gives no row any bits, so no
word spells a command; the LVI words of chapter 10 arrive as operands of their rows. -/

namespace Sys2Proof

/-- The command spelled by nbits bits with value w: none, as the table gives no row bits. -/
def decodeTableWord (_nbits _w : Nat) : Option Instr := none

end Sys2Proof
end

