-- ==== Sys2Proof/Config.lean ====
section
/-! DEFINITION. What one part fixes and what the manual leaves free. Every constant is opaque:
no proof can see its value, so a claim holds whatever it is. Log entries 2, 8 to 11 and 14. -/

namespace Sys2Proof.Config

/-! ## Free values drawn one after another (log 2) -/

/-- The uniform 16-bit draw of a stochastic rounding (R73, R118). -/
opaque draw16 : Nat → BitVec 16
/-- The random choice of a sample draw (R469). -/
opaque drawNat : Nat → Nat
/-- Whether an access between a table change and the XLAT_INVALIDATE uses the old translation
of a page (R37): page, moment. -/
opaque oldXlat : Nat → Nat → Bool
/-- The syndrome of an uncorrectable line that no row presents (R575). -/
opaque syndrome : Nat → BitVec 64
/-- Bytes of the DRBG: nonces, fresh keys (R540, R565). -/
opaque drawBytes : Nat → Nat → List Byte

/-- The device virtual address the loader gives buffer b of a CHAIN stage's pool (R232): the
manual states no place. Partition, chain, stage, buffer. -/
opaque poolVa : Nat → Nat → Nat → Nat → BitVec 57

/-- Where in a partition's HBM the loader places tables, pools and code (R289, R292): partition, bytes. -/
opaque loaderPlace : Nat → Nat → Nat

/-- The operand formats of a pass that the loader can tell before a run (R44 gives no way): stream, instruction. -/
opaque passFormats : List LviWord → Nat → Option (Nat × Nat)

/-- Coolant inlet and outlet temperature at a measurement, as its sensors report them (R649 gives no scale). -/
opaque coolant : Nat → BitVec 16 × BitVec 16

/-- Bytes the native code of a stream of n instructions takes (R290 states none), and byte i of the code of a stream. -/
opaque nativeBytes : Nat → Nat
opaque nativeByte : List Byte → Nat → Byte

/-- Byte of the CHECKER pattern, whose bits the manual does not give: its place in the range (R202). -/
opaque checkerByte : Nat → BitVec 8
/-- The 31 bits before the first of a PRBS31 pattern, newest first, and whether bit 7 of a byte comes before
bit 0: R202 names the sequence of ITU-T O.150 and neither its start nor its order in a byte. -/
opaque prbsSeed : List Bool
opaque prbsMsbFirst : Bool
/-- What ECC finds in a line that a PATTERN stream reads back (R202): the number of the draw. -/
opaque patternEcc : Nat → Ecc

/-- What ECC finds in the handle that a pop reads, and in a record that leaves a trace buffer (R578, R579): the number of
the draw. -/
opaque handleEcc : Nat → Ecc
opaque traceEcc : Nat → Ecc
/-- The AER status bits of a PCIe error that ends an access of a ring (R575): the number of the draw. The requester ID of a
function, whose bus and device numbers the host assigns. -/
opaque aerStatus : Nat → BitVec 32
opaque requesterId : Nat → BitVec 16
/-- Whether a COUNTER record is taken now, and of which counter: R588 and R591 give it no moment (log 60). The number of the
draw. -/
opaque counterDue : Nat → Option (BitVec 5)
/-- Whether a core reaches an address now (R594), whose code the manual does not give, with the task ID and the
instruction index that its BREAK then reports (R598 states neither for a core): the number of the draw, the core, the
address. -/
opaque coreReaches : Nat → Nat → BitVec 64 → Option (BitVec 16 × BitVec 32)

/-! ## Arithmetic the manual bounds but does not fix (log 10, 11) -/

/-- FP32 result of a transcendental of VTRANS on a finite non-special input, where it keeps the bound of 2 units of
the last place (R115). -/
opaque transc : Nat → W32 → W32
/-- The split of a reduction tree over n elements (R116): its shape depends on n alone. -/
opaque treeSplit : Nat → Nat
/-- The FP32 value of VACT EXT 4 to 6, within the bound of R115; the branch bit of a NaN (R125). -/
opaque gelu : Nat → W32 → W32
opaque branchBit : Nat → W32 → Bool
/-- f′(x′) on the branch given by the bit, within the bound of R126. -/
opaque geluDeriv : Nat → W32 → Bool → W32
/-- Whether MIN or MAX returns its first operand for zeros of both signs, and NaN for one NaN operand (R111). -/
opaque minMaxTie : Bool → W32 → W32 → Bool
/-- The order in which SIGN adds the magnitudes for its mean, which R123 does not state, and the mean of none. -/
opaque meanOrder : List W32 → List W32
opaque meanOfNone : W32

/-- SAMPLE_ID of a reduced tile (R376 gives its other fields): shard, round deadline. -/
opaque collectSample : Nat → Nat → Nat

/-- Whether a decode core pauses for its switch to new firmware (R614): the next work number, the core. -/
opaque coreSwitching : Nat → Nat → Bool

/-! ## Event counters (log 60) -/

/-- Whether two moments of one coincidence edge fall in the same array cycle (R592): the edge, the next work number. -/
opaque sameCycle : Nat → Nat → Bool
/-- The cycles that a tile form of the vector unit takes, which R112 bounds from below only: its work number (R590). -/
opaque vectorCycles : Nat → Nat

/-! ## Cryptography (log 8) -/

/-- Ed25519 and ML-DSA-65 verification: key pair, message, signature (R545). -/
opaque edVerify : List Byte → List Byte → List Byte → Bool
opaque mlVerify : List Byte → List Byte → List Byte → Bool
/-- The unique device secret (R540), the public keys of a secret, and signatures with one: secret, message (R541, R545). -/
opaque uds : List Byte
opaque edPublic : List Byte → List Byte
opaque mlPublic : List Byte → List Byte
opaque edSign : List Byte → List Byte → List Byte
opaque mlSign : List Byte → List Byte → List Byte
/-- SHA-384. -/
opaque sha384 : List Byte → List Byte
/-- AES-256-GCM of a link session: key, nonce, AAD, data; what is sealed ends with the 16-byte tag (R428). -/
opaque gcmSeal : List Byte → List Byte → List Byte → List Byte → List Byte
opaque gcmOpen : List Byte → List Byte → List Byte → List Byte → Option (List Byte)
/-- X25519 (RFC 7748): the public key of a secret, and the shared secret of a secret and a public key; ML-KEM-768
(FIPS 203): the encapsulation key of a secret, the ciphertext and shared secret of an encapsulation key and a secret, the
shared secret of a secret and a ciphertext; HKDF-SHA-384 (RFC 5869): salt, input, info, bytes (R429). -/
opaque x25519Public : List Byte → List Byte
opaque x25519 : List Byte → List Byte → List Byte
opaque mlkemKey : List Byte → List Byte
opaque mlkemEncap : List Byte → List Byte → List Byte × List Byte
opaque mlkemDecap : List Byte → List Byte → List Byte
opaque hkdf384 : List Byte → List Byte → List Byte → Nat → List Byte
/-- Whether the destination refused a packet that it acknowledged, a BULK write (R413) or a parameter copy (R384): no
packet says so. The number of the draw. -/
opaque farRefused : Nat → Bool
/-- The body of a TRAIN or HELLO message of a port, whose layout the manual does not give (R404): port, MSG. -/
opaque ctlBody : Nat → Nat → List Byte
/-- The additional data of a wrapped content key, which R555 does not state: image bytes 0 to 0x5F. -/
opaque wrapAad : List Byte → List Byte
/-- The identity keys of another device, and its two binding keys (X25519, then ML-KEM-768), as its certificate has them
(R542): device ID. -/
opaque identityPair : List Byte → List Byte
opaque bindPair : List Byte → List Byte
/-- The fuses of the root of trust (R540, R542): the key slots, 0 to 3 firmware and 4 the debug authority, each the hash of a
key pair, whether a slot is revoked, and the hashes of the manufacturing root's Ed25519 and ML-DSA-65 public keys. -/
opaque slotHash : Nat → List Byte
opaque slotRevoked : Nat → Bool
opaque rootHash : List (List Byte)
/-- The public pair that goes with a firmware image, of which the fuses hold the hash; the manual does not say where it
stands: the signed bytes. -/
opaque imageKey : List Byte → List Byte
/-- The fused slot a firmware image names and the version it bears, whose places in the image the
manual does not give: the signed bytes. -/
opaque imageSlot : List Byte → Nat
opaque imageVersion : List Byte → Nat
/-- The debug authority's public pair, of which a fused slot holds the hash. -/
opaque debugAuthority : List Byte
/-- The serial number, and the layouts that the manual does not give: a certificate of what R542 lists, the chain of the
root's hashes and the certificate, the bytes of a measurement of what R548 names, the image that a bank held when the
module was made: kind. The root's two signatures of a certificate's bytes. -/
opaque serial : List Byte
opaque certForm : List (List Byte) → List Byte
opaque chainForm : List (List Byte) → List Byte → List Byte
opaque measured : Nat → List (List Byte) → List Byte
opaque factoryImage : Nat → List Byte
opaque bootRom : List Byte
opaque rootEdSign : List Byte → List Byte
opaque rootMlSign : List Byte → List Byte
/-- A partition's data key and integrity key as the DRBG gives them: the key generation (R550). -/
opaque partKeys : Nat → List Byte
/-- SPDM replies that standards outside the manual lay out (R548): request code, request, the content
the manual names. Whether a request asks for a signature; the transcript hash after a reply. -/
opaque spdmReply : Nat → List Byte → List Byte → List Byte
opaque spdmSigns : Nat → List Byte → Bool
opaque spdmTranscript : List Byte → List Byte → List Byte

/-- A byte that XTS gives under another key than the one that wrote its line (R173): the two key
keys, the byte's address, the 16 bytes that its block held. -/
opaque wrongKey : List Byte → List Byte → Nat → List Byte → Byte

/-! ## The request block of a security mailbox (R546 gives no layout) -/

opaque reqCode : List Byte → Nat
opaque reqPart : List Byte → Nat
/-- The i-th address of a request: record, image or token, then buffer or destination. -/
opaque reqAddr : Nat → List Byte → Nat
opaque reqLen : List Byte → Nat
/-- The target of an export: true for OWNER_KEM. -/
opaque reqOwner : List Byte → Bool
opaque reqNonce : List Byte → List Byte
/-- The kind of an ENROLL_KEY record, true for DEBUG, and its two public keys (R547). -/
opaque enrolDebug : List Byte → Bool
opaque enrolKeys : List Byte → List Byte

/-! ## Fused and measured figures of one part (log 14) -/

opaque vMinFused : Nat → Nat
opaque vMaxFused : Nat → Nat
opaque vEol : Nat → Nat
/-- How long the boot ROM takes, in ticks (R602 bounds it), and the strap of SLOT_ID (R642): the draw's number. -/
opaque bootTicks : Nat → Nat
opaque slotStrap : Nat → BitVec 4
/-- The slack target of a die kind, numbered as the firmware image kinds (R534). -/
opaque slackTarget : Nat → Int
/-- The baseline of a die, fused beside its Almanac records (R533). -/
opaque baseline : Nat → List Byte
opaque floorWatts : Nat → Nat
/-- Whether a condition of a protective trip holds at a check (R524): the draw's number. -/
opaque tripHolds : Nat → Bool
opaque stepping : BitVec 8
opaque macAddr : Nat → BitVec 48

/-- The BAR4 size the host has set for a function, above 1 GiB as a power of two (R482): function. -/
opaque bar4Size : Nat → Nat

/-- Whether half a tick of an odd difference counts up (R261 states no rounding): the difference. -/
opaque halfUp : Int → Bool

/-- Whether two reduce writes for one line that follow one another meet in the queues of a router (R159): the number
of the draw. -/
opaque routersMeet : Nat → Bool

/-- Which of the two tier dies at a media die's own end takes its landing by default (R25). -/
opaque landHigh : Nat → Bool

/-- The codewords that FEC has corrected on a link by the time of a segment that arrives (R578, R635; no row brings their
number): the draw's number. -/
opaque fecCorrected : Nat → Nat

/-! ## Ingest (log 9) -/

/-- What decoding makes of a stream, by media die, slot and how many streams the slot has opened (R457, R461, R465):
the sample of component c of picture n at a luma position x, y (R461 takes chroma there and states no upsampling);
whether a damaged picture's region there is replaced (R460); the audio samples of a channel from a presentation time
on, by rate in kHz; the power in a hop of a mel bin, by the number of bins (media die, slot, stream, channel, rate or bins,
presentation time, then place); the captions of a presentation time and a
span in 27 MHz units: their own time, kind, bitmap width and height, text or bitmap. -/
opaque picSample : Nat → Nat → Nat → Nat → Nat → Nat → Nat → Nat
opaque lostAt : Nat → Nat → Nat → Nat → Nat → Nat → Bool
opaque pcm : List Nat → Nat → W32
opaque melPower : List Nat → Nat → Nat → W32
opaque captions : Nat → Nat → Nat → Nat → Nat → List (Nat × Nat × Nat × Nat × List Byte)
/-- The order of the additions of a weighted sum of R461, and whether each product is rounded before it is added; the
logarithm of R465, whose base is not given; whether a part of an audio sample or hop at the end of a span counts. -/
opaque shapeOrder : List (W32 × W32) → List (W32 × W32)
opaque shapeFused : Bool
opaque melLog : W32 → W32
opaque partCounts : Bool
/-- The decode core of a slot (R457 states no choice): media die, slot. -/
opaque coreOf : Nat → Nat → Nat
/-- Which free place of a tier die a media die opens (R444, R467 state none): moment. -/
opaque placePick : Nat → Nat
/-- The device virtual address by which a media die names a place in the tier: partition, physical
address. The manual gives no such mapping. -/
opaque tierVa : Nat → Nat → BitVec 57

end Sys2Proof.Config
end

