-- ==== Sys2Proof/Machine/State.lean ====
section
/-! DEFINITION. Everything the manual gives the module, as plain data, in the groups of its
chapters; the reasons a step can stop; and the module right after reset. A Sparse table lists
only the items that differ from their idle value. -/

namespace Sys2Proof.Machine

/-! ## Reasons a step can stop -/

/-- The module has no stop of its own in this model: every refused access is an error response
and every machine fault an entry of the fault logs (R568, R570). The one constructor is never
answered by a meaning. Safe: a stop that no step makes rules nothing out. -/
inductive Fault where
  | unreachable
  deriving DecidableEq, Repr

/-- Why a command is not carried out. -/
inductive Refusal where
  /-- Raised by Dispatch for a row with no meaning. Safe: the machine stops. -/
  | notModelled (mnemonic : String)
  deriving DecidableEq, Repr

/-! ## Faults and the fault logs (chapter 18) -/

/-- A fault entry (R574). -/
structure FEntry where
  kind : Byte := 0
  index : Byte := 0
  typ : Byte := 0
  part : Option Nat := none
  reason : Byte := 0
  task : Option Nat := none
  poison : Bool := false
  va : Bool := false
  addr : W64 := 0
  time : W64 := 0
  info : W64 := 0
  deriving DecidableEq, Repr

/-- One fault log (R571); `corrMark` is FLT_CORR at the start of the running second, `stormAt` the second's end that was judged
last (R580). `early`: the earliest entry by TIME
since a program of its partition started, with the COUNT it was given and its reason (R577). -/
structure FLog where
  first : FEntry := {}
  last : FEntry := {}
  count : Nat := 0
  corr : Nat := 0
  corrMark : Nat := 0
  stormAt : Nat := 0
  early : Option (Nat × Byte × W64) := none
  deriving DecidableEq, Repr

/-! ## Time (chapter 08) -/

/-- The synchronisation states of R264. -/
inductive SyncState where
  | freerun | acquire | locked | holdover
  deriving DecidableEq, Repr

/-- The measurement in progress (R261, R415). -/
structure Meas where
  num : W32
  t1 : W64
  t2 : Option W64
  t4 : W64
  deriving DecidableEq, Repr

/-- The time base on HS. `now` is the model's own count of fabric ticks since power-on, for
durations; it is no register. `load`: the load that the next edge applies, `loadAcq`: it is the acquisition load (R249).
`steer`: the steps outstanding towards an upstream or the 1PPS input, `steerRef`: those towards the 10 MHz input (R262,
R266). `extGood`, `refGood`: since when the 1PPS and the 10 MHz input are valid, 0 while they are not; `ppsLast`, `refLast`:
when they last were (R267). `ref10m`: the count at the first comparison and the input cycles since (R266). `ppsSent`:
the 1PPS output has had its edge for this count (R268). -/
structure Clk where
  now : Nat
  running : Bool
  sid : W64
  incr : Nat
  load : Option W64
  steer : Int
  lastStep : Option Nat
  sync : SyncState
  acqDone : Bool
  good : Nat
  bad : Nat
  meas : Option Meas
  measNum : W32
  lastMeas : Nat
  offset : Int
  refused : Bool
  extGood : Nat
  loadAcq : Bool := false
  steerRef : Int := 0
  refGood : Nat := 0
  ppsLast : Nat := 0
  refLast : Nat := 0
  ref10m : Option (W64 × Nat) := none
  ppsSent : Bool := false
  delay : Int := 0
  deriving DecidableEq, Repr

/-! ## Memory (chapters 01, 06) -/

/-- One line of a DRAM data region: the key generation that tagged it (0: the module's own),
whether its scrub marker is set (R560, R605), whether it is held poisoned (R581). -/
structure Line where
  key : Nat
  marked : Bool
  poison : Bool
  deriving DecidableEq, Repr

/-- All bytes by physical address, the DRAM lines by line number of the LOCAL or tier address,
the poisoned 64 B sectors of on-die memories, and the encoded tiles of KEEP windows (R355). -/
structure Mem where
  cells : List Host.Cell
  lines : Sparse Line
  poison : Sparse Bool
  keep : Sparse (List Byte)
  deriving DecidableEq, Repr

/-- Region states (R189). -/
inductive RState where
  | free | filling | sealed | released
  deriving DecidableEq, Repr

/-- Who owns a region or an operation on one (R189). -/
inductive Owner where
  | driver (part : Nat)
  | task (t : Nat)
  | media (d : Nat)
  | gather (d : Nat)
  deriving DecidableEq, Repr

/-- A region entry (R187, R189); base and size in 2 MiB units. -/
structure Region where
  st : RState := .free
  base : Nat := 0
  size : Nat := 0
  part : Nat := 0
  owner : Owner := .driver 0
  d : Nat := 0
  done : Nat := 0
  sealTime : W64 := 0
  deriving DecidableEq, Repr

/-- A region operation on its way to the region controller (R191). -/
inductive RegOp where
  | opn (base size : Nat)
  | seal (d : Nat)
  | abandon
  | done
  | release
  | reclaim
  deriving DecidableEq, Repr

/-- One waiting region operation: issuer, region entry, ordering condition (R192, R193), the
counter an OPEN fills (R318), the signal of its instruction, or the command it serves. -/
structure RegReq where
  id : Nat
  op : RegOp
  who : Owner
  part : Nat
  entry : Nat
  va : Bool
  deps : List Nat
  result : Option (Nat × Nat)
  word : Option LviWord
  cmd : Option (Nat × Nat)
  idx : Nat := 0
  deriving DecidableEq, Repr

/-! ## Sync files and handle queues (chapters 07, 09) -/

/-- A sync object (R278, R281) with its declared signallers (R276). -/
structure SyncObj where
  alloc : Bool := false
  counter : Bool := false
  external : Bool := false
  value : W32 := 0
  target : W32 := 0
  part : Nat := 0
  signallers : List Nat := []
  bad : Option W64 := none
  deriving DecidableEq, Repr

/-- Whose operation an operation on its way is, for its fault and its end: a task's, a ring command's, or a
CHAIN stage's (partition, 8 × CHAIN + stage). -/
inductive Issuer where
  | nobody
  | task (t : Nat)
  | cmd (sq tag : Nat)
  | stage (k n : Nat)
  deriving DecidableEq, Repr

/-- A sync operation on its way to the port (R652): `deps` are the works whose writes must be
visible first (R163), `behind` the operations that must have gone: those of the descriptors before its own in a
merged transfer (R215). -/
inductive SyncKind where
  | arm (target : W32) (reset : Bool)
  | clear
  | sig (count : W32)
  deriving DecidableEq, Repr

structure SyncOp where
  id : Nat
  src : Nat
  obj : Nat
  kind : SyncKind
  deps : List Nat
  idx : Nat := 0
  by_ : Issuer := .nobody
  behind : List Nat := []
  deriving DecidableEq, Repr

/-- A handle (R223). `bad`: the syndrome of an uncorrected error in its word (R579). -/
structure Handle where
  addr : BitVec 57 := 0
  len : W32 := 0
  doneOnUse : Bool := false
  td : BitVec 2 := 0
  region : BitVec 13 := 0
  fin : Bool := false
  skip : Bool := false
  bad : Option W64 := none
  deriving DecidableEq, Repr

/-- A handle queue of 64 (R223, R224). -/
structure HQueue where
  alloc : Bool := false
  part : Nat := 0
  items : List Handle := []
  popCtr : Option Nat := none
  deriving DecidableEq, Repr

/-- A push or a pop on its way to the queue (R228, R652). `desc` names the waiting descriptor of a POP_SRC pop; a pop
without one is an HQ.POP, whose instruction stands in `word`. -/
structure HqOp where
  id : Nat
  src : Nat
  queue : Nat
  push : Option Handle
  deps : List Nat
  holds : Bool
  desc : Option Nat
  word : Option LviWord
  idx : Nat := 0
  by_ : Issuer := .nobody
  deriving DecidableEq, Repr

/-! ## Engines (chapters 02 to 04) -/

/-- The miss kinds of R132. -/
inductive Miss where
  | wait | emptyQueue | datum | leave | busy
  deriving DecidableEq, Repr

/-- The life of a task in a context (R132, R138, R275). -/
inductive CtxSt where
  | empty | ready | missed (k : Miss) | ended | finished | faulted
  deriving DecidableEq, Repr

/-- An accepted Transit instruction: rounded launch time, and the leave reserved (R251, R254). -/
structure Accepted where
  launch : W64
  word : LviWord
  resv : Option (Nat × Nat)
  deriving DecidableEq, Repr

/-- An open hardware loop (R129, R315): its counter, its first instruction and the one after
its last. -/
structure LoopFrame where
  n : Nat
  start : Nat
  stop : Nat
  deriving DecidableEq, Repr

/-- A task context (R127). `pop`: an HQ.POP on its way to the sync-file port (R652), by the number of its operation, and
whether it is that of a Transit at its dispatch; `launched`: that pop found nothing, and the instruction repeats it (R133)
without a second acceptance. -/
structure Ctx where
  st : CtxSt := .empty
  part : Nat := 0
  stream : List LviWord := []
  pc : Nat := 0
  ctr : Sparse W32 := []
  pred : BitVec 8 := 0
  lcnt : Sparse W32 := []
  loops : List LoopFrame := []
  lt : W64 := 0
  waitSince : Option Nat := none
  accepted : Option Accepted := none
  leaveReq : Option Nat := none
  skip : Nat := 0
  dqLevel : List Nat := []
  dqWeight : List Nat := []
  flog : Option (BitVec 16 × Byte × W64) := none
  hitPast : Bool := false
  pop : Option (Nat × Bool) := none
  launched : Bool := false
  deriving DecidableEq, Repr

/-- One accumulator slot of one cell (R45, R46). -/
structure Cell where
  acc : Int := 0
  nan : Bool := false
  pinf : Bool := false
  ninf : Bool := false
  deriving DecidableEq, Repr

/-- Gang shapes (R81); `dot` is the compatibility gang (R103). -/
inductive Shape where
  | s32 | s64 | s128x64 | s64x128 | dot
  deriving DecidableEq, Repr

/-- Where a drain goes (R96). -/
inductive DrainTo where
  | pad (off : Nat)
  | add (off : Nat)
  | va (a : W64)
  | exch
  deriving DecidableEq, Repr

/-- A shard entry (R361). -/
structure Shard where
  kind : Nat
  parts : Nat
  part1k : Nat
  ownerModule : Nat
  ownerEngine : Nat
  normSet : Nat
  expect : Nat
  buf : Nat
  paramVa : W64
  listVa : W64
  listCount : Nat
  arriveDie : Nat
  arriveEn : Bool
  arriveObj : Nat
  deriving DecidableEq, Repr

/-- A drain of one slot of a gang, from its request to its header write (R90 to R98, R322).
`done`: the steps of a split reduction before its part, so that it adds into a tile of an earlier part (R59).
`cw`: it ends with the conversion of the CW tile there, `conv` once that runs (R324). `of_`: the pass whose result it
drains, none where the slot held a retired one as it was asked for. `after`: the valid steps that the gang had issued
before the request, as pass, part and number (R92). -/
structure Drain where
  id : Nat
  task : Nat
  slot : Nat
  fmt : Nat
  sr : Bool
  cols : Bool
  dest : DrainTo
  word : LviWord
  idx : Nat := 0
  rows : Sparse Nat := []
  maxExp : Option Int := none
  nf : Nat := 0
  ovf : Bool := false
  exchRec : List Byte := []
  deadline : W64 := 0
  vals : Sparse W32 := []
  cw : Option Nat := none
  conv : Bool := false
  of_ : Option Nat := none
  after : List (Nat × Nat × Nat) := []
  shard : Option Shard := none
  done : Nat := 0
  deriving DecidableEq, Repr

/-- The life of a pass (R62, R63, R82, R135). -/
inductive PassSt where
  | waitGang | running | overflowed | retired
  deriving DecidableEq, Repr

/-- A pass of a gang (R81, R83, R319 to R324, R327). `k` is the length of the part that runs,
`rest` the steps still to split off, `done` those of earlier parts; its runs begin `aSkip` and
`bSkip` steps into the tiles at `aOff` and `bOff`. `read`: the most steps read by any run of it, for
its pins (R135). `asked`: an OPX.DRAIN names its slot already. `likeA`, `likeB`: the FORMAT and ORDER of the first
tile of each run, for the parts after the first (R310). -/
structure Pass where
  id : Nat
  task : Nat
  word : LviWord
  idx : Nat := 0
  shape : Shape
  base : Nat
  slot : Nat
  st : PassSt
  k : Nat
  rest : Nat
  done : Nat
  t : Nat
  aOff : Nat
  bOff : Nat
  tight : Bool
  drain : Option Drain
  m : Option Int
  injected : Nat
  retired : Sparse Nat
  replays : Nat
  maxReplays : Nat
  sat : Bool
  satAny : Bool
  faulted : Bool
  leave : Nat
  cw : Nat := 0
  aSkip : Nat := 0
  bSkip : Nat := 0
  read : Nat := 0
  asked : Bool := false
  epoch : BitVec 16 := 0
  sample : W64 := 0
  likeA : Option (Nat × Bool) := none
  likeB : Option (Nat × Bool) := none
  deriving DecidableEq, Repr

/-- What a gang slot holds (R46, R91, R98). -/
structure SlotInfo where
  full : Bool := false
  drained : Bool := false
  draining : Bool := false
  m : Int := 0
  replays : Nat := 0
  sat : Bool := false
  epoch : BitVec 16 := 0
  sample : W64 := 0
  t : Nat := 32
  deriving DecidableEq, Repr

/-- A gang (R81 to R83): its passes in order, its drains, its two slots, the last final M
(R53), whether its next pass uses slot 1. -/
structure Gang where
  base : Nat
  shape : Shape
  passes : List Pass
  drains : List Drain
  slots : Sparse SlotInfo
  lastM : Option Int
  nextSlot : Nat
  deriving DecidableEq, Repr

/-- What a vector instruction in flight will write when it completes (R114, R328 to R333). `bytes`, `poisoned`: the
tile that a multicast read once at its source (R153). -/
structure VOp where
  id : Nat
  task : Nat
  word : LviWord
  args : List Nat
  leave : Nat
  bytes : List Byte := []
  poisoned : Bool := false
  deriving DecidableEq, Repr

/-- A run of descriptors issued by a MOVE or a DMA command (R316, R317, R499). `idx`: the index of its MOVE (R575). -/
structure Run where
  id : Nat
  task : Option Nat
  cmd : Option (Nat × Nat)
  section_ : Option Nat
  base : W64
  next : Nat
  left : Nat
  soff : W32
  doff : W32
  hint : Nat
  prefetch : Bool
  word : Option LviWord
  stage : Option (Nat × Nat)
  grant : Nat := 0
  idx : Nat := 0
  deriving DecidableEq, Repr

/-- A fetched descriptor that has not started (R210, R213, R238). -/
structure Desc where
  id : Nat
  run : Nat
  bytes : List Byte
  at_ : Nat
  popped : Option Handle
  popSent : Bool
  forced : Bool
  leaveId : Option Nat := none
  deriving DecidableEq, Repr

/-- The path a transfer is on (R195). -/
inductive XMode where
  | primary | shadow | skip
  deriving DecidableEq, Repr

/-- A transfer in flight (R205, R206, R209, R216): the descriptors merged into it, the source
header of a TILE, the pieces of the destination that lie in the own scratchpad (offset in the destination,
offset in the scratchpad, bytes), bytes landed of the total (of a TILE: past the header; the rest of the
header line, `head`, counts from the start and is written with it), the bytes read and not yet written
(`buf`), whether the header line is sent, and how it ended. -/
structure Xfer where
  id : Nat
  q : Nat
  descs : List Desc
  task : Option Nat
  src : W64
  dst : W64
  total : Nat
  landed : Nat
  tile : Bool
  hdr : List Byte
  pad : List (Nat × Nat × Nat)
  mode : XMode
  leave : Nat
  buf : List Byte
  poisoned : Bool
  ended : Option Byte
  acks : Nat
  late : Bool
  headed : Bool := false
  head : List Byte := []
  headBad : Bool := false
  deriving DecidableEq, Repr

/-- A DMA queue of an engine (R218 to R220). -/
structure DmaQ where
  runs : List Run := []
  fetched : List Desc := []
  late : Nat := 0
  fallback : Nat := 0
  skip : Nat := 0
  deriving DecidableEq, Repr

/-- An engine is running, halting or halted (R595). -/
inductive HaltSt where
  | running | halting | halted
  deriving DecidableEq, Repr

/-- An armed BREAK (R593, R594, R598). -/
structure Brk where
  sq : Nat
  tag : Nat
  core : Bool
  target : Nat
  task : Nat
  index : Nat
  va : W64
  skip : Nat
  whole : Bool
  result : W64
  hit : Option (Nat × Nat × W64)
  deriving DecidableEq, Repr

/-- A DISPATCH ticket (R421, R427). -/
structure Ticket where
  task : Nat
  word : LviWord
  dest : Nat
  rows : Nat
  cols : Nat
  left : Nat
  dropped : Nat
  deriving DecidableEq, Repr

/-- An event counter (R590). -/
structure ECnt where
  value : Nat := 0
  sat : Bool := false
  deriving DecidableEq, Repr

/-- An engine. Cells by ((8 × slot + Asterism) × 1,024 + 32 × row + column); vector lanes by
256 × register + lane. `mags`: M of slots whose gang has ended, by 8 × slot + Asterism (R48). `sel`: the active context has
been selected and has not missed since (R133). `weights`: the two weight registers of the cells, by number (R105). `cleared`: the
moment of the last RESET_ON_START clear and the counters that it cleared, as they were before (R592). `haltAt`:
when the halt of another engine's hit or a HALT of the whole partition reached it (R595, R598). -/
structure Engine where
  ctx : Sparse Ctx := []
  active : Nat := 0
  last : Option Nat := none
  halt : HaltSt := .running
  breaks : List Brk := []
  vreg : Sparse W32 := []
  gangs : List Gang := []
  forming : List Pass := []
  cells : Sparse Cell := []
  vops : List VOp := []
  dq : Sparse DmaQ := []
  xfers : List Xfer := []
  tickets : Sparse Ticket := []
  staging : Nat := 0
  trace : List (BitVec 128) := []
  traceLost : Nat := 0
  timebase : Option (BitVec 16) := none
  ecnt : Sparse ECnt := []
  shadow : Sparse W64 := []
  mags : Sparse Int := []
  sel : Bool := true
  weights : Sparse (List Nat) := []
  cleared : Option (Nat × Sparse ECnt) := none
  haltAt : Option Nat := none
  deriving DecidableEq, Repr

/-! ## Programs and CHAINs (chapter 09) -/

/-- A CHAIN stage record (R276, R319). -/
structure StageRec where
  kind : Nat
  place : Nat
  pool : Nat
  bytes : Nat
  tmpl : Nat
  deriving DecidableEq, Repr

/-- A CHAIN of the program with the queues before (FULL) and after (FREE) each boundary. -/
structure ChainRec where
  completion : Nat
  stages : List StageRec
  full : List Nat
  free : List Nat
  deriving DecidableEq, Repr

/-- A running CHAIN (R233 to R237): per stage, the handles it holds and whether it ended. -/
structure StageSt where
  inp : Option Handle
  out : Option Handle
  busy : Bool
  fin : Bool
  stopped : Bool
  deriving DecidableEq, Repr

structure ChainRt where
  rec_ : Nat
  stages : List StageSt
  cmd : Option (Nat × Nat)
  stopped : Bool
  flog : Option (BitVec 16 × Byte × W64)
  deriving DecidableEq, Repr

/-- A resolved remote-signal slot (R286, R287). -/
structure RSlot where
  pod : W32
  count : Nat
  deriving DecidableEq, Repr

/-- A TASK record (R276). -/
structure TaskRec where
  section_ : Nat
  rdie : Nat
  eng : Nat
  ctx : Nat
  levels : List Nat
  weights : List Nat
  deriving DecidableEq, Repr

/-- A loaded program (R289). -/
structure Program where
  bytes : List Byte
  major : Nat
  minor : Nat
  id : W64
  tasks : List TaskRec
  taskIds : List Nat
  descs : Sparse (List Byte)
  consts : Sparse (List Byte)
  slots : List RSlot
  chains : List ChainRec
  mcast : List (List (Nat × Bool × Nat))
  keepQuota : W64
  placed : List (Nat × Nat)
  started : Bool
  finished : Bool
  cmd : Option (Nat × Nat)
  partial_ : Bool
  sat : Bool
  flog : Option (BitVec 16 × Byte × W64)
  deriving DecidableEq, Repr

/-! ## Rings and commands (chapter 15) -/

/-- A completion or stream-event entry that waits to be written (R486, R492). `own`: a command of
the ring holds its TAG until then. -/
structure CqEntry where
  own : Bool
  tag : BitVec 16
  half : BitVec 16
  event : Bool
  status : BitVec 4
  reason : Byte
  flog : BitVec 16
  time : W64
  deriving DecidableEq, Repr

/-- A ring pair's moving state (R485 to R494); its set-up is in BAR0. `cqBell`: an invalid CQ head recorded while doorbells
are not acted on (R515). `deficit`: the entries that the SQ may still fetch in its turn (R489). -/
structure Ring where
  head : Nat := 0
  tail : Nat := 0
  reason : Byte := 0
  cqHead : Nat := 0
  cqTail : Nat := 0
  cqPhase : Bool := true
  cqReason : Byte := 0
  waiting : List CqEntry := []
  evLost : Nat := 0
  since : Nat := 0
  oldest : Option Nat := none
  cqBell : Option Nat := none
  deficit : Nat := 0
  deriving DecidableEq, Repr

/-- The life of a fetched command (R491, R502, R504); `granted` is the time of an ABORT's grant. -/
inductive CmdSt where
  | waiting | accepted (launch : W64) (resv : Option (Nat × Nat)) | started | aborting (granted : W64) | retired
  deriving DecidableEq, Repr

/-- A fetched, incomplete command: its 64-byte entry, its place in fetch order, its partition
(none on a module ring), the works it waits for, and the worst status so far (R508). -/
structure Cmd where
  sq : Nat
  tag : Nat
  seq : Nat
  op : Nat
  fence : Bool
  entry : List Byte
  part : Option Nat
  func : Nat
  st : CmdSt
  works : List Nat
  fallback : Bool
  fault : Option (BitVec 16 × Byte)
  /-- A counter or accumulator saturated (R64, R158). -/
  sat : Bool := false
  deriving DecidableEq, Repr

/-- A gather run with its 320-byte record (R200 to R203, R501). -/
structure Gather where
  id : Nat := 0
  busy : Bool := false
  fault : Bool := false
  sq : Nat := 0
  tag : Nat := 0
  region : Option Nat := none
  sealD : Nat := 0
  failures : Nat := 0
  failing : List W64 := []
  stop : Option Byte := none
  result : W64 := 0
  record : List Byte := []
  deriving DecidableEq, Repr

/-! ## Partitions (chapters 15, 17) -/

/-- Scrub phases (R559). -/
inductive ScrubPh where
  | quiesce | streams | overwrite
  deriving DecidableEq, Repr

/-- A running scrub: its command, its phase, the memories whose overwrite has been asked for and has not
ended (units 0 to 15 stacks, 16 to 19 tier dies), and the first line that could not be written (R560). -/
structure Scrub where
  sq : Nat
  tag : Nat
  phase : ScrubPh
  going : List Nat
  failed : Bool
  flog : BitVec 16
  deriving DecidableEq, Repr

/-- A placed sample not yet drawn (R467 to R470). -/
structure Sample where
  addr : W64
  len : Nat
  td : Nat
  region : Nat
  isSealed : Bool
  deriving DecidableEq, Repr

/-- A filling shuffle segment of one media die (R467). -/
structure ShufSeg where
  td : Nat
  region : Nat
  va : W64
  fill : Nat
  count : Nat
  deriving DecidableEq, Repr

/-- A partition's own state. `enrolled`: its keys in order, true for DEBUG (R547); `ownerKem`: PROGRAM_KEY
and OWNER_KEM of the last bound image (R558). -/
structure PartSt where
  reason : Byte := 0
  keyGen : Option Nat := none
  prog : Option Program := none
  everLoaded : Bool := false
  chains : List ChainRt := []
  activeMap : Nat := 0
  phaseAsk : List (Nat × Nat × Nat × Nat) := []
  staleRound : Nat := 0
  conflict : Nat := 0
  epochDrop : Nat := 0
  tokenDrop : Nat := 0
  integrity : Nat := 0
  enrolled : List (Bool × List Byte) := []
  boundSet : List (List Byte) := []
  ownerKem : List Byte := []
  boundNow : Bool := false
  xlat : Sparse Nat := []
  samples : List Sample := []
  shuf : Sparse ShufSeg := []
  drawnSince : Bool := false
  rr : Nat := 0
  drawing : Bool := false
  scrub : Option Scrub := none
  traceHead : Nat := 0
  deriving DecidableEq, Repr

/-! ## Power (chapter 16) -/

/-- A leave request that waits (R528); level 8 is the scrub's precedence (R562). -/
structure LeaveReq where
  id : Nat
  level : Nat
  units : Nat
  deriving DecidableEq, Repr

/-- A governor: leave granted and reserved by work, and its queue, oldest first (R526, R528). -/
structure Gov where
  grants : Sparse Nat := []
  resv : Sparse Nat := []
  queue : List LeaveReq := []
  deriving DecidableEq, Repr

/-- Module states (R512). -/
inductive MState where
  | ms0 | ms1 | ms2 | ms3 | ms4
  deriving DecidableEq, Repr

/-- A running change (R513, R653, R654): scope 0 to 2, unit and target. -/
structure Walk where
  scope : Nat
  unit : Nat
  target : Nat
  deriving DecidableEq, Repr

/-- An Almanac record (R533). -/
structure Almanac where
  poh : W64
  mon : Byte
  worst : Int
  mean : Int
  vmv : Nat
  tj : Int
  plan : Nat
  flags : Byte
  deriving DecidableEq, Repr

/-- The power-management state. Commanded die and port states absent from their tables are 0
(DS0, ACTIVE). -/
structure Pwr where
  state : MState
  reason : Byte
  walk : Option Walk
  tripped : Bool
  twarn : Bool
  hot : List Nat
  dieCmd : Sparse Nat
  portCmd : Sparse Nat
  limit : Nat
  budget : Sparse Nat
  vmin : Sparse Nat
  vmax : Sparse Nat
  refMax : Sparse Nat
  floors : Sparse Nat
  input : Nat × Nat × Nat
  govs : Sparse Gov
  rail : Sparse Nat
  almanac : Sparse (List Almanac)
  refresh : Sparse Nat
  deriving DecidableEq, Repr

/-! ## Hub, firmware and service (chapter 19) -/

/-- A service slot (R613, R626). -/
structure Svc where
  busy : Bool := false
  done : Bool := false
  reason : Byte := 0
  op : Nat := 0
  kind : Nat := 0
  index : Nat := 0
  deriving DecidableEq, Repr

/-- One image kind of the firmware store (R608 to R611): the version in each bank, the active
bank, the bank and version of the running image, whether the inactive bank waits to become active, the
units of the kind that FW_ACTIVATE has brought to it, the fused minimum, the image that STAGE has put into each bank (none:
the one it was made with). -/
structure FwKind where
  verA : Nat := 0
  verB : Nat := 0
  okA : Bool := true
  okB : Bool := false
  activeB : Bool := false
  runningB : Bool := false
  runVer : Nat := 0
  staged : Bool := false
  moved : List Nat := []
  fused : Nat := 0
  imgA : Option (List Byte) := none
  imgB : Option (List Byte) := none
  deriving DecidableEq, Repr

/-- HN and the host port. `poh`: powered-on time before the input last rose, at `pohAt` (R533). -/
structure Hub where
  input : Bool
  booted : Bool
  perst : Bool
  pcie : Option (Nat × Nat)
  recovery : Bool
  idSet : Bool
  reason : Byte
  bootFail : Option (Nat × Byte)
  fw : Sparse FwKind
  fwReason : Byte
  fwBusy : Bool
  svc : Sparse Svc
  nowHigh : Sparse (Option W32)
  masked : Sparse Bool
  msixPend : Sparse Bool
  rails : Sparse W32
  poh : Nat
  pohAt : Nat
  /-- When the boot ROM is done (R602). -/
  bootAt : Nat := 0
  /-- The carrier's strap, as read when the auxiliary rails rose (R642). -/
  slotId : BitVec 4 := 0
  /-- The SQ that fetched last (R489). -/
  sqTurn : Nat := 0
  deriving DecidableEq, Repr

/-! ## Security (chapter 17) -/

/-- A debug unlock (R565 to R567): part is none for module scope. -/
structure Unlock where
  part : Option Nat
  ends : Nat
  func : Nat
  deriving DecidableEq, Repr

/-- A security mailbox (R546, R632) with its live nonce (R565). -/
structure Mbox where
  reason : Byte := 0
  busy : Bool := false
  done : Bool := false
  nonce : Option (Nat × Nat) := none
  deriving DecidableEq, Repr

structure Sec where
  mbox : Sparse Mbox
  unlocks : List Unlock
  keys : Nat
  moduleKey : Nat
  spdmLast : Option (List Byte)
  deriving DecidableEq, Repr

/-! ## Links (chapter 13) -/

/-- Port states (R394). -/
inductive PSt where
  | down | training | hello | keying | up
  deriving DecidableEq, Repr

/-- A packet that waits to be sent, the works it is ordered after (R163, R414), its task, the works it belongs to, and
whether they end only once the partner has acknowledged it. -/
structure TxPkt where
  pkt : Packet
  deps : List Nat
  task : Option Nat
  works : List Nat
  acked : Bool := false
  deriving DecidableEq, Repr

/-- A flit on the wire: its VC, its FSEQ, its 256 bytes in four segments (R399), and the map its packet
was routed under (R419). The last flit of a packet bears what the packet does for this module: its type, ARG and
ADDR, its task and works, and whether those last until the partner has acknowledged it (R304, R384, R426). -/
structure Flit where
  vc : Nat
  fseq : Nat
  map : Nat
  bytes : List Byte
  head : Nat := 0
  typ : Nat := 0
  arg : Nat := 0
  addr : Nat := 0
  task : Option Nat := none
  works : List Nat := []
  acked : Bool := false
  deriving DecidableEq, Repr

/-- The session keys of a port: those of the direction it sends in and of the one it receives in, with the salts of
their nonces (R428, R429). -/
structure SessKey where
  tx : List Byte := []
  rx : List Byte := []
  saltTx : List Byte := []
  saltRx : List Byte := []
  deriving DecidableEq, Repr

/-- A flit being sent: the next INDEX (R399, R407). -/
structure FlitTx where
  flit : Flit
  idx : Nat
  deriving DecidableEq, Repr

/-- A link port (chapter 13). `rxSegs`: flits begun, as VC, FSEQ and bytes; a whole one stays until
every earlier flit is whole. `rxFseq`: the FSEQ of the next new flit. `nak`: a NAK to send, `nakWait`:
the flit whose resending the receiver waits for. `key`: the session keys, `prevKey` those before a rekey until they
are erased (R430). `eph`: the ephemeral secrets of a key agreement (R429). `fragTx`: the next fragment of the message
that CTL segments carry; `rxMsg`: a message received so far, as MSG, next fragment and bytes (R404). `rxStamp`: when
the first segment of the last VC0 flit entered; `stamps`: the same by PSEQ for the time packets that wait in `rxq`
(R415). -/
structure LPort where
  st : PSt := .down
  reason : Byte := 0
  quiesced : Bool := false
  since : Nat := 0
  rate : Nat := 0
  width : Nat := 0
  fec : Nat := 0
  version : Nat := 0
  keyphase : Bool := false
  partner : BitVec 14 := 0
  peer : List Byte := []
  peerSwitch : Bool := false
  rekeying : Bool := false
  key : SessKey := {}
  prevKey : Option SessKey := none
  eph : List Byte := []
  fragTx : Nat := 0
  rxMsg : Nat × Nat × List Byte := (0, 0, [])
  rxStamp : W64 := 0
  stamps : List (W64 × W64) := []
  pseqTx : W64 := 0
  pseqHi : W64 := 0
  seen : List W64 := []
  txq : List TxPkt := []
  flits : List Flit := []
  sending : List FlitTx := []
  unacked : List Flit := []
  resend : List Flit := []
  nextFseq : Nat := 0
  creditTx : Sparse Nat := []
  creditDue : Sparse Nat := []
  deficit : Sparse Nat := []
  bucket : Nat := 64
  slotCount : Nat := 0
  slots8 : Nat := 0
  rxFseq : Nat := 0
  rxSegs : List (Nat × Nat × List Byte) := []
  rxFlits : Sparse (List (List Byte)) := []
  rxq : List Packet := []
  nak : Option Nat := none
  nakWait : Option Nat := none
  nakCount : Nat := 0
  nakFseq : Nat := 0
  retries : Nat := 0
  corrected : Nat := 0
  bulkSince : Sparse Nat := []
  deriving DecidableEq, Repr

/-- An expert entry of a phase map (R416). -/
structure Expert where
  module : Nat
  engine : Nat
  capacity : Nat
  senders : Nat
  recv : Nat
  record : Nat
  gate : Nat
  endObj : Nat
  deriving DecidableEq, Repr

/-- A phase-map bank (R416, R419). -/
structure Bank where
  loaded : Bool := false
  fmt : Nat := 0
  rowElems : Nat := 0
  routes : List Byte := []
  experts : List Expert := []
  heldBy : List (Nat × Nat) := []
  deriving DecidableEq, Repr

/-- Round states of an expert (R423, R425, R426). -/
inductive XRound where
  | opn | complete | closing
  deriving DecidableEq, Repr

/-- The round of an expert. `held`: arrivals that wait for a round to reopen, with their port and the work and task of the
COMBINE they belong to (R425); `pinHeld`: those that wait for a pin (R136). -/
structure ExpRound where
  st : XRound := .opn
  fill : Nat := 0
  ends : Nat := 0
  maxExp : Nat := 0
  dropping : List (Nat × Nat × Nat × Nat) := []
  slotOf : List (Nat × Nat × Nat × Nat × Nat) := []
  held : List (Nat × Packet × Option (Nat × Nat)) := []
  pinHeld : List (Nat × Packet × Option (Nat × Nat)) := []
  combine : Option (Nat × Nat × LviWord × Nat) := none
  deriving DecidableEq, Repr

/-! ## Layouts and the exchange (chapter 12) -/

/-- A norm-set entry (R363). -/
structure NormSet where
  valid : Bool
  rootDie : Nat
  rootModule : Nat
  nexpect : Nat
  destVa : W64
  destCount : Nat
  deriving DecidableEq, Repr

/-- A layout (R360, R361), with the partition whose ring loaded it. -/
structure Layout where
  epoch : BitVec 16
  part : Nat
  norms : List NormSet
  shards : List (Option Shard)
  deriving DecidableEq, Repr

/-- A part of an owner's round (R374, R376). -/
structure RPart where
  reports : Nat := 0
  occulted : Nat := 0
  named : Nat := 0
  applied : Nat := 0
  deriving DecidableEq, Repr

/-- The owner's round of a shard (R372, R374). -/
structure Round where
  shard : Nat
  d : W64
  epoch : BitVec 16
  parts : Sparse RPart
  deriving DecidableEq, Repr

/-- A pre-round of a norm set at its root (R381). -/
structure PreRound where
  set : Nat
  d : W64
  epoch : BitVec 16
  sum : W32
  count : Nat
  occ : Nat
  deriving DecidableEq, Repr

/-- A kept norm result (R382). -/
structure NormRes where
  dn : W64
  sum : W32
  arrivals : Nat
  occ : Nat
  deriving DecidableEq, Repr

/-- A collect that waits for its round (R375, R378). -/
structure Collect where
  id : Nat
  task : Nat
  word : LviWord
  shard : Nat
  cd : Nat
  cc : Nat
  deriving DecidableEq, Repr

structure Xch where
  pending : Option Layout
  current : Option Layout
  previous : Option Layout
  advancing : Bool
  rounds : List Round
  pre : List PreRound
  results : Sparse (List NormRes)
  future : List (Nat × Packet × Nat)
  collects : List Collect
  params : List (Nat × Nat)
  deriving DecidableEq, Repr

/-! ## Ingest (chapter 14) -/

/-- Stream states (R452), coded as in stream events. -/
inductive SSt where
  | disabled | listening | opn | paused | draining | closed | error
  deriving DecidableEq, Repr

/-- A decoded picture: which stream of the slot, which picture of it, and what it signals (R459, R461). -/
structure Pic where
  gen : Nat
  n : Nat
  w : Nat
  h : Nat
  depth : Nat
  lowerFirst : Bool
  matrix : Nat
  full : Bool
  deriving DecidableEq, Repr

/-- An output frame (R459, R460). `part`: 0 the whole picture, 1 and 2 its first and second field, 3 and 4 the same at full
height. `hurt`: it is damaged; `good`: the last good output frame before it. -/
structure OutFrame where
  pic : Pic
  part : Nat
  pts : Nat
  dur : Nat
  hurt : Bool
  gap : Bool
  good : Option (Pic × Nat)
  deriving DecidableEq, Repr

/-- A sample produced and not yet placed (R462 to R464): its number, its stream, its frames, whether a gap lay within its
span, whether it is the last. -/
structure MadeSample where
  num : Nat
  id : W32
  frames : List OutFrame
  gap : Bool := false
  last : Bool
  deriving DecidableEq, Repr

/-- A stream slot (R439 to R468). `profile` is the copy taken at EN, `nextProfile` one taken while an earlier stream
drains; `segs`: landing regions that are not FREE, oldest first, with the bytes landed and decoded; `cur`: the FILLING
one, with its base in 2 MiB units and its bytes. `start`: START_SEQ; `next`: the next byte expected; `highest`: the highest
received plus 1; `lastAt`: the end a LAST datagram names; `ahead`: what waits past a hole, with its arrival; `hole`: the
first arrival among it. `resync`: bytes demux has searched for sync, with the last of them in `scan`. The CTRL_SEQ
of the message that is repeated stands in `pauseCtrl`, `resumeCtrl`, `closeCtrl`; a CLOSE keeps its own destination. `opens`:
streams opened; `pics`, `frames`, `cand`, `made`: pictures decoded, output frames, sample positions judged, samples
produced; `shown`: the output frames still needed, with their numbers; `lost`: a damaged picture may still be
referenced; `good`: the last good output frame. `taken`: landing bytes decoded; `gapAt`: where among the landing bytes
the gap records not yet decoded lie (R460). `refused`: the fields of the last OFFER refused with an open stream, the code and
the CTRL_SEQ of the answer (R442). A stream in ERROR whose bytes are still decoded when EN is cleared goes on under a slot
number of its own, 64 or more above (R448, log 69). -/
structure Strm where
  st : SSt := .disabled
  profile : List Byte := []
  nextProfile : Option (List Byte) := none
  reason : Byte := 0
  id : W32 := 0
  src : List Byte := []
  srcPort : BitVec 16 := 0
  offer : List Byte := []
  ctrlRx : Nat := 0
  ctrlTx : Nat := 0
  accept : List Byte := []
  acceptCtrl : Nat := 0
  rate : Nat := 0
  restart : Nat := 0
  seg : Nat := 0
  work : Nat := 0
  v : Nat := 0
  pool : Nat := 0
  segs : List (Nat × Nat × Nat) := []
  cur : Option (Nat × Nat × Nat) := none
  start : Nat := 0
  next : Nat := 0
  highest : Nat := 0
  lastAt : Option Nat := none
  hole : Option Nat := none
  ahead : List (Nat × List Byte × Nat) := []
  resync : Option Nat := none
  scan : List Byte := []
  pauseSpace : Bool := false
  pauseHost : Bool := false
  pauseScrub : Bool := false
  pauseSeq : Nat := 0
  limit : Nat := 0
  pausePl : List Byte := []
  pauseCtrl : Nat := 0
  resumeCtrl : Nat := 0
  lastTx : Nat := 0
  resumeAt : Option (Nat × Nat) := none
  final : Option Nat := none
  closeLeft : Nat := 0
  closePl : List Byte := []
  closeCtrl : Nat := 0
  closeId : W32 := 0
  closeTo : List Byte := []
  closePort : BitVec 16 := 0
  closeAt : Nat := 0
  window : Nat := 0
  windowAt : Nat := 0
  sinceData : Nat := 0
  undecoded : Nat := 0
  opens : Nat := 0
  pics : Nat := 0
  frames : Nat := 0
  cand : Nat := 0
  made : Nat := 0
  ready : List MadeSample := []
  shown : List (Nat × OutFrame) := []
  lost : Bool := false
  good : Option (Pic × Nat) := none
  taken : Nat := 0
  gapAt : List Nat := []
  refused : Option (List Byte × Byte × Nat) := none
  bytesLanded : Nat := 0
  bytesDropped : Nat := 0
  gapBytes : Nat := 0
  evDropped : Nat := 0
  smpDropped : Nat := 0
  deriving DecidableEq, Repr

/-- A media die: drop counters of MDn_NET_STAT, slots, and the leave of its decode cores. -/
structure MDie where
  frames : Nat := 0
  dgrams : Nat := 0
  isf : Nat := 0
  fec : Nat := 0
  slots : Sparse Strm := []
  coreLeave : Sparse Nat := []
  coreSince : Sparse Nat := []
  deriving DecidableEq, Repr

/-! ## What the module sends -/

/-- What has left the module, newest last: the model's own record of its outputs. -/
inductive Out where
  | msix (f vec : Nat)
  | aerUR (f : Nat)
  | readUR (f : Nat)
  | readCA (f : Nat)
  | readData (f : Nat) (bytes : List Byte) (ep : Bool)
  | poisonedTlp (a n : Nat)
  | coreFault (core addr : Nat) (wr : Bool)
  | regRead (f : Nat) (v : W64)
  | cfgRetry (f : Nat)
  | cfgAnswer (f : Nat)
  | segment (p : Nat) (tag : W32) (body : List Byte)
  | keyx (p : Nat) (bytes edSig mlSig : List Byte)
  | training (p : Nat) (c : Offering)
  | isf (d : Nat) (dest : List Byte) (destPort : BitVec 16) (udp : List Byte)
  | programId (sq tag : Nat) (id : W64)
  | sensors (inlet outlet : BitVec 16)
  | eventLabel (cq : Nat) (tag : BitVec 16) (label : List Byte)
  | icmp (d : Nat) (echo : Bool) (target : List Byte)
  | spdm (bytes : List Byte)
  | spdmSigned (bytes edSig : List Byte)
  | ppsEdge (sid : W64)
  | debugPort (bytes : List Byte)
  deriving DecidableEq, Repr

/-! ## The state -/

/-- A reduce write on its way to its slice: operation, the pieces of its destination as offset, address and
length, array elements, payload, and each write combined in it with its own payload (R156, R159). -/
structure RWrite where
  op : Nat
  pieces : List (Nat × Nat × Nat)
  n : Nat
  payload : List Byte
  poisoned : Bool
  who : List (Requester × Nat × List Byte)
  deriving DecidableEq, Repr

/-- A BULK packet not yet acknowledged: its partition and destination module, its transfer with engine, queue and task,
whether that is a PREFETCH one, the window address it writes and the one it names there. -/
structure BulkOut where
  part : Nat
  dst : Nat
  eng : Nat
  xfer : Nat
  addr : Nat
  q : Nat := 0
  pf : Bool := false
  task : Option Nat := none
  far : Nat := 0
  deriving DecidableEq, Repr

/-- The module but for its time base and its waiting commands. -/
structure Mod where
  /-- RW and RWL fields of BAR0 by offset; an absent word holds its reset value (R618 to R637). -/
  bar0 : Sparse W64
  hub : Hub
  pwr : Pwr
  sec : Sec
  logs : Sparse FLog
  mem : Mem
  regions : Sparse Region
  regQ : Sparse (List RegReq)
  gather : Sparse Gather
  rings : Sparse Ring
  cmds : List Cmd
  parts : Sparse PartSt
  eng : Sparse Engine
  sync : Sparse SyncObj
  syncQ : Sparse (List SyncOp)
  hqs : Sparse HQueue
  hqQ : Sparse (List HqOp)
  coreBreaks : List Brk
  coresHalted : List Nat
  /-- When the halt of an engine was complete (R596). -/
  wdog : Sparse Nat
  /-- The engine whose record a die's trace path took last, plus 1; under key 16 the die whose record HN took last, plus 1
  (R587). -/
  traceRr : Sparse Nat
  /-- A reduce write that waits in a router for the one behind it (R159). -/
  router : Option RWrite := none
  /-- The BULK packets not yet acknowledged, in the order sent (R414). -/
  bulkOut : List BulkOut := []
  links : Sparse LPort
  banks : Sparse Bank
  exp : Sparse ExpRound
  xch : Xch
  media : Sparse MDie
  /-- TRIP#, low while the module is halted (R642). -/
  tripPin : Bool
  /-- The coolant sensors: inlet, outlet, when they were measured (R649). -/
  coolIn : BitVec 16 := 0
  coolOut : BitVec 16 := 0
  coolAt : Nat := 0
  out : List Out
  /-- The model's own counters: the next work number, and the next free value. -/
  nextId : Nat
  draw : Nat
  deriving DecidableEq, Repr

/-- The module: the commands that wait, first in first out, the time base, and the rest. -/
structure State where
  pending : List Instr
  clk : Clk
  m : Mod
  deriving DecidableEq, Repr

/-! ## Reset -/

/-- The time base with the root PLL off: MS4 holds HS off (R513, R514, R620). -/
def clkReset : Clk where
  now := 0
  running := false
  sid := 0
  incr := 2
  load := none
  steer := 0
  lastStep := none
  sync := .freerun
  acqDone := false
  good := 0
  bad := 0
  meas := none
  measNum := 0
  lastMeas := 0
  offset := 0
  refused := false
  extGood := 0

/-- The power block after a module reset: MS4, no limit, no budget (R517, R518, R601, R630). -/
def pwrReset : Pwr where
  state := .ms4
  reason := 0
  walk := none
  tripped := false
  twarn := false
  hot := []
  dieCmd := []
  portCmd := []
  limit := 0
  budget := []
  vmin := []
  vmax := []
  refMax := []
  floors := []
  input := (0, 0, 0)
  govs := []
  rail := []
  almanac := []
  refresh := []

/-- HN after a module reset: firmware runs from bank A of every kind, PERST# is deasserted and
the port is not yet trained (R601, R602, R607). -/
def hubReset : Hub where
  input := true
  booted := true
  perst := false
  pcie := none
  recovery := false
  idSet := false
  reason := 0
  bootFail := none
  fw := []
  fwReason := 0
  fwBusy := false
  svc := []
  nowHigh := []
  masked := []
  msixPend := []
  rails := []
  poh := 0
  pohAt := 0

def secReset : Sec where
  mbox := []
  unlocks := []
  keys := 1
  moduleKey := 0
  spdmLast := none

def xchReset : Xch where
  pending := none
  current := none
  previous := none
  advancing := false
  rounds := []
  pre := []
  results := []
  future := []
  collects := []
  params := []

/-- The module after a module reset (R607): every register at its reset value, every partition
disabled (R544), every memory empty. -/
def modReset : Mod where
  bar0 := []
  hub := hubReset
  pwr := pwrReset
  sec := secReset
  logs := []
  mem := { cells := [], lines := [], poison := [], keep := [] }
  regions := []
  regQ := []
  gather := []
  rings := []
  cmds := []
  parts := []
  eng := []
  sync := []
  syncQ := []
  hqs := []
  hqQ := []
  coreBreaks := []
  coresHalted := []
  wdog := []
  traceRr := []
  links := []
  banks := []
  exp := []
  xch := xchReset
  media := []
  tripPin := false
  out := []
  nextId := 1
  draw := 0

/-- The machine right after reset. -/
def State.reset : State where
  pending := []
  clk := clkReset
  m := modReset

end Sys2Proof.Machine
end

