-- ==== Sys2Proof/Machine/Ops.lean ====
section
/-! DEFINITION. The named operations over tables, bytes, memory, units, fault logs and
completions. -/

namespace Sys2Proof.Machine

open Host (Outcome)

/-! ## Sparse tables: rising keys, no entry equal to the default -/

def sget {α : Type} (d : α) : Sparse α → Nat → α
  | [], _ => d
  | (k, v) :: r, x => if k = x then v else sget d r x

/-- The table with key x holding v, before the first larger key. -/
def sput {α : Type} : Sparse α → Nat → α → Sparse α
  | [], x, v => [(x, v)]
  | (k, w) :: r, x, v =>
    if x < k then (x, v) :: (k, w) :: r
    else if x = k then (x, v) :: r
    else (k, w) :: sput r x v

/-- The table with key x reading v; the default is not listed. -/
def sset {α : Type} [DecidableEq α] (d : α) (t : Sparse α) (x : Nat) (v : α) : Sparse α :=
  if v = d then t.filter (fun e => e.1 != x) else sput t x v

def smod {α : Type} [DecidableEq α] (d : α) (t : Sparse α) (x : Nat) (f : α → α) : Sparse α :=
  sset d t x (f (sget d t x))

def above : Option Nat → Nat → Bool
  | none, _ => true
  | some l, k => decide (l < k)

/-- Every key of the table lies above `lo`, keys rise, no entry holds the default. -/
def swfFrom {α : Type} [DecidableEq α] (d : α) : Option Nat → Sparse α → Bool
  | _, [] => true
  | lo, (k, v) :: r => above lo k && decide (v ≠ d)
      && swfFrom d (some k) r

def swf {α : Type} [DecidableEq α] (d : α) (t : Sparse α) : Bool := swfFrom d none t

/-! ## Bytes (R5) -/

/-- The unsigned value of little-endian bytes. -/
def leNat : List Byte → Nat
  | [] => 0
  | b :: r => b.toNat + 256 * leNat r

/-- n bytes, little-endian. -/
def toLe : Nat → Nat → List Byte
  | 0, _ => []
  | n + 1, v => BitVec.ofNat 8 v :: toLe n (v / 256)

/-- The unsigned value of network-order bytes. -/
def beNat (bs : List Byte) : Nat := leNat bs.reverse
def toBe (n v : Nat) : List Byte := (toLe n v).reverse

/-- n bytes at offset o; bytes beyond the end read 0. -/
def slice (bs : List Byte) (o n : Nat) : List Byte :=
  let r := (bs.drop o).take n
  r ++ List.replicate (n - r.length) 0

/-- The little-endian field of n bytes at offset o. -/
def fld (bs : List Byte) (o n : Nat) : Nat := leNat (slice bs o n)
/-- The network-order field of n bytes at offset o. -/
def fldBe (bs : List Byte) (o n : Nat) : Nat := beNat (slice bs o n)
/-- Bits [lo + n - 1 : lo] of a number. -/
def bits (v lo n : Nat) : Nat := v / 2 ^ lo % 2 ^ n
def bit (v i : Nat) : Bool := v / 2 ^ i % 2 = 1
/-- The bytes with those at o replaced. -/
def patch (bs : List Byte) (o : Nat) (new : List Byte) : List Byte :=
  slice bs 0 o ++ new ++ bs.drop (o + new.length)
/-- x rounded up to a multiple of n. -/
def roundUp (x n : Nat) : Nat := (x + n - 1) / n * n
def ceilDiv (x n : Nat) : Nat := (x + n - 1) / n
def satAdd (lim x y : Nat) : Nat := min lim (x + y)
def allZero (bs : List Byte) : Bool := bs.all (· == 0)

/-! ## Raw bytes: an unlisted address reads 0 (log 7) -/

def peek (m : Mem) (a : Nat) : Byte := sget 0 m.cells a
def poke (m : Mem) (a : Nat) (b : Byte) : Mem := { m with cells := sset 0 m.cells a b }
def peeks (m : Mem) (a : Nat) : Nat → List Byte
  | 0 => []
  | n + 1 => peek m a :: peeks m (a + 1) n
def pokes (m : Mem) (a : Nat) : List Byte → Mem
  | [] => m
  | b :: r => pokes (poke m a b) (a + 1) r
/-- The canonical form of memory. -/
def memWf (m : Mem) : Bool := swf (0 : Byte) m.cells

/-! ## Units -/

def engine (m : Mod) (g : Nat) : Engine := sget {} m.eng g
def setEngine (m : Mod) (g : Nat) (e : Engine) : Mod := { m with eng := sset {} m.eng g e }
def modEngine (m : Mod) (g : Nat) (f : Engine → Engine) : Mod := setEngine m g (f (engine m g))
def ctxOf (e : Engine) (c : Nat) : Ctx := sget {} e.ctx c
def modCtx (m : Mod) (g c : Nat) (f : Ctx → Ctx) : Mod :=
  modEngine m g fun e => { e with ctx := smod {} e.ctx c f }
def ctx (m : Mod) (g c : Nat) : Ctx := ctxOf (engine m g) c
def counter (x : Ctx) (i : Nat) : W32 := sget 0 x.ctr i
def setCounter (x : Ctx) (i : Nat) (v : W32) : Ctx := { x with ctr := sset 0 x.ctr i v }
/-- Cd + 2^32 × Cd+1. -/
def counterPair (x : Ctx) (i : Nat) : W64 := (counter x (i + 1)) ++ (counter x i)
def dmaq (e : Engine) (q : Nat) : DmaQ := sget {} e.dq q
def modDmaq (m : Mod) (g q : Nat) (f : DmaQ → DmaQ) : Mod :=
  modEngine m g fun e => { e with dq := smod {} e.dq q f }
/-- Task ID (R274). -/
def taskId (g c : Nat) : Nat := 4 * g + c

def partSt (m : Mod) (k : Nat) : PartSt := sget {} m.parts k
def modPart (m : Mod) (k : Nat) (f : PartSt → PartSt) : Mod := { m with parts := smod {} m.parts k f }
def modProg (m : Mod) (k : Nat) (f : Program → Program) : Mod :=
  modPart m k fun p => { p with prog := p.prog.map f }
def ring (m : Mod) (n : Nat) : Ring := sget {} m.rings n
def modRing (m : Mod) (n : Nat) (f : Ring → Ring) : Mod := { m with rings := smod {} m.rings n f }
def port (m : Mod) (p : Nat) : LPort := sget {} m.links p
def modPort (m : Mod) (p : Nat) (f : LPort → LPort) : Mod := { m with links := smod {} m.links p f }
def bank (m : Mod) (b : Nat) : Bank := sget {} m.banks b
def modBank (m : Mod) (b : Nat) (f : Bank → Bank) : Mod := { m with banks := smod {} m.banks b f }
def mdie (m : Mod) (d : Nat) : MDie := sget {} m.media d
def modMdie (m : Mod) (d : Nat) (f : MDie → MDie) : Mod := { m with media := smod {} m.media d f }
def strm (m : Mod) (d s : Nat) : Strm := sget {} (mdie m d).slots s
def modStrm (m : Mod) (d s : Nat) (f : Strm → Strm) : Mod :=
  modMdie m d fun x => { x with slots := smod {} x.slots s f }
def gov (m : Mod) (g : Nat) : Gov := sget {} m.pwr.govs g
def modPwr (m : Mod) (f : Pwr → Pwr) : Mod := { m with pwr := f m.pwr }
def modGov (m : Mod) (g : Nat) (f : Gov → Gov) : Mod :=
  modPwr m fun p => { p with govs := smod {} p.govs g f }
def mbox (m : Mod) (f : Nat) : Mbox := sget {} m.sec.mbox f
def modMbox (m : Mod) (f : Nat) (h : Mbox → Mbox) : Mod :=
  { m with sec := { m.sec with mbox := smod {} m.sec.mbox f h } }
def regionKey (td entry : Nat) : Nat := 8192 * td + entry
def region (m : Mod) (td entry : Nat) : Region := sget {} m.regions (regionKey td entry)
def setRegion (m : Mod) (td entry : Nat) (r : Region) : Mod :=
  { m with regions := sset {} m.regions (regionKey td entry) r }
def syncKey (die idx : Nat) : Nat := 16384 * die + idx
def syncObj (m : Mod) (die idx : Nat) : SyncObj := sget {} m.sync (syncKey die idx)
def modSync (m : Mod) (die idx : Nat) (f : SyncObj → SyncObj) : Mod :=
  { m with sync := smod {} m.sync (syncKey die idx) f }
def hqKey (die q : Nat) : Nat := 512 * die + q
def hq (m : Mod) (die q : Nat) : HQueue := sget {} m.hqs (hqKey die q)
def modHq (m : Mod) (die q : Nat) (f : HQueue → HQueue) : Mod :=
  { m with hqs := smod {} m.hqs (hqKey die q) f }
def expKey (g x : Nat) : Nat := 4096 * g + x
def expRound (m : Mod) (g x : Nat) : ExpRound := sget {} m.exp (expKey g x)
def modExp (m : Mod) (g x : Nat) (f : ExpRound → ExpRound) : Mod :=
  { m with exp := smod {} m.exp (expKey g x) f }
def modXch (m : Mod) (f : Xch → Xch) : Mod := { m with xch := f m.xch }
def modHub (m : Mod) (f : Hub → Hub) : Mod := { m with hub := f m.hub }
def emit (o : Out) (m : Mod) : Mod := { m with out := m.out ++ [o] }
/-- A fresh work number. -/
def fresh (m : Mod) : Nat × Mod := (m.nextId, { m with nextId := m.nextId + 1 })
/-- A fresh free value index (log 2). -/
def drawId (m : Mod) : Nat × Mod := (m.draw, { m with draw := m.draw + 1 })

/-! ## Raising meanings to the State -/

/-- A command that leaves the time base alone. -/
def onMod (f : Clk → Mod → Mod) (s : State) : Outcome State Fault Refusal :=
  .next { s with m := f s.clk s.m }

/-- A command of the time base. -/
def onClk (f : Clk → Mod → Clk) (s : State) : Outcome State Fault Refusal :=
  .next { s with clk := f s.clk s.m }

/-- A command that acts on both. -/
def onBoth (f : Clk → Mod → Clk × Mod) (s : State) : Outcome State Fault Refusal :=
  let r := f s.clk s.m
  .next { s with clk := r.1, m := r.2 }

/-! ## Power states (R512, R516 to R518) -/

def msNum : MState → Nat
  | .ms0 => 0 | .ms1 => 1 | .ms2 => 2 | .ms3 => 3 | .ms4 => 4

def msOf : Nat → MState
  | 0 => .ms0 | 1 => .ms1 | 2 => .ms2 | 3 => .ms3 | _ => .ms4

/-- The die state the module state implies (R517). -/
def impliedDie (s : MState) : Nat := min 3 (msNum s)
/-- The state a compute die runs in (R517). -/
def dieState (m : Mod) (n : Nat) : Nat :=
  if m.pwr.tripped then 3 else max (sget 0 m.pwr.dieCmd n) (impliedDie m.pwr.state)
/-- The port state the module state implies (R518). -/
def impliedPort : MState → Nat
  | .ms0 | .ms1 => 0
  | .ms2 => 1
  | _ => 2
def portState (m : Mod) (p : Nat) : Nat :=
  if m.pwr.tripped then 2 else max (sget 0 m.pwr.portCmd p) (impliedPort m.pwr.state)
/-- The first step of a walk applies from the cycle after its check: a compute die that it takes out of DS0 is gated and has
no budget from there on (R520). -/
def leavesActive (m : Mod) (n : Nat) : Bool :=
  match m.pwr.walk with
  | none => false
  | some w => (w.scope == 0 && msNum m.pwr.state == 0 && decide (1 ≤ w.target))
      || (w.scope == 1 && w.unit == n && sget 0 m.pwr.dieCmd n == 0 && decide (1 ≤ w.target))
/-- A compute die is in DS0 and stays there. -/
def dieActive (m : Mod) (n : Nat) : Bool := dieState m n == 0 && !leavesActive m n
/-- A walk takes the module out of MS1 towards MS2: ingest ports go down and link ports QUIET from there on (R513, R520). -/
def leavesReady (m : Mod) : Bool :=
  match m.pwr.walk with
  | none => false
  | some w => w.scope == 0 && msNum m.pwr.state == 1 && decide (2 ≤ w.target)
/-- A port starts no flits but those of time packets: QUIET, or on its way out of ACTIVE (R518, R520). -/
def portQuiet (m : Mod) (p : Nat) : Bool :=
  portState m p == 1 || leavesReady m || match m.pwr.walk with
    | none => false
    | some w => w.scope == 2 && w.unit == p && decide (1 ≤ w.target)
/-- Engines issue only in DS0 (R512, R516). -/
def engineRuns (m : Mod) (g : Nat) : Bool := dieActive m (g / 16)
/-- Dies beyond the compute dies follow the module state (R512, R516). -/
def tierPowered (m : Mod) : Bool := !m.pwr.tripped && msNum m.pwr.state ≤ 2

/-- A service operation runs on a unit (R613, R614): 1 FW_ACTIVATE, 2 RETRAIN, 3 RECAL, 4 REG_SET. -/
def svcRuns (m : Mod) (op kind index : Nat) : Bool :=
  m.hub.svc.any fun s => s.2.busy && s.2.op == op && s.2.kind == kind && s.2.index == index

/-! ## Key slots (R550) -/

/-- The XTS data key of 512 bits and the CMAC integrity key of 256 bits of a key slot. -/
def dataKey (gen : Nat) : List Byte := slice (Config.partKeys gen) 0 64
def integrityKey (gen : Nat) : List Byte := slice (Config.partKeys gen) 64 32

/-! ## The fault logs (R570 to R577) -/

def flog (m : Mod) (l : Nat) : FLog := sget {} m.logs l

/-- One entry, counted: FIRST when COUNT was 0, LAST always (R571). -/
def logApply (l : FLog) (e : FEntry) : FLog :=
  let n := min 0xFFFFFFFF (l.count + 1)
  { l with
    first := if l.count = 0 then e else l.first
    last := e
    count := n
    early := match l.early with
      | some x => if e.time.toNat < x.2.2.toNat then some (n, e.reason, e.time) else some x
      | none => some (n, e.reason, e.time) }

def logFault (t : Clk) (log : Nat) (e : FEntry) (m : Mod) : Mod :=
  { m with logs := smod {} m.logs log fun l => logApply l { e with time := t.sid } }

/-- The FLOG field that names the entry of a log that was counted as number n (R577). -/
def flogField (log n : Nat) : BitVec 16 := BitVec.ofNat 16 (log + (if n = 1 then 512 else 0) + 1024 * (n % 64))

/-- The FLOG field that names the entry just written (R577). -/
def flogOf (m : Mod) (log : Nat) : BitVec 16 := flogField log (flog m log).count

/-- The earliest entry of a log by TIME since a program of its partition started (R577). -/
def earlyOf (m : Mod) (log : Nat) : Option (BitVec 16 × Byte × W64) :=
  (flog m log).early.map fun x => (flogField log x.1, x.2)

def addCorr (m : Mod) (log : Nat) : Mod :=
  { m with logs := smod {} m.logs log fun l => { l with corr := min 0xFFFFFFFF (l.corr + 1) } }

/-! ## Fault types (R575) and the logs of units (R570) -/

/-- A code that R509 lists. The codes of diagnostic firmware are not among them: no row runs such firmware (log 71). -/
def reasonOk (r : Byte) : Bool :=
  [(0, 0), (0x10, 0x1E), (0x20, 0x29), (0x30, 0x37), (0x40, 0x4B), (0x50, 0x59), (0x60, 0x6C), (0x70, 0x76), (0x80, 0x8D)].any
    fun x => decide (x.1 ≤ r.toNat) && decide (r.toNat ≤ x.2)

def fAccess : Byte := 0x01
def fTranslation : Byte := 0x02
def fIntegrity : Byte := 0x03
def fEccUncorr : Byte := 0x04
def fEccStorm : Byte := 0x05
def fPoison : Byte := 0x06
def fTask : Byte := 0x07
def fTransitLate : Byte := 0x08
def fWaitCycle : Byte := 0x09
def fWaitTimeout : Byte := 0x0A
def fSyncSat : Byte := 0x0B
def fSyncRefused : Byte := 0x0C
def fEpochStale : Byte := 0x0D
def fEpochFuture : Byte := 0x0E
def fRoundConflict : Byte := 0x0F
def fStaleRound : Byte := 0x10
def fLink : Byte := 0x11
def fSecurity : Byte := 0x12
def fDropped : Byte := 0x13
def fRing : Byte := 0x14
def fPcie : Byte := 0x15
def fThermal : Byte := 0x16
def fThermalWarn : Byte := 0x17
def fPower : Byte := 0x18
def fClock : Byte := 0x19
def fPolicyClamp : Byte := 0x1A

def logCD (n : Nat) : Nat := 256 + n
def logHN : Nat := 272
def logHS : Nat := 273
def logLD (n : Nat) : Nat := 274 + n
def logMD (n : Nat) : Nat := 278 + n
def logTD (n : Nat) : Nat := 284 + n
/-- The link die of a port (R391, R392). -/
def portDie (p : Nat) : Nat := if p = 16 then 0 else if p = 17 then 2 else p / 4
/-- The log, UNIT_KIND and index of a die code of R533. -/
def dieLog (d : Nat) : Nat × Byte × Byte :=
  if d < 16 then (logCD d, 2, BitVec.ofNat 8 d)
  else if d = 16 then (logHN, 5, 0)
  else if d = 17 then (logHS, 5, 1)
  else if d < 22 then (logLD (d - 18), 6, BitVec.ofNat 8 (d - 18))
  else if d < 28 then (logMD (d - 22), 7, BitVec.ofNat 8 (d - 22))
  else (logTD (d - 28), 8, BitVec.ofNat 8 (d - 28))

/-! ## Leave (R526 to R530) -/

def sumVals (t : Sparse Nat) : Nat := (t.map (·.2)).foldl (· + ·) 0
def held (g : Gov) : Nat := sumVals g.grants + sumVals g.resv

/-- The effective budget of a governor: 0 to 15 compute dies, 16 to 21 media dies (R530). -/
def effBudget (m : Mod) (g : Nat) : Nat :=
  let b := sget 0 m.pwr.budget g
  if m.pwr.tripped then 0
  else if g < 16 then (if dieActive m g then b else 0)
  else if msNum m.pwr.state ≤ 1 ∧ ¬ leavesReady m then b else 0

def freeBudget (m : Mod) (g : Nat) : Nat := effBudget m g - held (gov m g)

/-- No waiting request of the same or a higher level (R528). -/
def nothingAhead (q : List LeaveReq) (level : Nat) : Bool := q.all fun r => decide (r.level < level)

/-- A request: granted at once, or queued (R528). -/
def requestLeave (m : Mod) (g id level units : Nat) : Bool × Mod :=
  if units ≤ freeBudget m g && nothingAhead (gov m g).queue level then
    (true, modGov m g fun x => { x with grants := sset 0 x.grants id units })
  else
    (false, modGov m g fun x => { x with queue := x.queue ++ [{ id := id, level := level, units := units }] })

/-- The oldest request of the highest level (R528). -/
def headOf : List LeaveReq → Option LeaveReq
  | [] => none
  | r :: rs => match headOf rs with
    | none => some r
    | some b => if b.level > r.level then some b else some r

/-- A reservation at Transit acceptance: 0x30 short of budget, 0x31 at 64 reservations (R254,
R255, R502). -/
def reserveLeave (m : Mod) (g id units : Nat) : Except Byte Mod :=
  if (gov m g).resv.length ≥ 64 then .error 0x31
  else if units ≤ freeBudget m g then
    .ok (modGov m g fun x => { x with resv := sset 0 x.resv id units })
  else .error 0x30

/-- The reservation becomes the grant (R254). -/
def claimResv (m : Mod) (g id : Nat) : Mod :=
  modGov m g fun x => { x with resv := sset 0 x.resv id 0, grants := sset 0 x.grants id (sget 0 x.resv id) }

/-- A reservation is returned (R257). -/
def returnResv (m : Mod) (g id : Nat) : Mod := modGov m g fun x => { x with resv := sset 0 x.resv id 0 }

/-- Leave is returned, and a waiting request of the work withdrawn. -/
def returnLeave (m : Mod) (g id : Nat) : Mod :=
  modGov m g fun x => { x with grants := sset 0 x.grants id 0, queue := x.queue.filter (·.id != id) }

def hasGrant (m : Mod) (g id : Nat) : Bool := sget 0 (gov m g).grants id != 0

end Sys2Proof.Machine
end

