-- ==== Sys2Proof/Machine/Number.lean ====
section
/-! DEFINITION. The number formats (R38 to R41, R182), exact values, the one rounding of each
conversion (R55, R69 to R75), and FP32 arithmetic (R111). -/

namespace Sys2Proof.Machine

/-- A value: NaN, an infinity, or (−1)^neg × mag × 2^e. -/
inductive Val where
  | nan
  | inf (neg : Bool)
  | fin (neg : Bool) (mag : Nat) (e : Int)
  deriving DecidableEq, Repr

/-- How a format treats its top exponent: IEEE, one NaN code (E4M3), or no special code. -/
inductive Top where
  | ieee | e4m3 | plain
  deriving DecidableEq, Repr

/-- A floating-point format (R38). -/
structure Fmt where
  ebits : Nat
  mbits : Nat
  bias : Nat
  top : Top
  deriving DecidableEq, Repr

def fp32 : Fmt := ⟨8, 23, 127, .ieee⟩
def bf16 : Fmt := ⟨8, 7, 127, .ieee⟩
def fp16 : Fmt := ⟨5, 10, 15, .ieee⟩
def e4m3 : Fmt := ⟨4, 3, 7, .e4m3⟩
def e5m2 : Fmt := ⟨5, 2, 15, .ieee⟩
def e2m3 : Fmt := ⟨2, 3, 1, .plain⟩
def e3m2 : Fmt := ⟨3, 2, 3, .plain⟩
def e2m1 : Fmt := ⟨2, 1, 1, .plain⟩

def pow2 (n : Nat) : Nat := 2 ^ n
/-- x × 2^k for k ≥ 0, as a magnitude. -/
def shl (x : Nat) (k : Int) : Nat := x * 2 ^ k.toNat

/-- The value of a code (R38). -/
def decodeF (f : Fmt) (code : Nat) : Val :=
  let m := code % 2 ^ f.mbits
  let e := code / 2 ^ f.mbits % 2 ^ f.ebits
  let s := code / 2 ^ (f.mbits + f.ebits) % 2 = 1
  let emax := 2 ^ f.ebits - 1
  if e = 0 then .fin s m (1 - f.bias - f.mbits)
  else if e = emax ∧ f.top = .ieee then (if m = 0 then .inf s else .nan)
  else if e = emax ∧ f.top = .e4m3 ∧ m = 2 ^ f.mbits - 1 then .nan
  else .fin s (2 ^ f.mbits + m) ((e : Int) - f.bias - f.mbits)

/-- Rounding: nearest with ties to even, or stochastic with a 16-bit draw (R73). -/
inductive Rnd where
  | even
  | stoch (r : Nat)
  deriving DecidableEq, Repr

/-- mag × 2^e as a whole number of units 2^u, rounded once. -/
def roundUnits (rm : Rnd) (mag : Nat) (e u : Int) : Nat :=
  if u ≤ e then shl mag (e - u)
  else
    let sh := (u - e).toNat
    let q := mag / 2 ^ sh
    let r := mag % 2 ^ sh
    match rm with
    | .even => if 2 * r > 2 ^ sh ∨ (2 * r = 2 ^ sh ∧ q % 2 = 1) then q + 1 else q
    | .stoch d => if r * 65536 / 2 ^ sh + d ≥ 65536 then q + 1 else q

/-- floor(log2 of mag × 2^e), mag > 0. -/
def log2v (mag : Nat) (e : Int) : Int := (Nat.log2 mag : Int) + e

/-- mag × 2^e compared with mag' × 2^e'. -/
def magLt (m : Nat) (e : Int) (m' : Nat) (e' : Int) : Bool :=
  if e ≤ e' then decide (m < shl m' (e' - e)) else decide (shl m (e - e') < m')

/-- The largest finite mantissa and its unit. -/
def maxFinite (f : Fmt) : Nat × Int :=
  match f.top with
  | .ieee => (2 ^ (f.mbits + 1) - 1, (2 ^ f.ebits - 2 : Nat) - f.bias - f.mbits)
  | .e4m3 => (2 ^ (f.mbits + 1) - 2, (2 ^ f.ebits - 1 : Nat) - f.bias - f.mbits)
  | .plain => (2 ^ (f.mbits + 1) - 1, (2 ^ f.ebits - 1 : Nat) - f.bias - f.mbits)

/-- The code of a mantissa q in units 2^u. -/
def packF (f : Fmt) (neg : Bool) (q : Nat) (u : Int) : Nat :=
  let umin : Int := 1 - f.bias - f.mbits
  (if neg then 2 ^ (f.mbits + f.ebits) else 0) + (u - umin).toNat * 2 ^ f.mbits + q

def nanCode (f : Fmt) : Nat :=
  match f.top with
  | .ieee => (2 ^ f.ebits - 1) * 2 ^ f.mbits + 2 ^ (f.mbits - 1)
  | .e4m3 => 2 ^ (f.mbits + f.ebits) - 1
  | .plain => 0

def infCode (f : Fmt) (neg : Bool) : Nat :=
  match f.top with
  | .ieee => (if neg then 2 ^ (f.mbits + f.ebits) else 0) + (2 ^ f.ebits - 1) * 2 ^ f.mbits
  | .e4m3 => nanCode f
  | .plain => 0

/-- The conversion of a value, and whether a finite value overflowed (R70 to R72). `sat` is the
rule of MX elements (R74): the largest finite value in place of an infinity. -/
def encodeF (f : Fmt) (rm : Rnd) (sat : Bool) : Val → Nat × Bool
  | .nan => (nanCode f, false)
  | .inf s => (infCode f s, false)
  | .fin s mag e =>
    if mag = 0 then (packF f s 0 (1 - f.bias - f.mbits), false)
    else
      let umin : Int := 1 - f.bias - f.mbits
      let u := max umin (log2v mag e - f.mbits)
      let q := roundUnits rm mag e u
      let (qm, um) := maxFinite f
      if magLt qm um q u then
        if sat || f.top != .ieee then (packF f s qm um, true) else (infCode f s, true)
      else (packF f s q u, false)

def scaleVal (k : Int) : Val → Val
  | .fin s m e => .fin s m (e + k)
  | v => v

def isNeg : Val → Bool
  | .nan => false
  | .inf s => s
  | .fin s _ _ => s

def isFinite : Val → Bool
  | .fin .. => true
  | _ => false

def isZero : Val → Bool
  | .fin _ m _ => m == 0
  | _ => false

def negVal : Val → Val
  | .nan => .nan
  | .inf s => .inf (!s)
  | .fin s m e => .fin (!s) m e

def absVal : Val → Val
  | .nan => .nan
  | .inf _ => .inf false
  | .fin _ m e => .fin false m e

/-! ## Exact arithmetic on values (IEEE 754 special cases) -/

def signedMag (s : Bool) (m : Nat) : Int := if s then -(m : Int) else m

/-- The exact sum; an exact zero is +0 unless both are −0. -/
def addVal : Val → Val → Val
  | .nan, _ => .nan
  | _, .nan => .nan
  | .inf a, .inf b => if a = b then .inf a else .nan
  | .inf a, _ => .inf a
  | _, .inf b => .inf b
  | .fin a m e, .fin b n f =>
    let u := min e f
    let t := signedMag a (shl m (e - u)) + signedMag b (shl n (f - u))
    if t = 0 then .fin (a && b) 0 u else .fin (decide (t < 0)) t.natAbs u

def mulVal : Val → Val → Val
  | .nan, _ => .nan
  | _, .nan => .nan
  | .inf a, .inf b => .inf (a != b)
  | .inf a, .fin b n _ => if n = 0 then .nan else .inf (a != b)
  | .fin a m _, .inf b => if m = 0 then .nan else .inf (a != b)
  | .fin a m e, .fin b n f => .fin (a != b) (m * n) (e + f)

/-- The quotient with a sticky last bit, to at least 64 significant bits. -/
def divVal : Val → Val → Val
  | .nan, _ => .nan
  | _, .nan => .nan
  | .inf _, .inf _ => .nan
  | .inf a, .fin b _ _ => .inf (a != b)
  | .fin a _ _, .inf b => .fin (a != b) 0 0
  | .fin a m e, .fin b n f =>
    if n = 0 then (if m = 0 then .nan else .inf (a != b))
    else
      let k := 64 + Nat.log2 n
      let x := m * 2 ^ k
      .fin (a != b) (2 * (x / n) + (if x % n = 0 then 0 else 1)) (e - f - k - 1)

/-- a < b; false on NaN. -/
def ltVal : Val → Val → Bool
  | .nan, _ => false
  | _, .nan => false
  | .inf a, .inf b => a && !b
  | .inf a, .fin .. => a
  | .fin .., .inf b => !b
  | .fin a m e, .fin b n f =>
    let u := min e f
    decide (signedMag a (shl m (e - u)) < signedMag b (shl n (f - u)))

def eqVal : Val → Val → Bool
  | .nan, _ => false
  | _, .nan => false
  | .inf a, .inf b => a == b
  | .inf _, .fin .. => false
  | .fin .., .inf _ => false
  | .fin a m e, .fin b n f =>
    let u := min e f
    decide (signedMag a (shl m (e - u)) = signedMag b (shl n (f - u)))

/-! ## FP32 and BF16 words (R111) -/

def f32 (w : W32) : Val := decodeF fp32 w.toNat
def toF32 (v : Val) : W32 := BitVec.ofNat 32 (encodeF fp32 .even false v).1
def b16 (w : Nat) : Val := decodeF bf16 w
def toB16 (v : Val) : Nat := (encodeF bf16 .even false v).1
def fadd (a b : W32) : W32 := toF32 (addVal (f32 a) (f32 b))
def fmul (a b : W32) : W32 := toF32 (mulVal (f32 a) (f32 b))
def ffma (a b c : W32) : W32 := toF32 (addVal (mulVal (f32 a) (f32 b)) (f32 c))
def fdiv (a b : W32) : W32 := toF32 (divVal (f32 a) (f32 b))
def fneg (a : W32) : W32 := a ^^^ 0x80000000
def fsub (a b : W32) : W32 := fadd a (fneg b)
/-- An unsigned integer as FP32. -/
def fofNat (n : Nat) : W32 := toF32 (.fin false n 0)
def fone : W32 := 0x3F800000
def fnan : W32 := 0x7FC00000

def isNan32 (w : W32) : Bool := f32 w == .nan

/-- MIN or MAX of two lanes (R111). R111 leaves open which of two zeros of both signs it is, and whether one NaN
operand gives NaN, 0x7FC0_0000, or the other operand (log 11). -/
def fminmax (isMax : Bool) (a b : W32) : W32 :=
  let tie := Config.minMaxTie isMax a b
  if isNan32 a ∧ isNan32 b then fnan
  else if isNan32 a then (if tie then fnan else b)
  else if isNan32 b then (if tie then fnan else a)
  else if ltVal (f32 a) (f32 b) then (if isMax then b else a)
  else if ltVal (f32 b) (f32 a) then (if isMax then a else b)
  else if tie then a else b

/-! ## Transcendentals (R115): the special inputs -/

/-- The IEEE result of function k on a special input, none for an ordinary one. -/
def transSpecial (k : Nat) (v : Val) : Option Val :=
  let one : Val := .fin false 1 0
  let zero : Val := .fin false 0 0
  match v with
  | .nan => some .nan
  | .inf s => some (match k with
    | 0 | 1 => if s then zero else .inf false
    | 2 | 3 | 5 => if s then .nan else .inf false
    | 4 => .fin s 0 0
    | 6 => if s then .nan else zero
    | 7 | 9 => .fin s 1 0
    | 8 => if s then zero else one
    | _ => if s then zero else .inf false)
  | .fin s m _ =>
    if m = 0 then
      match k with
      | 0 | 1 => some one
      | 2 | 3 => some (.inf true)
      | 4 | 6 => some (.inf s)
      | 5 | 7 | 9 => some v
      | _ => none
    else if s then
      match k with
      | 2 | 3 | 5 | 6 => some .nan
      | _ => none
    else none

/-! ## Max-exponent field (R49, R76) -/

/-- The exponent of the largest finite non-zero element; none when all finite ones are zero. -/
def maxExpOf : List Val → Option Int
  | [] => none
  | .fin _ m e :: r =>
    if m = 0 then maxExpOf r
    else match maxExpOf r with
      | none => some (log2v m e)
      | some x => some (max x (log2v m e))
  | _ :: r => maxExpOf r

def maxExpField (vs : List Val) : Nat :=
  if vs.all (fun v => !isFinite v) then 0xFF
  else match maxExpOf vs with
    | none => 0
    | some e => if e < -126 ∨ 127 < e then 0xFF else (e + 127).toNat

/-- The exponent a header gives (R49, with 0x00 counted as −127). -/
def headerExp (field : Nat) : Int := (field : Int) - 127

/-! ## Magnitude (R51 to R53) -/

/-- ceil(log2 k), k ≥ 1. -/
def ceilLog2 (k : Nat) : Nat := if k ≤ 1 then 0 else Nat.log2 (k - 1) + 1

/-- SAFE or TIGHT magnitude from the header exponents and the length. -/
def magnitude (tight : Bool) (ea eb : Int) (k : Nat) : Int :=
  let l := ceilLog2 k
  ea + eb + 2 + (if tight then (l + 1) / 2 else l : Nat) - 15

/-- The pass's M: 0xFF in either header takes the gang's last M (R53). -/
def selectM (tight : Bool) (fa fb k : Nat) (lastM : Option Int) : Int :=
  if fa = 0xFF ∨ fb = 0xFF then lastM.getD 0
  else magnitude tight (headerExp fa) (headerExp fb) k

/-! ## Accumulator cells (R45, R46, R55 to R56, R62, R64, R67, R68) -/

def accMax : Int := 2 ^ 39 - 1
def accMin : Int := -(2 ^ 39)

/-- A product in units 2^(M − 24), rounded once (R55); a non-finite one adds nothing (R67). -/
def productUnits (m : Int) (v : Val) : Int :=
  match v with
  | .fin s mag e => signedMag s (roundUnits .even mag e (m - 24))
  | _ => 0

/-- The flags a product sets (R67). -/
def productFlag (c : Cell) : Val → Cell
  | .nan => { c with nan := true }
  | .inf s => if s then { c with ninf := true } else { c with pinf := true }
  | .fin .. => c

/-- The products of one step into a slot: each rounded on entry, their sum added exactly (R55, R56,
R106): the new slot, whether it overflowed (R62), whether it saturated (R64). -/
def accumulate (saturating : Bool) (m : Int) (c : Cell) (ps : List (Val × Val)) : Cell × Bool × Bool :=
  let vs := ps.map fun x => mulVal x.1 x.2
  let c' := vs.foldl productFlag c
  let t := c.acc + (vs.map (productUnits m)).foldl (· + ·) 0
  if t < accMin ∨ accMax < t then
    if saturating then ({ c' with acc := if t < accMin then accMin else accMax }, false, true)
    else (c', true, false)
  else ({ c' with acc := t }, false, false)

/-- What a slot drains as (R68, R70). -/
def cellVal (m : Int) (c : Cell) : Val :=
  if c.nan || (c.pinf && c.ninf) then .nan
  else if c.pinf then .inf false
  else if c.ninf then .inf true
  else .fin (decide (c.acc < 0)) c.acc.natAbs (m - 24)

/-- The slot-dump record (R48). -/
def dumpRecord (m : Int) (c : Cell) : W64 :=
  BitVec.ofNat 64 ((c.acc % 2 ^ 40).toNat + (if c.nan then 2 ^ 40 else 0) + (if c.pinf then 2 ^ 41 else 0)
    + (if c.ninf then 2 ^ 42 else 0) + 2 ^ 48 * (m % 4096).toNat)

end Sys2Proof.Machine
end

