-- ==== Sys2Proof/Machine/Tiles.lean ====
section
/-! DEFINITION. Tiles: the header (R181), its check (R186), the format codes (R182), the element
order of payload and sidecar (R184, R42), the status word (R314), reading and writing. -/

namespace Sys2Proof.Machine

/-- A tile header (R181). -/
structure Hdr where
  fmt : Nat
  maxexp : Nat
  rows32 : Nat
  cols32 : Nat
  skip : Bool
  shadow : Bool
  order : Bool
  paylen : Nat
  sidecar : Nat
  epoch : Nat
  tagIndex : Nat
  sample : Nat
  status : Nat
  resv : Bool
  deriving DecidableEq, Repr

/-- The 64 header bytes read. `resv`: some reserved field is non-zero. -/
def readHdr (b : List Byte) : Hdr where
  fmt := fld b 0 1
  maxexp := fld b 1 1
  rows32 := fld b 2 2
  cols32 := fld b 4 2
  skip := bit (fld b 6 2) 2
  shadow := bit (fld b 6 2) 1
  order := bit (fld b 6 2) 0
  paylen := fld b 8 4
  sidecar := fld b 0xC 4
  epoch := fld b 0x10 2
  tagIndex := fld b 0x14 4
  sample := fld b 0x18 8
  status := fld b 0x20 4
  resv := fld b 6 2 ≥ 8 || fld b 0x12 2 != 0 || !allZero (slice b 0x24 28)
    || bits (fld b 0x20 4) 7 9 != 0 || decide (bits (fld b 0x20 4) 1 3 > 4)

def writeHdr (h : Hdr) : List Byte :=
  toLe 1 h.fmt ++ toLe 1 h.maxexp ++ toLe 2 h.rows32 ++ toLe 2 h.cols32
    ++ toLe 2 ((if h.skip then 4 else 0) + (if h.shadow then 2 else 0) + (if h.order then 1 else 0))
    ++ toLe 4 h.paylen ++ toLe 4 h.sidecar ++ toLe 2 h.epoch ++ toLe 2 0 ++ toLe 4 h.tagIndex
    ++ toLe 8 h.sample ++ toLe 4 h.status ++ List.replicate 28 0

/-- The format codes of R182. -/
def fmtOk (c : Nat) : Bool := (1 ≤ c && c ≤ 0xA) || c == 0x10 || c == 0x20 || c == 0x21 || c == 0x30
def isMx (c : Nat) : Bool := 5 ≤ c && c ≤ 9
/-- Bits per element of the formats that hold elements. -/
def fmtBits (c : Nat) : Nat :=
  if c = 1 ∨ c = 2 then 16 else if c = 7 ∨ c = 8 then 6 else if c = 9 then 4
  else if c = 0x10 then 32 else if c = 0x20 then 1 else 8

/-- The floating-point element format of a code; none for INT8 and for codes with no elements. -/
def fmtOf (c : Nat) : Option Fmt :=
  match c with
  | 1 => some bf16 | 2 => some fp16 | 3 => some e4m3 | 4 => some e5m2 | 5 => some e4m3
  | 6 => some e5m2 | 7 => some e2m3 | 8 => some e3m2 | 9 => some e2m1 | 0x10 => some fp32
  | _ => none

/-- emax of an MX element format (R74, R117). -/
def mxEmax (c : Nat) : Int :=
  match c with
  | 5 => 8 | 6 => 15 | 7 => 2 | 8 => 4 | _ => 2

/-- Whether PAYLOAD_LEN is the figure of R182 for the shape. -/
def paylenOk (h : Hdr) : Bool :=
  let n := 1024 * h.rows32 * h.cols32
  (if h.fmt = 0x21 then h.paylen % 8 == 0
   else if h.fmt = 0x30 then decide (h.paylen ≤ n)
   else h.paylen == n * fmtBits h.fmt / 8) && decide (h.paylen ≤ 65536)

/-- The header check of R186. `line`: the header's actual line, none in host memory (R185). -/
def hdrOk (h : Hdr) (line : Option Nat) : Bool :=
  !h.resv && fmtOk h.fmt && h.rows32 != 0 && h.cols32 != 0
    && !(h.skip && h.shadow)
    && (if h.skip then h.paylen == 0 && h.sidecar == 0
        else paylenOk h && (if isMx h.fmt then decide (64 + h.paylen ≤ h.sidecar) else h.sidecar == 0))
    && (match line with | none => true | some l => h.tagIndex == l)

/-- Steps (outer) and lanes (inner) of a tile (R184). -/
def outerN (h : Hdr) : Nat := 32 * (if h.order then h.cols32 else h.rows32)
def innerN (h : Hdr) : Nat := 32 * (if h.order then h.rows32 else h.cols32)
def elemN (h : Hdr) : Nat := 1024 * h.rows32 * h.cols32
/-- Bytes of the sidecar (R184). -/
def sidecarLen (h : Hdr) : Nat := if isMx h.fmt then 32 * h.rows32 * h.cols32 else 0
/-- The end of the tile's content, from the header (R180). -/
def tileEnd (h : Hdr) : Nat :=
  if h.sidecar ≠ 0 then h.sidecar + sidecarLen h else 64 + h.paylen
/-- The whole extent, in whole lines (R180). -/
def tileExtent (h : Hdr) : Nat := roundUp (tileEnd h) 256

/-- Where the code of element (outer o, inner i) lies: bit offset in the payload, block number. -/
def elemPos (c inner o i : Nat) : Nat × Nat :=
  if isMx c then
    let b := o / 32 * inner + i
    (b * 32 * fmtBits c + o % 32 * fmtBits c, b)
  else ((o * inner + i) * fmtBits c, 0)

/-- n bits at a bit offset of little-endian bytes. -/
def bitsAt (bs : List Byte) (pos n : Nat) : Nat := fld bs (pos / 8) ((pos % 8 + n + 7) / 8) / 2 ^ (pos % 8) % 2 ^ n

/-- The value of a code under a format and an E8M0 scale code (R38 to R41). -/
def elemVal (c code scale : Nat) : Val :=
  if c = 0xA then
    (if code < 128 then .fin false code 0 else .fin true (256 - code) 0)
  else match fmtOf c with
    | none => .fin false 0 0
    | some f => if isMx c then
        (if scale = 0xFF then .nan else scaleVal ((scale : Int) - 127) (decodeF f code))
      else decodeF f code

/-- The value of element (outer, inner) of a tile whose bytes from the header are `bs`. -/
def tileElem (h : Hdr) (bs : List Byte) (o i : Nat) : Val :=
  let (pos, b) := elemPos h.fmt (innerN h) o i
  elemVal h.fmt (bitsAt (bs.drop 64) pos (fmtBits h.fmt)) (fld bs (h.sidecar + b) 1)

/-- All values in storage order, outer-major. -/
def tileVals (h : Hdr) (bs : List Byte) : List Val :=
  (List.range (outerN h)).flatMap fun o => (List.range (innerN h)).map fun i => tileElem h bs o i

/-! ## Encoding -/

/-- The rounding of element n: to even, or with the free draw d + n (R73, R118). -/
def rndAt (draw : Option Nat) (n : Nat) : Rnd :=
  match draw with
  | none => .even
  | some d => .stoch (Config.draw16 (d + n)).toNat

/-- A conversion to INT8 (R117). -/
def toInt8 (rm : Rnd) : Val → Nat × Bool
  | .nan => (0, false)
  | .inf s => (if s then 0x80 else 0x7F, false)
  | .fin s m e =>
    let q := roundUnits rm m e 0
    if s then (if q > 128 then (0x80, true) else ((256 - q) % 256, false))
    else (if q > 127 then (0x7F, true) else (q, false))

/-- One element under a format: the code and whether it overflowed (R70 to R73). -/
def encodeElem (c : Nat) (rm : Rnd) (v : Val) : Nat × Bool :=
  if c = 0xA then toInt8 rm v
  else match fmtOf c with
    | none => (0, false)
    | some f => encodeF f rm (isMx c) v

/-- The scale code of a block (R74, R75): 127 for zeros, 0xFF for a block with NaN or Inf. -/
def blockScale (c : Nat) (vs : List Val) : Nat :=
  if vs.any (fun v => !isFinite v) then 0xFF
  else match maxExpOf vs with
    | none => 127
    | some e => (max (-127) (min 127 (e - mxEmax c)) + 127).toNat

/-- Packed codes, little-endian from bit 0, `n` bits each. -/
def packCodes (n : Nat) (codes : List Nat) : List Byte :=
  toLe (codes.length * n / 8) ((codes.foldr (fun x a => x % 2 ^ n + 2 ^ n * a) 0))

/-- Elements grouped as the payload stores them: storage order, or MX blocks (R184). -/
def blockOrder (outer inner : Nat) (vs : List Val) : List (List Val) :=
  (List.range (outer / 32)).flatMap fun g => (List.range inner).map fun i =>
    (List.range 32).map fun k => vs[(32 * g + k) * inner + i]?.getD (.fin false 0 0)

/-- One MX block: codes, overflow, the values as written. -/
def encodeBlock (c : Nat) (draw : Option Nat) (b : Nat) (vs : List Val) : Nat × List (Nat × Bool) :=
  let sc := blockScale c vs
  if sc = 0xFF then (sc, vs.map fun _ => (0, false))
  else (sc, vs.zipIdx.map fun (v, k) => encodeElem c (rndAt draw (32 * b + k)) (scaleVal (127 - sc) v))

/-- What a write of values into a format produces. -/
structure Enc where
  payload : List Byte
  sidecar : List Byte
  ovf : Bool
  nf : Nat
  vals : List Val
  deriving DecidableEq, Repr

/-- The payload and sidecar of values in storage order (outer-major), with the number of elements
written as NaN or Inf (R314) and the values as written, for MAXEXP. -/
def encodeTile (c outer inner : Nat) (draw : Option Nat) (vs : List Val) : Enc :=
  if isMx c then
    let blocks := (blockOrder outer inner vs).zipIdx.map fun (b, n) => encodeBlock c draw n b
    { payload := packCodes (fmtBits c) (blocks.flatMap fun b => b.2.map (·.1))
      sidecar := blocks.map fun b => BitVec.ofNat 8 b.1
      ovf := blocks.any fun b => b.2.any (·.2)
      nf := (blocks.filter fun b => b.1 == 0xFF).length * 32
      vals := blocks.flatMap fun b => b.2.map fun x => elemVal c x.1 b.1 }
  else
    let es := vs.zipIdx.map fun (v, n) => encodeElem c (rndAt draw n) v
    let out := es.map fun x => elemVal c x.1 127
    { payload := packCodes (fmtBits c) (es.map (·.1))
      sidecar := []
      ovf := es.any (·.2)
      nf := ((if c = 0xA then vs else out).filter fun v => !isFinite v).length
      vals := out }

/-- The status word (R314). -/
def statusWord (nf : Nat) (nonfinite stoch ovf : Bool) (replays : Nat) (sat : Bool) : Nat :=
  65536 * min 0xFFFF nf + (if stoch then 64 else 0) + (if nonfinite then 32 else 0)
    + (if ovf then 16 else 0) + 2 * replays + (if sat then 1 else 0)

/-- A whole tile of encoded content: header, payload, sidecar at its end, zero fill to whole
lines (R180). TAG_INDEX is the writer's. -/
def buildTile (h : Hdr) (payload sidecar : List Byte) : List Byte :=
  let h' := { h with paylen := payload.length, sidecar := if isMx h.fmt then 64 + payload.length else 0 }
  let body := writeHdr h' ++ payload ++ sidecar
  body ++ List.replicate (roundUp body.length 256 - body.length) 0

/-- A header for values written by a unit of this module. -/
def hdrFor (fmt rows32 cols32 : Nat) (order : Bool) (maxexp tag epoch sample status : Nat) : Hdr where
  fmt := fmt
  maxexp := maxexp
  rows32 := rows32
  cols32 := cols32
  skip := false
  shadow := false
  order := order
  paylen := 0
  sidecar := 0
  epoch := epoch
  tagIndex := tag
  sample := sample
  status := status
  resv := false

/-- A skip marker (R195). ORDER, EPOCH and STATUS, which R195 does not list for it, are 0 (DESIGN CHOICE, log 72). -/
def skipHdr (fmt rows32 cols32 tag : Nat) : Hdr :=
  { hdrFor fmt rows32 cols32 false 0xFF tag 0 0 0 with skip := true }

/-- The payload rewritten in the other storage order (R221). -/
def transposeTile (h : Hdr) (bs : List Byte) : List Byte :=
  let o := outerN h
  let i := innerN h
  let n := fmtBits h.fmt / 8
  (List.range i).flatMap fun y => (List.range o).flatMap fun x => slice bs (64 + (x * i + y) * n) n

/-- The formats the transposer takes (R222). -/
def canTranspose (c : Nat) : Bool := (1 ≤ c && c ≤ 4) || c == 0xA || c == 0x10

/-- The permitted shadow formats of a primary (R197). -/
def shadowOk (primary shadow : Nat) : Bool :=
  match primary with
  | 0x10 => shadow == 0x10 || shadow == 1 || shadow == 2
  | 1 => shadow == 1 || shadow == 3 || shadow == 4
  | 2 => shadow == 2 || shadow == 3 || shadow == 4
  | 5 => shadow == 5 || shadow == 7 || shadow == 8 || shadow == 9
  | 6 => shadow == 6 || shadow == 8 || shadow == 9
  | 0xA => shadow == 0xA
  | _ => false

/-- One code widened exactly into the primary's format (R197). -/
def widenCode (primary shadow code : Nat) : Nat :=
  if primary = shadow then code
  else match fmtOf shadow with
    | none => code
    | some f => (encodeElem primary .even (decodeF f code)).1

/-- The payload of a widened shadow: element codes in stored order, scales unchanged (R197). -/
def widenPayload (primary : Nat) (h : Hdr) (bs : List Byte) : List Byte :=
  packCodes (fmtBits primary) ((List.range (elemN h)).map fun k =>
    widenCode primary h.fmt (bitsAt (bs.drop 64) (k * fmtBits h.fmt) (fmtBits h.fmt)))

/-- The operand pairing classes of R43: 16-bit, 8-bit float, INT8, narrow MX. -/
def pairClass (c : Nat) : Option Nat :=
  if c = 1 ∨ c = 2 then some 0
  else if 3 ≤ c ∧ c ≤ 6 then some 1
  else if c = 0xA then some 2
  else if 7 ≤ c ∧ c ≤ 9 then some 3
  else none

/-- Whether two operand formats may be paired (R43). -/
def pairOk (a b : Nat) : Bool := (pairClass a).isSome && pairClass a == pairClass b
/-- Steps per cell per cycle (R43). -/
def stepsPerCycle (a : Nat) : Nat :=
  match pairClass a with
  | some 1 | some 2 => 2
  | some 3 => 4
  | _ => 1
/-- The formats of compatibility mode (R107). -/
def dotFmt (c : Nat) : Bool := (1 ≤ c && c ≤ 4) || c == 0xA

/-- DFMT codes of a drain as format codes (R320). -/
def dfmtCode (d : Nat) : Nat := if d = 0 then 0x10 else d

end Sys2Proof.Machine
end

