-- ==== Sys2Proof/Machine/Operands.lean ====
section
/-! DEFINITION. Operand forms: the fields of an LVI word (R300) and of every class's operand field
(chapter 10), of a DMA descriptor (R210), a handle (R223), and the
addresses they name. -/

namespace Sys2Proof.Machine

/-- Bits [lo + n - 1 : lo] of an instruction word. -/
def wf (w : LviWord) (lo n : Nat) : Nat := bits w.toNat lo n
def wb (w : LviWord) (i : Nat) : Bool := bit w.toNat i
def wOp (w : LviWord) : Nat := wf w 120 8
def wWmode (w : LviWord) : Nat := wf w 118 2
def wW0 (w : LviWord) : Nat := wf w 104 14
def wW1 (w : LviWord) : Nat := wf w 90 14
def wSmode (w : LviWord) : Nat := wf w 88 2
def wS (w : LviWord) : Nat := wf w 74 14
def wT (w : LviWord) : Bool := wb w 73
def wExt (w : LviWord) : Nat := wf w 64 9

/-! ## OPX and dot fields -/

/-- A pass as its word names it, OPX.PASS or DOT.PASS. -/
structure PassOp where
  ca : Nat
  cb : Nat
  cd : Nat
  k : Nat
  shape : Shape
  base : Nat
  tight : Bool
  attach : Bool
  dfmt : Nat
  sr : Bool
  cols : Bool
  ddest : Nat
  cw : Nat
  t : Nat
  deriving DecidableEq, Repr

def shapeOf (n : Nat) : Shape :=
  match n with
  | 0 => .s32 | 1 => .s64 | 2 => .s128x64 | _ => .s64x128

def opxFields (w : LviWord) : PassOp where
  ca := wf w 60 4
  cb := wf w 56 4
  cd := wf w 52 4
  k := wf w 32 20 + 1
  shape := shapeOf (wf w 29 3)
  base := wf w 26 3
  tight := wb w 25
  attach := wb w 24
  dfmt := wf w 20 4
  sr := wb w 19
  cols := wb w 18
  ddest := wf w 16 2
  cw := wf w 12 4
  t := 32

/-- DOT.PASS: K in terms, T vectors (R105). -/
def dotFields (w : LviWord) : PassOp where
  ca := wf w 60 4
  cb := wf w 56 4
  cd := wf w 52 4
  k := 32 * (wf w 44 8 + 256 * wf w 22 7 + 1)
  shape := .dot
  base := 0
  tight := wb w 38
  attach := wb w 37
  dfmt := wf w 33 4
  sr := wb w 32
  cols := wb w 31
  ddest := wf w 29 2
  cw := wf w 18 4
  t := wf w 39 5 + 1

/-- OPX.DRAIN and DOT.DRAIN. -/
structure DrainOp where
  cd : Nat
  base : Nat
  slot : Nat
  dfmt : Nat
  sr : Bool
  cols : Bool
  ddest : Nat
  deriving DecidableEq, Repr

def drainFields (w : LviWord) : DrainOp where
  cd := wf w 60 4
  base := wf w 57 3
  slot := wf w 56 1
  dfmt := wf w 52 4
  sr := wb w 51
  cols := wb w 50
  ddest := wf w 48 2

def passFields (w : LviWord) : PassOp := if wOp w = 0x60 then dotFields w else opxFields w

/-- Row blocks and column blocks of a gang (R81). -/
def shapeDims : Shape → Nat × Nat
  | .s32 => (1, 1)
  | .s64 => (2, 2)
  | .s128x64 => (4, 2)
  | .s64x128 => (2, 4)
  | .dot => (1, 8)

/-- The members of a gang (R81). -/
def shapeMembers (s : Shape) (base : Nat) : List Nat :=
  match s with
  | .s32 => [base]
  | .s64 => [base, base + 1, base + 2, base + 3]
  | _ => [0, 1, 2, 3, 4, 5, 6, 7]

/-- Block position (r, s) of Ak (R81). -/
def blockPos (sh : Shape) (base k : Nat) : Nat × Nat :=
  match sh with
  | .s32 => (0, 0)
  | .s64 => ((k - base) / 2, k % 2)
  | .s128x64 => (k / 2, k % 2)
  | .s64x128 => (k / 2 % 2, 2 * (k / 4) + k % 2)
  | .dot => (0, k)

/-- Leave of a gang start (R526); a mixed pairing takes the wider-rate format. -/
def gangLeave (sh : Shape) (fa fb : Nat) : Nat :=
  let r := max (stepsPerCycle fa) (stepsPerCycle fb)
  match sh with
  | .dot => 20
  | .s32 => if r = 1 then 3 else if r = 2 then 4 else 5
  | .s64 => if r = 1 then 10 else if r = 2 then 12 else 16
  | _ => if r = 1 then 20 else if r = 2 then 24 else 32

/-! ## Vector leave (R114, R328): 3 units above 128 lanes -/

/-- The lanes of a vector instruction. VLD and VST, memory forms that the tables of R112 and R328 give no lanes, count none
and ask no leave (log 64, DESIGN CHOICE). -/
def vectorLanes (w : LviWord) : Nat :=
  let op := wOp w
  if op = 0x82 then
    let n := wf w 33 9 + 1
    if wb w 42 then (n + 1) / 2 else n
  else if op = 0x80 ∨ op = 0x81 then 0
  else 256

def vectorLeave (w : LviWord) : Nat :=
  if 0x80 ≤ wOp w ∧ wOp w ≤ 0x8B ∧ vectorLanes w > 128 then 3 else 0

/-! ## Descriptors (R210) and handles (R223) -/

structure DescF where
  op : Nat
  path : Nat
  prefetch : Bool
  pushDst : Bool
  popSrc : Bool
  transpose : Bool
  srcDie : Nat
  srcQ : Nat
  dstDie : Nat
  dstQ : Nat
  smode : Nat
  s : Nat
  src : Nat
  dst : Nat
  len : Nat
  rows32 : Nat
  cols32 : Nat
  deadline : Nat
  shadow : Nat
  fmt : Nat
  resv : Bool
  deriving DecidableEq, Repr

def readDesc (b : List Byte) : DescF where
  op := fld b 0 1
  path := bits (fld b 1 1) 4 2
  prefetch := bit (fld b 1 1) 3
  pushDst := bit (fld b 1 1) 2
  popSrc := bit (fld b 1 1) 1
  transpose := bit (fld b 1 1) 0
  srcDie := bits (fld b 2 2) 9 4
  srcQ := bits (fld b 2 2) 0 9
  dstDie := bits (fld b 4 2) 9 4
  dstQ := bits (fld b 4 2) 0 9
  smode := bits (fld b 6 2) 14 2
  s := bits (fld b 6 2) 0 14
  src := fld b 8 8
  dst := fld b 0x10 8
  len := fld b 0x18 4
  rows32 := fld b 0x1C 2
  cols32 := fld b 0x1E 2
  deadline := fld b 0x20 8
  shadow := fld b 0x28 8
  fmt := fld b 0x30 1
  resv := fld b 1 1 ≥ 64 || fld b 2 2 ≥ 8192 || fld b 4 2 ≥ 8192 || !allZero (slice b 0x31 15)

/-- R11 and R211 for a descriptor on an engine of a die. PREFETCH is set only by the move (R238). -/
def descOk (die : Nat) (d : DescF) : Bool :=
  !d.resv && (d.op == 1 || d.op == 2) && d.smode != 2
    && (d.fmt == 0 || fmtOk d.fmt)
    && !(d.op == 1 && (d.transpose || d.path != 0 || d.rows32 != 0 || d.cols32 != 0 || d.fmt != 0))
    && ((d.deadline == 0) == (d.path == 0))
    && ((d.path == 1) == (d.shadow != 0))
    && !((d.path == 1 || d.path == 2) && (d.rows32 == 0 || d.cols32 == 0 || d.fmt == 0))
    && !(d.popSrc && d.srcDie != die) && !(d.popSrc && d.src != 0)
    && ((d.op == 1) == (d.len != 0))

/-- The 16 bytes of a handle (R223). -/
def handleBytes (h : Handle) : List Byte :=
  toLe 8 h.addr.toNat ++ toLe 4 h.len.toNat
    ++ toLe 2 ((if h.doneOnUse then 32768 else 0) + 8192 * h.td.toNat + h.region.toNat)
    ++ toLe 2 ((if h.fin then 2 else 0) + (if h.skip then 1 else 0))

/-- Bytes 0x0C to 0x0F of a handle as a word. -/
def handleTail (h : Handle) : W32 := BitVec.ofNat 32 (leNat ((handleBytes h).drop 12))

def readHandle (lo hi len tail : W32) : Handle where
  addr := BitVec.ofNat 57 (lo.toNat + 2 ^ 32 * hi.toNat)
  len := len
  doneOnUse := bit tail.toNat 15
  td := BitVec.ofNat 2 (bits tail.toNat 13 2)
  region := BitVec.ofNat 13 (bits tail.toNat 0 13)
  fin := bit tail.toNat 17
  skip := bit tail.toNat 16

end Sys2Proof.Machine
end

