-- ==== Sys2Proof/Machine/Check.lean ====
section
/-! DEFINITION. The static check of one instruction word (R300 to R303, R307, R309, R316, R318,
R320, R324, R327 to R329, R337, and the ranges of the operand tables), and the version in which
each form is defined (R290, R304). -/

namespace Sys2Proof.Machine

/-- Bits [hi:lo] set. -/
def iv (hi lo : Nat) : Nat := 2 ^ (hi + 1) - 2 ^ lo

/-- The defined bits of the operand field; none where OPCODE or EXT is reserved (R302). -/
def opMask (op ext : Nat) : Option Nat :=
  match op with
  | 0x00 | 0x01 => if ext = 0 then some 0 else none
  | 0x02 => if ext = 0 then some (iv 63 52) else if ext = 1 then some (iv 63 56 + iv 31 0) else none
  | 0x03 => if ext ≤ 5 then some (iv 63 61 + iv 59 52)
    else if 8 ≤ ext ∧ ext ≤ 13 then some (iv 63 61 + iv 59 56 + iv 31 0) else none
  | 0x04 => match ext with
    | 0 => some (iv 63 57 + iv 55 48)
    | 1 => some (iv 63 57 + iv 51 48 + iv 31 0)
    | 2 => some (iv 63 57 + iv 55 52 + iv 31 0)
    | 3 => some (iv 63 60 + iv 31 0)
    | _ => none
  | 0x05 => match ext with
    | 0 => some (iv 63 62 + iv 51 0)
    | 1 => some (iv 63 62 + iv 55 32)
    | _ => none
  | 0x06 => if ext ≤ 2 then some (iv 63 61 + iv 31 0) else none
  | 0x07 => match ext with
    | 0 => some (iv 59 56)
    | 1 | 2 => some (iv 31 0)
    | _ => none
  | 0x08 => if ext = 0 then some (iv 63 60) else none
  | 0x20 => if ext = 0 then some (iv 63 0) else none
  | 0x21 => if ext = 0 then some (iv 63 62 + iv 55 52 + iv 40 32) else none
  | 0x22 => if ext ≤ 1 then some (iv 63 60 + iv 40 32) else none
  | 0x23 => match ext with
    | 0 => some (iv 63 52)
    | 1 => some (iv 63 60 + iv 15 0)
    | 2 | 3 | 4 => some (iv 63 60)
    | _ => none
  | 0x24 => if ext = 0 then some (iv 15 0) else none
  | 0x40 => if ext = 0 then some (iv 63 12) else none
  | 0x41 => if ext = 0 then some (iv 63 48) else none
  | 0x60 => if ext = 0 then some (iv 63 18) else none
  | 0x61 => if ext = 0 then some (iv 63 48) else none
  | 0x80 | 0x81 => if ext = 0 then some (iv 63 37) else none
  | 0x82 => if ext ≤ 9 then some (iv 63 33) else none
  | 0x83 => if (1 ≤ ext ∧ ext ≤ 0xA) ∨ ext = 0x10 then some (iv 63 55) else none
  | 0x84 => if ext ≤ 10 then some (iv 63 33) else none
  | 0x85 => if ext ≤ 4 then some (iv 63 55) else none
  | 0x86 => if ext ≤ 6 then some (iv 63 51) else none
  | 0x87 => if ext ≤ 6 then some (iv 63 47) else none
  | 0x88 => if ext = 0 then some (iv 63 60) else none
  | 0x89 => if ext ≤ 1 then some (iv 63 56) else none
  | 0x8A => if ext = 0 then some (iv 63 43) else none
  | 0x8B => if ext = 0 then some (iv 63 47) else none
  | 0xC0 => if ext ≤ 2 then some (iv 63 48) else none
  | 0xC1 => if ext = 0 then some (iv 63 52) else none
  | 0xC2 => if ext = 0 then some (iv 63 52) else none
  | 0xC3 => match ext with
    | 0 => some (iv 63 56 + iv 47 32)
    | 1 => some (iv 63 52)
    | _ => none
  | 0xC4 => match ext with
    | 0 => some (iv 63 52)
    | 1 => some (iv 63 48)
    | _ => none
  | 0xC5 => if ext = 0 then some (iv 1 0) else none
  | 0xE0 => if ext ≤ 1 then some (iv 63 50 + iv 31 0)
    else if ext ≤ 3 then some (iv 63 46) else none
  | 0xE1 => if ext = 0 then some (iv 63 50) else none
  | 0xE2 => match ext with
    | 0 => some (iv 31 0)
    | 1 => some (iv 49 46)
    | _ => none
  | _ => none

def even (n : Nat) : Bool := n % 2 == 0

/-- Drain fields: 0x82 for a reserved code, 0x88 for a value outside its range (R320, R321). -/
def drainErr (maxFmt dfmt ddest cd : Nat) : Option Byte :=
  if ddest = 3 ∨ dfmt > 6 then some 0x82
  else if dfmt > maxFmt ∨ (ddest = 1 ∧ dfmt ≠ 0) ∨ (ddest = 2 ∧ ¬ even cd) then some 0x88
  else none

/-- Whether a split reduction keeps its sums in the CW tile (R324, R327). -/
def usesCw (p : PassOp) : Bool := decide (p.k > 8192) && p.attach && !((p.ddest == 0 && p.dfmt == 0) || p.ddest == 1)

/-- The pass fields of OPX.PASS and DOT.PASS. -/
def passErr (maxFmt : Nat) (p : PassOp) (shapeCode : Nat) : Option Byte :=
  if shapeCode > 3 then some 0x82
  else if ¬ p.attach ∧ (p.cd ≠ 0 ∨ p.dfmt ≠ 0 ∨ p.sr ∨ p.cols ∨ p.ddest ≠ 0) then some 0x82
  else if ¬ usesCw p ∧ p.cw ≠ 0 then some 0x82
  else if p.attach ∧ (drainErr maxFmt p.dfmt p.ddest p.cd).isSome then drainErr maxFmt p.dfmt p.ddest p.cd
  else if shapeCode = 1 ∧ p.base % 4 ≠ 0 then some 0x88
  else if shapeCode ≥ 2 ∧ p.base ≠ 0 then some 0x88
  else if p.k > 8192 ∧ ¬ p.attach then some 0x88
  else none

/-- The remaining rules of each opcode's operand field. -/
def fieldErr (w : LviWord) : Option Byte :=
  let ext := wExt w
  let bad (b : Bool) : Option Byte := if b then some 0x88 else none
  match wOp w with
  | 0x05 => bad (wf w 32 20 == 0)
  | 0x07 => bad (ext == 0 && !even (wf w 56 4))
  | 0x08 => bad (!even (wf w 60 4))
  | 0x20 => if wf w 5 5 > 16 ∨ wf w 0 5 > 16 then some 0x82 else bad (wf w 16 16 == 0)
  | 0x22 => bad (wT w)
  | 0x23 => if ext = 0 then bad (!even (wf w 56 4) || wSmode w == 0)
    else if ext = 1 then bad (wf w 0 16 == 0) else none
  | 0x40 => passErr 6 (opxFields w) (wf w 29 3)
  | 0x41 =>
    let d := drainFields w
    drainErr 6 d.dfmt d.ddest d.cd
  | 0x60 =>
    let p := dotFields w
    match passErr 4 p 0 with
    | some r => some r
    | none => bad (p.ddest == 1)
  | 0x61 =>
    let d := drainFields w
    match drainErr 4 d.dfmt d.ddest d.cd with
    | some r => some r
    | none => bad (d.base != 0)
  | 0x80 | 0x81 => if wf w 54 5 > 16 then some 0x82 else none
  | 0x82 => bad ((wb w 43 && decide (wf w 49 5 ≥ 16)) || (wb w 42 && decide (ext > 2)))
  | 0x84 => bad ((wb w 43 && decide (wf w 49 5 ≥ 16)) || wb w 42)
  | 0x87 => bad (decide (ext ≥ 4) && !wb w 47)
  | 0xC0 => if ext ≠ 0 ∧ wf w 48 2 ≠ 0 then some 0x82 else bad (decide (wf w 48 2 > 1) || !even (wf w 56 4))
  | 0xC1 => bad (!even (wf w 56 4))
  | 0xC5 => bad (!wT w)
  | 0xE2 =>
    let sm := wSmode w
    bad (sm == 0 || (sm != 2 && (ext != 0 || w.toNat % 2 ^ 64 != 0)))
  | _ => none

/-- The reason a word is refused, none for a well-formed one. -/
def wordErr (w : LviWord) : Option Byte :=
  match opMask (wOp w) (wExt w) with
  | none => some 0x82
  | some mask =>
    if (w.toNat % 2 ^ 64) &&& (2 ^ 64 - 1 - mask) ≠ 0 then some 0x82
    else if (wWmode w ≤ 1 ∧ wW1 w ≠ 0) ∨ (wWmode w = 0 ∧ wW0 w ≠ 0) ∨ (wSmode w = 0 ∧ wS w ≠ 0) then some 0x82
    else if wSmode w = 2 ∧ wOp w ≠ 0x20 ∧ wOp w ≠ 0xE2 then some 0x88
    else fieldErr w

/-- The version, 16 × major + minor, from which the form of a word is defined. -/
def sinceOf (w : LviWord) : Nat :=
  let ext := wExt w
  let base := match wOp w with
    | 0x07 | 0x08 => 0x20
    | 0x20 => if wf w 11 2 ≠ 0 then 0x20 else if wb w 10 then 0x13 else 0x10
    | 0x21 => 0x12
    | 0x22 => if ext = 1 then 0x22 else 0x12
    | 0x23 => 0x20
    | 0x24 => 0x21
    | 0x40 => if wf w 29 3 = 3 then 0x21 else 0x20
    | 0x41 => 0x20
    | 0x60 => if wf w 22 7 ≠ 0 ∨ wf w 18 4 ≠ 0 then 0x14 else 0x10
    | 0x83 => if 7 ≤ ext ∧ ext ≤ 9 then 0x31 else 0x10
    | 0x86 => if ext ≥ 4 then 0x23 else 0x10
    | 0x87 => if ext ≥ 4 then 0x23 else 0x11
    | 0x88 => 0x14
    | 0x89 | 0x8A | 0x8B => 0x22
    | 0xC0 => if ext ≥ 1 then 0x22 else 0x20
    | 0xC1 => 0x21
    | 0xC2 | 0xC3 => 0x20
    | 0xC4 | 0xC5 => 0x30
    | 0xE0 => if ext ≥ 2 then 0x20 else 0x10
    | _ => 0x10
  if wT w then max base 0x20 else base

/-- The defined LVI versions (R293). -/
def versionOk (major minor : Nat) : Bool :=
  (major == 1 && minor ≤ 4) || (major == 2 && minor ≤ 3) || (major == 3 && minor ≤ 2)

/-- Whether a word may stand in a container of the version (R290, R294). -/
def versionAllows (major minor : Nat) (w : LviWord) : Bool :=
  decide (sinceOf w ≤ 16 * major + minor)
    && !(major == 1 && 0x40 ≤ wOp w && wOp w ≤ 0x5F)
    && !(major != 1 && 0x60 ≤ wOp w && wOp w ≤ 0x6F)

end Sys2Proof.Machine
end

