-- ==== Sys2Proof/Machine/Regs.lean ====
section
/-! DEFINITION. The set-up registers of BAR0 (R8 to R10, R618 to R637): the field tables of the
register reference as data, the generic write under the access codes, and what a read shows. -/

namespace Sys2Proof.Machine

/-- Access codes (R8). -/
inductive Acc where
  | rw | ro | wo | w1c | w1s | rwl
  deriving DecidableEq, Repr

/-- A field [hi:lo] with its access code and reset value. -/
structure Fld where
  hi : Nat
  lo : Nat
  acc : Acc
  reset : Nat
  deriving DecidableEq, Repr

/-- What locks the RWL fields of a register (R621). -/
inductive Lock where
  | free | hub | sq | cq | part | trace | sync | lport | net | slot
  deriving DecidableEq, Repr

/-- The writers a register admits (R622 and the block headings). -/
inductive Writer where
  | pf0 | ring | stream | tracecnt | wdog | lport | vcw | tail | trace | mbox | clear
  deriving DecidableEq, Repr

/-- A family of registers: base offset, two index ranges with strides, lock, writers, fields. -/
structure RDef where
  base : Nat
  n1 : Nat
  s1 : Nat
  n2 : Nat
  s2 : Nat
  lock : Lock
  writer : Writer
  flds : List Fld
  deriving DecidableEq, Repr

/-! ## Offsets (R623) -/

def rHubModuleId : Nat := 0x8
def rHubModuleCtrl : Nat := 0x10
def rHubBar4Base : Nat := 0x30
def rHubServiceCfg : Nat := 0x60
def rHubFwImage : Nat := 0x68
def rHubFwLen : Nat := 0x70
def rHubSvcCtrl : Nat := 0x88
def rSq (n : Nat) : Nat := 0x100000 + 0x40 * n
def rCq (n : Nat) : Nat := 0x180000 + 0x40 * n
def rPart (k : Nat) : Nat := 0x200000 + 0x10000 * k
def rPwrCmd : Nat := 0x300000
def rPwrCtrl : Nat := 0x300020
def rPwrLimit : Nat := 0x300028
def rPwrBudget (u : Nat) : Nat := 0x300100 + 8 * u
def rPwrVmin (d : Nat) : Nat := 0x300200 + 8 * d
def rPwrVmax (d : Nat) : Nat := 0x300300 + 8 * d
def rPwrRefMax (n : Nat) : Nat := 0x300400 + 8 * n
def rTimeCtrl : Nat := 0x400010
def rTimeAsym (p : Nat) : Nat := 0x400100 + 8 * p
def rMboxReq (f : Nat) : Nat := 0x500000 + 0x1000 * f
def rFltLimit (l : Nat) : Nat := 0x600058 + 0x80 * l
def rCd (n : Nat) : Nat := 0x800000 + 0x100000 * n
def rTraceCtrl (g : Nat) : Nat := rCd (g / 16) + 0x10000 + 0x1000 * (g % 16)
def rEcntSel (g c : Nat) : Nat := rTraceCtrl g + 0x100 + 8 * c
/-- The block of a link port (R635). -/
def rLport (p : Nat) : Nat :=
  if p = 16 then 0x1800400 else if p = 17 then 0x1A00400
  else 0x1800000 + 0x100000 * (p / 4) + 0x100 * (p % 4)
def rMd (d : Nat) : Nat := 0x1C00000 + 0x100000 * d
def rSlot (d s : Nat) : Nat := rMd d + 0x1000 + 0x40 * s
def rTd (d : Nat) : Nat := 0x2200000 + 0x100000 * d

/-! ## The field tables -/

def regsHub : List RDef := [
  ⟨0x0, 1, 0, 1, 0, .free, .pf0, [⟨31, 16, .ro, 0x4832⟩, ⟨15, 8, .ro, 0⟩]⟩,
  ⟨0x8, 1, 0, 1, 0, .hub, .pf0, [⟨31, 31, .ro, 0⟩, ⟨13, 0, .rwl, 0⟩]⟩,
  ⟨0x10, 1, 0, 1, 0, .free, .pf0, [⟨0, 0, .rw, 0⟩]⟩,
  ⟨0x18, 1, 0, 1, 0, .free, .pf0, [⟨8, 8, .ro, 0⟩, ⟨7, 0, .ro, 0⟩]⟩,
  ⟨0x20, 1, 0, 1, 0, .free, .pf0, [⟨0, 0, .wo, 0⟩]⟩,
  ⟨0x28, 1, 0, 1, 0, .free, .pf0, [⟨16, 16, .ro, 0⟩, ⟨15, 8, .ro, 0⟩, ⟨7, 0, .ro, 0⟩]⟩,
  ⟨0x30, 1, 0, 1, 0, .free, .pf0, [⟨48, 30, .rw, 0⟩]⟩,
  ⟨0x38, 1, 0, 1, 0, .free, .pf0, [⟨17, 5, .rw, 0⟩, ⟨4, 0, .rw, 0⟩]⟩,
  ⟨0x40, 4, 8, 1, 0, .free, .pf0, [⟨63, 0, .ro, 0⟩]⟩,
  ⟨0x60, 1, 0, 1, 0, .free, .pf0, [⟨1, 1, .rw, 0⟩, ⟨0, 0, .rw, 0⟩]⟩,
  ⟨0x68, 1, 0, 1, 0, .free, .pf0, [⟨63, 0, .rw, 0⟩]⟩,
  ⟨0x70, 1, 0, 1, 0, .free, .pf0, [⟨31, 0, .rw, 0⟩]⟩,
  ⟨0x78, 1, 0, 1, 0, .free, .pf0, [⟨10, 8, .wo, 0⟩, ⟨3, 0, .wo, 0⟩]⟩,
  ⟨0x80, 1, 0, 1, 0, .free, .pf0, [⟨21, 16, .ro, 0⟩, ⟨15, 8, .ro, 0⟩, ⟨0, 0, .ro, 0⟩]⟩,
  ⟨0x88, 1, 0, 1, 0, .free, .pf0, [⟨10, 0, .rw, 0⟩]⟩,
  ⟨0x100, 16, 0x10, 1, 0, .free, .pf0,
    [⟨63, 32, .wo, 0⟩, ⟨31, 16, .wo, 0⟩, ⟨15, 8, .wo, 0⟩, ⟨3, 0, .wo, 0⟩]⟩,
  ⟨0x108, 16, 0x10, 1, 0, .free, .pf0, [⟨15, 8, .ro, 0⟩, ⟨1, 1, .ro, 0⟩, ⟨0, 0, .w1c, 0⟩]⟩]

def regsRing : List RDef := [
  ⟨0x100000, 1024, 0x40, 1, 0, .sq, .ring, [⟨63, 12, .rwl, 0⟩]⟩,
  ⟨0x100008, 1024, 0x40, 1, 0, .sq, .ring, [⟨4, 0, .rwl, 0⟩]⟩,
  ⟨0x100010, 1024, 0x40, 1, 0, .sq, .ring, [⟨31, 24, .rwl, 1⟩, ⟨18, 16, .rwl, 0⟩, ⟨10, 8, .rwl, 0⟩,
    ⟨5, 2, .rwl, 0⟩, ⟨1, 1, .rwl, 0⟩, ⟨0, 0, .rw, 0⟩]⟩,
  ⟨0x100018, 1024, 0x40, 1, 0, .free, .pf0, [⟨31, 16, .ro, 0⟩, ⟨8, 8, .ro, 1⟩, ⟨7, 0, .ro, 0⟩]⟩,
  ⟨0x180000, 1024, 0x40, 1, 0, .cq, .ring, [⟨63, 12, .rwl, 0⟩]⟩,
  ⟨0x180008, 1024, 0x40, 1, 0, .cq, .ring, [⟨4, 0, .rwl, 0⟩]⟩,
  ⟨0x180010, 1024, 0x40, 1, 0, .cq, .ring, [⟨63, 48, .rw, 0⟩, ⟨47, 32, .rw, 1⟩, ⟨26, 16, .rwl, 0⟩,
    ⟨10, 8, .rwl, 0⟩, ⟨5, 2, .rwl, 0⟩, ⟨1, 1, .rwl, 0⟩, ⟨0, 0, .rw, 0⟩]⟩,
  ⟨0x180018, 1024, 0x40, 1, 0, .free, .pf0, [⟨63, 32, .ro, 0⟩, ⟨31, 16, .ro, 0⟩, ⟨7, 0, .ro, 0⟩]⟩]

/-- The four 16-bit entries of a PART_POOL_TQ word: V, then die and queue (R628). -/
def poolTqFlds : List Fld :=
  (List.range 4).flatMap fun i => [⟨16 * i + 15, 16 * i + 15, .rwl, 0⟩, ⟨16 * i + 12, 16 * i, .rwl, 0⟩]

def regsPart : List RDef := [
  ⟨0x200000, 8, 0x10000, 1, 0, .part, .pf0,
    [⟨21, 16, .rwl, 0⟩, ⟨15, 8, .rwl, 0⟩, ⟨1, 1, .rwl, 0⟩, ⟨0, 0, .rw, 0⟩]⟩,
  ⟨0x200008, 8, 0x10000, 1, 0, .free, .pf0, [⟨9, 9, .ro, 0⟩, ⟨8, 8, .ro, 0⟩, ⟨7, 0, .ro, 0⟩]⟩,
  ⟨0x200010, 8, 0x10000, 1, 0, .part, .pf0, [⟨48, 12, .rwl, 0⟩]⟩,
  ⟨0x200018, 8, 0x10000, 1, 0, .part, .pf0, [⟨48, 30, .rwl, 0⟩]⟩,
  ⟨0x200020, 8, 0x10000, 4, 8, .part, .pf0, [⟨17, 0, .rwl, 0⟩]⟩,
  ⟨0x200040, 8, 0x10000, 4, 0x10, .part, .pf0, [⟨49, 32, .rwl, 0⟩, ⟨17, 0, .rwl, 0⟩]⟩,
  ⟨0x200048, 8, 0x10000, 4, 0x10, .part, .pf0, [⟨49, 32, .rwl, 0⟩, ⟨17, 0, .rwl, 0⟩]⟩,
  ⟨0x200080, 8, 0x10000, 1, 0, .part, .pf0, [⟨39, 20, .rwl, 0⟩, ⟨18, 16, .rwl, 0⟩, ⟨12, 0, .rwl, 0⟩]⟩,
  ⟨0x200088, 8, 0x10000, 2, 8, .part, .pf0, poolTqFlds⟩,
  ⟨0x200100, 8, 0x10000, 16, 0x10, .part, .pf0, [⟨48, 21, .rwl, 0⟩, ⟨0, 0, .rwl, 0⟩]⟩,
  ⟨0x200108, 8, 0x10000, 16, 0x10, .part, .pf0, [⟨48, 21, .rwl, 0⟩]⟩,
  ⟨0x200200, 8, 0x10000, 16, 0x20, .part, .pf0, [⟨56, 30, .rwl, 0⟩, ⟨0, 0, .rwl, 0⟩]⟩,
  ⟨0x200208, 8, 0x10000, 16, 0x20, .part, .pf0, [⟨29, 16, .rwl, 0⟩, ⟨15, 0, .rwl, 0⟩]⟩,
  ⟨0x200210, 8, 0x10000, 16, 0x20, .part, .pf0, [⟨56, 30, .rwl, 0⟩]⟩,
  ⟨0x200400, 8, 0x10000, 2, 8, .free, .pf0, [⟨63, 32, .ro, 0⟩, ⟨31, 0, .ro, 0⟩]⟩,
  ⟨0x200480, 8, 0x10000, 1, 0, .trace, .pf0, [⟨63, 12, .rwl, 0⟩]⟩,
  ⟨0x200488, 8, 0x10000, 1, 0, .trace, .trace, [⟨31, 31, .rw, 0⟩, ⟨4, 0, .rwl, 12⟩]⟩,
  ⟨0x200490, 8, 0x10000, 1, 0, .free, .pf0, [⟨31, 0, .ro, 0⟩]⟩,
  ⟨0x200498, 8, 0x10000, 1, 0, .free, .tail, [⟨31, 0, .rw, 0⟩]⟩]

def regsPwr : List RDef := [
  ⟨0x300000, 1, 0, 1, 0, .free, .pf0, [⟨18, 16, .rw, 0⟩, ⟨12, 8, .rw, 0⟩, ⟨3, 2, .rw, 0⟩, ⟨0, 0, .rw, 0⟩]⟩,
  ⟨0x300008, 1, 0, 1, 0, .free, .pf0,
    [⟨13, 13, .ro, 0⟩, ⟨12, 12, .ro, 0⟩, ⟨11, 11, .w1c, 0⟩, ⟨10, 8, .ro, 4⟩, ⟨7, 0, .ro, 0⟩]⟩,
  ⟨0x300010, 1, 0, 1, 0, .free, .pf0, [⟨31, 0, .ro, 0xFFFFFFFF⟩]⟩,
  ⟨0x300018, 1, 0, 1, 0, .free, .pf0, [⟨35, 0, .ro, 0xAAAAAAAAA⟩]⟩,
  ⟨0x300020, 1, 0, 1, 0, .free, .pf0, [⟨10, 0, .rw, 0⟩]⟩,
  ⟨0x300028, 1, 0, 1, 0, .free, .pf0, [⟨12, 0, .rw, 0⟩]⟩,
  ⟨0x300030, 1, 0, 1, 0, .free, .pf0, [⟨12, 0, .ro, 0⟩]⟩,
  ⟨0x300038, 1, 0, 1, 0, .free, .pf0, [⟨47, 32, .ro, 0⟩, ⟨31, 16, .ro, 0⟩, ⟨15, 0, .ro, 0⟩]⟩,
  ⟨0x300100, 22, 8, 1, 0, .free, .pf0, [⟨15, 0, .rw, 0⟩]⟩,
  ⟨0x300200, 32, 8, 1, 0, .free, .pf0, [⟨9, 0, .rw, 0⟩]⟩,
  ⟨0x300300, 32, 8, 1, 0, .free, .pf0, [⟨9, 0, .rw, 0⟩]⟩,
  ⟨0x300400, 16, 8, 1, 0, .free, .pf0, [⟨7, 0, .rw, 8⟩]⟩]

def regsTime : List RDef := [
  ⟨0x400000, 1, 0, 1, 0, .free, .pf0, [⟨63, 0, .ro, 0⟩]⟩,
  ⟨0x400008, 1, 0, 1, 0, .free, .pf0, [⟨63, 0, .wo, 0⟩]⟩,
  ⟨0x400010, 1, 0, 1, 0, .sync, .pf0,
    [⟨12, 8, .rwl, 0⟩, ⟨3, 3, .rw, 0⟩, ⟨2, 2, .rw, 0⟩, ⟨1, 1, .rwl, 0⟩, ⟨0, 0, .rw, 0⟩]⟩,
  ⟨0x400018, 1, 0, 1, 0, .free, .pf0, [⟨63, 32, .ro, 0⟩, ⟨2, 2, .w1c, 0⟩, ⟨1, 0, .ro, 0⟩]⟩,
  ⟨0x400100, 18, 8, 1, 0, .free, .pf0, [⟨15, 0, .rw, 0⟩]⟩]

def regsSec : List RDef := [
  ⟨0x500000, 9, 0x1000, 1, 0, .free, .mbox, [⟨63, 6, .rw, 0⟩]⟩,
  ⟨0x500008, 9, 0x1000, 1, 0, .free, .mbox, [⟨0, 0, .wo, 0⟩]⟩,
  ⟨0x500010, 9, 0x1000, 1, 0, .free, .mbox, [⟨15, 8, .ro, 0⟩, ⟨1, 1, .ro, 0⟩, ⟨0, 0, .ro, 0⟩]⟩,
  ⟨0x600000, 288, 0x80, 8, 8, .free, .pf0, [⟨63, 0, .ro, 0⟩]⟩,
  ⟨0x600040, 288, 0x80, 1, 0, .free, .pf0, [⟨31, 0, .ro, 0⟩]⟩,
  ⟨0x600048, 288, 0x80, 1, 0, .free, .pf0, [⟨31, 0, .ro, 0⟩]⟩,
  ⟨0x600050, 288, 0x80, 1, 0, .free, .clear, [⟨1, 1, .wo, 0⟩, ⟨0, 0, .wo, 0⟩]⟩,
  ⟨0x600058, 288, 0x80, 1, 0, .free, .pf0, [⟨31, 0, .rw, 1024⟩]⟩]

def regsCd : List RDef := [
  ⟨0x800000, 16, 0x100000, 1, 0, .free, .wdog, [⟨31, 0, .rw, 50000⟩]⟩,
  ⟨0x800008, 16, 0x100000, 1, 0, .free, .tracecnt, [⟨15, 0, .wo, 0⟩]⟩,
  ⟨0x802000, 16, 0x100000, 256, 8, .free, .pf0, []⟩,
  ⟨0x810000, 16, 0x100000, 16, 0x1000, .free, .tracecnt, [⟨14, 8, .rw, 0⟩, ⟨7, 0, .rw, 0⟩]⟩]

def regsLd : List RDef :=
  ((List.range 4).map fun j =>
    ⟨0x1800000 + 0x100 * j, 4, 0x100000, 1, 0, .lport, .lport,
      [⟨18, 16, .rwl, 0⟩, ⟨13, 12, .rwl, 1⟩, ⟨10, 8, .rwl, 7⟩, ⟨6, 4, .rwl, 7⟩, ⟨1, 1, .w1s, 0⟩, ⟨0, 0, .rw, 0⟩]⟩) ++
  [⟨0x1800400, 2, 0x200000, 1, 0, .lport, .lport,
      [⟨18, 16, .rwl, 0⟩, ⟨13, 12, .rwl, 1⟩, ⟨10, 8, .rwl, 7⟩, ⟨6, 4, .rwl, 7⟩, ⟨1, 1, .w1s, 0⟩, ⟨0, 0, .rw, 0⟩]⟩,
   ⟨0x1800008, 4, 0x100000, 4, 0x100, .free, .pf0, [⟨24, 0, .ro, 0⟩]⟩,
   ⟨0x1800408, 2, 0x200000, 1, 0, .free, .pf0, [⟨24, 0, .ro, 0⟩]⟩,
   ⟨0x1800010, 4, 0x100000, 4, 0x100, .free, .vcw, [⟨23, 16, .rw, 1⟩, ⟨15, 8, .rw, 1⟩, ⟨7, 0, .rw, 1⟩]⟩,
   ⟨0x1800410, 2, 0x200000, 1, 0, .free, .vcw, [⟨23, 16, .rw, 1⟩, ⟨15, 8, .rw, 1⟩, ⟨7, 0, .rw, 1⟩]⟩,
   ⟨0x1800018, 4, 0x100000, 4, 0x100, .free, .pf0, [⟨7, 0, .rw, 0xFF⟩]⟩,
   ⟨0x1800418, 2, 0x200000, 1, 0, .free, .pf0, [⟨7, 0, .rw, 0xFF⟩]⟩,
   ⟨0x1800020, 4, 0x100000, 4, 0x100, .free, .pf0, [⟨63, 0, .ro, 0⟩]⟩,
   ⟨0x1800420, 2, 0x200000, 1, 0, .free, .pf0, [⟨63, 0, .ro, 0⟩]⟩]

def regsMd : List RDef := [
  ⟨0x1C00000, 6, 0x100000, 2, 8, .net, .pf0, [⟨63, 0, .rwl, 0⟩]⟩,
  ⟨0x1C00010, 6, 0x100000, 1, 0, .net, .pf0, [⟨63, 16, .ro, 0⟩, ⟨15, 0, .rwl, 9400⟩]⟩,
  ⟨0x1C00020, 6, 0x100000, 4, 8, .free, .pf0, [⟨63, 0, .ro, 0⟩]⟩,
  ⟨0x1C01000, 6, 0x100000, 64, 0x40, .free, .stream, [⟨1, 1, .rw, 0⟩, ⟨0, 0, .rw, 0⟩]⟩,
  ⟨0x1C01008, 6, 0x100000, 64, 0x40, .slot, .stream, [⟨56, 0, .rwl, 0⟩]⟩,
  ⟨0x1C01010, 6, 0x100000, 64, 0x40, .free, .pf0, [⟨63, 32, .ro, 0⟩, ⟨15, 8, .ro, 0⟩, ⟨6, 4, .ro, 0⟩, ⟨2, 0, .ro, 0⟩]⟩,
  ⟨0x1C01018, 6, 0x100000, 64, 0x40, .free, .pf0, [⟨63, 0, .ro, 0⟩]⟩,
  ⟨0x1C01020, 6, 0x100000, 64, 0x40, .free, .pf0, [⟨63, 0, .ro, 0⟩]⟩,
  ⟨0x1C01028, 6, 0x100000, 64, 0x40, .free, .pf0, [⟨63, 0, .ro, 0⟩]⟩,
  ⟨0x1C01030, 6, 0x100000, 64, 0x40, .free, .pf0, [⟨63, 0, .ro, 0⟩]⟩]

/-- The counter registers of one engine (R634), at the engine's own base. -/
def regsEcnt : List RDef :=
  (List.range 16).flatMap fun n => [
    ⟨0x810100 + 0x100000 * n, 16, 0x1000, 32, 8, .free, .tracecnt, [⟨8, 8, .rw, 0⟩, ⟨4, 0, .rw, 0⟩]⟩,
    ⟨0x810200 + 0x100000 * n, 16, 0x1000, 32, 8, .free, .pf0, [⟨63, 0, .ro, 0⟩]⟩,
    ⟨0x810300 + 0x100000 * n, 16, 0x1000, 32, 8, .free, .pf0, [⟨63, 0, .ro, 0⟩]⟩]

def regsTd : List RDef := [
  ⟨0x2200000, 4, 0x100000, 1, 0, .free, .pf0, [⟨13, 0, .ro, 0⟩]⟩,
  ⟨0x2200008, 4, 0x100000, 1, 0, .free, .pf0, [⟨1, 1, .ro, 0⟩, ⟨0, 0, .ro, 0⟩]⟩,
  ⟨0x2200100, 4, 0x100000, 16, 8, .free, .pf0, [⟨1, 1, .ro, 0⟩, ⟨0, 0, .ro, 0⟩]⟩]

/-- The tables of the block that holds an offset (R623). -/
def blockRegs (off : Nat) : List RDef :=
  if off < 0x100000 then regsHub
  else if off < 0x200000 then regsRing
  else if off < 0x300000 then regsPart
  else if off < 0x400000 then regsPwr
  else if off < 0x500000 then regsTime
  else if off < 0x700000 then regsSec
  else if off < 0x800000 then []
  else if off < 0x1800000 then regsCd ++ regsEcnt
  else if off < 0x1C00000 then regsLd
  else if off < 0x2200000 then regsMd
  else if off < 0x2600000 then regsTd
  else []

/-- Whether the 8-byte register at an offset is one of the family, with its two indices. -/
def rdefMatch (d : RDef) (off : Nat) : Option (Nat × Nat) :=
  if off < d.base then none else
  let x := off - d.base
  let i := if d.n1 ≤ 1 then 0 else min (d.n1 - 1) (x / d.s1)
  let y := x - i * d.s1
  let j := if d.n2 ≤ 1 then 0 else y / d.s2
  if j < d.n2 ∧ y = j * d.s2 then some (i, j) else none

/-- The register at an 8-byte aligned offset. -/
def findReg : List RDef → Nat → Option (RDef × Nat × Nat)
  | [], _ => none
  | d :: r, off => match rdefMatch d off with
    | some (i, j) => some (d, i, j)
    | none => findReg r off

def lookReg (off : Nat) : Option (RDef × Nat × Nat) := findReg (blockRegs off) off

/-- The fused reset values of PWR_VMIN and PWR_VMAX (R630). -/
def fusedReset (off : Nat) : Nat :=
  if 0x300200 ≤ off ∧ off < 0x300300 then Config.vMinFused ((off - 0x300200) / 8) % 1024
  else if 0x300300 ≤ off ∧ off < 0x300400 then Config.vMaxFused ((off - 0x300300) / 8) % 1024
  else 0

/-- The reset value of the stored fields of a register. -/
def regReset (off : Nat) : W64 :=
  match lookReg off with
  | none => 0
  | some (d, _, _) => BitVec.ofNat 64 ((d.flds.foldl (fun a f =>
      match f.acc with
      | .rw | .rwl => a + f.reset * 2 ^ f.lo
      | _ => a) 0) + fusedReset off)

/-- The stored word of a register: its RW and RWL fields. -/
def reg (m : Mod) (off : Nat) : W64 := sget (regReset off) m.bar0 off
def regN (m : Mod) (off : Nat) : Nat := (reg m off).toNat
def setReg (m : Mod) (off : Nat) (v : W64) : Mod := { m with bar0 := sset (regReset off) m.bar0 off v }
/-- A field [lo + n - 1 : lo] of a stored register. -/
def regF (m : Mod) (off lo n : Nat) : Nat := bits (regN m off) lo n
def regB (m : Mod) (off i : Nat) : Bool := bit (regN m off) i
/-- A bit of a stored register set or cleared by the module itself. -/
def setBit (m : Mod) (off i : Nat) (b : Bool) : Mod :=
  let v := regN m off
  let cleared := v - (if bit v i then 2 ^ i else 0)
  setReg m off (BitVec.ofNat 64 (if b then cleared + 2 ^ i else cleared))

/-! ## Named fields the machine uses -/

def moduleNum (m : Mod) : Nat := regF m rHubModuleId 0 14
def moduleEn (m : Mod) : Bool := regB m rHubModuleCtrl 0
def sqEn (m : Mod) (n : Nat) : Bool := regB m (rSq n + 0x10) 0
def cqEn (m : Mod) (n : Nat) : Bool := regB m (rCq n + 0x10) 0
def sqOwner (m : Mod) (n : Nat) : Nat := regF m (rSq n + 0x10) 2 4
def cqOwner (m : Mod) (n : Nat) : Nat := regF m (rCq n + 0x10) 2 4
def sqModuleRing (m : Mod) (n : Nat) : Bool := regB m (rSq n + 0x10) 1
def cqModuleRing (m : Mod) (n : Nat) : Bool := regB m (rCq n + 0x10) 1
def sqPart (m : Mod) (n : Nat) : Nat := regF m (rSq n + 0x10) 8 3
def cqPart (m : Mod) (n : Nat) : Nat := regF m (rCq n + 0x10) 8 3
/-- The partition of a ring, none for a module ring (R485). -/
def ringPart (m : Mod) (n : Nat) : Option Nat := if sqModuleRing m n then none else some (sqPart m n)
def sqSize (m : Mod) (n : Nat) : Nat := 2 ^ regF m (rSq n + 8) 0 5
def cqSize (m : Mod) (n : Nat) : Nat := 2 ^ regF m (rCq n + 8) 0 5
def partEn (m : Mod) (k : Nat) : Bool := regB m (rPart k) 0
def partPairs (m : Mod) (k : Nat) : Nat := regF m (rPart k) 8 8
def partVf (m : Mod) (k : Nat) : Bool := regB m (rPart k) 1
def partIngest (m : Mod) (k : Nat) : Nat := regF m (rPart k) 16 6
/-- The compute dies of a partition in ascending order (R476). -/
def partDies (m : Mod) (k : Nat) : List Nat :=
  (List.range 16).filter fun d => bit (partPairs m k) (d / 2)
/-- The VF of a partition is live (R480, R559). -/
def vfLive (m : Mod) (f : Nat) : Bool :=
  f == 0 || (partEn m (f - 1) && partVf m (f - 1) && (partSt m (f - 1)).scrub.isNone)
/-- The enabled partition that holds a die. -/
def dieOwner (m : Mod) (d : Nat) : Option Nat :=
  (List.range 8).find? fun k => partEn m k && bit (partPairs m k) (d / 2)
def portEn (m : Mod) (p : Nat) : Bool := regB m (rLport p) 0
def portPart (m : Mod) (p : Nat) : Nat := regF m (rLport p) 16 3
def timeRoot (m : Mod) : Bool := regB m rTimeCtrl 1
def syncEn (m : Mod) : Bool := regB m rTimeCtrl 0
def upstream (m : Mod) : Nat := regF m rTimeCtrl 8 5
def streamEn (m : Mod) (d s : Nat) : Bool := regB m (rSlot d s) 0
/-- The partition a media die's slots belong to (R479). -/
def mediaPart (m : Mod) (d : Nat) : Option Nat :=
  (List.range 8).find? fun k => bit (partIngest m k) d && (partEn m k || (partSt m k).scrub.isSome)

/-! ## Locks and writers (R621, R622, R628) -/

/-- The port of an index in the two LPORT tables. -/
def lportOf (off : Nat) : Nat :=
  let x := off - 0x1800000
  if x % 0x100000 ≥ 0x400 then (if x < 0x200000 then 16 else 17)
  else 4 * (x / 0x100000) + x % 0x100000 / 0x100

def isLocked (m : Mod) (off : Nat) (d : RDef) (i j : Nat) : Bool :=
  match d.lock with
  | .free => false
  | .hub => moduleEn m
  | .sq => sqEn m i
  | .cq => cqEn m i
  | .part => partEn m i
  | .trace => regB m (rPart i + 0x488) 31
  | .sync => syncEn m
  | .lport => portEn m (lportOf off)
  | .net => (List.range 64).any fun s => streamEn m i s
  | .slot => streamEn m i j

/-- Whether a function may write the register (R622); PF0 may write all but the partition
registers of a scrub (R563, R628). -/
def mayWrite (m : Mod) (f : Nat) (off : Nat) (d : RDef) (i j : Nat) : Bool :=
  if f = 0 then
    !(0x200000 ≤ off && off < 0x300000 && (partSt m i).scrub.isSome) &&
      (!(0x500000 ≤ off && off < 0x600000) || i == 0)
  else
    let k := f - 1
    match d.writer with
    | .pf0 => false
    | .ring => (if off < 0x180000 then sqOwner m i else cqOwner m i) == f
    | .stream => bit (partIngest m k) i
    | .tracecnt => (partDies m k).contains ((off - 0x800000) / 0x100000)
    | .wdog => (partDies m k).contains i
    | .lport | .vcw => portPart m (lportOf off) == k
    | .tail | .trace => i == k
    | .mbox => i == f
    | .clear => (if i < 256 then (partDies m k).contains (i / 16)
                 else i < 272 && (partDies m k).contains (i - 256)) && j == j

/-- Fields of a register a VF may not write although it may write the register (R622, R627, R628,
R635). -/
def vfBarred (off : Nat) (fl : Fld) : Bool :=
  if 0x100000 ≤ off ∧ off < 0x200000 then off % 0x40 == 0x10 && fl.hi ≤ 10 && 1 ≤ fl.lo
  else if 0x1800000 ≤ off ∧ off < 0x1C00000 then off % 0x100 == 0 && fl.lo == 16
  else if 0x200000 ≤ off ∧ off < 0x300000 then off % 0x10000 == 0x488 && fl.lo == 0
  else false

/-- The enable bits whose setting has a row of its own (R506), besides TRACE_SIZE.ON. -/
def enableBit (off : Nat) (fl : Fld) : Bool :=
  fl.acc == .rw && fl.hi == fl.lo &&
  ((off == 0x10 && fl.lo == 0) ||
   (0x100000 ≤ off && off < 0x200000 && off % 0x40 == 0x10 && fl.lo == 0) ||
   (0x200000 ≤ off && off < 0x300000 && (off % 0x10000 == 0 && fl.lo == 0 || off % 0x10000 == 0x488 && fl.lo == 31)) ||
   (off == 0x300000 && fl.lo == 0) ||
   (off == 0x400010 && fl.lo == 0) ||
   (0x1800000 ≤ off && off < 0x1C00000 && off % 0x100 == 0 && fl.lo == 0) ||
   (0x1C00000 ≤ off && off < 0x2200000 && off % 0x100000 ≥ 0x1000 && off % 0x40 == 0 && fl.lo == 0))

/-- The stored word after a write of v, field by field (R8, R10): RW sets, RWL sets unless
locked, every other access code leaves the stored word. `skip` names fields left alone. -/
def writeFields (locked : Bool) (skip : Fld → Bool) (old v : Nat) : List Fld → Nat
  | [] => old
  | f :: r =>
    let n := f.hi + 1 - f.lo
    let sets := (f.acc == .rw || (f.acc == .rwl && !locked)) && !skip f
    let old' := if sets then old - bits old f.lo n * 2 ^ f.lo + bits v f.lo n * 2 ^ f.lo else old
    writeFields locked skip old' v r

/-! ## What a read shows -/

def entryWords (e : FEntry) : List W64 := [
  BitVec.ofNat 64 (e.index.toNat + 2 ^ 8 * e.kind.toNat + 2 ^ 16 * e.typ.toNat
    + (match e.part with | none => 0 | some k => 2 ^ 24 * (128 + k)) + 2 ^ 32 * e.reason.toNat
    + 2 ^ 40 * ((if e.va then 1 else 0) + (if e.poison then 2 else 0) + (if e.task.isSome then 4 else 0))
    + 2 ^ 48 * e.task.getD 0),
  e.addr, e.time, e.info]

def psNum : PSt → Nat
  | .down => 0 | .training => 1 | .hello => 2 | .keying => 3 | .up => 4

def ssNum : SSt → Nat
  | .disabled => 0 | .listening => 1 | .opn => 2 | .paused => 3 | .draining => 4 | .closed => 5 | .error => 6

def syNum : SyncState → Nat
  | .freerun => 0 | .acquire => 1 | .locked => 2 | .holdover => 3

def b2n (b : Bool) : Nat := if b then 1 else 0

/-- Signed value in n bits. -/
def twos (n : Nat) (v : Int) : Nat := (v % (2 ^ n : Nat)).toNat

/-- A counter sample (R591). -/
def sample (coincident : Bool) (c : ECnt) : W64 :=
  BitVec.ofNat 64 (c.value % 2 ^ 48 + 2 ^ 62 * b2n c.sat + 2 ^ 63 * b2n coincident)

/-- A sample of a counter: in the cycle of a RESET_ON_START clear it is the value before the clear, with COINCIDENT
(R592). -/
def counterSample (t : Clk) (m : Mod) (g c : Nat) : W64 :=
  let e := engine m g
  match e.cleared with
  | some (at_, old) =>
    if at_ = t.now ∧ regB m (rEcntSel g c) 8 ∧ Config.sameCycle t.now m.nextId then sample true (sget {} old c)
    else sample false (sget {} e.ecnt c)
  | none => sample false (sget {} e.ecnt c)

/-- SQ_STATUS.IDLE (R627). -/
def sqIdle (m : Mod) (n : Nat) : Bool := !sqEn m n && m.cmds.all fun c => c.sq != n

def almanacWords (a : Almanac) (die : Nat) : List W64 := [a.poh,
  BitVec.ofNat 64 (die + 2 ^ 8 * a.mon.toNat + 2 ^ 16 * twos 16 a.worst + 2 ^ 32 * twos 16 a.mean
    + 2 ^ 48 * (a.vmv % 65536)),
  BitVec.ofNat 64 (twos 16 a.tj + 2 ^ 16 * (a.plan % 65536) + 2 ^ 32 * a.flags.toNat), 0]

def sumPow (n : Nat) (f : Nat → Nat) (w : Nat) : Nat :=
  (List.range n).foldl (fun a i => a + f i * 2 ^ (w * i)) 0

/-- The RO, W1C and W1S fields of a register as the units report them. -/
def regLive (t : Clk) (m : Mod) (off : Nat) : Nat :=
  if off < 0x100000 then
    if off = 0 then 0x48320000 + Config.stepping.toNat * 256
    else if off = 0x8 then b2n m.hub.idSet * 2 ^ 31
    else if off = 0x18 then m.hub.reason.toNat + 256 * b2n m.hub.recovery
    else if off = 0x28 then (match m.hub.bootFail with
      | none => 0 | some (u, r) => 65536 + 256 * u + r.toNat)
    else if 0x40 ≤ off ∧ off < 0x60 then
      let sel := regN m 0x38
      let die := bits sel 0 5
      match (sget [] m.pwr.almanac die)[bits sel 5 13]? with
      | none => 0
      | some a => ((almanacWords a die)[(off - 0x40) / 8]?.getD 0).toNat
    else if off = 0x80 then
      m.hub.fwReason.toNat * 256 + b2n m.hub.fwBusy
        + 65536 * sumPow 6 (fun k => b2n (sget {} m.hub.fw k).activeB) 1
    else if 0x100 ≤ off ∧ off < 0x200 ∧ off % 16 = 8 then
      let s : Svc := sget {} m.hub.svc ((off - 0x108) / 16)
      s.reason.toNat * 256 + 2 * b2n s.busy + b2n s.done
    else 0
  else if off < 0x180000 then
    let n := (off - 0x100000) / 0x40
    if off % 0x40 = 0x18 then
      (ring m n).reason.toNat + 256 * b2n (sqIdle m n) + 65536 * ((ring m n).head % 65536) else 0
  else if off < 0x200000 then
    let r := ring m ((off - 0x180000) / 0x40)
    if off % 0x40 = 0x18 then r.cqReason.toNat + 65536 * (r.cqTail % 65536) + 2 ^ 32 * r.evLost else 0
  else if off < 0x300000 then
    let k := (off - 0x200000) / 0x10000
    let o := off % 0x10000
    let p := partSt m k
    if o = 8 then p.reason.toNat + 256 * b2n p.scrub.isSome + 512 * b2n (vfLive m (k + 1))
    else if o = 0x400 then p.conflict + 2 ^ 32 * p.staleRound
    else if o = 0x408 then p.tokenDrop + 2 ^ 32 * p.epochDrop
    else if o = 0x490 then p.traceHead
    else 0
  else if off < 0x400000 then
    if off = 0x300008 then m.pwr.reason.toNat + 256 * msNum m.pwr.state + 2048 * b2n m.pwr.twarn
      + 4096 * b2n m.pwr.tripped + 8192 * b2n m.pwr.walk.isSome
    else if off = 0x300010 then sumPow 16 (dieState m) 2
    else if off = 0x300018 then sumPow 18 (portState m) 2
    else if off = 0x300030 then sget (Config.floorWatts (msNum m.pwr.state)) m.pwr.floors (msNum m.pwr.state) % 8192
    else if off = 0x300038 then m.pwr.input.1 % 65536 + 65536 * (m.pwr.input.2.1 % 65536)
      + 2 ^ 32 * (m.pwr.input.2.2 % 65536)
    else 0
  else if off < 0x500000 then
    if off = 0x400000 then t.sid.toNat
    else if off = 0x400018 then syNum t.sync + 4 * b2n t.refused + 2 ^ 32 * twos 32 t.offset
    else 0
  else if off < 0x600000 then
    if off % 0x1000 = 0x10 then
      let x := mbox m ((off - 0x500000) / 0x1000)
      x.reason.toNat * 256 + 2 * b2n x.busy + b2n x.done
    else 0
  else if off < 0x700000 then
    let l := flog m ((off - 0x600000) / 0x80)
    let o := off % 0x80
    if o < 0x20 then ((entryWords l.first)[o / 8]?.getD 0).toNat
    else if o < 0x40 then ((entryWords l.last)[(o - 0x20) / 8]?.getD 0).toNat
    else if o = 0x40 then l.count
    else if o = 0x48 then l.corr
    else 0
  else if off < 0x1800000 then
    let n := (off - 0x800000) / 0x100000
    let o := off % 0x100000
    if 0x2000 ≤ o ∧ o < 0x2800 then
      let e := engine m (16 * n + (o - 0x2000) / 0x80)
      let y := o % 0x80
      if y < 0x48 then
        let q := dmaq e (y / 8)
        q.late + 65536 * q.fallback + 2 ^ 32 * q.skip
      else if 0x60 ≤ y then (ctxOf e ((y - 0x60) / 8)).skip
      else 0
    else if 0x10000 ≤ o ∧ o < 0x20000 then
      let g := 16 * n + (o - 0x10000) / 0x1000
      let y := o % 0x1000
      if 0x200 ≤ y ∧ y < 0x300 then (counterSample t m g ((y - 0x200) / 8)).toNat
      else if 0x300 ≤ y ∧ y < 0x400 then (sget 0 (engine m g).shadow ((y - 0x300) / 8)).toNat
      else 0
    else 0
  else if off < 0x1C00000 then
    let p := port m (lportOf off)
    if off % 0x100 = 0 then 2 * b2n p.rekeying
    else if off % 0x100 = 8 then psNum p.st + 8 * b2n p.quiesced + 256 * p.reason.toNat + 65536 * p.width
      + 2 ^ 18 * p.rate + 2 ^ 20 * p.fec + 2 ^ 21 * p.version + 2 ^ 24 * b2n p.keyphase
    else if off % 0x100 = 0x20 then p.corrected + 2 ^ 32 * p.retries
    else 0
  else if off < 0x2200000 then
    let d := (off - 0x1C00000) / 0x100000
    let o := off % 0x100000
    let x := mdie m d
    if o = 0x10 then (Config.macAddr d).toNat * 65536
    else if o = 0x20 then x.frames else if o = 0x28 then x.dgrams
    else if o = 0x30 then x.isf else if o = 0x38 then x.fec
    else if 0x1000 ≤ o then
      let s := strm m d ((o - 0x1000) / 0x40)
      let y := o % 0x40
      if y = 0x10 then ssNum s.st + 16 * (b2n s.pauseSpace + 2 * b2n s.pauseHost + 4 * b2n s.pauseScrub)
        + 256 * s.reason.toNat + 2 ^ 32 * s.id.toNat
      else if y = 0x18 then s.bytesLanded else if y = 0x20 then s.bytesDropped
      else if y = 0x28 then s.gapBytes
      else if y = 0x30 then s.smpDropped + 2 ^ 32 * s.evDropped
      else 0
    else 0
  else
    let d := (off - 0x2200000) / 0x100000
    let o := off % 0x100000
    if o = 0 then (m.regions.filter fun kv => kv.1 / 8192 == d && kv.2.st != .free).length
    else if o = 8 then b2n (sget {} m.gather d).busy + 2 * b2n (sget {} m.gather d).fault
    else if 0x100 ≤ o ∧ o < 0x180 then
      let c := (o - 0x100) / 8
      let key := 16 * d + c
      b2n (tierPowered m || msNum m.pwr.state == 3) + 2 * b2n (m.hub.svc.any fun s => s.2.busy && s.2.op == 3 && s.2.kind == 9 && s.2.index == key)
    else 0

/-- The registers that act in recovery mode (R625). -/
def recoveryReg (off : Nat) : Bool := [0x0, 0x18, 0x68, 0x70, 0x78, 0x80].contains off

/-- The registers in a VF's view (R482, R573): of a media die its stream slots alone (R479). -/
def vfSees (m : Mod) (f off : Nat) : Bool :=
  let k := f - 1
  match lookReg off with
  | none => false
  | some (_, i, _) =>
    if off < 0x100000 then false
    else if off < 0x180000 then sqOwner m i == f
    else if off < 0x200000 then cqOwner m i == f
    else if off < 0x300000 then i == k
    else if off < 0x500000 then false
    else if off < 0x600000 then i == f
    else if off < 0x700000 then (if i < 256 then (partDies m k).contains (i / 16)
      else i < 272 && (partDies m k).contains (i - 256))
    else if off < 0x1800000 then (partDies m k).contains ((off - 0x800000) / 0x100000)
    else if off < 0x1C00000 then portPart m (lportOf off) == k && off % 0x100 != 0x18
    else if off < 0x2200000 then bit (partIngest m k) i && decide (0x1000 ≤ off % 0x100000)
    else false

/-- An 8-byte read of the register at an aligned offset (R8, R9, R482, R619). In recovery mode the registers that do not act
read as 0 (R608, R625). -/
def readReg (t : Clk) (m : Mod) (f off : Nat) : W64 :=
  if m.hub.recovery ∧ ¬ recoveryReg off then 0 else
  match lookReg off with
  | none => if 0x800000 ≤ off ∧ off < 0x1800000 ∧ (f = 0 ∨ vfSees m f off) then
      BitVec.ofNat 64 (regLive t m off) else 0
  | some _ =>
    if f ≠ 0 ∧ ¬ vfSees m f off then 0
    else BitVec.ofNat 64 (regN m off + regLive t m off)

end Sys2Proof.Machine
end

