-- ==== Sys2Proof/Machine/Trace.lean ====
section
/-! DEFINITION. Trace records (R586 to R589), event counters (R590 to R592) and sync objects
(R278 to R281). -/

namespace Sys2Proof.Machine

/-! ## Event counters -/

def ecntMax : Nat := 2 ^ 48 - 1

/-- n more events; the counter saturates and sets SAT (R590). -/
def ecntAdd (c : ECnt) (n : Nat) : ECnt :=
  if c.value + n ≥ ecntMax then { value := ecntMax, sat := true } else { c with value := c.value + n }

/-- n events of a code: every counter of the engine that selects it (R590). -/
def countEv (m : Mod) (g code n : Nat) : Mod :=
  if code = 0 then m else
  (List.range 32).foldl (fun m c =>
    if regF m (rEcntSel g c) 0 5 = code then
      modEngine m g fun e => { e with ecnt := smod {} e.ecnt c (fun x => ecntAdd x n) }
    else m) m

/-- The counters of an engine that a dispatch clears. -/
def clearedBy (m : Mod) (g : Nat) : List Nat := (List.range 32).filter fun c => regB m (rEcntSel g c) 8

/-- RESET_ON_START: the counters of an engine cleared at a dispatch (R592). -/
def resetOnStart (t : Clk) (m : Mod) (g : Nat) : Mod :=
  let cs := clearedBy m g
  if cs.isEmpty then m else
  modEngine m g fun e => { e with
    ecnt := cs.foldl (fun x c => sset {} x c {}) e.ecnt
    cleared := some (t.now, cs.foldl (fun x c => sset {} x c (sget {} e.ecnt c)) []) }

/-! ## Trace -/

/-- A trace record (R588). -/
def traceWord (t : Clk) (kind g task arg : Nat) : BitVec 128 :=
  BitVec.ofNat 128 (t.sid.toNat % 2 ^ 48 * 2 ^ 80 + kind % 256 * 2 ^ 72 + g % 256 * 2 ^ 64
    + task % 1024 * 2 ^ 54 + arg % 2 ^ 54)

/-- One record into the 64 KiB buffer of an engine: dropped when full, a LOST record first when
some were dropped (R587). -/
def tracePush (r lost : BitVec 128) (e : Engine) : Engine :=
  if e.traceLost = 0 then
    if e.trace.length < 4096 then { e with trace := e.trace ++ [r] }
    else { e with traceLost := 1 }
  else if e.trace.length + 2 ≤ 4096 then { e with trace := e.trace ++ [lost, r], traceLost := 0 }
  else { e with traceLost := e.traceLost + 1 }

def tracePut (t : Clk) (m : Mod) (g : Nat) (r : BitVec 128) : Mod :=
  let before := (engine m g).traceLost
  let m' := modEngine m g (tracePush r (traceWord t 0x0C g 0 before))
  if (engine m' g).traceLost > before then countEv m' g 0x11 1 else m'

/-- A record of class `cls` (none: always), with TIMEBASE before it when bits [63:48] of the time
are new (R588). -/
def trace (t : Clk) (g task kind arg : Nat) (cls : Option Nat) (m : Mod) : Mod :=
  let on := match cls with
    | none => true
    | some c => regB m (rTraceCtrl g) c
  if !on then m else
  let hi := BitVec.ofNat 16 (t.sid.toNat / 2 ^ 48)
  let m1 := if (engine m g).timebase = some hi then m
    else modEngine (tracePut t m g (traceWord t 0x01 g 0 hi.toNat)) g fun e => { e with timebase := some hi }
  tracePut t m1 g (traceWord t kind g task arg)

/-- The opcode class of an instruction, as the ISSUE mask numbers it (R300, R634). -/
def opClass (op : Nat) : Nat :=
  if op < 0x20 then 0 else if op < 0x40 then 1 else if op < 0x60 then 2 else if op < 0x80 then 3
  else if op < 0xC0 then 4 else if op < 0xE0 then 5 else 6

/-- An ISSUE record, for an enabled class (R589). -/
def traceIssue (t : Clk) (g task idx op : Nat) (m : Mod) : Mod :=
  if regB m (rTraceCtrl g) (8 + opClass op) then trace t g task 0x02 (idx % 2 ^ 20 + op * 2 ^ 20) (some 0) m else m

/-- A fault entry of an engine with its FAULT record (R588). -/
def logEngine (t : Clk) (g : Nat) (e : FEntry) (m : Mod) : Mod :=
  trace t g (e.task.getD 0) 0x0A (g + 512 * e.typ.toNat) none
    (logFault t g { e with kind := 1, index := BitVec.ofNat 8 g } m)

/-! ## Sync objects -/

/-- The pod-wide sync address (R283). -/
def podAddr (m : Mod) (die idx : Nat) : Nat := 2 ^ 18 * moduleNum m + 2 ^ 14 * die + idx

/-- A flag is satisfied while 1, a counter while VALUE ≥ TARGET (R284). -/
def objSat (o : SyncObj) : Bool := if o.counter then decide (o.target.toNat ≤ o.value.toNat) else o.value != 0

/-- A signal of a count on an object (R279). -/
def signalObj (o : SyncObj) (count : Nat) : SyncObj :=
  if o.counter then { o with value := BitVec.ofNat 32 (min 0xFFFFFFFF (o.value.toNat + count)) }
  else if count = 0 then o else { o with value := 1 }

/-- SYNC.ARM (R280). -/
def armObj (o : SyncObj) (target : W32) (reset : Bool) : SyncObj :=
  { o with target := target, value := if reset then 0 else o.value }

/-- A signal applied at a sync file, logging SYNC_SAT past the top (R279). -/
def applySignal (t : Clk) (die idx count : Nat) (m : Mod) : Mod :=
  let o := syncObj m die idx
  let m' := modSync m die idx fun o => signalObj o count
  if o.counter && decide (o.value.toNat + count > 0xFFFFFFFF) then
    logFault t (logCD die) {
      kind := 2, index := BitVec.ofNat 8 die, typ := fSyncSat, part := some o.part
      addr := BitVec.ofNat 64 (podAddr m die idx) } m'
  else m'

/-- The 4-byte fields of a sync-object record as read (R281). -/
def syncRead (o : SyncObj) (fieldOff : Nat) : W32 :=
  if fieldOff = 0 then o.value
  else if fieldOff = 4 then o.target
  else if fieldOff = 8 then 0
  else BitVec.ofNat 32 ((if o.external then 4 else 0) + (if o.counter then 2 else 0) + (if o.alloc then 1 else 0))

end Sys2Proof.Machine
end

