-- ==== Sys2Proof/Machine/Access.lean ====
section
/-! DEFINITION. Accesses to the address space: the physical map (R26 to R30), partition ranges
(R478), translation (R31 to R37), link windows (R413), tier regions (R190, R203), KEEP windows
(R354), lines with tag, marker and poison (R173 to R176, R560, R579 to R583), and the refusal
of an access (R27, R568, R570). -/

namespace Sys2Proof.Machine

/-! ## The physical map -/

/-- Where a physical address lies (R26). -/
inductive Place where
  | hbm (n off : Nat)
  | tier (d off : Nat)
  | pool (n off : Nat)
  | pad (g off : Nat)
  | sync (n off : Nat)
  | host (a : Nat)
  | nowhere
  deriving DecidableEq, Repr

def hbmBytes : Nat := 0x1360000000
def tierBytes : Nat := 0x7C00000000
def padBytes : Nat := 0x600000
def hostBase : Nat := 0x1000000000000

def place (a : Nat) : Place :=
  if a < 0x20000000000 then
    (if a % 0x2000000000 < hbmBytes then .hbm (a / 0x2000000000) (a % 0x2000000000) else .nowhere)
  else if a < 0x33600000000 then
    let x := a - 0x20000000000
    .hbm (x / 4096 % 16) (x / 65536 * 4096 + x % 4096)
  else if a < 0x40000000000 then .nowhere
  else if a < 0x80000000000 then
    let x := a - 0x40000000000
    if x % 0x10000000000 < tierBytes then .tier (x / 0x10000000000) (x % 0x10000000000) else .nowhere
  else if a < 0x90000000000 then
    let x := a - 0x80000000000
    if x < 0x80000000 then .pool (x / 0x8000000) (x % 0x8000000) else .nowhere
  else if a < 0xA0000000000 then
    let x := a - 0x90000000000
    if x < 0x80000000 ∧ x % 0x800000 < padBytes then .pad (x / 0x800000) (x % 0x800000) else .nowhere
  else if a < 0xB0000000000 then
    let x := a - 0xA0000000000
    if x < 0x400000 then .sync (x / 0x40000) (x % 0x40000) else .nowhere
  else if hostBase ≤ a ∧ a < 0x2000000000000 then .host (a - hostBase)
  else .nowhere

def padAddr (g off : Nat) : Nat := 0x90000000000 + 0x800000 * g + off
def poolAddr (n off : Nat) : Nat := 0x80000000000 + 0x8000000 * n + off
def tierAddr (d off : Nat) : Nat := 0x40000000000 + 0x10000000000 * d + off
def hbmAddr (n off : Nat) : Nat := 0x2000000000 * n + off
/-- The SPREAD-view address of a stack offset (R29). -/
def spreadAddr (n off : Nat) : Nat := 0x20000000000 + off / 4096 * 65536 + n * 4096 + off % 4096

/-- The one address of a memory cell: HBM by its LOCAL view (R30). -/
def cellAddr : Place → Nat
  | .hbm n off => hbmAddr n off
  | .tier d off => tierAddr d off
  | .pool n off => poolAddr n off
  | .pad g off => padAddr g off
  | .sync n off => 0xA0000000000 + 0x40000 * n + off
  | .host a => hostBase + a
  | .nowhere => 0

/-- A tile's TAG_INDEX at a place (R185). -/
def lineIndex : Place → Option Nat
  | .hbm _ off => some (off / 256)
  | .tier _ off => some (off / 256)
  | .pool _ off => some (off % 0x400000 / 256)
  | .pad _ off => some (off / 256)
  | _ => none

/-- The compute die that must be powered to serve the place (R516). -/
def placeDie : Place → Option Nat
  | .hbm n _ => some n
  | .pool n _ => some n
  | .pad g _ => some (g / 16)
  | .sync n _ => some n
  | _ => none

def placePowered (m : Mod) (p : Place) : Bool :=
  match p with
  | .tier .. => tierPowered m
  | _ => match placeDie p with
    | some n => decide (dieState m n ≤ 1)
    | none => true

/-! ## Partition ranges (R478) -/

def rangeV (m : Mod) (k i : Nat) : Bool := regB m (rPart k + 0x100 + 0x10 * i) 0
def rangeBase (m : Mod) (k i : Nat) : Nat := regF m (rPart k + 0x100 + 0x10 * i) 21 28 * 0x200000
def rangeEnd (m : Mod) (k i : Nat) : Nat := regF m (rPart k + 0x108 + 0x10 * i) 21 28 * 0x200000

def inAssigned (m : Mod) (k a : Nat) : Bool :=
  (List.range 16).any fun i => rangeV m k i && decide (rangeBase m k i ≤ a) && decide (a < rangeEnd m k i)

/-- Whether a physical address lies in the ranges of a partition: the assigned ones, and the
scratchpads, die pools and sync objects of its dies, and host memory (R478). -/
def inRanges (m : Mod) (k a : Nat) : Bool :=
  match place a with
  | .host _ => true
  | .pool n _ => (partDies m k).contains n
  | .sync n _ => (partDies m k).contains n
  | .pad g _ => (partDies m k).contains (g / 16)
  | _ => inAssigned m k a

/-- The addresses at which what follows may belong to another partition: the ends of assigned ranges,
and in an aligned span of n bytes at a the starts of die pools and of the sync objects of dies, and the gap
of a scratchpad slot (R26). -/
def rangeSteps (m : Mod) (k a n : Nat) : List Nat :=
  ((List.range 16).filter fun i => rangeV m k i).map (rangeEnd m k) ++ (match place a with
    | .pool .. => (List.range (n / 0x8000000 + 1)).map fun i => a + 0x8000000 * i
    | .sync .. => (List.range (min 17 (n / 0x40000 + 1))).map fun i => a + 0x40000 * i
    | .pad .. => [a / 0x800000 * 0x800000 + padBytes]
    | _ => [])

/-- Whether a whole span of n bytes lies in the ranges of a partition (R35, R187). -/
def spanIn (m : Mod) (k a n : Nat) : Bool :=
  inRanges m k a && inRanges m k (a + n - 1)
    && (rangeSteps m k a n).all fun x => !(decide (a < x) && decide (x < a + n)) || inRanges m k x

/-- The partition whose keys protect a DRAM line, in either view (R173, R550). -/
def keyPart (m : Mod) (p : Place) : Option Nat :=
  (List.range 8).find? fun k => (partSt m k).keyGen.isSome && (match p with
    | .hbm n off => inAssigned m k (hbmAddr n off) || inAssigned m k (spreadAddr n off)
    | _ => inAssigned m k (cellAddr p))

def keyOf (m : Mod) (p : Place) : Nat :=
  match keyPart m p with
  | some k => (partSt m k).keyGen.getD 0
  | none => m.sec.moduleKey

/-! ## Refused accesses -/

/-- Why an access is refused: fault type, reason, the address logged (R570, R575). -/
structure XErr where
  typ : Byte
  reason : Byte
  addr : Nat
  va : Bool := false
  info : Nat := 0
  poison : Bool := false
  deriving DecidableEq, Repr

/-- An access: who issues it, for which partition, with physical or virtual addresses, and as
which owner of tier regions (R190). `tile`: a DMA TILE transfer (R354). `pattern`: a PATTERN
stream (R203). `works`: the works whose access it is (R192). -/
structure Req where
  who : Requester
  part : Option Nat
  phys : Bool
  owner : Option Owner
  task : Option Nat := none
  tile : Bool := false
  pattern : Bool := false
  works : List Nat := []
  deriving DecidableEq, Repr

/-- The log, UNIT_KIND and index of a requester's unit (R570). -/
def reqLog : Requester → Nat × Byte × Byte
  | .host _ => (logHN, 5, 0)
  | .task e _ => (e.val, 1, BitVec.ofNat 8 e.val)
  | .dmaq e _ => (e.val, 1, BitVec.ofNat 8 e.val)
  | .cmd _ _ => (logHN, 5, 0)
  | .core g => (logCD (g.val / 4), 4, BitVec.ofNat 8 g.val)
  | .media d => (logMD d.val, 7, BitVec.ofNat 8 d.val)
  | .gather d => (logTD d.val, 8, BitVec.ofNat 8 d.val)
  | .link p => (logLD (portDie p.val), 6, BitVec.ofNat 8 p.val)

/-- The fault entry of a refused access. -/
def errEntry (rq : Req) (e : XErr) : FEntry :=
  let l := reqLog rq.who
  { kind := l.2.1, index := l.2.2, typ := e.typ, part := rq.part, reason := e.reason, task := rq.task,
    poison := e.poison, va := e.va, addr := BitVec.ofNat 64 e.addr, info := BitVec.ofNat 64 e.info }

/-- Logs a refused access at its requester's unit; engines also trace it. -/
def logErr (t : Clk) (rq : Req) (e : XErr) (m : Mod) : Mod :=
  let l := (reqLog rq.who).1
  if l < 256 then logEngine t l (errEntry rq e) m else logFault t l (errEntry rq e) m

/-! ## Windows -/

/-- The link window that holds a virtual address: destination module and address (R413). -/
def linkWin (m : Mod) (k va : Nat) : Option (Nat × Nat) :=
  (List.range 16).findSome? fun i =>
    let o := rPart k + 0x200 + 0x20 * i
    let base := regF m o 30 27 * 2 ^ 30
    if regB m o 0 ∧ base ≤ va ∧ va < base + regF m (o + 8) 0 16 * 2 ^ 30 then
      some (regF m (o + 8) 16 14, regF m (o + 0x10) 30 27 * 2 ^ 30 + (va - base))
    else none

/-- The bytes from a virtual address to the end of the link window that holds it (R413). -/
def windowLeft (m : Mod) (k va : Nat) : Option Nat :=
  (List.range 16).findSome? fun i =>
    let o := rPart k + 0x200 + 0x20 * i
    let base := regF m o 30 27 * 2 ^ 30
    if regB m o 0 ∧ base ≤ va ∧ va < base + regF m (o + 8) 0 16 * 2 ^ 30 then
      some (base + regF m (o + 8) 0 16 * 2 ^ 30 - va)
    else none

/-- The KEEP window that holds a tier offset: some true for FP8, some false for LOSSLESS (R352). -/
def keepWin (m : Mod) (d off : Nat) : Option Bool :=
  (List.range 8).findSome? fun k =>
    if ¬ partEn m k then none else
    let ll := rPart k + 0x40 + 0x10 * d
    let hit := fun r => decide (regF m r 0 18 * 0x200000 ≤ off) && decide (off < (regF m r 0 18 + regF m r 32 18) * 0x200000)
    if hit ll then some false else if hit (ll + 8) then some true else none

/-! ## Tier regions (R190, R203) -/

/-- The region that covers a tier offset. -/
def coverRegion (m : Mod) (d off : Nat) : Option (Nat × Region) :=
  (m.regions.find? fun kv => kv.1 / 8192 == d && kv.2.st != .free &&
    decide (kv.2.base * 0x200000 ≤ off) && decide (off < (kv.2.base + kv.2.size) * 0x200000)).map
    fun kv => (kv.1 % 8192, kv.2)

/-- Whether the owner recorded is the one that asks (R190). PF0 acts for every driver. -/
def ownsIt (rq : Req) (r : Region) : Bool :=
  match rq.who, r.owner with
  | .host f, .driver p => f.val == 0 || f.val == p + 1
  | _, o => rq.owner == some o

/-- Whether the owner of a region has issued its SEAL before this write: the SEAL waits at the controller and
does not wait for the write (R192). -/
def sealIssued (m : Mod) (rq : Req) (d e : Nat) (r : Region) : Bool :=
  (sget [] m.regQ d).any fun q => q.entry == e && q.who == r.owner && q.part == r.part
    && (match q.op with | .seal _ => true | _ => false) && !(rq.works.any fun w => q.deps.contains w)

def tierServes (m : Mod) (rq : Req) (wr : Bool) (d off : Nat) : Bool :=
  match rq.who, coverRegion m d off with
  | .gather _, none => !wr || rq.pattern
  | .gather _, some (_, r) =>
    if wr then r.st == .filling && rq.owner == some r.owner
    else rq.pattern || r.st == .sealed || r.st == .released || (r.st == .filling && rq.owner == some r.owner)
  | _, none => false
  | _, some (e, r) =>
    if wr then r.st == .filling && ownsIt rq r && !sealIssued m rq d e r else r.st == .sealed || r.st == .released

/-! ## Translation (R31 to R37) -/

/-- A translated address with the leaf's rights. -/
structure Xl where
  phys : Nat
  rd : Bool
  wr : Bool
  bound : Bool
  deriving DecidableEq, Repr

def xfault (va level : Nat) (reason : Byte) (poison : Bool) : XErr :=
  { typ := fTranslation, reason := reason, addr := va, va := true, info := level, poison := poison }


/-- Why a table entry at a physical address cannot be read by the walk, if so: no such place, a die without
power, a tier line with no readable region or in a KEEP window, a sync object (R26, R190, R281, R354, R516). -/
def tableRefusal (m : Mod) (p : Place) : Option Byte :=
  match p with
  | .nowhere => some 0x6B
  | .sync .. => some 0x6B
  | .tier d off =>
    if ¬ tierPowered m then some 0x37
    else match coverRegion m d off with
      | some (_, r) => if (r.st = .sealed ∨ r.st = .released) then (if (keepWin m d off).isSome then some 0x69 else none) else some 0x63
      | none => some 0x63
  | p => if placePowered m p then none else some 0x37

/-- The read of a table entry at a physical address: the entry, or the reason of its own refusal, or poison
(R35). The walk reads a table wherever it lies in the partition's ranges: R36 asks the driver to place it in
HBM and gives a table elsewhere no other treatment (DEDUCED, log 19). -/
def tableRead (m : Mod) (a : Nat) : Except (Byte × Bool) Nat :=
  let p := place a
  let x := cellAddr p
  match tableRefusal m p with
  | some r => .error (r, false)
  | none => match p with
    | .hbm .. | .tier .. =>
      let ln := sget { key := 0, marked := true, poison := false } m.mem.lines (x / 256)
      if ln.marked then .ok 0
      else if ln.poison ∨ ln.key ≠ keyOf m p then .error (0, true)
      else .ok (leNat (peeks m.mem x 8))
    | _ => if sget false m.mem.poison (x / 64) then .error (0, true) else .ok (leNat (peeks m.mem x 8))

/-- The levels of R32: number, shift, index bits, next table's alignment, leaf page bits (none
where no leaf is allowed). -/
def levels : List (Nat × Nat × Nat × Nat × Option Nat) :=
  [(0, 48, 9, 4096, none), (1, 39, 9, 4096, none), (2, 30, 9, 4096, some 30), (3, 21, 9, 256, some 21),
   (4, 16, 5, 0, some 16)]

/-- The walk of R35 from a table. -/
def walk (m : Mod) (k va : Nat) (wr : Bool) : Nat → List (Nat × Nat × Nat × Nat × Option Nat) → Except XErr Xl
  | _, [] => .error (xfault va 4 0x6B false)
  | table, (lv, sh, nb, align, leafBits) :: rest =>
    match tableRead m (table + 8 * bits va sh nb) with
    | .error (r, p) => .error (xfault va lv r p)
    | .ok e =>
      let bad : Except XErr Xl := .error (xfault va lv 0x6B false)
      let addr := bits e 8 41 * 256
      let leaf := bit e 1
      if ¬ bit e 0 then bad
      else if bits e 49 15 ≠ 0 ∨ bits e 5 3 ≠ 0 ∨ (¬ leaf ∧ bits e 2 3 ≠ 0) then bad
      else if leaf then
        match leafBits with
        | none => bad
        | some pb =>
          let pa := addr + va % 2 ^ pb
          if addr % 2 ^ pb ≠ 0 ∨ ¬ spanIn m k addr (2 ^ pb) then bad
          else if (wr ∧ ¬ bit e 3) ∨ (¬ wr ∧ ¬ bit e 2) then bad
          else .ok { phys := pa, rd := bit e 2, wr := bit e 3, bound := bit e 4 }
      else if align = 0 ∨ addr % align ≠ 0 ∨ ¬ inRanges m k addr ∨ ¬ inRanges m k (addr + align - 1) then bad
      else walk m k va wr addr rest

/-- PART_XLAT_ROOT. -/
def xlatRoot (m : Mod) (k : Nat) : Nat := regF m (rPart k + 0x10) 12 37 * 4096

/-- A cached translation of a 64 KiB page, as data. -/
def xlPack (x : Xl) : Nat :=
  1 + 2 * ((if x.rd then 1 else 0) + (if x.wr then 2 else 0) + (if x.bound then 4 else 0)) + 16 * (x.phys / 65536)

def xlUnpack (n va : Nat) : Xl :=
  { phys := n / 16 * 65536 + va % 65536, rd := bit n 1, wr := bit n 2, bound := bit n 3 }

/-- A virtual address translated for a read or a write. A page whose cached translation differs
may use the old one (R37). A pointer above bit 56 reads no table: the manual gives its entry no level, and
INFO 0 is a DESIGN CHOICE (log 19). -/
def xlate (m : Mod) (k va : Nat) (wr : Bool) : Except XErr Xl :=
  if va ≥ 2 ^ 57 then .error (xfault va 0 0x6B false)
  else
    let old := sget 0 (partSt m k).xlat (va / 65536)
    let x := xlUnpack old va
    if old ≠ 0 ∧ Config.oldXlat (va / 65536) m.nextId ∧ (if wr then x.wr else x.rd) then .ok x
    else walk m k va wr (xlatRoot m k) levels

/-- The cache after an access has used a page: the first translation of a page stays until an
XLAT_INVALIDATE. -/
def fillXlat (m : Mod) (k va : Nat) (x : Xl) : Mod :=
  modPart m k fun p => if sget 0 p.xlat (va / 65536) = 0 then
    { p with xlat := sset 0 p.xlat (va / 65536) (xlPack x) } else p

/-! ## One span of an access -/

def acc6B (a : Nat) (va : Bool) : XErr := { typ := fAccess, reason := 0x6B, addr := a, va := va }

/-- Checks of one span, in the order range, map, power, region, KEEP window. -/
def spanPhys (m : Mod) (rq : Req) (wr : Bool) (a : Nat) : Except XErr Place :=
  if (match rq.part with | some k => !inRanges m k a | none => false) then .error (acc6B a false)
  else match place a with
    | .nowhere => .error (acc6B a false)
    | p =>
      if ¬ placePowered m p then .error { typ := fAccess, reason := 0x37, addr := a }
      else match p with
        | .tier d off =>
          if ¬ tierServes m rq wr d off then .error { typ := fAccess, reason := 0x63, addr := a }
          else if (keepWin m d off).isSome ∧ ¬ rq.tile then .error { typ := fAccess, reason := 0x69, addr := a }
          else .ok p
        | _ => .ok p

/-- A span by its requester's address: place and bound flag. -/
def spanCheck (m : Mod) (rq : Req) (wr : Bool) (a : Nat) : Except XErr (Place × Bool) :=
  match rq.part with
  | none => (spanPhys m rq wr a).map fun p => (p, false)
  | some k =>
    if rq.phys then (spanPhys m rq wr a).map fun p => (p, false)
    else if (linkWin m k a).isSome then .error { typ := fAccess, reason := 0x6B, addr := a, va := true }
    else do
      let x ← xlate m k a wr
      let p ← spanPhys m rq wr x.phys
      pure (p, x.bound)

/-- A stack under RETRAIN, or a tier channel under RECAL: its requests wait (R172, R614). -/
def inService (m : Mod) (p : Place) : Bool :=
  match p with
  | .hbm n _ => svcRuns m 2 8 n
  | .tier d off => svcRuns m 3 9 (16 * d + off / 256 % 16)
  | _ => false

/-- A channel of a tier die recalibrates: a media die's accesses to the die, which go round its 16 channels line by line, wait
(R172, R614; log 45). -/
def tierRecals (m : Mod) (td : Nat) : Bool := !m.hub.svc.isEmpty && (List.range 16).any fun c => svcRuns m 3 9 (16 * td + c)
/-- Region operations of a tier die wait while its FW_ACTIVATE runs (R614), and with them what needs one. -/
def regionsWait (m : Mod) (td : Nat) : Bool := svcRuns m 1 6 td || tierRecals m td

/-- An access cut at multiples of n. -/
def chunks (n : Nat) : Nat → Nat → Nat → List (Nat × Nat)
  | 0, _, _ => []
  | fuel + 1, a, len =>
    if len = 0 then [] else
    let c := min len (n - a % n)
    (a, c) :: chunks n fuel (a + c) (len - c)

def spans (a len : Nat) : List (Nat × Nat) := chunks 256 (len / 256 + 2) a len

/-- The cells of what the loader placed for a partition, in pieces that lie together in either view of HBM (R29, R289). -/
def placedCells (p : Program) : List (Nat × Nat) :=
  p.placed.flatMap fun r => (chunks 4096 (r.2 / 4096 + 2) r.1 r.2).map fun c => (cellAddr (place c.1), c.2)

/-- A store by a task to a byte of what the loader placed for its partition (R292). -/
def loaderHolds (m : Mod) (rq : Req) (p : Place) (n : Nat) : Bool :=
  match rq.part.bind fun k => (partSt m k).prog with
  | none => false
  | some x => (match rq.who with
    | .task .. => true
    | .dmaq .. => rq.task.isSome
    | _ => false) && (placedCells x).any fun r => decide (cellAddr p < r.1 + r.2) && decide (r.1 < cellAddr p + n)

/-! ## Lines of HBM and tier -/

def lineOf (m : Mod) (line : Nat) : Line := sget { key := 0, marked := true, poison := false } m.mem.lines line
def setLine (m : Mod) (line : Nat) (l : Line) : Mod :=
  { m with mem := { m.mem with lines := sset { key := 0, marked := true, poison := false } m.mem.lines line l } }

/-- The controller's log for a DRAM place. -/
def ctlLog : Place → Nat × Byte × Byte
  | .hbm n _ => (logCD n, 3, BitVec.ofNat 8 n)
  | .tier d _ => (logTD d, 8, BitVec.ofNat 8 d)
  | .pool n _ => (logCD n, 2, BitVec.ofNat 8 n)
  | .pad g _ => (g, 1, BitVec.ofNat 8 g)
  | .sync n _ => (logCD n, 2, BitVec.ofNat 8 n)
  | _ => (logHN, 5, 0)

def ctlFault (t : Clk) (p : Place) (typ reason : Byte) (addr : Nat) (info : W64) (m : Mod) : Mod :=
  let l := ctlLog p
  let e : FEntry := {
    kind := l.2.1, index := l.2.2, typ := typ, reason := reason, part := keyPart m p
    addr := BitVec.ofNat 64 addr, info := info }
  if l.1 < 256 then logEngine t l.1 e m else logFault t l.1 e m

/-- An integrity event: logged, and counted for the partition (R176, R549). -/
def integrityEvent (t : Clk) (p : Place) (m : Mod) : Mod :=
  let m' := ctlFault t p fIntegrity 0x6C (cellAddr p / 256 * 256) 0 m
  match keyPart m p with
  | some k => modPart m' k fun s => { s with integrity := min 0xFFFFFFFF (s.integrity + 1) }
  | none => m'

/-- What a line's ECC and tag check find: the module after logging, and whether the line is bad
(R176, R578). A marked line is not checked (R560). -/
def checkLine (t : Clk) (m : Mod) (p : Place) (ecc : Ecc) : Mod × Bool :=
  let ln := lineOf m (cellAddr p / 256)
  if ln.marked then (m, false)
  else match ecc with
    | .uncorrectable s => (ctlFault t p fEccUncorr 0 (cellAddr p / 64 * 64) s m, true)
    | .tampered => (integrityEvent t p m, true)
    | .corrected =>
      let m' := addCorr m (ctlLog p).1
      if ln.key = keyOf m p then (m', ln.poison) else (integrityEvent t p m', true)
    | .clean => if ln.key = keyOf m p then (m, ln.poison) else (integrityEvent t p m, true)

/-- The bytes of a DRAM line as the key of its range decrypts them: what was written, or, under another key
than the one that wrote the line, other bytes, by 16-byte blocks of XTS (R173). -/
def lineBytes (m : Mod) (p : Place) (n : Nat) : List Byte :=
  let a := cellAddr p
  let ln := lineOf m (a / 256)
  let bs := peeks m.mem a n
  if ln.marked ∨ ln.key = keyOf m p then bs
  else (List.range n).map fun i => Config.wrongKey (dataKey ln.key) (dataKey (keyOf m p)) (a + i) (peeks m.mem ((a + i) / 16 * 16) 16)

/-- Reads a span that its checks let through: bytes and poison. -/
def readPlace (t : Clk) (m : Mod) (p : Place) (n : Nat) (ecc : Ecc) : Mod × List Byte × Bool :=
  let a := cellAddr p
  match p with
  | .hbm .. | .tier .. =>
    let r := checkLine t m p ecc
    (r.1, lineBytes m p n, r.2)
  | .pool .. | .pad .. =>
    let m' := match ecc with
      | .clean => m
      | .corrected =>
        let m1 := addCorr m (ctlLog p).1
        match p with
        | .pad g _ => countEv m1 g 0x10 1
        | _ => m1
      | .uncorrectable s => ctlFault t p fEccUncorr 0 (a / 64 * 64) s
          { m with mem := { m.mem with poison := sset false m.mem.poison (a / 64) true } }
      | .tampered => m
    let bad := (chunks 64 6 a n).any fun c => sget false m'.mem.poison (c.1 / 64)
    (m', peeks m.mem a n, bad)
  | _ => (m, peeks m.mem a n, false)

/-- The tag of a line does not match, as its check finds it (R176, R578). -/
def tagBad (m : Mod) (p : Place) (ecc : Ecc) : Bool :=
  let ln := lineOf m (cellAddr p / 256)
  !ln.marked && (match ecc with
    | .uncorrectable _ => false
    | .tampered => true
    | _ => ln.key != keyOf m p)

/-- The refusal of a write of part of a line: INTEGRITY for its tag, POISON for a poisoned or
uncorrectable line (R175, R578, R583). -/
def partRefusal (m : Mod) (p : Place) (ecc : Ecc) : XErr :=
  if tagBad m p ecc then { typ := fIntegrity, reason := 0x6C, addr := cellAddr p / 256 * 256 }
  else { typ := fPoison, reason := 0, addr := cellAddr p, poison := true }

/-- Whether a write of part of a line is refused after the read and check of R175 (R583). -/
def partialCheck (t : Clk) (m : Mod) (p : Place) (n : Nat) (ecc : Ecc) : Mod × Bool :=
  match p with
  | .hbm .. | .tier .. => if n = 256 then (m, true) else
    let r := checkLine t m p ecc
    (r.1, !r.2)
  | _ => (m, true)

/-- Poison of on-die sectors after a write: a whole sector takes the payload's, a part adds to it
(R583). -/
def sectorPoison (m : Mod) (a n : Nat) (poisoned : Bool) : Mod :=
  (chunks 64 6 a n).foldl (fun m c =>
    let k := c.1 / 64
    let v := if c.2 = 64 then poisoned else poisoned || sget false m.mem.poison k
    { m with mem := { m.mem with poison := sset false m.mem.poison k v } }) m

/-- Writes a span whose checks passed; poisoned data goes to the host with EP set (R581). -/
def writePlace (m : Mod) (p : Place) (data : List Byte) (poisoned : Bool) : Mod :=
  let a := cellAddr p
  let m' := { m with mem := pokes m.mem a data }
  match p with
  | .hbm .. | .tier .. => setLine m' (a / 256) { key := keyOf m p, marked := false, poison := poisoned }
  | .pool .. | .pad .. => sectorPoison m' a data.length poisoned
  | .host x => if poisoned then emit (.poisonedTlp x data.length) m' else m'
  | _ => m'

/-! ## Whole accesses -/

/-- A sync-object access: 4 bytes at a 4-byte boundary by a core or a DMA transfer (R281). -/
def syncAccess (rq : Req) (off len : Nat) : Bool :=
  len == 4 && off % 4 == 0 && (match rq.who with | .core _ | .dmaq .. => true | _ => false)

/-- The cell of a sync object. -/
def syncCell (d i : Nat) : Nat := cellAddr (.sync d (16 * i))

/-- What the ECC finds in the word of a sync object it reads (R578, R579). -/
def syncEcc (m : Mod) (d i : Nat) (ecc : Ecc) : Mod :=
  match ecc with
  | .uncorrectable s => modSync m d i fun o => { o with bad := some (o.bad.getD s) }
  | .corrected => addCorr m (logCD d)
  | _ => m

/-- The refusal of an operation on an object held bad (R579). -/
def syncBad (m : Mod) (d i : Nat) : Option XErr :=
  ((syncObj m d i).bad).map fun s => { typ := fEccUncorr, reason := 0, addr := syncCell d i, info := s.toNat }

/-- An access waits while a service runs on a stack or channel it reaches. -/
def accessWaits (m : Mod) (rq : Req) (wr : Bool) (a n : Nat) : Bool :=
  !m.hub.svc.isEmpty && (spans a n).any fun s => match spanCheck m rq wr s.1 with
    | .ok (p, _) => inService m p
    | .error _ => false

def readSpans (t : Clk) (rq : Req) (ecc : Ecc) : Mod → List (Nat × Nat) → Mod × Except XErr (List Byte × Bool)
  | m, [] => (m, .ok ([], false))
  | m, (a, n) :: rest =>
    match spanCheck m rq false a with
    | .error e => (m, .error e)
    | .ok (.sync d off, _) =>
      if syncAccess rq off n && rest.isEmpty then
        let m1 := syncEcc m d (off / 16) ecc
        match syncBad m1 d (off / 16) with
        | some e => (m1, .error e)
        | none => (m1, .ok (toLe 4 (syncRead (syncObj m1 d (off / 16)) (off % 16)).toNat, false))
      else (m, .error (acc6B a (rq.part.isSome && !rq.phys)))
    | .ok (p, _) =>
      let (m1, bs, bad) := readPlace t m p n ecc
      match readSpans t rq ecc m1 rest with
      | (m2, .error e) => (m2, .error e)
      | (m2, .ok (bs', bad')) => (m2, .ok (bs ++ bs', bad || bad'))

/-- A read of len bytes: refused as a whole when a span is (R568); poison travels (R581). -/
def readMem (t : Clk) (m : Mod) (rq : Req) (a len : Nat) (ecc : Ecc) : Mod × Except XErr (List Byte × Bool) :=
  match readSpans t rq ecc m (spans a len) with
  | (m', .error e) => (logErr t rq e m', .error e)
  | r => r

/-- The places of a write, each checked; the first refusal ends it. -/
def writeSpans (t : Clk) (rq : Req) (ecc : Ecc) : Mod → List (Nat × Nat) → Mod × Except XErr (List (Place × Nat))
  | m, [] => (m, .ok [])
  | m, (a, n) :: rest =>
    match spanCheck m rq true a with
    | .error e => (m, .error e)
    | .ok (.sync d off, _) =>
      let o := syncObj m d (off / 16)
      if syncAccess rq off n && rest.isEmpty && off % 16 == 8 && o.external then
        match syncBad m d (off / 16) with
        | some e => (m, .error e)
        | none => (m, .ok [(.sync d off, 4)])
      else (m, .error (acc6B a (rq.part.isSome && !rq.phys)))
    | .ok (p, _) =>
      if loaderHolds m rq p n then (m, .error (acc6B a (rq.part.isSome && !rq.phys))) else
      match partialCheck t m p n ecc with
      | (m1, false) => (m1, .error (partRefusal m p ecc))
      | (m1, true) => match writeSpans t rq ecc m1 rest with
        | (m2, .error e) => (m2, .error e)
        | (m2, .ok ps) => (m2, .ok ((p, n) :: ps))

def applySpans (t : Clk) (poisoned : Bool) : Mod → List Byte → List (Place × Nat) → Mod
  | m, _, [] => m
  | m, data, (p, n) :: rest =>
    let m' := match p with
      | .sync d off => applySignal t d (off / 16) (leNat (data.take 4)) m
      | _ => writePlace m p (data.take n) poisoned
    applySpans t poisoned m' (data.drop n) rest

/-- A write: refused as a whole, changing no byte, when a span is (R568). -/
def writeMem (t : Clk) (m : Mod) (rq : Req) (a : Nat) (data : List Byte) (poisoned : Bool) (ecc : Ecc) :
    Mod × Option XErr :=
  match writeSpans t rq ecc m (spans a data.length) with
  | (m', .error e) => (logErr t rq e m', some e)
  | (m', .ok ps) => (applySpans t poisoned m' data ps, none)

/-- Fills the translation cache with the pages of an access. -/
def fillPages (m : Mod) (rq : Req) (wr : Bool) (a len : Nat) : Mod :=
  match rq.part, rq.phys with
  | some k, false => (chunks 65536 (len / 65536 + 2) a len).foldl (fun m c =>
      match xlate m k c.1 wr with
      | .ok x => fillXlat m k c.1 x
      | .error _ => m) m
  | _, _ => m

/-! ## Scratchpads by offset, for units of the engine -/

def padRead (m : Mod) (g off n : Nat) : List Byte := peeks m.mem (padAddr g off) n
def padPoison (m : Mod) (g off n : Nat) : Bool :=
  (chunks 64 (n / 64 + 2) (padAddr g off) n).any fun c => sget false m.mem.poison (c.1 / 64)
def padWrite (m : Mod) (g off : Nat) (data : List Byte) : Mod :=
  (chunks 64 (data.length / 64 + 2) (padAddr g off) data.length).foldl (fun m c =>
    { m with mem := { m.mem with poison := (if c.2 = 64 then sset false m.mem.poison (c.1 / 64) false else m.mem.poison) } })
    { m with mem := pokes m.mem (padAddr g off) data }

/-- Host memory by bus address. -/
def hostRead (m : Mod) (a n : Nat) : List Byte := peeks m.mem (hostBase + a) n
def hostWrite (m : Mod) (a : Nat) (data : List Byte) : Mod := { m with mem := pokes m.mem (hostBase + a) data }

end Sys2Proof.Machine
end

