-- ==== Sys2Proof/Machine/Engine.lean ====
section
/-! DEFINITION. What the engines share: the works in flight and what a signal waits for (R163),
routes (R417, R393), signals (R285 to R288), task faults (R138, R209), completions (R492, R508),
and the end of tasks and programs (R275, R379). -/

namespace Sys2Proof.Machine

/-! ## Works in flight -/

/-- Whether a vector or exchange instruction writes memory. -/
def vopWrites (w : LviWord) : Bool :=
  let op := wOp w
  !(op == 0x80 || op == 0x82 || op == 0x84 || op == 0x85)

/-- A pass writes when its drain is attached (R90). -/
def passWrites (p : Pass) : Bool := p.drain.isSome

/-- A work in flight: number, task, whether it writes memory. -/
structure Work where
  id : Nat
  task : Option Nat
  writes : Bool
  deriving DecidableEq, Repr

def gangWorks (gg : Gang) : List Work :=
  gg.passes.map (fun p => ⟨p.id, some p.task, passWrites p⟩) ++ gg.drains.map fun d => ⟨d.id, some d.task, true⟩

def engineWorks (e : Engine) : List Work :=
  e.gangs.flatMap gangWorks
    ++ e.forming.map (fun p => ⟨p.id, some p.task, passWrites p⟩)
    ++ e.vops.map (fun v => ⟨v.id, some v.task, vopWrites v.word⟩)
    ++ e.dq.flatMap (fun q => q.2.runs.map fun r => ⟨r.id, r.task, true⟩)
    ++ e.xfers.filterMap fun x => if x.ended.isSome then none else some ⟨x.id, x.task, true⟩

/-- The works of a port's packets: those not yet sent, and those that last until they are acknowledged (R304, R426). -/
def linkWorks (l : LPort) : List Work :=
  l.txq.flatMap (fun x => x.works.map fun w => ⟨w, x.task, true⟩)
    ++ (l.flits ++ l.sending.map (·.flit) ++ l.resend).flatMap (fun f => f.works.map fun w => ⟨w, f.task, true⟩)
    ++ (l.unacked.filter (·.acked)).flatMap fun f => f.works.map fun w => ⟨w, f.task, true⟩

/-- The port number of arrivals over the package fabric: none of the 18. -/
def fabricPort : Nat := 31

/-- Every work in flight on the module, packets that wait to be sent included. -/
def works (m : Mod) : List Work :=
  m.eng.flatMap (fun e => engineWorks e.2)
    ++ m.links.flatMap (fun l => linkWorks l.2)
    ++ m.bulkOut.map (fun b => ⟨b.xfer, b.task, true⟩)
    ++ m.exp.flatMap (fun x => (x.2.held ++ x.2.pinHeld).filterMap fun h => h.2.2.map fun w => ⟨w.1, some w.2, true⟩)
    ++ m.xch.collects.map (fun c => ⟨c.id, some c.task, true⟩)
    ++ m.gather.filterMap (fun d => if d.2.busy then some ⟨d.2.id, none, true⟩ else none)
    ++ m.regQ.flatMap (fun q => q.2.map fun r =>
        ⟨r.id, (match r.who with | .task tk => some tk | _ => none), false⟩)
    ++ m.hqQ.flatMap fun q => q.2.map fun o => ⟨o.id, (match o.by_ with | .task tk => some tk | _ => none), false⟩

def live (m : Mod) (id : Nat) : Bool := (works m).any fun w => w.id == id
/-- An ordering condition holds when every work it names has ended. -/
def depsDone (m : Mod) (deps : List Nat) : Bool := deps.all fun d => !live m d

/-- The writes a task has issued that are not yet visible (R163). -/
def depsOf (m : Mod) (task : Nat) : List Nat :=
  ((works m).filter fun w => w.writes && w.task == some task).map (·.id)

/-! ## Routes -/

def activeMap (m : Mod) (k : Nat) : Nat := (partSt m k).activeMap

/-- The port of a packet of a partition to another module (R417, R393): 0x45 for no route or a
port that is not UP, 0x44 for a port of another partition, 0x4B for one whose partner scrubs (R563). -/
def route (m : Mod) (k dst : Nat) : Except Byte Nat :=
  let r := ((bank m (activeMap m k)).routes[dst]?.getD 0x1F).toNat
  if r ≥ 18 then .error 0x45
  else if portPart m r ≠ k then .error 0x44
  else if (port m r).quiesced then .error 0x4B
  else if (port m r).st ≠ .up then .error 0x45
  else .ok r

/-- A packet's header fields as this module writes them (R400); KEYPHASE and PSEQ are set when it
is sealed. -/
def packet (m : Mod) (k typ vc dst dstEng epoch arg : Nat) (addr : W64) (inl body : List Byte) : Packet where
  typ := BitVec.ofNat 8 typ
  vc := Fin.ofNat 4 vc
  map := Fin.ofNat 4 (activeMap m k)
  keyphase := false
  dst := BitVec.ofNat 14 dst
  dstEng := BitVec.ofNat 8 dstEng
  src := BitVec.ofNat 14 (moduleNum m)
  epoch := BitVec.ofNat 16 epoch
  arg := BitVec.ofNat 32 arg
  addr := addr
  pseq := 0
  inl := inl
  body := body

def sendOn (m : Mod) (p : Nat) (x : TxPkt) : Mod := modPort m p fun l => { l with txq := l.txq ++ [x] }

/-! ## Sync operations on their way (R652) -/

/-- The key of remote signals that wait at this module for their ordering condition. -/
def remoteQ : Nat := 16

def syncQueue (m : Mod) (d : Nat) : List SyncOp := sget [] m.syncQ d
def setSyncQueue (m : Mod) (d : Nat) (q : List SyncOp) : Mod := { m with syncQ := sset [] m.syncQ d q }

/-- Sources: a task, a DMA queue, and a task's signals through slots. -/
def srcQueue (g q : Nat) : Nat := 1024 + 9 * g + q
def srcSlot (task : Nat) : Nat := 8192 + task
/-- The task of a source, none for a DMA queue. -/
def srcTask (src : Nat) : Option Nat := if src < 1024 then some src else if 8192 ≤ src ∧ src < 9216 then some (src - 8192) else none

/-- The index of the instruction a task is issuing, kept for the fault records of what it starts
(R575). -/
def taskPc (m : Mod) (task : Nat) : Nat := (ctx m (task / 4) (task % 4)).pc
def srcPc (m : Mod) (src : Nat) : Nat := ((srcTask src).map (taskPc m)).getD 0

/-- The issuer of a task's own operations. -/
def srcIssuer (src : Nat) : Issuer :=
  match srcTask src with
  | some tk => .task tk
  | none => .nobody

def pushSync (m : Mod) (d src obj : Nat) (kind : SyncKind) (deps : List Nat) (by_ : Issuer) : Mod :=
  let (id, m') := fresh m
  setSyncQueue m' d (syncQueue m' d ++ [{ id := id, src := src, obj := obj, kind := kind, deps := deps, idx := srcPc m src, by_ := by_ }])

/-- A signal through slot s of the slot table (R285, R286): to this module's sync file, or as a
packet to another module. -/
def slotSignal (m : Mod) (k src s : Nat) (deps : List Nat) (by_ : Issuer) : Mod :=
  match (partSt m k).prog with
  | none => m
  | some p =>
    match p.slots[s]? with
    | none => m
    | some sl =>
      let a := sl.pod.toNat
      if a / 2 ^ 18 = moduleNum m then
        pushSync m (a / 2 ^ 14 % 16) (8192 + src) (a % 2 ^ 14) (.sig (BitVec.ofNat 32 sl.count)) deps by_
      else pushSync m remoteQ (8192 + src) a (.sig (BitVec.ofNat 32 sl.count)) deps by_

/-- The signal of an instruction (R285), ordered after every write of its context and its own
work (R163). -/
def putSignal (m : Mod) (task : Nat) (w : LviWord) (count : Nat) (own : Option Nat) : Mod :=
  let deps := depsOf m task ++ own.toList
  let g := task / 4
  match wSmode w with
  | 0 => m
  | 1 => pushSync m (g / 16) task (wS w) (.sig 1) deps (.task task)
  | 2 => pushSync m (g / 16) task (wS w) (.sig (BitVec.ofNat 32 count)) deps (.task task)
  | _ => slotSignal m (ctx m g (task % 4)).part task (wS w) deps (.task task)

/-- Drops the waiting signals of a work that will never be made. -/
def dropSignals (m : Mod) (id : Nat) : Mod :=
  { m with syncQ := (m.syncQ.map fun q => (q.1, q.2.filter fun o => !o.deps.contains id)).filter fun q => !q.2.isEmpty }

/-! ## Counting and leave -/

def levelOf (m : Mod) (task : Nat) : Nat := (ctx m (task / 4) (task % 4)).dqLevel.headD 0

/-! ## Completions -/

def findCmd (m : Mod) (sq tag : Nat) : Option Cmd := m.cmds.find? fun c => c.sq == sq && c.tag == tag
def modCmd (m : Mod) (sq tag : Nat) (f : Cmd → Cmd) : Mod :=
  { m with cmds := m.cmds.map fun c => if c.sq = sq ∧ c.tag = tag then f c else c }

/-- An entry that waits at the CQ of a ring. -/
def putEntry (n : Nat) (x : CqEntry) (m : Mod) : Mod := modRing m n fun r => { r with waiting := r.waiting ++ [x] }

/-- The entry of a command (R486); SQ_HEAD is filled in as it is written. -/
def cmdEntry (own : Bool) (tag status : Nat) (reason : Byte) (flog : BitVec 16) (time : W64) : CqEntry where
  own := own
  tag := BitVec.ofNat 16 tag
  half := 0
  event := false
  status := BitVec.ofNat 4 status
  reason := reason
  flog := flog
  time := time

/-- The retire point of a command at a time (R504, R508): its status is fixed and its entry waits
(R492). -/
def retireAt (time : W64) (sq tag : Nat) (status : Nat) (reason : Byte) (flog : BitVec 16) (m : Mod) : Mod :=
  putEntry sq (cmdEntry true tag status reason flog time) (modCmd m sq tag fun c => { c with st := .retired })

def retireCmd (t : Clk) (sq tag : Nat) (status : Nat) (reason : Byte) (flog : BitVec 16) (m : Mod) : Mod :=
  retireAt t.sid sq tag status reason flog m

/-- A command refused at its start. -/
def refuseCmd (t : Clk) (sq tag : Nat) (reason : Byte) (m : Mod) : Mod := retireCmd t sq tag 2 reason 0 m

/-- The end of a started command: ABORTED when an ABORT was granted, FAULT on its fault, else the
status given (R508). -/
def endCmd (t : Clk) (sq tag status : Nat) (m : Mod) : Mod :=
  match findCmd m sq tag with
  | none => m
  | some c => match c.st with
    | .retired => m
    | .aborting granted => retireAt granted sq tag 1 0 0 m
    | _ => match c.fault with
      | some (fl, r) => retireCmd t sq tag 3 r fl m
      | none => retireCmd t sq tag (if status ≠ 0 ∧ status ≠ 4 ∧ status ≠ 5 then status
        else if c.sat then 6 else if status = 0 ∧ c.fallback then 4 else status) 0 0 m

/-- Another EPOCH_ADVANCE than a command's has been accepted and not dispatched (R386). -/
def otherAdvance (m : Mod) (c : Cmd) : Bool :=
  m.cmds.any fun x => x.op == 0x31 && !(x.sq == c.sq && x.tag == c.tag) && match x.st with | .accepted .. => true | _ => false

/-- Records the first fault of a command (R508). -/
def faultCmd (m : Mod) (sq tag log : Nat) (reason : Byte) : Mod :=
  let fl := flogOf m log
  modCmd m sq tag fun c => if c.fault.isSome then c else { c with fault := some (fl, reason) }

/-! ## Task faults -/

/-- The leave that discarded descriptors of some runs hold or ask for is returned, the grant of a run whose first
descriptor is not yet fetched among it. -/
def returnDescs (e : Engine) (g : Nat) (runs : List Nat) (m : Mod) : Mod :=
  (e.dq.flatMap fun q => (q.2.fetched.filter fun d => runs.contains d.run).filterMap (·.leaveId)
      ++ (q.2.runs.filter fun r => runs.contains r.id && r.grant != 0).map (·.grant)).foldl
    (fun m id => returnLeave m (g / 16) id) m

/-- The pops that discarded descriptors of some runs have under way are withdrawn (R209). -/
def dropPops (e : Engine) (runs : List Nat) (m : Mod) : Mod :=
  let gone := e.dq.flatMap fun q => (q.2.fetched.filter fun d => runs.contains d.run).map (·.id)
  { m with hqQ := (m.hqQ.map fun q => (q.1, q.2.filter fun o => !(o.push.isNone && o.desc.any gone.contains))).filter fun q => !q.2.isEmpty }

/-- The queues of an engine whose runs belong to a task, reset: unstarted descriptors discarded,
their pops withdrawn, their runs' signals not made, scoreboard entries of faulted transfers freed (R138, R209). -/
def resetQueues (m : Mod) (task : Nat) : Mod :=
  let g := task / 4
  let e := engine m g
  let gone := e.dq.flatMap fun q => (q.2.runs.filter fun r => r.task == some task &&
    (r.left != 0 || q.2.fetched.any fun d => d.run == r.id)).map (·.id)
  let mine := e.dq.flatMap fun q => (q.2.runs.filter fun r => r.task == some task).map (·.id)
  let m1 := modEngine (dropPops e mine m) g fun e => { e with
    dq := (e.dq.map fun q => (q.1, { q.2 with
      runs := q.2.runs.filter fun r => !gone.contains r.id
      fetched := q.2.fetched.filter fun d => !mine.contains d.run })).filter fun q => q.2 != {}
    xfers := e.xfers.filter fun x => !(x.ended.isSome && x.task == some task) }
  gone.foldl dropSignals (returnDescs e g mine m1)

/-- A task leaves issue for good: its Transit reservation and waiting leave request are returned
(R257). -/
def stopTask (m : Mod) (task : Nat) (st : CtxSt) (flog : Option (BitVec 16 × Byte × W64)) : Mod :=
  let g := task / 4
  let c := task % 4
  let x := ctx m g c
  let m1 := match x.accepted with
    | some { resv := some (gv, id), .. } => returnResv m gv id
    | _ => m
  let m2 := match x.leaveReq with
    | some id => returnLeave m1 (g / 16) id
    | none => m1
  modCtx m2 g c fun x => { x with st := st, accepted := none, leaveReq := none, waitSince := none, pop := none, flog := x.flog <|> flog }

/-- The collects of a task are abandoned; their rounds stay open (R378). -/
def dropCollects (m : Mod) (task : Nat) : Mod :=
  let gone := (m.xch.collects.filter fun c => c.task == task).map (·.id)
  gone.foldl dropSignals (modXch m fun x => { x with collects := x.collects.filter fun c => c.task != task })

/-! ## CHAINs of a program -/

def chainRec (m : Mod) (k n : Nat) : Option ChainRec :=
  match (partSt m k).prog with
  | none => none
  | some p => p.chains[n]?

def modChain (m : Mod) (k n : Nat) (f : ChainRt → ChainRt) : Mod :=
  modPart m k fun p => { p with chains := p.chains.map fun r => if r.rec_ = n then f r else r }

/-- A stage has faulted: the CHAIN stops (R237). -/
def stopChain (m : Mod) (k n : Nat) (fl : Option (BitVec 16 × Byte × W64)) : Mod :=
  modChain m k n fun r => { r with stopped := true, flog := r.flog <|> fl }

/-- Whether stage i of a CHAIN is a TASK stage of a task. -/
def isTaskStage (m : Mod) (k task : Nat) (s : StageRec) : Bool :=
  s.kind == 1 && (match (partSt m k).prog with | some p => p.taskIds[s.place]? == some task | none => false)

/-- The CHAINs with a TASK stage of a task that has faulted stop (R237). -/
def stopTaskChains (m : Mod) (task : Nat) (fl : Option (BitVec 16 × Byte × W64)) : Mod :=
  let k := (ctx m (task / 4) (task % 4)).part
  ((partSt m k).chains.filter fun r => match chainRec m k r.rec_ with
    | some c => c.stages.any (isTaskStage m k task)
    | none => false).foldl (fun m r => stopChain m k r.rec_ fl) m

/-- A task fault whose entry has been written in the engine's log. -/
def failTask (t : Clk) (task : Nat) (reason : Byte) (log : Nat) (m : Mod) : Mod :=
  let fl := some (flogOf m log, reason, t.sid)
  dropCollects (resetQueues (stopTask (stopTaskChains m task fl) task .faulted fl) task) task

/-- A task fault with its own entry (R138, R575). -/
def faultTask (t : Clk) (task : Nat) (typ reason : Byte) (addr : W64) (info : W64) (poison : Bool) (m : Mod) : Mod :=
  let g := task / 4
  let x := ctx m g (task % 4)
  if x.st = .empty then m else
  failTask t task reason g (logEngine t g { typ := typ, part := some x.part, reason := reason, task := some task, poison := poison, addr := addr, info := info } m)

/-- A fault of an issuing instruction: type TASK with the instruction index (R575). -/
def faultInsn (t : Clk) (g c : Nat) (reason : Byte) (addr : Nat) (m : Mod) : Mod :=
  faultTask t (taskId g c) fTask reason (BitVec.ofNat 64 addr) (BitVec.ofNat 64 (ctx m g c).pc) false m

/-- An access refused to a task, already logged by the access (R568). -/
def faultAccess (t : Clk) (task : Nat) (e : XErr) (m : Mod) : Mod := failTask t task e.reason (task / 4) m

/-- A consumer meets poison (R582). -/
def faultPoison (t : Clk) (task addr : Nat) (m : Mod) : Mod :=
  faultTask t task fPoison 0 (BitVec.ofNat 64 addr) 0 true m

/-- An engine whose runs of some numbers take no further descriptor. -/
def endRuns (gone : List Nat) (e : Engine) : Engine :=
  { e with dq := (e.dq.map fun q => (q.1, { q.2 with
      runs := q.2.runs.map fun r => if gone.contains r.id then { r with left := 0, grant := 0 } else r
      fetched := q.2.fetched.filter fun d => !gone.contains d.run })).filter fun q => q.2 != {} }

/-- The descriptors of a DMA command that have not started are discarded (R505). -/
def discardRuns (sq tag : Nat) (m : Mod) : Mod :=
  let gone := m.eng.flatMap fun ge => (dmaq ge.2 8).runs.filterMap fun r => if r.cmd = some (sq, tag) then some r.id else none
  let m1 := m.eng.foldl (fun m ge => dropPops ge.2 gone (returnDescs ge.2 ge.1 gone m)) m
  { m1 with eng := m1.eng.map fun ge => (ge.1, endRuns gone ge.2) }

/-- Whose run it is. -/
def runIssuer (r : Option Run) : Issuer :=
  match r with
  | some { task := some tk, .. } => .task tk
  | some { cmd := some (sq, tag), .. } => .cmd sq tag
  | some { stage := some (k, n), .. } => .stage k n
  | _ => .nobody

/-- The fault of an issuer whose entry has been written: its task, its command, or the CHAIN of its stage
(R138, R237, R568). -/
def faultIssuer (t : Clk) (b : Issuer) (reason : Byte) (log : Nat) (m : Mod) : Mod :=
  match b with
  | .task tk => failTask t tk reason log m
  | .cmd sq tag => discardRuns sq tag (faultCmd m sq tag log reason)
  | .stage k n => stopChain m k (n / 8) (some (flogOf m log, reason, t.sid))
  | .nobody => m

/-- A fault of what an engine did for an issuer, with its own entry in the engine's log. -/
def faultBy (t : Clk) (g : Nat) (b : Issuer) (typ reason : Byte) (addr info : W64) (m : Mod) : Mod :=
  match b with
  | .task tk => faultTask t tk typ reason addr info false m
  | b => faultIssuer t b reason g (logEngine t g { typ := typ, part := dieOwner m (g / 16), reason := reason, addr := addr, info := info } m)

/-- The engine of an operation's source. -/
def srcEngine (src : Nat) : Nat :=
  if src < 1024 then src / 4 else if src < 8192 then (src - 1024) / 9
  else if src < 9216 then (src - 8192) / 4 else if src < 2 ^ 20 then (src - 9216) / 9 else 256

/-! ## What ends by itself once its conditions hold -/

/-- Whether an operation of an issuer is still on its way. -/
def opsOf (m : Mod) (b : Issuer) : Bool :=
  m.syncQ.any (fun q => q.2.any fun o => o.by_ == b) || m.hqQ.any fun q => q.2.any fun o => o.by_ == b

/-- Whether an operation may arrive at the port of a die: its ordering condition holds, and no earlier one
of the same task context is still on its way to that port (R652). Signals of DMA queues are of no context: those of a
merged transfer keep its descriptors' order (R215), the others their order per object (R216). -/
def opReady (m : Mod) (d : Nat) (q : List SyncOp) (o : SyncOp) : Bool :=
  depsDone m o.deps && !(m.syncQ.any fun x => x.2.any fun p => o.behind.contains p.id) && (if (srcTask o.src).isSome then
      !(q.any fun x => srcTask x.src == srcTask o.src && decide (x.id < o.id))
        && !((sget [] m.hqQ d).any fun x => srcTask x.src == srcTask o.src && decide (x.id < o.id))
    else (q.takeWhile fun x => x.id != o.id).all fun x => !(x.src % 8192 == o.src % 8192 && x.obj == o.obj) || depsDone m x.deps)

/-- The first operation of a source that may arrive (R652). -/
def firstReady (m : Mod) (d : Nat) (q : List SyncOp) (src : Nat) : Option SyncOp :=
  q.find? fun o => o.src == src && opReady m d q o

/-- The partition of a remote signal: its task's, or that of its DMA queue's die. -/
def remotePart (m : Mod) (src : Nat) : Nat :=
  match srcTask src with
  | some tk => (ctx m (tk / 4) (tk % 4)).part
  | none => (dieOwner m (srcEngine src / 16)).getD 0

def sigCount (k : SyncKind) : Nat :=
  match k with
  | .sig c => c.toNat
  | _ => 0

/-- A remote signal whose writes are visible: sent on its route, or its issuer faults (R288, R393, R417). -/
def sendRemote (t : Clk) (o : SyncOp) (m : Mod) : Mod :=
  let m1 := setSyncQueue m remoteQ ((syncQueue m remoteQ).filter fun x => x.id != o.id)
  let src := o.src - 8192
  let dst := o.obj / 2 ^ 18
  match route m (remotePart m src) dst with
  | .ok p => sendOn m1 p {
      pkt := packet m (remotePart m src) 0x01 0 dst 0 0 (sigCount o.kind) (BitVec.ofNat 64 o.obj) [] []
      deps := [], task := srcTask src, works := [] }
  | .error r => faultBy t (srcEngine src) o.by_ fTask r 0 (BitVec.ofNat 64 o.idx) m1

def sendRemotes (t : Clk) (m : Mod) : Mod :=
  ((syncQueue m remoteQ).filter (opReady m remoteQ (syncQueue m remoteQ))).foldl (fun m o => sendRemote t o m) m

def hqFull (q : HQueue) : Bool := decide (q.items.length ≥ 64)
/-- A queue with a push held at a full handle queue advances no further (R229). -/
def pushHeld (m : Mod) (g q : Nat) : Bool :=
  m.hqQ.any fun x => x.2.any fun o => o.src == srcQueue g q && o.push.isSome && hqFull (sget {} m.hqs o.queue)

/-- A run goes on while descriptors are untaken, a transfer of it has not ended, or a push of its
queue is held (R216, R229). -/
def runOpen (m : Mod) (g : Nat) (e : Engine) (q : Nat × DmaQ) (r : Run) : Bool :=
  r.left != 0 || q.2.fetched.any (fun d => d.run == r.id)
    || e.xfers.any (fun x => x.ended.isNone && x.descs.any fun d => d.run == r.id)
    || pushHeld m g q.1

def purgeEngine (m : Mod) (g : Nat) (e : Engine) : Engine :=
  { e with dq := (e.dq.map fun q => (q.1, { q.2 with runs := q.2.runs.filter (runOpen m g e q) })).filter fun q => q.2 != {} }

/-- The runs that have ended are gone. -/
def purgeRuns (m : Mod) : Mod := { m with eng := m.eng.map fun ge => (ge.1, purgeEngine m ge.1 ge.2) }

/-- Whether nothing a task issued is still under way. -/
def taskQuiet (m : Mod) (task : Nat) : Bool :=
  !((works m).any fun w => w.task == some task)
    && !(opsOf m (.task task))

/-- An ended task whose earlier effects are complete: END signals, its queues reset (R275, R304). -/
def finishTask (m : Mod) (g c : Nat) : Mod :=
  let x := ctx m g c
  let task := taskId g c
  let w := (x.stream[x.pc]?).getD 0
  let m1 := putSignal m task w 0 none
  modCtx (resetQueues m1 task) g c fun x => { x with st := .finished }

def finishTasks (m : Mod) : Mod :=
  m.eng.foldl (fun m ge => (List.range 4).foldl (fun m c =>
    if (ctx m ge.1 c).st = .ended ∧ taskQuiet m (taskId ge.1 c) then finishTask m ge.1 c else m) m) m

/-- The earliest fault record (R275, R577). -/
def firstFault : List (Option (BitVec 16 × Byte × W64)) → Option (BitVec 16 × Byte × W64)
  | [] => none
  | none :: r => firstFault r
  | some x :: r => match firstFault r with
    | none => some x
    | some y => if y.2.2.toNat < x.2.2.toNat then some y else some x

def progCtxs (m : Mod) (p : Program) : List Ctx := p.taskIds.map fun t => ctx m (t / 4) (t % 4)

/-- Whether every task of a started program has ended, or faulted and finished (R275). -/
def programOver (m : Mod) (p : Program) : Bool :=
  p.started && !p.finished && p.taskIds.all fun tk =>
    let x := ctx m (tk / 4) (tk % 4)
    x.st == .finished || (x.st == .faulted && taskQuiet m tk)

/-- The logs of a partition: those of its compute dies and their engines (R573). -/
def partLogs (m : Mod) (k : Nat) : List Nat :=
  (partDies m k).flatMap fun d => logCD d :: (List.range 16).map fun i => 16 * d + i

/-- The end of a program's PROGRAM_START: where a task has faulted, the earliest fault of every log of the partition
since the start, else SAT and PARTIAL (R64, R275, R379, R577). -/
def endStart (t : Clk) (k : Nat) (p : Program) (m : Mod) : Mod :=
  match p.cmd with
  | none => m
  | some (sq, tag) =>
    let own := firstFault (p.flog :: (progCtxs m p).map (·.flog))
    match own.bind fun x => firstFault (some x :: (partLogs m k).map (earlyOf m)) with
    | some (fl, r, _) => endCmd t sq tag 0 (modCmd m sq tag fun c => { c with fault := c.fault <|> some (fl, r) })
    | none => endCmd t sq tag (if p.sat then 6 else if p.partial_ then 5 else 0) m

/-- The program of a partition completes. -/
def finishProgram (t : Clk) (m : Mod) (k : Nat) : Mod :=
  match (partSt m k).prog with
  | none => m
  | some p => if programOver m p then endStart t k p (modProg m k fun p => { p with finished := true }) else m

/-- A started command whose end is that of the works it names: DMA and XLAT_INVALIDATE (R37, R499). -/
def awaitsWorks (c : Cmd) : Bool :=
  (c.op == 0x02 || c.op == 0x20) && (match c.st with | .started | .aborting _ => true | _ => false)

def finishCmds (t : Clk) (m : Mod) : Mod :=
  (m.cmds.filter fun c => awaitsWorks c && depsDone m c.works && !(opsOf m (.cmd c.sq c.tag))).foldl (fun m c =>
    endCmd t c.sq c.tag 0 m) m

/-! ## Waits (R284) -/

def waitSat (m : Mod) (g : Nat) (w : LviWord) : Bool :=
  let a := objSat (syncObj m (g / 16) (wW0 w))
  let b := objSat (syncObj m (g / 16) (wW1 w))
  match wWmode w with
  | 0 => true
  | 1 => a
  | 2 => a && b
  | _ => a || b

/-- The watchdog timer of a waiting context: cleared while its wait is satisfied, running while it is not
(R295). -/
def settleWait (t : Clk) (g : Nat) (m : Mod) (c : Nat) : Mod :=
  let x := ctx m g c
  match x.st, x.accepted, x.stream[x.pc]? with
  | .missed .wait, none, some w =>
    if waitSat m g w then modCtx m g c fun x => { x with waitSince := none }
    else if (engine m g).halt = .running then modCtx m g c fun x => { x with waitSince := x.waitSince <|> some t.now }
    else m
  | _, _, _ => m

def settleWaits (t : Clk) (m : Mod) : Mod :=
  m.eng.foldl (fun m ge => (List.range 4).foldl (settleWait t ge.1) m) m

/-- What follows by itself from a change of the engines, in order: runs end, their commands complete, remote signals
leave, tasks finish, their ENDs' remote signals leave or fault them (R275), programs complete, wait timers start or clear. -/
def settle (t : Clk) (m : Mod) : Mod :=
  settleWaits t ((List.range 8).foldl (finishProgram t)
    (sendRemotes t (finishTasks (sendRemotes t (finishCmds t (purgeRuns m))))))

/-- A command of the engines: its effect, then what follows by itself. -/
def onEng (f : Clk → Mod → Mod) (s : State) : Host.Outcome State Fault Refusal :=
  onMod (fun t m => settle t (f t m)) s

end Sys2Proof.Machine
end

