-- ==== Sys2Proof/Machine/Issue.lean ====
section
/-! DEFINITION. An issue attempt (R131, R132, R251, R284, R305 to R308, R594): what every LVI
instruction shares, from the breakpoint check to the advance of its context. -/

namespace Sys2Proof.Machine

/-! ## Landing (R134, R206, R208, R209) -/

/-- The bytes of its destination that a transfer has still to land: from the pointer on, and for a TILE the
header line, whose bytes land last (R205, R206). -/
def leftOver (x : Xfer) : List (Nat × Nat) :=
  if x.tile then [(0, 256), (64 + x.landed, x.total - x.landed)] else [(x.landed, x.total - x.landed)]

/-- A range of the destination as ranges of the own scratchpad, by the pieces that lie there. -/
def padRanges (pad : List (Nat × Nat × Nat)) (r : Nat × Nat) : List (Nat × Nat) :=
  (pad.map fun p =>
    let lo := max r.1 p.1
    let hi := min (r.1 + r.2) (p.1 + p.2.2)
    (p.2.1 + (lo - p.1), hi - lo)).filter fun x => x.2 != 0

/-- The bytes of the own scratchpad a transfer has still to land. -/
def unlanded (x : Xfer) : List (Nat × Nat) := (leftOver x).flatMap (padRanges x.pad)

def overlaps (a n b k : Nat) : Bool := decide (a < b + k) && decide (b < a + n)

/-- Whether some byte of a range has an incoming transfer not yet landed. -/
def notLanded (m : Mod) (g off n : Nat) : Bool :=
  (engine m g).xfers.any fun x => x.ended.isNone && (unlanded x).any fun r => overlaps off n r.1 r.2

/-- A range that reaches above the pointer of a faulted transfer: its reason and the byte (R209). -/
def deadRange (m : Mod) (g off n : Nat) : Option (Byte × Nat) :=
  (engine m g).xfers.findSome? fun x => match x.ended with
    | none => none
    | some r => (unlanded x).findSome? fun u => if overlaps off n u.1 u.2 then some (r, max off u.1) else none

/-! ## Forms -/

/-- What an opcode adds to the attempt: the operand fault at issue, the other misses, the leave it
needs, what refuses its acceptance as a Transit, and its effect with the number of its grant. `over`: whether the
condition of a miss has ended (R132). `atPort`: the sync-file port decides whether the instruction issues (R652). -/
structure Form where
  chk : Clk → Mod → Nat → Nat → LviWord → Option (Byte × Nat) := fun _ _ _ _ _ => none
  miss : Clk → Mod → Nat → Nat → LviWord → Option Miss := fun _ _ _ _ _ => none
  leave : Mod → Nat → Nat → LviWord → Nat := fun _ _ _ _ => 0
  accept : Mod → Nat → Nat → LviWord → Option Byte := fun _ _ _ _ => none
  ended : Clk → Mod → Nat → Nat → LviWord → Miss → Bool := fun t m g c w k => miss t m g c w != some k
  atPort : Bool := false
  eff : Clk → Nat → Nat → LviWord → Nat → Mod → Mod

/-! ## The context moves on -/

/-- The end of open loops at a pc: another turn of the body, or the loop closes (R129, R315). -/
def loopEnd (l : Sparse W32) : List LoopFrame → Nat → Sparse W32 × List LoopFrame × Nat
  | [], pc => (l, [], pc)
  | f :: r, pc =>
    if pc = f.stop then
      let n := sget 0 l f.n
      if n.toNat > 1 then (sset 0 l f.n (n - 1), f :: r, f.start)
      else loopEnd (sset 0 l f.n 0) r pc
    else (l, f :: r, pc)

/-- The context at a new pc, closing the loops that end there. -/
def moveTo (x : Ctx) (pc : Nat) : Ctx :=
  let r := loopEnd x.lcnt x.loops pc
  { x with lcnt := r.1, loops := r.2.1, pc := r.2.2, hitPast := false, st := .ready, waitSince := none
           accepted := none, leaveReq := none, pop := none, launched := false }

/-- After an instruction: the next one, or a fault past the end of the stream (R275). -/
def advanceTo (t : Clk) (g c pc : Nat) (m : Mod) : Mod :=
  let m' := modCtx m g c fun x => moveTo x pc
  let x := ctx m' g c
  if x.pc < x.stream.length then m' else faultInsn t g c 0 0 m'

def advance (t : Clk) (g c : Nat) (m : Mod) : Mod := advanceTo t g c ((ctx m g c).pc + 1) m

/-- The plain end of an instruction that signals at issue. -/
def done (t : Clk) (g c : Nat) (w : LviWord) (m : Mod) : Mod :=
  advance t g c (putSignal m (taskId g c) w 0 none)

/-! ## Waits (R284) -/

/-- An object of the wait held bad by an uncorrected error, which faults its user (R579): its index
and the syndrome. -/
def waitBad (m : Mod) (g : Nat) (w : LviWord) : Option (Nat × W64) :=
  let at_ := fun (i : Nat) => ((syncObj m (g / 16) i).bad).map fun s => (i, s)
  (if wWmode w ≠ 0 then at_ (wW0 w) else none) <|> (if wWmode w ≥ 2 then at_ (wW1 w) else none)

/-- A context that misses issues no more until the sequencer selects it again (R133). -/
def unselect (g c : Nat) (m : Mod) : Mod := modEngine m g fun e => if e.active = c then { e with sel := false } else e

/-- A context misses (R132); a wait starts the watchdog timer (R295). -/
def missCtx (t : Clk) (g c : Nat) (k : Miss) (m : Mod) : Mod :=
  let x := ctx m g c
  let n := match k with | .wait => 0 | .emptyQueue => 1 | .datum => 2 | .leave => 3 | .busy => 4
  if x.st = .missed k then unselect g c m else
  let m1 := modCtx (unselect g c m) g c fun x => { x with st := .missed k }
  trace t g (taskId g c) 0x03 (n + 8 * (x.pc % 2 ^ 20)) (some 1) (countEv m1 g (7 + n) 1)

def startTimer (t : Clk) (g c : Nat) (m : Mod) : Mod :=
  modCtx m g c fun x => { x with waitSince := x.waitSince <|> some t.now }

/-! ## Halts (R594 to R596) -/

/-- An engine begins to halt: no context issues, accepted Transits lose their reservations. -/
def beginHalt (g : Nat) (m : Mod) : Mod :=
  if (engine m g).halt ≠ .running then m else
  let m1 := modEngine m g fun e => { e with halt := .halting }
  (List.range 4).foldl (fun m c =>
    match (ctx m g c).accepted with
    | none => m
    | some a =>
      let m' := match a.resv with
        | some (gv, id) => returnResv m gv id
        | none => m
      modCtx m' g c fun x => { x with accepted := none, st := .ready }) m1

/-- A halt of the partition reaches an engine. -/
def reachHalt (t : Clk) (g : Nat) (m : Mod) : Mod :=
  if (engine m g).halt ≠ .running then m else modEngine (beginHalt g m) g fun e => { e with haltAt := some t.now }

/-- Every engine and core of a partition receives the halt (R595). -/
def beginHaltAll (t : Clk) (k : Nat) (m : Mod) : Mod :=
  let dies := partDies m k
  let m1 := (List.range 256).foldl (fun m g => if dies.contains (g / 16) then reachHalt t g m else m) m
  { m1 with coresHalted := (List.range 64).filter fun n => m.coresHalted.contains n || dies.contains (n / 4) }

/-- The breakpoint check of a first issue attempt: the armed BREAKs of the instruction count the
execution, and the first whose SKIP is used up hits (R594). -/
def breakCheck (t : Clk) (g c : Nat) (m : Mod) : Mod × Bool :=
  let x := ctx m g c
  let e := engine m g
  let mine := fun (b : Brk) => b.task == taskId g c && b.index == x.pc && b.hit.isNone
  if x.hitPast ∨ ¬ e.breaks.any mine then (m, false)
  else
    let hit := e.breaks.any fun b => mine b && b.skip == 0
    let whole := e.breaks.any fun b => mine b && b.skip == 0 && b.whole
    let bs := e.breaks.map fun b =>
      if mine b then (if b.skip = 0 then { b with hit := some (taskId g c, x.pc, t.sid) } else { b with skip := b.skip - 1 }) else b
    let m1 := modCtx (modEngine m g fun e => { e with breaks := bs }) g c fun x => { x with hitPast := true }
    if ¬ hit then (m1, false)
    else (if whole then beginHaltAll t x.part (beginHalt g m1) else beginHalt g m1, true)

/-! ## Transit acceptance (R251 to R255, R307) -/

def roundUpTick (v : W64) : W64 := v + (v &&& 1)

/-- Late: the rounded launch is less than the acceptance tick plus 32; in ACQUIRE every Transit
is (R253, R264). -/
def isLate (t : Clk) (launch : W64) : Bool := decide (launch.toNat < t.sid.toNat + 32) || t.sync == .acquire

/-- An instruction with T = 1 is accepted: launch rounded, lateness judged, leave reserved. -/
def acceptInsn (t : Clk) (g c : Nat) (w : LviWord) (units : Nat) (m : Mod) : Mod :=
  let x := ctx m g c
  let launch := roundUpTick x.lt
  if isLate t launch then
    faultTask t (taskId g c) fTransitLate 0 launch t.sid false m
  else
    let hold := fun (m : Mod) (resv : Option (Nat × Nat)) =>
      missCtx t g c .wait (modCtx m g c fun x => { x with accepted := some { launch := launch, word := w, resv := resv } })
    if units = 0 then hold m none
    else
      let (id, m1) := fresh m
      match reserveLeave m1 (g / 16) id units with
      | .error r => faultInsn t g c r 0 m1
      | .ok m2 => trace t g (taskId g c) 0x06 (units % 65536 + 2 ^ 17) (some 3) (hold m2 (some (g / 16, id)))

/-! ## The attempt -/

/-- Whether a Transit of some context of the engine has come to its launch: the issuing context waits until all of
them have issued (R130, R258). -/
def launchDue (t : Clk) (m : Mod) (g : Nat) : Bool :=
  t.running && (List.range 4).any fun c => match (ctx m g c).accepted with
    | some a => decide (a.launch.toNat ≤ t.sid.toNat)
    | none => false

/-- Whether the word is the head of the context and the context may issue: the engine runs, the
context is the active one, selected since it last missed, and not done (R131, R133). -/
def atHead (m : Mod) (g c : Nat) (op : Nat) (ext : Option Nat) (w : LviWord) : Bool :=
  let e := engine m g
  let x := ctxOf e c
  engineRuns m g && e.active == c && e.sel && x.accepted.isNone && x.pop.isNone
    && (match x.st with | .ready | .missed _ => true | _ => false)
    && x.stream[x.pc]? == some w && wOp w == op && (ext.isNone || ext == some (wExt w))

/-- The same while the engine is not halted (R595). -/
def headIs (m : Mod) (g c : Nat) (op : Nat) (ext : Option Nat) (w : LviWord) : Bool :=
  (engine m g).halt == .running && atHead m g c op ext w

/-- An engine that the halt of another's hit has only just reached still hits in that cycle, and issues nothing (R598). -/
def lateHit (t : Clk) (g c : Nat) (m : Mod) : Mod :=
  let r := breakCheck t g c m
  if (engine m g).halt = .halting ∧ (engine m g).haltAt = some t.now ∧ r.2 then r.1 else m

/-- The context leaves its wait, its leave request and its Transit behind. A Transit takes an issue slot
without switching the issuing context out (R130, R133). -/
def issuing (g c : Nat) (m : Mod) : Mod :=
  let transit := (ctx m g c).accepted.isSome
  modEngine (modCtx m g c fun x => { x with waitSince := none, leaveReq := none, accepted := none })
    g fun e => { e with last := if transit then e.last else some c }

/-- The instruction issues: ISSUE record, then its effect. An HQ.POP issues where the port gives it a handle. -/
def startInsn (f : Form) (t : Clk) (g c : Nat) (w : LviWord) (grant : Nat) (m : Mod) : Mod :=
  if f.atPort then f.eff t g c w grant m
  else f.eff t g c w grant (traceIssue t g (taskId g c) (ctx m g c).pc (wOp w) (issuing g c m))

/-- The instruction issues, or faults on its operands. -/
def issueNow (f : Form) (t : Clk) (g c : Nat) (w : LviWord) (grant : Nat) (m : Mod) : Mod :=
  match f.chk t m g c w with
  | some (r, a) => faultInsn t g c r a (if grant = 0 then issuing g c m else returnLeave (issuing g c m) (g / 16) grant)
  | none => startInsn f t g c w grant m

/-- Leave asked for by an issue attempt whose operands are checked (R114, R528). -/
def withLeave (f : Form) (t : Clk) (g c : Nat) (w : LviWord) (m : Mod) : Mod :=
  let units := f.leave m g c w
  let task := taskId g c
  if units = 0 then startInsn f t g c w 0 m
  else match (ctx m g c).leaveReq with
    | some id => if hasGrant m (g / 16) id then startInsn f t g c w id m else missCtx t g c .leave m
    | none =>
      let (id, m1) := fresh m
      let m2 := trace t g task 0x06 (units % 65536) (some 3) m1
      let (ok, m3) := requestLeave m2 (g / 16) id (levelOf m task) units
      if ok then startInsn f t g c w id (trace t g task 0x06 (units % 65536 + 2 ^ 16) (some 3) m3)
      else missCtx t g c .leave (modCtx m3 g c fun x => { x with leaveReq := some id })

/-- The record of a wait that missed and is now satisfied: it names W0, or W1 where only W1 satisfies
WMODE 3 (R588). -/
def traceWait (t : Clk) (m : Mod) (g c : Nat) (w : LviWord) : Mod :=
  let obj := if wWmode w = 3 ∧ ¬ objSat (syncObj m (g / 16) (wW0 w)) then wW1 w else wW0 w
  if (ctx m g c).st = .missed .wait then trace t g (taskId g c) 0x09 obj (some 6) m else m

/-- The wait is over: its record, and the watchdog timer stops (R295). -/
def pastWait (t : Clk) (g c : Nat) (w : LviWord) (m : Mod) : Mod :=
  modCtx (traceWait t m g c w) g c fun x => { x with waitSince := none }

/-- The attempt once the wait is satisfied: refusals, misses, acceptance of a Transit, leave, issue. -/
def tryIssue (f : Form) (g c : Nat) (w : LviWord) (t : Clk) (m : Mod) : Mod :=
  if (¬ wT w ∨ (ctx m g c).launched) ∧ (f.chk t m g c w).isSome then issueNow f t g c w ((ctx m g c).leaveReq.getD 0) m
  else match f.miss t m g c w with
    | some k => missCtx t g c k m
    | none =>
      if ¬ wT w ∨ (ctx m g c).launched then withLeave f t g c w m
      else match f.accept m g c w with
        | some r => faultInsn t g c r 0 m
        | none => acceptInsn t g c w (f.leave m g c w) m

/-- One issue attempt of the head instruction: breakpoint, wait, then the instruction itself. -/
def attempt (f : Form) (op : Nat) (ext : Option Nat) (g c : Nat) (w : LviWord) (t : Clk) (m : Mod) : Mod :=
  if ¬ headIs m g c op ext w ∨ launchDue t m g then (if atHead m g c op ext w ∧ ¬ launchDue t m g then lateHit t g c m else m) else
  let (m1, hit) := breakCheck t g c m
  if hit then m1
  else match waitBad m1 g w with
    | some (i, s) => faultTask t (taskId g c) fEccUncorr 0 (BitVec.ofNat 64 (syncCell (g / 16) i)) s false m1
    | none =>
      if ¬ waitSat m1 g w then missCtx t g c .wait (startTimer t g c m1)
      else tryIssue f g c w t (pastWait t g c w m1)

/-- Whether a lower context of the engine has a Transit to dispatch first (R130, R259). -/
def lowerDue (t : Clk) (m : Mod) (g c : Nat) : Bool :=
  (List.range c).any fun d => match (ctx m g d).accepted with
    | some a => decide (a.launch.toNat ≤ t.sid.toNat)
    | none => false

/-- Dispatch of an accepted instruction at the first even tick at or past its launch (R258, R308), in ascending
context order (R130): the reservation becomes the grant and the instruction issues. -/
def dispatchInsn (f : Form) (t : Clk) (g c : Nat) (m : Mod) : Mod :=
  match (ctx m g c).accepted with
  | none => m
  | some a =>
    if t.sid.toNat < a.launch.toNat ∨ ¬ t.running ∨ lowerDue t m g c then m
    else match a.resv with
      | none => issueNow f t g c a.word 0 m
      | some (gv, id) => issueNow f t g c a.word id (claimResv m gv id)

/-- An LVI row: one attempt, then what follows by itself. -/
def issueRow (f : Form) (op : Nat) (ext : Option Nat) (e : Eng) (c : CtxId) (w : LviWord) (s : State) :
    Host.Outcome State Fault Refusal :=
  onEng (attempt f op ext e.val c.val w) s

end Sys2Proof.Machine
end

