-- ==== Sys2Proof/Machine/Sequencer.lean ====
section
/-! DEFINITION. The sequencer class 0x00 to 0x08 (R128 to R130, R275, R304, R315) and the sync
class 0xE0 to 0xE2 (R280, R337). -/

namespace Sys2Proof.Machine

def cnt (m : Mod) (g c i : Nat) : W32 := counter (ctx m g c) i
def cntPair (m : Mod) (g c i : Nat) : W64 := counterPair (ctx m g c) i
def setCnt (g c i : Nat) (v : W32) (m : Mod) : Mod := modCtx m g c fun x => setCounter x i v
def pred (m : Mod) (g c i : Nat) : Bool := bit (ctx m g c).pred.toNat i
/-- A comparator set (R128). -/
def setPred (p : BitVec 8) (i : Nat) (b : Bool) : BitVec 8 :=
  if b then p ||| BitVec.ofNat 8 (2 ^ i) else p &&& ~~~(BitVec.ofNat 8 (2 ^ i))
def imm (w : LviWord) : W32 := BitVec.ofNat 32 (wf w 0 32)

/-- The six relations of CMP. -/
def relation (r : Nat) (a b : W32) : Bool :=
  match r with
  | 0 => a == b
  | 1 => a != b
  | 2 => a.slt b
  | 3 => !a.slt b
  | 4 => a.ult b
  | _ => !a.ult b

def nopForm : Form where
  eff := fun t g c w _ m => done t g c w m

/-- END: the context stops issuing; the task ends when its earlier effects are complete. -/
def endForm : Form where
  eff := fun _ g c _ _ m => modCtx m g c fun x => { x with st := .ended }

def addVals (m : Mod) (g c : Nat) (w : LviWord) : W32 :=
  cnt m g c (wf w 56 4) + (if wExt w = 0 then cnt m g c (wf w 52 4) else imm w)

def addForm : Form where
  eff := fun t g c w _ m => done t g c w (setCnt g c (wf w 60 4) (addVals m g c w) m)

def cmpVal (m : Mod) (g c : Nat) (w : LviWord) : Bool :=
  relation (wExt w % 8) (cnt m g c (wf w 56 4)) (if wExt w < 8 then cnt m g c (wf w 52 4) else imm w)

def cmpForm : Form where
  eff := fun t g c w _ m => done t g c w
    (modCtx m g c fun x => { x with pred := setPred x.pred (wf w 61 3) (cmpVal m g c w) })

def selVal (m : Mod) (g c : Nat) (w : LviWord) : W32 :=
  let p := pred m g c (wf w 57 3)
  let cx := cnt m g c (wf w 52 4)
  let cy := cnt m g c (wf w 48 4)
  match wExt w with
  | 0 => if p then cx else cy
  | 1 => if p then imm w else cy
  | 2 => if p then cx else imm w
  | _ => imm w

def selForm : Form where
  eff := fun t g c w _ m => done t g c w (setCnt g c (wf w 60 4) (selVal m g c w) m)

/-- LOOP: opens Ln over the next BODY instructions; a count of 0 skips them (R129, R315). -/
def loopForm : Form where
  eff := fun t g c w _ m =>
    let n := if wExt w = 0 then imm w else cnt m g c (wf w 52 4)
    let pc := (ctx m g c).pc
    let body := wf w 32 20
    let m1 := putSignal m (taskId g c) w 0 none
    if n = 0 then advanceTo t g c (pc + 1 + body) m1
    else advance t g c (modCtx m1 g c fun x => { x with
      lcnt := sset 0 x.lcnt (wf w 62 2) n
      loops := { n := wf w 62 2, start := pc + 1, stop := pc + 1 + body } :: x.loops })

/-- A signed 32-bit offset from an instruction. -/
def branchTo (pc : Nat) (off : W32) : Nat := ((pc : Int) + off.toInt).toNat

def brTaken (m : Mod) (g c : Nat) (w : LviWord) : Bool :=
  match wExt w with
  | 0 => pred m g c (wf w 61 3)
  | 1 => !pred m g c (wf w 61 3)
  | _ => true

def brForm : Form where
  eff := fun t g c w _ m =>
    let pc := (ctx m g c).pc
    let m1 := putSignal m (taskId g c) w 0 none
    if brTaken m g c w then advanceTo t g c (branchTo pc (imm w)) m1 else advance t g c m1

/-- The new launch time (R130). -/
def setltVal (t : Clk) (m : Mod) (g c : Nat) (w : LviWord) : W64 :=
  match wExt w with
  | 0 => cntPair m g c (wf w 56 4)
  | 1 => (ctx m g c).lt + (imm w).signExtend 64
  | _ => t.sid + (imm w).zeroExtend 64

def setltForm : Form where
  eff := fun t g c w _ m => done t g c w (modCtx m g c fun x => { x with lt := setltVal t m g c w })

def timeForm : Form where
  eff := fun t g c w _ m => done t g c w
    (setCnt g c (wf w 60 4 + 1) (BitVec.ofNat 32 (t.sid.toNat / 2 ^ 32))
      (setCnt g c (wf w 60 4) (BitVec.ofNat 32 t.sid.toNat) m))

/-! ## Sync class -/

def armTarget (m : Mod) (g c : Nat) (w : LviWord) : W32 :=
  if wExt w ≥ 2 then cnt m g c (wf w 46 4) else imm w

/-- An ARM or CLEAR of the own die, behind every write of the context (R280, R337). -/
def putSyncOp (m : Mod) (g c obj : Nat) (k : SyncKind) : Mod :=
  pushSync m (g / 16) (taskId g c) obj k (depsOf m (taskId g c)) (.task (taskId g c))

def syncArmForm : Form where
  eff := fun t g c w _ m => done t g c w
    (putSyncOp m g c (wf w 50 14) (.arm (armTarget m g c w) (wExt w % 2 == 1)))

def syncClearForm : Form where
  eff := fun t g c w _ m => done t g c w (putSyncOp m g c (wf w 50 14) .clear)

def signalCount (m : Mod) (g c : Nat) (w : LviWord) : Nat :=
  if wExt w = 1 then (cnt m g c (wf w 46 4)).toNat else (imm w).toNat

/-- SYNC.SIGNAL: the signal of its SMODE and S fields. -/
def syncSignalForm : Form where
  eff := fun t g c w _ m => advance t g c (putSignal m (taskId g c) w (signalCount m g c w) none)

/-! ## The rows -/

def execNop (e : Eng) (c : CtxId) (w : LviWord) (s : State) : Host.Outcome State Fault Refusal :=
  issueRow nopForm 0x00 none e c w s
def execEndTask (e : Eng) (c : CtxId) (w : LviWord) (s : State) : Host.Outcome State Fault Refusal :=
  issueRow endForm 0x01 none e c w s
def execAdd (e : Eng) (c : CtxId) (w : LviWord) (s : State) : Host.Outcome State Fault Refusal :=
  issueRow addForm 0x02 none e c w s
def execCmp (e : Eng) (c : CtxId) (w : LviWord) (s : State) : Host.Outcome State Fault Refusal :=
  issueRow cmpForm 0x03 none e c w s
def execSel (e : Eng) (c : CtxId) (w : LviWord) (s : State) : Host.Outcome State Fault Refusal :=
  issueRow selForm 0x04 none e c w s
def execLoop (e : Eng) (c : CtxId) (w : LviWord) (s : State) : Host.Outcome State Fault Refusal :=
  issueRow loopForm 0x05 none e c w s
def execBr (e : Eng) (c : CtxId) (w : LviWord) (s : State) : Host.Outcome State Fault Refusal :=
  issueRow brForm 0x06 none e c w s
def execSetlt (e : Eng) (c : CtxId) (w : LviWord) (s : State) : Host.Outcome State Fault Refusal :=
  issueRow setltForm 0x07 none e c w s
def execTime (e : Eng) (c : CtxId) (w : LviWord) (s : State) : Host.Outcome State Fault Refusal :=
  issueRow timeForm 0x08 none e c w s
def execSyncArm (e : Eng) (c : CtxId) (w : LviWord) (s : State) : Host.Outcome State Fault Refusal :=
  issueRow syncArmForm 0xE0 none e c w s
def execSyncClear (e : Eng) (c : CtxId) (w : LviWord) (s : State) : Host.Outcome State Fault Refusal :=
  issueRow syncClearForm 0xE1 none e c w s
def execSyncSignal (e : Eng) (c : CtxId) (w : LviWord) (s : State) : Host.Outcome State Fault Refusal :=
  issueRow syncSignalForm 0xE2 none e c w s

end Sys2Proof.Machine
end

