-- ==== Sys2Proof/Machine/Region.lean ====
section
/-! DEFINITION. Tier regions (R187 to R193, R353): region operations on their way, their
application by the region controller, and the TIER instructions (R318). -/

namespace Sys2Proof.Machine

def unit2M : Nat := 0x200000

/-- An operation on its way to the controller of a tier die. -/
def pushRegion (m : Mod) (td : Nat) (op : RegOp) (who : Owner) (part entry : Nat) (deps : List Nat)
    (result : Option (Nat × Nat)) (word : Option LviWord) (cmd : Option (Nat × Nat)) : Nat × Mod :=
  let (id, m') := fresh m
  let idx := match who with | .task tk => taskPc m tk | _ => 0
  let r : RegReq := { id := id, op := op, who := who, part := part, entry := entry, va := false, deps := deps, result := result, word := word, cmd := cmd, idx := idx }
  (id, { m' with regQ := smod [] m'.regQ td fun q => q ++ [r] })

/-- Tier units of 2 MiB a partition holds on a die. -/
def tierUsed (m : Mod) (part td : Nat) : Nat :=
  ((m.regions.filter fun kv => kv.1 / 8192 == td && kv.2.st != .free && kv.2.part == part).map (·.2.size)).foldl (· + ·) 0

def tierCap (m : Mod) (part td : Nat) : Nat := regF m (rPart part + 0x20 + 8 * td) 0 18

/-- The tier die a stream lands in (R25, R439). -/
def landTd (d : Nat) (profile : List Byte) : Nat :=
  let x := fld profile 0x13 1
  if x < 4 then x else (if d < 3 then 0 else 2) + (if Config.landHigh d then 1 else 0)

/-- The result slots of region operations that no counter takes: landing segments of stream s of
media die d, and shuffle segments of die d. -/
def landMark (d s : Nat) : Nat := 2048 + 64 * d + s
def shufMark (d : Nat) : Nat := 4096 + d
def isLanding (r : Option (Nat × Nat)) : Bool :=
  match r with
  | some (x, _) => decide (2048 ≤ x) && decide (x < 4096)
  | none => false

/-- The coast reserves committed to the accepted streams of a partition on a die, in units of
2 MiB (R188): the landing segments still reserved to each stream. -/
def coastUnits (m : Mod) (part td : Nat) : Nat :=
  (m.media.flatMap fun md => if mediaPart m md.1 == some part then
      md.2.slots.map (fun ks => (md.1, ks.2)) else []).foldl (fun a ds =>
    a + (if landTd ds.1 ds.2.profile == td && ds.2.pool != 0 then
      ds.2.pool / unit2M - ds.2.segs.length * (ds.2.seg / unit2M) else 0)) 0

/-- The bytes of a partition's regions in KEEP windows (R353). -/
def keepBytes (m : Mod) (part : Nat) : Nat :=
  ((m.regions.filter fun kv => kv.2.st != .free && kv.2.part == part &&
    (keepWin m (kv.1 / 8192) (kv.2.base * unit2M)).isSome).map fun kv => kv.2.size * unit2M).foldl (· + ·) 0

/-- The region entry that an OPEN takes: the lowest unused one of the tier die. R189 says only that a FREE entry is
unused; which of them an OPEN takes is a DESIGN CHOICE (log 20). -/
def freeEntry (m : Mod) (td : Nat) : Option Nat :=
  let used := (m.regions.filter fun kv => kv.1 / 8192 == td && kv.2.st != .free).map (·.1 % 8192)
  (List.range (used.length + 1)).find? fun i => !used.contains i && decide (i < 8192)

/-- The checks of OPEN: range (R187), capacity (R188), KEEP quota (R353). -/
def openErr (m : Mod) (td part base size : Nat) (landing : Bool) : Option Byte :=
  let b := base / unit2M
  if base % unit2M ≠ 0 ∨ size = 0 ∨ (b + size) * unit2M > tierBytes then some 0x64
  else if ¬ spanIn m part (tierAddr td base) (size * unit2M) then some 0x64
  else if m.regions.any fun kv => kv.1 / 8192 == td && kv.2.st != .free &&
      decide (b < kv.2.base + kv.2.size) && decide (kv.2.base < b + size) then some 0x64
  else if (freeEntry m td).isNone then some 0x64
  else if tierUsed m part td + size + (coastUnits m part td - if landing then size else 0) > tierCap m part td then some 0x64
  else if (keepWin m td base).isSome ∧
      keepBytes m part + size * unit2M > (match (partSt m part).prog with | some p => p.keepQuota.toNat | none => 0) then some 0x69
  else none

def isDriver : Owner → Bool
  | .driver _ => true
  | _ => false

/-- A read under way that a unit of the partition issued is over when its work is, so DONE frees
a RELEASED region at the last reader (R189). -/
def doneRegion (r : Region) : Region :=
  let n := r.done + 1
  if r.st = .released ∧ n = r.d then {} else { r with done := n }

/-- The table of R189: the new entry, or the refusal's reason. -/
def regionStep (t : Clk) (m : Mod) (td : Nat) (q : RegReq) : Except Byte (Nat × Region) :=
  let r := region m td q.entry
  let mine := r.part == q.part
  match q.op with
  | .opn base size =>
    match openErr m td q.part base size (isLanding q.result) with
    | some e => .error e
    | none => .ok ((freeEntry m td).getD 0, { st := .filling, base := base / unit2M, size := size, part := q.part, owner := q.who })
  | .seal d => if mine && r.st == .filling && r.owner == q.who && d != 0 then
      .ok (q.entry, { r with st := .sealed, d := d, done := 0, sealTime := t.sid }) else .error 0x63
  | .abandon => if mine && r.st == .filling && (r.owner == q.who || isDriver q.who) then .ok (q.entry, {}) else .error 0x63
  | .done => if mine && (r.st == .sealed || r.st == .released) && decide (r.done < r.d) then .ok (q.entry, doneRegion r)
      else .error 0x63
  | .release => if mine && r.st == .sealed && (r.owner == q.who || isDriver q.who) then
      .ok (q.entry, if r.done = r.d then {} else { r with st := .released }) else .error 0x63
  | .reclaim => if isDriver q.who && (mine || r.st == .free) then .ok (q.entry, if r.st = .free then r else {}) else .error 0x63

/-- Writes the result of an OPEN into the counter of its task (R318). -/
def regionResult (m : Mod) (td entry : Nat) (q : RegReq) : Mod :=
  match q.who, q.result with
  | .task tk, some (_, ci) =>
    modCtx m (tk / 4) (tk % 4) fun x => setCounter x ci (BitVec.ofNat 32 (8192 * td + entry))
  | _, _ => m

/-- The command of a region operation ends: an OPEN first writes its result buffer (R500). -/
def regionCmd (t : Clk) (m : Mod) (td entry : Nat) (q : RegReq) : Mod :=
  match q.cmd with
  | none => m
  | some (sq, tag) =>
    match findCmd m sq tag, q.op with
    | some c, .opn _ _ =>
      let rq : Req := { who := .cmd (Fin.ofNat 1024 sq) (BitVec.ofNat 16 tag), part := c.part, phys := c.part.isNone, owner := none }
      match writeMem t m rq (fld c.entry 0x28 8) (toLe 8 (8192 * td + entry)) false .clean with
      | (m1, some e) => endCmd t sq tag 0 (faultCmd m1 sq tag logHN e.reason)
      | (m1, none) => endCmd t sq tag 0 m1
    | _, _ => endCmd t sq tag 0 m

/-- A refused region operation: its task faults, or its command is refused with the reason (R189,
R318, R500). -/
def regionRefused (t : Clk) (m : Mod) (td : Nat) (q : RegReq) (r : Byte) : Mod :=
  let m1 := dropSignals m q.id
  match q.cmd with
  | some (sq, tag) => refuseCmd t sq tag r m1
  | none => match q.who with
    | .task tk => faultTask t tk fTask r 0 (BitVec.ofNat 64 q.idx) false m1
    | .media d => logFault t (logMD d) { kind := 7, index := BitVec.ofNat 8 d, typ := fAccess, reason := r, part := some q.part } m1
    | .gather d => logFault t (logTD d) { kind := 8, index := BitVec.ofNat 8 d, typ := fAccess, reason := r, part := some q.part } m1
    | .driver _ => logFault t (logTD td) { kind := 8, index := BitVec.ofNat 8 td, typ := fAccess, reason := r, part := some q.part } m1

/-! ## TIER instructions -/

/-- CR names a region: tier die and entry. -/
def crFields (v : W32) : Nat × Nat := (bits v.toNat 13 2, bits v.toNat 0 13)

/-- TIER OPEN: the base is translated when the instruction issues; it must lie in the tier. -/
def tierOpenForm : Form where
  eff := fun t g c w _ m =>
    let task := taskId g c
    let part := (ctx m g c).part
    let va := (cntPair m g c (wf w 56 4)).toNat
    match xlate m part va true with
    | .error e => faultAccess t task e (logErr t { who := .task (Fin.ofNat 256 g) (Fin.ofNat 4 c), part := some part, phys := false, owner := none, task := some task } e m)
    | .ok x => match place x.phys with
      | .tier td off =>
        let (id, m1) := pushRegion m td (.opn off (cnt m g c (wf w 52 4)).toNat) (.task task) part 0 []
          (some (task, wf w 60 4)) (some w) none
        advance t g c (putSignal m1 task w 0 (some id))
      | _ => faultInsn t g c 0x64 va m

/-- SEAL waits for the owner's earlier writes, DONE for its earlier reads (R192, R193). -/
def tierOpForm (op : LviWord → RegOp) : Form where
  eff := fun t g c w _ m =>
    let task := taskId g c
    let (td, entry) := crFields (cnt m g c (wf w 60 4))
    let (id, m1) := pushRegion m td (op w) (.task task) (ctx m g c).part entry (depsOf m task) none (some w) none
    advance t g c (putSignal m1 task w 0 (some id))

def tierSealForm : Form := tierOpForm fun w => .seal (wf w 0 16)
def tierAbandonForm : Form := tierOpForm fun _ => .abandon
def tierDoneForm : Form := tierOpForm fun _ => .done
def tierReleaseForm : Form := tierOpForm fun _ => .release

def execTierOpen (e : Eng) (c : CtxId) (w : LviWord) (s : State) : Host.Outcome State Fault Refusal :=
  issueRow tierOpenForm 0x23 (some 0) e c w s
def execTierSeal (e : Eng) (c : CtxId) (w : LviWord) (s : State) : Host.Outcome State Fault Refusal :=
  issueRow tierSealForm 0x23 (some 1) e c w s
def execTierAbandon (e : Eng) (c : CtxId) (w : LviWord) (s : State) : Host.Outcome State Fault Refusal :=
  issueRow tierAbandonForm 0x23 (some 2) e c w s
def execTierDone (e : Eng) (c : CtxId) (w : LviWord) (s : State) : Host.Outcome State Fault Refusal :=
  issueRow tierDoneForm 0x23 (some 3) e c w s
def execTierRelease (e : Eng) (c : CtxId) (w : LviWord) (s : State) : Host.Outcome State Fault Refusal :=
  issueRow tierReleaseForm 0x23 (some 4) e c w s

end Sys2Proof.Machine
end

