-- ==== Sys2Proof/Machine/Queue.lean ====
section
/-! DEFINITION. Handle queues (R223 to R231), sync-file arrivals (R279, R282, R288, R652), the
move-class instructions MOVE, HQ.PUSH and HQ.POP, and CHAINs (R232 to R237). -/

namespace Sys2Proof.Machine

/-! ## Handle queues -/

def hqAt (m : Mod) (key : Nat) : HQueue := sget {} m.hqs key
def modHqAt (m : Mod) (key : Nat) (f : HQueue → HQueue) : Mod := { m with hqs := smod {} m.hqs key f }

def traceHandle (t : Clk) (key : Nat) (push skip : Bool) (g task : Nat) (m : Mod) : Mod :=
  trace t g task 0x08 (key % 512 + 512 * (key / 512) + (if push then 8192 else 0) + (if skip then 16384 else 0)) (some 5) m

/-- The pop counter rises for each handle removed (R224). -/
def popCount (t : Clk) (key n : Nat) (m : Mod) : Mod :=
  match (hqAt m key).popCtr with
  | none => m
  | some c => if n = 0 then m else applySignal t (key / 512) c n m

/-- The task of an owner. -/
def ownerTask : Owner → Option Nat
  | .task tk => some tk
  | _ => none

/-- The reads in flight that a DONE by an owner on an engine waits for: only DMA transfers read a tier, so those of
its task, or, for work of no task, those of the engine that belong to none (R193). -/
def readsOf (m : Mod) (g : Nat) (who : Owner) : List Nat :=
  ((engine m g).xfers.filter fun x => x.ended.isNone && x.task == ownerTask who).map (·.id)

/-- DONE for the region of a handle whose read is over (R230), once the earlier reads of its owner on the engine
have returned, the work `own` apart (R193). -/
def doneOf (m : Mod) (g : Nat) (h : Handle) (who : Owner) (part : Nat) (own : Option Nat) : Mod :=
  if h.doneOnUse then (pushRegion m h.td.toNat .done who part h.region.toNat
    ((readsOf m g who).filter fun i => some i != own) none none none).2 else m

/-- Handles removed from the front by an engine: all of `gone`, each with its DONE when it carries the flag. -/
def removeHandles (t : Clk) (g key : Nat) (gone : List Handle) (who : Owner) (part : Nat) (m : Mod) : Mod :=
  let m1 := popCount t key gone.length (modHqAt m key fun q => { q with items := q.items.drop gone.length })
  gone.foldl (fun m h => doneOf m g h who part none) m1

/-- The SKIP handles at the head of a queue. -/
def headSkips (q : HQueue) : List Handle := q.items.takeWhile fun h => h.skip && h.bad.isNone

/-- What ECC finds in the head of a queue as a pop reads it: an uncorrected word makes the handle bad (R578, R579). -/
def headEcc (key : Nat) (m : Mod) : Mod :=
  match (hqAt m key).items with
  | [] => m
  | h :: r => if h.bad.isSome then m else
    let (n, m1) := drawId m
    match Config.handleEcc n with
    | .uncorrectable s => modHqAt m1 key fun q => { q with items := { h with bad := some s } :: r }
    | .corrected => addCorr m1 (logCD (key / 512))
    | _ => m1

/-- A raw pop of the head: the handle and the queue after it. A bad handle stays, for its issuer to fault. -/
def popHead (t : Clk) (key : Nat) (m0 : Mod) : Option Handle × Mod :=
  let m := headEcc key m0
  match (hqAt m key).items with
  | [] => (none, m)
  | h :: r => (some h, if h.bad.isSome then m else popCount t key 1 (modHqAt m key fun q => { q with items := r }))

/-- An operation on a bad handle faults its issuer with ECC_UNCORR (R579). The manual gives the word of a handle no physical
address: ADDR 0 is a DESIGN CHOICE (log 61). -/
def badHandle (t : Clk) (g : Nat) (b : Issuer) (h : Handle) (m : Mod) : Mod := faultBy t g b fEccUncorr 0 0 (h.bad.getD 0) m

/-- Whether a context has missed at an HQ.POP of a queue (R132). -/
def missedPop (g key : Nat) (x : Ctx) : Bool :=
  x.st == .missed .emptyQueue && x.accepted.isNone && (x.stream[x.pc]?).any fun w =>
    wOp w == 0x22 && hqKey (g / 16) (wf w 32 9) == key

/-- A handle pushed to a queue makes every context that missed for it ready again, whoever takes the handle (R132,
R133). -/
def wakePops (key : Nat) (m : Mod) : Mod :=
  { m with eng := m.eng.map fun ge => (ge.1, { ge.2 with ctx := ge.2.ctx.map fun kx =>
      (kx.1, if missedPop ge.1 key kx.2 then { kx.2 with st := .ready } else kx.2) }) }

def pushHandle (key : Nat) (h : Handle) (m : Mod) : Mod :=
  wakePops key (modHqAt m key fun q => { q with items := q.items ++ [h] })

/-- A push on its way (R226). -/
def queuePush (m : Mod) (key src : Nat) (h : Handle) (deps : List Nat) (holds : Bool) (desc : Option Nat)
    (word : Option LviWord) (by_ : Issuer) : Nat × Mod :=
  let (id, m') := fresh m
  let o : HqOp := { id := id, src := src, queue := key, push := some h, deps := deps, holds := holds, desc := desc, word := word, idx := srcPc m src, by_ := by_ }
  (id, { m' with hqQ := smod [] m'.hqQ (key / 512) fun q => q ++ [o] })

/-- A pop of a POP_SRC descriptor on its way. -/
def queuePop (m : Mod) (key src desc : Nat) (by_ : Issuer) : Mod :=
  let (id, m') := fresh m
  let o : HqOp := { id := id, src := src, queue := key, push := none, deps := [], holds := true, desc := some desc, word := none, by_ := by_ }
  { m' with hqQ := smod [] m'.hqQ (key / 512) fun q => q ++ [o] }

/-! ## The stages of a task (R233 to R236)

A TASK stage pops its own buffers: its task finds the queues by their allocation order and pops them with HQ.POP
(the CHAIN example of chapter 10). The handle it pops from the FULL queue before the stage is the stage's input,
the one from the FREE queue after it the stage's output. The stage pushes them on, and no instruction of the task
does (R233), when the work on the buffer is over: the manual names no mark for that, and the model takes the
task's next HQ.POP of the same queue, or its end (DEDUCED, log 37). -/

/-- No queue: the FREE side of a boundary whose producer is a MEDIA stage (R232). -/
def noQueue : Nat := 65536

def chainRt (m : Mod) (k n : Nat) : Option ChainRt := (partSt m k).chains.find? fun r => r.rec_ == n
def modStage (m : Mod) (k n i : Nat) (f : StageSt → StageSt) : Mod :=
  modChain m k n fun r => { r with stages := r.stages.mapIdx fun j s => if j = i then f s else s }

/-- The queue a stage takes its input from, and the one it takes its output from. -/
def inQueue (c : ChainRec) (i : Nat) : Nat := if i = 0 then noQueue else c.full[i - 1]?.getD noQueue
def outQueue (c : ChainRec) (i : Nat) : Nat := if i + 1 ≥ c.stages.length then noQueue else c.free[i]?.getD noQueue

/-- The FREE queue that a stage's input handle goes back to. -/
def backQueue (c : ChainRec) (i : Nat) : Nat := if i = 0 then noQueue else c.free[i - 1]?.getD noQueue

/-- A queue as the side of a running TASK stage of a task: CHAIN, stage, and whether it is the input side. -/
def taskSide (m : Mod) (k task key : Nat) : Option (Nat × Nat × Bool) :=
  if key = noQueue then none else
  (partSt m k).chains.findSome? fun r => match chainRec m k r.rec_ with
    | none => none
    | some c => c.stages.zipIdx.findSome? fun x =>
        if ¬ isTaskStage m k task x.1 then none
        else if inQueue c x.2 = key then some (r.rec_, x.2, true)
        else if outQueue c x.2 = key then some (r.rec_, x.2, false)
        else none

/-- The state of a stage, and whether its CHAIN or the stage has stopped. -/
def stageAt (m : Mod) (k n i : Nat) : Option (StageSt × Bool) :=
  match chainRt m k n with
  | none => none
  | some r => (r.stages[i]?).map fun st => (st, r.stopped || st.stopped)

/-- Whether a pop of a task must wait for its stage: the handle popped before is still the stage's, or the stage
takes no more buffers (R233, R236, R237). -/
def sideHeld (m : Mod) (k task key : Nat) : Bool :=
  match taskSide m k task key with
  | none => false
  | some (n, i, inp) => match stageAt m k n i with
    | none => false
    | some (st, off) => off || (if inp then st.inp.isSome || st.fin else st.out.isSome)

/-- A handle that a task has popped from a queue of its stage is the stage's. -/
def takeSide (m : Mod) (k task key : Nat) (h : Handle) : Mod :=
  match taskSide m k task key with
  | none => m
  | some (n, i, true) => modStage m k n i fun st => { st with inp := some h, busy := true, fin := st.fin || h.fin }
  | some (n, i, false) => modStage m k n i fun st => { st with out := some h, busy := true }

/-- SKIP handles discarded from the input queue of a TASK stage: their buffers go back to the FREE queue at
once, and an END among them ends the stage's input (R235, R236). -/
def returnSkips (m : Mod) (k task key : Nat) (gone : List Handle) : Mod :=
  match taskSide m k task key with
  | some (n, i, true) =>
    let back := ((chainRec m k n).map fun c => backQueue c i).getD noQueue
    let m1 := if back = noQueue then m else
      gone.foldl (fun m h => pushHandle back { addr := h.addr, len := h.len } m) m
    if gone.any (·.fin) then modStage m1 k n i fun st => { st with busy := true, fin := true } else m1
  | _ => m

/-! ## The instructions -/

def hqQueue (m : Mod) (d : Nat) : List HqOp := sget [] m.hqQ d
def dropHqOp (m : Mod) (d id : Nat) : Mod := { m with hqQ := smod [] m.hqQ d fun q => q.filter fun o => o.id != id }

def popKey (g : Nat) (w : LviWord) : Nat := hqKey (g / 16) (wf w 32 9)

/-- The counters and comparators a pop writes (R227). -/
def popWrite (g c : Nat) (w : LviWord) (h : Handle) (m : Mod) : Mod :=
  let d := 4 * wf w 62 2
  let p := 2 * wf w 60 2
  modCtx m g c fun x =>
    let x1 := setCounter (setCounter x d (BitVec.ofNat 32 h.addr.toNat)) (d + 1) (BitVec.ofNat 32 (h.addr.toNat / 2 ^ 32))
    let x2 := setCounter (setCounter x1 (d + 2) h.len) (d + 3) (handleTail h)
    { x2 with pred := setPred (setPred x2.pred p h.fin) (p + 1) h.skip }

/-- SKIP handles discarded at the head by an HQ.POP with SKIPSUB, counted for the context. -/
def discardSkips (t : Clk) (g c key : Nat) (m : Mod) : Mod :=
  let gone := headSkips (hqAt m key)
  let k := (ctx m g c).part
  let m1 := returnSkips (removeHandles t g key gone (.task (taskId g c)) k m) k (taskId g c) key gone
  let m2 := modCtx m1 g c fun x => { x with skip := satAdd 0xFFFF x.skip gone.length }
  gone.foldl (fun m _ => traceHandle t key false true g (taskId g c) m) m2

def popQueueEmpty (m : Mod) (g : Nat) (w : LviWord) : Bool :=
  let q := hqAt m (popKey g w)
  q.items.isEmpty || (wExt w == 1 && q.items.all (·.skip))

/-- "Empty handle queue" for an HQ.POP: nothing to return, or, on a queue of the task's CHAIN stage, the buffer
popped before has not been passed on (R132, R227, R234). -/
def popMisses (m : Mod) (g c : Nat) (w : LviWord) : Bool :=
  popQueueEmpty m g w || sideHeld m (ctx m g c).part (taskId g c) (popKey g w)

/-- The pop of an HQ.POP goes to the sync-file port of its die, in the issue order of its context; the context waits for
what it finds there (R228, R652). -/
def sendPop (g c : Nat) (w : LviWord) (m : Mod) : Mod :=
  let (id, m1) := fresh m
  let o : HqOp := { id := id, src := taskId g c, queue := popKey g w, push := none, deps := [], holds := false, desc := none
                    word := some w, idx := (ctx m g c).pc, by_ := .task (taskId g c) }
  modCtx { m1 with hqQ := smod [] m1.hqQ (g / 16) fun q => q ++ [o] } g c fun x =>
    { x with st := .ready, waitSince := none, leaveReq := none, accepted := none, pop := some (id, x.accepted.isSome)
             launched := x.launched || x.accepted.isSome }

def hqPopForm : Form where
  ended := fun _ m g c w _ => !popMisses m g c w
  atPort := true
  eff := fun _ g c w _ m => sendPop g c w m

/-- The pop of an HQ.POP at its queue: under SKIPSUB it discards the SKIP handles at the head; it takes the handle then
at the head, and its instruction issues; at an empty queue the instruction misses (R132, R227). -/
def taskPop (t : Clk) (d : Nat) (o : HqOp) (w : LviWord) (m : Mod) : Mod :=
  let g := o.src / 4
  let c := o.src % 4
  let m0 := dropHqOp m d o.id
  match (ctx m g c).pop with
  | none => m0
  | some (id, transit) =>
    if id ≠ o.id then m0 else
    let key := popKey g w
    let m1 := modCtx m0 g c fun x => { x with pop := none }
    if sideHeld m1 (ctx m1 g c).part (taskId g c) key then missCtx t g c .emptyQueue m1 else
    match popHead t key (if wExt w = 1 then discardSkips t g c key m1 else m1) with
    | (none, m2) => missCtx t g c .emptyQueue m2
    | (some h, m2) =>
      if h.bad.isSome then badHandle t g o.by_ h m2 else
      let m3 := modEngine m2 g fun e => { e with last := if transit then e.last else some c }
      done t g c w (popWrite g c w h (traceHandle t key false h.skip g (taskId g c)
        (takeSide (traceIssue t g (taskId g c) (ctx m3 g c).pc (wOp w) m3) (ctx m3 g c).part (taskId g c) key h)))

/-- The handle that HQ.PUSH takes from its counters (R317). -/
def pushOperand (m : Mod) (g c : Nat) (w : LviWord) : Handle :=
  let d := 4 * wf w 62 2
  readHandle (cnt m g c d) (cnt m g c (d + 1)) (cnt m g c (d + 2)) (cnt m g c (d + 3))

def relDie (m : Mod) (part rel : Nat) : Option Nat := (partDies m part)[rel]?

/-- HQ.PUSH: outside the partition's queues it faults with 0x6B and the handle's address (R225). -/
def hqPushForm : Form where
  eff := fun t g c w _ m =>
    let task := taskId g c
    let h := pushOperand m g c w
    match relDie m (ctx m g c).part (wf w 52 4) with
    | none => faultInsn t g c 0x6B h.addr.toNat m
    | some die =>
      let (id, m1) := queuePush m (hqKey die (wf w 32 9)) task h (depsOf m task) false none (some w) (.task task)
      advance t g c (putSignal m1 task w 0 (some id))

/-- The bytes of a descriptor of a program's section. -/
def sectionDesc (m : Mod) (k sec i : Nat) : List Byte :=
  match (partSt m k).prog with
  | some p => slice (sget [] p.descs sec) (64 * i) 64
  | none => []

/-- The leave a MOVE reserves as a Transit: a DMA burst where its first transfer is a COPY of more than 256 KiB
(R217, R254). -/
def moveLeave (m : Mod) (g c : Nat) (w : LviWord) : Nat :=
  let d := readDesc (sectionDesc m (ctx m g c).part (wf w 48 16) (wf w 32 16))
  if d.op = 1 ∧ d.len > 0x40000 then 1 else 0

/-- MOVE: a run of descriptors in queue DQ; a 257th unfinished run faults (R316, R317). -/
def moveForm : Form where
  leave := fun m g c w => if wT w then moveLeave m g c w else 0
  eff := fun t g c w grant m =>
    let task := taskId g c
    let q := wf w 13 3
    if (dmaq (engine m g) q).runs.length ≥ 256 then
      faultInsn t g c 0x68 0 (if grant = 0 then m else returnLeave m (g / 16) grant) else
    let (id, m1) := fresh m
    let off := fun (i : Nat) => if i < 16 then cnt m g c i else 0
    let r : Run := { id := id, task := some task, cmd := none, section_ := some (wf w 48 16), base := 0, next := wf w 32 16,
                     left := wf w 16 16, soff := off (wf w 5 5), doff := off (wf w 0 5), hint := wf w 11 2,
                     prefetch := wb w 10, word := some w, stage := none, grant := grant, idx := (ctx m g c).pc }
    let m2 := modDmaq m1 g q fun x => { x with runs := x.runs ++ [r] }
    advance t g c (putSignal m2 task w (wf w 16 16) (some id))

/-! ## CHAINs -/

def chainRunning (m : Mod) (k n : Nat) : Bool := (partSt m k).chains.any fun r => r.rec_ == n

/-- The handles that fill the FREE queue of a stage's pool (R233). -/
def poolHandles (k n stage : Nat) (s : StageRec) : List Handle :=
  (List.range s.pool).map fun b => { addr := Config.poolVa k n stage b, len := BitVec.ofNat 32 s.bytes }

/-- A CHAIN starts: every FREE queue holds a handle for each buffer, every stage is idle (R233). What an earlier
run of the CHAIN left in its queues is dropped, but for drawn samples in a MEDIA stage's FULL queue: a FREE queue
never holds more than its pool (R234; DESIGN CHOICE, log 37). -/
def startChain (m : Mod) (k n : Nat) (cmd : Option (Nat × Nat)) : Mod :=
  match chainRec m k n with
  | none => m
  | some r =>
    let m1 := (r.stages.zipIdx.zip (r.full.zip r.free)).foldl (fun m x =>
      if x.2.2 = noQueue then m
      else modHqAt (modHqAt m x.2.1 fun q => { q with items := [] }) x.2.2 fun q =>
        { q with items := poolHandles k n x.1.2 x.1.1 }) m
    let idle : StageSt := { inp := none, out := none, busy := false, fin := false, stopped := false }
    modPart m1 k fun p => { p with chains := p.chains ++ [{ rec_ := n, stages := r.stages.map fun _ => idle, cmd := cmd, stopped := false, flog := none }] }

/-- The engines a CHAIN involves, for RESET_ON_START (R592). -/
def chainEngines (m : Mod) (k n : Nat) : List Nat :=
  match chainRec m k n, (partSt m k).prog with
  | some r, some p => r.stages.filterMap fun s =>
      if s.kind = 0 then some s.place
      else if s.kind = 1 then (p.taskIds[s.place]?).map (· / 4) else none
  | _, _ => []

/-- CHAIN.START: a CHAIN that runs already is refused with 0x8C. -/
def chainStartForm : Form where
  eff := fun t g c w _ m =>
    let k := (ctx m g c).part
    let n := wf w 0 16
    if (chainRec m k n).isNone ∨ chainRunning m k n then faultInsn t g c 0x8C 0 m
    else done t g c w (startChain m k n none)

/-- The chain's end: completion signal when the last stage took END, FAULT when it stopped
(R236, R237). -/
def endChain (t : Clk) (k n : Nat) (r : ChainRt) (c : ChainRec) (m : Mod) : Mod :=
  let m1 := modPart m k fun p => { p with chains := p.chains.filter fun x => x.rec_ != n }
  if r.stopped then
    match r.cmd, r.flog with
    | some (sq, tag), some (fl, reason, _) => endCmd t sq tag 0 (modCmd m1 sq tag fun x => { x with fault := x.fault <|> some (fl, reason) })
    | some (sq, tag), none => endCmd t sq tag 0 m1
    | none, _ => m1
  else
    let last := c.full.getLast?.getD 0 / 512
    let m2 := applySignal t last c.completion 1 m1
    match r.cmd with
    | some (sq, tag) => endCmd t sq tag 0 m2
    | none => m2

/-- Whether a queue key is a real queue with a handle or with room. -/
def hasHandle (m : Mod) (key : Nat) : Bool := key == noQueue || !(hqAt m key).items.isEmpty

/-- The descriptor a DMA stage issues for a buffer: its template with SRC and DST (R319). -/
def stageDesc (tmpl : List Byte) (src dst : Nat) : List Byte :=
  patch (patch tmpl 8 (toLe 8 src)) 0x10 (toLe 8 dst)

/-- A DMA stage takes its buffers (steps 1 and 2 of R233) and puts its template into DQR. A TASK stage's own task
takes them. -/
def stageTake (t : Clk) (k n i : Nat) (c : ChainRec) (s : StageRec) (m : Mod) : Mod :=
  let inKey := inQueue c i
  let outKey := outQueue c i
  if s.kind ≠ 0 ∨ ¬ hasHandle m inKey ∨ ¬ hasHandle m outKey then m else
  let (inp, m1) := if inKey = noQueue then (none, m) else popHead t inKey m
  let (out, m2) := if outKey = noQueue then (none, m1) else popHead t outKey m1
  match (inp.toList ++ out.toList).find? fun h => h.bad.isSome with
  | some h => badHandle t s.place (.stage k (8 * n + i)) h m2
  | none =>
  let m3 := modStage m2 k n i fun st => { st with inp := inp, out := out, busy := true, fin := (match inp with | some h => h.fin | none => false) }
  match (partSt m k).prog with
  | none => m3
  | some p =>
    let tmpl := slice (sget [] p.descs (s.tmpl / 65536)) (64 * (s.tmpl % 65536)) 64
    let src := match inp with | some h => h.addr.toNat | none => 0
    let dst := match out with | some h => h.addr.toNat | none => 0
    let (rid, m4) := fresh m3
    let (did, m5) := fresh m4
    let r : Run := { id := rid, task := none, cmd := none, section_ := none, base := 0, next := 0, left := 0, soff := 0,
                     doff := 0, hint := 0, prefetch := false, word := none, stage := some (k, 8 * n + i) }
    let d : Desc := { id := did, run := rid, bytes := stageDesc tmpl src dst, at_ := t.now, popped := inp, popSent := true, forced := false }
    modDmaq m5 s.place 8 fun x => { x with runs := x.runs ++ [r], fetched := x.fetched ++ [d] }

/-- The works a stage's push waits for (R226). -/
def stageDeps (m : Mod) (k n i : Nat) (s : StageRec) : List Nat :=
  if s.kind = 0 then
    (dmaq (engine m s.place) 8).runs.filterMap fun r => if r.stage = some (k, 8 * n + i) then some r.id else none
  else match (partSt m k).prog with
    | some p => match p.taskIds[s.place]? with
      | some tk => depsOf m tk
      | none => []
    | none => []

/-- The task of a TASK stage. -/
def stageTask (m : Mod) (k : Nat) (s : StageRec) : Option Nat :=
  match (partSt m k).prog with
  | some p => if s.kind = 1 then p.taskIds[s.place]? else none
  | none => none

/-- A task has left its stage: it has ended, or faulted. -/
def taskOver (m : Mod) (tk : Nat) : Bool :=
  match (ctx m (tk / 4) (tk % 4)).st with
  | .ended | .finished | .faulted | .empty => true
  | _ => false

/-- Whether a task waits at an HQ.POP of a queue of stage i of a CHAIN for its buffers to be passed on. -/
def popsNext (m : Mod) (k n i tk : Nat) : Bool :=
  let g := tk / 4
  let x := ctx m g (tk % 4)
  match x.st, x.accepted, x.stream[x.pc]? with
  | .missed .emptyQueue, none, some w =>
    wOp w == 0x22 && (match taskSide m k tk (popKey g w) with
      | some (n', i', _) => n' == n && i' == i && sideHeld m k tk (popKey g w)
      | none => false)
  | _, _, _ => false

/-- Whether the work of a stage on the buffers it holds is over: its template's run and every write of its task
are done, and its task asks for the next buffer or has ended (R226, R233). -/
def stageDone (m : Mod) (k n i : Nat) (s : StageRec) : Bool :=
  depsDone m (stageDeps m k n i s) && (match stageTask m k s with
    | some tk => taskOver m tk || popsNext m k n i tk
    | none => true)

/-- A first TASK stage has no input: its producer's END is the end of its task (R236; DEDUCED, log 37). -/
def stageEnd (m : Mod) (k i : Nat) (s : StageRec) (st : StageSt) : Bool :=
  st.fin || (i == 0 && (match stageTask m k s with | some tk => taskOver m tk | none => false))

/-- A stage gives its buffers on (steps 4 and 5 of R233), END with the last output (R236). -/
def stageGive (t : Clk) (k n i : Nat) (r : ChainRt) (c : ChainRec) (st : StageSt) (m : Mod) : Mod :=
  let last := i + 1 ≥ c.stages.length
  let m1 := match st.out with
    | some h => if r.stopped then m else
        pushHandle (c.full[i]?.getD noQueue) { h with fin := st.fin } m
    | none => m
  let back := backQueue c i
  let m2 := match st.inp with
    | some h => if back = noQueue ∨ r.stopped then m1 else pushHandle back { addr := h.addr, len := h.len } m1
    | none => m1
  let m3 := modStage m2 k n i fun x => { x with inp := none, out := none, busy := false, stopped := r.stopped || st.fin }
  match chainRt m3 k n with
  | none => m3
  | some r' =>
    if (last && st.fin && !r.stopped) || (r'.stopped && r'.stages.all fun x => !x.busy) then endChain t k n r' c m3 else m3

/-- One step of a CHAIN stage: it takes its buffers, or gives them on once its work is done. -/
def chainStep (k n i : Nat) (t : Clk) (m : Mod) : Mod :=
  match chainRt m k n, chainRec m k n with
  | some r, some c =>
    match c.stages[i]?, r.stages[i]? with
    | some s, some st =>
      if s.kind = 2 then m
      else if st.busy then
        if stageDone m k n i s then stageGive t k n i r c { st with fin := stageEnd m k i s st } m else m
      else if r.stopped then
        (if r.stages.all fun x => !x.busy then endChain t k n r c m else m)
      else if st.stopped then m
      else stageTake t k n i c s m
    | _, _ => m
  | _, _ => m

/-! ## Arrivals -/

/-- The task that a HANDLE record names: that of the instruction, or of the MOVE of the descriptor (R588). -/
def issuerTask : Issuer → Nat
  | .task tk => tk
  | _ => 0

/-- A descriptor that popped its handle; SKIP handles at the head are discarded and counted for
the queue (R218, R227). -/
def descPop (t : Clk) (d : Nat) (o : HqOp) (m : Mod) : Mod :=
  let g := (o.src - 1024) / 9
  let q := (o.src - 1024) % 9
  let part := (dieOwner m (g / 16)).getD 0
  let gone := headSkips (hqAt m o.queue)
  let who : Owner := match ((dmaq (engine m g) q).fetched.find? fun x => some x.id == o.desc) with
    | some x => match (dmaq (engine m g) q).runs.find? fun r => r.id == x.run with
      | some r => match r.task with
        | some tk => .task tk
        | none => .driver part
      | none => .driver part
    | none => .driver part
  let m1 := removeHandles t g o.queue gone who part m
  let m2 := modDmaq m1 g q fun x => { x with skip := satAdd 0xFFFF x.skip gone.length }
  match popHead t o.queue m2 with
  | (none, m3) => m3
  | (some h, m3) =>
    if h.bad.isSome then badHandle t g o.by_ h (dropHqOp m3 d o.id) else
    let m4 := modDmaq m3 g q fun x => { x with fetched := x.fetched.map fun y => if some y.id = o.desc then { y with popped := some h } else y }
    traceHandle t o.queue false h.skip g (issuerTask o.by_) (dropHqOp m4 d o.id)

/-- The push of an HQ.PUSH or a PUSH_DST descriptor (R225, R229): a full queue faults the task of
an HQ.PUSH and holds any other. -/
def applyPush (t : Clk) (d : Nat) (o : HqOp) (h : Handle) (m : Mod) : Mod :=
  let q := hqAt m o.queue
  let part := if o.src < 1024 then (ctx m (o.src / 4) (o.src % 4)).part else (dieOwner m (srcEngine o.src / 16)).getD 8
  let m1 := dropHqOp m d o.id
  if ¬ q.alloc ∨ q.part ≠ part then
    faultBy t (srcEngine o.src) o.by_ (if o.src < 1024 then fTask else fAccess) 0x6B (h.addr.zeroExtend 64)
      (BitVec.ofNat 64 o.idx) (dropSignals m1 o.id)
  else if hqFull q then
    if o.holds then m else faultTask t o.src fTask 0x86 0 (BitVec.ofNat 64 o.idx) false (dropSignals m1 o.id)
  else traceHandle t o.queue true h.skip (srcEngine o.src % 256) (issuerTask o.by_) (pushHandle o.queue h m1)

/-- Whether an operation of a task context has no earlier one of the same context on its way to the port (R652). -/
def hqInOrder (m : Mod) (d : Nat) (o : HqOp) : Bool :=
  (srcTask o.src).isNone || (!((hqQueue m d).any fun x => srcTask x.src == srcTask o.src && decide (x.id < o.id))
    && !((syncQueue m d).any fun x => srcTask x.src == srcTask o.src && decide (x.id < o.id)))

/-- The first queued operation of each source whose condition holds. -/
def firstHq (m : Mod) (d src : Nat) : Option HqOp :=
  (hqQueue m d).find? fun o => o.src == src && depsDone m o.deps && hqInOrder m d o

def applyPops (t : Clk) (d : Nat) (os : List HqOp) (m : Mod) : Mod :=
  os.foldl (fun m o => match o.push, o.desc, o.word with
    | none, none, some w => taskPop t d o w m
    | none, _, _ => descPop t d o m
    | some _, _, _ => m) m

def applyPushes (t : Clk) (d : Nat) (os : List HqOp) (m : Mod) : Mod :=
  os.foldl (fun m o => match o.push with | some h => applyPush t d o h m | none => m) m

/-- Operations ordered by their engine (R228). -/
def insertByEngine (o : HqOp) : List HqOp → List HqOp
  | [] => [o]
  | x :: r => if srcEngine o.src < srcEngine x.src then o :: x :: r else x :: insertByEngine o r

/-- The arrivals of one fabric cycle on one queue: pops in ascending engine order; a push and a pop
together pop first when the queue is full, else push first (R228). -/
def applyQueue (t : Clk) (d : Nat) (os : List HqOp) (key : Nat) (m : Mod) : Mod :=
  let mine := (os.filter fun o => o.queue == key).foldr insertByEngine []
  if hqFull (hqAt m key) then applyPushes t d mine (applyPops t d mine m)
  else applyPops t d mine (applyPushes t d mine m)

def hqArrive (d : Nat) (srcs : List Nat) (t : Clk) (m : Mod) : Mod :=
  let os := srcs.dedup.filterMap (firstHq m d)
  ((os.map (·.queue)).dedup).foldl (fun m key => applyQueue t d os key m) m

/-- A signal that a sync file refuses (R288). -/
def syncRefused (t : Clk) (d obj srcModule : Nat) (part : Option Nat) (m : Mod) : Mod :=
  logFault t (logCD d) { kind := 2, index := BitVec.ofNat 8 d, typ := fSyncRefused, part := part, addr := BitVec.ofNat 64 (podAddr m d obj), info := BitVec.ofNat 64 srcModule } m

/-- Whether a remote signal suits its object: allocated, a flag only with count 1, of the session's
partition (R288). -/
def remoteOk (o : SyncObj) (part count : Nat) : Bool := o.alloc && o.part == part && (o.counter || count == 1)

/-- One operation at its object; an object of a die without power, or held bad, faults the issuer (R279, R280, R516,
R579). -/
def applySync (t : Clk) (d : Nat) (o : SyncOp) (m : Mod) : Mod :=
  let obj := syncObj m d o.obj
  if ¬ placePowered m (.sync d (16 * o.obj)) then
    faultBy t (srcEngine o.src) o.by_ fAccess 0x37 (BitVec.ofNat 64 (syncCell d o.obj)) 0 m
  else match obj.bad, srcTask o.src with
  | some s, some tk => faultTask t tk fEccUncorr 0 (BitVec.ofNat 64 (syncCell d o.obj)) s false m
  | some _, none => m
  | none, _ => match o.kind with
    | .arm target reset => modSync m d o.obj fun x => armObj x target reset
    | .clear => modSync m d o.obj fun x => { x with value := 0 }
    | .sig n =>
      let part := match srcTask o.src with
        | some tk => (ctx m (tk / 4) (tk % 4)).part
        | none => obj.part
      if 8192 ≤ o.src ∧ ¬ remoteOk obj part n.toNat then syncRefused t d o.obj (moduleNum m) (some part) m
      else
        let m1 := applySignal t d o.obj n.toNat m
        match srcTask o.src with
        | some tk => trace t (tk / 4) tk 0x09 (o.obj + 16384) (some 6) m1
        | none => m1

def isSig (o : SyncOp) : Bool :=
  match o.kind with
  | .sig _ => true
  | _ => false

/-- The arrivals of one fabric cycle: ARM and CLEAR first, then signals (R282). -/
def syncArrive (d : Nat) (srcs : List Nat) (t : Clk) (m : Mod) : Mod :=
  let os := srcs.dedup.filterMap fun src => firstReady m d (syncQueue m d) src
  let m1 := setSyncQueue m d ((syncQueue m d).filter fun o => !os.any fun x => x.id == o.id)
  (os.filter isSig).foldl (fun m o => applySync t d o m)
    ((os.filter fun o => !isSig o).foldl (fun m o => applySync t d o m) m1)

/-! ## The rows -/

def execMove (e : Eng) (c : CtxId) (w : LviWord) (s : State) : Host.Outcome State Fault Refusal :=
  issueRow moveForm 0x20 none e c w s
def execHqPush (e : Eng) (c : CtxId) (w : LviWord) (s : State) : Host.Outcome State Fault Refusal :=
  issueRow hqPushForm 0x21 none e c w s
def execHqPop (e : Eng) (c : CtxId) (w : LviWord) (s : State) : Host.Outcome State Fault Refusal :=
  issueRow hqPopForm 0x22 none e c w s
def execChainStartInsn (e : Eng) (c : CtxId) (w : LviWord) (s : State) : Host.Outcome State Fault Refusal :=
  issueRow chainStartForm 0x24 none e c w s
def execChainStageStep (p : Part) (chain stage : Nat) (s : State) : Host.Outcome State Fault Refusal :=
  onEng (chainStep p.val chain stage) s
def execHqOpArrival (d : Die) (srcs : List Nat) (s : State) : Host.Outcome State Fault Refusal :=
  onEng (hqArrive d.val srcs) s
def execSyncOpArrival (d : Die) (srcs : List Nat) (s : State) : Host.Outcome State Fault Refusal :=
  onEng (syncArrive d.val srcs) s

end Sys2Proof.Machine
end

