-- ==== Sys2Proof/Machine/Gang.lean ====
section
/-! DEFINITION. Gangs (R79 to R83), tile runs (R310 to R313), what a feeder reads and pins (R84,
R85, R104, R135, R325), and the destinations of drains (R96, R320 to R323). -/

namespace Sys2Proof.Machine

/-! ## Gangs -/

def members (g : Gang) : List Nat := shapeMembers g.shape g.base
/-- The gang that holds an Asterism. -/
def gangAt (e : Engine) (a : Nat) : Option Gang := e.gangs.find? fun g => (members g).contains a
/-- The gang based at an Asterism. -/
def gangOf (e : Engine) (base : Nat) : Option Gang := e.gangs.find? fun g => g.base == base
def modGang (m : Mod) (g base : Nat) (f : Gang → Gang) : Mod :=
  modEngine m g fun e => { e with gangs := e.gangs.map fun x => if x.base = base then f x else x }
def slotInfo (g : Gang) (s : Nat) : SlotInfo := sget {} g.slots s
def modSlot (s : Nat) (f : SlotInfo → SlotInfo) (g : Gang) : Gang := { g with slots := smod {} g.slots s f }
def modPass (id : Nat) (f : Pass → Pass) (g : Gang) : Gang :=
  { g with passes := g.passes.map fun p => if p.id = id then f p else p }

/-- No step in flight and no slot with an undrained result (R82). -/
def gangQuiet (g : Gang) : Bool := g.passes.isEmpty && g.drains.isEmpty && !(g.slots.any fun s => s.2.full)

def sameGang (g : Gang) (sh : Shape) (base : Nat) : Bool := g.shape == sh && g.base == base

def overlapMembers (a b : List Nat) : Bool := a.any fun x => b.contains x

/-- The current gangs that a new gang would replace. -/
def displaced (e : Engine) (sh : Shape) (base : Nat) : List Gang :=
  e.gangs.filter fun g => overlapMembers (members g) (shapeMembers sh base)

/-- Whether a gang of the shape can form now (R82). -/
def canForm (e : Engine) (sh : Shape) (base : Nat) : Bool := (displaced e sh base).all gangQuiet

def newGang (sh : Shape) (base : Nat) (ps : List Pass) : Gang where
  base := base
  shape := sh
  passes := ps
  drains := []
  slots := []
  lastM := none
  nextSlot := 0

/-- The M of every slot of a gang that ends, by its members. -/
def keepMags (t : Sparse Int) (g : Gang) : Sparse Int :=
  g.slots.foldl (fun t s => (members g).foldl (fun t a => sset 0 t (8 * s.1 + a) s.2.m) t) t

/-- A new gang takes its members from the gangs it replaces. -/
def formGang (sh : Shape) (base : Nat) (e : Engine) : Engine :=
  { e with
    gangs := (e.gangs.filter fun g => !overlapMembers (members g) (shapeMembers sh base)) ++ [newGang sh base []]
    mags := (displaced e sh base).foldl keepMags e.mags }

/-- M of the pass that filled a slot of an Asterism (R48); 0 where no pass has filled it (DESIGN CHOICE, log 1: the manual
gives the register no value at reset). -/
def slotMag (e : Engine) (a s : Nat) : Int :=
  match e.gangs.find? fun g => (members g).contains a && g.slots.any fun x => x.1 == s with
  | some g => (slotInfo g s).m
  | none => sget 0 e.mags (8 * s + a)

/-- Steps of a part: a compatibility chunk of 32 terms takes one step per vector (R105). -/
def totalSteps (p : Pass) : Nat := if p.shape = .dot then p.k / 32 * p.t else p.k

/-- The parts of a split reduction (R58). -/
def partCount (k : Nat) : Nat := ceilDiv k 8192

/-- A pass enters its gang's order and takes the slot that the pass before it did not use (R83). -/
def enterPass (p : Pass) (n : Nat) (g : Gang) : Gang :=
  { g with passes := g.passes ++ [{ p with slot := g.nextSlot }], nextSlot := (g.nextSlot + n) % 2 }

/-! ## Tile runs -/

/-- A tile of a run: its offset, its header, its first step and its steps. -/
structure RunTile where
  off : Nat
  h : Hdr
  first : Nat
  n : Nat
  deriving DecidableEq, Repr

/-- A header as it stands or, for a TILE transfer on its way there, as it will be written. -/
def hdrAt (m : Mod) (g off : Nat) : Hdr :=
  match (engine m g).xfers.find? fun x => x.ended.isNone && x.tile && x.pad.any fun p => p.1 == 0 && p.2.1 == off with
  | some x => readHdr x.hdr
  | none => readHdr (padRead m g off 64)

/-- Whether a tile suits its place in a run: the lanes of the operand, or 32 rows of vectors for
the activations of a compatibility pass (R310, R325). -/
def runTileOk (dot act : Bool) (lanes : Nat) (h : Hdr) : Bool :=
  !h.skip && (if dot && act then h.rows32 == 1 && !h.order
    else innerN h == lanes && !(dot && h.order))

def runTileSteps (dot act : Bool) (h : Hdr) : Nat := if dot && act then 32 * h.cols32 else outerN h

/-- The tiles that hold the first `need` steps of a run (R310), all of the FORMAT and ORDER of its first tile, `like`.
`strict`: stops with none at a header that has not landed (R313), and with the reason that ended the transfer at one above
the pointer of a faulted transfer (R209). Otherwise the reason and the address of the break. -/
def walkRun (m : Mod) (g : Nat) (dot act : Bool) (lanes need : Nat) (strict : Bool) :
    Nat → Nat → Nat → Option (Nat × Bool) → Except (Option (Byte × Nat)) (List RunTile)
  | 0, _, _, _ => .ok []
  | fuel + 1, off, first, like =>
    if need ≤ first then .ok []
    else if off + 64 > padBytes then .error (some (0x67, off))
    else if strict ∧ notLanded m g off 64 then .error none
    else if strict ∧ (deadRange m g off 64).isSome then .error (deadRange m g off 64)
    else
      let h := hdrAt m g off
      if ¬ hdrOk h (some (off / 256)) then .error (some (0x60, off))
      else if !runTileOk dot act lanes h || !(like.all fun x => h.fmt == x.1 && h.order == x.2) then
        .error (some (0x61, off))
      else if off + tileEnd h > padBytes then .error (some (0x67, off))
      else
        let n := runTileSteps dot act h
        match walkRun m g dot act lanes need strict fuel (roundUp (off + tileEnd h) 256) (first + n) (like <|> some (h.fmt, h.order)) with
        | .error e => .error e
        | .ok r => .ok ({ off := off, h := h, first := first, n := n } :: r)

/-- Lanes of the A and of the B operand. -/
def lanesA (p : Pass) : Nat := 32 * (shapeDims p.shape).1
def lanesB (p : Pass) : Nat := 32 * (shapeDims p.shape).2

/-- Both runs of a pass over the first `n` run steps of its part. -/
def runA (m : Mod) (g : Nat) (p : Pass) (n : Nat) (strict : Bool) : Except (Option (Byte × Nat)) (List RunTile) :=
  walkRun m g (p.shape == .dot) true (lanesA p) (p.aSkip + n) strict (n / 32 + 2) p.aOff 0 p.likeA
def runB (m : Mod) (g : Nat) (p : Pass) (n : Nat) (strict : Bool) : Except (Option (Byte × Nat)) (List RunTile) :=
  walkRun m g (p.shape == .dot) false (lanesB p) (p.bSkip + n) strict (n / 32 + 2) p.bOff 0 p.likeB

def tilesOf (r : Except (Option (Byte × Nat)) (List RunTile)) : List RunTile :=
  match r with
  | .ok l => l
  | .error _ => []

def tileAt (ts : List RunTile) (x : Nat) : Option RunTile := ts.find? fun t => decide (t.first ≤ x) && decide (x < t.first + t.n)

/-- The tiles that hold the steps of the part: all past the ones before its first (R312). -/
def runMaxExp (ts : List RunTile) : Nat :=
  if ts.any fun t => t.h.maxexp == 0xFF then 0xFF else (ts.map fun t => t.h.maxexp).foldl max 0

/-! ## What a step reads -/

/-- The bytes of step `x` of a run, by outer position: a row of elements, or the group of blocks
with its scales (R84, R184). -/
def outerRange (t : RunTile) (o : Nat) : List (Nat × Nat) :=
  let inner := innerN t.h
  if isMx t.h.fmt then
    let n := 32 * inner * fmtBits t.h.fmt / 8
    [(t.off + 64 + o / 32 * n, n), (t.off + t.h.sidecar + o / 32 * inner, inner)]
  else
    let n := inner * fmtBits t.h.fmt / 8
    [(t.off + 64 + o * n, n)]

/-- The 32 activation values of vector v and a chunk from column x (R104, R325). -/
def activationRange (t : RunTile) (v x : Nat) : List (Nat × Nat) :=
  let b := fmtBits t.h.fmt / 8
  [(t.off + 64 + (v * (32 * t.h.cols32) + (x - t.first)) * b, 32 * b)]

def rangeOr (t : Option RunTile) (f : RunTile → List (Nat × Nat)) : List (Nat × Nat) :=
  match t with
  | some x => f x
  | none => []

/-- The activations of step n of a compatibility part: vector n mod T of chunk n / T (R105). -/
def vectorRange (p : Pass) (ta : List RunTile) (n : Nat) : List (Nat × Nat) :=
  let x := p.aSkip + 32 * (n / p.t)
  rangeOr (tileAt ta x) fun t => activationRange t (n % p.t) x

/-- The weights of chunk c of a compatibility part. -/
def weightRange (p : Pass) (tb : List RunTile) (c : Nat) : List (Nat × Nat) :=
  let x := p.bSkip + 32 * c
  rangeOr (tileAt tb x) fun t => (List.range 32).flatMap fun i => outerRange t (x + i - t.first)

/-- The chunks whose weights load with step n of a compatibility part: the first with the first step, each later one
with the last step of the chunk before it (R105). -/
def loadsAt (p : Pass) (n : Nat) : List Nat :=
  (if n = 0 then [0] else []) ++ if (n + 1) % p.t = 0 ∧ (n + 1) / p.t < p.k / 32 then [(n + 1) / p.t] else []

/-- The operand bytes of step n of a part (R84, R104). -/
def stepRanges (p : Pass) (ta tb : List RunTile) (n : Nat) : List (Nat × Nat) :=
  if p.shape = .dot then vectorRange p ta n ++ weightRange p tb (n / p.t)
  else
    rangeOr (tileAt ta (p.aSkip + n)) (fun t => outerRange t (p.aSkip + n - t.first))
      ++ rangeOr (tileAt tb (p.bSkip + n)) fun t => outerRange t (p.bSkip + n - t.first)

/-- The bytes that the feeders read with step n of a part: in compatibility mode the weights are read chunk by chunk,
into the idle register (R105). -/
def feedRanges (p : Pass) (ta tb : List RunTile) (n : Nat) : List (Nat × Nat) :=
  if p.shape = .dot then vectorRange p ta n ++ (loadsAt p n).flatMap (weightRange p tb) else stepRanges p ta tb n

/-- One element of a run tile, read from the scratchpad. -/
def runElem (m : Mod) (g : Nat) (t : RunTile) (o i : Nat) : Val :=
  let c := t.h.fmt
  let (pos, b) := elemPos c (innerN t.h) o i
  let code := leNat (padRead m g (t.off + 64 + pos / 8) ((pos % 8 + fmtBits c + 7) / 8)) / 2 ^ (pos % 8) % 2 ^ fmtBits c
  let scale := if isMx c then leNat (padRead m g (t.off + t.h.sidecar + b) 1) else 127
  elemVal c code scale

def elemOr (m : Mod) (g : Nat) (t : Option RunTile) (f : RunTile → Nat × Nat) : Val :=
  match t with
  | some x => runElem m g x (f x).1 (f x).2
  | none => .fin false 0 0

/-- Weight k of unit u in the register that holds chunk c (R104, R105). -/
def weightVal (m : Mod) (g c fmt k u : Nat) : Val :=
  elemVal fmt ((sget [] (engine m g).weights (c % 2))[256 * k + u]?.getD 0) 127

/-- The products that step n brings to cell (i, j) of Asterism a at block (r, s) (R80, R104). -/
def stepProducts (m : Mod) (g : Nat) (p : Pass) (ta tb : List RunTile) (n a r s i j : Nat) : List (Val × Val) :=
  if p.shape = .dot then
    let c := n / p.t
    let x := 32 * c
    if i ≠ n % p.t then []
    else (List.range 32).map fun k =>
      (elemOr m g (tileAt ta (p.aSkip + x)) (fun t => (i, p.aSkip + x + k - t.first)),
       match tileAt tb (p.bSkip + x + k) with
       | some t => weightVal m g c t.h.fmt k (32 * a + j)
       | none => .fin false 0 0)
  else
    [(elemOr m g (tileAt ta (p.aSkip + n)) (fun t => (p.aSkip + n - t.first, 32 * r + i)),
      elemOr m g (tileAt tb (p.bSkip + n)) (fun t => (p.bSkip + n - t.first, 32 * s + j)))]

/-! ## Pins (R135, R136) -/

/-- The bytes a pass pins: the headers it read and the bytes of the steps read. -/
def pinRanges (m : Mod) (g : Nat) (p : Pass) : List (Nat × Nat) :=
  if p.read = 0 then [] else
  let ta := tilesOf (runA m g p p.k false)
  let tb := tilesOf (runB m g p p.k false)
  (ta ++ tb).map (fun t => (t.off, 64)) ++ (List.range p.read).flatMap fun n => feedRanges p ta tb n

/-- Whether a byte of a scratchpad range is pinned. -/
def pinned (m : Mod) (g off n : Nat) : Bool :=
  (engine m g).gangs.any fun gg => gg.passes.any fun p => (pinRanges m g p).any fun r => overlaps off n r.1 r.2

/-- Whether a write of n bytes at an address of the map falls on a pinned byte. -/
def pinnedAt (m : Mod) (p : Place) (n : Nat) : Bool :=
  match p with
  | .pad g off => pinned m g off n
  | _ => false

/-! ## Scratchpad operands (R305) -/

def padOperand (align off n : Nat) : Option (Byte × Nat) :=
  if off % align ≠ 0 ∨ off + n > padBytes then some (0x67, off) else none

/-- The first of several checks that fails. -/
def firstErr : List (Option (Byte × Nat)) → Option (Byte × Nat)
  | [] => none
  | some e :: _ => some e
  | none :: r => firstErr r

/-- The whole extent of the tile that a drain of the shape writes (R180, R322). -/
def drainExtent (sh : Shape) (dfmt : Nat) : Nat :=
  let n := 1024 * (shapeDims sh).1 * (shapeDims sh).2
  let c := dfmtCode dfmt
  roundUp (64 + n * fmtBits c / 8 + (if isMx c then n / 32 else 0)) 256

def drainDest (m : Mod) (g c cd ddest : Nat) : DrainTo :=
  match ddest with
  | 0 => .pad (cnt m g c cd).toNat
  | 1 => .add (cnt m g c cd).toNat
  | _ => .va (cntPair m g c cd)

/-- R305 for a drain's destination. -/
def destErr (sh : Shape) (dfmt : Nat) : DrainTo → Option (Byte × Nat)
  | .pad off => padOperand 256 off (drainExtent sh dfmt)
  | .add off => padOperand 256 off (drainExtent sh dfmt)
  | _ => none

end Sys2Proof.Machine
end

