-- ==== Sys2Proof/Machine/Opx.lean ====
section
/-! DEFINITION. OPX.PASS, OPX.DRAIN, DOT.PASS and DOT.DRAIN (R320 to R327), the forming of gangs
(R82), the steps of a pass (R47, R53, R58, R62 to R68, R87 to R93, R100, R104 to R107, R135). -/

namespace Sys2Proof.Machine

/-! ## Issue -/

/-- A pass as an instruction asks for it; its slot is given when it enters its gang. -/
def newPass (m : Mod) (g c : Nat) (w : LviWord) (id grant : Nat) : Pass :=
  let f := passFields w
  let task := taskId g c
  let d : Drain := {
    id := id, task := task, slot := 0, fmt := dfmtCode f.dfmt, sr := f.sr, cols := f.cols
    dest := drainDest m g c f.cd f.ddest, word := w, idx := (ctx m g c).pc
    cw := if usesCw f then some (cnt m g c f.cw).toNat else none }
  { id := id, task := task, word := w, idx := (ctx m g c).pc, shape := f.shape, base := f.base, slot := 0, st := .running
    k := min f.k 8192, rest := f.k - min f.k 8192, done := 0, t := f.t
    aOff := (cnt m g c f.ca).toNat, bOff := (cnt m g c f.cb).toNat, tight := f.tight
    drain := if f.attach then some d else none
    m := none, injected := 0, retired := [], replays := 0, maxReplays := 0, sat := false, satAny := false
    faulted := false, leave := grant, cw := if usesCw f then (cnt m g c f.cw).toNat else 0 }

/-- The operand bytes of the first 64 steps of a pass, or of all its steps (R134). A compatibility pass has T steps to a
chunk of 32 terms (R105). -/
def firstRanges (m : Mod) (g : Nat) (p : Pass) : List (Nat × Nat) :=
  let steps := min (totalSteps p) 64
  let terms := if p.shape = .dot then 32 * ceilDiv steps p.t else steps
  let ta := tilesOf (runA m g p terms false)
  let tb := tilesOf (runB m g p terms false)
  (List.range steps).flatMap fun i => stepRanges p ta tb i

/-- R305 for the operands of a pass, and R209 for its first steps. -/
def passChk (m : Mod) (g c : Nat) (w : LviWord) : Option (Byte × Nat) :=
  let f := passFields w
  let p := newPass m g c w 0 0
  firstErr ([padOperand 256 p.aOff 64, padOperand 256 p.bOff 64,
    if f.attach then destErr f.shape f.dfmt (drainDest m g c f.cd f.ddest) else none,
    if usesCw f then padOperand 256 p.cw (drainExtent f.shape 0) else none]
    ++ (firstRanges m g p).map fun r => deadRange m g r.1 r.2)

/-- Whether a slot holds an undrained result (R132). -/
def slotHeld (gg : Gang) (s : Nat) : Bool := (slotInfo gg s).full

/-- The gang is forming, or the slot holds an undrained result (R82, R132). -/
def passBusy (e : Engine) (f : PassOp) : Bool :=
  (e.forming.any fun p => overlapMembers (shapeMembers p.shape p.base) (shapeMembers f.shape f.base))
    || match e.gangs.find? fun gg => sameGang gg f.shape f.base with
      | some gg => slotHeld gg gg.nextSlot
      | none => !canForm e f.shape f.base

/-- An operand byte of the first steps has an incoming transfer not yet landed (R134). -/
def passWaits (m : Mod) (g c : Nat) (w : LviWord) : Bool :=
  (firstRanges m g (newPass m g c w 0 0)).any fun r => notLanded m g r.1 r.2

def passMiss (m : Mod) (g c : Nat) (w : LviWord) : Option Miss :=
  if passBusy (engine m g) (passFields w) then some .busy
  else if passWaits m g c w then some .datum
  else none

/-- Whether the condition of a miss of a pass has ended, whatever else the pass lacks by then (R132). -/
def passOver (m : Mod) (g c : Nat) (w : LviWord) : Miss → Bool
  | .busy => !passBusy (engine m g) (passFields w)
  | .datum => !passWaits m g c w
  | _ => true

/-- The leave of a gang start, by the formats of the first tiles (R526). -/
def passLeave (m : Mod) (g c : Nat) (w : LviWord) : Nat :=
  let f := passFields w
  gangLeave f.shape (hdrAt m g (cnt m g c f.ca).toNat).fmt (hdrAt m g (cnt m g c f.cb).toNat).fmt

/-- The pass enters its gang, a gang that forms at once, or the gang that waits to form. -/
def placePass (p : Pass) (e : Engine) : Engine :=
  let n := partCount (p.k + p.rest)
  let enter := fun (e : Engine) => { e with gangs := e.gangs.map fun gg => if sameGang gg p.shape p.base then enterPass p n gg else gg }
  if e.forming.any fun q => overlapMembers (shapeMembers q.shape q.base) (shapeMembers p.shape p.base) then
    { e with forming := e.forming ++ [p] }
  else if e.gangs.any fun gg => sameGang gg p.shape p.base then enter e
  else if canForm e p.shape p.base then enter (formGang p.shape p.base e)
  else { e with forming := e.forming ++ [p] }

def passForm : Form where
  chk := fun _ m g c w => passChk m g c w
  miss := fun _ m g c w => passMiss m g c w
  ended := fun _ m g c w k => passOver m g c w k
  leave := passLeave
  eff := fun t g c w grant m =>
    let (id, m1) := fresh m
    let m2 := modEngine m1 g (placePass (newPass m g c w id grant))
    advance t g c (putSignal m2 (taskId g c) w 0 (some id))

/-- Whether a slot holds a retired result that no drain has been asked for. -/
def holdsResult (gg : Gang) (s : Nat) : Bool := (slotInfo gg s).full && !(slotInfo gg s).draining

/-- The pass in flight whose result a drain of the slot takes: the first deferred one not yet asked for, none where the
slot holds a retired result. -/
def drainedPass (gg : Gang) (s : Nat) : Option Pass :=
  if holdsResult gg s then none else gg.passes.find? fun p => p.slot == s && p.drain.isNone && !p.asked && !p.faulted

/-- Whether the slot of a gang can be drained (R91): it holds a retired result, or a pass in flight will leave one. -/
def drainOk (gg : Gang) (s : Nat) : Bool := holdsResult gg s || (drainedPass gg s).isSome

/-- The drain request joins the gang's order behind every step of its pass, and its fence behind the valid steps that
the gang has issued: every later step belongs to a later pass (R90, R92; DEDUCED, log 65). -/
def askDrain (d : Drain) (gg : Gang) : Gang :=
  let s := d.slot
  let last := drainedPass gg s
  let ps := match last with
    | some p => gg.passes.map fun q => if q.id = p.id then { q with asked := true } else q
    | none => gg.passes
  modSlot s (fun i => if last.isNone then { i with draining := true } else i)
    { gg with passes := ps, drains := gg.drains ++ [{ d with of_ := last.map (·.id), after := gg.passes.map fun p => (p.id, p.done, p.injected) }] }

/-- A deferred drain of gang `base` and slot s; a slot that R91 excludes faults the task. -/
def deferDrain (t : Clk) (g c base : Nat) (mk : Gang → Nat → Drain) (s : Nat) (w : LviWord) (m : Mod) : Mod :=
  match gangAt (engine m g) base with
  | none => faultInsn t g c 0 0 m
  | some gg =>
    if ¬ drainOk gg s then faultInsn t g c 0 0 m
    else
      let (id, m1) := fresh m
      let m2 := modGang m1 g gg.base (askDrain (mk gg id))
      advance t g c (putSignal m2 (taskId g c) w 0 (some id))

def drainShape (m : Mod) (g base : Nat) : Shape :=
  match gangAt (engine m g) base with
  | some gg => gg.shape
  | none => .s32

def drainForm : Form where
  chk := fun _ m g c w =>
    let f := drainFields w
    destErr (drainShape m g f.base) f.dfmt (drainDest m g c f.cd f.ddest)
  eff := fun t g c w _ m =>
    let f := drainFields w
    deferDrain t g c f.base (fun _ id => {
      id := id, task := taskId g c, slot := f.slot, fmt := dfmtCode f.dfmt, sr := f.sr, cols := f.cols
      dest := drainDest m g c f.cd f.ddest, word := w, idx := (ctx m g c).pc }) f.slot w m

/-! ## Forming (R82) -/

/-- The passes at the head of the forming list that wait for one gang. -/
def takeForming (sh : Shape) (base : Nat) : List Pass → List Pass
  | [] => []
  | p :: r =>
    if p.shape = sh ∧ p.base = base then p :: takeForming sh base r
    else if overlapMembers (shapeMembers p.shape p.base) (shapeMembers sh base) then []
    else takeForming sh base r

/-- The shape that a context missed for at a busy gang. -/
def wantedShape (e : Engine) (base : Nat) : Option Shape :=
  e.ctx.findSome? fun kv =>
    match kv.2.st, kv.2.stream[kv.2.pc]? with
    | .missed .busy, some w =>
      if (wOp w = 0x40 ∨ wOp w = 0x60) ∧ (passFields w).base = base
        ∧ ¬ e.gangs.any (fun gg => sameGang gg (passFields w).shape base) then some (passFields w).shape else none
    | _, _ => none

def gangForm (g base : Nat) (_ : Clk) (m : Mod) : Mod :=
  let e := engine m g
  match e.forming.find? fun p => p.base == base with
  | some p =>
    let ps := takeForming p.shape base e.forming
    if ps.isEmpty ∨ ¬ canForm e p.shape base then m
    else modEngine m g fun e =>
      let e1 := formGang p.shape base { e with forming := e.forming.filter fun q => !ps.any fun x => x.id == q.id }
      { e1 with gangs := e1.gangs.map fun gg => if sameGang gg p.shape base then
          ps.foldl (fun gg q => enterPass q (partCount (q.k + q.rest)) gg) gg else gg }
  | none =>
    match wantedShape e base with
    | some sh => if canForm e sh base then modEngine m g (formGang sh base) else m
    | none => m

/-! ## Slots and cells -/

def cellKey (s a i j : Nat) : Nat := (8 * s + a) * 1024 + 32 * i + j

/-- Every cell of a slot of the gang cleared (R47). -/
def clearSlot (ms : List Nat) (s : Nat) (e : Engine) : Engine :=
  { e with cells := e.cells.filter fun kv => !(ms.contains (kv.1 / 1024 % 8) && kv.1 / 8192 == s) }

/-! ## STEP_INJECT -/

/-- The first pass with steps left to inject, and the passes before it. -/
def injecting : List Pass → List Pass → Option (List Pass × Pass)
  | _, [] => none
  | seen, p :: r => if ¬ p.faulted ∧ p.injected < totalSteps p then some (seen, p) else injecting (seen ++ [p]) r

/-- The other slot for the passes behind one, and for the drains asked of them. -/
def flipLater (id : Nat) (gg : Gang) : Gang :=
  let later := ((gg.passes.dropWhile fun p => p.id != id).filter fun p => p.id != id)
  let moved := fun (d : Drain) => later.any fun p => d.of_ == some p.id
  { gg with
    passes := gg.passes.map fun p => if later.any (fun q => q.id == p.id) then { p with slot := 1 - p.slot } else p
    drains := gg.drains.map fun d => if moved d then { d with slot := 1 - d.slot } else d
    nextSlot := 1 - gg.nextSlot }

/-- A pass ends early. The parts of a split reduction that it does not run leave the slots to the passes behind it:
each uses the slot that the pass before it did not use (R83). -/
def cutPass (id : Nat) (gg : Gang) : Gang :=
  let odd := match gg.passes.find? fun p => p.id == id with
    | some p => partCount p.rest % 2 == 1
    | none => false
  modPass id (fun q => { q with faulted := true, rest := 0 }) (if odd then flipLater id gg else gg)

/-- A pass that meets a fault: the task faults, and the pass retires without a result (R311). -/
def failPass (t : Clk) (g : Nat) (base : Nat) (p : Pass) (typ reason : Byte) (addr : Nat) (poison : Bool) (m : Mod) : Mod :=
  faultTask t p.task typ reason (BitVec.ofNat 64 addr) (BitVec.ofNat 64 (if typ = fTask then p.idx else 0)) poison
    (modGang m g base (cutPass p.id))

/-- The pairing of the operands: 0x83 for any other (R43, R44, R107). -/
def pairingOk (p : Pass) (fa fb : Nat) : Bool :=
  if p.shape = .dot then dotFmt fa && dotFmt fb && pairOk fa fb else pairOk fa fb

def tracePass (t : Clk) (g : Nat) (p : Pass) (retire : Bool) (m : Mod) : Mod :=
  trace t g p.task 0x05 (p.base + 8 * p.slot + (if retire then 16 else 0) + 32 * (p.replays % 8)
    + (if retire && p.sat then 256 else 0) + 512 * ((p.k - 1) % 2 ^ 20)) (some 2) m

/-- The drain of one part of a pass (R59, R324): intermediate parts keep FP32 sums. -/
def partDrain (p : Pass) (d : Drain) : Drain :=
  let d' := { d with slot := p.slot, done := p.done }
  if p.done = 0 ∧ p.rest = 0 then d'
  else
    let sum : DrainTo := match d.cw with
      | some off => if p.done = 0 then .pad off else .add off
      | none => match d.dest with
        | .pad off => if p.done = 0 then .pad off else .add off
        | x => x
    if p.rest = 0 ∧ d.cw.isSome then d'
    else { d' with fmt := 0x10, sr := false, dest := sum, cw := none }

/-- Whether a drain is that of a pass itself, of the part it runs. -/
def ownDrain (p : Pass) (d : Drain) : Bool := d.id == p.id && d.done == p.done

/-- The drains of a gang once the attached drain of a pass has been raised, behind what the gang has received
(R83, R90); a replay raises none anew. -/
def raiseDrain (p : Pass) (ds : List Drain) : List Drain :=
  match p.drain with
  | some d => if ds.any (ownDrain p) then ds else ds ++ [{ partDrain p d with of_ := some p.id }]
  | none => ds

/-! ## The weight registers of compatibility mode (R105) -/

/-- The 8,192 weights of chunk c of a pass, as codes: 256 units to a term. -/
def chunkWeights (m : Mod) (g : Nat) (p : Pass) (tb : List RunTile) (c : Nat) : List Nat :=
  (List.range 32).flatMap fun k =>
    let x := p.bSkip + 32 * c + k
    match tileAt tb x with
    | none => List.replicate 256 0
    | some t => (List.range 256).map fun u =>
      let b := fmtBits t.h.fmt / 8
      leNat (padRead m g (t.off + 64 + ((x - t.first) * 256 + u) * b) b)

/-- Whether the register that a load fills is idle: every step that used it has retired. -/
def weightsIdle (ms : List Nat) (before : List Pass) (p : Pass) (c : Nat) : Bool :=
  ms.all fun a => if c = 0 then before.all fun q => sget 0 q.retired a == q.injected
    else decide ((c - 1) * p.t ≤ sget 0 p.retired a)

/-- The registers after the loads of a step; register c mod 2 takes chunk c. -/
def loadWeights (g : Nat) (p : Pass) (tb : List RunTile) (n : Nat) (m : Mod) : Mod :=
  if p.shape ≠ .dot then m else
  (loadsAt p n).foldl (fun m c =>
    modEngine m g fun e => { e with weights := sset [] e.weights (c % 2) (chunkWeights m g p tb c) }) m

/-- Whether the step may enter: the weight registers its loads fill are idle. -/
def loadReady (ms : List Nat) (before : List Pass) (p : Pass) (n : Nat) : Bool :=
  p.shape != .dot || (loadsAt p n).all (weightsIdle ms before p)

/-- The group of n steps enters the pipeline; the first one clears the slot and fixes M (R47). The step after the
last raises an attached drain (R90). -/
def injectGroup (t : Clk) (g : Nat) (gg : Gang) (p : Pass) (ta : List RunTile) (mag : Int) (n : Nat) (m : Mod) : Mod :=
  let first := p.injected = 0 ∧ p.m.isNone
  let h := (ta.head?).map (·.h)
  let p' := { p with
    injected := p.injected + n, read := max p.read (p.injected + n), m := some mag
    epoch := if first ∧ p.done = 0 then BitVec.ofNat 16 ((h.map (·.epoch)).getD 0) else p.epoch
    sample := if first ∧ p.done = 0 then BitVec.ofNat 64 ((h.map (·.sample)).getD 0) else p.sample }
  let m1 := if first then modEngine m g (clearSlot (members gg) p.slot) else m
  let m2 := modGang m1 g gg.base fun x =>
    let y := modPass p.id (fun q => if q.slot = p.slot then p' else q) x
    let z := if first then modSlot p.slot (fun _ => { m := mag }) y else y
    if p'.injected = totalSteps p then { z with drains := raiseDrain p z.drains } else z
  countEv (if first then tracePass t g p' false m2 else m2) g 0x02 n

/-- One valid step group, or a bubble that changes nothing (R88, R89). A pass behind a split reduction
waits for its last part (R58, R83). -/
def stepInject (g base : Nat) (t : Clk) (m : Mod) : Mod :=
  match gangOf (engine m g) base with
  | none => m
  | some gg =>
    match injecting [] gg.passes with
    | none => m
    | some (before, p) =>
      if gg.passes.any (fun q => q.st == .overflowed) ∨ before.any (fun q => q.replays != 0) then m
      else if p.injected = 0 ∧ before.any (fun q => q.rest != 0) then m
      else if p.injected = 0 ∧ (before.any (fun q => q.slot == p.slot) ∨ gg.drains.any (fun d => d.slot == p.slot && !ownDrain p d)
          ∨ (slotInfo gg p.slot).full) then countEv m g 0x04 1
      else match runA m g p p.k true, runB m g p p.k true with
        | .error none, _ => countEv m g 0x03 1
        | _, .error none => countEv m g 0x03 1
        | .error (some (r, a)), _ => failPass t g base p fTask r a false m
        | _, .error (some (r, a)) => failPass t g base p fTask r a false m
        | .ok ta, .ok tb =>
          let fa := ((ta.head?).map (·.h.fmt)).getD 0
          let fb := ((tb.head?).map (·.h.fmt)).getD 0
          let ea := runMaxExp ta
          let eb := runMaxExp tb
          if ¬ pairingOk p fa fb then failPass t g base p fTask 0x83 p.aOff false m
          else if p.m.isNone ∧ (ea = 0xFF ∨ eb = 0xFF) ∧ ¬ before.isEmpty then m
          else
            let n := min (if p.shape = .dot then 1 else max (stepsPerCycle fa) (stepsPerCycle fb)) (totalSteps p - p.injected)
            let heads := if p.injected = 0 then (ta ++ tb).map fun x => (x.off, 64) else []
            let rs := heads ++ (List.range n).flatMap fun i => feedRanges p ta tb (p.injected + i)
            match rs.findSome? fun r => deadRange m g r.1 r.2 with
            | some (r, a) => failPass t g base p fTask r a false m
            | none =>
              if (rs.any fun r => notLanded m g r.1 r.2) ∨ ¬ loadReady (members gg) before p p.injected then countEv m g 0x03 1
              else match rs.find? fun r => padPoison m g r.1 r.2 with
                | some r => failPass t g base p fPoison 0 r.1 true m
                | none => injectGroup t g gg p ta (p.m.getD (selectM p.tight ea eb p.k gg.lastM)) n (loadWeights g p tb p.injected m)

/-! ## STEP_RETIRE -/

/-- The first pass with a step in flight in an Asterism, and whether an earlier one has overflowed. -/
def retiring (a : Nat) : Bool → List Pass → Option (Pass × Bool)
  | _, [] => none
  | ov, p :: r => if sget 0 p.retired a < p.injected then some (p, ov) else retiring a (ov || p.st == .overflowed) r

/-- The cells of an Asterism after one step, whether one overflowed, whether one saturated. -/
def retireCells (m : Mod) (g a : Nat) (p : Pass) (n : Nat) (cells : Sparse Cell) : Sparse Cell × Bool × Bool :=
  let ta := tilesOf (runA m g p p.k false)
  let tb := tilesOf (runB m g p p.k false)
  let (r, s) := blockPos p.shape p.base a
  (List.range 1024).foldl (fun acc x =>
    let key := cellKey p.slot a (x / 32) (x % 32)
    match stepProducts m g p ta tb n a r s (x / 32) (x % 32) with
    | [] => acc
    | ps =>
      let (c, ov, sat) := accumulate (p.replays == 4) (p.m.getD 0) (sget {} acc.1 key) ps
      (sset {} acc.1 key c, acc.2.1 || ov, acc.2.2 || sat)) (cells, false, false)

/-- An overflow stops injection and discards the later passes already begun (R62, R65). -/
def overflowPass (id : Nat) : List Pass → List Pass
  | [] => []
  | p :: r => if p.id = id then { p with st := .overflowed } :: r.map fun q => if q.injected = 0 then q else { q with st := .overflowed }
    else p :: overflowPass id r

def stepRetire (g a : Nat) (_ : Clk) (m : Mod) : Mod :=
  match gangAt (engine m g) a with
  | none => m
  | some gg =>
    match retiring a false gg.passes with
    | none => m
    | some (p, discarded) =>
      let n := sget 0 p.retired a
      let mark := fun (sat : Bool) (q : Pass) => if q.slot = p.slot then
        { q with retired := sset 0 q.retired a (n + 1), sat := q.sat || sat } else q
      if discarded ∨ p.faulted then modGang m g gg.base (modPass p.id (mark false))
      else
        let (cells, ov, sat) := retireCells m g a p n (engine m g).cells
        let m1 := modGang (modEngine m g fun e => { e with cells := cells }) g gg.base (modPass p.id (mark sat))
        if ov then modGang m1 g gg.base fun x => { x with passes := overflowPass p.id x.passes } else m1

/-! ## REPLAY_START -/

/-- Whether every injected step of a pass has retired in every Asterism of its gang. -/
def allRetired (ms : List Nat) (p : Pass) : Bool := ms.all fun a => sget 0 p.retired a == p.injected

/-- The first overflowed pass runs again at M + 6; the later ones start anew (R63 to R65). -/
def restart : Bool → List Pass → List Pass
  | _, [] => []
  | again, p :: r =>
    if p.st ≠ .overflowed then p :: restart again r
    else if again then { p with st := .running, injected := 0, retired := [], m := none } :: restart true r
    else { p with st := .running, injected := 0, retired := [], m := p.m.map (· + 6), replays := p.replays + 1 } :: restart true r

/-- Every step issued has retired by then, so no fence waits for one of them any more. -/
def replayStart (g base : Nat) (_ : Clk) (m : Mod) : Mod :=
  match gangOf (engine m g) base with
  | none => m
  | some gg =>
    let hit := gg.passes.filter fun p => p.st == .overflowed
    if hit.isEmpty ∨ ¬ gg.passes.all (allRetired (members gg)) then m
    else
      let m1 := hit.foldl (fun m p => modEngine m g (clearSlot (members gg) p.slot)) m
      let m2 := modGang m1 g base fun x =>
        let y := { x with
          passes := restart false x.passes
          drains := x.drains.map fun d => { d with after := d.after.map fun s => (s.1, s.2.1, 0) } }
        hit.foldl (fun y p => modSlot p.slot (fun i => { i with m := i.m + 6 }) y) y
      countEv m2 g 0x05 1

/-! ## PASS_RETIRE -/

/-- The next place of a run after n of its steps. -/
def nextPlace (ts : List RunTile) (off skip n : Nat) : Nat × Nat :=
  match ts.getLast? with
  | none => (off, skip + n)
  | some t => if skip + n < t.first + t.n then (t.off, skip + n - t.first) else (roundUp (t.off + tileEnd t.h) 256, 0)

/-- The next part of a split reduction, in the other slot (R58, R83). -/
def nextPart (m : Mod) (g : Nat) (p : Pass) : Pass :=
  let ta := tilesOf (runA m g p p.k false)
  let tb := tilesOf (runB m g p p.k false)
  let a := nextPlace ta p.aOff p.aSkip p.k
  let b := nextPlace tb p.bOff p.bSkip p.k
  let like := fun (ts : List RunTile) => ts.head?.map fun t => (t.h.fmt, t.h.order)
  { p with slot := 1 - p.slot, k := min p.rest 8192, rest := p.rest - min p.rest 8192, done := p.done + p.k
           aOff := a.1, aSkip := a.2, bOff := b.1, bSkip := b.2, m := none, injected := 0, retired := [], read := 0
           replays := 0, maxReplays := max p.maxReplays p.replays, satAny := p.satAny || p.sat, sat := false
           likeA := p.likeA <|> like ta, likeB := p.likeB <|> like tb }

/-- The result a retired pass leaves in its slot. -/
def retiredSlot (p : Pass) : SlotInfo where
  full := true
  draining := p.drain.isSome || p.asked
  m := p.m.getD 0
  replays := max p.maxReplays p.replays
  sat := p.satAny || p.sat
  epoch := p.epoch
  sample := p.sample
  t := p.t

def retirePass (t : Clk) (g : Nat) (gg : Gang) (p : Pass) (rest : List Pass) (m : Mod) : Mod :=
  let ps := if p.rest = 0 then rest else nextPart m g p :: rest
  let m1 := modGang m g gg.base fun x =>
    modSlot p.slot (fun _ => retiredSlot p) { x with passes := ps, drains := raiseDrain p x.drains, lastM := p.m }
  let m2 := if p.rest = 0 then returnLeave m1 (g / 16) p.leave else m1
  let m3 := if p.sat then modProg m2 (ctx m2 g (p.task % 4)).part fun q => { q with sat := true } else m2
  tracePass t g p true m3

/-- A pass that met a fault leaves its slot cleared; its drain is not performed (R311). The M that the next pass
takes under R53 stays that of the last pass that retired with a result, or 0: R53 does not say whether a pass with no
result counts as the previous one (DESIGN CHOICE, log 65). -/
def dropPass (g : Nat) (gg : Gang) (p : Pass) (rest : List Pass) (m : Mod) : Mod :=
  let mine := fun (d : Drain) => d.of_ == some p.id && d.slot == p.slot
  let gone := gg.drains.filter mine
  let m1 := modEngine m g (clearSlot (members gg) p.slot)
  let m2 := modGang m1 g gg.base fun x => modSlot p.slot (fun _ => {})
    { x with passes := rest, drains := x.drains.filter fun d => !mine d }
  returnLeave ((p.id :: gone.map (·.id)).foldl dropSignals m2) (g / 16) p.leave

def passRetire (g base : Nat) (t : Clk) (m : Mod) : Mod :=
  match gangOf (engine m g) base with
  | none => m
  | some gg =>
    match gg.passes with
    | [] => m
    | p :: rest =>
      if p.st ≠ .running ∨ ¬ allRetired (members gg) p then m
      else if p.faulted then dropPass g gg p rest m
      else if p.injected = totalSteps p then retirePass t g gg p rest m
      else m

/-! ## The rows -/

def execOpxPass (e : Eng) (c : CtxId) (w : LviWord) (s : State) : Host.Outcome State Fault Refusal :=
  issueRow passForm 0x40 none e c w s
def execOpxDrain (e : Eng) (c : CtxId) (w : LviWord) (s : State) : Host.Outcome State Fault Refusal :=
  issueRow drainForm 0x41 none e c w s
def execDotPass (e : Eng) (c : CtxId) (w : LviWord) (s : State) : Host.Outcome State Fault Refusal :=
  issueRow passForm 0x60 none e c w s
def execDotDrain (e : Eng) (c : CtxId) (w : LviWord) (s : State) : Host.Outcome State Fault Refusal :=
  issueRow drainForm 0x61 none e c w s
def execGangForm (e : Eng) (base : Ast) (s : State) : Host.Outcome State Fault Refusal :=
  onEng (gangForm e.val base.val) s
def execStepInject (e : Eng) (base : Ast) (s : State) : Host.Outcome State Fault Refusal :=
  onEng (stepInject e.val base.val) s
def execStepRetire (e : Eng) (a : Ast) (s : State) : Host.Outcome State Fault Refusal :=
  onEng (stepRetire e.val a.val) s
def execReplayStart (e : Eng) (base : Ast) (s : State) : Host.Outcome State Fault Refusal :=
  onEng (replayStart e.val base.val) s
end Sys2Proof.Machine
end

