-- ==== Sys2Proof/Machine/Drain.lean ====
section
/-! DEFINITION. Draining a slot: the rows of R94 and R95 in the orientation of R86, converted under
R68 to R76, drain-adds (R59, R323), the conversion of a CW tile (R324), the header (R322, R314). -/

namespace Sys2Proof.Machine

/-! ## Which row -/

/-- The drain that an Asterism has to end before any later one: it has rows left there, those of the conversion of a CW
tile, which follow its last drain-add row, among them (R83, R97, R324). -/
def oweRows (d : Drain) (a : Nat) : Bool := decide (sget 0 d.rows a < 32) || (d.cw.isSome && !d.conv)

/-- The drain an Asterism serves next: the first of the gang with rows left in it, once its next row stands there
(R83, R97). -/
def nextDrain (gg : Gang) (a : Nat) : Option Drain :=
  (gg.drains.find? fun d => oweRows d a).filter fun d => decide (sget 0 d.rows a < 32)

/-- The fence of a drain in an Asterism: every valid step issued before the request has retired there (R92), and the slot
holds the final result of its pass (R93). -/
def fenceOpen (gg : Gang) (d : Drain) (a : Nat) : Bool :=
  d.after.all (fun s => gg.passes.all fun p => !(p.id == s.1 && p.done == s.2.1) || decide (s.2.2 ≤ sget 0 p.retired a))
    && (slotInfo gg d.slot).full

/-- Outer positions and lanes of the drained tile (R86, R322). -/
def drainOuter (gg : Gang) (d : Drain) : Nat := 32 * (if d.cols then (shapeDims gg.shape).2 else (shapeDims gg.shape).1)
def drainInner (gg : Gang) (d : Drain) : Nat := 32 * (if d.cols then (shapeDims gg.shape).1 else (shapeDims gg.shape).2)

/-- The outer position and the first lane of drain row r of an Asterism. -/
def rowPlace (gg : Gang) (d : Drain) (a r : Nat) : Nat × Nat :=
  let (rb, cb) := blockPos gg.shape gg.base a
  if d.cols then (32 * cb + r, 32 * rb) else (32 * rb + r, 32 * cb)

/-- Element (o, i) of the FP32 tile at a scratchpad offset. -/
def padF32 (m : Mod) (g off inner o i : Nat) : Val :=
  f32 (BitVec.ofNat 32 (leNat (padRead m g (off + 64 + 4 * (o * inner + i)) 4)))

/-- The value at cell line k of drain row r: the slot's, or the CW tile's once the conversion runs. -/
def drainVal (m : Mod) (g : Nat) (gg : Gang) (d : Drain) (a r k : Nat) : Val :=
  match d.conv, d.cw with
  | true, some off =>
    let (o, i0) := rowPlace gg d a r
    padF32 m g off (drainInner gg d) o (i0 + k)
  | _, _ =>
    let key := if d.cols then cellKey d.slot a k r else cellKey d.slot a r k
    cellVal (slotInfo gg d.slot).m (sget {} (engine m g).cells key)

def drainRow (m : Mod) (g : Nat) (gg : Gang) (d : Drain) (a r : Nat) : List Val :=
  (List.range 32).map (drainVal m g gg d a r)

/-! ## What a row writes -/

/-- The destination, format and rounding of the rows now sent. -/
def drainTarget (d : Drain) : DrainTo × Nat × Bool :=
  match d.conv, d.cw with
  | false, some off => (.add off, 0x10, false)
  | _, _ => match d.dest with
    | .add off => (.add off, 0x10, false)
    | x => (x, d.fmt, d.sr)

/-- Pieces (offset in the tile, bytes), whether an element overflowed, the values written. -/
structure RowOut where
  pieces : List (Nat × List Byte)
  ovf : Bool
  vals : List Val
  deriving DecidableEq, Repr

/-- A plain row of a format without blocks: 32 consecutive elements. -/
def plainRow (c inner o i0 : Nat) (draw : Option Nat) (vs : List Val) : RowOut :=
  let es := vs.zipIdx.map fun (v, n) => encodeElem c (rndAt draw n) v
  { pieces := [(64 + (o * inner + i0) * (fmtBits c / 8), packCodes (fmtBits c) (es.map (·.1)))]
    ovf := es.any (·.2), vals := es.map fun x => elemVal c x.1 127 }

/-- A row of an MX drain: each element under the scale of the cell line that holds it (R74, R95),
and the scales with the first row. -/
def mxRow (c outer inner o i0 : Nat) (draw : Option Nat) (lines : List (List Val)) (r : Nat) : RowOut :=
  let es := lines.zipIdx.map fun (col, k) =>
    let sc := blockScale c col
    let v := col[r]?.getD (.fin false 0 0)
    let e := if sc = 0xFF then (0, false) else encodeElem c (rndAt draw k) (scaleVal (127 - sc) v)
    (o / 32 * inner + i0 + k, sc, e)
  let side := 64 + outer * inner
  { pieces := (es.map fun x => (64 + 32 * x.1 + o % 32, toLe 1 x.2.2.1)) ++ es.map fun x => (side + x.1, toLe 1 x.2.1)
    ovf := es.any fun x => x.2.2.2
    vals := es.map fun x => elemVal c x.2.2.1 x.2.1 }

/-- A drain-add row: the FP32 sum rounded once, to even (R59); a finite sum past FP32's range
overflows (R71). -/
def addRow (m : Mod) (g off inner o i0 : Nat) (vs : List Val) : RowOut :=
  let es := vs.zipIdx.map fun (v, k) =>
    let old := padF32 m g off inner o (i0 + k)
    let sum := addVal old v
    encodeF fp32 .even false sum
  { pieces := [(64 + 4 * (o * inner + i0), packCodes 32 (es.map (·.1)))]
    ovf := es.any (·.2), vals := es.map fun x => decodeF fp32 x.1 }

def rowOut (m : Mod) (g : Nat) (gg : Gang) (d : Drain) (a r : Nat) (draw : Option Nat) : RowOut :=
  let (o, i0) := rowPlace gg d a r
  let inner := drainInner gg d
  match drainTarget d with
  | (.add off, _, _) => addRow m g off inner o i0 (drainRow m g gg d a r)
  | (_, c, _) =>
    if isMx c then
      mxRow c (drainOuter gg d) inner o i0 draw ((List.range 32).map fun k => (List.range 32).map fun r' => drainVal m g gg d a r' k) r
    else plainRow c inner o i0 draw (drainRow m g gg d a r)

/-! ## Writing -/

/-- The request of a drain to a virtual address. -/
def drainReq (m : Mod) (g : Nat) (d : Drain) : Req where
  who := .task (Fin.ofNat 256 g) (Fin.ofNat 4 (d.task % 4))
  part := some (ctx m g (d.task % 4)).part
  phys := false
  owner := some (.task d.task)
  task := some d.task

/-- A drain's virtual address must lie in a scratchpad or a die pool (R321). -/
def drainPlace (m : Mod) (g : Nat) (d : Drain) (va : Nat) : Except XErr Place :=
  match xlate m (ctx m g (d.task % 4)).part va true with
  | .error e => .error e
  | .ok x => match place x.phys with
    | .pad h off => .ok (.pad h off)
    | .pool n off => .ok (.pool n off)
    | _ => .error (acc6B va true)

/-- Whether the destination takes these bytes now: no pinned byte among them (R97, R136). -/
def accepts (m : Mod) (g : Nat) (d : Drain) (dest : DrainTo) (o n : Nat) : Bool :=
  match dest with
  | .pad off => !pinned m g (off + o) n
  | .add off => !pinned m g (off + o) n
  | .va a => match drainPlace m g d (a.toNat + o) with
    | .ok p => !pinnedAt m p n
    | .error _ => true
  | .exch => true

/-- One piece written, or the access's refusal. -/
def putPiece (t : Clk) (g : Nat) (d : Drain) (dest : DrainTo) (m : Mod) (o : Nat) (bs : List Byte) : Mod × Option XErr :=
  match dest with
  | .pad off => (padWrite m g (off + o) bs, none)
  | .add off => (padWrite m g (off + o) bs, none)
  | .va a =>
    match [a.toNat, a.toNat + o, a.toNat + o + bs.length - 1].findSome? fun x => match drainPlace m g d x with
      | .error e => some e
      | .ok _ => none with
    | none => writeMem t m (drainReq m g d) (a.toNat + o) bs false .clean
    | some e => (logErr t (drainReq m g d) e m, some e)
  | .exch => (m, none)

def putPieces (t : Clk) (g : Nat) (d : Drain) (dest : DrainTo) : Mod → List (Nat × List Byte) → Mod × Option XErr
  | m, [] => (m, none)
  | m, (o, bs) :: r => match putPiece t g d dest m o bs with
    | (m1, some e) => (m1, some e)
    | (m1, none) => putPieces t g d dest m1 r

/-- The line of the header at its destination (R185). -/
def drainTag (m : Mod) (g : Nat) (d : Drain) : DrainTo → Nat
  | .pad off => off / 256
  | .add off => off / 256
  | .va a => match drainPlace m g d a.toNat with
    | .ok p => (lineIndex p).getD 0
    | .error _ => 0
  | .exch => 0

/-! ## Header and end -/

/-- The MAXEXP of what was written (R76): all non-finite, all zero, or the largest exponent. -/
def writtenExp (d : Drain) (n : Nat) : Nat :=
  match d.maxExp with
  | some e => if e < -126 ∨ 127 < e then 0xFF else (e + 127).toNat
  | none => if d.nf = n then 0xFF else 0

def drainStatus (gg : Gang) (d : Drain) (sr : Bool) : Nat :=
  let i := slotInfo gg d.slot
  statusWord d.nf (d.nf != 0) sr d.ovf i.replays i.sat

/-- The header pieces: the whole header with the zero fill of the last line (R180, R322), or the
MAXEXP and STATUS of a tile added into (R323). -/
def headerPieces (m : Mod) (g : Nat) (gg : Gang) (d : Drain) : List (Nat × List Byte) :=
  let (rb, cb) := shapeDims gg.shape
  let n := 1024 * rb * cb
  match drainTarget d with
  | (.add _, _, _) => [(1, toLe 1 (writtenExp d n)), (0x20, toLe 4 (drainStatus gg d false))]
  | (dest, c, sr) =>
    let i := slotInfo gg d.slot
    let pl := n * fmtBits c / 8
    let h := hdrFor c rb cb d.cols (writtenExp d n) (drainTag m g d dest) i.epoch.toNat i.sample.toNat (drainStatus gg d sr)
    let used := 64 + pl + (if isMx c then n / 32 else 0)
    [(0, writeHdr { h with paylen := pl, sidecar := if isMx c then 64 + pl else 0 }),
     (used, List.replicate (roundUp used 256 - used) 0)]

/-- The slot is free (R98), and the drain leaves the gang. -/
def freeSlot (d : Drain) (gg : Gang) : Gang :=
  modSlot d.slot (fun i => { i with full := false, draining := false, drained := true })
    { gg with drains := gg.drains.filter fun x => !(x.id == d.id && x.slot == d.slot) }

/-- A drain that ends with a fault: the slot is undrained and free, no later part follows (R323). -/
def abandonDrain (g base : Nat) (d : Drain) (m : Mod) : Mod :=
  dropSignals (modGang m g base fun gg => cutPass d.id (freeSlot d gg)) d.id

def faultDrain (t : Clk) (g base : Nat) (d : Drain) (reason : Byte) (addr : Nat) (m : Mod) : Mod :=
  faultTask t d.task fTask reason (BitVec.ofNat 64 addr) (BitVec.ofNat 64 d.idx) false (abandonDrain g base d m)

/-- A tile to add into: FP32, of the gang's shape and the drain's ORDER (R323). -/
def addTileErr (m : Mod) (g : Nat) (gg : Gang) (d : Drain) (off : Nat) : Option Byte :=
  let h := readHdr (padRead m g off 64)
  let (rb, cb) := shapeDims gg.shape
  if ¬ hdrOk h (some (off / 256)) then some 0x60
  else if h.fmt ≠ 0x10 ∨ h.rows32 ≠ rb ∨ h.cols32 ≠ cb ∨ h.order ≠ d.cols ∨ h.skip then some 0x61
  else none

/-- The drain with one more row counted. -/
def countRow (a : Nat) (x : RowOut) (d : Drain) : Drain :=
  { d with
    rows := sset 0 d.rows a (sget 0 d.rows a + 1)
    maxExp := match d.maxExp, maxExpOf x.vals with
      | some e, some f => some (max e f)
      | none, f => f
      | e, none => e
    nf := d.nf + (x.vals.filter fun v => !isFinite v).length
    ovf := d.ovf || x.ovf }

def modDrain (d : Drain) (f : Drain → Drain) (gg : Gang) : Gang :=
  { gg with drains := gg.drains.map fun x => if x.id = d.id ∧ x.slot = d.slot then f x else x }

/-- After the last row of every Asterism: the header, then the slot is free or the conversion of
the CW tile begins. DRAIN_OVF of the tile of a split reduction is that of its last drain-add, or of its conversion:
R314 gathers SAT and REPLAYS over the passes and says nothing of DRAIN_OVF (DESIGN CHOICE, log 65). -/
def endDrain (t : Clk) (g : Nat) (gg : Gang) (d : Drain) (m : Mod) : Mod :=
  match putPieces t g d (drainTarget d).1 m (headerPieces m g gg d) with
  | (m1, some e) => faultAccess t d.task e (abandonDrain g gg.base d m1)
  | (m1, none) =>
    if d.cw.isSome ∧ ¬ d.conv then
      modGang m1 g gg.base (modDrain d fun x => { x with conv := true, rows := [], maxExp := none, nf := 0, ovf := false })
    else modGang m1 g gg.base (freeSlot d)

/-- Whether the bytes a row would write, with the last one those of the header and of the zero fill, are free of
pins. -/
def rowAccepted (m : Mod) (g : Nat) (gg : Gang) (d : Drain) (dest : DrainTo) (ps : List (Nat × List Byte)) (last : Bool) : Bool :=
  ps.all (fun x => accepts m g d dest x.1 x.2.length)
    && (!last || (headerPieces m g gg d).all fun x => x.2.isEmpty || accepts m g d dest x.1 x.2.length)

/-- Poison under a tile added into or converted. -/
def rowPoison (m : Mod) (g : Nat) (gg : Gang) (d : Drain) (a r : Nat) : Option Nat :=
  let (o, i0) := rowPlace gg d a r
  let at_ := fun (off : Nat) =>
    let x := off + 64 + 4 * (o * drainInner gg d + i0)
    if padPoison m g x 128 then some x else none
  match (drainTarget d).1, d.conv, d.cw with
  | .add off, _, _ => at_ off
  | _, true, some off => at_ off
  | _, _, _ => none

/-- One drain row of an Asterism to memory (R94 to R98). The tile that a later part of a split reduction adds into is
that of its own earlier parts, whose header the last Asterism may have still to write (R59, R97). -/
def memRow (t : Clk) (g : Nat) (gg : Gang) (d : Drain) (a : Nat) (m : Mod) : Mod :=
  let r := sget 0 d.rows a
  let (dest, _, sr) := drainTarget d
  let bad := match dest with
    | .add off => if d.rows.isEmpty ∧ d.done = 0 then (addTileErr m g gg d off).map fun e => (e, off) else none
    | _ => none
  match bad, rowPoison m g gg d a r with
  | some (e, off), _ => faultDrain t g gg.base d e off m
  | none, some x => faultPoison t d.task x (abandonDrain g gg.base d m)
  | none, none =>
    let x := rowOut m g gg d a r (if sr then some m.draw else none)
    let d' := countRow a x d
    let last := (members gg).all fun b => sget 0 d'.rows b == 32
    if ¬ rowAccepted m g gg d dest x.pieces last then m
    else match putPieces t g d dest (if sr then { m with draw := m.draw + 32 } else m) x.pieces with
      | (m1, some e) => faultAccess t d.task e (abandonDrain g gg.base d m1)
      | (m1, none) =>
        let m2 := modGang m1 g gg.base (modDrain d (countRow a x))
        if last then endDrain t g gg d' m2 else m2

end Sys2Proof.Machine
end

