-- ==== Sys2Proof/Machine/Memory.lean ====
section
/-! DEFINITION. Memory as its controllers serve it: reads and writes of any requester (R175, R176,
R568), reduce writes at a die-pool slice (R156 to R160, R583), arrivals at a region controller
(R189 to R193). -/

namespace Sys2Proof.Machine

/-! ## Requesters -/

/-- The run that a DMA queue serves first. -/
def frontRun (m : Mod) (g q : Nat) : Option Run := (dmaq (engine m g) q).runs.head?

def driverOwner (part : Option Nat) : Option Owner := part.map fun k => .driver k

/-- The command ring that a DMA run serves, and its task. -/
def runOwner (m : Mod) (g : Nat) (r : Option Run) : Option Owner × Option Nat :=
  match r with
  | some { task := some tk, .. } => (some (.task tk), some tk)
  | _ => (driverOwner (dieOwner m (g / 16)), none)

/-- An access as its requester makes it (R31, R478, R486). -/
def reqOf (m : Mod) (r : Requester) : Req :=
  match r with
  | .host f => { who := r, part := if f.val = 0 then none else some (f.val - 1), phys := true, owner := none }
  | .task e c => { who := r, part := some (ctx m e.val c.val).part, phys := false, owner := some (.task (taskId e.val c.val)), task := some (taskId e.val c.val) }
  | .dmaq e q =>
    let o := runOwner m e.val (frontRun m e.val q.val)
    { who := r, part := dieOwner m (e.val / 16), phys := false, owner := o.1, task := o.2 }
  | .cmd sq _ => { who := r, part := ringPart m sq.val, phys := sqModuleRing m sq.val, owner := driverOwner (ringPart m sq.val) }
  | .core g => { who := r, part := dieOwner m (g.val / 4), phys := false, owner := none }
  | .media d => { who := r, part := mediaPart m d.val, phys := false, owner := some (.media d.val) }
  | .gather d =>
    let sq := (sget {} m.gather d.val).sq
    { who := r, part := ringPart m sq, phys := sqModuleRing m sq, owner := some (.gather d.val) }
  | .link p => { who := r, part := some (portPart m p.val), phys := false, owner := none }

def modGather (m : Mod) (d : Nat) (f : Gather → Gather) : Mod := { m with gather := smod {} m.gather d f }

/-- One failure of a gather run at an address (R202, R501). -/
def gatherFail (d a : Nat) (m : Mod) : Mod :=
  modGather m d fun x => { x with
    failures := x.failures + 1
    failing := if x.failing.length < 16 then x.failing ++ [BitVec.ofNat 64 a] else x.failing }

/-- The slot whose stream a media die's access serves: the row names none, and the first with an open stream counts
(DESIGN CHOICE, log 69). -/
def mediaSlot (m : Mod) (d : Nat) : Nat :=
  (((mdie m d).slots.find? fun z => z.2.st == .opn || z.2.st == .paused || z.2.st == .draining).map (·.1)).getD 0

/-- The error response of R568 to an access of n bytes: a core's is an exception to its own software, a media die drops what
it was landing or sampling and counts it, an arriving packet is dropped where it is received. -/
def errorResponse (t : Clk) (r : Requester) (wr : Bool) (n : Nat) (e : XErr) (m : Mod) : Mod :=
  match r with
  | .host f => emit (if wr then .aerUR f.val else .readUR f.val) m
  | .task g c => faultAccess t (taskId g.val c.val) e m
  | .dmaq g q => faultIssuer t (runIssuer (frontRun m g.val q.val)) e.reason g.val m
  | .cmd sq tag => faultCmd m sq.val tag.toNat logHN e.reason
  | .gather d => modGather m d.val fun x => { x with stop := x.stop <|> some e.reason }
  | .core g => emit (.coreFault g.val e.addr wr) m
  | .media d => modStrm m d.val (mediaSlot m d.val) fun x =>
      if wr then { x with bytesDropped := satAdd 0xFFFFFFFFFFFFFFFF x.bytesDropped n } else { x with smpDropped := satAdd 0xFFFFFFFF x.smpDropped 1 }
  | .link _ => m

/-! ## Reads and writes -/

def eccBad : Ecc → Bool
  | .uncorrectable _ => true
  | .tampered => true
  | _ => false

/-- Whether verification finds a failure in a line read: a tag that does not match, or what ECC cannot correct (R202). -/
def verifyFails (m : Mod) (rq : Req) (a n : Nat) (ecc : Ecc) : Bool :=
  (spans a n).any fun s => match spanCheck m rq false s.1 with
    | .ok (p, _) => tagBad m p ecc || (eccBad ecc && !(lineOf m (cellAddr p / 256)).marked)
    | .error _ => false

/-- MEMORY_READ: the bytes go to the requester; a gather engine counts what verification finds. -/
def memoryRead (r : Requester) (a n : Nat) (ecc : Ecc) (t : Clk) (m : Mod) : Mod :=
  let rq := reqOf m r
  if accessWaits m rq false a n then m else
  match readMem t m rq a n ecc with
  | (m1, .error e) => errorResponse t r false n e m1
  | (m1, .ok (bs, bad)) =>
    let m2 := fillPages m1 rq false a n
    match r with
    | .host f => emit (.readData f.val bs bad) m2
    | .gather d => if verifyFails m rq a n ecc then gatherFail d.val a m2 else m2
    | _ => m2

/-- Whether some byte of a write is pinned in a scratchpad: the write is held (R136). -/
def writeHeld (m : Mod) (rq : Req) (a n : Nat) : Bool :=
  (spans a n).any fun s => match spanCheck m rq true s.1 with
    | .ok (p, _) => pinnedAt m p s.2
    | .error _ => false

def memoryWrite (r : Requester) (a : Nat) (data : List Byte) (poisoned : Bool) (ecc : Ecc) (t : Clk) (m : Mod) : Mod :=
  let rq := reqOf m r
  if writeHeld m rq a data.length ∨ accessWaits m rq true a data.length then m else
  match writeMem t m rq a data poisoned ecc with
  | (m1, some e) => errorResponse t r true data.length e m1
  | (m1, none) => fillPages m1 rq true a data.length

/-! ## Reduce writes -/

def word32At (bs : List Byte) (i : Nat) : W32 := BitVec.ofNat 32 (fld bs (4 * i) 4)
def addF32 (old new : List Byte) : List Byte :=
  (List.range 64).flatMap fun i => toLe 4 (fadd (word32At old i) (word32At new i)).toNat
def addB16 (old new : List Byte) : List Byte :=
  (List.range 128).flatMap fun i => toLe 2 (toB16 (addVal (b16 (fld old (2 * i) 2)) (b16 (fld new (2 * i) 2))))
/-- 256 counters with an addend each, saturating at 65,535; whether one got there (R158). -/
def addCounters (old : List Byte) (add : Nat → Nat) : List Byte × Bool :=
  let cs := (List.range 256).map fun i => min 65535 (fld old (2 * i) 2 + add i)
  (cs.flatMap fun c => toLe 2 c, (List.range 256).any fun i => decide (add i ≠ 0) && cs[i]? == some 65535)

/-- The addend of counter i under SIGNCNT: a sign bit, or an 8-bit count. -/
def signAddend (counts : Bool) (payload : List Byte) (i : Nat) : Nat :=
  if counts then fld payload i 1 else b2n (bit (fld payload (i / 8) 1) (i % 8))

def sectorsBad (m : Mod) (a n : Nat) : Bool := (chunks 64 (n / 64 + 2) a n).any fun c => sget false m.mem.poison (c.1 / 64)
def poisonLines (m : Mod) (a n : Nat) : Mod :=
  (chunks 64 (n / 64 + 2) a n).foldl (fun m c => { m with mem := { m.mem with poison := sset false m.mem.poison (c.1 / 64) true } }) m

/-- Bytes of a die-pool line replaced by a sum; a poisoned payload or line leaves it poisoned
(R583). -/
def putSum (a : Nat) (bs : List Byte) (poisoned : Bool) (m : Mod) : Mod :=
  let bad := poisoned || sectorsBad m (a / 256 * 256) (roundUp bs.length 256)
  let m1 := { m with mem := pokes m.mem a bs }
  if bad then poisonLines m1 (a / 256 * 256) (roundUp bs.length 256) else m1

/-- What a reduce write did beside its sums: a counter at its top, the indices of the pairs discarded. -/
structure ReduceOut where
  sat : Bool
  past : List Nat
  deriving DecidableEq, Repr

/-- The address of byte k of a destination. -/
def pieceAddr (ps : List (Nat × Nat × Nat)) (k : Nat) : Nat :=
  match ps.find? fun p => decide (p.1 ≤ k) && decide (k < p.1 + p.2.2) with
  | some p => p.2.1 + (k - p.1)
  | none => k

/-- A destination of one piece. -/
def onePiece (a n : Nat) : List (Nat × Nat × Nat) := [(0, a, n)]

/-- The index and value of each pair of a MERGE payload (R157). -/
def pairsOf (payload : List Byte) : List (Nat × W32) :=
  (List.range (payload.length / 8)).map fun i => (fld payload (8 * i) 4, word32At payload (2 * i + 1))

/-- One reduce write at a destination in the die pool: 1 ADD.F32, 2 ADD.BF16, 3 MERGE over n elements, 4 and 5
SIGNCNT (R156 to R158). -/
def reduceAt (ps : List (Nat × Nat × Nat)) (op n : Nat) (payload : List Byte) (poisoned : Bool) (m : Mod) : Mod × ReduceOut :=
  let a := pieceAddr ps 0
  match op with
  | 1 => (putSum a (addF32 (peeks m.mem a 256) payload) poisoned m, ⟨false, []⟩)
  | 2 => (putSum a (addB16 (peeks m.mem a 256) payload) poisoned m, ⟨false, []⟩)
  | 3 => (pairsOf payload).foldl (fun acc p =>
      if p.1 < n then
        let x := pieceAddr ps (4 * p.1)
        (putSum x (toLe 4 (fadd (BitVec.ofNat 32 (leNat (peeks acc.1.mem x 4))) p.2).toNat) poisoned acc.1, acc.2)
      else (acc.1, { acc.2 with past := acc.2.past ++ [p.1] })) (m, ⟨false, []⟩)
  | _ =>
    let b := pieceAddr ps 256
    let r := addCounters (peeks m.mem a 256 ++ peeks m.mem b 256) (signAddend (op == 5) payload)
    (putSum b (r.1.drop 256) poisoned (putSum a (r.1.take 256) poisoned m), ⟨r.2, []⟩)

/-- The bytes of the destination. -/
def reduceSpan (op n : Nat) : Nat := if op = 3 then 4 * n else if op ≥ 4 then 512 else 256

/-- The pieces of a range where its addresses lead, when all are die-pool bytes. -/
def poolPieces (m : Mod) (rq : Req) (a n : Nat) : Except XErr (List (Nat × Nat × Nat)) :=
  (spans a n).foldl (fun acc s => match acc, spanCheck m rq true s.1 with
    | .error e, _ => .error e
    | .ok _, .error e => .error e
    | .ok l, .ok (.pool d off, _) => .ok (l ++ [(s.1 - a, poolAddr d off, s.2)])
    | .ok _, .ok _ => .error (acc6B a (!rq.phys))) (.ok [])

/-- The die-pool destination of a reduce write: within one slice, a line at a 256-byte boundary, an array at a 4-byte
one; any other gets an error response (R156). R157 states no alignment of an array's base: that one which is no multiple of
an element is refused is a DESIGN CHOICE (log 68). The manual bounds MERGE alone to one slice; the 512 bytes of
SIGNCNT are held to it too (DEDUCED: the destination is in a die-pool slice; log 68). -/
def reducePlace (m : Mod) (rq : Req) (op a n : Nat) : Except XErr (List (Nat × Nat × Nat)) :=
  if reduceSpan op n > 0x400000 then .error (acc6B a (!rq.phys)) else
  match poolPieces m rq a (max 1 (reduceSpan op n)) with
  | .error e => .error e
  | .ok ps =>
    let x := pieceAddr ps 0
    if ps.all (fun p => p.2.1 / 0x400000 == x / 0x400000) ∧ x % (if op = 3 then 4 else 256) = 0 then .ok ps
    else .error (acc6B a (!rq.phys))

/-- The SAT bit of the completion of what issued a reduce write: its program's, or its command's (R158). -/
def markSat (r : Requester) (m : Mod) : Mod :=
  let prog := fun (tk : Nat) => modProg m (ctx m (tk / 4) (tk % 4)).part fun p => { p with sat := true }
  let cmd := fun (sq tag : Nat) => modCmd m sq tag fun c => { c with sat := true }
  match r with
  | .task e c => prog (taskId e.val c.val)
  | .dmaq e q => match frontRun m e.val q.val with
    | some { task := some tk, .. } => prog tk
    | some { cmd := some (sq, tag), .. } => cmd sq tag
    | _ => m
  | .cmd sq tag => cmd sq.val tag.toNat
  | _ => m

/-- The pairs of one write of an array of n that are discarded: each logged, with type ACCESS and reason 0x6B at its
issuer's unit, and its issuer ends with FAULT (R157 gives neither type nor reason: DESIGN CHOICE, log 68). -/
def discardPairs (t : Clk) (n : Nat) (w : Requester × Nat × List Byte) (m : Mod) : Mod :=
  let rq := reqOf m w.1
  let bad := (pairsOf w.2.2).filter fun p => decide (p.1 ≥ n)
  let m1 := bad.foldl (fun m p => logErr t rq (acc6B (w.2.1 + 4 * p.1) (!rq.phys)) m) m
  match bad with
  | [] => m
  | p :: _ => errorResponse t w.1 true 4 (acc6B (w.2.1 + 4 * p.1) (!rq.phys)) m1

/-- The slice applies a reduce write, alone or combined, and acknowledges each write in it (R160, R164). -/
def applyReduce (t : Clk) (w : RWrite) (m : Mod) : Mod :=
  let (m1, o) := reduceAt w.pieces w.op w.n w.payload w.poisoned m
  let m2 := if o.sat then w.who.foldl (fun m x => markSat x.1 m) m1 else m1
  if w.op = 3 then w.who.foldl (fun m x => discardPairs t w.n x m) m2 else m2

/-! ### Two reduce writes that meet in a router (R159) -/

/-- Two lists of pairs in index order, the values of equal indices added. -/
def mergePairs : Nat → List (Nat × W32) → List (Nat × W32) → List (Nat × W32)
  | 0, xs, ys => xs ++ ys
  | fuel + 1, xs, ys => match xs, ys with
    | [], ys => ys
    | xs, [] => xs
    | x :: xs, y :: ys =>
      if x.1 = y.1 then (x.1, fadd x.2 y.2) :: mergePairs fuel xs ys
      else if x.1 < y.1 then x :: mergePairs fuel xs (y :: ys)
      else y :: mergePairs fuel (x :: xs) ys

def mergeBytes (l : List (Nat × W32)) : List Byte := l.flatMap fun p => toLe 4 p.1 ++ toLe 4 p.2.toNat

/-- The operation and payload of two writes of one operation combined; none where both go on uncombined: over 32
pairs, or a count over 255. -/
def combinePayload (opX : Nat) (x : List Byte) (opY : Nat) (y : List Byte) : Option (Nat × List Byte) :=
  match opX with
  | 1 => if opY = 1 then some (1, addF32 x y) else none
  | 2 => if opY = 2 then some (2, addB16 x y) else none
  | 3 =>
    let l := mergePairs (x.length + y.length) (pairsOf x) (pairsOf y)
    if opY = 3 ∧ l.length ≤ 32 then some (3, mergeBytes l) else none
  | _ =>
    let cs := (List.range 256).map fun i => signAddend (opX == 5) x i + signAddend (opY == 5) y i
    if opY ≥ 4 ∧ cs.all (fun c => decide (c ≤ 255)) then some (5, cs.map fun c => BitVec.ofNat 8 c) else none

/-- The same operation on the same line, or on the same array. -/
def sameDest (x y : RWrite) : Bool := (x.op == y.op || decide (x.op ≥ 4 ∧ y.op ≥ 4)) && x.pieces == y.pieces && x.n == y.n

def combineWrites (x y : RWrite) : Option RWrite :=
  if ¬ sameDest x y then none else
  (combinePayload x.op x.payload y.op y.payload).map fun r =>
    { x with op := r.1, payload := r.2, poisoned := x.poisoned || y.poisoned, who := x.who ++ y.who }

/-- A reduce write as it enters the routers: none for a plain write and one that is refused. -/
def reduceOf (m : Mod) (r : Requester) (op a n : Nat) (payload : List Byte) (poisoned : Bool) : Option RWrite :=
  if op = 0 ∨ op > 5 then none else
  match reducePlace m (reqOf m r) op a n with
  | .error _ => none
  | .ok ps => some { op := op, pieces := ps, n := n, payload := payload, poisoned := poisoned, who := [(r, a, payload)] }

/-- Whether the command behind a reduce write is one that it combines with. -/
def partnerNext (m : Mod) (w : RWrite) (next : Option Instr) : Bool :=
  match next with
  | some (.reduceWriteApply r op a n payload poisoned) =>
    (reduceOf m r op.toNat a n payload poisoned).any fun y => (combineWrites w y).isSome
  | _ => false

/-- The write that waits goes on to its slice. -/
def flushRouter (t : Clk) (m : Mod) : Mod :=
  match m.router with
  | none => m
  | some w => applyReduce t w { m with router := none }

/-- A reduce write at a router: combined with the one that waits there, or behind it; then it waits itself where its
next meets it (a free value, log 68), else its slice applies it. -/
def routeWrite (t : Clk) (w : RWrite) (next : Option Instr) (m : Mod) : Mod :=
  let (w1, m1) := match m.router.bind fun x => combineWrites x w with
    | some y => (y, { m with router := none })
    | none => (w, flushRouter t m)
  if partnerNext m1 w1 next then
    if Config.routersMeet m1.draw then { m1 with router := some w1, draw := m1.draw + 1 }
    else applyReduce t w1 { m1 with draw := m1.draw + 1 }
  else applyReduce t w1 m1

/-- REDUCE_WRITE_APPLY: operation 0 is a plain write (R160). -/
def reduceWrite (r : Requester) (op a n : Nat) (payload : List Byte) (poisoned : Bool) (next : Option Instr) (t : Clk) (m : Mod) : Mod :=
  if op = 0 ∨ op > 5 then memoryWrite r a payload poisoned .clean t (flushRouter t m) else
  let rq := reqOf m r
  match reducePlace m rq op a n with
  | .error e => let m1 := flushRouter t m; errorResponse t r true payload.length e (logErr t rq e m1)
  | .ok ps =>
    routeWrite t { op := op, pieces := ps, n := n, payload := payload, poisoned := poisoned, who := [(r, a, payload)] } next
      (fillPages m rq true a 1)

/-! ## Region operations -/

/-- The i-th waiting operation of a tier die, once its condition holds (R191 to R193). -/
def regionArrive (m : Mod) (d i : Nat) : Option RegReq :=
  match (sget [] m.regQ d)[i]? with
  | none => none
  | some q => if depsDone m q.deps then some q else none

def dropRegion (m : Mod) (d id : Nat) : Mod := { m with regQ := smod [] m.regQ d fun q => q.filter fun x => x.id != id }

/-- The result of an operation: the region table, then the counter or command it serves. -/
def regionApply (d : Nat) (q : RegReq) (t : Clk) (m : Mod) : Mod :=
  let m1 := dropRegion m d q.id
  match regionStep t m d q with
  | .error e => regionRefused t m1 d q e
  | .ok (entry, r) => regionCmd t (regionResult (setRegion m1 d entry r) d entry q) d entry q

/-! ## The rows -/

def execMemoryRead (r : Requester) (addr len : Nat) (_hint : Fin 4) (ecc : Ecc) (s : State) : Host.Outcome State Fault Refusal :=
  onEng (memoryRead r addr len ecc) s
def execMemoryWrite (r : Requester) (addr : Nat) (data : List Byte) (poisoned : Bool) (ecc : Ecc) (s : State) :
    Host.Outcome State Fault Refusal :=
  onEng (memoryWrite r addr data poisoned ecc) s
def execReduceWriteApply (r : Requester) (op : Byte) (addr n : Nat) (payload : List Byte) (poisoned : Bool) (s : State) :
    Host.Outcome State Fault Refusal :=
  onEng (reduceWrite r op.toNat addr n payload poisoned s.pending.head?) s

end Sys2Proof.Machine
end

