-- ==== Sys2Proof/Machine/Real.lean ====
section
/-! DEFINITION. The real functions of the vector unit (R115, R119, R124 to R126) to 240 bits, and the results that
the manual's bounds leave: the free value where it keeps its bound, else the exact value rounded once. -/

namespace Sys2Proof.Machine

/-! ## Fixed point: units of 2^−256 -/

def fxOne : Int := 2 ^ 256
def fxMul (a b : Int) : Int := a * b / fxOne
def fxDiv (a b : Int) : Int := a * fxOne / b

/-- A finite value of moderate size. -/
def fxOf : Val → Int
  | .fin s m e => signedMag s (if e + 256 < 0 then m / 2 ^ (-(e + 256)).toNat else shl m (e + 256))
  | _ => 0

/-- A value that is not exactly its 257-bit truncation: the last bit is sticky. -/
def stickyVal (x k : Int) : Val := .fin (decide (x < 0)) (2 * x.natAbs + 1) (k - 257)

/-- The square root of n, from bit i − 1 downwards, above what r holds. -/
def rootFrom (n : Nat) : Nat → Nat → Nat
  | 0, r => r
  | i + 1, r => rootFrom n i (if (r + 2 ^ i) * (r + 2 ^ i) ≤ n then r + 2 ^ i else r)

def natRoot (n : Nat) : Nat := rootFrom n (Nat.log2 n / 2 + 1) 0
def fxRoot (x : Int) : Int := natRoot (x.toNat * 2 ^ 256)

/-- The sum of p, p·q, p·q·q' …, each term the one before times x over i with i rising by d. -/
def expTerms (x : Int) : Nat → Int → Int → Int
  | 0, _, _ => 0
  | n + 1, i, p => p + expTerms x n (i + 1) (fxMul p x / i)

/-- e^x for 0 ≤ x < 1. -/
def fxExp01 (x : Int) : Int := expTerms x 80 1 fxOne

/-- The odd series z + s·z³/3 + z⁵/5 …: of atanh for s = 1, of atan for s = −1. -/
def oddTerms (s z2 : Int) : Nat → Int → Int → Int
  | 0, _, _ => 0
  | n + 1, i, p => p / i + oddTerms s z2 n (i + 2) (s * fxMul p z2)

/-- log x for 1 ≤ x ≤ 2. -/
def fxLog12 (x : Int) : Int :=
  let z := fxDiv (x - fxOne) (x + fxOne)
  2 * oddTerms 1 (fxMul z z) 90 1 z

def fxLn2 : Int := fxLog12 (2 * fxOne)

/-- log of mag × 2^e. -/
def fxLog (mag : Nat) (e : Int) : Int :=
  let n := Nat.log2 mag
  fxLog12 (fxDiv mag (2 ^ n : Nat)) + (e + n) * fxLn2

/-- log of a positive fixed-point number. -/
def fxLogOf (x : Int) : Int := fxLog x.toNat (-256)

/-- e^x as a fraction and a power of two. -/
def fxExpParts (x : Int) : Int × Int :=
  let k := x / fxLn2
  (fxExp01 (x - k * fxLn2), k)

def fxExp (x : Int) : Int :=
  let (m, k) := fxExpParts x
  if k < 0 then m / 2 ^ (-k).toNat else m * 2 ^ k.toNat

/-- π, by Machin's formula. -/
def fxPi : Int :=
  let inv := fun (n : Int) => oddTerms (-1) (fxOne / (n * n)) 120 1 (fxOne / n)
  16 * inv 5 - 4 * inv 239

/-- The sum of x, x·y/3, x·y²/(3·5) …. -/
def erfTerms (y : Int) : Nat → Int → Int → Int
  | 0, _, _ => 0
  | n + 1, i, p => p + erfTerms y n (i + 2) (fxMul p y / i)

/-- erf x for |x| ≤ 12. -/
def fxErf (x : Int) : Int :=
  let a := if x < 0 then -x else x
  let s := erfTerms (2 * fxMul a a) 700 3 a
  let v := fxDiv (2 * fxMul s (fxExp (-(fxMul a a)))) (fxRoot fxPi)
  if x < 0 then -v else v

/-- 1 / (1 + e^(−x)) for |x| ≤ 400. -/
def fxSigmoid (x : Int) : Int :=
  if x < 0 then
    let e := fxExp x
    fxDiv e (fxOne + e)
  else fxDiv fxOne (fxOne + fxExp (-x))

/-! ## The functions of R115 -/

/-- A positive value below every FP32 number. -/
def tinyVal (neg : Bool) : Val := .fin neg 1 (-400)
/-- A finite value above every FP32 number. -/
def hugeVal (neg : Bool) : Val := .fin neg 1 400

def absAbove (v : Val) (n : Nat) : Bool := ltVal (.fin false n 0) (absVal v)

/-- e^x, x taken as a multiple of `unit`: e for exp, 2 for exp2. -/
def expVal (v : Val) (ln : Int) : Val :=
  if absAbove v 400 then (if isNeg v then tinyVal false else hugeVal false)
  else
    let (m, k) := fxExpParts (fxMul (fxOf v) ln)
    stickyVal m k

/-- The exponent of a power of two. -/
def powerOf2 (mag : Nat) (e : Int) : Option Int := if mag = 2 ^ Nat.log2 mag then some (e + Nat.log2 mag) else none

/-- A whole number as a value. -/
def intVal (n : Int) : Val := .fin (decide (n < 0)) n.natAbs 0

def isWhole : Val → Option Int
  | .fin s m e => if e ≥ 0 then some (signedMag s (shl m e)) else if m % 2 ^ (-e).toNat = 0 then some (signedMag s (m / 2 ^ (-e).toNat)) else none
  | _ => none

/-- The square root of mag × 2^e, to at least 64 bits and a sticky bit. -/
def rootVal (mag : Nat) (e : Int) : Val :=
  let odd : Nat := (e % 2).toNat
  let x := mag * 2 ^ odd * 2 ^ 256
  let r := natRoot x
  .fin false (2 * r + if r * r = x then 0 else 1) ((e - odd) / 2 - 128 - 1)

/-- Function k of an ordinary input, rounded once in whatever format takes it. -/
def transExact (k : Nat) (v : Val) : Val :=
  match v with
  | .fin s m e => (match k with
    | 0 => expVal v fxOne
    | 1 => (match isWhole v with
      | some n => if absAbove v 400 then (if s then tinyVal false else hugeVal false) else .fin false 1 n
      | none => expVal v fxLn2)
    | 2 => if powerOf2 m e = some 0 then .fin false 0 0 else stickyVal (fxLog m e) 0
    | 3 => (match powerOf2 m e with
      | some n => intVal n
      | none => stickyVal (fxDiv (fxLog m e) fxLn2) 0)
    | 4 => divVal (.fin false 1 0) v
    | 5 => rootVal m e
    | 6 => divVal (.fin false 1 0) (rootVal m e)
    | 7 => if absAbove v 100 then .fin s (2 ^ 200 - 1) (-200) else
        let x := fxExp (2 * fxOf v)
        stickyVal (fxDiv (x - fxOne) (x + fxOne)) 0
    | 8 => if absAbove v 400 then (if s then tinyVal false else .fin false (2 ^ 200 - 1) (-200)) else stickyVal (fxSigmoid (fxOf v)) 0
    | 9 => if absAbove v 12 then .fin s (2 ^ 200 - 1) (-200) else stickyVal (fxErf (fxOf v)) 0
    | _ => if absAbove v 200 then (if s then tinyVal false else v) else stickyVal (fxLogOf (fxOne + fxExp (fxOf v))) 0)
  | v => v

/-- |a − b| ≤ n × 2^u. -/
def nearVal (a b : Val) (n : Nat) (u : Int) : Bool :=
  isFinite a && isFinite b && !ltVal (.fin false n u) (absVal (addVal a (negVal b)))

/-- The unit of the last place of FP32 at a value. -/
def ulp32 : Val → Int
  | .fin _ m e => if m = 0 then -149 else max (-149) (log2v m e - 23)
  | _ => 0

/-- The FP32 result of a function that the manual bounds to 2 units of the last place: a value of its choice within
the bound (R115). -/
def nearest2 (exact : Val) (free : W32) : W32 :=
  if nearVal (f32 free) exact 2 (ulp32 exact) then free else toF32 exact

def trans32 (k : Nat) (w : W32) : W32 :=
  match transSpecial k (f32 w) with
  | some v => toF32 v
  | none => nearest2 (transExact k (f32 w)) (Config.transc k w)

/-- The BF16 result: correctly rounded (R115). -/
def transB16 (k : Nat) (w : Nat) : Nat :=
  match transSpecial k (b16 w) with
  | some v => toB16 v
  | none => toB16 (transExact k (b16 w))

/-! ## β^t (R119) -/

/-- A magnitude cut to its leading 256 bits. -/
def cutMag (m : Nat) (e : Int) : Nat × Int :=
  let n := Nat.log2 m
  if n ≤ 256 then (m, e) else (m / 2 ^ (n - 256), e + (n - 256 : Nat))

/-- m × 2^e to the power t, by squaring from the top bit down. -/
def powFrom (m : Nat) (e : Int) (t : Nat) : Nat → Nat × Int
  | 0 => (1, 0)
  | n + 1 =>
    let (a, x) := powFrom m e t n
    let (b, y) := cutMag (a * a) (x + x)
    if t / 2 ^ (31 - n) % 2 = 1 then cutMag (b * m) (y + e) else (b, y)

/-- β^t, rounded once to FP32 (DEDUCED: R119 computes in FP32 and gives the power no steps; log 11). -/
def fpow (b t : W32) : W32 :=
  match f32 b with
  | .nan => fnan
  | .inf s => toF32 (.inf (s && t.toNat % 2 == 1))
  | .fin s m e => if m = 0 then toF32 (.fin (s && t.toNat % 2 == 1) 0 0) else
    let (a, x) := powFrom m e t.toNat 32
    toF32 (.fin (s && t.toNat % 2 == 1) a x)

/-! ## GELU and SiLU (R124 to R126)

Each is x × g(x) with g between 0 and 1: Φ for the erf form, and σ of an odd polynomial of x for the tanh form and
for SiLU. The manual names the tanh form and not its constants, √(2/π) and 0.044715 (PRESUMED, log 10). -/

/-- Φ(x) and its derivative, |x| ≤ 16. -/
def fxPhi (x : Int) : Int × Int :=
  let r2 := fxRoot (2 * fxOne)
  ((fxOne + fxErf (fxDiv x r2)) / 2, fxDiv (fxExp (-(fxMul x x / 2))) (fxMul r2 (fxRoot fxPi)))

/-- The argument of σ and its derivative. -/
def fxInner (ext : Nat) (x : Int) : Int × Int :=
  if ext = 5 then
    let c := 2 * fxRoot (fxDiv (2 * fxOne) fxPi)
    let q := 44715 * fxOne / 1000000
    let x2 := fxMul x x
    (fxMul c (x + fxMul q (fxMul x2 x)), fxMul c (fxOne + 3 * fxMul q x2))
  else (x, fxOne)

/-- g(x) and g′(x). -/
def fxGate (ext : Nat) (x : Int) : Int × Int :=
  if ext = 4 then fxPhi x
  else
    let (v, d) := fxInner ext x
    let s := fxSigmoid v
    (s, fxMul (fxMul s (fxOne - s)) d)

/-- f(x) = x × g(x), and f′(x) = g(x) + x × g′(x), for |x| ≤ 16. -/
def fxAct (ext : Nat) (x : Int) : Int := fxMul x (fxGate ext x).1
def fxActD (ext : Nat) (x : Int) : Int := (fxGate ext x).1 + fxMul x (fxGate ext x).2

/-- Beyond ±bound the function is x, or 0, to more than FP32 shows: 16 for GELU, 200 for SiLU. -/
def actBound (ext : Nat) : Nat := if ext = 6 then 200 else 16

/-- f of a finite value. -/
def actExact (ext : Nat) (v : Val) : Val :=
  if isZero v then v
  else if absAbove v (actBound ext) then (if isNeg v then tinyVal true else v)
  else stickyVal (fxAct ext (fxOf v)) 0

/-- Whether x lies at or above the minimum of f: f′ is not negative there. Between −0.7 and −1.3 the sign is that of
f′; the manual gives x* of the erf form and of SiLU to five digits. -/
def atOrAbove (ext : Nat) (v : Val) : Bool :=
  if ltVal v (.fin true 13 (-3)) then false
  else if ltVal (.fin true 5 (-3)) v then true
  else decide (0 ≤ fxActD ext (fxOf v))

/-- The place between lo and hi where a rising test turns true, halved n times. -/
def bisect (test : Int → Bool) : Nat → Int → Int → Int
  | 0, lo, _ => lo
  | n + 1, lo, hi =>
    let mid := (lo + hi) / 2
    if test mid then bisect test n lo mid else bisect test n mid hi

/-- The input of the minimum of f. -/
def minAt (ext : Nat) : Int := bisect (fun x => decide (0 ≤ fxActD ext x)) 250 (-2 * fxOne) (-fxOne / 2)

/-- x′ on the branch of the bit with f(x′) = y (R126). -/
def recoverX (ext : Nat) (y : Int) (right : Bool) : Int :=
  let b : Int := actBound ext * fxOne
  if right then bisect (fun x => decide (y ≤ fxAct ext x)) 260 (minAt ext) (max y 0 + fxOne)
  else bisect (fun x => decide (fxAct ext x ≤ y)) 260 (-b) (minAt ext)

/-- f′(x′) on the branch for a stored y, none where the manual states no input: a NaN, or a y above 0 on the left. -/
def derivExact (ext : Nat) (y : Val) (right : Bool) : Option Val :=
  match y with
  | .nan => none
  | .inf neg => if neg then some (.fin false 0 0) else if right then some (.fin false 1 0) else none
  | .fin s m _ =>
    if m = 0 then some (if right then .fin false 1 (-1) else .fin false 0 0)
    else if ¬ s ∧ ¬ right then none
    else if ¬ s ∧ absAbove y (actBound ext - 1) then some (.fin false 1 0)
    else if absAbove y 1 ∧ s then some (.fin false 0 0)
    else
      let v := fxOf y
      if v ≤ fxAct ext (minAt ext) then some (.fin false 0 0)
      else some (stickyVal (fxActD ext (recoverX ext v right)) 0)

/-- f′ within 2^−12 of the exact derivative at x′ (R126). -/
def nearDeriv (ext : Nat) (y : Val) (right : Bool) (free : W32) : W32 :=
  match derivExact ext y right with
  | none => free
  | some d => if isZero d then 0 else if nearVal (f32 free) d 1 (-12) then free else toF32 d

end Sys2Proof.Machine
end

