-- ==== Sys2Proof/Machine/Vector.lean ====
section
/-! DEFINITION. The vector unit: its operands (R305, R328, R329), the arithmetic of each form (R111,
R115 to R126, R330 to R333), and the end of an instruction, which writes its results (R304). -/

namespace Sys2Proof.Machine

/-! ## Registers -/

def lane (e : Engine) (r i : Nat) : W32 := sget 0 e.vreg (256 * r + i)
def setLane (r i : Nat) (v : W32) (e : Engine) : Engine := { e with vreg := sset 0 e.vreg (256 * r + i) v }
/-- Element i of a register of packed BF16 values. -/
def half (e : Engine) (r i : Nat) : Nat := (lane e r (i / 2)).toNat / 65536 ^ (i % 2) % 65536
def setHalf (r i v : Nat) (e : Engine) : Engine :=
  let old := (lane e r (i / 2)).toNat
  let keep := if i % 2 = 0 then old / 65536 * 65536 else old % 65536
  setLane r (i / 2) (BitVec.ofNat 32 (keep + v % 65536 * 65536 ^ (i % 2))) e

/-! ## Operands -/

/-- The counter values a vector instruction takes at issue (R306). -/
def vectorArgs (m : Mod) (g c : Nat) (w : LviWord) : List Nat :=
  let v := fun (lo : Nat) => (cnt m g c (wf w lo 4)).toNat
  match wOp w with
  | 0x80 | 0x81 =>
    let b := wf w 54 5
    [(if b < 16 then (cnt m g c b).toNat else 0) + 64 * wf w 37 17]
  | 0x82 | 0x84 => [(cnt m g c (wf w 49 4)).toNat]
  | 0x83 => [v 60, v 56]
  | 0x85 => [v 55]
  | 0x86 => [v 60, v 56, v 52]
  | 0x87 => [v 60, v 56, v 52, v 48]
  | 0x88 => [v 60]
  | 0x89 => [v 60, v 56]
  | 0x8A => [v 60, v 56, v 52, v 48, v 44]
  | _ => [v 60, v 56, v 48]

def arg (as : List Nat) (i : Nat) : Nat := as[i]?.getD 0

/-- The UPDATE record (R330). -/
structure UpdRec where
  p : Nat
  g : Nat
  m : Nat
  v : Nat
  copy : Nat
  e : Nat
  n : Nat
  c : W32
  eta : W32
  b1 : W32
  b2 : W32
  eps : W32
  lambda : W32
  t : W32
  flags : Nat
  deriving DecidableEq, Repr

def readUpd (b : List Byte) : UpdRec where
  p := fld b 0 4
  g := fld b 4 4
  m := fld b 8 4
  v := fld b 0xC 4
  copy := fld b 0x10 4
  e := fld b 0x14 4
  n := fld b 0x18 4
  c := BitVec.ofNat 32 (fld b 0x1C 4)
  eta := BitVec.ofNat 32 (fld b 0x20 4)
  b1 := BitVec.ofNat 32 (fld b 0x24 4)
  b2 := BitVec.ofNat 32 (fld b 0x28 4)
  eps := BitVec.ofNat 32 (fld b 0x2C 4)
  lambda := BitVec.ofNat 32 (fld b 0x30 4)
  t := BitVec.ofNat 32 (fld b 0x34 4)
  flags := fld b 0x38 4

def updBf16 (u : UpdRec) : Bool := bit u.flags 0
def updCopy (u : UpdRec) : Bool := bit u.flags 1
def updSr (u : UpdRec) : Bool := bit u.flags 2
def updFmt (u : UpdRec) : Nat := bits u.flags 4 4
def momentSize (u : UpdRec) : Nat := if updBf16 u then 2 else 4
def copyLen (u : UpdRec) : Nat := if isMx (updFmt u) then u.e + u.e / 32 else u.e * fmtBits (updFmt u) / 8

/-- The rules of the record's table: reserved bits, the copy's format, E for an MX copy, TSTEP. -/
def updErr (u : UpdRec) : Option Byte :=
  if bit u.flags 3 ∨ u.flags ≥ 256 then some 0x82
  else if u.t = 0 then some 0x88
  else if updCopy u ∧ ¬ (updFmt u = 1 ∨ (3 ≤ updFmt u ∧ updFmt u ≤ 6)) then some 0x88
  else if updCopy u ∧ isMx (updFmt u) ∧ u.e % 32 ≠ 0 then some 0x88
  else none

def readUpdAt (m : Mod) (g off : Nat) : UpdRec := readUpd (padRead m g off 64)
def headAt (m : Mod) (g off : Nat) : Hdr := readHdr (padRead m g off 64)

/-- Tile operands read and whether their format must be FP32 or BF16 (R329). -/
def tileReads (w : LviWord) (as : List Nat) : List (Nat × Bool) :=
  match wOp w with
  | 0x83 => [(arg as 0, false)]
  | 0x85 => [(arg as 0, true)]
  | 0x86 => [(arg as 0, true)]
  | 0x87 => [(arg as 0, true), (arg as 1, true)]
  | 0x89 => [(arg as 0, true)]
  | 0x8A => [(arg as 0, true)]
  | 0x8B => [(arg as 0, true)]
  | _ => []

/-- Other ranges read: a bit plane, a histogram, a record and its arrays. -/
def otherReads (m : Mod) (g : Nat) (w : LviWord) (as : List Nat) : List (Nat × Nat) :=
  match wOp w with
  | 0x80 => [(arg as 0, 1024)]
  | 0x87 => if wb w 47 then [(arg as 3, 64 + elemN (headAt m g (arg as 0)) / 8)] else []
  | 0x88 =>
    let u := readUpdAt m g (arg as 0)
    [(arg as 0, 64), (u.p, 4 * u.e), (u.g, 4 * u.e), (u.m, momentSize u * u.e), (u.v, momentSize u * u.e)]
  | 0x89 => if wExt w = 1 then [(arg as 1, 4160)] else []
  | 0x8A => [(arg as 1, 4160)]
  | _ => []

/-- A tile of a format and the shape of another one: its whole extent. -/
def likeExtent (h : Hdr) (fmt : Nat) : Nat :=
  roundUp (64 + elemN h * fmtBits fmt / 8 + (if isMx fmt then elemN h / 32 else 0)) 256

/-- Ranges written. -/
def vectorWrites (m : Mod) (g : Nat) (w : LviWord) (as : List Nat) : List (Nat × Nat) :=
  let h := headAt m g (arg as 0)
  match wOp w with
  | 0x81 => [(arg as 0, 1024)]
  | 0x83 => [(arg as 1, likeExtent h (wExt w))]
  | 0x86 => (arg as 1, likeExtent h h.fmt) :: if wb w 51 then [(arg as 2, likeExtent h 0x20)] else []
  | 0x87 => [(arg as 2, likeExtent h h.fmt)]
  | 0x88 =>
    let u := readUpdAt m g (arg as 0)
    [(u.p, 4 * u.e), (u.m, momentSize u * u.e), (u.v, momentSize u * u.e), (arg as 0, 64)]
      ++ if updCopy u then [(u.copy, copyLen u)] else []
  | 0x89 => [(arg as 1, 4160)]
  | 0x8A => (arg as 3, roundUp (64 + 8 * min (arg as 2) (elemN h)) 256)
      :: if wb w 43 then [(arg as 4, likeExtent h h.fmt)] else []
  | 0x8B => (arg as 1, likeExtent h 0x20) :: if wb w 47 then [(arg as 2, likeExtent h h.fmt)] else []
  | _ => []

/-- The tile operands written, which must be aligned (R305). -/
def tileDests (w : LviWord) (as : List Nat) : List Nat :=
  match wOp w with
  | 0x83 => [arg as 1]
  | 0x86 => if wb w 51 then [arg as 1, arg as 2] else [arg as 1]
  | 0x87 => if wb w 47 then [arg as 2, arg as 3] else [arg as 2]
  | 0x8A => if wb w 43 then [arg as 3, arg as 4] else [arg as 3]
  | 0x8B => if wb w 47 then [arg as 1, arg as 2] else [arg as 1]
  | _ => []

/-- R186, R329 for a tile read; a header not yet landed is left to the datum miss. -/
def tileErr (m : Mod) (g : Nat) (x : Nat × Bool) : Option (Byte × Nat) :=
  if (padOperand 256 x.1 64).isSome then padOperand 256 x.1 64
  else if notLanded m g x.1 64 then none
  else
    let h := headAt m g x.1
    if ¬ hdrOk h (some (x.1 / 256)) then some (0x60, x.1)
    else if h.skip ∨ (if x.2 then h.fmt ≠ 1 ∧ h.fmt ≠ 0x10 else ¬ (1 ≤ h.fmt ∧ h.fmt ≤ 0x10)) then some (0x61, x.1)
    else padOperand 256 x.1 (tileEnd h)

def inPad (x : Nat × Nat) : Option (Byte × Nat) := padOperand 1 x.1 x.2

/-- Two tiles that must have one shape and ORDER. -/
def sameShape (a b : Hdr) : Bool := a.rows32 == b.rows32 && a.cols32 == b.cols32 && a.order == b.order

/-- ACT_BWD: the saved output, dY and the bit plane have one shape and ORDER, and dY the saved output's format. R329
writes dX in the source's format and does not say what two sources of two formats give: 0x61 is a DESIGN CHOICE
(log 64). -/
def bwdErr (m : Mod) (g : Nat) (w : LviWord) (as : List Nat) : Option (Byte × Nat) :=
  if wOp w ≠ 0x87 then none else
  let y := headAt m g (arg as 0)
  let d := headAt m g (arg as 1)
  let p := headAt m g (arg as 3)
  if notLanded m g (arg as 0) 64 || notLanded m g (arg as 1) 64 || (wb w 47 && notLanded m g (arg as 3) 64) then none
  else if ¬ sameShape y d ∨ y.fmt ≠ d.fmt then some (0x61, arg as 1)
  else if wb w 47 ∧ ¬ hdrOk p (some (arg as 3 / 256)) then some (0x60, arg as 3)
  else if wb w 47 ∧ (p.fmt ≠ 0x20 ∨ ¬ sameShape y p ∨ p.skip) then some (0x61, arg as 3)
  else none

/-- The record of UPDATE: its place, then its rules once it has landed. -/
def recordErr (m : Mod) (g : Nat) (w : LviWord) (as : List Nat) : Option (Byte × Nat) :=
  if wOp w ≠ 0x88 then none
  else if (padOperand 64 (arg as 0) 64).isSome then padOperand 64 (arg as 0) 64
  else if notLanded m g (arg as 0) 64 then none
  else (updErr (readUpdAt m g (arg as 0))).map fun r => (r, arg as 0)

/-- The bytes a vector instruction reads. -/
def vectorReads (m : Mod) (g : Nat) (w : LviWord) (as : List Nat) : List (Nat × Nat) :=
  (tileReads w as).flatMap (fun x => [(x.1, 64), (x.1, tileEnd (hdrAt m g x.1))]) ++ otherReads m g w as

/-- Whether a header or record that sizes the other operands has still to land. -/
def sizesPending (m : Mod) (g : Nat) (w : LviWord) (as : List Nat) : Bool :=
  (tileReads w as).any (fun x => notLanded m g x.1 64) || (wOp w == 0x88 && notLanded m g (arg as 0) 64)

/-- The headers and the record that a vector instruction reads before its data. -/
def vectorHeads (w : LviWord) (as : List Nat) : List Nat :=
  (tileReads w as).map (·.1) ++ (if wOp w = 0x88 then [arg as 0] else []) ++ (if wOp w = 0x87 ∧ wb w 47 then [arg as 3] else [])

/-- R305, R186, R209, R329, R330 at issue: a header above the pointer of a faulted transfer is not read. -/
def vectorChk (m : Mod) (g c : Nat) (w : LviWord) : Option (Byte × Nat) :=
  let as := vectorArgs m g c w
  firstErr ((vectorHeads w as).map (fun o => deadRange m g o 64) ++ (tileReads w as).map (tileErr m g) ++ (tileDests w as).map (fun o => padOperand 256 o 64)
    ++ [recordErr m g w as, bwdErr m g w as]
    ++ (if sizesPending m g w as then [] else
      (otherReads m g w as).map inPad ++ (vectorWrites m g w as).map inPad
        ++ (vectorReads m g w as).map fun r => deadRange m g r.1 r.2))

/-- Datum not present: an operand byte in flight, or a store held at a pinned byte (R134, R136). -/
def vectorMiss (m : Mod) (g c : Nat) (w : LviWord) : Option Miss :=
  let as := vectorArgs m g c w
  if sizesPending m g w as then some .datum
  else if (vectorReads m g w as).any fun r => notLanded m g r.1 r.2 then some .datum
  else if (vectorWrites m g w as).any fun r => pinned m g r.1 r.2 then some .datum
  else none

/-- A vector instruction at issue: it goes to the vector unit and writes when it completes. -/
def vectorForm : Form where
  chk := fun _ m g c w => vectorChk m g c w
  miss := fun _ m g c w => vectorMiss m g c w
  leave := fun _ _ _ w => vectorLeave w
  eff := fun t g c w grant m =>
    let (id, m1) := fresh m
    let v : VOp := { id := id, task := taskId g c, word := w, args := vectorArgs m g c w, leave := grant }
    let m2 := modEngine m1 g fun e => { e with vops := e.vops ++ [v] }
    advance t g c (putSignal m2 (taskId g c) w 0 (some id))

/-! ## Register forms (R328) -/

def ones32 : W32 := 0xFFFFFFFF
def truth (b : Bool) : W32 := if b then ones32 else 0
def leF (a b : W32) : Bool := ltVal (f32 a) (f32 b) || eqVal (f32 a) (f32 b)

/-- One FP32 lane of VARITH. -/
def arith32 (ext : Nat) (a b c : W32) : W32 :=
  match ext with
  | 0 => fadd a b
  | 1 => fmul a b
  | 2 => ffma a b c
  | 3 => fminmax false a b
  | 4 => fminmax true a b
  | 5 => truth (eqVal (f32 a) (f32 b))
  | 6 => truth (ltVal (f32 a) (f32 b))
  | 7 => truth (leF a b)
  | 8 => truth (!eqVal (f32 a) (f32 b))
  | _ => if c ≠ 0 then a else b

/-- One packed BF16 element of ADD, MUL or FMA. -/
def arith16 (ext a b c : Nat) : Nat :=
  match ext with
  | 0 => toB16 (addVal (b16 a) (b16 b))
  | 1 => toB16 (mulVal (b16 a) (b16 b))
  | _ => toB16 (addVal (mulVal (b16 a) (b16 b)) (b16 c))

/-- VARITH on elements 0 to N − 1; the others keep their values. -/
def runArith (w : LviWord) (bc : W32) (e : Engine) : Engine :=
  let n := wf w 33 9 + 1
  let (d, a, b, c) := (wf w 59 5, wf w 54 5, wf w 49 5, wf w 44 5)
  if wb w 42 then
    (List.range n).foldl (fun x i => setHalf d i
      (arith16 (wExt w) (half e a i) (if wb w 43 then bc.toNat % 65536 else half e b i) (half e c i)) x) e
  else
    (List.range (min n 256)).foldl (fun x i => setLane d i
      (arith32 (wExt w) (lane e a i) (if wb w 43 then bc else lane e b i) (lane e c i)) x) e

/-- VTRANS: VD = f(VA) (R115). -/
def runTrans (w : LviWord) (e : Engine) : Engine :=
  (List.range (min (wf w 33 9 + 1) 256)).foldl
    (fun x i => setLane (wf w 59 5) i (trans32 (wExt w) (lane e (wf w 54 5) i)) x) e

/-! ## Reductions (R116) -/

/-- Addition through a tree whose shape depends on the count alone. -/
def treeSum : Nat → List W32 → W32
  | 0, l => l.foldl fadd 0
  | _ + 1, [] => 0
  | _ + 1, [x] => x
  | fuel + 1, l =>
    let k := 1 + Config.treeSplit l.length % (l.length - 1)
    fadd (treeSum fuel (l.take k)) (treeSum fuel (l.drop k))

def sumTree (l : List W32) : W32 :=
  let s := treeSum l.length l
  if l.any isNan32 then fnan else s

/-- Largest or smallest of the inputs that are not NaN. -/
def extreme (isMax : Bool) (l : List W32) : W32 :=
  match l.filter fun x => !isNan32 x with
  | [] => fnan
  | x :: r => r.foldl (fminmax isMax) x

def fabs (w : W32) : W32 := w &&& 0x7FFFFFFF

def reduceVec (ext : Nat) (l : List W32) : W32 :=
  match ext with
  | 0 => sumTree l
  | 1 => sumTree (l.map fun x => fmul x x)
  | 2 => extreme true l
  | 3 => extreme false l
  | _ => if l.any isNan32 then fnan else extreme true (l.map fabs)

/-! ## Tiles -/

/-- A tile operand whole: header and bytes. -/
def tileAtPad (m : Mod) (g off : Nat) : Hdr × List Byte :=
  let h := headAt m g off
  (h, padRead m g off (tileEnd h))

def vals32 (x : Hdr × List Byte) : List W32 := (tileVals x.1 x.2).map toF32

/-- Raw element codes in storage order of a format without blocks. -/
def rawCodes (x : Hdr × List Byte) : List Nat :=
  (List.range (elemN x.1)).map fun k => bitsAt (x.2.drop 64) (k * fmtBits x.1.fmt) (fmtBits x.1.fmt)

/-- The output tile of a vector instruction: the shape and ORDER of its source (R329), its EPOCH and
SAMPLE_ID, MAXEXP of what is written (R50), STATUS (R314). -/
def outTile (off : Nat) (src : Hdr) (fmt : Nat) (e : Enc) (maxexp nf : Nat) (sr : Bool) : List Byte :=
  buildTile (hdrFor fmt src.rows32 src.cols32 src.order maxexp (off / 256) src.epoch src.sample
    (statusWord nf (isMx fmt && e.sidecar.any (· == 255) || e.vals.any fun v => !isFinite v) sr e.ovf 0 false)) e.payload e.sidecar

/-- Values written as a tile of a format. -/
def writeVals (g off : Nat) (src : Hdr) (fmt : Nat) (sr : Bool) (vs : List Val) (m : Mod) : Mod :=
  let e := encodeTile fmt (outerN src) (innerN src) (if sr then some m.draw else none) vs
  let m1 := if sr then { m with draw := m.draw + vs.length } else m
  padWrite m1 g off (outTile off src fmt e (maxExpField e.vals) e.nf sr)

/-- A bit plane (R123, R329): MAXEXP 0xFF, NFCOUNT of the inputs. -/
def writePlane (g off : Nat) (src : Hdr) (bs : List Bool) (nf : Nat) (m : Mod) : Mod :=
  let e : Enc := { payload := packCodes 1 (bs.map b2n), sidecar := [], ovf := false, nf := nf, vals := [] }
  padWrite m g off (outTile off src 0x20 e 0xFF nf false)

def nonFinite (l : List W32) : Nat := (l.filter fun x => !isFinite (f32 x)).length

/-! ## Activations (R124 to R126) -/

/-- The branch bit: x ≥ x* (R125). EXT 0 to 3 have no minimum and R125 gives them no branch bit: a plane asked of them with
BEN = 1 holds the bits of SiLU's minimum (DESIGN CHOICE, log 10). -/
def branch (ext : Nat) (w : W32) : Bool :=
  match f32 w with
  | .nan => Config.branchBit ext w
  | .inf neg => !neg
  | v => atOrAbove ext v

/-- A GELU or SiLU value: within 2 units of the last place, the bound of R115, which the manual does not repeat for
them (DEDUCED, log 10). At -∞ the manual gives neither a value nor a limit: the free `Config.gelu` (DESIGN CHOICE, log 10). -/
def gelu32 (ext : Nat) (w : W32) : W32 :=
  match f32 w with
  | .nan => fnan
  | .inf neg => if neg then Config.gelu ext w else w
  | v => nearest2 (actExact ext v) (Config.gelu ext w)

/-- One forward activation. The ReLU of a NaN, which R124 does not give, is the free `Config.gelu 0` (DESIGN CHOICE,
log 10). -/
def act32 (ext : Nat) (w : W32) : W32 :=
  match ext with
  | 0 => if isNan32 w then Config.gelu 0 w else if ltVal (.fin false 0 0) (f32 w) then w else 0
  | 1 => trans32 8 w
  | 2 => trans32 7 w
  | 3 => trans32 10 w
  | _ => gelu32 ext w

/-- A forward activation of a BF16 tile: the listed transcendentals are rounded correctly (R115). -/
def act16 (ext : Nat) (x : Nat) : Nat :=
  match ext with
  | 1 => transB16 8 x
  | 2 => transB16 7 x
  | 3 => transB16 10 x
  | _ => toB16 (f32 (act32 ext (toF32 (b16 x))))

/-- f′ from the saved output (R124), or on the branch of the bit, 0 at or below the minimum (R126). -/
def deriv (ext : Nat) (y : W32) (b : Bool) : W32 :=
  match ext with
  | 0 => if ltVal (.fin false 0 0) (f32 y) then fone else 0
  | 1 => fmul y (fsub fone y)
  | 2 => fsub fone (fmul y y)
  | 3 => fsub fone (trans32 0 (fneg y))
  | _ => nearDeriv ext (f32 y) b (Config.geluDeriv ext y b)

def runAct (g : Nat) (w : LviWord) (as : List Nat) (m : Mod) : Mod :=
  let x := tileAtPad m g (arg as 0)
  let ins := vals32 x
  let outs := if x.1.fmt = 1 then (rawCodes x).map fun c => b16 (act16 (wExt w) c) else ins.map fun v => f32 (act32 (wExt w) v)
  let m1 := writeVals g (arg as 1) x.1 x.1.fmt false outs m
  if wb w 51 then writePlane g (arg as 2) x.1 (ins.map (branch (wExt w))) (nonFinite ins) m1 else m1

def runBwd (g : Nat) (w : LviWord) (as : List Nat) (m : Mod) : Mod :=
  let y := tileAtPad m g (arg as 0)
  let d := tileAtPad m g (arg as 1)
  let plane := padRead m g (arg as 3 + 64) (elemN y.1 / 8)
  let bitOf := fun (k : Nat) => wb w 47 && bit (fld plane (k / 8) 1) (k % 8)
  let outs := ((vals32 y).zip (vals32 d)).zipIdx.map fun (p, k) => f32 (fmul p.2 (deriv (wExt w) p.1 (bitOf k)))
  writeVals g (arg as 2) y.1 y.1.fmt false outs m

/-! ## UPDATE (R119, R120) -/

/-- One element: new p, m, v, and whether g1 is finite; each operation rounds to FP32 in the order
written. -/
def updElem (u : UpdRec) (c1 c2 : W32) (p g m v : W32) : W32 × W32 × W32 × Bool :=
  let g1 := fdiv (fmul g u.c) (fofNat u.n)
  if ¬ isFinite (f32 g1) then (p, m, v, false)
  else
    let m' := fadd (fmul u.b1 m) (fmul (fsub fone u.b1) g1)
    let v' := fadd (fmul u.b2 v) (fmul (fmul (fsub fone u.b2) g1) g1)
    let mh := fdiv m' c1
    let vh := fdiv v' c2
    let p' := fsub (fsub p (fmul (fmul u.eta u.lambda) p)) (fdiv (fmul u.eta mh) (fadd (trans32 5 vh) u.eps))
    (p', m', v', true)

def momentAt (m : Mod) (g : Nat) (u : UpdRec) (off i : Nat) : W32 :=
  if updBf16 u then toF32 (b16 (leNat (padRead m g (off + 2 * i) 2)))
  else BitVec.ofNat 32 (leNat (padRead m g (off + 4 * i) 4))

def putMoment (g : Nat) (u : UpdRec) (off i : Nat) (v : W32) (m : Mod) : Mod :=
  if updBf16 u then padWrite m g (off + 2 * i) (toLe 2 (toB16 (f32 v))) else padWrite m g (off + 4 * i) (toLe 4 v.toNat)

def word32 (m : Mod) (g off i : Nat) : W32 := BitVec.ofNat 32 (leNat (padRead m g (off + 4 * i) 4))

/-- The training copy: a plain array, with the scales of an MX copy behind the elements. -/
def putCopy (g : Nat) (u : UpdRec) (m : Mod) : Mod :=
  let vs := (List.range u.e).map fun i => f32 (word32 m g u.p i)
  let draw := if updSr u then some m.draw else none
  let e := if isMx (updFmt u) then
      let bs := (List.range (u.e / 32)).map fun b => encodeBlock (updFmt u) draw b (vs.extract (32 * b) (32 * b + 32))
      packCodes 8 (bs.flatMap fun b => b.2.map (·.1)) ++ bs.map fun b => BitVec.ofNat 8 b.1
    else (encodeTile (updFmt u) 1 u.e draw vs).payload
  padWrite (if updSr u then { m with draw := m.draw + u.e } else m) g u.copy e

def runUpdate (g : Nat) (as : List Nat) (m : Mod) : Mod :=
  let off := arg as 0
  let u := readUpdAt m g off
  if u.n = 0 then padWrite m g (off + 0x3C) (toLe 4 1)
  else
    let c1 := fsub fone (fpow u.b1 u.t)
    let c2 := fsub fone (fpow u.b2 u.t)
    let r := (List.range u.e).foldl (fun (a : Mod × Nat) i =>
      let (p, mm, vv, ok) := updElem u c1 c2 (word32 a.1 g u.p i) (word32 a.1 g u.g i) (momentAt a.1 g u u.m i) (momentAt a.1 g u u.v i)
      if ok then (putMoment g u u.v i vv (putMoment g u u.m i mm (padWrite a.1 g (u.p + 4 * i) (toLe 4 p.toNat))), a.2)
      else (a.1, a.2 + 1)) (m, 0)
    let m1 := if updCopy u then putCopy g u r.1 else r.1
    padWrite m1 g (off + 0x3C) (toLe 4 (256 * min 0xFFFFFF r.2))

/-! ## Top-k and sign (R121 to R123, R331 to R333) -/

/-- The bin key: bits [14:5] of the BF16 encoding of |x|. -/
def binKey (w : W32) : Nat := bits (toB16 (absVal (f32 w))) 5 10

/-- A histogram of bin keys (R121): EXT 0 starts one, EXT 1 adds to it. A count that passes 2^32 - 1 wraps (DESIGN CHOICE,
log 72: the manual is silent). -/
def runHist (g : Nat) (w : LviWord) (as : List Nat) (m : Mod) : Mod :=
  let xs := vals32 (tileAtPad m g (arg as 0))
  let base := arg as 1
  let m1 := if wExt w = 0 then padWrite m g base (List.replicate 4160 0) else m
  xs.foldl (fun m x =>
    let o := if isNan32 x then base + 4096 else base + 4 * binKey x
    padWrite m g o (toLe 4 (leNat (padRead m g o 4) + 1))) m1

/-- The threshold key: the highest at which the count from the top reaches k (R122). -/
def threshold (hist : Nat → Nat) (k : Nat) : Nat → Nat → Option Nat
  | 0, _ => none
  | n + 1, got => if got + hist n ≥ k then some n else threshold hist k n (got + hist n)

/-- The indices selected, ascending. -/
def selectK (hist : Nat → Nat) (k : Nat) (xs : List W32) : List Nat :=
  let idx := (List.range xs.length).filter fun i => !isNan32 (xs[i]?.getD 0)
  match threshold hist k 1024 0 with
  | none => idx
  | some th =>
    let above := idx.filter fun i => decide (binKey (xs[i]?.getD 0) > th)
    let equal := (idx.filter fun i => binKey (xs[i]?.getD 0) == th).take (k - above.length)
    idx.filter fun i => above.contains i || equal.contains i

def pairBytes (xs : List W32) (sel : List Nat) : List Byte :=
  sel.flatMap fun i => toLe 4 i ++ toLe 4 (xs[i]?.getD 0).toNat

def runSelect (g : Nat) (w : LviWord) (as : List Nat) (m : Mod) : Mod :=
  let x := tileAtPad m g (arg as 0)
  let xs := vals32 x
  let sel := selectK (fun n => leNat (padRead m g (arg as 1 + 4 * n) 4)) (arg as 2) xs
  let e : Enc := { payload := pairBytes xs sel, sidecar := [], ovf := false, nf := nonFinite xs, vals := [] }
  let m1 := padWrite m g (arg as 3) (outTile (arg as 3) x.1 0x21 e 0xFF (nonFinite xs) false)
  if wb w 43 then
    writeVals g (arg as 4) x.1 x.1.fmt false ((tileVals x.1 x.2).zipIdx.map fun (v, i) => if sel.contains i then .fin false 0 0 else v) m1
  else m1

/-- The sign bits of a tile's elements. -/
def signBits (x : Hdr × List Byte) : List Bool := (rawCodes x).map fun c => bit c (fmtBits x.1.fmt - 1)

/-- The order in which magnitudes are added, some order of theirs. -/
def someOrder (l : List W32) : List W32 := if (Config.meanOrder l).isPerm l then Config.meanOrder l else l

/-- The scale of SIGN: the mean of |x| over the finite elements (R123), each addition and the division by their
count rounded to FP32; the order of the additions is free (log 11). -/
def signScale (xs : List W32) : W32 :=
  match (xs.filter fun x => isFinite (f32 x)).map fabs with
  | [] => Config.meanOfNone
  | l => fdiv (treeSum l.length (someOrder l)) (fofNat l.length)

/-- x − s × (±1). -/
def signResid (s : W32) (x : W32) (neg : Bool) : W32 := fsub x (if neg then fneg s else s)

def runSign (g c : Nat) (w : LviWord) (as : List Nat) (m : Mod) : Mod :=
  let x := tileAtPad m g (arg as 0)
  let xs := vals32 x
  let s := signScale xs
  let m1 := setCnt g c (wf w 52 4) s (writePlane g (arg as 1) x.1 (signBits x) (nonFinite xs) m)
  if wb w 47 then
    writeVals g (arg as 2) x.1 x.1.fmt false ((xs.zip (signBits x)).map fun p => f32 (signResid s p.1 p.2)) m1
  else m1

/-! ## Completion -/

def runLoad (g : Nat) (w : LviWord) (as : List Nat) (m : Mod) : Mod :=
  modEngine m g fun e => (List.range 256).foldl (fun x i => setLane (wf w 59 5) i (word32 m g (arg as 0) i) x) e

def runStore (g : Nat) (w : LviWord) (as : List Nat) (m : Mod) : Mod :=
  let e := engine m g
  padWrite m g (arg as 0) ((List.range 256).flatMap fun i => toLe 4 (lane e (wf w 59 5) i).toNat)

/-- VCVT: one conversion per element into the format of EXT (R117, R118). -/
def runCvt (g : Nat) (w : LviWord) (as : List Nat) (m : Mod) : Mod :=
  let x := tileAtPad m g (arg as 0)
  writeVals g (arg as 1) x.1 (wExt w) (wb w 55) (tileVals x.1 x.2) m

def runRed (g : Nat) (w : LviWord) (as : List Nat) (m : Mod) : Mod :=
  let r := reduceVec (wExt w) (vals32 (tileAtPad m g (arg as 0)))
  modEngine m g fun e => (List.range 256).foldl (fun x i => setLane (wf w 59 5) i r x) e

/-- The results of a vector instruction. -/
def vectorRun (g : Nat) (v : VOp) (m : Mod) : Mod :=
  let w := v.word
  match wOp w with
  | 0x80 => runLoad g w v.args m
  | 0x81 => runStore g w v.args m
  | 0x82 => modEngine m g (runArith w (BitVec.ofNat 32 (arg v.args 0)))
  | 0x83 => runCvt g w v.args m
  | 0x84 => modEngine m g (runTrans w)
  | 0x85 => runRed g w v.args m
  | 0x86 => runAct g w v.args m
  | 0x87 => runBwd g w v.args m
  | 0x88 => runUpdate g v.args m
  | 0x89 => runHist g w v.args m
  | 0x8A => runSelect g w v.args m
  | _ => runSign g (v.task % 4) w v.args m

def isVector (v : VOp) : Bool := decide (0x80 ≤ wOp v.word) && decide (wOp v.word ≤ 0x8B)
def dropVop (g id : Nat) (m : Mod) : Mod := modEngine m g fun e => { e with vops := e.vops.filter fun v => v.id != id }

/-- Its lane-cycles (R590): a register form takes one cycle, a tile form as many as it happens to take. -/
def laneCycles (v : VOp) : Nat := vectorLanes v.word * (if wOp v.word = 0x82 then 1 else Config.vectorCycles v.id)

/-- The oldest instruction of the vector unit completes: its results are written and its leave
returned; poison in an operand faults its task (R582), a pin holds its writes (R136). -/
def vectorComplete (g id : Nat) (t : Clk) (m : Mod) : Mod :=
  match (engine m g).vops.find? isVector with
  | none => m
  | some v =>
    if v.id ≠ id then m
    else if (vectorWrites m g v.word v.args).any fun r => pinned m g r.1 r.2 then m
    else
      let m1 := countEv (returnLeave m (g / 16) v.leave) g 0x0F (laneCycles v)
      match (vectorReads m g v.word v.args).find? fun r => padPoison m g r.1 r.2 with
      | some r => faultPoison t v.task r.1 (dropSignals (dropVop g id m1) id)
      | none => dropVop g id (vectorRun g v m1)

/-! ## The rows -/

def execVld (e : Eng) (c : CtxId) (w : LviWord) (s : State) : Host.Outcome State Fault Refusal :=
  issueRow vectorForm 0x80 none e c w s
def execVst (e : Eng) (c : CtxId) (w : LviWord) (s : State) : Host.Outcome State Fault Refusal :=
  issueRow vectorForm 0x81 none e c w s
def execVarith (e : Eng) (c : CtxId) (w : LviWord) (s : State) : Host.Outcome State Fault Refusal :=
  issueRow vectorForm 0x82 none e c w s
def execVcvt (e : Eng) (c : CtxId) (w : LviWord) (s : State) : Host.Outcome State Fault Refusal :=
  issueRow vectorForm 0x83 none e c w s
def execVtrans (e : Eng) (c : CtxId) (w : LviWord) (s : State) : Host.Outcome State Fault Refusal :=
  issueRow vectorForm 0x84 none e c w s
def execVred (e : Eng) (c : CtxId) (w : LviWord) (s : State) : Host.Outcome State Fault Refusal :=
  issueRow vectorForm 0x85 none e c w s
def execVact (e : Eng) (c : CtxId) (w : LviWord) (s : State) : Host.Outcome State Fault Refusal :=
  issueRow vectorForm 0x86 none e c w s
def execActBwd (e : Eng) (c : CtxId) (w : LviWord) (s : State) : Host.Outcome State Fault Refusal :=
  issueRow vectorForm 0x87 none e c w s
def execUpdate (e : Eng) (c : CtxId) (w : LviWord) (s : State) : Host.Outcome State Fault Refusal :=
  issueRow vectorForm 0x88 none e c w s
def execTopkHist (e : Eng) (c : CtxId) (w : LviWord) (s : State) : Host.Outcome State Fault Refusal :=
  issueRow vectorForm 0x89 none e c w s
def execTopkSelect (e : Eng) (c : CtxId) (w : LviWord) (s : State) : Host.Outcome State Fault Refusal :=
  issueRow vectorForm 0x8A none e c w s
def execSign (e : Eng) (c : CtxId) (w : LviWord) (s : State) : Host.Outcome State Fault Refusal :=
  issueRow vectorForm 0x8B none e c w s
def execVectorComplete (e : Eng) (id : Nat) (s : State) : Host.Outcome State Fault Refusal :=
  onEng (vectorComplete e.val id) s

end Sys2Proof.Machine
end

