-- ==== Sys2Proof/Machine/Exchange.lean ====
section
/-! DEFINITION. The gradient exchange: layouts and epochs (R360 to R363, R386 to R388), contributions
(R364 to R371), the owner's round and XCH.COLLECT (R372 to R379), the norm pre-round (R380 to R382). -/

namespace Sys2Proof.Machine

/-! ## Layouts -/

def elems (s : Shard) : Nat := s.parts * s.part1k * 1024
def partElems (s : Shard) : Nat := s.part1k * 1024
/-- Bytes of the reduction buffer (R362). -/
def bufBytes (s : Shard) : Nat :=
  match s.kind with
  | 0 => 4 * elems s
  | 1 => 2 * elems s
  | 2 => 4 * elems s
  | 3 => 2 * elems s + 256
  | _ => 0

def shardOf (l : Layout) (sid : Nat) : Option Shard := (l.shards[sid]?).getD none
def normSetOf (l : Layout) (n : Nat) : Option NormSet :=
  match l.norms[n]? with
  | some s => if s.valid then some s else none
  | none => none

/-- The layout of an epoch at the module (R388). -/
inductive EpochAt where
  | current (l : Layout)
  | previous (l : Layout)
  | future
  | other
  deriving DecidableEq, Repr

def epochAt (m : Mod) (e : Nat) : EpochAt :=
  match m.xch.current with
  | none => .other
  | some c =>
    if c.epoch.toNat = e then .current c
    else if (c.epoch + 1).toNat = e then .future
    else match m.xch.previous with
      | some p => if p.epoch.toNat = e then .previous p else .other
      | none => .other

/-- The layout an instruction may use: not the previous one once an advance is accepted (R387). -/
def usableLayout (m : Mod) (e : Nat) : Option Layout :=
  match epochAt m e with
  | .current l => some l
  | .previous l => if m.xch.advancing then none else some l
  | _ => none

/-- A shard by its identifier in the current or previous layout: 0x47 where an accepted advance bars
the previous one, 0x48 where it is not defined. -/
def findShard (m : Mod) (sid : Nat) : Except Byte (Layout × Shard) :=
  let look := fun (l : Option Layout) => l.bind fun l => (shardOf l sid).map fun s => (l, s)
  match look m.xch.current with
  | some x => .ok x
  | none => match look m.xch.previous with
    | some x => if m.xch.advancing then .error 0x47 else .ok x
    | none => .error 0x48

/-- A shard in the current or previous layout, for what R387 does not bar (R383). -/
def lookShard (m : Mod) (sid : Nat) : Except Byte (Layout × Shard) :=
  let look := fun (l : Option Layout) => l.bind fun l => (shardOf l sid).map fun s => (l, s)
  match look m.xch.current with
  | some x => .ok x
  | none => match look m.xch.previous with
    | some x => .ok x
    | none => .error 0x48

/-- A fault of an exchange instruction, with type EPOCH_STALE when the epoch is the cause (R364). -/
def faultXch (t : Clk) (g c : Nat) (r : Byte) (shard epoch : Nat) (m : Mod) : Mod :=
  if r = 0x47 then faultTask t (taskId g c) fEpochStale r (BitVec.ofNat 64 shard) (BitVec.ofNat 64 epoch) false m
  else faultInsn t g c r 0 m

/-! ## What the owner die counts and logs -/

def ownerLog (t : Clk) (die : Nat) (typ : Byte) (part : Nat) (shard : Nat) (info : W64) (m : Mod) : Mod :=
  logFault t (logCD die) { kind := 2, index := BitVec.ofNat 8 die, typ := typ, part := some part, addr := BitVec.ofNat 64 shard, info := info } m

def sat32 (n : Nat) : Nat := min 0xFFFFFFFF n
def dropConflict (t : Clk) (die part shard : Nat) (d : W64) (m : Mod) : Mod :=
  ownerLog t die fRoundConflict part shard d (modPart m part fun p => { p with conflict := sat32 (p.conflict + 1) })
def dropStaleRound (t : Clk) (die part shard : Nat) (d : W64) (m : Mod) : Mod :=
  ownerLog t die fStaleRound part shard d (modPart m part fun p => { p with staleRound := sat32 (p.staleRound + 1) })
def countEpochDrop (part : Nat) (m : Mod) : Mod := modPart m part fun p => { p with epochDrop := sat32 (p.epochDrop + 1) }
def dropEpoch (t : Clk) (die part shard epoch : Nat) (m : Mod) : Mod :=
  ownerLog t die fEpochStale part shard (BitVec.ofNat 64 epoch) (countEpochDrop part m)

/-! ## Rounds -/

def roundOf (m : Mod) (sid : Nat) : Option Round := m.xch.rounds.find? fun r => r.shard == sid
def modRound (m : Mod) (sid : Nat) (f : Round → Round) : Mod :=
  modXch m fun x => { x with rounds := x.rounds.map fun r => if r.shard = sid then f r else r }
def modRPart (p : Nat) (f : RPart → RPart) (r : Round) : Round := { r with parts := smod {} r.parts p f }

/-- The die of a shard's owner on this module. -/
def ownerDie (s : Shard) : Nat := s.ownerEngine / 16

/-- The round a packet or report belongs to: it opens, matches, or the packet is dropped (R372,
R387). `old`: the packet is of the previous layout. -/
def enterRound (t : Clk) (l : Layout) (old : Bool) (sid : Nat) (s : Shard) (d : W64) (m : Mod) : Bool × Mod :=
  match roundOf m sid with
  | none =>
    if old && m.xch.advancing then (false, dropEpoch t (ownerDie s) l.part sid l.epoch.toNat m)
    else (true, modXch m fun x => { x with rounds := x.rounds ++ [{ shard := sid, d := d, epoch := l.epoch, parts := [] }] })
  | some r =>
    if r.d = d then (true, m)
    else if r.d.toNat < d.toNat then (false, dropConflict t (ownerDie s) l.part sid d m)
    else (false, dropStaleRound t (ownerDie s) l.part sid d m)

/-- A data line of a contribution: MERGE pairs, contributions combined, line from BUF, payload. -/
structure RRec where
  pairs : Nat
  count : Nat
  line : Nat
  bytes : List Byte
  deriving DecidableEq, Repr

/-- Data arrives at the owner: applied to the buffer and counted for the part (R156, R374). A counter at its top sets
SAT for a contributor of this module, `src`; no packet tells another module of it. A pair past the array is logged by
the owner die with type ACCESS and reason 0 (R157 gives neither: DESIGN CHOICE, log 68). -/
def ownerData (t : Clk) (src : Option Nat) (l : Layout) (old : Bool) (sid : Nat) (s : Shard) (d : W64) (part op : Nat) (recs : List RRec)
    (m : Mod) : Mod :=
  match enterRound t l old sid s d m with
  | (false, m1) => m1
  | (true, m1) =>
    let base := poolAddr (ownerDie s) s.buf
    let m2 := recs.foldl (fun m r =>
      let a := if op = 3 then base else base + 256 * r.line
      let (m', o) := reduceAt (onePiece a (max 512 (bufBytes s))) op (elems s) r.bytes false m
      let m2 := o.past.foldl (fun m i => ownerLog t (ownerDie s) fAccess l.part (a + 4 * i) 0 m) m'
      if o.sat then src.elim m2 (fun tk => modProg m2 (ctx m2 (tk / 4) (tk % 4)).part fun p => { p with sat := true }) else m2) m1
    modRound m2 sid (modRPart part fun p => { p with applied := p.applied + (recs.map (·.count)).foldl (· + ·) 0 })

def ownerReport (t : Clk) (l : Layout) (old : Bool) (sid : Nat) (s : Shard) (d : W64) (part packets : Nat) (occ : Bool)
    (m : Mod) : Mod :=
  match enterRound t l old sid s d m with
  | (false, m1) => m1
  | (true, m1) => modRound m1 sid (modRPart part fun p =>
      { p with reports := p.reports + 1, occulted := p.occulted + b2n occ, named := p.named + packets })

/-- The shard of an open round, from the layout of the epoch the round recorded (R372, R388). -/
def roundShard (m : Mod) (r : Round) : Option Shard :=
  let at_ := fun (l : Option Layout) => l.bind fun l => if l.epoch = r.epoch then shardOf l r.shard else none
  match at_ m.xch.current with
  | some s => some s
  | none => at_ m.xch.previous

/-- R374 for one part. -/
def partComplete (s : Shard) (p : RPart) : Bool := p.reports == s.expect && p.applied == p.named

/-- The norm result a round uses: the largest D_n no greater than D (R382). -/
def normFor (m : Mod) (set : Nat) (d : W64) : Option NormRes :=
  ((sget [] m.xch.results set).filter fun r => decide (r.dn.toNat ≤ d.toNat)).foldl (fun b r =>
    match b with
    | none => some r
    | some x => if x.dn.toNat < r.dn.toNat then some r else some x) none

def roundComplete (m : Mod) (s : Shard) (r : Round) : Bool :=
  (List.range s.parts).all (fun p => partComplete s (sget {} r.parts p))
    && (s.normSet == 0xFF || (normFor m s.normSet r.d).isSome)

/-! ## XCH.COLLECT -/

/-- a_p of R376. -/
def arrivals (r : Round) (p : Nat) : Nat := (sget {} r.parts p).reports - (sget {} r.parts p).occulted

/-- The raw value of element e (R376). -/
def rawValue (m : Mod) (s : Shard) (r : Round) (e : Nat) : W32 :=
  let base := poolAddr (ownerDie s) s.buf
  let p := e / partElems s
  match s.kind with
  | 1 => toF32 (b16 (leNat (peeks m.mem (base + 2 * e) 2)))
  | 3 =>
    let a := arrivals r p
    let c := leNat (peeks m.mem (base + 2 * e) 2)
    let scale := BitVec.ofNat 32 (leNat (peeks m.mem (base + 2 * elems s + 4 * p) 4))
    let diff : Int := (a : Int) - 2 * c
    toF32 (divVal (mulVal (f32 scale) (.fin (decide (diff < 0)) diff.natAbs 0)) (.fin false a 0))
  | _ => BitVec.ofNat 32 (leNat (peeks m.mem (base + 4 * e) 4))

def maxArrivals (s : Shard) (r : Round) : Nat := ((List.range s.parts).map (arrivals r)).foldl max 0

/-- The value written for element e: the raw one, corrected by f_p, or +0 (R376). -/
def collectValue (m : Mod) (s : Shard) (r : Round) (e : Nat) : W32 :=
  let a := arrivals r (e / partElems s)
  let top := maxArrivals s r
  if a = 0 then 0
  else if a = top then rawValue m s r e
  else fmul (rawValue m s r e) (fdiv (fofNat top) (fofNat a))

def collectTile (m : Mod) (c : Collect) (s : Shard) (r : Round) : List Byte :=
  let vs := (List.range (elems s)).map (collectValue m s r)
  let nf := (vs.filter fun v => !isFinite (f32 v)).length
  let h := hdrFor 0x10 1 (elems s / 1024) false (maxExpField (vs.map f32)) (c.cd / 256) r.epoch.toNat
    (Config.collectSample c.shard r.d.toNat) (statusWord nf (nf != 0) false false 0 false)
  buildTile h (vs.flatMap fun v => toLe 4 v.toNat) []

def occultedOf (s : Shard) (r : Round) : Nat := ((List.range s.parts).map fun p => (sget {} r.parts p).occulted).foldl (· + ·) 0

def collectRecord (m : Mod) (s : Shard) (r : Round) : List Byte :=
  let norm := if s.normSet = 0xFF then (0 : W32) else match normFor m s.normSet r.d with
    | some n => n.sum
    | none => 0
  toLe 4 (maxArrivals s r) ++ toLe 4 (occultedOf s r) ++ toLe 4 norm.toNat ++ toLe 4 0

/-- Zero to every line of the reduction buffer. -/
def zeroBuffer (s : Shard) (m : Mod) : Mod :=
  let a := poolAddr (ownerDie s) s.buf
  let n := roundUp (bufBytes s) 256
  (chunks 64 (n / 64 + 2) a n).foldl (fun m c => { m with mem := { m.mem with poison := sset false m.mem.poison (c.1 / 64) false } })
    { m with mem := pokes m.mem a (List.replicate n 0) }

/-- A collect whose round is complete writes its tile and record, zeroes the buffer and closes the
round (R375 to R379); a pin on its destination holds it. -/
def runCollect (t : Clk) (c : Collect) (m : Mod) : Mod :=
  match roundOf m c.shard, (roundOf m c.shard).bind (roundShard m) with
  | some r, some s =>
    let g := c.task / 4
    if ¬ roundComplete m s r then m
    else if pinned m g c.cd (roundUp (64 + 4 * elems s) 256) || pinned m g c.cc 16 then m
    else
      let m0 := modXch m fun x => { x with collects := x.collects.filter fun y => y.id != c.id }
      if sectorsBad m (poolAddr (ownerDie s) s.buf) (bufBytes s) then
        faultPoison t c.task (poolAddr (ownerDie s) s.buf) (dropSignals m0 c.id)
      else
        let m1 := padWrite (padWrite m0 g c.cd (collectTile m c s r)) g c.cc (collectRecord m s r)
        let m2 := if occultedOf s r = 0 then m1 else modProg m1 (ctx m1 g (c.task % 4)).part fun p => { p with partial_ := true }
        modXch (zeroBuffer s m2) fun x => { x with rounds := x.rounds.filter fun y => y.shard != c.shard }
  | _, _ => m

def runCollects (t : Clk) (m : Mod) : Mod := m.xch.collects.foldl (fun m c => runCollect t c m) m

/-- The shard of an XCH.COLLECT, checked (R375, R387, R389). -/
def collectErr (m : Mod) (g sid : Nat) : Option Byte :=
  match findShard m sid with
  | .error e => some e
  | .ok (_, s) => if s.ownerModule ≠ moduleNum m ∨ s.ownerEngine ≠ g ∨ s.kind = 4 then some 0x48 else none

/-- Elements of the tile to be written, 1,024 where the shard is not defined. -/
def collectElems (m : Mod) (sid : Nat) : Nat :=
  match findShard m sid with
  | .ok (_, s) => elems s
  | .error _ => 1024

def collectForm : Form where
  chk := fun _ m g c w =>
    firstErr [padOperand 256 (cnt m g c (wf w 60 4)).toNat (roundUp (64 + 4 * collectElems m (cnt m g c (wf w 56 4)).toNat) 256),
      padOperand 64 (cnt m g c (wf w 52 4)).toNat 16]
  eff := fun t g c w _ m =>
    let sid := (cnt m g c (wf w 56 4)).toNat
    match collectErr m g sid with
    | some r => faultXch t g c r sid 0 m
    | none =>
      let (id, m1) := fresh m
      let k : Collect := { id := id, task := taskId g c, word := w, shard := sid, cd := (cnt m g c (wf w 60 4)).toNat, cc := (cnt m g c (wf w 52 4)).toNat }
      advance t g c (putSignal (modXch m1 fun x => { x with collects := x.collects ++ [k] }) (taskId g c) w 0 (some id))

/-! ## Inline payloads (R402) -/

/-- The 208 inline bytes with fields at head-flit offsets. -/
def inlineOf (fs : List (Nat × List Byte)) : List Byte :=
  fs.foldl (fun b f => patch b (f.1 - 0x20) f.2) (List.replicate 208 0)
def ifld (k : Packet) (o n : Nat) : Nat := fldBe k.inl (o - 0x20) n

/-! ## The norm pre-round (R380 to R382) -/

/-- Keeps the two latest results of a set. -/
def keepResult (set : Nat) (r : NormRes) (m : Mod) : Mod :=
  modXch m fun x => { x with results := smod [] x.results set fun l => (l ++ [r]).drop (l.length - 1) }

def normInline (dn : W64) (v : W32) (count occ : Nat) : List Byte :=
  inlineOf [(0x20, toBe 8 dn.toNat), (0x28, toBe 4 v.toNat), (0x2C, toBe 4 count), (0x30, toBe 4 occ)]

/-- The destination list of a set, read in the root's partition; none where it cannot be read. -/
def normDests (t : Clk) (l : Layout) (s : NormSet) (m : Mod) : Mod × List Nat :=
  let rq : Req := { who := .core (Fin.ofNat 64 (4 * s.rootDie)), part := some l.part, phys := false, owner := none }
  let log := fun (e : XErr) (m : Mod) => logFault t (logCD s.rootDie) { errEntry rq e with kind := 2, index := BitVec.ofNat 8 s.rootDie } m
  match readSpans t rq .clean m (spans s.destVa.toNat (2 * s.destCount)) with
  | (m1, .error e) => (log e m1, [])
  | (m1, .ok (bs, false)) => (m1, (List.range s.destCount).map fun i => fld bs (2 * i) 2 % 2 ^ 14)
  | (m1, .ok (_, true)) => (log { typ := fPoison, reason := 0, addr := s.destVa.toNat, va := true, poison := true } m1, [])

/-- The result of a complete pre-round goes to every module of the list (R381). -/
def sendResult (t : Clk) (l : Layout) (s : NormSet) (p : PreRound) (m : Mod) : Mod :=
  let (m1, ds) := normDests t l s m
  let arr := p.count
  ds.foldl (fun m d =>
    if d = moduleNum m then keepResult p.set { dn := p.d, sum := p.sum, arrivals := arr, occ := p.occ } m
    else match route m l.part d with
      | .ok q => sendOn m q { pkt := packet m l.part 0x06 0 d 0 l.epoch.toNat p.set 0 (normInline p.d p.sum arr p.occ) [],
                              deps := [], task := none, works := [] }
      | .error r => logFault t (logCD s.rootDie) { kind := 2, index := BitVec.ofNat 8 s.rootDie, typ := fDropped, reason := r, part := some l.part, addr := BitVec.ofNat 64 d, info := 6 } m) m1

/-- A norm contribution arrives at the root die (R381). -/
def normArrive (t : Clk) (l : Layout) (old : Bool) (set : Nat) (s : NormSet) (dn : W64) (v : W32) (count occ : Nat) (m : Mod) : Mod :=
  let add := fun (p : PreRound) (m : Mod) =>
    let p' := { p with sum := fadd p.sum v, count := p.count + count, occ := p.occ + occ }
    let m1 := modXch m fun x => { x with pre := (x.pre.filter fun y => y.set != set) ++ [p'] }
    if p'.count + p'.occ ≥ s.nexpect then
      sendResult t l s p' (modXch m1 fun x => { x with pre := x.pre.filter fun y => y.set != set })
    else m1
  match m.xch.pre.find? fun p => p.set == set with
  | none =>
    if old && m.xch.advancing then dropEpoch t s.rootDie l.part set l.epoch.toNat m
    else add { set := set, d := dn, epoch := l.epoch, sum := 0, count := 0, occ := 0 } m
  | some p =>
    if p.d = dn then add p m
    else if p.d.toNat < dn.toNat then dropConflict t s.rootDie l.part set dn m
    else dropStaleRound t s.rootDie l.part set dn m

def normForm : Form where
  eff := fun t g c w _ m =>
    let task := taskId g c
    let part := (ctx m g c).part
    let set := (cnt m g c (wf w 52 4)).toNat
    let dn := cntPair m g c (wf w 56 4)
    let inTime := decide (t.sid.toNat ≤ dn.toNat)
    let v : W32 := if inTime then cnt m g c (wf w 60 4) else 0
    match m.xch.current with
    | none => faultXch t g c 0x47 set 0 m
    | some l => match normSetOf l set with
      | none => faultXch t g c 0x48 set 0 m
      | some s =>
        let (id, m1) := fresh m
        let sent : Except Byte Mod :=
          if s.rootModule = moduleNum m then .ok (normArrive t l false set s dn v (b2n inTime) (b2n (!inTime)) m1)
          else (route m part s.rootModule).map fun p => sendOn m1 p {
            pkt := packet m part 0x05 0 s.rootModule 0 l.epoch.toNat set 0 (normInline dn v (b2n inTime) (b2n (!inTime))) []
            deps := [], task := some task, works := [id] }
        match sent with
        | .error r => faultInsn t g c r 0 m
        | .ok m2 => advance t g c (putSignal m2 task w 0 (some id))

/-! ## XCH.DRAIN -/

/-- The exchange record (R335). -/
structure XRec where
  shard : Nat
  elemOff : Nat
  resid : Nat
  epoch : Nat
  k : Nat
  resv : Bool
  deriving DecidableEq, Repr

def readXRec (b : List Byte) : XRec where
  shard := fld b 0 4
  elemOff := fld b 4 4
  resid := fld b 8 8
  epoch := fld b 0x10 2
  k := fld b 0x14 4
  resv := fld b 0x12 2 != 0 || !allZero (slice b 0x18 0x28)

/-- Whether EXT and DFMT match KIND (R362). -/
def kindOk (kind ext dfmt : Nat) : Bool :=
  (kind == 0 && ext == 0 && dfmt == 0) || (kind == 1 && ext == 0 && dfmt == 1) || (kind == 2 && ext == 1) || (kind == 3 && ext == 2)

/-- The residual translates to HBM of the partition, for the read and the write (R364). -/
def residOk (m : Mod) (part va n : Nat) : Bool :=
  va != 0 && [va, va + 4 * n - 1].all fun a => [true, false].all fun wr =>
    match xlate m part a wr with
    | .ok x => (match place x.phys with | .hbm _ _ => inRanges m part x.phys | _ => false)
    | .error _ => false

/-- R364; n: elements of the gang's tile. -/
def xchErr (m : Mod) (part n : Nat) (w : LviWord) (r : XRec) : Except Byte Shard :=
  let ext := wExt w
  let dfmt := wf w 48 2
  match usableLayout m r.epoch with
  | none => .error 0x47
  | some l => match shardOf l r.shard with
    | none => .error 0x48
    | some s =>
      if r.resv then .error 0x82
      else if ¬ kindOk s.kind ext dfmt ∨ partElems s ≠ n ∨ r.elemOff % n ≠ 0 ∨ r.elemOff ≥ elems s then .error 0x48
      else if (ext = 1 ∧ (r.k = 0 ∨ r.k > n)) ∨ (ext ≠ 1 ∧ r.k ≠ 0) then .error 0x48
      else if (ext = 0 ∧ r.resid ≠ 0) ∨ (ext ≠ 0 ∧ ¬ residOk m part r.resid n) then .error 0x48
      else if wb w 51 ∧ ¬ (ext = 0 ∧ dfmt = 1) then .error 0x48
      else .ok s

def gangElems (sh : Shape) : Nat := 1024 * (shapeDims sh).1 * (shapeDims sh).2

def xchDrainForm : Form where
  chk := fun _ m g c w =>
    let off := (cnt m g c (wf w 60 4)).toNat
    firstErr [padOperand 64 off 64, deadRange m g off 64]
  miss := fun _ m g c w => if notLanded m g (cnt m g c (wf w 60 4)).toNat 64 then some .datum else none
  eff := fun t g c w _ m =>
    let off := (cnt m g c (wf w 60 4)).toNat
    let base := wf w 53 3
    if padPoison m g off 64 then faultPoison t (taskId g c) off m else
    let bytes := padRead m g off 64
    let r := readXRec bytes
    match gangAt (engine m g) base with
    | none => faultInsn t g c 0 0 m
    | some gg => match xchErr m (ctx m g c).part (gangElems gg.shape) w r with
      | .error e => faultXch t g c e r.shard r.epoch m
      | .ok s => deferDrain t g c base (fun _ id => {
          id := id, task := taskId g c, slot := wf w 52 1, fmt := dfmtCode (wf w 48 2), sr := wb w 51, cols := wb w 50
          dest := .exch, word := w, idx := (ctx m g c).pc, exchRec := bytes, deadline := cntPair m g c (wf w 56 4), shard := some s }) (wf w 52 1) w m

/-! ### Sending a contribution -/

/-- A contribution's data as operation groups. -/
structure Contrib where
  groups : List (Nat × List RRec)
  occ : Bool
  deriving DecidableEq, Repr

def packets (c : Contrib) : Nat := (c.groups.map fun g => g.2.length).foldl (· + ·) 0

/-- Lists cut into pieces of n. -/
def cutList {α : Type} (n : Nat) : Nat → List α → List (List α)
  | 0, _ => []
  | fuel + 1, l => if l.isEmpty then [] else l.take n :: cutList n fuel (l.drop n)

def linesOf (first : Nat) (bs : List Byte) : List RRec :=
  (List.range (ceilDiv bs.length 256)).map fun j => { pairs := 0, count := 1, line := first + j, bytes := slice bs (256 * j) 256 }

/-- R367: each line of a dense tile. -/
def denseContrib (r : XRec) (s : Shard) (sr : Bool) (draw : Nat) (xs : List W32) : Contrib :=
  if s.kind = 0 then { groups := [(1, linesOf (4 * r.elemOff / 256) (xs.flatMap fun x => toLe 4 x.toNat))], occ := false }
  else
    let codes := xs.zipIdx.map fun (x, n) => (encodeElem 1 (rndAt (if sr then some draw else none) n) (f32 x)).1
    { groups := [(2, linesOf (2 * r.elemOff / 256) (packCodes 16 codes))], occ := false }

/-- The selection of TOPK (R366). -/
def topkOf (r : XRec) (xs : List W32) : List Nat :=
  selectK (fun n => (xs.filter fun x => !isNan32 x && binKey x == n).length) r.k xs

def topkContrib (r : XRec) (xs : List W32) : Contrib :=
  let sel := topkOf r xs
  { groups := [(3, (cutList 32 (sel.length + 1) sel).map fun l => {
      pairs := l.length, count := 1, line := 0
      bytes := l.flatMap fun i => toLe 4 (r.elemOff + i) ++ toLe 4 (xs[i]?.getD 0).toNat })], occ := false }

def topkResid (r : XRec) (xs : List W32) : List W32 :=
  let sel := topkOf r xs
  xs.zipIdx.map fun (x, i) => if sel.contains i then 0 else x

def signBit (x : W32) : Bool := bit x.toNat 31

/-- The 32 bytes of 256 sign bits. -/
def planeBytes (bs : List Bool) : List Byte := packCodes 1 (bs.map b2n)

def signContrib (r : XRec) (s : Shard) (xs : List W32) : Contrib :=
  let scale := signScale xs
  let p := r.elemOff / partElems s
  let sline : RRec := {
    pairs := 0, count := 1, line := 2 * elems s / 256
    bytes := (List.range 64).flatMap fun i => toLe 4 (if i = p then scale.toNat else 0) }
  { groups := [(4, (List.range (xs.length / 256)).map fun j => {
      pairs := 0, count := 1, line := 2 * (r.elemOff + 256 * j) / 256
      bytes := planeBytes (((xs.drop (256 * j)).take 256).map signBit) }), (1, [sline])], occ := false }

def signNewResid (xs : List W32) : List W32 :=
  let scale := signScale xs
  xs.map fun x => signResid scale x (signBit x)

def reduceInline (op part : Nat) (d : W64) (recs : List RRec) : List Byte :=
  inlineOf ([(0x20, toBe 1 op), (0x22, toBe 2 part), (0x28, toBe 8 d.toNat)]
    ++ recs.zipIdx.map fun (r, i) => (0x30 + 8 * i, toBe 8 (r.pairs * 2 ^ 48 + r.count * 2 ^ 32 + r.line)))

def reportInline (part : Nat) (occ : Bool) (d : W64) (n : Nat) : List Byte :=
  inlineOf [(0x22, toBe 2 part), (0x24, toBe 1 (b2n occ)), (0x28, toBe 8 d.toNat), (0x30, toBe 4 n)]

/-- The packets of a contribution to another module, up to 16 lines in each (R411), and the report
after them (R368). -/
def contribPackets (m : Mod) (part : Nat) (r : XRec) (s : Shard) (d : W64) (c : Contrib) : List Packet :=
  let p := r.elemOff / partElems s
  let mk := fun (typ : Nat) (inl body : List Byte) => packet m part typ 1 s.ownerModule s.ownerEngine r.epoch r.shard 0 inl body
  (c.groups.flatMap fun g => (cutList 16 (g.2.length + 1) g.2).map fun l =>
    mk 0x10 (reduceInline g.1 p d l) (l.flatMap fun x => slice x.bytes 0 256))
    ++ [mk 0x11 (reportInline p c.occ d (packets c)) []]

/-- A contribution leaves: to this module's owner die, or on its route; its issuer faults where there
is none (R368, R417). -/
def sendContrib (t : Clk) (task id idx : Nat) (r : XRec) (s : Shard) (d : W64) (c : Contrib) (m : Mod) : Mod :=
  let part := (ctx m (task / 4) (task % 4)).part
  let p := r.elemOff / partElems s
  if s.ownerModule = moduleNum m then
    match epochAt m r.epoch with
    | .current l => ownerReport t l false r.shard s d p (packets c) c.occ
        (c.groups.foldl (fun m g => ownerData t (some task) l false r.shard s d p g.1 g.2 m) m)
    | .previous l => ownerReport t l true r.shard s d p (packets c) c.occ
        (c.groups.foldl (fun m g => ownerData t (some task) l true r.shard s d p g.1 g.2 m) m)
    | _ => dropEpoch t (ownerDie s) part r.shard r.epoch m
  else match route m part s.ownerModule with
    | .error e => faultTask t task fTask e 0 (BitVec.ofNat 64 idx) false (dropSignals m id)
    | .ok q => (contribPackets m part r s d c).foldl (fun m k => sendOn m q { pkt := k, deps := [], task := some task, works := [id] }) m

/-- The drained values in the order of R365. -/
def drainedValues (gg : Gang) (d : Drain) : List W32 := (List.range (gangElems gg.shape)).map fun i => sget 0 d.vals i

/-- Compression of a drained tile, complete with its last row (R366, R367, R370). -/
def finishXch (t : Clk) (g : Nat) (gg : Gang) (d : Drain) (s : Shard) (m : Mod) : Mod :=
  let r := readXRec d.exchRec
  let gs := drainedValues gg d
  let n := gs.length
  let ext := wExt d.word
  let m0 := modEngine (modGang m g gg.base (freeSlot d)) g fun e => { e with staging := e.staging - 1 }
  if ext = 0 then
    sendContrib t d.task d.id d.idx r s d.deadline (denseContrib r s d.sr m0.draw gs) { m0 with draw := m0.draw + (if d.sr then n else 0) }
  else match readMem t m0 (drainReq m g d) r.resid (4 * n) .clean with
    | (m1, .error e) => faultAccess t d.task e (dropSignals m1 d.id)
    | (m1, .ok (_, true)) => faultPoison t d.task r.resid (dropSignals m1 d.id)
    | (m1, .ok (bs, false)) =>
      let xs := gs.zipIdx.map fun (x, i) => fadd x (word32At bs i)
      let occ := decide (d.deadline.toNat < t.sid.toNat)
      let c : Contrib := if occ then { groups := [], occ := true } else if ext = 1 then topkContrib r xs else signContrib r s xs
      let resid := if occ then xs else if ext = 1 then topkResid r xs else signNewResid xs
      match writeMem t m1 (drainReq m g d) r.resid (resid.flatMap fun x => toLe 4 x.toNat) false .clean with
      | (m2, some e) => faultAccess t d.task e (dropSignals m2 d.id)
      | (m2, none) => sendContrib t d.task d.id d.idx r s d.deadline c m2

/-- Where drain row r of an Asterism lies in the order of R365. -/
def exchIndex (gg : Gang) (a r : Nat) : Nat :=
  let (rb, cb) := blockPos gg.shape gg.base a
  (rb * (shapeDims gg.shape).2 + cb) * 1024 + 32 * r

/-- One drain row into a staging buffer; with both busy it is held (R97). -/
def exchRow (t : Clk) (g : Nat) (gg : Gang) (d : Drain) (s : Shard) (a : Nat) (m : Mod) : Mod :=
  if d.rows.isEmpty ∧ (engine m g).staging ≥ 2 then m else
  let r := sget 0 d.rows a
  let vs := (drainRow m g gg d a r).map toF32
  let add := fun (d : Drain) => { d with
    rows := sset 0 d.rows a (r + 1)
    vals := vs.zipIdx.foldl (fun l v => sset 0 l (exchIndex gg a r + v.2) v.1) d.vals }
  let m1 := if d.rows.isEmpty then modEngine m g fun e => { e with staging := e.staging + 1 } else m
  let m2 := modGang m1 g gg.base (modDrain d add)
  if (members gg).all fun b => sget 0 (add d).rows b == 32 then finishXch t g gg (add d) s m2 else m2

/-- DRAIN_ROW_SEND: the next row of an Asterism, when its fence is open and its destination accepts
it. -/
def drainRowSend (g a : Nat) (t : Clk) (m : Mod) : Mod :=
  match gangAt (engine m g) a with
  | none => m
  | some gg => match nextDrain gg a with
    | none => m
    | some d =>
      if ¬ fenceOpen gg d a then m
      else match d.dest, d.shard with
        | .exch, some s => exchRow t g gg d s a m
        | _, _ => memRow t g gg d a m

end Sys2Proof.Machine
end

