-- ==== Sys2Proof/Machine/Identity.lean ====
section
/-! DEFINITION. What the root-of-trust unit derives from the unique device secret (R541), the module's signatures
(R545), and the keys of a bound image (R555). -/

namespace Sys2Proof.Machine

/-! ## The four key pairs (R541) -/

/-- The secret of a pair: HKDF-SHA-384 of the UDS, of 256 bits, with an empty salt and the pair's info string. The manual does not
say how many bytes it takes of it (64 here: DESIGN CHOICE, log 8). -/
def pairSecret (info : List Byte) : List Byte := slice (Config.hkdf384 [] (slice Config.uds 0 32) info 64) 0 64

/-- "IDENT ED25519", "IDENT MLDSA65", "BIND X25519", "BIND MLKEM768". -/
def infoEd : List Byte := [0x49, 0x44, 0x45, 0x4E, 0x54, 0x20, 0x45, 0x44, 0x32, 0x35, 0x35, 0x31, 0x39]
def infoMl : List Byte := [0x49, 0x44, 0x45, 0x4E, 0x54, 0x20, 0x4D, 0x4C, 0x44, 0x53, 0x41, 0x36, 0x35]
def infoX : List Byte := [0x42, 0x49, 0x4E, 0x44, 0x20, 0x58, 0x32, 0x35, 0x35, 0x31, 0x39]
def infoKem : List Byte := [0x42, 0x49, 0x4E, 0x44, 0x20, 0x4D, 0x4C, 0x4B, 0x45, 0x4D, 0x37, 0x36, 0x38]

/-- The identity key pair's public half: Ed25519 of 32 bytes, then ML-DSA-65 of 1,952. -/
def identityKey : List Byte :=
  slice (Config.edPublic (pairSecret infoEd)) 0 32 ++ slice (Config.mlPublic (pairSecret infoMl)) 0 1952

/-- The device ID: the hash of the two identity public keys. -/
def deviceId : List Byte := slice (Config.sha384 identityKey) 0 48

/-- The two public binding keys: X25519 of 32 bytes, then ML-KEM-768 of 1,184. -/
def bindPublic : List Byte :=
  slice (Config.x25519Public (pairSecret infoX)) 0 32 ++ slice (Config.mlkemKey (pairSecret infoKem)) 0 1184

/-! ## Fused keys and the certificate (R540, R542) -/

/-- The hash of a key pair. -/
def pairHash (pair : List Byte) : List Byte := slice (Config.sha384 pair) 0 48

/-- A pair is the one of a fused slot that is not revoked. -/
def fusedPair (slot : Nat) (pair : List Byte) : Bool :=
  !Config.slotRevoked slot && pairHash pair == slice (Config.slotHash slot) 0 48

/-- The device certificate: device ID, the four public keys and the serial number, signed by the manufacturing root with
both algorithms. -/
def certificate : List Byte :=
  let b := Config.certForm [deviceId, identityKey, bindPublic, Config.serial]
  b ++ slice (Config.rootEdSign b) 0 64 ++ slice (Config.rootMlSign b) 0 3309

/-- The chain of SPDM slot 0, under the fused hashes of the root's two keys. -/
def certChain : List Byte := Config.chainForm (Config.rootHash.map fun h => slice h 0 48) certificate

/-- The signatures of this module's identity keys (R545). -/
def edSig (msg : List Byte) : List Byte := slice (Config.edSign (pairSecret infoEd) msg) 0 64
def mlSig (msg : List Byte) : List Byte := slice (Config.mlSign (pairSecret infoMl) msg) 0 3309

/-- The bytes and their two signatures. -/
def signed (b : List Byte) : List Byte := b ++ edSig b ++ mlSig b

/-! ## Bound images (R555) -/

/-- "BALVANATH BIND". -/
def bindInfo : List Byte := [0x42, 0x41, 0x4C, 0x56, 0x41, 0x4E, 0x41, 0x54, 0x48, 0x20, 0x42, 0x49, 0x4E, 0x44]

/-- The key-encryption key and its nonce for a recipient: device ID, X25519 then ML-KEM-768 shared secret, image bytes
0x000 to 0x05F. -/
def kek (id x kem head : List Byte) : List Byte × List Byte :=
  let b := slice (Config.hkdf384 id (slice x 0 32 ++ slice kem 0 32) (bindInfo ++ head) 44) 0 44
  (slice b 0 32, slice b 32 12)

/-- The content key that this module's recipient entry wraps. -/
def unwrap (entry head : List Byte) : Option (List Byte) :=
  let k := kek (slice entry 0 48) (Config.x25519 (pairSecret infoX) (slice entry 0x30 32))
    (Config.mlkemDecap (pairSecret infoKem) (slice entry 0x50 1088)) head
  (Config.gcmOpen k.1 k.2 (Config.wrapAad head) (slice entry 0x490 48)).map fun b => slice b 0 32

/-- A recipient entry: the content key wrapped for a device ID and its public keys (X25519, then ML-KEM-768) with the
ephemeral secrets eph. -/
def wrapEntry (key id pub head eph : List Byte) : List Byte :=
  let c := Config.mlkemEncap (slice pub 32 1184) eph
  let k := kek id (Config.x25519 eph (slice pub 0 32)) c.2 head
  slice id 0 48 ++ slice (Config.x25519Public eph) 0 32 ++ slice c.1 0 1088
    ++ slice (Config.gcmSeal k.1 k.2 (Config.wrapAad head) key) 0 48

/-- The nonce of chunk j: NONCE_BASE with its last 4 bytes XORed with j, big-endian. -/
def chunkNonce (head : List Byte) (j : Nat) : List Byte :=
  slice head 0x18 8 ++ (List.zipWith (fun a b => a ^^^ b) (slice head 0x20 4) (toBe 4 j))

/-- A chunk opened and sealed under the content key, with image bytes 0x000 to 0x05F as additional data. -/
def openChunk (key head : List Byte) (j : Nat) (data : List Byte) : Option (List Byte) :=
  Config.gcmOpen key (chunkNonce head j) head data
def sealChunk (key head : List Byte) (j : Nat) (data : List Byte) : List Byte :=
  slice (Config.gcmSeal key (chunkNonce head j) head data) 0 (data.length + 16)

end Sys2Proof.Machine
end

