-- ==== Sys2Proof/Machine/Token.lean ====
section
/-! DEFINITION. Multicast of tiles (R152 to R154, R383, R384), the token exchange (R420 to R427) and
the switch of phase maps (R418). -/

namespace Sys2Proof.Machine

/-! ## Writes of another unit into memory of a partition -/

/-- TAG_INDEX of a header for its new place (R185). -/
def retag (p : Place) (bs : List Byte) : List Byte := patch bs 0x14 (toLe 4 ((lineIndex p).getD 0))

/-! ## XCH.MCAST -/

/-- The place of a group destination at an offset; none beyond its scratchpad or slice (R154). -/
def copyPlace (d : Nat × Bool × Nat) (off n : Nat) : Option Place :=
  if d.2.1 then (if off + n ≤ 0x400000 then some (.pool d.1 (d.2.2 * 0x400000 + off)) else none)
  else if off + n ≤ padBytes then some (.pad (16 * d.1 + d.2.2) off) else none

/-- The packets of a tile of n bytes: offset and length, at most 256 bytes of payload each (R151). -/
def copyPieces (n : Nat) : List (Nat × Nat) := chunks 256 (n / 256 + 1) 0 n

/-- One copy of a packet; poison travels (R581). -/
def putCopyAt (p : Place) (bs : List Byte) (poisoned : Bool) (m : Mod) : Mod :=
  (spans (cellAddr p) bs.length).foldl (fun acc s =>
    let k := s.1 - cellAddr p
    let q := match p with
      | .pad g off => Place.pad g (off + k)
      | .pool n off => .pool n (off + k)
      | x => x
    writePlace acc q (slice bs k s.2) poisoned) m

/-- The drop of a copy beyond its destination is logged (R154), at the destination's compute die with reason 0 and INFO
0: a copy inside the module has no packet TYPE (DESIGN CHOICE, log 68). -/
def logCopyDrop (t : Clk) (task part : Nat) (d : Nat × Bool × Nat) (off : Nat) (m : Mod) : Mod :=
  let addr := if d.2.1 then poolAddr d.1 (d.2.2 * 0x400000 + off) else padAddr (16 * d.1 + d.2.2) off
  logFault t (logCD d.1) { kind := 2, index := BitVec.ofNat 8 d.1, typ := fDropped, part := some part, task := some task, addr := BitVec.ofNat 64 addr } m

def mcastGroup (m : Mod) (part n : Nat) : List (Nat × Bool × Nat) :=
  match (partSt m part).prog with
  | some p => p.mcast[n]?.getD []
  | none => []

def isMcast (v : VOp) : Bool := wOp v.word == 0xC3 && wExt v.word == 0

/-- The places in the group that earlier multicasts of one engine to it have still to reach: each destination receives
the writes of one source in send order (R162). -/
def mcastAhead (m : Mod) (g : Nat) (v : VOp) : List Nat :=
  let part := fun (x : VOp) => (ctx m g (x.task % 4)).part
  (((engine m g).vops.takeWhile fun x => x.id != v.id).filter fun x =>
    isMcast x && wf x.word 32 16 == wf v.word 32 16 && part x == part v).flatMap fun x => x.args.drop 2

/-- A multicast in flight: its tile as read at its source, offset in args 1, and the destinations still to receive it,
from args 2 on, by their place in the group. Packets beyond a destination are dropped; the rest of its copy and every
other copy is delivered (R153, R154). -/
def runMcast (t : Clk) (g : Nat) (v : VOp) (m : Mod) : Mod :=
  let off := arg v.args 1
  let part := (ctx m g (v.task % 4)).part
  let grp := mcastGroup m part (wf v.word 32 16)
  let ahead := mcastAhead m g v
  let pcs := copyPieces v.bytes.length
  let r := (v.args.drop 2).foldl (fun (acc : Mod × List Nat × List ((Nat × Bool × Nat) × Nat)) i =>
    match grp[i]? with
    | none => acc
    | some d =>
      let fits := pcs.filterMap fun x => (copyPlace d (off + x.1) x.2).map fun p => (x, p)
      if ahead.contains i ∨ fits.any (fun x => pinnedAt acc.1 x.2 x.1.2) then (acc.1, acc.2.1 ++ [i], acc.2.2)
      else
        let bs := match copyPlace d off 1 with
          | some p => retag p v.bytes
          | none => v.bytes
        (fits.foldl (fun m x => putCopyAt x.2 (slice bs x.1.1 x.1.2) v.poisoned m) acc.1, acc.2.1,
          acc.2.2 ++ (pcs.filter fun x => (copyPlace d (off + x.1) x.2).isNone).map fun x => (d, off + x.1))) (m, [], [])
  let m1 := if r.2.1.isEmpty then dropVop g v.id r.1
    else modEngine r.1 g fun e => { e with vops := e.vops.map fun x => if x.id = v.id then { x with args := x.args.take 2 ++ r.2.1 } else x }
  match r.2.2.getLast? with
  | none => m1
  | some d => failTask t v.task 0 (logCD d.1.1)
      (r.2.2.foldl (fun m x => logCopyDrop t v.task part x.1 x.2 m) (dropSignals m1 v.id))

/-- Copies held at pinned bytes are tried again. -/
def runMcasts (t : Clk) (m : Mod) : Mod :=
  (m.eng.flatMap fun ge => (ge.2.vops.filter isMcast).map fun v => (ge.1, v)).foldl (fun m x => runMcast t x.1 x.2 m) m

/-- The source tile of a multicast: R305, R186, R209. -/
def mcastChk (m : Mod) (g c : Nat) (w : LviWord) : Option (Byte × Nat) :=
  let src := (cnt m g c (wf w 60 4)).toNat
  firstErr [padOperand 256 src 64,
    if notLanded m g src 64 then none else
    let h := headAt m g src
    if (deadRange m g src 64).isSome then deadRange m g src 64
    else if ¬ hdrOk h (some (src / 256)) then some (0x60, src)
    else firstErr [padOperand 256 src (tileExtent h), deadRange m g src (tileExtent h)]]

def mcastMiss (m : Mod) (g c : Nat) (w : LviWord) : Option Miss :=
  let src := (cnt m g c (wf w 60 4)).toNat
  if notLanded m g src 64 ∨ notLanded m g src (tileExtent (headAt m g src)) then some .datum else none

/-- The replica list of a shard (R383). -/
def replicas (t : Clk) (g c : Nat) (s : Shard) (m : Mod) : Mod × Except XErr (List Nat) :=
  let rq := reqOf m (.task (Fin.ofNat 256 g) (Fin.ofNat 4 c))
  match readMem t m rq s.listVa.toNat (2 * s.listCount) .clean with
  | (m1, .error e) => (m1, .error e)
  | (m1, .ok (bs, false)) => (m1, .ok ((List.range s.listCount).map fun i => fld bs (2 * i) 2 % 2 ^ 14))
  | (m1, .ok (_, true)) =>
    let e : XErr := { typ := fPoison, reason := 0, addr := s.listVa.toNat, va := true, poison := true }
    (logErr t rq e m1, .error e)

/-- The arrival counter of a shard in the receiving partition (R383). -/
def arrivalSignal (t : Clk) (part : Nat) (s : Shard) (m : Mod) : Mod :=
  match s.arriveEn, (partDies m part)[s.arriveDie]? with
  | true, some d => applySignal t d s.arriveObj 1 m
  | _, _ => m

/-- Whether some page of a range holds bound content (R33, R557). -/
def boundRange (m : Mod) (rq : Req) (wr : Bool) (a n : Nat) : Bool :=
  (spans a n).any fun x => match spanCheck m rq wr x.1 with
    | .ok (_, b) => b
    | .error _ => false

/-- Whether some byte of a range lies in host memory. -/
def hostRange (m : Mod) (rq : Req) (wr : Bool) (a n : Nat) : Bool :=
  (spans a n).any fun x => match spanCheck m rq wr x.1 with
    | .ok (.host _, _) => true
    | _ => false

/-- A copy between bound pages and host memory, either way (R557). -/
def boundHost (m : Mod) (rq : Req) (src dst n : Nat) : Bool :=
  (boundRange m rq false src n && hostRange m rq true dst n) || (hostRange m rq false src n && boundRange m rq true dst n)

/-- A device is in the device set that shares a partition's bound content (R557). -/
def inDeviceSet (m : Mod) (part : Nat) (dev : List Byte) : Bool := (partSt m part).boundSet.contains dev

/-- Part of a parameter tile written at this module, its header with the new TAG_INDEX; refused on a
translation fault, or on a bound page when the peer is outside the device set (R383, R384, R557). -/
def paramWrite (t : Clk) (r : Requester) (part : Nat) (peerOk : Bool) (s : Shard) (off : Nat) (first : Bool) (bs : List Byte) (m : Mod) :
    Mod × Option XErr :=
  let rq : Req := { reqOf m r with part := some part, phys := false }
  let va := s.paramVa.toNat + off
  if boundRange m rq true va bs.length ∧ ¬ peerOk then
    let e : XErr := { typ := fAccess, reason := 0x74, addr := va, va := true }
    (logErr t rq e m, some e)
  else
    let data := match first, spanCheck m rq true va with
      | true, .ok (p, _) => retag p bs
      | _, _ => bs
    writeMem t m rq va data false .clean

def paramInline (n : Nat) (last : Bool) : List Byte := inlineOf [(0x20, toBe 4 n), (0x24, toBe 1 (b2n last))]

/-- The PARAM packets of a tile to one module. -/
def paramPackets (m : Mod) (part dst sid off : Nat) (bs : List Byte) : List Packet :=
  (List.range (ceilDiv bs.length 4096)).map fun i =>
    let x := (bs.drop (4096 * i)).take 4096
    packet m part 0x12 1 dst 0 0 sid (BitVec.ofNat 64 (off + 4096 * i))
      (paramInline x.length (decide (4096 * (i + 1) ≥ bs.length))) (slice x 0 (roundUp x.length 256))

/-- A copy of a shard's tile in flight to this module itself: offset and shard in args. A write that would fall on a
pinned byte is held (R136). -/
def isReplica (v : VOp) : Bool := wOp v.word == 0xC3 && wExt v.word == 1

def runReplica (t : Clk) (g : Nat) (v : VOp) (m : Mod) : Mod :=
  let c := v.task % 4
  let part := (ctx m g c).part
  let r : Requester := .task (Fin.ofNat 256 g) (Fin.ofNat 4 c)
  match lookShard m (arg v.args 1) with
  | .error _ => dropVop g v.id m
  | .ok (_, s) =>
    if writeHeld m { reqOf m r with part := some part, phys := false } (s.paramVa.toNat + arg v.args 0) v.bytes.length then m
    else match paramWrite t r part (inDeviceSet m part deviceId) s (arg v.args 0) true v.bytes (dropVop g v.id m) with
      | (m1, some e) => faultAccess t v.task e (dropSignals m1 v.id)
      | (m1, none) => arrivalSignal t part s m1

def ownReplica (t : Clk) (g id task sid off : Nat) (w : LviWord) (bs : List Byte) (m : Mod) : Mod :=
  let v : VOp := { id := id, task := task, word := w, args := [off, sid], leave := 0, bytes := bs }
  runReplica t g v (modEngine m g fun e => { e with vops := e.vops ++ [v] })

/-- The copies of a shard's tile. One to another module is taken as visible there once the partner has acknowledged its
packets: no packet says when it is (R304, R384; DEDUCED, log 36). -/
def sendReplicas (t : Clk) (g c id idx sid : Nat) (w : LviWord) (off : Nat) (bs : List Byte) (bad : Bool) (src : Nat) (ds : List Nat) (m : Mod) : Mod :=
  let task := taskId g c
  let part := (ctx m g c).part
  ds.foldl (fun m d =>
    if d = moduleNum m then ownReplica t g id task sid off w bs m
    else if bad then faultPoison t task src (dropSignals m id)
    else match route m part d with
      | .error r => faultTask t task fTask r 0 (BitVec.ofNat 64 idx) false (dropSignals m id)
      | .ok q => (paramPackets m part d sid off bs).foldl (fun m k => sendOn m q { pkt := k, deps := [], task := some task, works := [id], acked := true }) m) m

/-- XCH.MCAST; its signal is placed before the copies, whose failure withdraws it. -/
def mcastForm : Form where
  chk := fun _ m g c w => mcastChk m g c w
  miss := fun _ m g c w => mcastMiss m g c w
  eff := fun t g c w _ m =>
    let task := taskId g c
    let src := (cnt m g c (wf w 60 4)).toNat
    let off := (cnt m g c (wf w 56 4)).toNat
    if padPoison m g src 64 then faultPoison t task src m else
    let (id, m1) := fresh m
    if wExt w = 0 then
      let n := (mcastGroup m (ctx m g c).part (wf w 32 16)).length
      let len := tileExtent (headAt m g src)
      let v : VOp := { id := id, task := task, word := w, args := [src, off] ++ List.range n, leave := 0
                       bytes := padRead m g src len, poisoned := padPoison m g src len }
      let m2 := modEngine m1 g fun e => { e with vops := e.vops ++ [v] }
      runMcast t g v (advance t g c (putSignal m2 task w 0 (some id)))
    else
      let sid := (cnt m g c (wf w 52 4)).toNat
      match lookShard m sid with
      | .error r => faultXch t g c r sid 0 m
      | .ok (_, s) =>
        if s.ownerModule ≠ moduleNum m then faultInsn t g c 0x48 0 m
        else match replicas t g c s m1 with
          | (m2, .error e) => faultAccess t task e m2
          | (m2, .ok ds) =>
            let n := tileExtent (headAt m g src)
            sendReplicas t g c id (ctx m g c).pc sid w off (padRead m g src n) (padPoison m g src n) src ds
              (advance t g c (putSignal m2 task w 0 (some id)))

/-! ## The grid of token runs -/

/-- Column slices of a run of the format, and the columns of each (R420). -/
def gridC (row fmt : Nat) : Nat := ceilDiv (row * (fmtBits fmt / 8) * 32) 65536
def gridW (row fmt : Nat) : Nat := row / gridC row fmt
def gridTile (row fmt : Nat) : Nat := roundUp (64 + 32 * gridW row fmt * (fmtBits fmt / 8)) 256
/-- Offset of tile (g, c) from the run's start. -/
def gridOff (row fmt g c : Nat) : Nat := (g * gridC row fmt + c) * gridTile row fmt
def gridBytes (row fmt rows : Nat) : Nat := gridOff row fmt (rows / 32) 0

/-- The bytes of row t: (offset, length) per slice. -/
def gridRow (base row fmt t : Nat) : List (Nat × Nat) :=
  let n := gridW row fmt * (fmtBits fmt / 8)
  (List.range (gridC row fmt)).map fun c => (base + gridOff row fmt (t / 32) c + 64 + t % 32 * n, n)

def gridRowBytes (m : Mod) (g base row fmt t : Nat) : List Byte := (gridRow base row fmt t).flatMap fun x => padRead m g x.1 x.2

/-- Writes bytes at an offset within a row. -/
def gridPut (m : Mod) (g base row fmt t off : Nat) (bs : List Byte) : Mod :=
  let n := gridW row fmt * (fmtBits fmt / 8)
  (gridRow base row fmt t).zipIdx.foldl (fun m x =>
    let lo := max off (n * x.2)
    let hi := min (off + bs.length) (n * (x.2 + 1))
    if lo < hi then padWrite m g (x.1.1 + (lo - n * x.2)) (slice bs (lo - off) (hi - lo)) else m) m

def gridTiles (base row fmt rows : Nat) : List Nat :=
  (List.range (rows / 32)).flatMap fun g => (List.range (gridC row fmt)).map fun c => base + gridOff row fmt g c

/-- A header of the run (R424, R420). -/
def gridHdrOk (row fmt : Nat) (h : Hdr) (off : Nat) : Bool :=
  hdrOk h (some (off / 256)) && !h.skip && h.fmt == fmt && h.rows32 == 1 && h.cols32 == gridW row fmt / 32 && !h.order
def gridOk (m : Mod) (g base row fmt rows : Nat) : Bool :=
  base % 256 == 0 && decide (base + gridBytes row fmt rows ≤ padBytes) && (gridTiles base row fmt rows).all fun o => gridHdrOk row fmt (headAt m g o) o

/-- A tile of FORMAT 0x30 with one column block (R420, R424). -/
def rawTileOk (m : Mod) (g off rows : Nat) : Bool :=
  let h := headAt m g off
  off % 256 == 0 && decide (off + tileExtent h ≤ padBytes) && hdrOk h (some (off / 256)) && !h.skip && h.fmt == 0x30 && h.rows32 == rows / 32 && h.cols32 == 1

/-! ## Expert rounds -/

def expertAt (m : Mod) (map x : Nat) : Option Expert := (bank m map).experts[x]?

/-- The receive run, record and gate tiles of an expert (R424). -/
def expertTilesOk (m : Mod) (map : Nat) (x : Expert) : Bool :=
  let b := bank m map
  let g := x.engine
  gridOk m g x.recv b.rowElems b.fmt x.capacity
    && rawTileOk m g x.record x.capacity && (headAt m g x.record).paylen == 16 * x.capacity
    && rawTileOk m g x.gate x.capacity && (headAt m g x.gate).paylen == 4 * x.capacity

/-- The experts of an engine of this module that take tokens, by index. -/
def expertsOn (m : Mod) (map g : Nat) : List (Nat × Expert) :=
  ((bank m map).experts.zipIdx.filter fun p => p.1.module == moduleNum m && p.1.engine == g && p.1.capacity != 0).map fun p => (p.2, p.1)

/-- A packet between exchange units of this module, or on its route. Its own loss is the issuer's. -/
def tokenDropPacket (m : Mod) (part : Nat) (k : Packet) : Packet :=
  packet m part 0x22 2 k.src.toNat (ifld k 0x24 1) 0 k.arg.toNat 0
    (inlineOf [(0x25, toBe 1 (ifld k 0x25 1)), (0x28, toBe 4 (ifld k 0x28 4))]) []

/-- The key of a token row: module, engine, ticket, row. -/
def rowKey (k : Packet) : Nat × Nat × Nat × Nat := (k.src.toNat, ifld k 0x24 1, ifld k 0x25 1, ifld k 0x28 4)

def countTokenDrop (part : Nat) (m : Mod) : Mod := modPart m part fun p => { p with tokenDrop := sat32 (p.tokenDrop + 1) }

/-- Record row i for a token (R423). -/
def recordRow (k : Packet) : List Byte :=
  [1, 0] ++ toLe 2 k.src.toNat ++ toLe 1 (ifld k 0x24 1) ++ toLe 1 (ifld k 0x25 1) ++ toLe 2 0 ++ toLe 4 (ifld k 0x28 4) ++ toLe 4 0

def lastSeg (k : Packet) : Bool := ifld k 0x2C 2 + 1 == ifld k 0x2E 2

/-- The row segment of a token written into its slot. -/
def putToken (g : Nat) (b : Bank) (x : Expert) (slot : Nat) (k : Packet) (m : Mod) : Mod :=
  let n := b.rowElems * (fmtBits b.fmt / 8)
  let o := 4096 * ifld k 0x2C 2
  gridPut m g x.recv b.rowElems b.fmt slot o (slice k.body 0 (min 4096 (n - o)))

/-- Whether the writes of a token slot meet pinned bytes. -/
def slotPinned (m : Mod) (g : Nat) (b : Bank) (x : Expert) (slot : Nat) : Bool :=
  (gridRow x.recv b.rowElems b.fmt slot).any (fun r => pinned m g r.1 r.2)
    || pinned m g (x.record + 64 + 16 * slot) 16 || pinned m g (x.gate + 64 + 4 * slot) 4

/-- What a VC2 packet does at its engine: done, held until a round reopens (R425) or until a pin goes (R136), or a
reply to send. -/
inductive Vc2 where
  | done (m : Mod)
  | held
  | pinned
  | reply (k : Packet) (m : Mod)
  deriving DecidableEq, Repr

/-- A TOKEN at the expert's engine (R423, R424). -/
def tokenAt (part g n : Nat) (x : Expert) (k : Packet) (m : Mod) : Vc2 :=
  let b := bank m k.map.val
  let r := expRound m g n
  let key := rowKey k
  if r.st ≠ .opn then .held
  else if ifld k 0x2C 2 = 0 then
    if r.fill ≥ x.capacity ∨ (r.fill = 0 ∧ ¬ expertTilesOk m k.map.val x) then
      let m1 := modExp m g n fun r => if lastSeg k then r else { r with dropping := r.dropping ++ [key] }
      .reply (tokenDropPacket m part k) (countTokenDrop part m1)
    else if slotPinned m g b x r.fill then .pinned
    else
      let m1 := putToken g b x r.fill k m
      let m2 := padWrite (padWrite m1 g (x.record + 64 + 16 * r.fill) (recordRow k)) g (x.gate + 64 + 4 * r.fill) (toLe 4 (ifld k 0x20 4))
      .done (modExp m2 g n fun r => { r with
        fill := r.fill + 1, maxExp := max r.maxExp (ifld k 0x26 1)
        slotOf := if lastSeg k then r.slotOf else r.slotOf ++ [(key.1, key.2.1, key.2.2.1, key.2.2.2, r.fill)] })
  else if r.dropping.contains key then
    .done (modExp m g n fun r => { r with dropping := if lastSeg k then r.dropping.filter (· != key) else r.dropping })
  else match r.slotOf.find? fun s => (s.1, s.2.1, s.2.2.1, s.2.2.2.1) == key with
    | none => .done m
    | some s =>
      if slotPinned m g b x s.2.2.2.2 then .pinned else
      let m1 := putToken g b x s.2.2.2.2 k m
      .done (modExp m1 g n fun r => { r with slotOf := if lastSeg k then r.slotOf.filter (· != s) else r.slotOf })

/-- The end of a round's senders (R425): the empty rows zeroed, the headers' MAXEXP, COMPLETE. -/
def completeRound (t : Clk) (g n : Nat) (b : Bank) (x : Expert) (m : Mod) : Mod :=
  let r := expRound m g n
  let rows := (List.range x.capacity).drop r.fill
  let z := b.rowElems * (fmtBits b.fmt / 8)
  let m1 := rows.foldl (fun m i => gridPut m g x.recv b.rowElems b.fmt i 0 (List.replicate z 0)) m
  let m2 := padWrite (padWrite m1 g (x.record + 64 + 16 * r.fill) (List.replicate (16 * (x.capacity - r.fill)) 0))
    g (x.gate + 64 + 4 * r.fill) (List.replicate (4 * (x.capacity - r.fill)) 0)
  let m3 := (gridTiles x.recv b.rowElems b.fmt x.capacity).foldl (fun m o => padWrite m g (o + 1) (toLe 1 (if r.fill = 0 then 0 else r.maxExp))) m2
  applySignal t (g / 16) x.endObj 1 (modExp m3 g n fun r => { r with st := .complete })

/-- Whether the writes that end a round meet pinned bytes. -/
def roundPinned (m : Mod) (g n : Nat) (b : Bank) (x : Expert) : Bool :=
  let r := expRound m g n
  let k := x.capacity - r.fill
  ((List.range x.capacity).drop r.fill).any (fun i => (gridRow x.recv b.rowElems b.fmt i).any fun y => pinned m g y.1 y.2)
    || pinned m g (x.record + 64 + 16 * r.fill) (16 * k) || pinned m g (x.gate + 64 + 4 * r.fill) (4 * k)
    || (gridTiles x.recv b.rowElems b.fmt x.capacity).any fun o => pinned m g (o + 1) 1

/-- Whether the next TOKEN_END ends the round of an expert. -/
def endsNext (m : Mod) (g : Nat) (p : Nat × Expert) : Bool := decide ((expRound m g p.1).ends + 1 ≥ p.2.senders)

/-- A TOKEN_END at an engine: one more for every OPEN round, held while a round is not OPEN (R425). -/
def tokenEndAt (t : Clk) (g : Nat) (k : Packet) (m : Mod) : Vc2 :=
  let xs := expertsOn m k.map.val g
  if xs.any fun p => (expRound m g p.1).st != .opn then .held
  else if xs.any fun p => endsNext m g p && roundPinned m g p.1 (bank m k.map.val) p.2 then .pinned
  else .done (xs.foldl (fun m p =>
    let m1 := modExp m g p.1 fun r => { r with ends := r.ends + 1 }
    if (expRound m1 g p.1).ends ≥ p.2.senders then completeRound t g p.1 (bank m k.map.val) p.2 m1 else m1) m)

/-! ## The source's tickets -/

def ticketAt (m : Mod) (g n : Nat) : Option Ticket := ((engine m g).tickets.find? fun p => p.1 == n).map (·.2)
def setTicket (m : Mod) (g n : Nat) (x : Option Ticket) : Mod :=
  modEngine m g fun e =>
    let rest := e.tickets.filter fun p => p.1 != n
    { e with tickets := match x with | none => rest | some y => rest ++ [(n, y)] }

/-- The DISPATCH in flight of a ticket. -/
def ticketOp (m : Mod) (g n : Nat) : Option VOp := (engine m g).vops.find? fun v => wOp v.word == 0xC4 && arg v.args 0 == n

/-- A ticket with nothing outstanding: the count of dropped entries into counter CS, the ticket free,
the DISPATCH complete (R427). -/
def finishTicket (g n : Nat) (m : Mod) : Mod :=
  match ticketAt m g n with
  | none => m
  | some x =>
    if x.left ≠ 0 then m else
    let m1 := setTicket m g n none
    let m2 := if (ctx m1 g (x.task % 4)).st = .empty then m1 else setCnt g (x.task % 4) (wf x.word 60 4) (BitVec.ofNat 32 x.dropped) m1
    match ticketOp m2 g n with
    | some v => dropVop g v.id m2
    | none => m2

/-- A TOKEN_RET at the source's engine: each value added with one rounding (R427). -/
def tokenRetAt (g : Nat) (k : Packet) (m : Mod) : Vc2 :=
  let n := ifld k 0x25 1
  match ticketAt m g n with
  | none => .done m
  | some x =>
    let row := ifld k 0x28 4
    let o := 4096 * ifld k 0x2C 2
    let len := min 4096 (4 * x.cols - o)
    let rs := gridRow x.dest x.cols 0x10 row
    if row ≥ x.rows then .done m
    else if rs.any fun r => pinned m g r.1 r.2 then .pinned
    else
      let old := slice (gridRowBytes m g x.dest x.cols 0x10 row) o len
      let sum := (List.range (len / 4)).flatMap fun i => toLe 4 (fadd (word32At old i) (word32At k.body i)).toNat
      let m1 := gridPut m g x.dest x.cols 0x10 row o sum
      if lastSeg k then .done (finishTicket g n (setTicket m1 g n (some { x with left := x.left - 1 }))) else .done m1

def tokenDropAt (g : Nat) (k : Packet) (m : Mod) : Vc2 :=
  let n := ifld k 0x25 1
  match ticketAt m g n with
  | none => .done m
  | some x => .done (finishTicket g n (setTicket m g n (some { x with left := x.left - 1, dropped := x.dropped + 1 })))

/-! ## VC2 arrivals at an engine -/

/-- The expert round of an engine behind which arrivals wait (R425). -/
def blockedAt (m : Mod) (g : Nat) : Option Nat := (m.exp.find? fun p => p.1 / 4096 == g && !p.2.held.isEmpty).map fun p => p.1 % 4096

/-- Whether two packets belong to one transfer, of which a held write holds every part (R136): the tokens and the end of
one source engine, the results of one row, a parameter tile; BULK packets name no more than their source module. -/
def sameUnit (x k : Packet) : Bool :=
  x.src == k.src && match x.typ.toNat, k.typ.toNat with
    | 0x20, 0x20 | 0x20, 0x23 | 0x23, 0x20 | 0x23, 0x23 => ifld x 0x24 1 == ifld k 0x24 1
    | 0x21, 0x21 => ifld x 0x25 1 == ifld k 0x25 1 && ifld x 0x28 4 == ifld k 0x28 4
    | 0x12, 0x12 => x.arg == k.arg
    | 0x30, 0x30 => true
    | _, _ => false

/-- The round at whose pin an earlier packet of the same transfer waits; the others go on (R136). -/
def pinnedBehind (m : Mod) (k : Packet) : Option Nat :=
  (m.exp.find? fun p => p.1 / 4096 == k.dstEng.toNat && p.2.pinHeld.any fun h => sameUnit h.2.1 k).map fun p => p.1 % 4096

def dropToken (t : Clk) (port part : Nat) (k : Packet) (m : Mod) : Mod :=
  logFault t (logLD (portDie port)) { kind := 6, index := BitVec.ofNat 8 port, typ := fDropped, part := some part, addr := BitVec.ofNat 64 k.dst.toNat, info := BitVec.ofNat 64 k.typ.toNat } m

/-- One VC2 packet at the engine it names, which is one of the partition it came for (R393). -/
def vc2At (t : Clk) (port part : Nat) (k : Packet) (m : Mod) : Vc2 :=
  let g := k.dstEng.toNat
  if dieOwner m (g / 16) ≠ some part then .done (dropToken t port part k m) else
  match k.typ.toNat with
  | 0x20 => match expertAt m k.map.val k.arg.toNat with
    | some x => if x.module = moduleNum m ∧ x.engine = g ∧ x.capacity ≠ 0 then tokenAt part g k.arg.toNat x k m else .done (dropToken t port part k m)
    | none => .done (dropToken t port part k m)
  | 0x21 => tokenRetAt g k m
  | 0x22 => tokenDropAt g k m
  | _ => tokenEndAt t g k m

/-- Where a held packet waits: its expert's list, or that of a round of its engine that is not OPEN. -/
def holdKey (m : Mod) (k : Packet) : Nat :=
  if k.typ = 0x20 then k.arg.toNat
  else ((expertsOn m k.map.val k.dstEng.toNat).find? fun p => (expRound m k.dstEng.toNat p.1).st != .opn).elim 0 (·.1)

/-- A reply to another module; with no route it is lost (R406), and on a port below Cangor 2.1 it is dropped and
counted (R396). -/
def sendReply (part : Nat) (k : Packet) (m : Mod) : Mod :=
  match route m part k.dst.toNat with
  | .ok q => if k.vc = 2 ∧ (port m q).version < 1 then countTokenDrop part m
    else sendOn m q { pkt := k, deps := [], task := none, works := [] }
  | .error _ => m

def holdRound (g n : Nat) (h : Nat × Packet × Option (Nat × Nat)) (m : Mod) : Mod := modExp m g n fun r => { r with held := r.held ++ [h] }
def holdPin (g n : Nat) (h : Nat × Packet × Option (Nat × Nat)) (m : Mod) : Mod := modExp m g n fun r => { r with pinHeld := r.pinHeld ++ [h] }

/-- A VC2 packet arrives: behind held ones it waits; a reply to this module arrives in turn. `w`: the work and the task of
the COMBINE of this module that a result belongs to. -/
def vc2Arrive (t : Clk) (port part : Nat) : Nat → Packet → Option (Nat × Nat) → Mod → Mod
  | 0, _, _, m => m
  | fuel + 1, k, w, m =>
    let g := k.dstEng.toNat
    match blockedAt m g, pinnedBehind m k with
    | some n, _ => holdRound g n (port, k, w) m
    | none, some n => holdPin g n (port, k, w) m
    | none, none => match vc2At t port part k m with
      | .done m1 => m1
      | .held => holdRound g (holdKey m k) (port, k, w) m
      | .pinned => holdPin g (holdKey m k) (port, k, w) m
      | .reply a m1 => if a.dst.toNat = moduleNum m1 then vc2Arrive t port part fuel a none m1 else sendReply part a m1

def arriveAt (t : Clk) (port part : Nat) (k : Packet) (w : Option (Nat × Nat)) (m : Mod) : Mod := vc2Arrive t port part 3 k w m

/-- Held arrivals proceed in order, once nothing holds the first of them. -/
def releaseHeld (t : Clk) (g n : Nat) (m : Mod) : Mod :=
  let part := (dieOwner m (g / 16)).getD 0
  let l := (expRound m g n).held
  l.foldl (fun m x => arriveAt t x.1 part x.2.1 x.2.2 m) (modExp m g n fun r => { r with held := [] })

/-- Arrivals that wait for a pin are tried again. -/
def releasePins (t : Clk) (g n : Nat) (m : Mod) : Mod :=
  let part := (dieOwner m (g / 16)).getD 0
  let l := (expRound m g n).pinHeld
  l.foldl (fun m x => arriveAt t x.1 part x.2.1 x.2.2 m) (modExp m g n fun r => { r with pinHeld := [] })

def releaseAll (t : Clk) (m : Mod) : Mod :=
  let m1 := (m.exp.filter fun p => !p.2.pinHeld.isEmpty).foldl (fun m p => releasePins t (p.1 / 4096) (p.1 % 4096) m) m
  (m1.exp.filter fun p => !p.2.held.isEmpty).foldl (fun m p => releaseHeld t (p.1 / 4096) (p.1 % 4096) m) m1

/-! ## DISPATCH -/

/-- A dispatch's operands: token run, route tile, destination, rows. -/
structure DispOp where
  cs : Nat
  ce : Nat
  cd : Nat
  rows : Nat
  deriving DecidableEq, Repr

def dispOp (m : Mod) (g c : Nat) (w : LviWord) : DispOp where
  cs := (cnt m g c (wf w 60 4)).toNat
  ce := (cnt m g c (wf w 56 4)).toNat
  cd := (cnt m g c (wf w 52 4)).toNat
  rows := 32 * (headAt m g (cnt m g c (wf w 56 4)).toNat).rows32

def actBank (m : Mod) (g c : Nat) : Nat × Bank :=
  let n := activeMap m (ctx m g c).part
  (n, bank m n)

/-- The ranges a dispatch reads and writes. -/
def dispRanges (m : Mod) (g c : Nat) (w : LviWord) : List (Nat × Nat) × List (Nat × Nat) :=
  let d := dispOp m g c w
  let b := (actBank m g c).2
  ([(d.ce, 64 + 32 * d.rows), (d.cs, gridBytes b.rowElems b.fmt d.rows)], [(d.cd, gridBytes b.rowElems 0x10 d.rows)])

def tokenChk (m : Mod) (g c : Nat) (w : LviWord) : Option (Byte × Nat) :=
  let d := dispOp m g c w
  let b := (actBank m g c).2
  firstErr ([padOperand 256 d.cs 64, padOperand 256 d.ce 64, padOperand 256 d.cd 64,
    if ¬ b.loaded then some (0x49, 0) else none]
    ++ (if notLanded m g d.ce 64 then [] else
      [deadRange m g d.ce 64, if ¬ hdrOk (headAt m g d.ce) (some (d.ce / 256)) then some (0x60, d.ce) else none,
       padOperand 256 d.ce (tileExtent (headAt m g d.ce)),
       if ¬ rawTileOk m g d.ce d.rows ∨ d.rows > 2048 then some (0x4A, d.ce) else none]
      ++ ((dispRanges m g c w).1 ++ (dispRanges m g c w).2).map (fun r => padOperand 256 r.1 r.2)
      ++ (dispRanges m g c w).1.map fun r => deadRange m g r.1 r.2))

def tokenMiss (m : Mod) (g c : Nat) (w : LviWord) : Option Miss :=
  let r := dispRanges m g c w
  if notLanded m g (dispOp m g c w).ce 64 then some .datum
  else if r.1.any (fun x => notLanded m g x.1 x.2) || r.2.any fun x => pinned m g x.1 x.2 then some .datum
  else none

def freeTicket (m : Mod) (g : Nat) : Option Nat := (List.range 16).find? fun n => (ticketAt m g n).isNone

/-- The destination payload zeroed and its headers written (R421). -/
def zeroRun (m : Mod) (g base row rows : Nat) : Mod :=
  (gridTiles base row 0x10 rows).foldl (fun m o =>
    padWrite m g o (buildTile (hdrFor 0x10 1 (gridW row 0x10 / 32) false 0 (o / 256) 0 0 0) (List.replicate (128 * gridW row 0x10) 0) [])) m

/-- Entry j of route row t: valid, expert, gate. -/
def routeEntry (m : Mod) (g ce t j : Nat) : Option (Nat × Nat) :=
  let v := leNat (padRead m g (ce + 64 + 32 * t + 8 * j) 8)
  if bit v 63 then some (bits v 32 16, v % 2 ^ 32) else none

/-- The TOKEN packets of one entry: the row in segments of 4,096 bytes (R422). -/
def tokenPackets (m : Mod) (part g tk t maxexp : Nat) (x : Expert) (n gate : Nat) (row : List Byte) : List Packet :=
  let segs := max 1 (ceilDiv row.length 4096)
  (List.range segs).map fun s =>
    let b := (row.drop (4096 * s)).take 4096
    packet m part 0x20 2 x.module x.engine 0 n 0
      (inlineOf [(0x20, toBe 4 gate), (0x24, toBe 1 g), (0x25, toBe 1 tk), (0x26, toBe 1 maxexp), (0x28, toBe 4 t),
        (0x2C, toBe 2 s), (0x2E, toBe 2 segs)]) (slice b 0 (roundUp b.length 256))

/-- A packet of a dispatch or combine: to this module's engine, or on its route; a port below
Cangor 2.1 takes no token (R396). Answers whether it was dropped for that. A result to another module is taken as added
there once the partner has acknowledged its packet: no packet says when it is (R426; DEDUCED, log 36). -/
def sendToken (t : Clk) (part task id : Nat) (k : Packet) (m : Mod) : Except Byte (Mod × Bool) :=
  if k.dst.toNat = moduleNum m then .ok (arriveAt t fabricPort part k (if k.typ = 0x21 then some (id, task) else none) m, false)
  else match route m part k.dst.toNat with
    | .error r => .error r
    | .ok q => if (port m q).version < 1 then .ok (countTokenDrop part m, true)
      else .ok (sendOn m q { pkt := k, deps := [], task := some task, works := [id], acked := k.typ = 0x21 }, false)

/-- The largest MAXEXP of a token run. -/
def runExp (m : Mod) (g base row fmt rows : Nat) : Nat := ((gridTiles base row fmt rows).map fun o => (headAt m g o).maxexp).foldl max 0

/-- A dispatch under way: module, first route failure. -/
def sendAll (t : Clk) (part task id g tk : Nat) (ks : List Packet) (acc : Mod × Option Byte) : Mod × Option Byte :=
  let lost := fun (m : Mod) => match ticketAt m g tk with
    | some x => setTicket m g tk (some { x with left := x.left - 1, dropped := x.dropped + 1 })
    | none => m
  ks.foldl (fun acc k =>
    if acc.2.isSome then acc else
    match sendToken t part task id k acc.1 with
    | .error r => (acc.1, some r)
    | .ok (m1, dropped) => (if dropped && k.typ == 0x20 && ifld k 0x2C 2 == 0 then lost m1 else m1, none)) acc

/-- One valid entry: dropped here when its expert is off, else one more outstanding and its packets
sent (R421). -/
def sendEntry (t : Clk) (part task id g tk : Nat) (b : Bank) (d : DispOp) (me row j : Nat) (acc : Mod × Option Byte) : Mod × Option Byte :=
  let note := fun (l dr : Nat) (m : Mod) => match ticketAt m g tk with
    | some x => setTicket m g tk (some { x with left := x.left + l, dropped := x.dropped + dr })
    | none => m
  match routeEntry acc.1 g d.ce row j with
  | none => acc
  | some (n, gate) => match b.experts[n]? with
    | some x =>
      if x.capacity = 0 then (note 0 1 acc.1, acc.2)
      else sendAll t part task id g tk (tokenPackets acc.1 part g tk row me x n gate (gridRowBytes acc.1 g d.cs b.rowElems b.fmt row)) (note 1 0 acc.1, acc.2)
    | none => (note 0 1 acc.1, acc.2)

/-- The TOKEN_END notices of a dispatch, one to each engine of the table. -/
def endPackets (m : Mod) (part g tk : Nat) (b : Bank) : List Packet :=
  ((b.experts.map fun x => (x.module, x.engine)).dedup).map fun x =>
    packet m part 0x23 2 x.1 x.2 0 0 0 (inlineOf [(0x24, toBe 1 g), (0x25, toBe 1 tk)]) []

/-- A DISPATCH that has issued and not begun: its ticket, its map, the operands it read, and its index. -/
def notBegun (v : VOp) : Bool := wOp v.word == 0xC4 && v.args.length == 7

/-- Poison among the bytes read (R582). -/
def poisonIn (m : Mod) (g : Nat) (rs : List (Nat × Nat)) : Option Nat := (rs.find? fun r => padPoison m g r.1 r.2).map (·.1)

/-- A DISPATCH begins: its destination is zeroed and its rows are sent. A write that would fall on a pinned byte holds it
(R136): a Transit meets no miss at its dispatch (R308). -/
def beginDispatch (t : Clk) (g : Nat) (v : VOp) (m : Mod) : Mod :=
  let part := (ctx m g (v.task % 4)).part
  let tk := arg v.args 0
  let b := bank m (arg v.args 1)
  let d : DispOp := { cs := arg v.args 2, ce := arg v.args 3, cd := arg v.args 4, rows := arg v.args 5 }
  if pinned m g d.cd (gridBytes b.rowElems 0x10 d.rows) then m else
  let me := runExp m g d.cs b.rowElems b.fmt d.rows
  let m1 := modEngine (zeroRun m g d.cd b.rowElems d.rows) g fun e =>
    { e with vops := e.vops.map fun x => if x.id = v.id then { x with args := x.args.take 2 } else x }
  let r := (List.range d.rows).foldl (fun acc row => (List.range 4).foldl (fun acc j => sendEntry t part v.task v.id g tk b d me row j acc) acc) (m1, none)
  let r2 := sendAll t part v.task v.id g tk (endPackets m part g tk b) r
  let m4 := match ticketAt r2.1 g tk with
    | some x => finishTicket g tk (setTicket r2.1 g tk (some { x with left := x.left - 1 }))
    | none => r2.1
  match r2.2 with
  | some e => faultTask t v.task fTask e 0 (BitVec.ofNat 64 (arg v.args 6)) false (dropSignals m4 v.id)
  | none => m4

/-- A DISPATCH issues: its ticket is taken, its context moves on, and it begins. -/
def dispatchRun (t : Clk) (g c : Nat) (w : LviWord) (id tk : Nat) (m : Mod) : Mod :=
  let task := taskId g c
  let d := dispOp m g c w
  let (n, b) := actBank m g c
  let v : VOp := { id := id, task := task, word := w, args := [tk, n, d.cs, d.ce, d.cd, d.rows, (ctx m g c).pc], leave := 0 }
  let m1 := modEngine m g fun e => { e with vops := e.vops ++ [v] }
  let m2 := setTicket m1 g tk (some { task := task, word := w, dest := d.cd, rows := d.rows, cols := b.rowElems, left := 1, dropped := 0 })
  beginDispatch t g v (advance t g c (putSignal m2 task w 0 (some id)))

/-- Copies of shards and DISPATCHes held at pinned bytes are tried again. -/
def runHeld (t : Clk) (m : Mod) : Mod :=
  let vs := m.eng.flatMap fun ge => ge.2.vops.map fun v => (ge.1, v)
  (vs.filter fun x => notBegun x.2).foldl (fun m x => beginDispatch t x.1 x.2 m)
    ((vs.filter fun x => isReplica x.2).foldl (fun m x => runReplica t x.1 x.2 m) m)

def dispatchForm : Form where
  chk := fun _ m g c w => tokenChk m g c w
  miss := fun _ m g c w => tokenMiss m g c w
  eff := fun t g c w _ m =>
    let d := dispOp m g c w
    let b := (actBank m g c).2
    if ¬ gridOk m g d.cs b.rowElems b.fmt d.rows then faultInsn t g c 0x4A d.cs m
    else match poisonIn m g (dispRanges m g c w).1, freeTicket m g with
      | some a, _ => faultPoison t (taskId g c) a m
      | none, none => faultInsn t g c 0x4A 0 m
      | none, some tk =>
        let (id, m1) := fresh m
        dispatchRun t g c w id tk m1

/-! ## COMBINE -/

/-- The expert whose tiles a COMBINE names (R426). -/
def combineExpert (m : Mod) (g c : Nat) (w : LviWord) : Option (Nat × Expert) :=
  (expertsOn m (actBank m g c).1 g).find? fun p =>
    p.2.record == (cnt m g c (wf w 56 4)).toNat && p.2.gate == (cnt m g c (wf w 48 4)).toNat && p.2.recv == (cnt m g c (wf w 52 4)).toNat
      && (expRound m g p.1).st == .complete

def outFmt (m : Mod) (g cs : Nat) : Nat := (headAt m g cs).fmt

def combineRanges (m : Mod) (g c : Nat) (w : LviWord) (x : Expert) : List (Nat × Nat) :=
  let cs := (cnt m g c (wf w 60 4)).toNat
  [(cs, gridBytes (actBank m g c).2.rowElems (outFmt m g cs) x.capacity), (x.record, 64 + 16 * x.capacity), (x.gate, 64 + 4 * x.capacity)]

/-- R426: the named expert's round, its tiles, and the output run. -/
def combineErr (m : Mod) (g c : Nat) (w : LviWord) : Option (Byte × Nat) :=
  let cs := (cnt m g c (wf w 60 4)).toNat
  let b := (actBank m g c).2
  match combineExpert m g c w with
  | none => some (0x4A, 0)
  | some (_, x) =>
    if ¬ expertTilesOk m (actBank m g c).1 x then some (0x4A, x.recv)
    else if (deadRange m g cs 64).isSome then deadRange m g cs 64
    else if ¬ (outFmt m g cs = 0x10 ∨ outFmt m g cs = 1) ∨ ¬ gridOk m g cs b.rowElems (outFmt m g cs) x.capacity then some (0x4A, cs)
    else firstErr ((combineRanges m g c w x).map fun r => deadRange m g r.1 r.2)

/-- The TOKEN_RET packets of record i (R426). -/
def retPackets (m : Mod) (part g c : Nat) (w : LviWord) (x : Expert) (i : Nat) : List Packet :=
  let cs := (cnt m g c (wf w 60 4)).toNat
  let b := (actBank m g c).2
  let r := padRead m g (x.record + 64 + 16 * i) 16
  if fld r 0 1 ≠ 1 then [] else
  let gate := BitVec.ofNat 32 (leNat (padRead m g (x.gate + 64 + 4 * i) 4))
  let fmt := outFmt m g cs
  let ys := gridRowBytes m g cs b.rowElems fmt i
  let vals := (List.range b.rowElems).map fun e =>
    let y : W32 := if fmt = 1 then toF32 (b16 (fld ys (2 * e) 2)) else word32At ys e
    fmul y gate
  let out := vals.flatMap fun v => toLe 4 v.toNat
  let segs := max 1 (ceilDiv out.length 4096)
  (List.range segs).map fun s =>
    let z := (out.drop (4096 * s)).take 4096
    packet m part 0x21 2 (fld r 2 2 % 2 ^ 14) (fld r 4 1) 0 0 0
      (inlineOf [(0x25, toBe 1 (fld r 5 1)), (0x28, toBe 4 (fld r 8 4)), (0x2C, toBe 2 s), (0x2E, toBe 2 segs)])
      (slice z 0 (roundUp z.length 256))

def combineForm : Form where
  chk := fun _ m g c w =>
    firstErr [padOperand 256 (cnt m g c (wf w 60 4)).toNat 64, padOperand 256 (cnt m g c (wf w 56 4)).toNat 64,
      padOperand 256 (cnt m g c (wf w 52 4)).toNat 64, padOperand 256 (cnt m g c (wf w 48 4)).toNat 64,
      match combineExpert m g c w with
      | some (_, x) => firstErr ((combineRanges m g c w x ++ [(x.recv, gridBytes (actBank m g c).2.rowElems (actBank m g c).2.fmt x.capacity)]).map
          fun r => padOperand 1 r.1 r.2)
      | none => none]
  miss := fun _ m g c w => match combineExpert m g c w with
    | none => none
    | some (_, x) => if (combineRanges m g c w x).any fun r => notLanded m g r.1 r.2 then some .datum else none
  eff := fun t g c w _ m =>
    let task := taskId g c
    let part := (ctx m g c).part
    match combineErr m g c w, combineExpert m g c w with
    | some (r, a), _ => faultInsn t g c r a m
    | none, none => m
    | none, some (n, x) => match poisonIn m g (combineRanges m g c w x) with
      | some a => faultPoison t task a m
      | none =>
        let (id, m1) := fresh m
        let m2 := modExp m1 g n fun r => { r with st := .closing, combine := some (task, id, w, (actBank m g c).1) }
        let ks := (List.range x.capacity).flatMap fun i => retPackets m part g c w x i
        let r := sendAll t part task id g 16 ks (advance t g c (putSignal m2 task w 0 (some id)), none)
        match r.2 with
        | some e => faultTask t task fTask e 0 (BitVec.ofNat 64 (ctx m g c).pc) false (dropSignals r.1 id)
        | none => r.1

/-- The round returns to OPEN once the COMBINE has read the last record, and held arrivals proceed
(R426). -/
def reopen (g n : Nat) (t : Clk) (m : Mod) : Mod :=
  if (expRound m g n).st ≠ .closing then m else
  releaseHeld t g n (modExp m g n fun r => { held := r.held, pinHeld := r.pinHeld })

/-! ## XCH.PHASE (R418) -/

/-- Whether a held PHASE_LOAD waits for the bank (R419). -/
def phaseHeld (m : Mod) (b : Nat) : Bool := !(bank m b).heldBy.isEmpty

def phaseMap (w : LviWord) : Nat := wf w 0 2

/-- The switch at the dispatch edge: of several at one tick the lowest task ID's map stands, and the
others that differ fault. -/
def phaseSwitch (t : Clk) (g c idx : Nat) (w : LviWord) (m : Mod) : Mod :=
  let part := (ctx m g c).part
  let task := taskId g c
  let now := t.sid.toNat
  let same := ((partSt m part).phaseAsk.filter fun x => x.1 == now) ++ [(now, task, phaseMap w, idx)]
  let low := same.foldl (fun a x => if x.2.1 < a.1 then (x.2.1, x.2.2.1) else a) (task, phaseMap w)
  let m1 := modPart m part fun p => { p with activeMap := low.2, phaseAsk := same }
  (same.filter fun x => x.2.2.1 != low.2).foldl (fun m x =>
    if (ctx m (x.2.1 / 4) (x.2.1 % 4)).st = .faulted then m else faultTask t x.2.1 fTask 0x49 0 (BitVec.ofNat 64 x.2.2.2) false m) m1

def phaseForm : Form where
  accept := fun m _ _ w => if ¬ (bank m (phaseMap w)).loaded ∨ phaseHeld m (phaseMap w) then some 0x49 else none
  eff := fun t g c w _ m => phaseSwitch t g c (ctx m g c).pc w (done t g c w m)

/-! ## What follows by itself, the exchange included -/

/-- Collects whose rounds are complete, copies and tokens held at pins, then the rest. -/
def settleAll (t : Clk) (m : Mod) : Mod := settle t (releaseAll t (runHeld t (runMcasts t (runCollects t m))))

/-- A command after which collects, held copies and held tokens are tried again. -/
def onAll (f : Clk → Mod → Mod) (s : State) : Host.Outcome State Fault Refusal :=
  onMod (fun t m => settleAll t (f t m)) s

/-- An exchange row: one attempt, then what follows by itself. -/
def exchangeRow (f : Form) (op : Nat) (ext : Option Nat) (e : Eng) (c : CtxId) (w : LviWord) (s : State) :
    Host.Outcome State Fault Refusal :=
  onAll (attempt f op ext e.val c.val w) s

/-! ## The rows -/

def execXchDrain (e : Eng) (c : CtxId) (w : LviWord) (s : State) : Host.Outcome State Fault Refusal :=
  exchangeRow xchDrainForm 0xC0 none e c w s
def execXchNorm (e : Eng) (c : CtxId) (w : LviWord) (s : State) : Host.Outcome State Fault Refusal :=
  exchangeRow normForm 0xC1 none e c w s
def execXchCollect (e : Eng) (c : CtxId) (w : LviWord) (s : State) : Host.Outcome State Fault Refusal :=
  exchangeRow collectForm 0xC2 none e c w s
def execXchMcast (e : Eng) (c : CtxId) (w : LviWord) (s : State) : Host.Outcome State Fault Refusal :=
  exchangeRow mcastForm 0xC3 none e c w s
def execDispatch (e : Eng) (c : CtxId) (w : LviWord) (s : State) : Host.Outcome State Fault Refusal :=
  exchangeRow dispatchForm 0xC4 (some 0) e c w s
def execCombine (e : Eng) (c : CtxId) (w : LviWord) (s : State) : Host.Outcome State Fault Refusal :=
  exchangeRow combineForm 0xC4 (some 1) e c w s
def execXchPhase (e : Eng) (c : CtxId) (w : LviWord) (s : State) : Host.Outcome State Fault Refusal :=
  exchangeRow phaseForm 0xC5 none e c w s
def execExpertRoundReopen (e : Eng) (expert : Nat) (s : State) : Host.Outcome State Fault Refusal :=
  onAll (reopen e.val expert) s
def execDrainRowSend (e : Eng) (a : Ast) (s : State) : Host.Outcome State Fault Refusal :=
  onAll (drainRowSend e.val a.val) s
def execPassRetire (e : Eng) (base : Ast) (s : State) : Host.Outcome State Fault Refusal :=
  onAll (passRetire e.val base.val) s

end Sys2Proof.Machine
end

