-- ==== Sys2Proof/Machine/Dma.lean ====
section
/-! DEFINITION. The DMA engines (R204 to R222, R230, R231, R238, R239): descriptors, transfers,
landing, deadlines and their paths (R194 to R197), the transposer, KEEP windows (R354 to R356), link
windows (R413, R414). -/

namespace Sys2Proof.Machine

/-! ## Runs and descriptors -/

def findRun (m : Mod) (g q id : Nat) : Option Run := (dmaq (engine m g) q).runs.find? fun r => r.id == id
def runTask (r : Option Run) : Nat :=
  match r with
  | some { task := some tk, .. } => tk
  | _ => 0

/-- The request of a transfer of a queue for a run. -/
def dmaReq (m : Mod) (g q : Nat) (r : Option Run) (tile : Bool) : Req :=
  let o := runOwner m g r
  { who := .dmaq (Fin.ofNat 256 g) (Fin.ofNat 9 q), part := dieOwner m (g / 16), phys := false, owner := o.1, task := o.2, tile := tile
    works := (r.map (·.id)).toList }

/-- A descriptor with the offsets of its run added (R316) and its PREFETCH flag (R238). -/
def issueDesc (r : Run) (b : List Byte) : List Byte :=
  let d := readDesc b
  let src := if d.popSrc then d.src else d.src + r.soff.toNat
  let fl := fld b 1 1
  patch (patch (patch b 8 (toLe 8 src)) 0x10 (toLe 8 (d.dst + r.doff.toNat))) 1 (toLe 1 (if r.prefetch ∧ ¬ d.prefetch then fl + 8 else fl))

/-- The oldest run with descriptors still to fetch. -/
def fetchingRun (x : DmaQ) : Option Run := x.runs.find? fun r => r.left != 0

/-- The fault of a run's owner: its task, its command, or the CHAIN of its stage (R568, R237). -/
def faultRun (t : Clk) (r : Option Run) (reason : Byte) (log : Nat) (m : Mod) : Mod := faultIssuer t (runIssuer r) reason log m

/-- An entry of the engine's log for a failed transfer, then the fault of its owner. -/
def failRun (t : Clk) (g : Nat) (r : Option Run) (reason : Byte) (addr : Nat) (m : Mod) : Mod :=
  let o := match r with
    | some { task := some tk, .. } => some tk
    | _ => none
  faultRun t r reason g (logEngine t g {
    typ := fTask, part := dieOwner m (g / 16), reason := reason, task := o, addr := BitVec.ofNat 64 addr
    info := BitVec.ofNat 64 ((r.map (·.idx)).getD 0) } m)

/-- Fresh numbers for the descriptors of a burst. The first descriptor of a Transit's run carries the leave
reserved for it (R254). -/
def takeDescs (t : Clk) (r : Run) (bs : List (List Byte)) (m : Mod) : List Desc × Mod :=
  bs.foldl (fun acc b =>
    let (id, m1) := fresh acc.2
    (acc.1 ++ [{ id := id, run := r.id, bytes := issueDesc r b, at_ := t.now, popped := none, popSent := false, forced := false
                 leaveId := if acc.1.isEmpty ∧ r.grant ≠ 0 then some r.grant else none }], m1)) ([], m)

/-- The bytes of a burst: from the program's section, or from memory for a DMA command. -/
def burstBytes (t : Clk) (g q : Nat) (r : Run) (n : Nat) (m : Mod) : Mod × Except XErr (List Byte) :=
  match r.section_ with
  | some sec =>
    let bytes := match (partSt m ((dieOwner m (g / 16)).getD 0)).prog with
      | some p => sget [] p.descs sec
      | none => []
    (m, .ok (slice bytes (64 * r.next) (64 * n)))
  | none => match readMem t m (dmaReq m g q (some r) false) (r.base.toNat + 64 * r.next) (64 * n) .clean with
    | (m1, .error e) => (m1, .error e)
    | (m1, .ok (bs, _)) => (m1, .ok bs)

/-- DESCRIPTOR_BURST_FETCH (R213). -/
def burstFetch (g q : Nat) (t : Clk) (m : Mod) : Mod :=
  let x := dmaq (engine m g) q
  if ¬ engineRuns m g ∨ x.fetched.length > 8 then m else
  match fetchingRun x with
  | none => m
  | some r =>
    let n := min 32 r.left
    match burstBytes t g q r n m with
    | (m1, .error e) =>
      faultRun t (some r) e.reason g (modDmaq (if r.grant = 0 then m1 else returnLeave m1 (g / 16) r.grant) g q fun y =>
        { y with runs := y.runs.map fun z => if z.id = r.id then { z with left := 0, grant := 0 } else z })
    | (m1, .ok bs) =>
      let (ds, m2) := takeDescs t r ((List.range n).map fun i => slice bs (64 * i) 64) m1
      modDmaq m2 g q fun y => { y with
        runs := y.runs.map fun z => if z.id = r.id then { z with next := z.next + n, left := z.left - n, grant := 0 } else z
        fetched := y.fetched ++ ds }

/-! ## Which descriptor starts next (R213, R214, R238) -/

/-- The next descriptor: a PREFETCH one that has waited its time, else the first in order. It starts even while the
first waits for its leave: R238 has it start regardless, R217 has no later transfer start (DESIGN CHOICE, log 70). -/
def nextDesc (x : DmaQ) : Option Desc :=
  match x.fetched.find? fun d => d.forced && (readDesc d.bytes).prefetch with
  | some d => some d
  | none => x.fetched.head?

def descFlags (d : DescF) : Bool := d.popSrc || d.pushDst || d.transpose || d.path != 0

/-- Whether b continues a merged transfer that ends with a. -/
def mergesWith (pf : Bool) (a b : DescF) (sum : Nat) : Bool :=
  b.op == 1 && !descFlags b && b.prefetch == pf && decide (b.len < 4096)
    && b.src == a.src + a.len && b.dst == a.dst + a.len && decide (sum + b.len ≤ 65536)

def vaPlace (m : Mod) (g va : Nat) (wr : Bool) : Option Place :=
  match dieOwner m (g / 16) with
  | none => none
  | some k => match xlate m k va wr with
    | .ok x => some (place x.phys)
    | .error _ => none

/-- Where a DMA write at a virtual address goes: through a link window to another module nowhere here, through one to
this module itself where its target lies (R413, R417). -/
def destPlace (m : Mod) (g va : Nat) : Option Place :=
  match (dieOwner m (g / 16)).bind fun k => linkWin m k va with
  | none => vaPlace m g va true
  | some (md, a) => if md = moduleNum m then vaPlace m g a true else none

/-- The address that a write checks here: that behind a link window to this module. -/
def destVa (m : Mod) (g va : Nat) : Nat :=
  match (dieOwner m (g / 16)).bind fun k => linkWin m k va with
  | some (md, a) => if md = moduleNum m then a else va
  | none => va

/-- Whether a descriptor reads or writes a sync object, each access of which stands alone (R281). -/
def touchesSync (m : Mod) (g : Nat) (a : DescF) : Bool :=
  [vaPlace m g a.src false, vaPlace m g a.dst true].any fun p => match p with
    | some (.sync _ _) => true
    | _ => false

/-- A descriptor that may run: a stage's template, checked at load, or one that R211 does not refuse. -/
def descRuns (m : Mod) (g q : Nat) (d : Desc) : Bool :=
  descOk (g / 16) (readDesc d.bytes) || ((findRun m g q d.run).bind (·.stage)).isSome

/-- The descriptors after the first that merge with it. -/
def mergeTail (m : Mod) (g q : Nat) (pf : Bool) : DescF → Nat → List Desc → List Desc
  | _, _, [] => []
  | a, sum, d :: r =>
    let b := readDesc d.bytes
    if mergesWith pf a b sum && descRuns m g q d && !touchesSync m g b then d :: mergeTail m g q pf b (sum + b.len) r else []

/-- A descriptor with those right after it in the queue that merge with it (R214). -/
def merged (m : Mod) (g q : Nat) (d : Desc) (rest : List Desc) : List Desc :=
  let a := readDesc d.bytes
  if a.op = 1 ∧ ¬ descFlags a ∧ a.len < 4096 ∧ ¬ touchesSync m g a then d :: mergeTail m g q a.prefetch a a.len rest else [d]

/-! ## Starting a transfer -/

def dropDescs (g q : Nat) (ds : List Desc) (m : Mod) : Mod :=
  modDmaq m g q fun x => { x with fetched := x.fetched.filter fun d => !ds.any fun y => y.id == d.id }

/-- A descriptor that cannot run ends its transfer with FAULT. -/
def failDesc (t : Clk) (g q : Nat) (d : Desc) (reason : Byte) (addr : Nat) (m : Mod) : Mod :=
  failRun t g (findRun m g q d.run) reason addr
    (dropDescs g q [d] (match d.leaveId with | some id => returnLeave m (g / 16) id | none => m))

/-- The pieces of n destination bytes that lie in the own scratchpad, page by page, for the scoreboard (R206):
first byte, scratchpad offset, count. -/
def ownPad (m : Mod) (g va n : Nat) : List (Nat × Nat × Nat) :=
  (chunks 65536 (n / 65536 + 2) va n).filterMap fun c => match destPlace m g c.1 with
    | some (.pad h off) => if h = g then some (c.1 - va, off, c.2) else none
    | _ => none

/-- The KEEP window at a virtual address: its line number, and whether it is the FP8 one. An address of a link window is
not translated here (R413). -/
def keepAt (m : Mod) (g va : Nat) (wr : Bool) : Option (Nat × Bool) :=
  if ((dieOwner m (g / 16)).bind fun k => linkWin m k va).isSome then none else
  match vaPlace m g va wr with
  | some (.tier d off) => (keepWin m d off).map fun f => (tierAddr d off / 256, f)
  | _ => none

/-- A tile as it is read: its header and its bytes past the header, or why not. -/
structure TileRead where
  h : Hdr
  bytes : List Byte
  poison : Bool
  deriving DecidableEq, Repr

/-- The bytes that a BF16 or bit-plane tile reserves in a KEEP window (R355). -/
def keepExtent (fp8 : Bool) (h : Hdr) : Nat :=
  if fp8 ∧ h.fmt = 1 then roundUp (64 + h.paylen / 2) 256 else tileExtent h

/-- The first span of an access that its checks refuse. -/
def spansRefused (m : Mod) (rq : Req) (wr : Bool) (va n : Nat) : Option XErr :=
  (spans va n).findSome? fun c => match spanCheck m rq wr c.1 with
    | .error e => some e
    | .ok _ => none

/-- A KEEP tile of the line, decoded (R355). -/
def keepTile (t : Clk) (m : Mod) (rq : Req) (va line : Nat) (fp8 : Bool) : Mod × Except (Byte × Option XErr) TileRead :=
  match spanCheck m rq false va with
  | .error e => (logErr t rq e m, .error (e.reason, some e))
  | .ok (p, _) =>
    let (m1, bad) := checkLine t m p .clean
    let bs := sget [] m1.mem.keep line
    let h := readHdr bs
    if ¬ hdrOk h (lineIndex p) then (m1, .error (0x60, none))
    else match spansRefused m1 rq false va (if h.skip then 64 else keepExtent fp8 h) with
      | some e => (logErr t rq e m1, .error (e.reason, some e))
      | none => (m1, .ok { h := h, bytes := (slice bs 64 (tileEnd h - 64)), poison := bad })

/-- The header of a source tile, checked (R186). -/
def readHead (t : Clk) (m : Mod) (rq : Req) (g va : Nat) : Mod × Except (Byte × Option XErr) Hdr :=
  match readMem t m rq va 64 .clean with
  | (m1, .error e) => (m1, .error (e.reason, some e))
  | (m1, .ok (bs, bad)) =>
    let h := readHdr bs
    let line := (vaPlace m g va false).bind lineIndex
    if bad then (m1, .error (0, some { typ := fPoison, reason := 0, addr := va, va := true, poison := true }))
    else if ¬ hdrOk h line then (m1, .error (0x60, none)) else (m1, .ok h)

/-- Bytes of a tile past its header that lie in the header's line at an address. -/
def headLen (va total : Nat) : Nat := min total ((256 - (va + 64) % 256) % 256)

/-- A whole source tile, from a KEEP window or from memory, of which no byte may lie in such a window (R354). -/
def readTile (t : Clk) (m : Mod) (rq0 : Req) (g va : Nat) : Mod × Except (Byte × Option XErr) TileRead :=
  let rq := { rq0 with tile := false }
  match keepAt m g va false with
  | some (line, fp8) => keepTile t m { rq0 with tile := true } va line fp8
  | none => match readHead t m rq g va with
    | (m1, .error e) => (m1, .error e)
    | (m1, .ok h) =>
      if h.skip then (m1, .ok { h := h, bytes := [], poison := false }) else
      match readMem t m1 rq (va + 64) (tileEnd h - 64) .clean with
      | (m2, .error e) => (m2, .error (e.reason, some e))
      | (m2, .ok (bs, bad)) => (m2, .ok { h := h, bytes := bs, poison := bad })

/-- R212, R222, R354 for a source header: the reason it fails. -/
def tileRefused (d : DescF) (keepDst : Bool) (h : Hdr) : Option Byte :=
  if (d.fmt ≠ 0 ∧ h.fmt ≠ d.fmt) ∨ (d.rows32 ≠ 0 ∧ h.rows32 ≠ d.rows32) ∨ (d.cols32 ≠ 0 ∧ h.cols32 ≠ d.cols32) then some 0x61
  else if d.transpose ∧ ¬ canTranspose h.fmt then some 0x66
  else if keepDst ∧ h.fmt ≠ 1 ∧ h.fmt ≠ 0x20 then some 0x69
  else none

/-- TAG_INDEX at a destination (R185). -/
def destTag (m : Mod) (g va : Nat) : Nat := ((destPlace m g va).bind lineIndex).getD 0

/-- The FP8 coding of a BF16 tile and back (R356): the decoded values with their header. -/
def keepFp8 (h : Hdr) (payload : List Byte) : Hdr × List Byte :=
  let vs := (List.range (elemN h)).map fun i => b16 (fld payload (2 * i) 2)
  let x : Int := match maxExpOf vs with
    | some e => max (-127) (min 127 (e - 7))
    | none => 0
  let out := vs.map fun v => if isFinite v then scaleVal x (decodeF e4m3 (encodeF e4m3 .even false (scaleVal (-x) v)).1) else Val.nan
  let nan := (out.filter fun v => !isFinite v).length
  ({ h with maxexp := maxExpField out, status := h.status % 32 + h.status / 64 % 1024 * 64 + (if nan ≠ 0 then 32 else 0) + 65536 * min 0xFFFF nan },
   out.flatMap fun v => toLe 2 (toB16 v))

/-- A tile rewritten for its destination: transposed, a skip marker by its ORDER bit alone (R221), or through the KEEP codec. -/
def recodeTile (d : DescF) (fp8 : Bool) (r : TileRead) : TileRead :=
  let r1 := if ¬ d.transpose then r
    else { r with h := { r.h with order := !r.h.order }, bytes := if r.h.skip then r.bytes else transposeTile r.h (writeHdr r.h ++ r.bytes) }
  if fp8 ∧ r1.h.fmt = 1 ∧ ¬ r1.h.skip then
    let (h, b) := keepFp8 r1.h r1.bytes
    { r1 with h := h, bytes := b }
  else r1

/-- R222 and R354 for a path of a deadline fetch, whose tile bears the descriptor's FORMAT. -/
def pathRefused (d : DescF) (keepDst : Bool) : Option Byte :=
  if d.transpose ∧ ¬ canTranspose d.fmt then some 0x66
  else if keepDst ∧ d.fmt ≠ 1 ∧ d.fmt ≠ 0x20 then some 0x69
  else none

/-- The widened shadow tile, with the primary's FORMAT (R195, R197). A shadow tile that is itself a skip marker
holds no value to widen: the manual names no outcome, and 0x65 is a DESIGN CHOICE (log 27). ORDER and EPOCH, of which R195
says nothing here, are those of the shadow's header (DESIGN CHOICE, log 72). -/
def shadowTile (d : DescF) (r : TileRead) : Except Byte TileRead :=
  if r.h.skip ∨ r.h.rows32 ≠ d.rows32 ∨ r.h.cols32 ≠ d.cols32 ∨ ¬ shadowOk d.fmt r.h.fmt then .error 0x65
  else
    let p := widenPayload d.fmt r.h (writeHdr r.h ++ r.bytes)
    let side := if isMx d.fmt then slice (writeHdr r.h ++ r.bytes) r.h.sidecar (sidecarLen r.h) else []
    .ok { h := { r.h with fmt := d.fmt, shadow := true, paylen := p.length, sidecar := if isMx d.fmt then 64 + p.length else 0 }
          bytes := p ++ side, poison := r.poison }

def newXfer (q : Nat) (id : Nat) (ds : List Desc) (task : Option Nat) (src dst total : Nat) (tile : Bool) (pad : List (Nat × Nat × Nat)) (leave : Nat) : Xfer where
  id := id
  q := q
  descs := ds
  task := task
  src := BitVec.ofNat 64 src
  dst := BitVec.ofNat 64 dst
  total := total
  landed := 0
  tile := tile
  hdr := []
  pad := pad
  mode := .primary
  leave := leave
  buf := []
  poisoned := false
  ended := none
  acks := 0
  late := false

def xferDesc (x : Xfer) : DescF := readDesc ((x.descs.head?.map (·.bytes)).getD [])
def xferRun (m : Mod) (g : Nat) (x : Xfer) : Option Run := x.descs.head?.bind fun d => findRun m g x.q d.run
def modXfer (m : Mod) (g id : Nat) (f : Xfer → Xfer) : Mod :=
  modEngine m g fun e => { e with xfers := e.xfers.map fun x => if x.id = id then f x else x }
def findXfer (m : Mod) (g id : Nat) : Option Xfer := (engine m g).xfers.find? fun x => x.id == id && x.ended.isNone

def traceDma (t : Clk) (g : Nat) (x : Xfer) (r : Option Run) (complete : Bool) (m : Mod) : Mod :=
  trace t g (runTask r) 0x07 (x.q + (if complete then 16 else 0) + (if x.mode = .primary then 0 else 32)
    + 64 * (min (2 ^ 32 - 1) (if x.tile then 64 + x.total else x.total))) (some 4) m

/-- A transfer that ends with FAULT keeps its scoreboard entry, with the pointer where it stopped
(R209); the owner of each of its descriptors faults. -/
def endFault (t : Clk) (g : Nat) (x : Xfer) (reason : Byte) (log : Nat) (m : Mod) : Mod :=
  let m1 := returnLeave m (g / 16) x.leave
  let stop := fun (l : List Xfer) =>
    if ¬ x.pad.isEmpty then l.map (fun y => if y.id = x.id then { y with ended := some reason } else y)
    else l.filter (fun y => y.id != x.id)
  let m2 := modEngine m1 g fun e => { e with xfers := stop e.xfers }
  ((x.descs.map fun d => runIssuer (findRun m g x.q d.run)).dedup).foldl (fun m b => faultIssuer t b reason log m) m2

/-- The same with an entry of its own in the engine's log. -/
def failXfer (t : Clk) (g : Nat) (x : Xfer) (reason : Byte) (addr : Nat) (m : Mod) : Mod :=
  endFault t g x reason g (logEngine t g {
    typ := fTask, part := dieOwner m (g / 16), reason := reason, task := x.task, addr := BitVec.ofNat 64 addr
    info := BitVec.ofNat 64 (((xferRun m g x).map (·.idx)).getD 0) } m)

/-- A source tile that fails: an access already logged, poison, or the tile itself. -/
def failSource (t : Clk) (g : Nat) (x : Xfer) (e : Byte × Option XErr) (m : Mod) : Mod :=
  match e.2 with
  | some a =>
    if a.typ = fPoison then endFault t g x 0 g (logErr t (dmaReq m g x.q (xferRun m g x) true) a m)
    else endFault t g x e.1 g m
  | none => failXfer t g x e.1 x.src.toNat m

/-- The fallback of a fetch is counted for its queue and its command (R196, R218). -/
def countFallback (g : Nat) (x : Xfer) (m : Mod) : Mod :=
  let m1 := modDmaq m g x.q fun y => { y with fallback := satAdd 0xFFFF y.fallback 1 }
  match xferRun m g x with
  | some { cmd := some (sq, tag), .. } => modCmd m1 sq tag fun c => { c with fallback := true }
  | _ => m1

/-- The header of a transfer as it will stand at its destination. -/
def destHdr (m : Mod) (g : Nat) (x : Xfer) (h : Hdr) : List Byte := writeHdr { h with tagIndex := destTag m g x.dst.toNat }

/-- A tile taken into the engine's buffer as far as it is read: its header's line is kept for the end, and the
bytes past that line land from the buffer (R195, R205). -/
def fillXfer (m : Mod) (g : Nat) (h : Hdr) (bytes : List Byte) (poison : Bool) (x : Xfer) : Xfer :=
  let total := if h.skip then 0 else tileEnd h - 64
  let n := headLen x.dst.toNat total
  { x with hdr := destHdr m g x h, head := bytes.take n, buf := bytes.drop n, total := total, landed := min n bytes.length, poisoned := poison, headBad := poison
           pad := ownPad m g x.dst.toNat (if h.skip then 64 else tileExtent h) }

/-- The bound-content rule for a transfer between bound pages and host memory (R557). -/
def boundRefused (m : Mod) (g q : Nat) (r : Option Run) (src dst n : Nat) (tile : Bool) : Bool :=
  boundHost m (dmaReq m g q r tile) src dst n

/-- The same for the n bytes of a tile at a source address. -/
def tileBarred (m : Mod) (g : Nat) (x : Xfer) (src n : Nat) : Bool :=
  boundRefused m g x.q (xferRun m g x) src x.dst.toNat n true

/-! ## The order of a queue's accesses (R162) -/

/-- The places of a virtual range: cell address and count, page by page of the SPREAD view. -/
def rangePlaces (m : Mod) (g : Nat) (wr : Bool) (va n : Nat) : List (Nat × Nat) :=
  (chunks 4096 (n / 4096 + 2) va n).filterMap fun c =>
    (if wr then destPlace m g c.1 else vaPlace m g c.1 false).map fun p => (cellAddr p, c.2)

/-- The destination bytes that a transfer has still to write. -/
def laterWrites (m : Mod) (g : Nat) (x : Xfer) : List (Nat × Nat) :=
  if x.tile then rangePlaces m g true x.dst.toNat (roundUp (64 + x.total) 256)
  else rangePlaces m g true (x.dst.toNat + x.landed) (x.total - x.landed)

/-- The source bytes that a transfer has still to read. -/
def laterReads (m : Mod) (g : Nat) (x : Xfer) : List (Nat × Nat) :=
  let o := x.landed + x.buf.length
  rangePlaces m g false (x.src.toNat + (if x.tile then 64 else 0) + o) (x.total - o)

def bytesMeet (a b : List (Nat × Nat)) : Bool := a.any fun x => b.any fun y => overlaps x.1 x.2 y.1 y.2

/-- The transfers of a queue that started before the one of a number and run. -/
def runningBefore (m : Mod) (g q id : Nat) : List Xfer :=
  (engine m g).xfers.filter fun y => y.ended.isNone && y.q == q && decide (y.id < id)

/-- Whether a write waits for an earlier transfer of its queue that has still to write or to read the same bytes. -/
def writeBehind (m : Mod) (g : Nat) (x : Xfer) (o n : Nat) : Bool :=
  let l := runningBefore m g x.q x.id
  !l.isEmpty && (let a := rangePlaces m g true (x.dst.toNat + o) n
    l.any fun y => bytesMeet a (laterWrites m g y) || bytesMeet a (laterReads m g y))

/-- Whether a read waits for an earlier transfer of its queue that has still to write the same bytes. -/
def readBehind (m : Mod) (g q id va n : Nat) : Bool :=
  let l := runningBefore m g q id
  !l.isEmpty && (let a := rangePlaces m g false va n
    l.any fun y => bytesMeet a (laterWrites m g y))

/-- The bytes of the tile whose header stands at an address now. -/
def tileSpan (m : Mod) (g va : Nat) : Nat :=
  match vaPlace m g va false with
  | none => 64
  | some p =>
    let h := readHdr (peeks m.mem (cellAddr p) 64)
    if h.skip then 64 else tileEnd h

/-- The read of a source tile, or of its header's line, waits: for an earlier transfer of the queue, or for a service on
its stack or channel (R162, R614). -/
def tileWaits (m : Mod) (g q id : Nat) (r : Option Run) (va : Nat) (whole : Bool) : Bool :=
  let n := if whole then tileSpan m g va else min 256 (tileSpan m g va)
  readBehind m g q id va n || accessWaits m (dmaReq m g q r true) false va n

/-- The shadow tile of a fetch, read, widened and made ready to land (R195, R197). -/
def takeShadow (t : Clk) (g : Nat) (x : Xfer) (m : Mod) : Mod :=
  let d := xferDesc x
  match readTile t m (dmaReq m g x.q (xferRun m g x) true) g d.shadow with
  | (m1, .error e) => failSource t g x e m1
  | (m1, .ok r) => if tileBarred m1 g x d.shadow (64 + r.bytes.length) then failXfer t g x 0x74 d.shadow m1 else
    match shadowTile d r with
    | .error e => failXfer t g x e d.shadow m1
    | .ok y =>
      let z := recodeTile d ((keepAt m1 g d.dst true).any (·.2)) y
      modXfer m1 g x.id fun w => { fillXfer m1 g z.h z.bytes z.poison w with mode := .shadow }

/-- A fetch takes its path (R195, R196), once the reads of a shadow need not wait. -/
def takePath (t : Clk) (g : Nat) (x : Xfer) (m : Mod) : Mod :=
  let d := xferDesc x
  if d.path = 1 ∧ tileWaits m g x.q x.id (xferRun m g x) d.shadow true then m
  else if d.path = 3 then
    modXfer (modDmaq m g x.q (fun y => { y with late := satAdd 0xFFFF y.late 1 })) g x.id fun z => { z with late := true }
  else
    let m1 := countFallback g x m
    match pathRefused d (keepAt m g d.dst true).isSome with
    | some e => failXfer t g x e x.dst.toNat m1
    | none => if d.path = 1 then takeShadow t g x m1
      else modXfer m1 g x.id fun z => { fillXfer m1 g (skipHdr d.fmt d.rows32 d.cols32 0) [] false z with mode := .skip }

/-- Whether tick D of a fetch has ended and its path is not yet taken. -/
def overdue (t : Clk) (x : Xfer) : Bool :=
  let d := xferDesc x
  d.path != 0 && x.mode == .primary && !x.late && decide (d.deadline < t.sid.toNat)

/-- The bytes of a source tile past its header that a read of its header's line brings with it (R239). -/
def readRest (t : Clk) (m : Mod) (rq : Req) (va : Nat) (h : Hdr) : Mod × Except XErr (List Byte × Bool) :=
  let n := headLen va (if h.skip then 0 else tileEnd h - 64)
  if n = 0 then (m, .ok ([], false)) else readMem t m rq (va + 64) n .clean

/-- The source header of a TILE transfer with its line, or its whole tile where it is transposed or coded. -/
def startTile (t : Clk) (g : Nat) (x : Xfer) (m : Mod) : Mod :=
  let d := xferDesc x
  let rq := dmaReq m g x.q (xferRun m g x) false
  let src := x.src.toNat
  let keepDst := keepAt m g d.dst true
  if d.transpose || keepDst.isSome || (keepAt m g src false).isSome then
    match readTile t m rq g src with
    | (m1, .error e) => failSource t g x e m1
    | (m1, .ok r) => if tileBarred m1 g x src (64 + r.bytes.length) then failXfer t g x 0x74 src m1 else
      match tileRefused d keepDst.isSome r.h with
      | some e => failXfer t g x e src m1
      | none =>
        let z := recodeTile d (keepDst.any (·.2)) r
        modXfer m1 g x.id (fillXfer m1 g z.h z.bytes z.poison)
  else match readHead t m rq g src with
    | (m1, .error e) => failSource t g x e m1
    | (m1, .ok h) => if tileBarred m1 g x src (if h.skip then 64 else tileEnd h) then failXfer t g x 0x74 src m1 else
      match tileRefused d false h with
      | some e => failXfer t g x e src m1
      | none => match readRest t m1 rq src h with
        | (m2, .error e) => failSource t g x (e.reason, some e) m2
        | (m2, .ok (bs, bad)) => modXfer m2 g x.id (fillXfer m2 g h bs bad)

/-- The transfer begins (R204 to R212). -/
def beginXfer (t : Clk) (g q : Nat) (ds : List Desc) (src total leave : Nat) (m : Mod) : Mod :=
  match ds.head? with
  | none => m
  | some d =>
    let f := readDesc d.bytes
    let r := findRun m g q d.run
    let tile := f.op == 2
    let (id, m1) := fresh m
    let x := newXfer q id ds (match r with | some y => y.task | none => none) src f.dst total tile
      (ownPad m g f.dst (if tile then 64 else total)) leave
    let m2 := dropDescs g q ds (modEngine m1 g fun e => { e with xfers := e.xfers ++ [x] })
    let m3 := traceDma t g x r false m2
    if boundRefused m3 g q r src f.dst (if tile then 64 else total) tile then
      failXfer t g x 0x74 src m3
    else if ¬ tile then m3
    else if overdue t x then
      (match findXfer (takePath t g x m3) g id with
        | some y => if y.mode = .primary then startTile t g y (takePath t g x m3) else takePath t g x m3
        | none => takePath t g x m3)
    else startTile t g x m3

/-- Entries of the scoreboard in use (R207). -/
def entriesUsed (m : Mod) (g : Nat) : Nat := ((engine m g).xfers.filter fun x => !x.pad.isEmpty).length

/-- An engine carries 64 transfers at once, and at most 16 of a queue (the resources of its DMA engine). -/
def engineFull (m : Mod) (g q : Nat) : Bool :=
  let l := (engine m g).xfers.filter fun x => x.ended.isNone
  decide (l.length ≥ 64) || decide ((l.filter fun x => x.q == q).length ≥ 16)

/-- The level at which a queue asks for leave (R527): its own, or that of the issuing ring. The transfers of a CHAIN's DMA
stage run in DQR for no ring and no task: they ask at level 0 (DESIGN CHOICE, log 70). -/
def queueLevel (m : Mod) (q : Nat) (r : Option Run) : Nat :=
  match r with
  | some { task := some tk, .. } => (ctx m (tk / 4) (tk % 4)).dqLevel[q]?.getD 0
  | some { cmd := some (sq, _), .. } => regF m (rSq sq + 0x10) 16 3
  | _ => 0

/-- The leave of a transfer of more than 256 KiB (R217): its number once granted; request and grant are traced (R588). -/
def dmaLeave (t : Clk) (g q : Nat) (d : Desc) (total : Nat) (m : Mod) : Option Nat × Mod :=
  if total ≤ 0x40000 then (some 0, match d.leaveId with | some id => returnLeave m (g / 16) id | none => m) else
  match d.leaveId with
  | some id => (if hasGrant m (g / 16) id then some id else none, m)
  | none =>
    let (id, m0) := fresh m
    let r := findRun m g q d.run
    let m1 := trace t g (runTask r) 0x06 1 (some 3) m0
    let (ok, m2) := requestLeave m1 (g / 16) id (queueLevel m q r) 1
    let m3 := modDmaq m2 g q fun x => { x with fetched := x.fetched.map fun y => if y.id = d.id then { y with leaveId := some id } else y }
    if ok then (some id, trace t g (runTask r) 0x06 (1 + 2 ^ 16) (some 3) m3) else (none, m3)

/-- A TILE transfer whose first read waits does not start yet. -/
def startHeld (m : Mod) (g q : Nat) (r : Option Run) (f : DescF) (src : Nat) : Bool :=
  tileWaits m g q m.nextId r src (f.transpose || (keepAt m g f.dst true).isSome || (keepAt m g src false).isSome)
    || (f.path == 1 && tileWaits m g q m.nextId r f.shadow true)

/-- DMA_TRANSFER_START: the next descriptor of a queue pops its handle, asks for leave, or starts. -/
def dmaStart (g q : Nat) (t : Clk) (m : Mod) : Mod :=
  let x := dmaq (engine m g) q
  if ¬ engineRuns m g ∨ (engine m g).halt ≠ .running ∨ pushHeld m g q ∨ engineFull m g q then m else
  match nextDesc x with
  | none => m
  | some d =>
    let f := readDesc d.bytes
    let r := findRun m g q d.run
    if ¬ descRuns m g q d then failDesc t g q d 0x62 0 m
    else if f.popSrc ∧ d.popped.isNone then
      if d.popSent then m
      else queuePop (modDmaq m g q fun y => { y with fetched := y.fetched.map fun z => if z.id = d.id then { z with popSent := true } else z })
        (hqKey f.srcDie f.srcQ) (srcQueue g q) d.id (runIssuer r)
    else
      let src := match f.popSrc, d.popped, r with
        | true, some h, some r => h.addr.toNat + r.soff.toNat
        | _, _, _ => f.src
      let ds := merged m g q d ((x.fetched.dropWhile fun y => y.id != d.id).drop 1)
      let total := if f.op = 1 then (ds.map fun y => (readDesc y.bytes).len).foldl (· + ·) 0 else 0
      if ¬ (ownPad m g f.dst (if f.op = 2 then 64 else total)).isEmpty ∧ entriesUsed m g ≥ 256 then m
      else if f.op = 2 ∧ startHeld m g q r f src then m
      else match dmaLeave t g q d total m with
        | (none, m1) => m1
        | (some id, m1) => beginXfer t g q ds src total id m1

/-! ## Landing (R205, R206, R239) -/

/-- Destination bytes of the next write: address past what has landed, and count, cut at 256 bytes, or, through a
link window, at 4,096 and at the window's end (R413). -/
def nextChunk (m : Mod) (k : Nat) (x : Xfer) : Nat × Nat :=
  let o := (if x.tile then 64 else 0) + x.landed
  let left := x.total - x.landed
  let a := x.dst.toNat + o
  (o, min left (match windowLeft m k a with
    | some r => min 4096 r
    | none => 256 - a % 256))

/-- A write to another module through a link window (R413). -/
def bulkPacket (m : Mod) (k md addr : Nat) (bs : List Byte) : Packet :=
  packet m k 0x30 3 md 0 0 bs.length (BitVec.ofNat 64 addr) (List.replicate 208 0) (slice bs 0 (roundUp bs.length 256))

/-- Where the bytes at an offset of a transfer come from. -/
def xferSrc (x : Xfer) (o : Nat) : Nat := (if x.mode = .shadow then (xferDesc x).shadow else x.src.toNat) + o

/-- Bound content that would leave for a module outside the device set (R557). -/
def boundLeaves (m : Mod) (g : Nat) (x : Xfer) (k md o n : Nat) : Bool :=
  x.mode != .skip && boundRange m (dmaReq m g x.q (xferRun m g x) false) false (xferSrc x o) n && (match route m k md with
    | .ok p => !inDeviceSet m k (port m p).peer
    | .error _ => false)

/-- Bytes of a transfer written at an offset of its destination: here, through a link window to this module itself
(R417), or as a BULK packet to another (R413). -/
def putDest (t : Clk) (g : Nat) (x : Xfer) (o : Nat) (bs : List Byte) (bad : Bool) (m : Mod) : Except Mod Mod :=
  let va := x.dst.toNat + o
  let k := (dieOwner m (g / 16)).getD 0
  let rq := dmaReq m g x.q (xferRun m g x) false
  match linkWin m k va with
  | some (md, addr) =>
    if md = moduleNum m then match writeMem t m rq addr bs bad .clean with
      | (m1, some e) => .error (endFault t g x e.reason g m1)
      | (m1, none) => .ok (fillPages m1 rq true addr bs.length)
    else if boundLeaves m g x k md o bs.length then .error (failXfer t g x 0x74 va m)
    else if bad then .error (endFault t g x 0 g (logErr t rq { typ := fPoison, reason := 0, addr := va, va := true, poison := true } m))
    else match route m k md with
      | .error e => .error (failXfer t g x e va m)
      | .ok p =>
        let m1 := sendOn m p { pkt := bulkPacket m k md addr bs, deps := [], task := x.task, works := [x.id] }
        let b : BulkOut := { part := k, dst := md, eng := g, xfer := x.id, addr := va, q := x.q, pf := (xferDesc x).prefetch, task := x.task, far := addr }
        .ok (modXfer { m1 with bulkOut := m1.bulkOut ++ [b] } g x.id fun y => { y with acks := y.acks + 1 })
  | none => match writeMem t m rq va bs bad .clean with
    | (m1, some e) => .error (endFault t g x e.reason g m1)
    | (m1, none) => .ok (fillPages m1 rq true va bs.length)

def destPinned (m : Mod) (g : Nat) (x : Xfer) (o n : Nat) : Bool :=
  writeHeld m (dmaReq m g x.q (xferRun m g x) false) (destVa m g (x.dst.toNat + o)) n

/-- A live service holds a stack or channel of the chunk (R614). -/
def chunkWaits (m : Mod) (g : Nat) (x : Xfer) (o n : Nat) : Bool :=
  let rq := dmaReq m g x.q (xferRun m g x) false
  accessWaits m rq false (x.src.toNat + o) n || accessWaits m rq true (destVa m g (x.dst.toNat + o)) n

/-- The bytes of the next chunk and those read with them, with their poison: whole source lines, each read once
(R239). What the buffer holds comes first. -/
def readAhead (t : Clk) (rq : Req) (ecc : Ecc) (src total n : Nat) : Nat → List Byte → Bool → Mod → Mod × Except XErr (List Byte × Bool × Bool)
  | 0, buf, bad, m => (m, .ok (buf, bad, bad))
  | fuel + 1, buf, bad, m =>
    if n ≤ buf.length then (m, .ok (buf, bad, bad)) else
    let a := src + buf.length
    match readMem t m rq a (min (256 - a % 256) (total - buf.length)) ecc with
    | (m1, .error e) => (m1, .error e)
    | (m1, .ok (bs, b)) =>
      match readAhead t rq ecc src total n fuel (buf ++ bs) b (fillPages m1 rq false a bs.length) with
      | (m2, .ok (r, bad', last)) => (m2, .ok (r, bad || bad', last))
      | r => r

/-- Whether the next chunk of a transfer waits: accesses of one queue take effect in issue order (R162). The lines it reads
are those not yet in its buffer, whole ones. -/
def behind (m : Mod) (g : Nat) (x : Xfer) (o n : Nat) : Bool :=
  let k := x.buf.length
  writeBehind m g x o n
    || (decide (k < n) && readBehind m g x.q x.id (x.src.toNat + o + k) (min (x.total - x.landed) (n + 256) - k))

/-- The last bytes of a tile, filled with zeros to a whole line (R180). -/
def padLast (x : Xfer) (o n : Nat) (bs : List Byte) : List Byte :=
  if x.tile ∧ x.landed + n = x.total then slice bs 0 (roundUp (o + n) 256 - o) else bs

/-- The chunk of a transfer lands: a tile's bytes in its header's line are kept for the end, the rest is written. -/
def putChunk (t : Clk) (g : Nat) (x : Xfer) (o n : Nat) (bs : List Byte) (bad : Bool) (m : Mod) : Except Mod Mod :=
  if x.tile ∧ x.landed < headLen x.dst.toNat x.total then
    .ok (modXfer m g x.id fun y => { y with head := y.head ++ bs, headBad := y.headBad || bad })
  else putDest t g x o (padLast x o n bs) bad m

/-- One line of a transfer lands. -/
def landLine (g id : Nat) (ecc : Ecc) (t : Clk) (m : Mod) : Mod :=
  match findXfer m g id with
  | none => m
  | some x =>
    if overdue t x then takePath t g x m
    else if x.landed ≥ x.total then m
    else
      let (o, n) := nextChunk m ((dieOwner m (g / 16)).getD 0) x
      let mark := fun (m : Mod) => countEv (modXfer m g id fun y => { y with landed := y.landed + n }) g 0x0E n
      if x.tile ∧ (keepAt m g x.dst.toNat true).isSome then mark m
      else if destPinned m g x o n ∨ behind m g x o n ∨ chunkWaits m g x o n then m
      else match readAhead t (dmaReq m g x.q (xferRun m g x) false) ecc (x.src.toNat + o) (x.total - x.landed) n (n / 256 + 2) x.buf x.poisoned m with
        | (m1, .error e) => endFault t g x e.reason g m1
        | (m1, .ok (bs, bad, last)) =>
          let m2 := modXfer m1 g id fun y => { y with buf := bs.drop n, poisoned := last }
          match putChunk t g x o n (bs.take n) bad m2 with
          | .error m3 => m3
          | .ok m3 => mark m3

/-! ## Completion (R185, R195, R215, R216, R230, R231) -/

/-- What a TILE transfer writes last: its header with the bytes of the header's line, filled with zeros to whole
lines where the tile ends in it (R180, R195). A skip marker is a header alone. -/
def tileEndBytes (x : Xfer) : List Byte :=
  if (readHdr x.hdr).skip then x.hdr
  else if x.total = x.head.length then slice (x.hdr ++ x.head) 0 (roundUp (64 + x.total) 256)
  else x.hdr ++ x.head

/-- A tile stored in a KEEP window, as it will be decoded (R355): every line of its extent must take it. -/
def storeKeep (t : Clk) (g : Nat) (x : Xfer) (line : Nat) (fp8 : Bool) (m : Mod) : Except Mod Mod :=
  let rq := dmaReq m g x.q (xferRun m g x) true
  let h := readHdr x.hdr
  match spansRefused m rq true x.dst.toNat (if h.skip then 64 else keepExtent fp8 h), vaPlace m g x.dst.toNat true with
  | some e, _ => .error (endFault t g x e.reason g (logErr t rq e m))
  | none, none => .ok m
  | none, some p => .ok (setLine { m with mem := { m.mem with keep := sset [] m.mem.keep line (x.hdr ++ x.head ++ x.buf) } } (cellAddr p / 256)
      { key := keyOf m p, marked := false, poison := x.poisoned })

/-- The header line, written last. -/
def writeEnd (t : Clk) (g : Nat) (x : Xfer) (m : Mod) : Except Mod Mod :=
  if ¬ x.tile then .ok m
  else match keepAt m g x.dst.toNat true with
    | some (line, fp8) => storeKeep t g x line fp8 m
    | none => putDest t g x 0 (tileEndBytes x) x.headBad m

/-- The write that ends a TILE transfer waits: for a pin, for an earlier transfer of its queue, for a service. -/
def headerHeld (m : Mod) (g : Nat) (x : Xfer) : Bool :=
  let n := if (keepAt m g x.dst.toNat true).isSome then 64 + x.head.length + x.buf.length else (tileEndBytes x).length
  accessWaits m (dmaReq m g x.q (xferRun m g x) true) true (destVa m g x.dst.toNat) n
    || destPinned m g x 0 n || writeBehind m g x 0 n

def bytesWritten (x : Xfer) : Nat :=
  if ¬ x.tile then x.total else if (readHdr x.hdr).skip then 64 else roundUp (64 + x.total) 256

/-- Earlier transfers of the queue that still hold a signal (R216): those that run, and those that ended with FAULT while
bytes they wrote through a link window are not yet acknowledged. Transfers are earlier as they started: a PREFETCH
descriptor that has waited its time has overtaken those it started before (R238; DESIGN CHOICE, log 70). -/
def earlierXfers (m : Mod) (g : Nat) (x : Xfer) : List Nat :=
  let pf := (xferDesc x).prefetch
  ((engine m g).xfers.filter fun y => y.q == x.q && decide (y.id < x.id) && y.ended.isNone && (!pf || (xferDesc y).prefetch)).map (·.id)
    ++ ((m.bulkOut.filter fun b => b.eng == g && b.q == x.q && decide (b.xfer < x.id) && (!pf || b.pf)
      && (findXfer m g b.xfer).isNone).map (·.xfer)).dedup

/-- The signal of one descriptor. -/
def descSignal (g q : Nat) (d : Desc) (deps : List Nat) (m : Mod) : Mod :=
  let f := readDesc d.bytes
  let b := runIssuer (findRun m g q d.run)
  match f.smode with
  | 1 => pushSync m (g / 16) (srcQueue g q) f.s (.sig 1) deps b
  | 3 => slotSignal m ((dieOwner m (g / 16)).getD 0) (srcQueue g q) f.s deps b
  | _ => m

/-- The signals of a transfer's descriptors, which take effect in descriptor order (R215). -/
def descSignals (g q : Nat) (ds : List Desc) (deps : List Nat) (m : Mod) : Mod :=
  (ds.foldl (fun acc d =>
    let id := acc.1.nextId
    let m1 := descSignal g q d deps acc.1
    if m1.nextId = id then acc
    else ({ m1 with syncQ := m1.syncQ.map fun s => (s.1, s.2.map fun o => if o.id = id then { o with behind := acc.2 } else o) },
      acc.2 ++ [id])) (m, [])).1

/-- Whether the destination queue takes a handle of this partition (R225). -/
def pushAllowed (m : Mod) (g key : Nat) : Bool := (hqAt m key).alloc && some (hqAt m key).part == dieOwner m (g / 16)

/-- Whether what a transfer wrote is a skip marker. -/
def wroteSkip (x : Xfer) : Bool := x.tile && (readHdr x.hdr).skip

/-- A CHAIN stage's output handle says whether its buffer holds a skip marker (R223, R231). -/
def markOutput (x : Xfer) (r : Option Run) (m : Mod) : Mod :=
  match r with
  | some { stage := some (k, n), .. } => modStage m k (n / 8) (n % 8) fun st => { st with out := st.out.map fun h => { h with skip := wroteSkip x } }
  | _ => m

/-- The DONEs of the handles that a transfer's descriptors popped, a CHAIN stage's input too (R230, R235): they
wait for the earlier reads of the same owner (R193). -/
def xferDones (g part : Nat) (x : Xfer) (m : Mod) : Mod :=
  (x.descs.filterMap (·.popped)).foldl (fun m h =>
    doneOf m g h (match x.task with | some tk => .task tk | none => .driver part) part (some x.id)) m

/-- What follows the last write: leave, DONE of the popped handles, the handle of PUSH_DST, signals in descriptor
order. -/
def closeXfer (t : Clk) (g : Nat) (x : Xfer) (m : Mod) : Mod :=
  let d := xferDesc x
  let r := xferRun m g x
  let part := (dieOwner m (g / 16)).getD 0
  let deps := earlierXfers m g x
  let m1 := markOutput x r (traceDma t g x r true (returnLeave m (g / 16) x.leave))
  let m2 := xferDones g part x m1
  let m3 := if ¬ d.pushDst then m2 else
    (queuePush m2 (hqKey d.dstDie d.dstQ) (srcQueue g x.q)
      { addr := BitVec.ofNat 57 d.dst, len := BitVec.ofNat 32 (bytesWritten x), skip := wroteSkip x } deps true none none (runIssuer r)).2
  let m4 := descSignals g x.q x.descs deps m3
  modEngine m4 g fun e => { e with xfers := e.xfers.filter fun y => y.id != x.id }

/-- The end of a transfer all of whose bytes are written; a push that its queue refuses ends it with FAULT (R225, R231). -/
def endXfer (t : Clk) (g : Nat) (x : Xfer) (m : Mod) : Mod :=
  let d := xferDesc x
  if d.pushDst ∧ ¬ pushAllowed m g (hqKey d.dstDie d.dstQ) then
    endFault t g x 0x6B g (logEngine t g { typ := fAccess, part := dieOwner m (g / 16), reason := 0x6B, task := x.task
                                           addr := BitVec.ofNat 64 d.dst } m)
  else closeXfer t g x m

/-- DMA_TRANSFER_COMPLETE. -/
def dmaComplete (g id : Nat) (t : Clk) (m : Mod) : Mod :=
  match findXfer m g id with
  | none => m
  | some x =>
    if overdue t x then takePath t g x m
    else if x.landed < x.total ∨ x.acks ≠ 0 then m
    else if x.headed then endXfer t g x m
    else if x.tile ∧ headerHeld m g x then m
    else match writeEnd t g x m with
      | .error m1 => m1
      | .ok m1 => match findXfer m1 g id with
        | none => m1
        | some y => if y.acks = 0 then endXfer t g y m1 else modXfer m1 g id fun z => { z with headed := true }

def deadlineExpiry (g id : Nat) (t : Clk) (m : Mod) : Mod :=
  match findXfer m g id with
  | none => m
  | some x => if overdue t x then takePath t g x m else m

/-- A PREFETCH descriptor that has waited 4,096 fabric cycles starts next (R238). -/
def prefetchExpiry (g q : Nat) (t : Clk) (m : Mod) : Mod :=
  let x := dmaq (engine m g) q
  match x.fetched.find? fun d => (readDesc d.bytes).prefetch && !d.forced && decide (d.at_ + 4096 ≤ t.now) with
  | none => m
  | some d => modDmaq m g q fun y => { y with fetched := y.fetched.map fun z => if z.id = d.id then { z with forced := true } else z }

/-! ## Acknowledgements (R414) -/

/-- One BULK packet is acknowledged. Where its destination refused it, which no packet says (a free value, log 41), it
is logged here too and its transfer ends with FAULT (R413). -/
def ackOne (t : Clk) (m : Mod) (b : BulkOut) : Mod :=
  let m1 := { m with draw := m.draw + 1, bulkOut := m.bulkOut.erase b }
  match findXfer m1 b.eng b.xfer with
  | none => m1
  | some x =>
    if Config.farRefused m.draw then
      endFault t b.eng x 0x6B b.eng (logErr t (dmaReq m1 b.eng x.q (xferRun m1 b.eng x) x.tile)
        { typ := fTranslation, reason := 0x6B, addr := b.addr, va := true } m1)
    else modXfer m1 b.eng b.xfer fun x => { x with acks := x.acks - 1 }

/-- n BULK packets of a partition are acknowledged by a module: the oldest sent to it (R412, R414). -/
def ackBulk (t : Clk) (part src n : Nat) (m : Mod) : Mod :=
  ((m.bulkOut.filter fun b => b.part == part && b.dst == src).take n).foldl (ackOne t) m

/-! ## The rows -/

def execDescriptorBurstFetch (e : Eng) (q : Fin 9) (s : State) : Host.Outcome State Fault Refusal :=
  onEng (burstFetch e.val q.val) s
def execDmaTransferStart (e : Eng) (q : Fin 9) (s : State) : Host.Outcome State Fault Refusal :=
  onEng (dmaStart e.val q.val) s
def execDmaLineLand (e : Eng) (id : Nat) (ecc : Ecc) (s : State) : Host.Outcome State Fault Refusal :=
  onEng (landLine e.val id ecc) s
def execDmaTransferComplete (e : Eng) (id : Nat) (s : State) : Host.Outcome State Fault Refusal :=
  onEng (dmaComplete e.val id) s
def execFetchDeadlineExpiry (e : Eng) (id : Nat) (s : State) : Host.Outcome State Fault Refusal :=
  onEng (deadlineExpiry e.val id) s
def execPrefetchWaitExpiry (e : Eng) (q : Fin 9) (s : State) : Host.Outcome State Fault Refusal :=
  onEng (prefetchExpiry e.val q.val) s

end Sys2Proof.Machine
end

