-- ==== Sys2Proof/Machine/Contexts.lean ====
section
/-! DEFINITION. The sequencer's other steps: the form of every opcode, context switches (R133),
leave grants (R528), the wait watchdog (R295 to R298). -/

namespace Sys2Proof.Machine

/-- The form of an opcode and EXT. -/
def formOf (op ext : Nat) : Form :=
  match op with
  | 0x00 => nopForm
  | 0x01 => endForm
  | 0x02 => addForm
  | 0x03 => cmpForm
  | 0x04 => selForm
  | 0x05 => loopForm
  | 0x06 => brForm
  | 0x07 => setltForm
  | 0x08 => timeForm
  | 0x20 => moveForm
  | 0x21 => hqPushForm
  | 0x22 => hqPopForm
  | 0x23 => match ext with
    | 0 => tierOpenForm
    | 1 => tierSealForm
    | 2 => tierAbandonForm
    | 3 => tierDoneForm
    | _ => tierReleaseForm
  | 0x24 => chainStartForm
  | 0x40 | 0x60 => passForm
  | 0x41 | 0x61 => drainForm
  | 0xC0 => xchDrainForm
  | 0xC1 => normForm
  | 0xC2 => collectForm
  | 0xC3 => mcastForm
  | 0xC4 => if ext = 0 then dispatchForm else combineForm
  | 0xC5 => phaseForm
  | 0xE0 => syncArmForm
  | 0xE1 => syncClearForm
  | 0xE2 => syncSignalForm
  | _ => vectorForm

/-- The condition of R132 on which a context that missed is ready again. -/
def missOver (t : Clk) (m : Mod) (g c : Nat) (k : Miss) (w : LviWord) : Bool :=
  match k with
  | .wait => waitSat m g w
  | .leave => (ctx m g c).leaveReq.all fun id => hasGrant m (g / 16) id
  | k => (formOf (wOp w) (wExt w)).ended t m g c w k

/-- A context can issue: ready, or the condition it missed for holds now (R132). -/
def ctxReady (t : Clk) (m : Mod) (g c : Nat) : Bool :=
  let x := ctx m g c
  x.accepted.isNone && x.pop.isNone && match x.st, x.stream[x.pc]? with
    | .ready, some _ => true
    | .missed k, some w => missOver t m g c k w
    | _, _ => false

/-- The next ready context, in the order of R133: the one that missed comes last. -/
def nextReady (t : Clk) (m : Mod) (g c : Nat) : Option Nat :=
  [(c + 1) % 4, (c + 2) % 4, (c + 3) % 4, c].find? fun k => ctxReady t m g k

/-- The active context goes on: it was selected, has not missed since, and is not done (R133). -/
def goesOn (m : Mod) (g : Nat) : Bool :=
  let e := engine m g
  let x := ctxOf e e.active
  e.sel && x.accepted.isNone && (match x.st with | .ready | .missed _ => true | _ => false)

/-- CONTEXT_SWITCH: after a miss, a fault or an end the sequencer selects the next ready context. -/
def contextSwitch (g : Nat) (t : Clk) (m : Mod) : Mod :=
  let e := engine m g
  if ¬ engineRuns m g ∨ e.halt ≠ .running ∨ goesOn m g then m else
  match nextReady t m g e.active with
  | none => m
  | some k =>
    let m1 := modEngine m g fun e => { e with active := k, sel := true }
    match e.last with
    | none => m1
    | some l => if l = k then m1 else
        trace t g (taskId g k) 0x04 (l + 4 * k) (some 1) (countEv m1 g 0x0C 1)

/-- The context of a compute die that waits for a leave request. -/
def leaveCtx (m : Mod) (g id : Nat) : Option (Nat × Nat) :=
  (m.eng.flatMap fun ge => (List.range 4).map fun c => (ge.1, c)).find? fun x =>
    x.1 / 16 == g && (ctx m x.1 x.2).leaveReq == some id

/-- The engine of a die whose descriptor waits for a leave request, and the task of its MOVE. -/
def leaveDesc (m : Mod) (g id : Nat) : Option (Nat × Nat) :=
  m.eng.findSome? fun ge => if ge.1 / 16 ≠ g then none else
    ge.2.dq.findSome? fun q => (q.2.fetched.find? fun d => d.leaveId == some id).map fun d => (ge.1, runTask (findRun m ge.1 q.1 d.run))

/-- LEAVE_GRANT: the oldest request of the highest level, when it fits the free budget (R528). -/
def leaveGrant (g : Nat) (t : Clk) (m : Mod) : Mod :=
  match headOf (gov m g).queue with
  | none => m
  | some r =>
    if r.units > freeBudget m g then m else
    let m1 := modGov m g fun x => { x with grants := sset 0 x.grants r.id r.units, queue := x.queue.filter fun y => y.id != r.id }
    match leaveCtx m1 g r.id, leaveDesc m1 g r.id with
    | some (e, c), _ => trace t e (taskId e c) 0x06 (r.units % 65536 + 2 ^ 16) (some 3) m1
    | none, some (e, tk) => trace t e tk 0x06 (r.units % 65536 + 2 ^ 16) (some 3) m1
    | none, none => m1

/-! ## The wait watchdog -/

/-- The watchdog time in ticks: CDn_WAIT_WDOG counts microseconds (R295). -/
def wdogTicks (m : Mod) (g : Nat) : Nat := 1600 * regF m (rCd (g / 16)) 0 32

/-- The unsatisfied object that a context waits on (R297), none when its wait is satisfied. -/
def waitObject (m : Mod) (g : Nat) (w : LviWord) : Option Nat :=
  if waitSat m g w then none
  else if wWmode w = 2 ∧ objSat (syncObj m (g / 16) (wW0 w)) then some (wW1 w)
  else some (wW0 w)

/-- The wait of a task's head instruction. -/
def taskWait (m : Mod) (tk : Nat) : Option Nat :=
  let x := ctx m (tk / 4) (tk % 4)
  match x.st, x.accepted, x.stream[x.pc]? with
  | .missed .wait, none, some w => waitObject m (tk / 4) w
  | _, _, _ => none

/-- The objects a waiting task could be a partner on: every unsatisfied one it waits for (R297). -/
def waitObjects (m : Mod) (tk : Nat) : List Nat :=
  let x := ctx m (tk / 4) (tk % 4)
  match taskWait m tk, x.stream[x.pc]? with
  | some _, some w => (if wWmode w ≥ 2 then [wW0 w, wW1 w] else [wW0 w]).filter fun o => !objSat (syncObj m (tk / 64) o)
  | _, _ => []

/-- The partner B of task A on object A, with object B (R297). -/
def partner (m : Mod) (a objA : Nat) : Option (Nat × Nat) :=
  let sigs := (syncObj m (a / 64) objA).signallers
  (List.range 1024).findSome? fun b =>
    if b = a ∨ ¬ sigs.contains b then none
    else ((waitObjects m b).find? fun o => (syncObj m (b / 64) o).signallers.contains a).map fun o => (b, o)

/-- The address field of a watchdog entry (R298). -/
def wdogAddr (a objA : Nat) (p : Option (Nat × Nat)) : W64 :=
  BitVec.ofNat 64 (a + 2 ^ 10 * objA + (match p with
    | some (b, o) => 2 ^ 24 * b + 2 ^ 34 * o + 2 ^ 48
    | none => 0))

def watchdog (g c : Nat) (t : Clk) (m : Mod) : Mod :=
  let a := taskId g c
  match (ctx m g c).waitSince, taskWait m a with
  | some since, some objA =>
    if (engine m g).halt ≠ .running ∨ t.now < since + wdogTicks m g then m else
    let p := partner m a objA
    let log := logCD (g / 16)
    let m1 := logFault t log {
      kind := 2, index := BitVec.ofNat 8 (g / 16), typ := if p.isSome then fWaitCycle else fWaitTimeout
      part := some (ctx m g c).part, task := some a, addr := wdogAddr a objA p } m
    let m2 := failTask t a 0 log (trace t g a 0x0A (log + 512 * (if p.isSome then fWaitCycle else fWaitTimeout).toNat) none m1)
    match p with
    | some (b, _) => failTask t b 0 log m2
    | none => m2
  | _, _ => m

/-! ## The rows -/

def execContextSwitch (e : Eng) (s : State) : Host.Outcome State Fault Refusal := onAll (contextSwitch e.val) s
def execLeaveGrant (g : Fin 22) (s : State) : Host.Outcome State Fault Refusal := onAll (leaveGrant g.val) s
def execWaitWatchdogExpiry (e : Eng) (c : CtxId) (s : State) : Host.Outcome State Fault Refusal := onAll (watchdog e.val c.val) s

end Sys2Proof.Machine
end

