-- ==== Sys2Proof/Machine/Rings.lean ====
section
/-! DEFINITION. Rings (R485 to R494, R507): doorbells, the fetch and check of entries (R489, R490,
R495, R496, R502), completion entries, MSI-X messages, and how a fetched command starts (R491). -/

namespace Sys2Proof.Machine

/-! ## HN's log, messages, the module level -/

def hnFault (t : Clk) (typ reason : Byte) (addr info : Nat) (part : Option Nat) (m : Mod) : Mod :=
  logFault t logHN { kind := 5, index := 0, typ := typ, reason := reason, part := part
                     addr := BitVec.ofNat 64 addr, info := BitVec.ofNat 64 info } m

/-- An access of a ring that a PCIe error ended: HN logs the requester and the AER status (R575, R578). -/
def pcieFault (t : Clk) (f : Nat) (part : Option Nat) (m : Mod) : Mod :=
  let (n, m1) := drawId m
  hnFault t fPcie 0 (Config.requesterId f).toNat (Config.aerStatus n).toNat part m1

/-- An MSI-X message of a function, or its pending bit when the vector is masked (R494). -/
def sendMsix (f vec : Nat) (m : Mod) : Mod :=
  let k := 2048 * f + vec
  if sget false m.hub.masked k then modHub m fun h => { h with msixPend := sset false h.msixPend k true }
  else emit (.msix f vec) m

/-- The module's state as a number: doorbells and module rings go by it (R515). -/
def msLevel (m : Mod) : Nat := msNum m.pwr.state

/-- The level that partition rings and OFFERs go by: the state, or the target of a walk away from it (R520). -/
def fetchLevel (m : Mod) : Nat :=
  let s := msNum m.pwr.state
  match m.pwr.walk with
  | some w => if w.scope = 0 then max s w.target else s
  | none => s

/-- A live FW_ACTIVATE of HN runs: ring fetch, mailbox requests and BAR0 accesses wait (R614). -/
def hnBusy (m : Mod) : Bool := svcRuns m 1 1 0

/-! ## Doorbells -/

/-- A ring stops: EN is cleared, the reason stands in STATUS (R488). -/
def stopSq (t : Clk) (n : Nat) (reason : Byte) (info : Nat) (m : Mod) : Mod :=
  hnFault t fRing reason n info (ringPart m n)
    (modRing (setBit m (rSq n + 0x10) 0 false) n fun r => { r with reason := reason })

def stopCq (t : Clk) (n : Nat) (reason : Byte) (info : Nat) (m : Mod) : Mod :=
  hnFault t fRing reason n info (ringPart m n)
    (modRing (setBit m (rCq n + 0x10) 0 false) n fun r => { r with cqReason := reason })

/-- A doorbell write that is no doorbell: discarded, logged, reported (R487). A VF that is not live
has its writes discarded (R480). -/
def doorbellErr (t : Clk) (f owner n off size v : Nat) (m : Mod) : Option Mod :=
  if ¬ vfLive m f then some (emit (.aerUR f) m)
  else if owner ≠ f ∨ off ≠ 0 ∨ size ≠ 4 then some (emit (.aerUR f) (hnFault t fRing 0 n v none m))
  else none

/-- SQ_DOORBELL: the new tail; one that lies outside the ring stops it. In MS2 to MS4 it is recorded
and judged when fetching resumes (R515), as during a FW_ACTIVATE of HN (R614). -/
def sqDoorbell (f n off size v : Nat) (t : Clk) (m : Mod) : Mod :=
  match doorbellErr t f (sqOwner m n) n off size v m with
  | some m' => m'
  | none =>
    let tail := v % 65536
    if ¬ sqEn m n then m
    else if tail ≥ sqSize m n ∧ msLevel m ≤ 1 ∧ ¬ hnBusy m then stopSq t n 0x14 v m
    else modRing m n fun r => { r with tail := tail }

/-- A head outside the written entries of a CQ (R488). -/
def badHead (m : Mod) (n head : Nat) : Bool :=
  let r := ring m n
  let size := cqSize m n
  decide (head ≥ size) || decide ((head + size - r.cqHead) % size > (r.cqTail + size - r.cqHead) % size)

/-- CQ_DOORBELL: the new head, within the written entries; another is judged like an SQ's (R515, R614). -/
def cqDoorbell (f n off size v : Nat) (t : Clk) (m : Mod) : Mod :=
  match doorbellErr t f (cqOwner m n) n off size v m with
  | some m' => m'
  | none =>
    let head := v % 65536
    if ¬ cqEn m n then m
    else if badHead m n head then
      if msLevel m ≤ 1 ∧ ¬ hnBusy m then stopCq t n 0x14 v m else modRing m n fun r => { r with cqBell := some head }
    else modRing m n fun r => { r with cqHead := head, cqBell := none }

/-- A CQ doorbell that was only recorded is judged once the module is in MS0 or MS1 again (R515). -/
def settleBell (t : Clk) (n : Nat) (m : Mod) : Mod :=
  match (ring m n).cqBell with
  | none => m
  | some head =>
    if msLevel m ≥ 2 ∨ hnBusy m then m
    else
      let m1 := modRing m n fun r => { r with cqBell := none }
      if badHead m n head then stopCq t n 0x14 head m1 else modRing m1 n fun r => { r with cqHead := head }

/-- A read of a doorbell page: the head of SQ n at page n, the tail of CQ n at page 1,024 + n, of a ring of the
function; other pages read 0 (R482, R487). No row of the table reads BAR2 (log 18). -/
def pageRead (m : Mod) (f page : Nat) : Nat :=
  if page < 1024 then (if sqOwner m page = f then (ring m page).head else 0)
  else if page < 2048 then (if cqOwner m (page - 1024) = f then (ring m (page - 1024)).cqTail else 0)
  else 0

/-! ## The command set (R495) -/

/-- Rings a command may come from: any, a partition ring, a module ring, which is PF0's. -/
inductive OnRing where
  | any | part | module
  deriving DecidableEq, Repr

/-- How a command takes T: allowed, refused, required. -/
inductive OnT where
  | allowed | refused | required
  deriving DecidableEq, Repr

/-- A command: its rings, its T, the bytes of its arguments as offset and length. -/
structure CmdSpec where
  ring : OnRing
  t : OnT
  args : List (Nat × Nat)
  deriving DecidableEq, Repr

def cmdSpec (op : Nat) : Option CmdSpec :=
  match op with
  | 0x00 => some ⟨.any, .allowed, []⟩
  | 0x01 => some ⟨.any, .refused, [(0x10, 4)]⟩
  | 0x02 => some ⟨.part, .refused, []⟩
  | 0x10 => some ⟨.part, .refused, [(0x10, 24), (0x28, 4), (0x30, 8)]⟩
  | 0x11 => some ⟨.part, .allowed, []⟩
  | 0x12 => some ⟨.part, .refused, []⟩
  | 0x13 => some ⟨.part, .allowed, [(0x10, 2)]⟩
  | 0x20 => some ⟨.part, .allowed, [(0x10, 1), (0x18, 10)]⟩
  | 0x21 => some ⟨.any, .refused, [(0x10, 1), (0x18, 16)]⟩
  | 0x22 => some ⟨.part, .refused, [(0x10, 4), (0x18, 14), (0x28, 8)]⟩
  | 0x30 => some ⟨.part, .refused, [(0x10, 8)]⟩
  | 0x31 => some ⟨.part, .required, []⟩
  | 0x32 => some ⟨.module, .refused, [(0x10, 1), (0x18, 8)]⟩
  | 0x40 => some ⟨.part, .refused, [(0x10, 3), (0x18, 8)]⟩
  | 0x41 => some ⟨.part, .refused, [(0x10, 16), (0x20, 3), (0x28, 8)]⟩
  | 0x42 => some ⟨.part, .refused, [(0x10, 4)]⟩
  | 0x43 => some ⟨.part, .refused, [(0x11, 1)]⟩
  | 0x44 => some ⟨.part, .refused, [(0x11, 1)]⟩
  | 0x50 => some ⟨.module, .refused, [(0x10, 1)]⟩
  | _ => none

/-- A reserved byte of an entry that is not 0 (R486). -/
def entryReserved (sp : CmdSpec) (b : List Byte) : Bool :=
  decide (fld b 1 1 ≥ 4) || !allZero (slice b 4 4) || (fld b 1 1 % 2 == 0 && fld b 8 8 != 0)
    || (List.range 48).any fun i => fld b (0x10 + i) 1 != 0 && !sp.args.any fun a => decide (a.1 ≤ 0x10 + i) && decide (0x10 + i < a.1 + a.2)

/-- An argument outside the values its command states. -/
def argBad (op : Nat) (b : List Byte) : Bool :=
  match op with
  | 0x10 => decide (fld b 0x28 4 > 16384)
  | 0x20 => fld b 0x20 2 == 0
  | 0x21 => decide (fld b 0x10 1 > 3)
  | 0x22 => decide (fld b 0x10 1 > 4) ||
      decide (fld b 0x10 1 ≠ 0 ∧ (fld b 0x11 1 > 3 ∨ fld b 0x12 2 > 8191))
  | 0x32 => decide (fld b 0x10 1 > 3)
  | 0x40 => decide (fld b 0x11 1 > 7) || decide (fld b 0x12 1 > 1)
  | 0x41 => decide (fld b 0x10 1 > 1) || decide (fld b 0x22 1 > 1) || decide (fld b 0x12 2 > 1023)
  | 0x50 => decide (fld b 0x10 1 > 7)
  | _ => false

/-- The compute dies a command names (R496). -/
def namedDies (op : Nat) (b : List Byte) : List Nat :=
  match op with
  | 0x20 | 0x40 => [fld b 0x10 1 / 16]
  | 0x41 => [if fld b 0x10 1 = 0 then fld b 0x11 1 / 16 else fld b 0x11 1 / 4]
  | 0x43 | 0x44 => if fld b 0x11 1 = 0xFF then [] else [fld b 0x11 1 / 16]
  | _ => []

/-- The check of an entry at its fetch, before its TAG and its Transit (R490, R495, R496, R502). -/
def entryErr (m : Mod) (n : Nat) (b : List Byte) : Option Byte :=
  let op := fld b 0 1
  let tbit := fld b 1 1 % 2 == 1
  let fence := fld b 1 1 / 2 % 2 == 1
  match cmdSpec op with
  | none => some 0x15
  | some sp =>
    if entryReserved sp b ∨ argBad op b then some 0x15
    else if (sp.ring = .part ∧ sqModuleRing m n) ∨ (sp.ring = .module ∧ (¬ sqModuleRing m n ∨ sqOwner m n ≠ 0)) then some 0x16
    else if (tbit ∧ sp.t = .refused) ∨ (¬ tbit ∧ sp.t = .required) ∨ (tbit ∧ fence) then some 0x17
    else match ringPart m n with
      | none => none
      | some k => if (namedDies op b).any fun d => !(partDies m k).contains d then some 0x1B else none

/-! ## Fetching -/

/-- Partition rings are fetched in MS0, module rings in MS1 too; a scrub stops the partition's rings
(R515, R520, R559). -/
def fetches (m : Mod) (n : Nat) : Bool :=
  sqEn m n && !m.pwr.tripped && !hnBusy m && vfLive m (sqOwner m n) && match ringPart m n with
    | none => decide (msLevel m ≤ 1)
    | some k => fetchLevel m == 0 && (partSt m k).scrub.isNone

def entryAt (m : Mod) (n i : Nat) : List Byte := hostRead m (regF m (rSq n) 12 52 * 4096 + 64 * i) 64

/-- The leave a Transit DMA command needs at its start: its first descriptor's burst (R217, R254). -/
def cmdLeave (t : Clk) (m : Mod) (k : Nat) (b : List Byte) : Nat :=
  if fld b 0 1 ≠ 0x20 then 0 else
  let rq : Req := { who := .cmd 0 0, part := some k, phys := false, owner := none }
  match (readSpans t rq .clean m (spans (fld b 0x18 8) 64)).2 with
  | .error _ => 0
  | .ok (bs, _) =>
    let d := readDesc bs
    if descOk (fld b 0x10 1 / 16) d ∧ d.op = 1 ∧ d.len > 0x40000 then 1 else 0

def newCmd (m : Mod) (n seq : Nat) (b : List Byte) (st : CmdSt) : Cmd where
  sq := n
  tag := fld b 2 2
  seq := seq
  op := fld b 0 1
  fence := fld b 1 1 / 2 % 2 == 1
  entry := b
  part := ringPart m n
  func := sqOwner m n
  st := st
  works := []
  fallback := false
  fault := none

def addCmd (n : Nat) (b : List Byte) (st : CmdSt) (m : Mod) : Mod :=
  let (id, m1) := fresh m
  { m1 with cmds := m1.cmds ++ [newCmd m1 n id b st] }

/-- A command refused at its fetch completes at once (R490). It is incomplete and holds its TAG until its entry is written
(R493), unless another command holds the TAG. -/
def refuseEntry (t : Clk) (n : Nat) (b : List Byte) (reason : Byte) (m : Mod) : Mod :=
  let tag := fld b 2 2
  if (findCmd m n tag).isSome then putEntry n (cmdEntry false tag 2 reason 0 t.sid) m
  else putEntry n (cmdEntry true tag 2 reason 0 t.sid) (addCmd n b .retired m)

/-- EPOCH_ADVANCE at its acceptance: a layout must be pending, and no round or pre-round of the previous one open (R386). -/
def epochRefused (m : Mod) : Bool :=
  let x := m.xch
  x.pending.isNone || (match x.previous with
    | some p => x.rounds.any (fun r => r.epoch == p.epoch) || x.pre.any fun r => r.epoch == p.epoch
    | none => false)

/-- A Transit command at its acceptance (R251 to R255, R502). -/
def acceptCmd (t : Clk) (n : Nat) (b : List Byte) (m : Mod) : Mod :=
  let launch := roundUpTick (BitVec.ofNat 64 (fld b 8 8))
  let units := match ringPart m n with
    | some k => cmdLeave t m k b
    | none => 0
  if isLate t launch then refuseEntry t n b 0x18 m
  else if fld b 0 1 = 0x31 then
    (if epochRefused m then refuseEntry t n b 0x47 m
     else addCmd n b (.accepted launch none) (modXch m fun x => { x with advancing := true }))
  else if units = 0 then addCmd n b (.accepted launch none) m
  else
    let (id, m1) := fresh m
    let g := fld b 0x10 1 / 16
    match reserveLeave m1 g id units with
    | .error r => refuseEntry t n b r m1
    | .ok m2 => addCmd n b (.accepted launch (some (g, id))) m2

/-- One entry, checked as it is fetched. -/
def takeEntry (t : Clk) (n : Nat) (b : List Byte) (m : Mod) : Mod :=
  match entryErr m n b with
  | some r => refuseEntry t n b r m
  | none =>
    if (findCmd m n (fld b 2 2)).isSome then refuseEntry t n b 0x13 m
    else if fld b 1 1 % 2 = 1 then acceptCmd t n b m
    else addCmd n b .waiting m

def fetchOne (t : Clk) (n : Nat) (m : Mod) : Mod :=
  let i := (ring m n).head
  takeEntry t n (entryAt m n i) (modRing m n fun r => { r with head := (i + 1) % sqSize m n })

/-! ### Which SQ fetches (R489) -/

def sqLevel (m : Mod) (n : Nat) : Nat := regF m (rSq n + 0x10) 16 3
def sqWeight (m : Mod) (n : Nat) : Nat := regF m (rSq n + 0x10) 24 8

/-- The unfetched entries of an SQ whose tail lies in it. -/
def sqLeft (m : Mod) (n : Nat) : Nat := ((ring m n).tail + sqSize m n - (ring m n).head) % sqSize m n

/-- The SQs that have entries to fetch, in ascending order. -/
def sqsWaiting (m : Mod) : List Nat :=
  (m.rings.map (·.1)).filter fun n => fetches m n && decide ((ring m n).tail < sqSize m n) && sqLeft m n != 0

/-- The first of a list past the SQ whose turn was last. -/
def afterTurn (m : Mod) (l : List Nat) : Option Nat := (l.find? fun n => decide (m.hub.sqTurn < n)) <|> l.head?

/-- Those of the waiting SQs below level 7 whose deficit covers a burst. -/
def sqsAble (m : Mod) : List Nat := (sqsWaiting m).filter fun n => sqLevel m n != 7 && decide (min 16 (sqLeft m n) ≤ (ring m n).deficit)

/-- The SQ whose turn it is: level 7 round-robin, then by deficit, the higher level first. Every waiting SQ is able after a
quantum of 16 entries for a unit of its weight. -/
def sqPick (m : Mod) : Option Nat :=
  let ready := sqsWaiting m
  let top := ready.filter fun n => sqLevel m n == 7
  if !top.isEmpty then afterTurn m top
  else
    let able := if (sqsAble m).isEmpty then ready.filter fun n => sqWeight m n != 0 else sqsAble m
    afterTurn m (able.filter fun n => able.all fun x => decide (sqLevel m x ≤ sqLevel m n))

/-- The deficits at an SQ's turn, before it fetches: a new quantum where none was able, none for the idle. -/
def sqQuanta (n : Nat) (m : Mod) : Mod :=
  let ready := sqsWaiting m
  let more := sqLevel m n != 7 && (sqsAble m).isEmpty
  let next := fun (i d : Nat) => if ¬ ready.contains i then 0 else if more ∧ sqLevel m i ≠ 7 then d + 16 * sqWeight m i else d
  let rs := m.rings.map fun r => (r.1, { r.2 with deficit := next r.1 r.2.deficit })
  modHub { m with rings := rs.filter fun r => r.2 != {} } fun h => { h with sqTurn := n }

/-- The burst counts against the deficit of an SQ below level 7. -/
def sqSpend (n k : Nat) (m : Mod) : Mod :=
  if sqLevel m n = 7 then m else modRing m n fun r => { r with deficit := r.deficit - k }

/-- SQ_ENTRY_FETCH: a burst of up to 16 entries of the SQ whose turn it is; a fetch error stops the ring (R489, R490). -/
def entryFetch (n burst : Nat) (bad : Bool) (t : Clk) (m0 : Mod) : Mod :=
  if ¬ fetches m0 n then m0 else
  if (ring m0 n).tail ≥ sqSize m0 n then stopSq t n 0x14 (ring m0 n).tail m0 else
  if sqPick m0 ≠ some n then m0 else
  let left := sqLeft m0 n
  let m := sqSpend n (min (min 16 (max 1 burst)) left) (sqQuanta n m0)
  if left = 0 then m
  else if bad then stopSq t n 0x1C 0 (pcieFault t (sqOwner m n) (ringPart m n) m)
  else (List.range (min (min 16 (max 1 burst)) left)).foldl (fun m _ => fetchOne t n m) m

/-! ## Completion entries -/

def entryBytes (x : CqEntry) (sqHead : Nat) (phase : Bool) : List Byte :=
  toLe 2 x.tag.toNat ++ toLe 2 (if x.event then x.half.toNat else sqHead)
    ++ toLe 1 (128 * b2n phase + 64 * b2n x.event + x.status.toNat) ++ toLe 1 x.reason.toNat
    ++ toLe 2 x.flog.toNat ++ toLe 8 x.time.toNat

def cqFull (m : Mod) (n : Nat) : Bool := ((ring m n).cqTail + 1) % cqSize m n == (ring m n).cqHead

/-- The message of a CQ: every entry so far is covered (R494). -/
def sendCq (n : Nat) (m : Mod) : Mod :=
  sendMsix (cqOwner m n) (regF m (rCq n + 0x10) 16 11) (modRing m n fun r => { r with since := 0, oldest := none })

/-- An ABORT whose target's entry has been written completes: OK where it was granted, too late where the target's own
completion was (R504). -/
def endAborts (t : Clk) (sq tag : Nat) (granted : Bool) (m : Mod) : Mod :=
  (m.cmds.filter fun a => a.op == 1 && a.st == .started && fld a.entry 0x10 2 == sq && fld a.entry 0x12 2 == tag).foldl
    (fun m a => if granted then retireCmd t a.sq a.tag 0 0 0 m else refuseCmd t a.sq a.tag 0x19 m) m

/-- The completion of an XLAT_INVALIDATE drops the cached translations of its partition (R37). -/
def dropXlat (n : Nat) (x : CqEntry) (m : Mod) : Mod :=
  match findCmd m n x.tag.toNat with
  | some c => if x.own ∧ x.status = 0 ∧ c.op = 0x02 then modPart m (c.part.getD 0) fun p => { p with xlat := [] } else m
  | none => m

/-- A command whose entry is written or discarded is complete; its TAG is free (R493). -/
def freeCmd (t : Clk) (n : Nat) (x : CqEntry) (m : Mod) : Mod :=
  let m1 := dropXlat n x (modRing m n fun r => { r with waiting := r.waiting.drop 1 })
  if x.own then endAborts t n x.tag.toNat (x.status == 1) { m1 with cmds := m1.cmds.filter fun c => !(c.sq == n && c.tag == x.tag.toNat) }
  else m1

/-- The entry is written at the tail, PHASE flips at the wrap, the count of the message rises. -/
def putCq (t : Clk) (n : Nat) (x : CqEntry) (m : Mod) : Mod :=
  let r := ring m n
  let m1 := hostWrite m (regF m (rCq n) 12 52 * 4096 + 16 * r.cqTail) (entryBytes x r.head r.cqPhase)
  let tail := (r.cqTail + 1) % cqSize m n
  let m2 := modRing m1 n fun y => { y with
    cqTail := tail, cqPhase := if tail = 0 then !y.cqPhase else y.cqPhase
    since := y.since + 1, oldest := y.oldest <|> some t.now }
  let m3 := freeCmd t n x m2
  if (ring m3 n).since ≥ regF m3 (rCq n + 0x10) 32 16 then sendCq n m3 else m3

/-- CQ_ENTRY_WRITE: the oldest waiting entry, when there is room; discarded and logged while the CQ
is disabled (R507); an entry that cannot be written stops the CQ (0x1D). -/
def entryWrite (n : Nat) (bad : Bool) (t : Clk) (m0 : Mod) : Mod :=
  let m := settleBell t n m0
  match (ring m n).waiting with
  | [] => m
  | x :: _ =>
    if ¬ cqEn m n then freeCmd t n x (hnFault t fRing 0 n 0 (ringPart m n) m)
    else if cqFull m n then m
    else if bad then stopCq t n 0x1D 0 (pcieFault t (cqOwner m n) (ringPart m n) m)
    else putCq t n x m

/-- CQ_INTERRUPT_DELAY: IDELAY µs have passed since the oldest entry no message covers. -/
def interruptDelay (n : Nat) (t : Clk) (m : Mod) : Mod :=
  let d := regF m (rCq n + 0x10) 48 16
  match (ring m n).oldest with
  | none => m
  | some at_ => if d = 0 ∨ t.now < at_ + 1600 * d then m else sendCq n m

/-! ## How a command starts (R491) -/

/-- Ring order, and under FENCE the end of every earlier command of the ring. -/
def mayStart (m : Mod) (c : Cmd) : Bool :=
  m.cmds.all fun x => x.sq != c.sq || decide (c.seq ≤ x.seq) || (!c.fence && x.st != .waiting)

def markStarted (c : Cmd) (m : Mod) : Mod := modCmd m c.sq c.tag fun x => { x with st := .started }

/-- A row of a command: it starts once it may, a Transit at the first even tick at or past its launch
(R258). -/
def startCmd (op : Nat) (body : Cmd → Clk → Mod → Mod) (sq : RingId) (tag : BitVec 16) (t : Clk) (m : Mod) : Mod :=
  match findCmd m sq.val tag.toNat with
  | none => m
  | some c =>
    if c.op ≠ op then m else match c.st with
    | .waiting => if mayStart m c then body c t (markStarted c m) else m
    | .accepted launch _ => if t.running ∧ launch.toNat ≤ t.sid.toNat then body c t (markStarted c m) else m
    | _ => m

def cmdRow (op : Nat) (body : Cmd → Clk → Mod → Mod) (sq : RingId) (tag : BitVec 16) (s : State) :
    Host.Outcome State Fault Refusal :=
  onAll (startCmd op body sq tag) s

/-! ## The rows -/

def execSqDoorbell (f : Func) (n : RingId) (off size : Nat) (v : W32) (s : State) : Host.Outcome State Fault Refusal :=
  onMod (sqDoorbell f.val n.val off size v.toNat) s
def execCqDoorbell (f : Func) (n : RingId) (off size : Nat) (v : W32) (s : State) : Host.Outcome State Fault Refusal :=
  onMod (cqDoorbell f.val n.val off size v.toNat) s
def execSqEntryFetch (n : RingId) (burst : Nat) (fetchError : Bool) (s : State) : Host.Outcome State Fault Refusal :=
  onMod (entryFetch n.val burst fetchError) s
def execCqEntryWrite (n : RingId) (writeError : Bool) (s : State) : Host.Outcome State Fault Refusal :=
  onMod (entryWrite n.val writeError) s
def execCqInterruptDelay (n : RingId) (s : State) : Host.Outcome State Fault Refusal :=
  onMod (interruptDelay n.val) s

end Sys2Proof.Machine
end

