-- ==== Sys2Proof/Machine/Loader.lean ====
section
/-! DEFINITION. The loader (R269 to R278, R286 to R294, R315, R317, R319, R352): the container, its
signatures, its resource records, its streams, its slots, and what a loaded program sets up. -/

namespace Sys2Proof.Machine

/-! ## Refusals (R291) -/

/-- A refused load: reason, section (none: the container), byte offset. -/
structure LErr where
  reason : Byte
  sec : Option Nat
  off : Nat
  deriving DecidableEq, Repr

/-- The 16-byte diagnostic. -/
def diagnostic (e : LErr) : List Byte :=
  toLe 4 (e.sec.getD 0xFFFFFFFF) ++ toLe 8 e.off ++ toLe 1 e.reason.toNat ++ toLe 3 0

/-- The first refusal of a list of checks. -/
def firstL : List (Option LErr) → Option LErr
  | [] => none
  | some e :: _ => some e
  | none :: r => firstL r

def refuseIf (b : Bool) (reason : Byte) (sec : Option Nat) (off : Nat) : Option LErr :=
  if b then some ⟨reason, sec, off⟩ else none

/-- The offset of the first byte of a range that is not 0. -/
def nonZero (bs : List Byte) (o n : Nat) : Option Nat := (List.range n).findSome? fun i =>
  if fld bs (o + i) 1 ≠ 0 then some (o + i) else none

def reservedAt (bs : List Byte) (sec : Option Nat) (o n : Nat) : Option LErr :=
  (nonZero bs o n).map fun x => ⟨0x82, sec, x⟩

/-! ## The container (R269 to R271) -/

/-- A section-table entry. -/
structure Sect where
  typ : Nat
  off : Nat
  len : Nat
  deriving DecidableEq, Repr

def readSect (b : List Byte) (i : Nat) : Sect where
  typ := fld b (0x40 + 32 * i) 4
  off := fld b (0x48 + 32 * i) 8
  len := fld b (0x50 + 32 * i) 8

def sectCount (b : List Byte) : Nat := fld b 8 4
def sections (b : List Byte) : List Sect := (List.range (min 4096 (sectCount b))).map (readSect b)
def sectBytes (b : List Byte) (s : Sect) : List Byte := slice b s.off s.len

def headerErr (b : List Byte) (argLen : Nat) (dies : Nat) : Option LErr :=
  firstL [
    reservedAt b none 6 2, reservedAt b none 0x20 32,
    refuseIf (fld b 0 4 != 0x4349564C) 0x80 none 0,
    refuseIf (!versionOk (fld b 5 1) (fld b 4 1)) 0x81 none 4,
    refuseIf (decide (sectCount b < 3) || decide (sectCount b > 4096)) 0x80 none 8,
    refuseIf (fld b 0xC 4 == 0 || decide (fld b 0xC 4 > 16)) 0x80 none 0xC,
    refuseIf (decide (fld b 0xC 4 > dies)) 0x84 none 0xC,
    refuseIf (fld b 0x10 8 != argLen || decide (argLen < 0x40 + 32 * sectCount b)) 0x80 none 0x10]

/-- The length rules of a section type; none for a reserved type. -/
def lenOk (s : Sect) : Option Bool :=
  match s.typ with
  | 1 => some (s.len % 16 == 0 && decide (s.len ≤ 16 * 1048576) && s.len != 0)
  | 2 => some (s.len % 64 == 0 && decide (s.len ≤ 64 * 65536))
  | 3 => some (decide (s.len ≤ 0x4000000))
  | 4 => some (s.len % 8 == 0 && decide (s.len ≤ 8 * 16384))
  | 5 => some true
  | 0xFF => some (decide (s.len ≥ 0xD2D))
  | _ => none

def sectErr (b : List Byte) (i : Nat) : Option LErr :=
  let s := readSect b i
  let o := 0x40 + 32 * i
  firstL [
    reservedAt b none (o + 4) 4, reservedAt b none (o + 0x18) 8,
    refuseIf (lenOk s).isNone 0x82 none o,
    refuseIf (s.off % 256 != 0 || decide (s.off < 0x40 + 32 * sectCount b)) 0x80 none (o + 8),
    refuseIf (!(lenOk s).getD true || decide (s.off + s.len > fld b 0x10 8)) 0x80 none (o + 0x10)]

def overlapErr (ss : List Sect) : Option LErr :=
  (ss.zipIdx.find? fun x => ss.zipIdx.any fun y => decide (y.2 < x.2) && decide (x.1.off < y.1.off + y.1.len) && decide (y.1.off < x.1.off + x.1.len)).map
    fun x => ⟨0x80, none, 0x48 + 32 * x.2⟩

def countTyp (ss : List Sect) (t : Nat) : Nat := (ss.filter fun s => s.typ == t).length

/-- The numbers of sections, and SIGNATURES as the last, ending at TOTAL_LEN. -/
def countErr (b : List Byte) (ss : List Sect) : Option LErr :=
  refuseIf (countTyp ss 1 == 0 || decide (countTyp ss 4 > 1) || countTyp ss 5 != 1 || countTyp ss 0xFF != 1
    || !(match ss.getLast? with | some s => s.typ == 0xFF && s.off + s.len == fld b 0x10 8 | none => false)) 0x80 none 0x40

def tableErr (b : List Byte) : Option LErr :=
  let ss := sections b
  firstL (((List.range ss.length).map (sectErr b)) ++ [overlapErr ss, countErr b ss])

/-- The SIGNATURES section, where header and table let it be found. -/
def sigSect (b : List Byte) (argLen : Nat) : Option (Nat × Sect) :=
  let n := sectCount b
  if n < 3 ∨ n > 4096 ∨ argLen < 0x40 + 32 * n then none
  else
    let s := readSect b (n - 1)
    if s.typ = 0xFF ∧ s.off + s.len = argLen ∧ s.len ≥ 0xD2D then some (n - 1, s) else none

/-- The enrolled pairs of a kind: false PROGRAM, true DEBUG (R547). -/
def keysOf (m : Mod) (k : Nat) (debug : Bool) : List (List Byte) :=
  (partSt m k).enrolled.filterMap fun x => if x.1 = debug then some x.2 else none

/-- R272: both signatures under one enrolled pair. -/
def sigErr (keys : List (List Byte)) (b : List Byte) (i : Nat) (s : Sect) : Option LErr :=
  let msg := slice b 0 s.off
  let ed := keys.filter fun k => Config.edVerify k msg (slice b s.off 64)
  let ml := ed.any fun k => Config.mlVerify k msg (slice b (s.off + 0x40) 0xCED)
  if keys.isEmpty then some ⟨0x72, some i, 0⟩
  else if ed.isEmpty then some ⟨0x70, some i, 0⟩
  else if ¬ ml then some ⟨0x71, some i, 0x40⟩
  else (nonZero b (s.off + 0xD2D) (s.len - 0xD2D)).map fun x => ⟨0x82, some i, x - s.off⟩

/-! ## Resource records (R276, R277) -/

/-- A block of sync objects. -/
structure SyncBlk where
  rdie : Nat
  counter : Bool
  external : Bool
  count : Nat
  signallers : List Nat
  init : W32
  target : W32
  deriving DecidableEq, Repr

/-- A block of handle queues. -/
structure HqBlk where
  rdie : Nat
  count : Nat
  pop : Nat
  deriving DecidableEq, Repr

/-- A CHAIN record. -/
structure ChainBlk where
  completion : Nat
  stages : List StageRec
  off : Nat
  deriving DecidableEq, Repr

/-- The records read so far, in order, with their offsets where a later check names one. -/
structure Res where
  tasks : List (TaskRec × Nat) := []
  syncs : List SyncBlk := []
  hqs : List (HqBlk × Nat) := []
  mcasts : List (List (Nat × Bool × Nat)) := []
  chains : List ChainBlk := []
  quota : Option Nat := none
  deriving DecidableEq, Repr

/-- The bytes of fields of a record: the rest is padding. -/
def recNeed (b : List Byte) (o : Nat) : Option Nat :=
  match fld b o 2 with
  | 1 => some 28
  | 2 => some (20 + 2 * fld b (o + 10) 2)
  | 3 => some 10
  | 4 => some (8 + 2 * fld b (o + 4) 2)
  | 5 => some (8 + 12 * fld b (o + 4) 1)
  | 6 => some 12
  | _ => none

def readTask (b : List Byte) (o : Nat) : TaskRec where
  section_ := fld b (o + 4) 2
  rdie := fld b (o + 6) 1
  eng := fld b (o + 7) 1
  ctx := fld b (o + 8) 1
  levels := (List.range 8).map fun i => fld b (o + 12 + 2 * i) 1
  weights := (List.range 8).map fun i => fld b (o + 13 + 2 * i) 1

def readStage (b : List Byte) (o : Nat) : StageRec where
  kind := fld b o 1
  place := fld b (o + 1) 2
  pool := fld b (o + 3) 1
  bytes := fld b (o + 4) 4
  tmpl := fld b (o + 8) 4

/-- What the loader knows while it reads the records: sections, the RESOURCES section's number, DIES,
the physical dies, the bound of the KEEP quota. -/
structure LEnv where
  b : List Byte
  ss : List Sect
  rs : Nat
  dies : List Nat
  nTasks : Nat
  quotaMax : Nat
  deriving DecidableEq, Repr

def syncsOn (r : Res) (rdie : Nat) : Nat := ((r.syncs.filter fun s => s.rdie == rdie).map (·.count)).foldl (· + ·) 0
def hqsOn (r : Res) (rdie : Nat) : Nat := ((r.hqs.filter fun h => h.1.rdie == rdie).map (·.1.count)).foldl (· + ·) 0

/-- Kind of a declared object of a die: some true for a counter. -/
def kindOf (r : Res) (rdie idx : Nat) : Option Bool :=
  ((r.syncs.filter fun s => s.rdie == rdie).foldl (fun (a : Nat × Option Bool) s =>
    (a.1 + s.count, if a.2.isNone ∧ a.1 ≤ idx ∧ idx < a.1 + s.count then some s.counter else a.2)) (0, none)).2

def taskErr (v : LEnv) (r : Res) (b : List Byte) (o : Nat) : Option LErr :=
  let t := readTask b o
  let same := r.tasks.filter fun x => x.1.rdie == t.rdie && x.1.eng == t.eng
  firstL [
    reservedAt b (some v.rs) (o + 9) 3,
    refuseIf (!(match v.ss[t.section_]? with | some s => s.typ == 1 | none => false)) 0x80 (some v.rs) o,
    refuseIf (decide (t.rdie ≥ v.dies.length) || decide (t.eng > 15) || (decide (t.ctx > 3) && t.ctx != 0xFF)) 0x84 (some v.rs) o,
    refuseIf (decide (same.length ≥ 4) || (t.ctx != 0xFF && same.any fun x => x.1.ctx == t.ctx)) 0x84 (some v.rs) o,
    refuseIf (t.levels.any fun l => decide (l > 7)) 0x82 (some v.rs) o]

def syncErr (v : LEnv) (r : Res) (b : List Byte) (o : Nat) : Option LErr :=
  let n := fld b (o + 10) 2
  let flag := fld b (o + 5) 1 == 0
  firstL [
    refuseIf (decide (fld b (o + 5) 1 > 1) || decide (fld b (o + 6) 2 > 1)) 0x82 (some v.rs) o,
    refuseIf (decide (fld b (o + 4) 1 ≥ v.dies.length)) 0x84 (some v.rs) o,
    refuseIf (decide (syncsOn r (fld b (o + 4) 1) + fld b (o + 8) 2 > 16320)) 0x85 (some v.rs) o,
    refuseIf ((List.range n).any fun i => decide (fld b (o + 20 + 2 * i) 2 ≥ v.nTasks)) 0x85 (some v.rs) o,
    refuseIf (flag && (decide (fld b (o + 12) 4 > 1) || fld b (o + 16) 4 != 0)) 0x85 (some v.rs) o]

def readSync (b : List Byte) (o : Nat) : SyncBlk where
  rdie := fld b (o + 4) 1
  counter := fld b (o + 5) 1 == 1
  external := fld b (o + 6) 2 == 1
  count := fld b (o + 8) 2
  signallers := (List.range (fld b (o + 10) 2)).map fun i => fld b (o + 20 + 2 * i) 2
  init := BitVec.ofNat 32 (fld b (o + 12) 4)
  target := BitVec.ofNat 32 (fld b (o + 16) 4)

def hqErr (v : LEnv) (r : Res) (b : List Byte) (o : Nat) : Option LErr :=
  firstL [
    reservedAt b (some v.rs) (o + 5) 1,
    refuseIf (decide (fld b (o + 4) 1 ≥ v.dies.length)) 0x84 (some v.rs) o,
    refuseIf (decide (hqsOn r (fld b (o + 4) 1) + fld b (o + 6) 2 > 512)) 0x86 (some v.rs) o]

def readMcast (v : LEnv) (b : List Byte) (o : Nat) : List (Nat × Bool × Nat) :=
  (List.range (fld b (o + 4) 2)).map fun i =>
    let x := fld b (o + 8 + 2 * i) 2
    (v.dies[x / 4096]?.getD 0, bit x 11, x % 32)

/-- R152: 1 to 256 destinations of the program's dies. -/
def mcastErr (v : LEnv) (b : List Byte) (o : Nat) : Option LErr :=
  let n := fld b (o + 4) 2
  let xs := (List.range n).map fun i => fld b (o + 8 + 2 * i) 2
  firstL [
    reservedAt b (some v.rs) (o + 6) 2,
    refuseIf (n == 0 || decide (n > 256)) 0x89 (some v.rs) o,
    refuseIf (xs.any fun x => bits x 5 6 != 0) 0x82 (some v.rs) o,
    refuseIf (xs.any fun x => decide (x / 4096 ≥ v.dies.length) || (!bit x 11 && decide (x % 32 > 15))) 0x89 (some v.rs) o]

def quotaErr (v : LEnv) (r : Res) (b : List Byte) (o : Nat) : Option LErr :=
  refuseIf (r.quota.isSome || decide (fld b (o + 4) 8 > v.quotaMax)) 0x69 (some v.rs) o

/-- The offsets of the records, as far as their lengths lead. -/
def recordOffs (b : List Byte) : Nat → Nat → List Nat
  | 0, _ => []
  | fuel + 1, o => if o ≥ b.length then [] else o :: (if fld b (o + 2) 2 < 8 then [] else recordOffs b fuel (o + fld b (o + 2) 2))

/-- TASK records of a RESOURCES section, for signaller lists that come before them. -/
def taskCount (b : List Byte) : Nat := ((recordOffs b (b.length / 8 + 1) 0).filter fun o => fld b o 2 == 1).length

/-! ### Records that name later ones -/

/-- The relative die of a stage: its engine's, its task's; none for a MEDIA stage (R232, R276). -/
def stageDie (v : LEnv) (r : Res) (s : StageRec) : Option Nat :=
  match s.kind with
  | 0 => v.dies.findIdx? fun d => d == s.place / 16
  | 1 => (r.tasks[s.place]?).map fun t => t.1.rdie
  | _ => none

def descBytes (v : LEnv) (sec idx : Nat) : Option (List Byte) :=
  match v.ss[sec]? with
  | some s => if s.typ = 2 ∧ 64 * idx + 64 ≤ s.len then some (slice v.b (s.off + 64 * idx) 64) else none
  | none => none

/-- R319: template and pool of a stage. -/
def stageOk (v : LEnv) (s : StageRec) (last : Bool) : Bool :=
  if last || s.kind == 2 then s.pool == 0 && s.bytes == 0 && s.tmpl == 0
  else decide (1 ≤ s.pool) && decide (s.pool ≤ 64) && s.bytes != 0 && (if s.kind = 1 then s.tmpl == 0
    else match descBytes v (s.tmpl / 65536) (s.tmpl % 65536) with
      | none => false
      | some d =>
        let f := readDesc d
        f.src == 0 && f.dst == 0 && !f.popSrc && !f.pushDst && descOk (s.place / 16) f)

/-- A signal that names an object that is not declared (so none of the driver's or firmware's, R277), a flag for a count, or a
slot that is not in the table (R287, R290). -/
def badSignal (kinds : List Bool) (nSlots smode s : Nat) : Option Byte :=
  if smode = 1 ∧ kinds.isEmpty then some 0x85
  else if smode = 2 ∧ ¬ kinds.contains true then some 0x85
  else if smode = 3 ∧ s ≥ nSlots then some 0x8B
  else none

/-- The entries of the slot table. -/
def slotCount (v : LEnv) : Nat := ((v.ss.find? fun x => x.typ == 4).map fun s => s.len / 8).getD 0

/-- The signal of a DMA stage's template. -/
def templateErr (v : LEnv) (r : Res) (s : StageRec) : Option Byte :=
  match descBytes v (s.tmpl / 65536) (s.tmpl % 65536), stageDie v r s with
  | some d, some die => let f := readDesc d
    if s.kind ≠ 0 ∨ s.pool = 0 then none else badSignal (kindOf r die f.s).toList (slotCount v) f.smode f.s
  | _, _ => none

def chainErr (v : LEnv) (r : Res) (c : ChainBlk) : Option LErr :=
  let n := c.stages.length
  let lastDie := (c.stages.getLast?).bind (stageDie v r)
  firstL [
    refuseIf (c.stages.any fun s => decide (s.kind > 2)) 0x82 (some v.rs) c.off,
    refuseIf (c.stages.any fun s => s.kind == 0 && (stageDie v r s).isNone) 0x84 (some v.rs) c.off,
    refuseIf (decide (n < 2) || decide (n > 8) || c.stages.zipIdx.any fun x => !stageOk v x.1 (x.2 + 1 == n)
      || (x.1.kind == 1 && (stageDie v r x.1).isNone) || (x.1.kind == 2 && (x.2 != 0 || decide (x.1.place > 5)))) 0x88 (some v.rs) c.off,
    (c.stages.findSome? (templateErr v r)).map fun e => ⟨e, some v.rs, c.off⟩,
    refuseIf (lastDie.bind (fun d => kindOf r d c.completion) != some true) 0x85 (some v.rs) c.off]

/-- Pop counters of a block are declared counters of its die (R224, R276). -/
def popErr (v : LEnv) (r : Res) (h : HqBlk × Nat) : Option LErr :=
  refuseIf (h.1.pop != 0xFFFF && (List.range h.1.count).any fun i => kindOf r h.1.rdie (h.1.pop + i) != some true) 0x85 (some v.rs) h.2

/-- The implicit queues of the CHAINs in order: per boundary a FULL and, unless its producer is MEDIA,
a FREE queue, as relative dies (R232, R277). -/
def implicit (v : LEnv) (r : Res) : List Nat :=
  r.chains.flatMap fun c => (c.stages.zip (c.stages.drop 1)).flatMap fun x =>
    (stageDie v r x.2).toList ++ (stageDie v r x.1).toList

/-- The queues that the records up to one declare, implicit ones included (R224). -/
def queueErr (v : LEnv) (r : Res) (o : Nat) : Option LErr :=
  refuseIf ((List.range 16).any fun d => decide (hqsOn r d + ((implicit v r).filter (· == d)).length > 512)) 0x86 (some v.rs) o

/-! ### The records in order (R289) -/

def readHq (b : List Byte) (o : Nat) : HqBlk where
  rdie := fld b (o + 4) 1
  count := fld b (o + 6) 2
  pop := fld b (o + 8) 2

def readChain (b : List Byte) (o : Nat) : ChainBlk where
  completion := fld b (o + 6) 2
  stages := (List.range (fld b (o + 4) 1)).map fun i => readStage b (o + 8 + 12 * i)
  off := o

/-- A record's place in the lists. -/
def putRecord (v : LEnv) (b : List Byte) (r : Res) (o : Nat) : Res :=
  match fld b o 2 with
  | 1 => { r with tasks := r.tasks ++ [(readTask b o, o)] }
  | 2 => { r with syncs := r.syncs ++ [readSync b o] }
  | 3 => { r with hqs := r.hqs ++ [(readHq b o, o)] }
  | 4 => { r with mcasts := r.mcasts ++ [readMcast v b o] }
  | 5 => { r with chains := r.chains ++ [readChain b o] }
  | 6 => { r with quota := some (fld b (o + 4) 8) }
  | _ => r

/-- A record's own rules: `r` holds the records before it, `all` every record, for those that name later ones. -/
def recErr (v : LEnv) (all r : Res) (b : List Byte) (o : Nat) : Option LErr :=
  let next := putRecord v b r o
  let queues := queueErr v { all with hqs := next.hqs, chains := next.chains } o
  match fld b o 2 with
  | 1 => taskErr v r b o
  | 2 => syncErr v r b o
  | 3 => firstL [hqErr v r b o, popErr v all (readHq b o, o), queues]
  | 4 => mcastErr v b o
  | 5 => firstL [reservedAt b (some v.rs) (o + 5) 1, chainErr v all (readChain b o), queues]
  | _ => quotaErr v r b o

/-- One record: its length, its padding, its own rules, then its place in the lists. -/
def takeRecord (v : LEnv) (all : Res) (b : List Byte) (o : Nat) (r : Res) : Except LErr Res :=
  match recNeed b o with
  | none => .error ⟨0x82, some v.rs, o⟩
  | some need =>
    let len := fld b (o + 2) 2
    if len % 8 ≠ 0 ∨ len < need ∨ o + len > b.length then .error ⟨0x80, some v.rs, o + 2⟩
    else match firstL [reservedAt b (some v.rs) (o + need) (len - need), recErr v all r b o] with
      | some e => .error e
      | none => .ok (putRecord v b r o)

def readRes (v : LEnv) (b : List Byte) : Except LErr Res :=
  let os := recordOffs b (b.length / 8 + 1) 0
  let all := os.foldl (putRecord v b) {}
  os.foldl (fun acc o => match acc with
    | .error e => .error e
    | .ok r => takeRecord v all b o r) (.ok {})

/-! ## Streams -/

def words (bs : List Byte) : List LviWord := (List.range (bs.length / 16)).map fun i => BitVec.ofNat 128 (fld bs (16 * i) 16)

/-- A loop of a stream: its LOOP, the end of its body. -/
def loopsOf (ws : List LviWord) : List (Nat × Nat) :=
  ws.zipIdx.filterMap fun x => if wOp x.1 = 5 then some (x.2, x.2 + 1 + wf x.1 32 20) else none

def inBody (l : Nat × Nat) (i : Nat) : Bool := decide (l.1 < i) && decide (i < l.2)

/-- R129, R315 at one instruction. -/
def structErr (ws : List LviWord) (ls : List (Nat × Nat)) (i : Nat) (w : LviWord) : Bool :=
  if wOp w = 5 then
    let stop := i + 1 + wf w 32 20
    let outer := ls.filter fun l => inBody l i
    decide (stop > ws.length) || decide (outer.length ≥ 4) || outer.any fun l => decide (stop > l.2)
  else if wOp w = 6 then
    let target : Int := (i : Int) + (BitVec.ofNat 32 (wf w 0 32)).toInt
    decide (target < 0) || decide (target ≥ ws.length) || ls.any fun l => inBody l i != inBody l target.toNat
  else false

/-- A forbidden pairing (R44, R290) that the loader sees: of a pass whose operand formats it can tell from the stream, which
the manual does not say how (log 26). The check at injection stops any other. -/
def pairRefused (ws : List LviWord) (i : Nat) (w : LviWord) : Bool :=
  (wOp w == 0x40 || wOp w == 0x60) && (match Config.passFormats ws i with
    | some (a, b) => !(pairOk a b && (wOp w == 0x40 || (dotFmt a && dotFmt b)))
    | none => false)

/-- The form of one instruction, whichever task runs it. -/
def formErr (major minor : Nat) (ws : List LviWord) (ls : List (Nat × Nat)) (sec i : Nat) (w : LviWord) : Option LErr :=
  match wordErr w with
  | some e => some ⟨e, some sec, 16 * i⟩
  | none => firstL [
      refuseIf (!versionAllows major minor w) 0x81 (some sec) (16 * i),
      refuseIf (structErr ws ls i w) 0x87 (some sec) (16 * i),
      refuseIf (pairRefused ws i w) 0x83 (some sec) (16 * i),
      refuseIf ((wOp w == 0x80 || wOp w == 0x81) && wf w 54 5 == 16 && decide (64 * wf w 37 17 + 1024 > padBytes)) 0x8D (some sec) (16 * i)]

/-- The objects and queue weights that a stream's instructions may name: those of the die of a task that runs it, or of any
die of the program while no task names the stream (log 26). -/
structure Names where
  kinds : Nat → List Bool
  dies : List Nat
  weights : List Nat

def taskNames (v : LEnv) (r : Res) (t : TaskRec) : Names where
  kinds := fun x => (kindOf r t.rdie x).toList
  dies := [v.dies[t.rdie]?.getD 0]
  weights := t.weights

def anyNames (v : LEnv) (r : Res) : Names where
  kinds := fun x => (List.range v.dies.length).filterMap fun d => kindOf r d x
  dies := v.dies
  weights := []

/-- The signal of an instruction or a moved descriptor. -/
def signalErr (n : Names) (nSlots smode s : Nat) : Option Byte := badSignal (n.kinds s) nSlots smode s

/-- The descriptors of a MOVE: in the section, of R211, their relative dies and signals as an instruction's. -/
def moveErr (v : LEnv) (n : Names) (nSlots : Nat) (w : LviWord) : Option Byte :=
  (List.range (wf w 16 16)).findSome? fun j => match descBytes v (wf w 48 16) (wf w 32 16 + j) with
    | none => some 0x62
    | some d =>
      let f := readDesc d
      if ¬ n.dies.any fun die => descOk die f then some 0x62
      else if f.pushDst ∧ f.dstDie ≥ v.dies.length then some 0x84
      else signalErr n nSlots f.smode f.s

/-- What one instruction names. -/
def namesErr (v : LEnv) (r : Res) (nSlots : Nat) (n : Names) (sec i : Nat) (w : LviWord) : Option LErr :=
  let has := fun (x : Nat) => !(n.kinds x).isEmpty
  let bad := fun (b : Bool) (e : Byte) => refuseIf b e (some sec) (16 * i)
  let some_ := fun (e : Option Byte) => e.map fun x => (⟨x, some sec, 16 * i⟩ : LErr)
  firstL [
    bad ((wWmode w != 0 && !has (wW0 w)) || (decide (wWmode w ≥ 2) && !has (wW1 w))) 0x85,
    some_ (signalErr n nSlots (wSmode w) (wS w)),
    bad ((wOp w == 0xE0 || wOp w == 0xE1) && !has (wf w 50 14)) 0x85,
    bad ((wOp w == 0xE0 && !(n.kinds (wf w 50 14)).contains true) || (wOp w == 0xE1 && !(n.kinds (wf w 50 14)).contains false)) 0x88,
    some_ (if wOp w = 0x20 then moveErr v n nSlots w else none),
    bad (wOp w == 0x21 && decide (wf w 52 4 ≥ v.dies.length)) 0x84,
    bad (wOp w == 0x20 && n.weights[wf w 13 3]? == some 0) 0x8A,
    bad (wOp w == 0xC3 && wExt w == 0 && decide (wf w 32 16 ≥ r.mcasts.length)) 0x89,
    bad (wOp w == 0x24 && decide (wf w 0 16 ≥ r.chains.length)) 0x88]

def streamErr (v : LEnv) (r : Res) (nSlots sec : Nat) : Option LErr :=
  match v.ss[sec]? with
  | none => none
  | some s =>
    if s.typ ≠ 1 then none else
    let ws := words (sectBytes v.b s)
    let ls := loopsOf ws
    let tasks := (r.tasks.filter fun t => t.1.section_ == sec).map fun t => taskNames v r t.1
    let mine := if tasks.isEmpty then [anyNames v r] else tasks
    firstL (ws.zipIdx.map fun x => firstL
      (formErr (fld v.b 5 1) (fld v.b 4 1) ws ls sec x.2 x.1 :: mine.map fun n => namesErr v r nSlots n sec x.2 x.1))

/-- The queues a stream names in MOVEs. -/
def namedQueues (v : LEnv) (sec : Nat) : List Nat :=
  match v.ss[sec]? with
  | none => []
  | some s => (words (sectBytes v.b s)).filterMap fun w => if wOp w = 0x20 then some (wf w 13 3) else none

/-- R219: no queue named by two tasks of one engine. -/
def sharedQueue (v : LEnv) (r : Res) : Option LErr :=
  (r.tasks.zipIdx.find? fun x => r.tasks.zipIdx.any fun y => decide (y.2 < x.2) && y.1.1.rdie == x.1.1.rdie && y.1.1.eng == x.1.1.eng
    && (namedQueues v x.1.1.section_).any fun q => (namedQueues v y.1.1.section_).contains q).map fun x => ⟨0x8A, some v.rs, x.1.2⟩

/-! ## Slots (R286, R287) -/

/-- The physical die of relative die d under a rank-map entry. -/
def rankDie (e d : Nat) : Option Nat :=
  let low := bits e 14 4
  let mask := bits e 18 8
  if mask = 0 then (if low + d < 16 then some (low + d) else none)
  else
    let ds := (List.range 16).filter fun x => bit mask (x / 2)
    if ds.head? = some low then ds[d]? else none

/-- Slot i resolved, or the reason it is refused and whether that concerns the rank map. The driver's and firmware's
indices are no program's to name (R277). -/
def resolveSlot (v : LEnv) (r : Res) (own nRanks : Nat) (map tab : List Byte) (i : Nat) : Except (Byte × Bool) RSlot :=
  let x := fld tab (8 * i) 4
  let count := fld tab (8 * i + 4) 2
  let e := fld map (4 * bits x 18 14) 4
  if fld tab (8 * i + 6) 2 ≠ 0 then .error (0x82, false)
  else if count = 0 then .error (0x88, false)
  else if x % 16384 ≥ 16320 then .error (0x8B, false)
  else if bits x 18 14 ≥ nRanks ∨ bits e 26 6 ≠ 0 then .error (0x8B, true)
  else match rankDie e (bits x 14 4) with
    | none => .error (0x8B, true)
    | some die =>
      let kind := (v.dies.findIdx? fun d => d == die).bind fun rd => kindOf r rd (x % 16384)
      if e % 16384 = own ∧ (kind.isNone ∨ (kind = some false ∧ count ≠ 1)) then .error (0x8B, false)
      else .ok { pod := BitVec.ofNat 32 (2 ^ 18 * (e % 16384) + 2 ^ 14 * die + x % 16384), count := count }

def slotSect (v : LEnv) : Option (Nat × Sect) := (v.ss.zipIdx.find? fun x => x.1.typ == 4).map fun x => (x.2, x.1)

def resolveAll (v : LEnv) (r : Res) (own nRanks : Nat) (map : List Byte) : Except LErr (List RSlot) :=
  match slotSect v with
  | none => .ok []
  | some (sec, s) =>
    (List.range (s.len / 8)).foldl (fun acc i => match acc with
      | .error e => .error e
      | .ok l => match resolveSlot v r own nRanks map (sectBytes v.b s) i with
        | .error (e, inMap) => .error (if inMap then ⟨e, none, 0⟩ else ⟨e, some sec, 8 * i⟩)
        | .ok x => .ok (l ++ [x])) (.ok [])

/-! ## Placing (R273, R277) -/

/-- The context of each task: named ones first, then each free one in the lowest left (R273). -/
def placeTasks (v : LEnv) (ts : List TaskRec) : List Nat :=
  let eng := fun (t : TaskRec) => 16 * (v.dies[t.rdie]?.getD 0) + t.eng
  (ts.foldl (fun (acc : List (Nat × Nat)) t =>
    if t.ctx ≠ 0xFF then acc ++ [(eng t, t.ctx)] else
    let used := (ts.filter fun x => eng x == eng t && x.ctx != 0xFF).map (·.ctx) ++ (acc.filter fun a => a.1 == eng t).map (·.2)
    acc ++ [(eng t, ((List.range 4).find? fun c => !used.contains c).getD 0)]) []).map fun p => taskId p.1 p.2

/-- The sync objects of the program, by die and index (R277, R278). -/
def newSyncs (v : LEnv) (r : Res) (k : Nat) (ids : List Nat) : List (Nat × SyncObj) :=
  (r.syncs.foldl (fun (acc : List Nat × List (Nat × SyncObj)) s =>
    let at_ := acc.1[s.rdie]?.getD 0
    let o : SyncObj := { alloc := true, counter := s.counter, external := s.external, value := s.init, target := s.target, part := k
                         signallers := s.signallers.filterMap fun n => ids[n]? }
    (acc.1.set s.rdie (at_ + s.count),
     acc.2 ++ (List.range s.count).map fun i => (syncKey (v.dies[s.rdie]?.getD 0) (at_ + i), o))) (List.replicate 16 0, [])).2

/-- The handle queues: the declared ones, then the implicit ones, by key (R277). -/
def newHqs (v : LEnv) (r : Res) (k : Nat) : List (Nat × HQueue) :=
  let declared := r.hqs.flatMap fun h => (List.range h.1.count).map fun i => (h.1.rdie, if h.1.pop = 0xFFFF then none else some (h.1.pop + i))
  ((declared ++ (implicit v r).map fun d => (d, none)).foldl (fun (acc : List Nat × List (Nat × HQueue)) (x : Nat × Option Nat) =>
    let i := acc.1[x.1]?.getD 0
    (acc.1.set x.1 (i + 1), acc.2 ++ [(hqKey (v.dies[x.1]?.getD 0) i, ({ alloc := true, part := k, popCtr := x.2 } : HQueue))])) (List.replicate 16 0, [])).2

/-- The CHAIN records with the keys of their implicit queues. -/
def newChains (v : LEnv) (r : Res) : List ChainRec :=
  let start := (List.range 16).map (hqsOn r)
  (r.chains.foldl (fun (acc : List Nat × List ChainRec) c =>
    let bs := (c.stages.zip (c.stages.drop 1)).map fun x => (stageDie v r x.2, stageDie v r x.1)
    let take := fun (n : List Nat) (d : Option Nat) => match d with
      | none => (n, noQueue)
      | some d => (n.set d (n[d]?.getD 0 + 1), hqKey (v.dies[d]?.getD 0) (n[d]?.getD 0))
    let qs := bs.foldl (fun (a : List Nat × List (Nat × Nat)) b =>
      let (n1, f) := take a.1 b.1
      let (n2, e) := take n1 b.2
      (n2, a.2 ++ [(f, e)])) (acc.1, [])
    (qs.1, acc.2 ++ [{ completion := c.completion, stages := c.stages, full := qs.2.map (·.1), free := qs.2.map (·.2) }])) (start, [])).2

/-! ## The load (R289) -/

/-- The bytes of the partition's windows together (R352). -/
def keepTotal (m : Mod) (k : Nat) : Nat :=
  ((List.range 8).map fun i => regF m (rPart k + 0x40 + 8 * i) 32 18 * unit2M).foldl (· + ·) 0

/-- The bytes of HBM in the partition's ranges. -/
def hbmAssigned (m : Mod) (k : Nat) : Nat :=
  ((List.range 16).map fun i => if rangeV m k i ∧ rangeBase m k i < 0x40000000000 then rangeEnd m k i - rangeBase m k i else 0).foldl (· + ·) 0

/-- What tables, pools and native code take (R290); the size of native code is not stated. -/
def loadBytes (v : LEnv) : Nat :=
  (v.ss.map fun s => if s.typ = 2 ∨ s.typ = 3 then roundUp s.len 256 else if s.typ = 1 then Config.nativeBytes (s.len / 16) else 0).foldl (· + ·) 0

def hbmRanges (m : Mod) (k : Nat) : List (Nat × Nat) := (List.range 16).filterMap fun i =>
  if rangeV m k i ∧ rangeBase m k i < 0x40000000000 then some (rangeBase m k i, rangeEnd m k i - rangeBase m k i) else none

/-- n bytes from the start of a list of ranges. -/
def fillRanges : List (Nat × Nat) → Nat → List (Nat × Nat)
  | [], _ => []
  | (b, len) :: r, n => if n = 0 then [] else (b, min len n) :: fillRanges r (n - min len n)

/-- Where the loader places n bytes of tables, pools and code in the partition's HBM: it does not say where (log 26). -/
def placeCode (m : Mod) (k n : Nat) : List (Nat × Nat) :=
  let b := Config.loaderPlace k n
  if (hbmRanges m k).any fun r => decide (r.1 ≤ b) && decide (b + n ≤ r.1 + r.2) then [(b, n)] else fillRanges (hbmRanges m k) n

/-- What is placed there, by section: descriptor tables and constant pools from lines of their own, and native code. The order is
a DESIGN CHOICE (log 26). -/
def placedBytes (v : LEnv) : List Byte :=
  v.ss.flatMap fun s =>
    let b := sectBytes v.b s
    if s.typ = 2 ∨ s.typ = 3 then b ++ List.replicate (roundUp s.len 256 - b.length) 0
    else if s.typ = 1 then (List.range (Config.nativeBytes (s.len / 16))).map (Config.nativeByte b)
    else []

/-- The bytes into the ranges, piece by piece of the lines they lie in. -/
def putLines : List (Nat × Nat) → List Byte → Mod → Mod
  | [], _, m => m
  | (a, n) :: rest, b, m => putLines rest (b.drop n) (writePlace m (place a) (b.take n) false)

/-- The tables, pools and code are written (R289). -/
def writePlaced (v : LEnv) (placed : List (Nat × Nat)) (m : Mod) : Mod :=
  putLines (placed.flatMap fun r => spans r.1 r.2) (placedBytes v) m

/-- Everything the checks yield. -/
structure Loaded where
  v : LEnv
  r : Res
  slots : List RSlot
  deriving DecidableEq, Repr

/-- The checks of R289 and R290 in their order, after the state of the partition. -/
def checkLoad (m : Mod) (k argLen nRanks : Nat) (b map : List Byte) : Except LErr Loaded :=
  let dies := partDies m k
  match sigSect b argLen with
  | none => .error ((headerErr b argLen dies.length <|> tableErr b).getD ⟨0x80, none, 0x40⟩)
  | some (i, s) =>
    match sigErr (keysOf m k false) b i s <|> headerErr b argLen dies.length <|> tableErr b with
    | some e => .error e
    | none =>
      let ss := sections b
      let rs := (ss.findIdx? fun s => s.typ == 5).getD 0
      let rb := match ss[rs]? with | some s => sectBytes b s | none => []
      let v : LEnv := { b := b, ss := ss, rs := rs, dies := dies.take (fld b 0xC 4), nTasks := taskCount rb, quotaMax := keepTotal m k }
      match readRes v rb with
      | .error e => .error e
      | .ok r =>
        let nSlots := slotCount v
        match firstL ((List.range ss.length).map (streamErr v r nSlots) ++ [sharedQueue v r, refuseIf (decide (loadBytes v > hbmAssigned m k)) 0x6A none 0]) with
        | some e => .error e
        | none => match resolveAll v r (moduleNum m) nRanks map with
          | .error e => .error e
          | .ok slots => .ok { v := v, r := r, slots := slots }

def newProgram (m : Mod) (k : Nat) (l : Loaded) : Program :=
  let tasks := l.r.tasks.map (·.1)
  let secs := fun (t : Nat) => l.v.ss.zipIdx.filterMap fun x => if x.1.typ = t then some (x.2, sectBytes l.v.b x.1) else none
  { bytes := l.v.b, major := fld l.v.b 5 1, minor := fld l.v.b 4 1, id := BitVec.ofNat 64 (fld l.v.b 0x18 8)
    tasks := tasks, taskIds := placeTasks l.v tasks
    descs := (secs 2).foldl (fun t x => sset [] t x.1 x.2) [], consts := (secs 3).foldl (fun t x => sset [] t x.1 x.2) []
    slots := l.slots, chains := newChains l.v l.r, mcast := l.r.mcasts, keepQuota := BitVec.ofNat 64 (l.r.quota.getD 0), placed := placeCode m k (loadBytes l.v)
    started := false, finished := false, cmd := none, partial_ := false, sat := false, flog := none }

def ofDies (dies : List Nat) (g : Nat) : Bool := dies.contains (g / 16)

/-- The objects and queues of a partition's dies are freed; the driver's and firmware's sync objects
stay. -/
def freeObjects (m : Mod) (k : Nat) : Mod :=
  let dies := partDies m k
  { m with sync := m.sync.filter fun o => !(dies.contains (o.1 / 16384) && decide (o.1 % 16384 < 16320))
           hqs := m.hqs.filter fun q => !dies.contains (q.1 / 512) }

/-- The queue counts and skip counts of a partition's engines (R634). -/
def clearCounts (m : Mod) (k : Nat) : Mod :=
  { m with eng := m.eng.map fun ge => if ofDies (partDies m k) ge.1 then
      (ge.1, { ge.2 with
        dq := (ge.2.dq.map fun q => (q.1, { q.2 with late := 0, fallback := 0, skip := 0 })).filter fun q => q.2 != {}
        ctx := (ge.2.ctx.map fun c => (c.1, { c.2 with skip := 0 })).filter fun c => c.2 != {} }) else ge }

/-- An engine reset at a load: contexts, pins, scoreboard and trace buffer are cleared (R607). -/
def clearEngine (e : Engine) : Engine :=
  { e with ctx := [], active := 0, last := none, gangs := [], forming := [], cells := [], vops := [], mags := [], xfers := e.xfers.filter fun x => x.ended.isNone
           trace := [], traceLost := 0, timebase := none, tickets := [], staging := 0 }

def clearEngines (m : Mod) (k : Nat) : Mod :=
  { m with eng := (m.eng.map fun ge => if ofDies (partDies m k) ge.1 then (ge.1, clearEngine ge.2) else ge).filter fun ge => ge.2 != {} }

def applyLoad (m : Mod) (k : Nat) (l : Loaded) : Mod :=
  let p := newProgram m k l
  let m1 := clearEngines (clearCounts (freeObjects m k) k) k
  let m2 := { m1 with sync := (newSyncs l.v l.r k p.taskIds).foldl (fun t x => sset {} t x.1 x.2) m1.sync
                      hqs := (newHqs l.v l.r k).foldl (fun t x => sset {} t x.1 x.2) m1.hqs }
  modPart (writePlaced l.v p.placed m2) k fun s => { s with prog := some p, everLoaded := true }

end Sys2Proof.Machine
end

