-- ==== Sys2Proof/Machine/Commands.lean ====
section
/-! DEFINITION. The ring commands of programs, chains, transfers and tier regions (R37, R233, R275,
R289, R495 to R500), and ABORT (R503 to R505). -/

namespace Sys2Proof.Machine

/-! ## Accesses of a command -/

def cmdReq (c : Cmd) : Req where
  who := .cmd (Fin.ofNat 1024 c.sq) (BitVec.ofNat 16 c.tag)
  part := c.part
  phys := c.part.isNone
  owner := driverOwner c.part

/-- The command completes. -/
def cmdDone (t : Clk) (c : Cmd) (m : Mod) : Mod := endCmd t c.sq c.tag 0 m
def cmdRefuse (t : Clk) (c : Cmd) (r : Byte) (m : Mod) : Mod := refuseCmd t c.sq c.tag r m
/-- A refused access ends the command with FAULT (R568). -/
def cmdFault (t : Clk) (c : Cmd) (e : XErr) (m : Mod) : Mod := cmdDone t c (faultCmd m c.sq c.tag logHN e.reason)
/-- A 64-bit argument, and a narrower one. -/
def carg (c : Cmd) (o n : Nat) : Nat := fld c.entry o n

/-- Result bytes, then the completion. -/
def cmdResult (t : Clk) (c : Cmd) (a : Nat) (bs : List Byte) (m : Mod) : Mod :=
  match writeMem t m (cmdReq c) a bs false .clean with
  | (m1, some e) => cmdFault t c e m1
  | (m1, none) => cmdDone t c m1

/-- The partition of a partition ring's command. -/
def cpart (c : Cmd) : Nat := c.part.getD 0

/-! ## NOP, XLAT_INVALIDATE -/

def nopBody (c : Cmd) (t : Clk) (m : Mod) : Mod := cmdDone t c m

/-- The accesses in flight of a partition: those of its engines, and of its gather runs. -/
def inFlight (m : Mod) (k : Nat) : List Nat :=
  m.gather.filterMap (fun d => if d.2.busy ∧ ringPart m d.2.sq = some k then some d.2.id else none) ++ m.eng.flatMap fun ge => if ofDies (partDies m k) ge.1 then
    ge.2.gangs.flatMap (fun g => (gangWorks g).map (·.id)) ++ ge.2.vops.map (·.id)
      ++ ge.2.xfers.filterMap fun x => if x.ended.isSome then none else some x.id
  else []

/-- The command ends once the works in flight have. An access of the model translates and takes effect in one step, so none
begun later is in flight when the entry is written, which drops the cached translations (`dropXlat`, R37; log 19). -/
def xlatBody (c : Cmd) (_ : Clk) (m : Mod) : Mod :=
  let ids := inFlight m (cpart c)
  modCmd m c.sq c.tag fun x => { x with works := ids }

/-! ## Programs -/

def chainsRun (m : Mod) (k : Nat) : Bool := !(partSt m k).chains.isEmpty

/-- A refused load writes its diagnostic and completes REFUSED (R291). -/
def loadRefused (t : Clk) (c : Cmd) (e : LErr) (m : Mod) : Mod :=
  cmdRefuse t c e.reason (writeMem t m (cmdReq c) (carg c 0x30 8) (diagnostic e) false .clean).1

/-- PROGRAM_LOAD (R289, R497). PROGRAM_ID, for which the 16 bytes of a completion entry have no field, goes out beside the
completion (R269; log 69, DESIGN CHOICE). -/
def loadBody (c : Cmd) (t : Clk) (m : Mod) : Mod :=
  let k := cpart c
  if (partSt m k).prog.isSome then loadRefused t c ⟨0x8C, none, 0⟩ m else
  match readMem t m (cmdReq c) (carg c 0x10 8) (carg c 0x18 8) .clean with
  | (m1, .error e) => cmdFault t c e m1
  | (m1, .ok (b, _)) => match readMem t m1 (cmdReq c) (carg c 0x20 8) (4 * carg c 0x28 4) .clean with
    | (m2, .error e) => cmdFault t c e m2
    | (m2, .ok (map, _)) => match checkLoad m2 k (carg c 0x18 8) (carg c 0x28 4) b map with
      | .error e => loadRefused t c e m2
      | .ok l => cmdDone t c (emit (.programId c.sq c.tag (BitVec.ofNat 64 (fld b 0x18 8))) (applyLoad m2 k l))

/-- PROGRAM_LOAD waits while a live FW_ACTIVATE of one of its partition's dies runs (R614). -/
def loadRow (sq : RingId) (tag : BitVec 16) (t : Clk) (m : Mod) : Mod :=
  if (partDies m (sqPart m sq.val)).any fun d => svcRuns m 1 3 d then m else startCmd 0x10 loadBody sq tag t m

/-- A task begins at instruction 0 with its context cleared (R127, R275). -/
def startTask (m : Mod) (k : Nat) (p : Program) (t : TaskRec × Nat) : Mod :=
  let bytes := match (sections p.bytes)[t.1.section_]? with
    | some s => sectBytes p.bytes s
    | none => []
  modCtx m (t.2 / 4) (t.2 % 4) fun x => { st := .ready, part := k, stream := words bytes, skip := x.skip, dqLevel := t.1.levels, dqWeight := t.1.weights }

/-- PROGRAM_START (R275, R498, R592). -/
def progStartBody (c : Cmd) (t : Clk) (m : Mod) : Mod :=
  let k := cpart c
  match (partSt m k).prog with
  | none => cmdRefuse t c 0x8C m
  | some p =>
    if p.started then cmdRefuse t c 0x8C m else
    let m1 := (p.taskIds.map (· / 4)).dedup.foldl (resetOnStart t) m
    let m2 := (p.tasks.zip p.taskIds).foldl (fun m x => startTask m k p x)
      ((partLogs m k).foldl (fun m l => { m with logs := smod {} m.logs l fun x => { x with early := none } }) m1)
    modProg m2 k fun p => { p with started := true, cmd := some (c.sq, c.tag) }

def running (p : Program) : Bool := p.started && !p.finished

/-- The program's contexts, objects, queues and tables are freed. -/
def freeProgram (m : Mod) (k : Nat) : Mod :=
  let m1 := freeObjects m k
  { m1 with
    eng := m1.eng.map fun ge => if ofDies (partDies m k) ge.1 then
      (ge.1, { ge.2 with ctx := (ge.2.ctx.map fun c => (c.1, ({ skip := c.2.skip } : Ctx))).filter fun c => c.2 != {} }) else ge
    parts := smod {} m1.parts k fun p => { p with prog := none } }

/-- PROGRAM_UNLOAD: refused while the program or a CHAIN runs, or none is loaded (R498). -/
def unloadBody (c : Cmd) (t : Clk) (m : Mod) : Mod :=
  let k := cpart c
  match (partSt m k).prog with
  | none => cmdRefuse t c 0x8C m
  | some p => if running p ∨ chainsRun m k then cmdRefuse t c 0x8C m else cmdDone t c (freeProgram m k)

/-- CHAIN_START: the CHAIN must be one of the loaded program and not run yet (R233). -/
def chainBody (c : Cmd) (t : Clk) (m : Mod) : Mod :=
  let k := cpart c
  let n := carg c 0x10 2
  if (chainRec m k n).isNone ∨ chainRunning m k n then cmdRefuse t c 0x8C m
  else startChain ((chainEngines m k n).foldl (resetOnStart t) m) k n (some (c.sq, c.tag))

/-! ## DMA (R499) -/

/-- The run of a DMA command; the grant that its reservation becomes goes to its first descriptor
(R217, R254). -/
def dmaRun (c : Cmd) (id : Nat) : Run where
  id := id
  task := none
  cmd := some (c.sq, c.tag)
  section_ := none
  base := BitVec.ofNat 64 (carg c 0x18 8)
  next := 0
  left := carg c 0x20 2
  soff := 0
  doff := 0
  hint := 0
  prefetch := false
  word := none
  stage := none

/-- The reservation becomes the grant that the run's first descriptor starts with (R254). -/
def claimFirst (c : Cmd) (gv id : Nat) (run : Nat) (m : Mod) : Mod :=
  modDmaq (claimResv m gv id) (carg c 0x10 1) 8 fun x => { x with
    runs := x.runs.map fun r => if r.id = run then { r with grant := id } else r }

def dmaBody (c : Cmd) (t : Clk) (m : Mod) : Mod :=
  let g := carg c 0x10 1
  let resv := match c.st with
    | .accepted _ r => r
    | _ => none
  if (dmaq (engine m g) 8).runs.length ≥ 256 then
    cmdRefuse t c 0x68 (match resv with | some (gv, id) => returnResv m gv id | none => m)
  else
    let (id, m1) := fresh (resetOnStart t m g)
    let m2 := modDmaq m1 g 8 fun x => { x with runs := x.runs ++ [dmaRun c id] }
    let m3 := modCmd m2 c.sq c.tag fun x => { x with works := [id] }
    match resv with
    | some (gv, r) => claimFirst c gv r id m3
    | none => m3

/-! ## TIER_REGION (R500) -/

/-- The writes in flight that a driver's SEAL waits for: those of its DMA commands and gathers (R192). -/
def driverWrites (m : Mod) (k : Nat) : List Nat :=
  (m.cmds.filter fun x => x.part == some k && (x.op == 0x20 || x.op == 0x21)).flatMap (·.works)

/-- The reads in flight that a driver's RELEASE waits for are its own to order; an operation of the driver on its
way; OPEN's base is an address of the partition. -/
def regionBody (c : Cmd) (t : Clk) (m : Mod) : Mod :=
  let k := cpart c
  let push := fun (td : Nat) (op : RegOp) (entry : Nat) => (pushRegion m td op (.driver k) k entry
    (match op with | .seal _ => driverWrites m k | _ => []) none none (some (c.sq, c.tag))).2
  let td := carg c 0x11 1
  let entry := carg c 0x12 2
  match carg c 0x10 1 with
  | 0 => match xlate m k (carg c 0x18 8) true with
    | .error e => cmdFault t c e (logErr t (cmdReq c) e m)
    | .ok x => match place x.phys with
      | .tier d off => push d (.opn off (carg c 0x20 4)) 0
      | _ => cmdRefuse t c 0x64 m
  | 1 => push td (.seal (carg c 0x24 2)) entry
  | 2 => push td .abandon entry
  | 3 => push td .release entry
  | _ => push td .reclaim entry

/-- A TIER_REGION row: only its own operation starts by it. -/
def regionOpBody (op : Nat) (sq : RingId) (tag : BitVec 16) (s : State) : Host.Outcome State Fault Refusal :=
  onAll (fun t m => match findCmd m sq.val tag.toNat with
    | some c => if carg c 0x10 1 = op then startCmd 0x22 regionBody sq tag t m else m
    | none => m) s

/-! ## ABORT (R503 to R505) -/

/-- The effect of a granted ABORT on a started command, by its kind. -/
def abortEffect (c : Cmd) (m : Mod) : Mod :=
  let k := cpart c
  match c.op with
  | 0x11 => match (partSt m k).prog with
    | some p => p.taskIds.foldl (fun m tk =>
        let x := ctx m (tk / 4) (tk % 4)
        if x.st = .finished ∨ x.st = .faulted ∨ x.st = .empty then m
        else dropCollects (resetQueues (stopTask m tk .faulted none) tk) tk) m
    | none => m
  | 0x13 => stopChain m k (carg c 0x10 2) none
  | 0x20 => discardRuns c.sq c.tag m
  | _ => m

def abortable (op : Nat) : Bool := op == 0x11 || op == 0x13 || op == 0x20 || op == 0x21

/-- A command that has not started: aborted at once, its reservation returned. -/
def abortWaiting (t : Clk) (c : Cmd) (m : Mod) : Mod :=
  let m1 := match c.st with
    | .accepted _ (some (g, id)) => returnResv m g id
    | _ => m
  let m2 := if c.op = 0x31 then modXch m1 fun x => { x with advancing := otherAdvance m1 c } else m1
  retireCmd t c.sq c.tag 1 0 0 m2

/-- The target's retire point is asked for: the ABORT stays until the target's entry is written, or
is refused as too late. A started target's own completion of the same moment is granted first (R504), so the ABORT is granted
as the moment ends (`grantAborts`). -/
def abortTarget (t : Clk) (a c : Cmd) (m : Mod) : Mod :=
  match c.st with
  | .waiting => abortWaiting t c m
  | .accepted _ _ => abortWaiting t c m
  | .started => if abortable c.op then m else cmdRefuse t a 0x19 m
  | _ => cmdRefuse t a 0x19 m

def abortBody (a : Cmd) (t : Clk) (m : Mod) : Mod :=
  let sq := carg a 0x10 2
  if sq ≥ 1024 ∨ sqOwner m sq ≠ a.func then cmdRefuse t a 0x1A m else
  match findCmd m sq (carg a 0x12 2) with
  | none => cmdRefuse t a 0x1A m
  | some c => if c.op = 1 then cmdRefuse t a 0x1A m else abortTarget t a c m

/-- The target of an ABORT that waits for its grant. -/
def awaitedAbort (m : Mod) (a : Cmd) : Option Cmd :=
  if a.op ≠ 1 ∨ a.st ≠ .started then none
  else (findCmd m (carg a 0x10 2) (carg a 0x12 2)).bind fun c => if c.st = .started then some c else none

/-- The end of a moment: each ABORT whose target has not completed is granted. -/
def grantAborts (t : Clk) (m : Mod) : Mod :=
  match m.cmds.filterMap (awaitedAbort m) with
  | [] => m
  | cs => settleAll t (cs.foldl (fun m c => abortEffect c (modCmd m c.sq c.tag fun x => { x with st := .aborting t.sid })) m)

/-! ## The rows -/

def execNopCommand (sq : RingId) (tag : BitVec 16) (s : State) : Host.Outcome State Fault Refusal := cmdRow 0x00 nopBody sq tag s
def execAbort (sq : RingId) (tag : BitVec 16) (s : State) : Host.Outcome State Fault Refusal := cmdRow 0x01 abortBody sq tag s
def execXlatInvalidate (sq : RingId) (tag : BitVec 16) (s : State) : Host.Outcome State Fault Refusal := cmdRow 0x02 xlatBody sq tag s
def execProgramLoad (sq : RingId) (tag : BitVec 16) (s : State) : Host.Outcome State Fault Refusal := onAll (loadRow sq tag) s
def execProgramStart (sq : RingId) (tag : BitVec 16) (s : State) : Host.Outcome State Fault Refusal := cmdRow 0x11 progStartBody sq tag s
def execProgramUnload (sq : RingId) (tag : BitVec 16) (s : State) : Host.Outcome State Fault Refusal := cmdRow 0x12 unloadBody sq tag s
def execChainStart (sq : RingId) (tag : BitVec 16) (s : State) : Host.Outcome State Fault Refusal := cmdRow 0x13 chainBody sq tag s
def execDma (sq : RingId) (tag : BitVec 16) (s : State) : Host.Outcome State Fault Refusal := cmdRow 0x20 dmaBody sq tag s
def execTierRegionOpen (sq : RingId) (tag : BitVec 16) (s : State) : Host.Outcome State Fault Refusal := regionOpBody 0 sq tag s
def execTierRegionSeal (sq : RingId) (tag : BitVec 16) (s : State) : Host.Outcome State Fault Refusal := regionOpBody 1 sq tag s
def execTierRegionAbandon (sq : RingId) (tag : BitVec 16) (s : State) : Host.Outcome State Fault Refusal := regionOpBody 2 sq tag s
def execTierRegionRelease (sq : RingId) (tag : BitVec 16) (s : State) : Host.Outcome State Fault Refusal := regionOpBody 3 sq tag s
def execTierRegionReclaim (sq : RingId) (tag : BitVec 16) (s : State) : Host.Outcome State Fault Refusal := regionOpBody 4 sq tag s

end Sys2Proof.Machine
end

