-- ==== Sys2Proof/Machine/Gather.lean ====
section
/-! DEFINITION. Gather engines (R200 to R203, R501): a run opens its region and takes its record at
GATHER_RUN; at GATHER_RUN_END its streams have moved their data, and the region is sealed or
abandoned. -/

namespace Sys2Proof.Machine

def gatherOf (m : Mod) (d : Nat) : Gather := sget {} m.gather d

/-- A stream of a run record. -/
structure GStream where
  kind : Nat
  pattern : Nat
  passes : Nat
  elem : Nat
  src : Nat
  dst : Nat
  len : Nat
  stride : Nat
  index : Nat
  deriving DecidableEq, Repr

def readStream (b : List Byte) (s : Nat) : GStream :=
  let o := 0x40 + 64 * s
  { kind := fld b o 1, pattern := fld b (o + 1) 1, passes := fld b (o + 2) 2, elem := fld b (o + 4) 4
    src := fld b (o + 8) 8, dst := fld b (o + 0x10) 8, len := fld b (o + 0x18) 8, stride := fld b (o + 0x20) 8, index := fld b (o + 0x28) 8 }

def streamBad (x : GStream) : Bool :=
  decide (x.kind > 4) || (x.kind == 4 && (decide (x.pattern > 4) || x.passes == 0))
    || ((x.kind == 2 || x.kind == 3) && (x.elem % 4 != 0 || x.elem == 0 || decide (x.elem > 65536)))

/-- A run record that breaks its table: a reserved byte or a value outside its range. -/
def recordBad (b : List Byte) : Bool :=
  !allZero (slice b 0xE 50) || (fld b 0 8 != 0 && (fld b 0xC 2 == 0 || fld b 8 4 == 0))
    || (List.range 4).any fun s => streamBad (readStream b s) || !allZero (slice b (0x70 + 64 * s) 16)

/-! ## The start -/

/-- The region of a run, opened in the command's tier die (R501). -/
def gatherRegion (t : Clk) (m : Mod) (c : Cmd) (d : Nat) (b : List Byte) : Except Byte (Mod × Option Nat) :=
  let base := fld b 0 8
  if base = 0 then .ok (m, none) else
  match c.part with
  | none => .error 0x64
  | some k => match xlate m k base true with
    | .error e => .error e.reason
    | .ok x => match place x.phys with
      | .tier td off =>
        if td ≠ d then .error 0x64 else
        let q : RegReq := { id := 0, op := .opn off (fld b 8 4), who := .gather d, part := k, entry := 0, va := false, deps := [],
                            result := none, word := none, cmd := none }
        (regionStep t m d q).map fun r => (setRegion m d r.1 r.2, some r.1)
      | _ => .error 0x64

def gatherBody (c : Cmd) (t : Clk) (m : Mod) : Mod :=
  let d := carg c 0x10 1
  match readMem t m (cmdReq c) (carg c 0x18 8) 320 .clean with
  | (m1, .error e) => cmdFault t c e m1
  | (m1, .ok (b, _)) =>
    if recordBad b then cmdRefuse t c 0x82 m1 else
    match gatherRegion t m1 c d b with
    | .error r => cmdRefuse t c r m1
    | .ok (m2, e) =>
      let (id, m3) := fresh m2
      modGather m3 d fun _ => { id := id, busy := true, sq := c.sq, tag := c.tag, region := e, sealD := fld b 0xC 2, record := b }

/-- The run of a command opens a region. -/
def opensRegion (t : Clk) (m : Mod) (c : Cmd) : Bool :=
  match readMem t m (cmdReq c) (carg c 0x18 8) 320 .clean with
  | (_, .ok (b, _)) => fld b 0 8 != 0
  | _ => false

/-- A command waits while the gather engine of its tier die is busy, and one that opens a region while the FW_ACTIVATE of
the die runs (R614). -/
def gatherStart (sq : RingId) (tag : BitVec 16) (t : Clk) (m : Mod) : Mod :=
  match findCmd m sq.val tag.toNat with
  | some c => if (gatherOf m (carg c 0x10 1)).busy ∨ svcRuns m 1 6 (carg c 0x10 1) ∧ opensRegion t m c then m else startCmd 0x21 gatherBody sq tag t m
  | none => m

/-! ## The streams -/

def gatherReq (m : Mod) (d : Nat) (pattern : Bool) : Req := { reqOf m (.gather (Fin.ofNat 4 d)) with pattern := pattern }

/-- A refused access stops the stream and ends the run with FAULT. -/
def gatherStop (d : Nat) (e : XErr) (m : Mod) : Mod :=
  let g := gatherOf m d
  modGather (faultCmd m g.sq g.tag (logTD d) e.reason) d fun x => { x with stop := x.stop <|> some e.reason }

/-- n bytes copied, poison with them (R581). -/
def gatherCopy (t : Clk) (d : Nat) (m : Mod) (x : Nat × Nat × Nat) : Mod :=
  if (gatherOf m d).stop.isSome then m else
  let rq := gatherReq m d false
  match readMem t m rq x.1 x.2.2 .clean with
  | (m1, .error e) => gatherStop d e m1
  | (m1, .ok (bs, bad)) => match writeMem t m1 rq x.2.1 bs bad .clean with
    | (m2, some e) => gatherStop d e m2
    | (m2, none) => m2

/-- The element of an INDEXED stream that its i-th index names. -/
def gatherIndexed (t : Clk) (d : Nat) (s : GStream) (m : Mod) (i : Nat) : Mod :=
  if (gatherOf m d).stop.isSome then m else
  match readMem t m (gatherReq m d false) (s.index + 4 * i) 4 .clean with
  | (m1, .error e) => gatherStop d e m1
  | (m1, .ok (bs, _)) => gatherCopy t d m1 (s.src + leNat bs * s.elem, s.dst + i * s.elem, s.elem)

/-- The physical address of a byte of a pattern's range, for ADDR. -/
def physAt (m : Mod) (rq : Req) (a : Nat) : Nat :=
  match rq.part, rq.phys with
  | some k, false => match xlate m k a true with
    | .ok x => x.phys
    | .error _ => a
  | _, _ => a

/-- What a stream reads and writes, as addresses, lengths and whether it writes; an element of an INDEXED stream stands where
its index says now (R200, R501). -/
def gatherPieces (t : Clk) (m : Mod) (d : Nat) (s : GStream) : List (Nat × Nat × Bool) :=
  match s.kind with
  | 1 => [(s.src, s.len, false), (s.dst, s.len, true)]
  | 2 => (s.dst, s.len * s.elem, true) :: (List.range s.len).map fun i => (s.src + i * s.stride, s.elem, false)
  | 3 => (s.dst, s.len * s.elem, true) :: (s.index, 4 * s.len, false) :: (List.range s.len).filterMap fun i =>
      match readMem t m (gatherReq m d false) (s.index + 4 * i) 4 .clean with
      | (_, .ok (bs, _)) => some (s.src + leNat bs * s.elem, s.elem, false)
      | _ => none
  | 4 => [(s.src, s.len, true)]
  | _ => []

/-- The pieces of all streams of a run. -/
def runPieces (t : Clk) (m : Mod) (d : Nat) (b : List Byte) : List (Nat × Nat × Bool) :=
  (List.range 4).flatMap fun i => gatherPieces t m d (readStream b i)

/-- One byte of a pattern: 0 ZERO, 1 ONES, 3 ADDR; CHECKER as the part makes it (R202). -/
def patternByte (p : Nat) (start a phys : Nat) : Byte :=
  match p with
  | 0 => 0
  | 1 => 0xFF
  | 3 => BitVec.ofNat 8 (phys / 8 * 8 / 2 ^ (8 * (phys % 8)))
  | _ => Config.checkerByte (a - start)

/-- n bits of the sequence of ITU-T O.150 of length 2^31 − 1, each the sum of those 28 and 31 places before it;
the register newest first. -/
def prbsBits : Nat → List Bool → List Bool
  | 0, _ => []
  | n + 1, r =>
    let b := xor (r.getD 27 false) (r.getD 30 false)
    b :: prbsBits n (b :: r.take 30)

/-- A byte of the pattern, inverted as O.150 has it. -/
def prbsByte (bs : List Bool) (i : Nat) : Byte :=
  BitVec.ofNat 8 (((List.range 8).map fun j =>
    if bs.getD (8 * i + j) false then 0 else 2 ^ (if Config.prbsMsbFirst then 7 - j else j)).foldl (· + ·) 0)

/-- Bytes of PRBS31 at a place of a range (R202). -/
def prbsAt (o n : Nat) : List Byte :=
  let bs := (prbsBits (8 * (o + n)) Config.prbsSeed).drop (8 * o)
  (List.range n).map (prbsByte bs)

def patternLine (m : Mod) (rq : Req) (s : GStream) (a n : Nat) : List Byte :=
  let p := physAt m rq a
  if s.pattern = 4 then prbsAt (a - s.src) n else
  (List.range n).map fun i => patternByte s.pattern s.src (a + i) (p + i)

/-- A line of a pattern written; a part of one first reads its line, and a tag mismatch or an ECC event that this finds is one
failure (R175, R202). -/
def patternWrite (t : Clk) (d : Nat) (s : GStream) (m0 : Mod) (x : Nat × Nat) : Mod :=
  if (gatherOf m0 d).stop.isSome then m0 else
  let (id, m) := fresh m0
  let rq := gatherReq m d true
  match writeMem t m rq x.1 (patternLine m rq s x.1 x.2) false (Config.patternEcc id) with
  | (m1, some e) => if e.typ = fIntegrity ∨ e.typ = fPoison then gatherFail d (physAt m rq x.1) m1 else gatherStop d e m1
  | (m1, none) => m1

/-- The read back: a compare failure, or a line the check of R176 or ECC gives up, is one failure. One failure a
256-byte line, recorded at the first of its bytes in the range: the manual does not state how many bytes one
compare covers (DESIGN CHOICE, log 28). -/
def patternCheck (t : Clk) (d : Nat) (s : GStream) (m0 : Mod) (x : Nat × Nat) : Mod :=
  if (gatherOf m0 d).stop.isSome then m0 else
  let (id, m) := fresh m0
  let rq := gatherReq m d true
  match readMem t m rq x.1 x.2 (Config.patternEcc id) with
  | (m1, .error e) => gatherStop d e m1
  | (m1, .ok (bs, bad)) => if bad ∨ bs ≠ patternLine m rq s x.1 x.2 then gatherFail d (physAt m rq x.1) m1 else m1

/-- The ranges that a copying stream reads. -/
def gatherSources (t : Clk) (d : Nat) (s : GStream) (m : Mod) : List (Nat × Nat) :=
  match s.kind with
  | 1 => [(s.src, s.len)]
  | 2 => (List.range s.len).map fun i => (s.src + i * s.stride, s.elem)
  | 3 => (List.range s.len).filterMap fun i => match readMem t m (gatherReq m d false) (s.index + 4 * i) 4 .clean with
    | (_, .ok (bs, _)) => some (s.src + leNat bs * s.elem, s.elem)
    | _ => none
  | _ => []

/-- The first source range of a stream that the bound-content rule keeps from its destination (R557). -/
def gatherBarred (t : Clk) (d : Nat) (s : GStream) (m : Mod) : Option Nat :=
  let rq := gatherReq m d false
  let n := if s.kind = 1 then s.len else s.len * s.elem
  let toHost := hostRange m rq true s.dst n
  let toBound := boundRange m rq true s.dst n
  if ¬ toHost ∧ ¬ toBound then none else
  ((gatherSources t d s m).find? fun p =>
    (boundRange m rq false p.1 p.2 && toHost) || (hostRange m rq false p.1 p.2 && toBound)).map (·.1)

/-- All that one stream moves (R201); one that the bound-content rule bars is refused with its address
logged (R557). -/
def runStream (t : Clk) (d : Nat) (m : Mod) (s : GStream) : Mod :=
  if (gatherOf m d).stop.isSome then m else
  match gatherBarred t d s m with
  | some a =>
    let e : XErr := { typ := fAccess, reason := 0x74, addr := a, va := true }
    gatherStop d e (logErr t (gatherReq m d false) e m)
  | none =>
  match s.kind with
  | 1 => ((spans s.src s.len).map fun c => (c.1, s.dst + (c.1 - s.src), c.2)).foldl (gatherCopy t d) m
  | 2 => ((List.range s.len).map fun i => (s.src + i * s.stride, s.dst + i * s.elem, s.elem)).foldl (gatherCopy t d) m
  | 3 => (List.range s.len).foldl (gatherIndexed t d s) m
  | 4 => (List.range s.passes).foldl (fun m _ =>
      (spans s.src s.len).foldl (patternCheck t d s) ((spans s.src s.len).foldl (patternWrite t d s) m)) m
  | _ => m

/-! ## The end -/

/-- Whether a stream writes into a pinned range of a scratchpad: the run waits (R136). -/
def gatherHeld (m : Mod) (d : Nat) (b : List Byte) : Bool :=
  (List.range 4).any fun i =>
    let s := readStream b i
    match s.kind with
    | 1 => writeHeld m (gatherReq m d false) s.dst s.len
    | 2 | 3 => writeHeld m (gatherReq m d false) s.dst (s.len * s.elem)
    | 4 => writeHeld m (gatherReq m d true) s.src s.len
    | _ => false

/-- A live service holds the end of a run: a RETRAIN or RECAL of what its streams reach, or the FW_ACTIVATE of its tier die,
whose region operations wait (R614). -/
def gatherServed (t : Clk) (m : Mod) (d : Nat) (g : Gather) : Bool :=
  !m.hub.svc.isEmpty && ((g.region.isSome && svcRuns m 1 6 d)
    || (runPieces t m d g.record).any fun x => accessWaits m (gatherReq m d false) x.2.2 x.1 x.2.1)

/-- The region of a run is sealed with SEAL_D, or abandoned. -/
def gatherClose (t : Clk) (m : Mod) (d : Nat) (part : Option Nat) (g : Gather) (ok : Bool) : Mod :=
  match g.region with
  | none => m
  | some e =>
    let q : RegReq := { id := 0, op := if ok then .seal g.sealD else .abandon, who := .gather d, part := part.getD 0, entry := e, va := false,
                        deps := [], result := none, word := none, cmd := none }
    match regionStep t m d q with
    | .ok r => setRegion m d r.1 r.2
    | .error e => regionRefused t m d q e

/-- The 256-byte result: the failure count and the first 16 failing addresses (R501). -/
def gatherResult (g : Gather) : List Byte :=
  slice (toLe 8 g.failures ++ g.failing.flatMap fun a => toLe 8 a.toNat) 0 256

def isAborting (c : Cmd) : Bool :=
  match c.st with
  | .aborting _ => true
  | _ => false

def gatherEnd (d : Nat) (t : Clk) (m : Mod) : Mod :=
  let g := gatherOf m d
  match findCmd m g.sq g.tag with
  | none => m
  | some c =>
    if ¬ g.busy ∨ gatherHeld m d g.record ∨ gatherServed t m d g then m
    else if isAborting c then
      cmdDone t c (modGather (gatherClose t m d c.part g false) d fun _ => {})
    else
      let m1 := ((List.range 4).map (readStream g.record)).foldl (runStream t d) m
      let g1 := gatherOf m1 d
      let m2 := gatherClose t m1 d c.part g1 g1.stop.isNone
      let m3 := match g1.stop with
        | some r => faultCmd m2 c.sq c.tag (logTD d) r
        | none => m2
      cmdResult t c (carg c 0x20 8) (gatherResult g1) (modGather m3 d fun _ => { fault := g1.stop.isSome })

/-! ## The rows -/

def execGatherRun (sq : RingId) (tag : BitVec 16) (s : State) : Host.Outcome State Fault Refusal := onAll (gatherStart sq tag) s
def execGatherRunEnd (d : Tier) (s : State) : Host.Outcome State Fault Refusal := onAll (gatherEnd d.val) s

end Sys2Proof.Machine
end

