-- ==== Sys2Proof/Machine/Layouts.lean ====
section
/-! DEFINITION. Layout images and phase-map images (R360 to R363, R416, R419): LAYOUT_LOAD,
PHASE_LOAD and its release. -/

namespace Sys2Proof.Machine

/-! ## Layout images -/

def readNorm (b : List Byte) (o : Nat) : NormSet where
  valid := bit (fld b o 1) 0
  rootDie := fld b (o + 1) 1 % 16
  rootModule := fld b (o + 2) 2 % 2 ^ 14
  nexpect := fld b (o + 4) 4
  destVa := BitVec.ofNat 64 (fld b (o + 8) 8)
  destCount := fld b (o + 0x10) 2

def normBad (b : List Byte) (o : Nat) : Bool :=
  decide (fld b o 1 > 1) || decide (fld b (o + 1) 1 > 15) || decide (fld b (o + 2) 2 ≥ 2 ^ 14) || decide (fld b (o + 8) 8 ≥ 2 ^ 57)
    || !allZero (slice b (o + 0x12) 14)
    || ((readNorm b o).valid && ((readNorm b o).nexpect == 0 || (readNorm b o).destCount == 0 || decide ((readNorm b o).destCount > 16384)))

def readShard (b : List Byte) (o : Nat) : Option Shard :=
  if fld b o 1 = 0xFF then none else some {
    kind := fld b o 1, parts := fld b (o + 1) 1, part1k := fld b (o + 2) 2, ownerModule := fld b (o + 4) 2
    ownerEngine := fld b (o + 6) 1, normSet := fld b (o + 7) 1, expect := fld b (o + 8) 2, buf := fld b (o + 0xC) 4
    paramVa := BitVec.ofNat 64 (fld b (o + 0x10) 8), listVa := BitVec.ofNat 64 (fld b (o + 0x18) 8), listCount := fld b (o + 0x20) 2
    arriveDie := fld b (o + 0x22) 1, arriveEn := bit (fld b (o + 0x24) 2) 15, arriveObj := fld b (o + 0x24) 2 % 2 ^ 14 }

def shardResv (b : List Byte) (o : Nat) : Bool :=
  decide (fld b (o + 4) 2 ≥ 2 ^ 14) || fld b (o + 0xA) 2 != 0 || decide (fld b (o + 0x10) 8 ≥ 2 ^ 57) || decide (fld b (o + 0x18) 8 ≥ 2 ^ 57)
    || fld b (o + 0x23) 1 != 0 || bit (fld b (o + 0x24) 2) 14 || !allZero (slice b (o + 0x26) 26)

/-- A shard entry's own rules (R361 to R363). -/
def shardBad (norms : List NormSet) (s : Shard) : Bool :=
  decide (s.kind > 4) || s.parts == 0 || decide (s.parts > 16) || s.part1k == 0 || decide (s.part1k > 8)
    || decide (elems s > 16384) || ((s.expect == 0) != (s.kind == 4)) || s.buf % 256 != 0 || (s.kind == 4 && s.buf != 0)
    || decide (s.listCount > 16384)
    || (s.normSet != 0xFF && !(match norms[s.normSet]? with | some n => n.valid | none => false))

/-- The buffer within one slice of the owner die's pool, for the owner module (R363). -/
def bufBad (s : Shard) : Bool :=
  s.kind != 4 && (s.buf / 0x400000 != (s.buf + bufBytes s - 1) / 0x400000 || decide (s.buf + bufBytes s > 0x8000000))

def sameShard (a b : Shard) : Bool :=
  a.kind == b.kind && a.parts == b.parts && a.part1k == b.part1k && a.ownerModule == b.ownerModule && a.ownerEngine == b.ownerEngine && a.buf == b.buf

def bufMeets (a b : Shard) : Bool :=
  a.kind != 4 && b.kind != 4 && a.ownerEngine / 16 == b.ownerEngine / 16 && overlaps a.buf (bufBytes a) b.buf (bufBytes b)

/-- A shard against the current layout: the same identifier stays the same shard, and on the owner
module no buffer meets another shard's. -/
def clashes (m : Mod) (sid : Nat) (s : Shard) : Bool :=
  match m.xch.current with
  | none => false
  | some l => (match shardOf l sid with | some o => !sameShard s o | none => false)
      || (s.ownerModule == moduleNum m && l.shards.zipIdx.any fun x => match x.1 with
        | some o => x.2 != sid && o.ownerModule == moduleNum m && bufMeets s o
        | none => false)

def readLayout (k : Nat) (b : List Byte) : Layout where
  epoch := BitVec.ofNat 16 (fld b 0 2)
  part := k
  norms := (List.range 64).map fun i => readNorm b (0x100 + 32 * i)
  shards := (List.range (fld b 4 4)).map fun i => readShard b (0x900 + 64 * i)

/-- Whether LAYOUT_LOAD refuses the image (R363). -/
def layoutBad (m : Mod) (b : List Byte) (l : Layout) : Bool :=
  m.xch.pending.isSome
    || (match m.xch.current with | some c => l.epoch != c.epoch + 1 | none => false)
    || fld b 2 2 != 0 || !allZero (slice b 8 248)
    || (List.range 64).any (fun i => normBad b (0x100 + 32 * i))
    || l.shards.zipIdx.any fun x => shardResv b (0x900 + 64 * x.2) || match x.1 with
      | none => false
      | some s => shardBad l.norms s || (s.ownerModule == moduleNum m && bufBad s) || clashes m x.2 s

/-- LAYOUT_LOAD: the image becomes the pending layout. -/
def layoutBody (c : Cmd) (t : Clk) (m : Mod) : Mod :=
  let va := carg c 0x10 8
  match readMem t m (cmdReq c) va 0x900 .clean with
  | (m1, .error e) => cmdFault t c e m1
  | (m1, .ok (h, _)) =>
    let n := fld h 4 4
    if n = 0 ∨ n > 4194304 then cmdRefuse t c 0x46 m1 else
    match readMem t m1 (cmdReq c) (va + 0x900) (64 * n) .clean with
    | (m2, .error e) => cmdFault t c e m2
    | (m2, .ok (es, _)) =>
      let b := h ++ es
      let l := readLayout (cpart c) b
      if layoutBad m2 b l then cmdRefuse t c 0x46 m2
      else cmdDone t c (modXch m2 fun x => { x with pending := some l })

/-! ## Phase-map images -/

def readExpert (b : List Byte) (o : Nat) : Expert where
  module := fld b o 2
  engine := fld b (o + 2) 1
  capacity := fld b (o + 4) 2
  senders := fld b (o + 6) 2
  recv := fld b (o + 8) 4
  record := fld b (o + 0xC) 4
  gate := fld b (o + 0x10) 4
  endObj := fld b (o + 0x14) 2

def expertBad (b : List Byte) (o : Nat) : Bool :=
  let e := readExpert b o
  decide (e.module ≥ 2 ^ 14) || fld b (o + 3) 1 != 0 || e.capacity % 32 != 0 || decide (e.capacity > 2048) || e.senders == 0
    || decide (e.endObj ≥ 2 ^ 14) || !allZero (slice b (o + 0x16) 10)

/-- Whether a field of the image breaks its layout, or a grid of R420 cannot be cut, that of a token run in the image's
FORMAT or that of its FP32 destination run (R416). -/
def phaseBad (b : List Byte) : Bool :=
  let fmt := fld b 0 1
  let row := fld b 2 2
  let n := fld b 4 2
  !(fmt == 1 || fmt == 3 || fmt == 4) || row % 32 != 0 || row == 0 || decide (row > 16384) || decide (n > 4096)
    || fld b 1 1 != 0 || !allZero (slice b 6 250)
    || (List.range 16384).any (fun i => decide (fld b (0x100 + i) 1 > 17) && fld b (0x100 + i) 1 != 0x1F)
    || [fmt, 0x10].any (fun f => row % gridC row f != 0 || gridW row f % 32 != 0)
    || (List.range n).any fun i => expertBad b (0x4100 + 32 * i)

def readBank (b : List Byte) : Bank where
  loaded := true
  fmt := fld b 0 1
  rowElems := fld b 2 2
  routes := slice b 0x100 16384
  experts := (List.range (fld b 4 2)).map fun i => readExpert b (0x4100 + 32 * i)

/-- The packets routed under a bank not yet acknowledged or delivered, and the DISPATCH and COMBINE
instructions under it not complete (R419): a COMBINE lasts while a result of it is one of those packets (R426). -/
def bankCount (m : Mod) (b : Nat) : Nat :=
  (m.links.map fun l => (l.2.txq.filter fun x => x.pkt.map.val == b).length
      + ((l.2.flits ++ l.2.sending.map (·.flit) ++ l.2.unacked ++ l.2.resend).filter fun f => f.map == b).length).foldl (· + ·) 0
    + (m.eng.map fun e => (e.2.vops.filter fun v => wOp v.word == 0xC4 && v.args[1]? == some b).length).foldl (· + ·) 0
    + (m.exp.filter fun r => r.2.st == .closing && (match r.2.combine with | some (_, _, _, x) => x == b | none => false)).length
    + (m.exp.map fun r => ((r.2.held ++ r.2.pinHeld).filter fun h => h.1 == fabricPort && h.2.1.map.val == b).length).foldl (· + ·) 0

/-- The active map of a partition, or the target of an accepted XCH.PHASE. -/
def bankNamed (m : Mod) (b : Nat) : Bool :=
  (List.range 8).any (fun k => (partSt m k).everLoaded && activeMap m k == b)
    || m.eng.any fun e => e.2.ctx.any fun c => match c.2.accepted with
      | some a => wOp a.word == 0xC5 && phaseMap a.word == b
      | none => false

/-- The image is read, checked and written into the bank. -/
def writeBank (t : Clk) (c : Cmd) (b : Nat) (m : Mod) : Mod :=
  let m0 := modBank m b fun x => { x with heldBy := x.heldBy.filter (· != (c.sq, c.tag)) }
  match readMem t m0 (cmdReq c) (carg c 0x18 8) 0x4100 .clean with
  | (m1, .error e) => cmdFault t c e m1
  | (m1, .ok (h, _)) => match readMem t m1 (cmdReq c) (carg c 0x18 8 + 0x4100) (32 * min 4096 (fld h 4 2)) .clean with
    | (m2, .error e) => cmdFault t c e m2
    | (m2, .ok (es, _)) =>
      if phaseBad (h ++ es) then cmdRefuse t c 0x49 m2
      else cmdDone t c (modBank m2 b fun x => { readBank (h ++ es) with heldBy := x.heldBy })

/-- PHASE_LOAD: refused for a bank in use, held while its count is not 0 or one before it is held (R419). -/
def phaseBody (c : Cmd) (t : Clk) (m : Mod) : Mod :=
  let b := carg c 0x10 1
  if bankNamed m b then cmdRefuse t c 0x49 m
  else if bankCount m b ≠ 0 ∨ phaseHeld m b then modBank m b fun x => { x with heldBy := x.heldBy ++ [(c.sq, c.tag)] }
  else writeBank t c b m

/-- PHASE_LOAD_RELEASE: the count of the bank of a held PHASE_LOAD is 0. -/
def phaseRelease (b : Nat) (t : Clk) (m : Mod) : Mod :=
  match (bank m b).heldBy with
  | [] => m
  | (sq, tag) :: rest => match findCmd m sq tag with
    | none => modBank m b fun x => { x with heldBy := rest }
    | some c => if bankCount m b ≠ 0 then m else writeBank t c b m

/-! ## The rows -/

def execLayoutLoad (sq : RingId) (tag : BitVec 16) (s : State) : Host.Outcome State Fault Refusal := cmdRow 0x30 layoutBody sq tag s
def execPhaseLoad (sq : RingId) (tag : BitVec 16) (s : State) : Host.Outcome State Fault Refusal := cmdRow 0x32 phaseBody sq tag s
def execPhaseLoadRelease (bank : Fin 4) (s : State) : Host.Outcome State Fault Refusal := onAll (phaseRelease bank.val) s

end Sys2Proof.Machine
end

