-- ==== Sys2Proof/Machine/Debug.lean ====
section
/-! DEFINITION. SLOT_DUMP (R108 to R110) and the breakpoint commands: BREAK, BP_CLEAR, HALT, the
end of a halt, RESUME (R593 to R598). -/

namespace Sys2Proof.Machine

/-- A debug unlock covers a partition (R567). -/
def unlocked (t : Clk) (m : Mod) (k : Nat) : Bool :=
  m.sec.unlocks.any fun u => decide (t.now < u.ends) && (u.part.isNone || u.part == some k)

/-! ## SLOT_DUMP -/

/-- The 1,024 records of a slot, row by row (R109). -/
def dumpSlot (m : Mod) (g a s : Nat) : List Byte :=
  let e := engine m g
  let mag := slotMag e a s
  (List.range 1024).flatMap fun i => toLe 8 (dumpRecord mag (sget {} e.cells ((8 * s + a) * 1024 + i))).toNat

def slotDumpBody (c : Cmd) (t : Clk) (m : Mod) : Mod :=
  let g := carg c 0x10 1
  if ¬ unlocked t m (cpart c) ∨ (engine m g).halt ≠ .halted then cmdRefuse t c 0x73 m
  else cmdResult t c (carg c 0x18 8) (dumpSlot m g (carg c 0x11 1) (carg c 0x12 1)) m

/-! ## Armed BREAKs -/

def newBrk (c : Cmd) : Brk where
  sq := c.sq
  tag := c.tag
  core := carg c 0x10 1 == 1
  target := carg c 0x11 1
  task := carg c 0x12 2
  index := carg c 0x14 4
  va := BitVec.ofNat 64 (carg c 0x18 8)
  skip := carg c 0x20 2
  whole := carg c 0x22 1 == 1
  result := BitVec.ofNat 64 (carg c 0x28 8)
  hit := none

/-- BREAK: armed at its target, at most 8 on an engine and 4 on a core (R594). -/
def breakBody (c : Cmd) (t : Clk) (m : Mod) : Mod :=
  let b := newBrk c
  if ¬ unlocked t m (cpart c) then cmdRefuse t c 0x73 m
  else if b.core then
    (if (m.coreBreaks.filter fun x => x.target == b.target).length ≥ 4 then cmdRefuse t c 0x16 m
     else { m with coreBreaks := m.coreBreaks ++ [b] })
  else if (engine m b.target).breaks.length ≥ 8 then cmdRefuse t c 0x16 m
  else modEngine m b.target fun e => { e with breaks := e.breaks ++ [b] }

/-- The 32 bytes of a result: no hit, or the hit and the time the halt was complete (R598). -/
def brkResult (b : Brk) (endTime : W64) : List Byte :=
  match b.hit with
  | none => List.replicate 32 0
  | some (tk, i, at_) => toLe 2 1 ++ toLe 2 tk ++ toLe 4 i ++ toLe 8 at_.toNat ++ toLe 8 endTime.toNat ++ List.replicate 8 0

/-- A BREAK leaves its target and its command completes with its result. -/
def endBrk (t : Clk) (b : Brk) (m : Mod) : Mod :=
  let keep := fun (x : Brk) => !(x.sq == b.sq && x.tag == b.tag)
  let m1 := modEngine { m with coreBreaks := m.coreBreaks.filter keep } b.target fun e => { e with breaks := e.breaks.filter keep }
  match findCmd m1 b.sq b.tag with
  | some c => cmdResult t c b.result.toNat (brkResult b t.sid) m1
  | none => m1

/-- Every armed BREAK. -/
def allBrks (m : Mod) : List Brk := m.eng.flatMap (fun e => e.2.breaks) ++ m.coreBreaks

/-- BP_CLEAR: the BREAK it names completes with HIT = 0, unless it has hit (R598). One that names no
armed BREAK of its partition is refused as an ABORT of none is (log 33). -/
def bpClearBody (c : Cmd) (t : Clk) (m : Mod) : Mod :=
  if ¬ unlocked t m (cpart c) then cmdRefuse t c 0x73 m else
  match (allBrks m).find? fun b => b.sq == carg c 0x10 2 && b.tag == carg c 0x12 2 with
  | none => cmdRefuse t c 0x1A m
  | some b =>
    if (findCmd m b.sq b.tag).all fun x => x.part != c.part then cmdRefuse t c 0x1A m
    else if b.hit.isSome then m
    else cmdDone t c (endBrk t b m)

/-! ## Halts (R595, R596) -/

/-- The engines that HALT and RESUME name. -/
def haltSet (m : Mod) (k n : Nat) : List Nat :=
  if n = 0xFF then (List.range 256).filter fun g => (partDies m k).contains (g / 16) else [n]

/-- Everything issued on an engine has run to its end; a descriptor that has not started waits. -/
def haltQuiet (m : Mod) (g : Nat) : Bool :=
  let e := engine m g
  e.gangs.all (fun x => x.passes.isEmpty && x.drains.isEmpty) && e.forming.isEmpty && e.vops.isEmpty
    && e.xfers.all (fun x => x.ended.isSome)
    && m.xch.collects.all (fun c => c.task / 4 != g)
    && (m.syncQ.all fun q => q.2.all fun o => match srcTask o.src with
        | some tk => tk / 4 != g || !depsDone m o.deps
        | none => true)

def allHalted (m : Mod) (l : List Nat) : Bool := l.all fun g => (engine m g).halt == .halted

/-- The halt of a command that has hit or been given: HALT, BREAK under either scope. -/
def haltDone (m : Mod) (c : Cmd) : Bool :=
  c.op == 0x43 && (match c.st with | .started => true | _ => false) && allHalted m (haltSet m (c.part.getD 0) (carg c 0x11 1))

/-- The partition of a BREAK's target. -/
def brkPart (m : Mod) (b : Brk) : Option Nat :=
  if b.core then dieOwner m (b.target / 4) else b.hit.map fun h => (ctx m (h.1 / 4) (h.1 % 4)).part

def brkDone (m : Mod) (b : Brk) : Bool :=
  b.hit.isSome && allHalted m (match b.whole, brkPart m b with
    | true, some k => haltSet m k 0xFF
    | _, _ => if b.core then [] else [b.target])

/-- The BP_CLEARs of a BREAK that has hit complete with it. -/
def endClears (t : Clk) (b : Brk) (m : Mod) : Mod :=
  (m.cmds.filter fun c => c.op == 0x42 && c.st == .started && carg c 0x10 2 == b.sq && carg c 0x12 2 == b.tag).foldl
    (fun m c => cmdDone t c m) m

/-- Completes the BREAKs and HALTs whose halt is complete. -/
def endHalts (t : Clk) (m : Mod) : Mod :=
  let m1 := ((allBrks m).filter (brkDone m)).foldl (fun m b => endClears t b (endBrk t b m)) m
  (m1.cmds.filter (haltDone m1)).foldl (fun m c => cmdDone t c m) m1

/-- A BREAK of a core at a moment: it hits where the running core reaches its address, and the core stops there; under SCOPE 1
the partition halts (R594, R595). SKIP counts executions of a sequencer's instruction alone (log 13). -/
def coreBreak (t : Clk) (b : Brk) (m : Mod) : Mod :=
  if b.hit.isSome ∨ m.coresHalted.contains b.target then m else
  let (n, m1) := drawId m
  match Config.coreReaches n b.target b.va, dieOwner m (b.target / 4) with
  | some (tk, i), some k =>
    let m2 := { m1 with
      coreBreaks := m1.coreBreaks.map fun x => if x.sq = b.sq ∧ x.tag = b.tag then { x with hit := some (tk.toNat, i.toNat, t.sid) } else x
      coresHalted := m1.coresHalted ++ [b.target] }
    endHalts t (if b.whole then beginHaltAll t k m2 else m2)
  | _, _ => m1

/-- HALT: the engines begin to halt; under 0xFF the cores too. -/
def haltBody (c : Cmd) (t : Clk) (m : Mod) : Mod :=
  if ¬ unlocked t m (cpart c) then cmdRefuse t c 0x73 m else
  let n := carg c 0x11 1
  endHalts t (if n = 0xFF then beginHaltAll t (cpart c) m else beginHalt n m)

/-- HALT_COMPLETE: the last issued operation has retired (R595); the watchdog timers of its contexts
stand still from here (R596). -/
def haltComplete (g : Nat) (t : Clk) (m : Mod) : Mod :=
  if (engine m g).halt ≠ .halting ∨ ¬ haltQuiet m g then m else
  let m1 := modEngine m g fun e => { e with halt := .halted }
  endHalts t (trace t g 0 0x0D 1 none { m1 with wdog := sset 0 m1.wdog g t.now })

/-- A halted engine issues again in the context that was issuing; its timers go on (R597). -/
def resumeEngine (t : Clk) (g : Nat) (m : Mod) : Mod :=
  if (engine m g).halt ≠ .halted then m else
  let held := t.now - sget 0 m.wdog g
  let m1 := modEngine m g fun e => { e with
    halt := .running
    haltAt := none
    ctx := e.ctx.map fun c => (c.1, { c.2 with waitSince := c.2.waitSince.map (· + held) }) }
  trace t g 0 0x0D 0 none { m1 with wdog := sset 0 m1.wdog g 0 }

/-- Every core of a partition goes on. -/
def resumeCores (k : Nat) (m : Mod) : Mod :=
  { m with coresHalted := m.coresHalted.filter fun n => !(partDies m k).contains (n / 4) }

def resumeBody (c : Cmd) (t : Clk) (m : Mod) : Mod :=
  if ¬ unlocked t m (cpart c) then cmdRefuse t c 0x73 m else
  let n := carg c 0x11 1
  let m1 := (haltSet m (cpart c) n).foldl (fun m g => resumeEngine t g m) m
  cmdDone t c (if n = 0xFF then resumeCores (cpart c) m1 else m1)

/-- An engine whose halt is not yet complete goes on as a halted one does: the command that asked for the halt is gone
(log 33). -/
def endHalting (m : Mod) (g : Nat) : Mod :=
  if (engine m g).halt = .halting then modEngine m g fun e => { e with halt := .running, haltAt := none } else m

/-- The BREAKs of a scope are cleared and its halted engines and cores go on (R599). -/
def clearDebug (t : Clk) (ks : List Nat) (m : Mod) : Mod :=
  let mine := fun (b : Brk) => (findCmd m b.sq b.tag).any fun c => ks.contains (c.part.getD 8)
  let m1 := ((allBrks m).filter mine).foldl (fun m b => endClears t b (endBrk t { b with hit := none } m)) m
  ks.foldl (fun m k => resumeCores k ((haltSet m k 0xFF).foldl (fun m g => endHalting (resumeEngine t g m) g) m)) m1

/-! ## The rows -/

def execSlotDump (sq : RingId) (tag : BitVec 16) (s : State) : Host.Outcome State Fault Refusal := cmdRow 0x40 slotDumpBody sq tag s
def execBreakCmd (sq : RingId) (tag : BitVec 16) (s : State) : Host.Outcome State Fault Refusal := cmdRow 0x41 breakBody sq tag s
def execBpClear (sq : RingId) (tag : BitVec 16) (s : State) : Host.Outcome State Fault Refusal := cmdRow 0x42 bpClearBody sq tag s
def execHalt (sq : RingId) (tag : BitVec 16) (s : State) : Host.Outcome State Fault Refusal := cmdRow 0x43 haltBody sq tag s
def execHaltComplete (e : Eng) (s : State) : Host.Outcome State Fault Refusal := onAll (haltComplete e.val) s
def execResume (sq : RingId) (tag : BitVec 16) (s : State) : Host.Outcome State Fault Refusal := cmdRow 0x44 resumeBody sq tag s

end Sys2Proof.Machine
end

