-- ==== Sys2Proof/Machine/Ports.lean ====
section
/-! DEFINITION. Link ports: their bring-up and loss (R394 to R397, R429, R430), segments, flits,
sealed packets, credits, acknowledgement and retry (R398 to R410, R428, R431), the SCRUB segments of a
partner (R563, R564). -/

namespace Sys2Proof.Machine

/-! ## What host writes a function may make (R480, R482, R622, R625) -/

/-- HN runs its firmware, or the boot ROM in recovery mode. -/
def hnUp (m : Mod) : Bool := m.hub.input && m.hub.booted && !m.hub.perst

/-- A write of a function to a register at an aligned offset acts. -/
def writable (m : Mod) (f off : Nat) : Bool :=
  hnUp m && !hnBusy m && vfLive m f && (!m.hub.recovery || recoveryReg off) && (f == 0 || vfSees m f off) &&
    match lookReg off with
    | none => false
    | some (d, i, j) => mayWrite m f off d i j

/-- A register row: the write of a VF that is not live is discarded and reported (R480, R568). -/
def gated (f off : Nat) (act : Mod → Mod) (m : Mod) : Mod :=
  if writable m f off then act m
  else if hnUp m ∧ ¬ vfLive m f then emit (.aerUR f) m
  else m

def gatedBoth (f off : Nat) (act : Clk → Mod → Clk × Mod) (c : Clk) (m : Mod) : Clk × Mod :=
  if writable m f off then act c m else (c, gated f off id m)

/-- The RW and RWL fields of a write, save the enable bits with a row of their own (R8, R621). -/
def storeFields (f off v : Nat) (m : Mod) : Mod :=
  match lookReg off with
  | none => m
  | some (d, i, j) =>
    let skip := fun fl => enableBit off fl || (f != 0 && vfBarred off fl)
    setReg m off (BitVec.ofNat 64 (writeFields (isLocked m off d i j) skip (regN m off) v d.flds))

/-! ## A port goes down -/

def linkLog (t : Clk) (p : Nat) (typ : Byte) (part : Option Nat) (addr info : Nat) (m : Mod) : Mod :=
  logFault t (logLD (portDie p)) { kind := 6, index := BitVec.ofNat 8 p, typ := typ, part := part
                                   addr := BitVec.ofNat 64 addr, info := BitVec.ofNat 64 info } m

/-- A LINK fault: 1 a lane lost, 2 the NAK limit, 3 training (R575). -/
def linkFault (t : Clk) (p cause : Nat) (m : Mod) : Mod := linkLog t p fLink (some (portPart m p)) p cause m

/-- DOWN with EN clear: packets unsent or unacknowledged are lost, and what waits for them goes on
waiting (R394, R406). -/
def portDown (t : Clk) (p : Nat) (reason : Byte) (m : Mod) : Mod :=
  let lost := (linkWorks (port m p)).map (·.id)
  let gone := fun (b : BulkOut) => (port m p).txq.any (fun x => x.pkt.typ.toNat == 0x30 && x.works.contains b.xfer && x.pkt.addr.toNat == b.far)
    || ((port m p).flits ++ (port m p).sending.map (·.flit) ++ (port m p).unacked).any fun f => f.typ == 0x30 && f.works.contains b.xfer && f.addr == b.far
  let m0 := { m with bulkOut := m.bulkOut.filter fun b => !gone b }
  let m1 := modPort (setBit m0 (rLport p) 0 false) p fun l =>
    { st := .down, reason := reason, since := t.now, retries := l.retries, corrected := l.corrected }
  lost.foldl dropSignals m1

def inBringUp (s : PSt) : Bool := s == .training || s == .hello || s == .keying

/-- HOLDOVER when the upstream port of a LOCKED module has gone down (R264). -/
def upstreamLost (before after : Mod) (c : Clk) : Clk :=
  if c.sync = .locked ∧ syncEn after ∧ ¬ timeRoot after ∧ (port before (upstream after)).st = .up ∧ (port after (upstream after)).st ≠ .up then
    { c with sync := .holdover, good := 0, steer := 0, steerRef := 0 }
  else c

/-- A row of the links, with what follows by itself. -/
def onLink (f : Clk → Mod → Clk × Mod) (s : State) : Host.Outcome State Fault Refusal :=
  onBoth (fun t m => let r := f t m; (upstreamLost m r.2 r.1, settleAll t r.2)) s

def onPort (f : Clk → Mod → Mod) (s : State) : Host.Outcome State Fault Refusal := onLink (fun t m => (t, f t m)) s

/-- The partition bound to a port runs a scrub. -/
def portScrubs (m : Mod) (p : Nat) : Bool := (partSt m (portPart m p)).scrub.isSome

/-- A live FW_ACTIVATE of the port's link die: bring-up and rekeying wait (R614). -/
def linkBusy (m : Mod) (p : Nat) : Bool := svcRuns m 1 4 (portDie p)

/-! ## Bring-up -/

/-- The check of LPORT_CTRL.EN (R21, R394). -/
def lportErr (m : Mod) (p : Nat) : Option Byte :=
  if ¬ m.hub.idSet then some 0x40 else if portState m p = 2 then some 0x37 else none

/-- A write of LPORT_CTRL: clearing EN takes the port down, setting it runs the check. -/
def lportWrite (f p v : Nat) (t : Clk) (m : Mod) : Mod :=
  let was := portEn m p
  let m1 := storeFields f (rLport p) v m
  if ¬ bit v 0 then (if was then portDown t p 0 m1 else m1)
  else if was then m1
  else match lportErr m1 p with
    | some r => modPort m1 p fun l => { l with reason := r }
    | none => modPort (setBit m1 (rLport p) 0 true) p fun l => { l with st := .training, reason := 0, since := t.now, quiesced := false }

/-- The rates, widths and FEC modes a port offers (R395, R635). -/
def ourRates (m : Mod) (p : Nat) : Nat := regF m (rLport p) 4 3
def ourWidths (m : Mod) (p : Nat) : Nat := regF m (rLport p) 8 3
def ourFec (m : Mod) (p : Nat) : Nat := regF m (rLport p) 12 2

/-- Whether the lanes that lock carry a width: ×4 all, ×2 a pair, ×1 any; on a split port ×2 and ×1 use the lower
pair, lanes 0 and 1, only (R392). -/
def lanesOk (p lanes w : Nat) : Bool :=
  match w with
  | 0 => lanes % 16 == 15
  | 1 => lanes % 4 == 3 || (decide (p < 16) && lanes / 4 % 4 == 3)
  | _ => (if p < 16 then lanes % 16 else lanes % 4) != 0

/-- The FEC of a rate that both sides offer: 0 RS(544,514), 1 RS(528,514) at 53.125 Gb/s only. -/
def fecOf (both rate : Nat) : Option Nat :=
  if bit both 0 then some 0 else if bit both 1 ∧ rate = 2 then some 1 else none

/-- The common modes in order of preference: product of rate and width, then the wider. -/
def modeOrder : List (Nat × Nat) := [(0, 0), (1, 0), (0, 1), (2, 0), (1, 1), (0, 2), (2, 1), (1, 2), (2, 2)]

def bestMode (p rates widths fec lanes : Nat) : Option (Nat × Nat × Nat) :=
  modeOrder.findSome? fun x =>
    if bit rates x.1 ∧ bit widths x.2 ∧ lanesOk p lanes x.2 then (fecOf fec x.1).map fun c => (x.1, x.2, c) else none

/-- The transmit equaliser stays at its limit when the partner wants more (R538, R539). -/
def eqClamp (t : Clk) (p want : Nat) (m : Mod) : Mod :=
  if want > regF m (rLport p + 0x18) 0 8 then linkLog t p fPolicyClamp none (2 + 256 * p + 65536 * want) 0 m else m

/-- TRAINING ends with the best common mode, or fails (R394, R395). -/
def trainingDone (p : Nat) (theirs : Offering) (ours : Nat) (t : Clk) (m : Mod) : Mod :=
  if (port m p).st ≠ .training ∨ linkBusy m p ∨ portScrubs m p then m else
  let both := fun (a b : Nat) => a &&& b
  match bestMode p (both (ourRates m p) theirs.rates.toNat) (both (ourWidths m p) theirs.widths.toNat)
      (both (ourFec m p) theirs.fec.toNat) (both ours theirs.lanes.toNat) with
  | none => portDown t p 0x41 (linkFault t p 3 m)
  | some (r, w, c) => modPort (eqClamp t p theirs.eqWant.toNat m) p fun l =>
      { l with st := .hello, since := t.now, rate := r, width := w, fec := c, fragTx := 0, rxMsg := (0, 0, []) }

def msTicks (n : Nat) : Nat := 1600000 * n

/-- A state's time limit has passed (R394, R612). -/
def portTimeout (p : Nat) (t : Clk) (m : Mod) : Mod :=
  let l := port m p
  match l.st with
  | .training => if t.now < l.since + msTicks 100 then m else portDown t p 0x41 (linkFault t p 3 m)
  | .hello => if t.now < l.since + msTicks 10 then m else portDown t p 0x42 m
  | .keying => if t.now < l.since + msTicks 10 then m else portDown t p 0x43 m
  | _ => m

/-- Fresh ephemeral secrets of a key agreement, from the TRNG (R429). -/
def drawEph (p : Nat) (m : Mod) : Mod :=
  { modPort m p (fun l => { l with eph := Config.drawBytes m.draw 96, fragTx := 0, rxMsg := (0, 0, []) }) with draw := m.draw + 1 }

/-- HELLO: the partner's number must differ, the highest common version runs (R21, R396). -/
def helloMsg (p n versions : Nat) (t : Clk) (m : Mod) : Mod :=
  if (port m p).st ≠ .hello ∨ linkBusy m p ∨ portScrubs m p then m
  else if n = moduleNum m then portDown t p 0x40 m
  else match [2, 1, 0].find? fun i => bit versions i with
    | none => portDown t p 0x42 m
    | some i => drawEph p (modPort m p fun l => { l with st := .keying, since := t.now, version := i, partner := BitVec.ofNat 14 n })

/-- A peer is trusted (R552). -/
def trusted (m : Mod) (p : Nat) (k : PeerKey) : Bool :=
  let s := partSt m (portPart m p)
  k.certOk && k.edOk && k.mlOk && (!s.boundNow || k.isSwitch || s.boundSet.contains k.device)

/-- Receive buffers of a direction (R403). -/
def creditsAtUp : Sparse Nat := [(0, 64), (1, 640), (2, 384), (3, 512)]

/-! ### Key agreement (R429) -/

/-- The side with the lower module number initiates. -/
def initiates (m : Mod) (l : LPort) : Bool := decide (moduleNum m < l.partner.toNat)

/-- This side's key-agreement message, and the ML-KEM shared secret: an X25519 public key with an encapsulation key
from the initiator, with a ciphertext from the responder. -/
def kxOurs (first : Bool) (eph theirs : List Byte) : List Byte × List Byte :=
  if first then (Config.x25519Public eph ++ Config.mlkemKey eph, Config.mlkemDecap eph (theirs.drop 32))
  else
    let e := Config.mlkemEncap (theirs.drop 32) eph
    (Config.x25519Public eph ++ e.1, e.2)

/-- The transcript: the initiator's message, then the responder's. The manual does not say what else it holds (DESIGN
CHOICE, log 41). -/
def transcript (first : Bool) (ours theirs : List Byte) : List Byte := if first then ours ++ theirs else theirs ++ ours

/-- "CANGOR KEYS". -/
def kxInfo : List Byte := [0x43, 0x41, 0x4E, 0x47, 0x4F, 0x52, 0x20, 0x4B, 0x45, 0x59, 0x53]

/-- The 72 bytes of HKDF-SHA-384: the key from the initiator, the key to it, and the two salts. -/
def sessKeys (first : Bool) (eph theirs : List Byte) : SessKey :=
  let (ours, shared) := kxOurs first eph theirs
  let k := Config.hkdf384 (Config.sha384 (transcript first ours theirs)) (Config.x25519 eph (theirs.take 32) ++ shared) kxInfo 72
  let a := slice k 0 32
  let b := slice k 32 32
  let sa := slice k 64 4
  let sb := slice k 68 4
  if first then { tx := a, rx := b, saltTx := sa, saltRx := sb } else { tx := b, rx := a, saltTx := sb, saltRx := sa }

/-- The new keys of a port; this side's message leaves with the transcript's signatures under both identity keys. -/
def agree (p : Nat) (k : PeerKey) (m : Mod) : SessKey × Mod :=
  let l := port m p
  let first := initiates m l
  let ours := (kxOurs first l.eph k.kx).1
  let tr := transcript first ours k.kx
  (sessKeys first l.eph k.kx, emit (.keyx p ours (edSig tr) (mlSig tr)) m)

/-- KEYX: the keys are agreed and the port is UP (R429); the ephemeral secrets go. -/
def keyxMsg (p : Nat) (k : PeerKey) (t : Clk) (m : Mod) : Mod :=
  if (port m p).st ≠ .keying ∨ linkBusy m p ∨ portScrubs m p then m
  else if ¬ trusted m p k then portDown t p 0x43 m
  else
    let (key, m1) := agree p k m
    modPort m1 p fun l => { l with
      st := .up, since := t.now, peer := k.device, peerSwitch := k.isSwitch, key := key, prevKey := none
      keyphase := false, pseqTx := 0, pseqHi := 0, seen := [], creditTx := creditsAtUp, eph := [], fragTx := 0, rxMsg := (0, 0, []) }

/-- REKEY: new keys while packets keep flowing; the old ones stay until a packet verifies under the
new (R430). -/
def rekeyMsg (p : Nat) (k : PeerKey) (t : Clk) (m : Mod) : Mod :=
  let l := port m p
  if l.st ≠ .up ∨ l.version ≠ 2 ∨ linkBusy m p ∨ portScrubs m p then m
  else if ¬ trusted m p k then portDown t p 0x43 m
  else
    let m0 := if l.rekeying then m else drawEph p m
    let (key, m1) := agree p k m0
    modPort m1 p fun l => { l with
      rekeying := false, key := key, prevKey := some l.key, keyphase := !l.keyphase, pseqTx := 0, eph := [], fragTx := 0, rxMsg := (0, 0, []) }

/-- A port starts to rekey, with fresh ephemeral secrets. -/
def startRekey (p : Nat) (m : Mod) : Mod :=
  if (port m p).rekeying then m else drawEph p (modPort m p fun l => { l with rekeying := true })

/-- LPORT_CTRL.REKEY, at Cangor 2.2 on a port that is UP. -/
def rekeyAsk (p : Nat) (m : Mod) : Mod :=
  let l := port m p
  if l.st = .up ∧ l.version = 2 then startRekey p m else m

/-- A direction's PSEQ has reached 2^40; a received PSEQ of the keys before a rekey does not count. -/
def pseqLimit (t : Clk) (p : Nat) (m : Mod) : Mod :=
  let l := port m p
  if l.st ≠ .up ∨ (l.pseqTx.toNat < 2 ^ 40 ∧ (l.pseqHi.toNat < 2 ^ 40 ∨ l.prevKey.isSome)) then m
  else if l.version = 2 then startRekey p m
  else portDown t p 0x4B m

/-! ## Packets and flits -/

def bodyFlits (k : Packet) : Nat := ceilDiv k.body.length 256

/-- The 32 header bytes (R400). -/
def hdrBytes (k : Packet) : List Byte :=
  [k.typ] ++ toBe 1 (k.vc.val * 64 + k.map.val * 16) ++ toBe 1 (bodyFlits k) ++ toBe 1 (b2n k.keyphase)
    ++ toBe 2 k.dst.toNat ++ [k.dstEng] ++ [0] ++ toBe 2 k.src.toNat ++ toBe 2 k.epoch.toNat ++ toBe 4 k.arg.toNat
    ++ toBe 8 k.addr.toNat ++ toBe 8 k.pseq.toNat

/-- The flits of a sealed packet: header, inline bytes and tag in the head, then the body (R400, R428). The nonce is the
direction's salt, then PSEQ. -/
def sealFlits (l : LPort) (k : Packet) : List (List Byte) :=
  let h := hdrBytes k
  let n := bodyFlits k
  let c := Config.gcmSeal l.key.tx (l.key.saltTx ++ toBe 8 k.pseq.toNat) h (slice k.inl 0 208 ++ slice k.body 0 (256 * n))
  (h ++ slice c 0 208 ++ slice c (208 + 256 * n) 16) :: (List.range n).map fun i => slice c (208 + 256 * i) 256

/-- VC and largest BODY of a packet type (R401). -/
def typeOf (typ : Nat) : Option (Nat × Nat × Nat) :=
  if 1 ≤ typ ∧ typ ≤ 7 then some (0, 0, 0)
  else if typ = 0x10 ∨ typ = 0x12 then some (1, 1, 16)
  else if typ = 0x11 then some (1, 0, 0)
  else if typ = 0x20 ∨ typ = 0x21 then some (2, 1, 16)
  else if typ = 0x22 ∨ typ = 0x23 then some (2, 0, 0)
  else if typ = 0x30 then some (3, 1, 16)
  else none

/-- The inline bytes a type assigns (R402), from byte 0x20 of the head. -/
def inlineUsed (typ body : Nat) : List (Nat × Nat) :=
  match typ with
  | 0x03 | 0x04 => [(0x20, 8)]
  | 0x05 | 0x06 => [(0x20, 20)]
  | 0x10 => [(0x20, 1), (0x22, 2), (0x28, 8 + 8 * body)]
  | 0x11 => [(0x22, 3), (0x28, 12)]
  | 0x12 => [(0x20, 5)]
  | 0x20 => [(0x20, 7), (0x28, 8)]
  | 0x21 => [(0x25, 1), (0x28, 8)]
  | 0x22 => [(0x25, 1), (0x28, 4)]
  | 0x23 => [(0x24, 2)]
  | _ => []

/-- A reserved code, a field out of its type's range or a reserved field that is not 0 (R401). -/
def packetBad (h : List Byte) (k : Packet) : Bool :=
  let typ := k.typ.toNat
  let epochs := [0x05, 0x06, 0x10, 0x11]
  match typeOf typ with
  | none => true
  | some (vc, lo, hi) =>
    k.vc.val != vc || decide (bodyFlits k < lo) || decide (hi < bodyFlits k)
      || fld h 1 1 % 16 != 0 || decide (fld h 2 1 ≥ 32) || decide (fld h 3 1 ≥ 2) || fld h 7 1 != 0
      || decide (fldBe h 4 2 ≥ 16384) || decide (fldBe h 8 2 ≥ 16384)
      || (k.epoch != 0 && !epochs.contains typ)
      || (List.range 208).any fun i => (k.inl[i]?.getD 0) != 0 && !(inlineUsed typ (bodyFlits k)).any fun r => decide (r.1 ≤ 0x20 + i) && decide (0x20 + i < r.1 + r.2)

/-- A packet from its header, inline bytes and body. -/
def readPacket (h inl body : List Byte) : Packet where
  typ := BitVec.ofNat 8 (fld h 0 1)
  vc := Fin.ofNat 4 (fld h 1 1 / 64)
  map := Fin.ofNat 4 (fld h 1 1 / 16)
  keyphase := fld h 3 1 % 2 == 1
  dst := BitVec.ofNat 14 (fldBe h 4 2)
  dstEng := BitVec.ofNat 8 (fld h 6 1)
  src := BitVec.ofNat 14 (fldBe h 8 2)
  epoch := BitVec.ofNat 16 (fldBe h 0xA 2)
  arg := BitVec.ofNat 32 (fldBe h 0xC 4)
  addr := BitVec.ofNat 64 (fldBe h 0x10 8)
  pseq := BitVec.ofNat 64 (fldBe h 0x18 8)
  inl := inl
  body := body

/-! ## Sending -/

/-- CRC-16 with polynomial x^16 + x^12 + x^5 + 1, most significant bit first (R398). -/
def crcBit (c : Nat) (b : Bool) : Nat :=
  let top := xor (decide (c ≥ 32768)) b
  let s := c * 2 % 65536
  if top then s ^^^ 0x1021 else s
def crc16 (bs : List Byte) : Nat :=
  bs.foldl (fun c b => [7, 6, 5, 4, 3, 2, 1, 0].foldl (fun c i => crcBit c (bit b.toNat i)) c) 0xFFFF

/-- The tag of a segment (R398). -/
def segTag (vc idx fseq : Nat) (ctl : Bool) (body : List Byte) : W32 :=
  let hi := vc * 2 ^ 14 + idx * 2 ^ 12 + b2n ctl * 2 ^ 11 + fseq % 2048
  BitVec.ofNat 32 (hi * 65536 + crc16 (toBe 2 hi ++ body))

/-- The first packet of a VC that may be formed: its ordering condition holds (R163, R414). -/
def nextPkt (m : Mod) (l : LPort) (quiet : Bool) (vc : Nat) : Option TxPkt :=
  l.txq.find? fun x => x.pkt.vc.val == vc && depsDone m x.deps && (!quiet || [2, 3, 4].contains x.pkt.typ.toNat)

/-! ### What a link die combines (R159, R380, R411) -/

/-- The records of a REDUCE packet, one per body flit (R402). -/
def reduceRecs (k : Packet) : List RRec :=
  (List.range (bodyFlits k)).map fun i =>
    let r := ifld k (0x30 + 8 * i) 8
    let pairs := bits r 48 16
    { pairs := pairs, count := bits r 32 16, line := bits r 0 32
      bytes := slice k.body (256 * i) (if pairs = 0 then 256 else 8 * pairs) }

/-- The operation and records of a REDUCE packet. -/
abbrev Bundle := Nat × List RRec

def bundleOf (k : Packet) : Bundle := (ifld k 0x20 1, reduceRecs k)

/-- Two packets of one owner, shard, part, round and operation, under one map and epoch. -/
def sameReduce (a b : Packet) : Bool :=
  a.typ == 0x10 && b.typ == 0x10 && a.dst == b.dst && a.dstEng == b.dstEng && a.epoch == b.epoch && a.arg == b.arg && a.map == b.map
    && ifld a 0x22 2 == ifld b 0x22 2 && ifld a 0x28 8 == ifld b 0x28 8
    && (ifld a 0x20 1 == ifld b 0x20 1 || decide (ifld a 0x20 1 ≥ 4 ∧ ifld b 0x20 1 ≥ 4))

/-- Two norm flits of one set and D_n. -/
def sameNorm (a b : Packet) : Bool :=
  a.typ == 0x05 && b.typ == 0x05 && a.dst == b.dst && a.epoch == b.epoch && a.arg == b.arg && a.map == b.map && ifld a 0x20 8 == ifld b 0x20 8

/-- A record of sign bits as 8-bit counts. -/
def asCounts (r : RRec) : RRec := { r with bytes := (List.range 256).map fun i => BitVec.ofNat 8 (signAddend false r.bytes i) }

def toCounts (b : Bundle) : Bundle := if b.1 = 4 then (5, b.2.map asCounts) else b

/-- A record and one of the same line combined, counts added; none where they do not fit together (R159, R411). -/
def joinRecs (opA : Nat) (a : RRec) (opB : Nat) (b : RRec) : Option (Nat × RRec) :=
  if a.line ≠ b.line ∨ a.count + b.count > 65535 then none else
  (combinePayload opA a.bytes opB b.bytes).map fun r =>
    (r.1, { a with pairs := if r.1 = 3 then r.2.length / 8 else 0, count := a.count + b.count, bytes := r.2 })

/-- A record put with those of a packet: combined with the first it fits, else one more of at most 16, one per line. -/
def addRec (b : Bundle) (op : Nat) (r : RRec) : Option Bundle :=
  match b.2.find? fun x => (joinRecs b.1 x op r).isSome with
  | some x => match joinRecs b.1 x op r with
    | some (op1, y) =>
      let b1 := if op1 = 5 then toCounts b else b
      let x1 := if op1 = 5 ∧ b.1 = 4 then asCounts x else x
      some (op1, b1.2.map fun z => if z = x1 then y else z)
    | none => none
  | none =>
    if b.2.length ≥ 16 ∨ (b.1 ≠ 3 ∧ b.2.any fun x => x.line == r.line) then none
    else if b.1 = op then some (op, b.2 ++ [r])
    else
      let c := toCounts b
      some (5, c.2 ++ [if op = 4 then asCounts r else r])

/-- The records of a second packet put with those of a first, and those left over. -/
def addRecs (b : Bundle) (op : Nat) (rs : List RRec) : Bundle × List RRec :=
  rs.foldl (fun acc r => match addRec acc.1 op r with
    | some c => (c, acc.2)
    | none => (acc.1, acc.2 ++ [r])) (b, [])

def bundlePacket (k : Packet) (b : Bundle) : Packet :=
  { k with
    inl := reduceInline b.1 (ifld k 0x22 2) (BitVec.ofNat 64 (ifld k 0x28 8)) b.2
    body := b.2.flatMap fun x => slice x.bytes 0 256 }

/-- Value, count and occulted count of two norm flits added. -/
def addNorms (a b : Packet) : Packet :=
  let inl := normInline (BitVec.ofNat 64 (ifld a 0x20 8))
      (fadd (BitVec.ofNat 32 (ifld a 0x28 4)) (BitVec.ofNat 32 (ifld b 0x28 4))) (ifld a 0x2C 4 + ifld b 0x2C 4) (ifld a 0x30 4 + ifld b 0x30 4)
  { a with inl := inl }

/-- A packet about to leave takes in what it can of one that waits behind it: the two as they are then, the second
none where nothing of it is left. -/
def absorb (x y : TxPkt) : TxPkt × Option TxPkt :=
  if sameNorm x.pkt y.pkt then ({ x with pkt := addNorms x.pkt y.pkt, works := x.works ++ y.works }, none)
  else if sameReduce x.pkt y.pkt then
    let op := ifld y.pkt 0x20 1
    let (b, rest) := addRecs (bundleOf x.pkt) op (reduceRecs y.pkt)
    if rest.length = bodyFlits y.pkt then (x, some y)
    else ({ x with pkt := bundlePacket x.pkt b, works := x.works ++ y.works },
      if rest.isEmpty then none else some { y with pkt := bundlePacket y.pkt (op, rest) })
  else (x, some y)

/-- The packet that leaves, combined with those that wait with it for the same owner, and the queue without them. -/
def gatherTx (m : Mod) (x : TxPkt) (q : List TxPkt) : TxPkt × List TxPkt :=
  q.foldl (fun acc y =>
    if depsDone m y.deps then
      let r := absorb acc.1 y
      (r.1, acc.2 ++ r.2.toList)
    else (acc.1, acc.2 ++ [y])) (x, [])

/-- The packet is sealed into the flits of its VC (R428); the last bears its works. -/
def formPkt (m : Mod) (x : TxPkt) (l : LPort) : LPort :=
  let (x1, q) := gatherTx m x (l.txq.erase x)
  let k := { x1.pkt with keyphase := l.keyphase, pseq := l.pseqTx }
  let fs := (sealFlits l k).zipIdx.map fun b =>
    ({ vc := k.vc.val, fseq := 0, map := k.map.val, bytes := b.1, head := if b.2 = 0 then k.typ.toNat else 0 } : Flit)
  let tail := fs.getLast?.map fun f => { f with
    typ := k.typ.toNat, arg := k.arg.toNat, addr := k.addr.toNat, task := x1.task, works := x1.works, acked := x1.acked }
  { l with txq := q, pseqTx := l.pseqTx + 1, flits := l.flits ++ fs.dropLast ++ tail.toList }

/-- A flit that the state of the port lets start: in QUIET only the head of a time packet, which is all of it (R518). -/
def flitStart (quiet : Bool) (f : Flit) : Bool := !quiet || [2, 3, 4].contains f.head

/-- The VCs whose next packet can be formed are filled; in QUIET a time packet does not wait for one of its VC that does. -/
def formAll (m : Mod) (quiet : Bool) (l : LPort) : LPort :=
  [0, 1, 2, 3].foldl (fun l vc =>
    if l.flits.any fun f => f.vc == vc && flitStart quiet f then l
    else match nextPkt m l quiet vc with
      | some x => formPkt m x l
      | none => l) l

/-- A new flit of a VC may begin: a credit and room for its replay copy (R403, R405), in a state that lets it (R518). -/
def flitReady (quiet : Bool) (l : LPort) (vc : Nat) : Bool :=
  l.flits.any (fun f => f.vc == vc && flitStart quiet f) && decide (sget 0 l.creditTx vc > 0) && decide (l.unacked.length < 1600)

/-- A new flit begins: it takes the next FSEQ, a credit, and leaves a replay copy. -/
def beginFlit (quiet : Bool) (vc : Nat) (l : LPort) : LPort :=
  match l.flits.find? fun f => f.vc == vc && flitStart quiet f with
  | none => l
  | some f =>
    let g := { f with fseq := l.nextFseq }
    { l with
      flits := l.flits.erase f
      sending := l.sending ++ [{ flit := g, idx := 0 }]
      unacked := l.unacked ++ [g]
      nextFseq := (l.nextFseq + 1) % 2048
      creditTx := smod 0 l.creditTx vc (· - 1)
      bucket := if vc = 0 then l.bucket - 4 else l.bucket
      deficit := if vc = 0 then l.deficit else smod 0 l.deficit vc (· - 1) }

/-- Deficit round-robin among the ready VCs 1 to 3 (R408). -/
def drrPick (m : Mod) (quiet : Bool) (p : Nat) (l : LPort) : Option (Nat × LPort) :=
  let ready := [1, 2, 3].filter (flitReady quiet l)
  let idle := [1, 2, 3].filter fun v => !(flitReady quiet l v)
  let l1 := { l with deficit := idle.foldl (fun d v => sset 0 d v 0) l.deficit }
  match ready.find? fun v => decide (sget 0 l1.deficit v > 0) with
  | some v => some (v, l1)
  | none => match ready with
    | [] => none
    | v :: _ => some (v, { l1 with deficit := ready.foldl (fun d x => smod 0 d x (· + regF m (rLport p + 0x10) (8 * (x - 1)) 8)) l1.deficit })

/-- The flit whose segment goes next: VC0 first, then what resends, then what is in progress, then a
new flit (R405, R407, R410). -/
def chooseFlit (m : Mod) (quiet : Bool) (p : Nat) (l : LPort) : Option LPort :=
  if l.sending.any fun s => s.flit.vc == 0 then some l
  else if l.resend.isEmpty ∧ flitReady quiet l 0 ∧ l.bucket ≥ 4 then some (beginFlit quiet 0 l)
  else if ¬ l.sending.isEmpty then some l
  else match l.resend with
    | f :: r => some { l with resend := r, sending := [{ flit := f, idx := 0 }] }
    | [] => (drrPick m quiet p l).map fun x => beginFlit quiet x.1 x.2

/-- The segment in turn: that of VC0 when one is in progress. -/
def turn (l : LPort) : Option FlitTx := (l.sending.find? fun s => s.flit.vc == 0) <|> l.sending.head?

/-- The bucket of VC0 gains a segment in every 8 slots (R410). -/
def slotTick (l : LPort) : LPort :=
  { l with slotCount := l.slotCount + 1, slots8 := (l.slots8 + 1) % 8, bucket := if l.slots8 = 7 then min 64 (l.bucket + 1) else l.bucket }

/-- t1 of a TIME_REQ and t3 of a TIME_RESP are taken as their first segment leaves (R415). -/
def stampT1 (f : Flit) (c : Clk) : Clk :=
  match c.meas with
  | some x => if f.head = 2 ∧ fldBe f.bytes 0xC 4 = x.num.toNat then { c with meas := some { x with t1 := c.sid } } else c
  | none => c

/-- The TIME_FOLLOW that goes next on VC0 after a TIME_RESP. -/
def followOf (c : Clk) (p : Nat) (f : Flit) (m : Mod) : Mod :=
  if f.head ≠ 3 then m else
  let k := packet m (portPart m p) 0x04 0 (fldBe f.bytes 4 2) 0 0 (fldBe f.bytes 0xC 4) 0 (inlineOf [(0x20, toBe 8 c.sid.toNat)]) []
  modPort m p fun l => { l with txq := { pkt := k, deps := [], task := none, works := [] } :: l.txq }

/-- The segment goes on the wire. -/
def sendSegment (p : Nat) (s : FlitTx) (c : Clk) (m : Mod) : Clk × Mod :=
  let body := slice s.flit.bytes (64 * s.idx) 64
  let m1 := emit (.segment p (segTag s.flit.vc s.idx s.flit.fseq false body) body) (modPort m p fun l => { l with
    sending := if s.idx = 3 then l.sending.erase s else l.sending.map fun x => if x = s then { x with idx := x.idx + 1 } else x })
  if s.idx = 0 then (stampT1 s.flit c, followOf c p s.flit m1) else (c, m1)

/-! ## CTL segments (R404) -/

def msgOf (l : LPort) : Nat :=
  match l.st with
  | .training => 1
  | .hello => 2
  | .keying => 3
  | .up => if l.rekeying then 4 else 0
  | .down => 0

/-- How far an FSEQ lies past another, modulo 2,048. -/
def fseqPast (base f : Nat) : Nat := (f + 2048 - base) % 2048

/-- The first flit not yet whole, the one furthest behind the next new flit: what a NAK names; the flit before it is what
is acknowledged (R405). -/
def firstOpen (l : LPort) : Nat :=
  ((l.rxSegs.filter fun x => decide (x.2.2.length < 256)).map fun x => x.2.1).foldl
    (fun a f => if fseqPast a l.rxFseq < fseqPast f l.rxFseq then f else a) l.rxFseq

def scrubCtl : CtlSeg where
  scrub := true
  msg := 0
  nak := false
  ack := 0
  credits := [0, 0, 0, 0]
  frag := 0
  body := List.replicate 50 0

/-- The message that CTL segments of a port carry: this side's key-agreement message in KEYING and in a rekey (R429,
R430), where it initiates; a TRAIN or HELLO body, whose layout the manual does not give. -/
def msgBytes (m : Mod) (p : Nat) : List Byte :=
  let l := port m p
  match msgOf l with
  | 0 => []
  | 3 | 4 => if initiates m l then (kxOurs true l.eph []).1 else []
  | k => Config.ctlBody p k

/-- Fragments of a message, at least one (R404). -/
def fragCount (bs : List Byte) : Nat := max 1 (ceilDiv bs.length 50)

def ctlOf (m : Mod) (p : Nat) (l : LPort) : CtlSeg where
  scrub := false
  msg := BitVec.ofNat 8 (msgOf l)
  nak := l.nak.isSome
  ack := BitVec.ofNat 11 (match l.nak with | some f => f | none => firstOpen l + 2047)
  credits := [0, 1, 2, 3].map fun v => BitVec.ofNat 16 (min 65535 (sget 0 l.creditDue v))
  frag := BitVec.ofNat 16 (if msgOf l = 0 then 0 else l.fragTx)
  body := if msgOf l = 0 then List.replicate 50 0 else slice (msgBytes m p) (50 * l.fragTx) 50

/-- The 64 body bytes of a CTL segment (R404). -/
def ctlBytes (c : CtlSeg) : List Byte :=
  toBe 1 (b2n c.scrub) ++ [c.msg] ++ toBe 2 (b2n c.nak * 2 ^ 15 + c.ack.toNat)
    ++ ([0, 1, 2, 3].flatMap fun i => toBe 2 (c.credits[i]?.getD 0).toNat) ++ toBe 2 c.frag.toNat ++ slice c.body 0 50

/-- A CTL segment on the wire: VC, INDEX and FSEQ 0, CTL 1 (R398). -/
def ctlOut (p : Nat) (c : CtlSeg) : Out := .segment p (segTag 0 0 0 true (ctlBytes c)) (ctlBytes c)

/-- A CTL segment is sent, with the next fragment of its message; in TRAINING it offers the port's modes. -/
def ctlSend (p : Nat) (m : Mod) : Mod :=
  let l := port m p
  if portScrubs m p ∧ l.st ≠ .down then emit (ctlOut p scrubCtl) (modPort m p fun l => { l with slotCount := 0 })
  else if l.st = .down then m
  else
    let m1 := emit (ctlOut p (ctlOf m p l)) (modPort m p fun l => { l with
      nak := none, slotCount := 0
      fragTx := if msgOf l = 0 then l.fragTx else (l.fragTx + 1) % fragCount (msgBytes m p)
      creditDue := [0, 1, 2, 3].foldl (fun d v => smod 0 d v fun x => x - min 65535 x) l.creditDue })
    if l.st = .training then emit (.training p {
      rates := BitVec.ofNat 3 (ourRates m p), widths := BitVec.ofNat 3 (ourWidths m p), fec := BitVec.ofNat 2 (ourFec m p)
      lanes := 15, eqWant := 0 }) m1 else m1

/-- A CTL segment is due: one at least every 256 segment times, and a VC0 flit, four segments that nothing interrupts,
could otherwise not end before the last of them (R404, R407). -/
def ctlDue (l : LPort) : Bool := decide (l.slotCount ≥ 252) && !(l.sending.any fun s => s.flit.vc == 0)

/-- A CTL segment that nothing forces waits while the segments of a VC0 flit follow each other (R407). -/
def ctlAsk (p : Nat) (m : Mod) : Mod :=
  if ¬ portScrubs m p ∧ (port m p).sending.any (fun s => s.flit.vc == 0) then m else ctlSend p m

/-- SEGMENT_SLOT: SCRUB segments while the partition is scrubbed; a CTL segment when one is due; else the flit in turn (R404, R407 to R410, R563). -/
def segmentSlot (p : Nat) (c : Clk) (m : Mod) : Clk × Mod :=
  let l := port m p
  let quiet := portQuiet m p
  if l.st = .down ∨ l.st ≠ .up ∧ ¬ portScrubs m p then (c, m)
  else if portScrubs m p ∨ ctlDue l then (c, ctlSend p (modPort m p slotTick))
  else
    let m1 := modPort m p slotTick
    if l.quiesced then (c, m1) else
    match chooseFlit m1 quiet p (formAll m1 quiet (port m1 p)) with
    | none => (c, m1)
    | some l2 => match turn l2 with
      | none => (c, m1)
      | some s =>
        let r := sendSegment p s c (modPort m1 p fun _ => l2)
        (r.1, pseqLimit c p r.2)

/-! ## Receiving CTL segments -/

/-- How many of the unacknowledged flits, which bear consecutive FSEQs, end before an FSEQ; none where it is no FSEQ of
theirs nor the next after them (R399, R405). -/
def endedBefore (l : LPort) (f : Nat) : Nat :=
  let n := fseqPast ((l.unacked.map (·.fseq)).headD l.nextFseq) f
  if n ≤ l.unacked.length then n else 0

/-- The partner's SCRUB segment: QUIESCED, replay copies discarded, no flit starts (R563). -/
def quiesce (p : Nat) (m : Mod) : Mod :=
  modPort m p fun l => { l with quiesced := true, unacked := [], resend := [], sending := [] }

/-- A PARAM packet is acknowledged. Where its destination refused the copy, which no packet says (a free value, log 41),
the refusal is logged here and the owner's task faults without the signal (R384); type and reason are the model's (DESIGN
CHOICE, log 41). -/
def copyAcked (t : Clk) (m : Mod) (f : Flit) : Mod :=
  match f.typ, f.task with
  | 0x12, some tk =>
    let m1 := { m with draw := m.draw + 1 }
    if Config.farRefused m.draw then
      let va := match lookShard m f.arg with
        | .ok (_, s) => s.paramVa.toNat + f.addr
        | .error _ => f.addr
      let e : XErr := { typ := fTranslation, reason := 0x6B, addr := va, va := true }
      faultAccess t tk e (logErr t (reqOf m1 (.task (Fin.ofNat 256 (tk / 4)) (Fin.ofNat 4 tk))) e (f.works.foldl dropSignals m1))
    else m1
  | _, _ => m

/-- The first flits of the replay copies are acknowledged. -/
def acknowledge (t : Clk) (p n : Nat) (m : Mod) : Mod :=
  let l := port m p
  let gone := l.unacked.take n
  gone.foldl (copyAcked t) (modPort m p fun l => { l with
    unacked := l.unacked.drop n
    resend := l.resend.filter fun x => !gone.any fun y => y.fseq == x.fseq
    nakCount := if gone.any fun y => y.fseq == l.nakFseq then 0 else l.nakCount })

def ackMsg (t : Clk) (p f : Nat) (m : Mod) : Mod := acknowledge t p (endedBefore (port m p) ((f + 1) % 2048)) m

/-- A NAK: the flits before its FSEQ are acknowledged and every flit from it onward is sent again; the sixteenth in a row
for one FSEQ takes the port down (R405, R406). -/
def nakMsg (t : Clk) (p f : Nat) (m : Mod) : Mod :=
  let l := port m p
  let n := if l.nakFseq = f ∧ l.nakCount ≠ 0 then l.nakCount + 1 else 1
  if n ≥ 16 then portDown t p 0x4B (linkFault t p 2 m) else
  modPort (acknowledge t p (endedBefore l f) m) p fun y => { y with
    nakFseq := f, nakCount := n, retries := min 0xFFFFFFFF (y.retries + 1), sending := [], resend := y.unacked }

/-- A fragment of a message joins those before it (R404). -/
def takeFrag (x : CtlSeg) (l : LPort) : LPort :=
  let k := x.msg.toNat
  if k = 0 then l
  else if x.frag = 0 then { l with rxMsg := (k, 1, slice x.body 0 50) }
  else if l.rxMsg.1 = k ∧ l.rxMsg.2.1 = x.frag.toNat then { l with rxMsg := (k, l.rxMsg.2.1 + 1, l.rxMsg.2.2 ++ slice x.body 0 50) }
  else { l with rxMsg := (0, 0, []) }

/-- CTL_SEGMENT; while the port's own partition is scrubbed it is discarded. -/
def ctlReceive (p : Nat) (x : CtlSeg) (t : Clk) (m : Mod) : Mod :=
  let l := port m p
  if l.st = .down ∨ portScrubs m p then m
  else if x.scrub then (if l.st = .up then quiesce p m else m)
  else if l.st ≠ .up then modPort m p (takeFrag x)
  else
    let m1 := modPort m p fun l => takeFrag x { l with
      creditTx := (x.credits.zipIdx).foldl (fun c (y : BitVec 16 × Nat) => smod 0 c y.2 (· + y.1.toNat)) l.creditTx }
    if x.nak then nakMsg t p x.ack.toNat m1 else ackMsg t p x.ack.toNat m1

/-- The fields of a received CTL body. -/
def readCtl (b : List Byte) : CtlSeg where
  scrub := bit (fld b 0 1) 0
  msg := BitVec.ofNat 8 (fld b 1 1)
  nak := bit (fldBe b 2 2) 15
  ack := BitVec.ofNat 11 (fldBe b 2 2)
  credits := [4, 6, 8, 10].map fun o => BitVec.ofNat 16 (fldBe b o 2)
  frag := BitVec.ofNat 16 (fldBe b 12 2)
  body := slice b 14 50

/-- A partner that showed QUIESCED goes down with 0x4B and no fault once its scrub ends (R564). -/
def laneLoss (p : Nat) (t : Clk) (m : Mod) : Mod :=
  let l := port m p
  if l.st = .down then m
  else if l.quiesced then portDown t p 0x4B m
  else if l.st = .up then portDown t p 0x4B (linkFault t p 1 m)
  else m

/-! ## Receiving flits and packets -/

/-- A failing segment: the receiver asks for the first flit not whole and waits for it (R405). -/
def segBad (p : Nat) (m : Mod) : Mod :=
  modPort m p fun l =>
    let f := firstOpen l
    { l with nak := some f, nakWait := some f, rxFseq := f, rxSegs := l.rxSegs.filter fun x => x.2.2.length == 256 }

/-- The next FSEQ to begin: past the flits begun or whole already. -/
def nextRx (rs : List (Nat × Nat × List Byte)) : Nat → Nat → Nat
  | 0, f => f
  | fuel + 1, f => if rs.any fun x => x.2.1 == f then nextRx rs fuel ((f + 1) % 2048) else f

/-- Flits that are whole with every earlier one whole need no entry; `was` is the first flit that was not whole. -/
def pruneSegs (was : Nat) (l : LPort) : LPort :=
  { l with rxSegs := l.rxSegs.filter fun x => !(x.2.2.length == 256 && decide (fseqPast was x.2.1 < fseqPast was (firstOpen l))) }

/-- A segment of a flit in progress, or the first of a new or resent one: the flits after it, and the
flit that it makes whole. None where it does not fit. -/
def addSegment (vc idx fseq : Nat) (body : List Byte) (l : LPort) : Option (LPort × Option (List Byte)) :=
  match l.rxSegs.find? fun x => x.2.1 == fseq with
  | some x =>
    if x.2.2.length = 256 then some (l, none)
    else if x.1 ≠ vc ∨ x.2.2.length ≠ 64 * idx then none
    else
      let bs := x.2.2 ++ body
      some (pruneSegs (firstOpen l) { l with rxSegs := l.rxSegs.map fun y => if y.2.1 = fseq then (y.1, y.2.1, bs) else y },
        if bs.length = 256 then some bs else none)
  | none =>
    if fseq ≠ l.rxFseq ∧ fseqPast fseq l.rxFseq ≤ 1600 then some (l, none)
    else if idx ≠ 0 ∨ l.rxSegs.any (fun y => y.1 == vc && decide (y.2.2.length < 256)) then none
    else if fseq = l.rxFseq then
      let rs := l.rxSegs ++ [(vc, fseq, body)]
      some ({ l with rxSegs := rs, rxFseq := nextRx rs rs.length l.rxFseq }, none)
    else none

/-- PSEQ is accepted once, within 2,048 below the highest received (R428). -/
def pseqOk (l : LPort) (n : W64) : Bool := !l.seen.contains n && decide (n.toNat + 2048 > l.pseqHi.toNat)

/-- A PSEQ accepted. -/
def takePseq (n : W64) (l : LPort) : LPort :=
  let hi := max l.pseqHi.toNat n.toNat
  { l with pseqHi := BitVec.ofNat 64 hi, seen := (n :: l.seen).filter fun x => decide (x.toNat + 2048 > hi) }

def creditBack (vc n : Nat) (l : LPort) : LPort := { l with creditDue := smod 0 l.creditDue vc (· + n) }

/-- A packet that is not delivered is logged (R401, R417). -/
def packetLost (t : Clk) (p : Nat) (k : Packet) (reason : Byte) (m : Mod) : Mod :=
  logFault t (logLD (portDie p)) { kind := 6, index := BitVec.ofNat 8 p, typ := fDropped, reason := reason
                                   part := some (portPart m p), addr := BitVec.ofNat 64 k.dst.toNat, info := BitVec.ofNat 64 k.typ.toNat } m

/-- A packet dropped at its port: its credits return. -/
def packetDrop (t : Clk) (p : Nat) (k : Packet) (reason : Byte) (m : Mod) : Mod :=
  packetLost t p k reason (modPort m p (creditBack k.vc.val (1 + bodyFlits k)))

/-- The session keys a received packet is under: the present ones, or those before a rekey. -/
def rxKey (l : LPort) (phase : Bool) : Option SessKey := if phase = l.keyphase then some l.key else l.prevKey

/-- A whole packet: opened under its keys, checked, and given to the module (R393, R417, R428, R430,
R431). -/
def takePacket (t : Clk) (p vc : Nat) (fs : List (List Byte)) (m : Mod) : Mod :=
  let l := port m p
  let head := fs.headD []
  let h := slice head 0 32
  let n := fs.length - 1
  let data := slice head 0x20 208 ++ (fs.drop 1).flatten ++ slice head 0xF0 16
  let phase := fld h 3 1 % 2 == 1
  let opened := match rxKey l phase with
    | some key => Config.gcmOpen key.rx (key.saltRx ++ slice h 0x18 8) h data
    | none => none
  match opened with
  | none => portDown t p 0x4B (linkLog t p fSecurity (some (portPart m p)) 0 1 m)
  | some pl =>
    let k := readPacket h (slice pl 0 208) (slice pl 208 (256 * n))
    let fresh := l.prevKey.isSome && phase == l.keyphase
    let l1 := if fresh then { l with prevKey := none, pseqHi := 0, seen := [] } else l
    if ¬ pseqOk l1 k.pseq then modPort m p fun _ => creditBack vc (1 + n) l1
    else
      let m1 := modPort m p fun _ => takePseq k.pseq l1
      if packetBad h k then packetDrop t p k 0 m1
      else if k.dst.toNat ≠ moduleNum m1 ∨ ¬ partEn m1 (portPart m1 p) then packetDrop t p k 0 m1
      else pseqLimit t p (modPort m1 p fun l => { l with
        rxq := l.rxq ++ [k]
        stamps := if k.typ = 0x02 ∨ k.typ = 0x03 then l.stamps ++ [(k.pseq, l.rxStamp)] else l.stamps })

/-- A whole flit joins its VC; with the last body flit the packet is whole. -/
def takeFlit (t : Clk) (p vc : Nat) (bs : List Byte) (m : Mod) : Mod :=
  let fs := sget [] (port m p).rxFlits vc ++ [bs]
  let want := 1 + fld (fs.headD []) 2 1 % 32
  if fs.length < want then modPort m p fun l => { l with rxFlits := sset [] l.rxFlits vc fs }
  else takePacket t p vc fs (modPort m p fun l => { l with rxFlits := sset [] l.rxFlits vc [] })

/-- When the first segment of a VC0 flit enters the SerDes (R261, R415). -/
def stampFirst (t : Clk) (vc idx : Nat) (l : LPort) : LPort := if vc = 0 ∧ idx = 0 then { l with rxStamp := t.sid } else l

/-- The codewords corrected on the lanes of a port by the time of a segment (R578, R635; free, log 2). -/
def fecCount (p : Nat) (m : Mod) : Mod :=
  if (port m p).st = .down then m else
  { modPort m p (fun l => { l with corrected := min 0xFFFFFFFF (l.corrected + Config.fecCorrected m.draw) }) with draw := m.draw + 1 }

/-- A received segment (R398, R399, R405). -/
def takeSegment (p : Nat) (tag : W32) (body : List Byte) (t : Clk) (m : Mod) : Mod :=
  let l := port m p
  let x := tag.toNat
  let fseq := bits x 16 11
  let vc := bits x 30 2
  if l.st = .down ∨ portScrubs m p then m
  else if crc16 (toBe 2 (x / 65536) ++ slice body 0 64) ≠ x % 65536 then (if l.st = .up then segBad p m else m)
  else if bit x 27 then ctlReceive p (readCtl body) t m
  else if l.st ≠ .up then m
  else match l.nakWait with
    | some f => if fseq = f ∧ bits x 28 2 = 0 then
        (match addSegment vc 0 fseq (slice body 0 64) (stampFirst t vc 0 { l with nakWait := none }) with
         | some (l1, _) => modPort m p fun _ => l1
         | none => segBad p m) else m
    | none => match addSegment vc (bits x 28 2) fseq (slice body 0 64) (stampFirst t vc (bits x 28 2) l) with
      | none => segBad p m
      | some (l1, none) => modPort m p fun _ => l1
      | some (l1, some bs) => takeFlit t p vc bs (modPort m p fun _ => l1)

/-- SEGMENT_RECEIVE. -/
def segmentReceive (p : Nat) (tag : W32) (body : List Byte) (t : Clk) (m : Mod) : Mod := takeSegment p tag body t (fecCount p m)

/-! ## The rows -/

def execLportEnable (f : Func) (p : Port) (v : W64) (s : State) : Host.Outcome State Fault Refusal :=
  onPort (fun t m => gated f.val (rLport p.val) (lportWrite f.val p.val v.toNat t) m) s
def execTrainingComplete (p : Port) (theirs : Offering) (ours : BitVec 4) (s : State) : Host.Outcome State Fault Refusal :=
  onPort (trainingDone p.val theirs ours.toNat) s
def execPortStateTimeout (p : Port) (s : State) : Host.Outcome State Fault Refusal := onPort (portTimeout p.val) s
def execHello (p : Port) (module : BitVec 14) (versions : BitVec 3) (s : State) : Host.Outcome State Fault Refusal :=
  onPort (helloMsg p.val module.toNat versions.toNat) s
def execKeyx (p : Port) (k : PeerKey) (s : State) : Host.Outcome State Fault Refusal := onPort (keyxMsg p.val k) s
def execRekey (p : Port) (k : PeerKey) (s : State) : Host.Outcome State Fault Refusal := onPort (rekeyMsg p.val k) s
def execRekeyRequest (f : Func) (p : Port) (s : State) : Host.Outcome State Fault Refusal :=
  onPort (fun _ m => gated f.val (rLport p.val) (rekeyAsk p.val) m) s
def execCtlSegment (p : Port) (c : CtlSeg) (s : State) : Host.Outcome State Fault Refusal := onPort (ctlReceive p.val c) s
def execCtlSegmentSend (p : Port) (s : State) : Host.Outcome State Fault Refusal := onPort (fun _ m => ctlAsk p.val m) s
def execSegmentReceive (p : Port) (tag : W32) (body : List Byte) (s : State) : Host.Outcome State Fault Refusal :=
  onPort (segmentReceive p.val tag body) s
def execScrubSegment (p : Port) (s : State) : Host.Outcome State Fault Refusal := onPort (ctlReceive p.val scrubCtl) s
def execLaneLoss (p : Port) (_lane : Fin 4) (s : State) : Host.Outcome State Fault Refusal := onPort (laneLoss p.val) s
def execSegmentSlot (p : Port) (s : State) : Host.Outcome State Fault Refusal := onLink (segmentSlot p.val) s

end Sys2Proof.Machine
end

