-- ==== Sys2Proof/Machine/Time.lean ====
section
/-! DEFINITION. Sidereal time: loads (R249), steering (R250, R262, R263), measurement (R261, R415),
the synchronisation states (R264), the pod time root and the 1PPS output (R266 to R268). -/

namespace Sys2Proof.Machine

/-- A Transit is accepted and not dispatched (R249, R251). -/
def transitPending (m : Mod) : Bool :=
  (m.eng.any fun e => e.2.ctx.any fun c => c.2.accepted.isSome)
    || m.cmds.any fun c => match c.st with | .accepted _ _ => true | _ => false

/-- Whole steps of 2 ticks for an offset (R262). -/
def stepsFor (offset : Int) : Int := offset.tdiv 2

/-- The signed difference of two counts. -/
def diff (a b : W64) : Int := (a - b).toInt

/-- Half of a difference in ticks. -/
def halfTicks (n : Int) : Int := n / 2 + (if n % 2 = 1 ∧ Config.halfUp n then 1 else 0)

/-! ## Loads and enables -/

/-- TIME_LOAD: refused while SYNC_EN is 1 or a Transit is pending; else the next edge applies it. -/
def timeLoad (v : W64) (c : Clk) (m : Mod) : Clk :=
  if ¬ c.running then c
  else if syncEn m ∨ transitPending m then { c with refused := true }
  else { c with load := some v, loadAcq := false }

/-- A load that a Transit accepted since, or SYNC_EN set since, stops before its edge: a TIME_LOAD is refused, and the
offset of an acquisition load is removed by steering (R249). -/
def settleLoad (m : Mod) (c : Clk) : Clk :=
  if c.load.isNone then c
  else if c.loadAcq then (if transitPending m then { c with load := none, loadAcq := false, steer := stepsFor c.offset } else c)
  else if syncEn m ∨ transitPending m then { c with load := none, refused := true }
  else c

/-- Nothing valid is known of the external inputs. -/
def clearExt (c : Clk) : Clk := { c with extGood := 0, refGood := 0, ppsLast := c.now, refLast := c.now, ref10m := none, steerRef := 0 }

/-- SYNC_EN set: ACQUIRE, or LOCKED for the pod time root (R264, R266). -/
def startSync (root : Bool) (c : Clk) : Clk :=
  clearExt { c with
    sync := if root then .locked else .acquire
    acqDone := false, good := 0, bad := 0, meas := none, lastMeas := c.now, steer := 0 }

def stopSync (c : Clk) : Clk :=
  clearExt { c with
    sync := .freerun, acqDone := false, good := 0, bad := 0, meas := none, steer := 0
    load := if c.loadAcq then none else c.load, loadAcq := false }

def rootWith (m : Mod) (b : Nat) : Bool := syncEn m && timeRoot m && regB m rTimeCtrl b

/-- The fields of TIME_CTRL while SYNC_EN stays: an input enabled is timed from here, one disabled steers no more, and a
root without inputs counts on its own reference in LOCKED (R266, R267). -/
def extChange (before after : Mod) (c : Clk) : Clk :=
  let c1 := if rootWith after 3 = rootWith before 3 then c else { c with extGood := 0, ppsLast := c.now, steer := 0 }
  let c2 := if rootWith after 2 = rootWith before 2 then c1 else { c1 with refGood := 0, refLast := c.now, ref10m := none, steerRef := 0 }
  if syncEn after ∧ timeRoot after ∧ ¬ rootWith after 2 ∧ ¬ rootWith after 3 then { c2 with sync := .locked, steer := 0, steerRef := 0 } else c2

/-- A write of TIME_CTRL (R631): its fields, then the change of SYNC_EN. HS answers only when it runs. -/
def timeCtrl (f v : Nat) (c : Clk) (m : Mod) : Clk × Mod :=
  let was := syncEn m
  let m1 := storeFields f rTimeCtrl v m
  if bit v 0 = was then (if was then extChange m m1 c else c, m1)
  else if was then (stopSync c, setBit m1 rTimeCtrl 0 false)
  else (startSync (timeRoot m1) c, setBit m1 rTimeCtrl 0 true)

/-! ## Measurements -/

/-- A failed measurement: the fourth in a row takes LOCKED to HOLDOVER. -/
def measFailed (c : Clk) : Clk :=
  let n := c.bad + 1
  if c.sync = .locked ∧ n ≥ 4 then { c with bad := n, good := 0, sync := .holdover, steer := 0, steerRef := 0 } else { c with bad := n, good := 0 }

/-- TIME_MEASUREMENT: every 65,536 ticks a TIME_REQ goes to the upstream port; one that the partner
has not answered by then has failed (R261, R264). -/
def measure (c : Clk) (m : Mod) : Clk × Mod :=
  if ¬ syncEn m ∨ timeRoot m ∨ ¬ c.running ∨ c.now < c.lastMeas + 65536 then (c, m)
  else
    let c1 := if c.meas.isSome then measFailed c else c
    let p := upstream m
    if (port m p).st ≠ .up then ({ (measFailed c1) with meas := none, lastMeas := c.now }, m)
    else
      let n := c1.measNum + 1
      let k := packet m (portPart m p) 0x02 0 (port m p).partner.toNat 0 0 n.toNat 0 [] []
      ({ c1 with measNum := n, meas := some { num := n, t1 := c.sid, t2 := none, t4 := 0 }, lastMeas := c.now },
        sendOn m p { pkt := k, deps := [], task := none, works := [] })

/-- |offset| ≤ 4 (R264). -/
def within (offset : Int) : Bool := decide (-4 ≤ offset) && decide (offset ≤ 4)

/-- The states after a measurement: 16 in a row within 4 ticks give LOCKED. -/
def measState (offset : Int) (c : Clk) : Clk :=
  let n := if within offset then c.good + 1 else 0
  { c with good := n, bad := 0, sync := if n ≥ 16 ∧ (c.sync = .acquire ∨ c.sync = .holdover) then .locked else c.sync }

/-- A measured offset: the acquisition load of the first one, else steering, which replaces what is
left of the last (R249, R263, R264). The load is applied 2 ticks on, at the next edge. -/
def offsetDone (offset : Int) (pending : Bool) (c : Clk) : Clk :=
  let c1 := { (measState offset c) with meas := none, offset := offset }
  if c.sync = .acquire ∧ ¬ c.acqDone ∧ ¬ pending then
    { c1 with acqDone := true, steer := 0, load := some (c.sid + 2 + BitVec.ofInt 64 offset), loadAcq := true }
  else { c1 with acqDone := true, steer := stepsFor offset }

/-- TIME_LP_ASYM of the upstream port, signed. -/
def asym (m : Mod) (p : Nat) : Int := (BitVec.ofNat 16 (regF m (rTimeAsym p) 0 16)).toInt

/-- t3 arrives and the measurement is whole: its offset and its delay (R261). -/
def timeFollow (p num : Nat) (t3 : W64) (c : Clk) (m : Mod) : Clk :=
  match c.meas with
  | some { num := n, t1 := t1, t2 := some t2, t4 := t4 } =>
    if n.toNat ≠ num ∨ p ≠ upstream m then c
    else offsetDone (halfTicks (diff t2 t1 - diff t4 t3) - asym m p) (transitPending m) { c with delay := halfTicks (diff t2 t1 + diff t4 t3) }
  | _ => c

/-- t2 arrives, in a packet whose first segment entered at t4 (R415). -/
def timeResp (p num : Nat) (t2 t4 : W64) (c : Clk) (m : Mod) : Clk :=
  match c.meas with
  | some x => if x.num.toNat ≠ num ∨ p ≠ upstream m ∨ x.t2.isSome then c
      else { c with meas := some { x with t2 := some t2, t4 := t4 } }
  | none => c

/-! ## Steering -/

/-- A step towards the 1PPS input, or an upstream, is no error against the 10 MHz input: the count that comparisons start
from moves with it (R266). -/
def shiftRef (ticks : Int) (c : Clk) : Clk :=
  { c with ref10m := c.ref10m.map fun r => (r.1 + BitVec.ofInt 64 ticks, r.2) }

/-- STEERING_STEP: one step in any 4,096 ticks, forward or back (R250). Steps towards the 10 MHz input come after those
towards an upstream or the 1PPS input (DESIGN CHOICE, log 4: R266 gives both to one count and no order). -/
def steerStep (c : Clk) : Clk :=
  let ready : Bool := match c.lastStep with
    | none => true
    | some n => decide (n + 4096 ≤ c.now)
  if ¬ c.running ∨ (c.steer = 0 ∧ c.steerRef = 0) ∨ ¬ ready ∨ c.load.isSome then c
  else if 0 < c.steer then { (shiftRef 2 c) with incr := 4, steer := c.steer - 1, lastStep := some c.now }
  else if c.steer < 0 then { (shiftRef (-2) c) with incr := 0, steer := c.steer + 1, lastStep := some c.now }
  else if 0 < c.steerRef then { c with incr := 4, steerRef := c.steerRef - 1, lastStep := some c.now }
  else { c with incr := 0, steerRef := c.steerRef + 1, lastStep := some c.now }

/-! ## The pod time root -/

def second : Nat := 1600000000

/-- An input is disabled, or has been valid for 16 seconds. -/
def goodFor16 (enabled : Bool) (since now : Nat) : Bool := !enabled || (since != 0 && decide (since + 16 * second ≤ now))

/-- HOLDOVER ends once every enabled input has been valid for 16 seconds (R267). -/
def extValid (c : Clk) (m : Mod) : Clk :=
  if c.sync = .holdover ∧ goodFor16 (rootWith m 3) c.extGood c.now ∧ goodFor16 (rootWith m 2) c.refGood c.now then { c with sync := .locked } else c

/-- An enabled input has not been valid for 2 seconds. -/
def extOut (c : Clk) (m : Mod) : Bool :=
  (rootWith m 3 && decide (c.ppsLast + 2 * second ≤ c.now)) || (rootWith m 2 && decide (c.refLast + 2 * second ≤ c.now))

/-- HOLDOVER of a root that has lost an input: no steering (R264, R267). -/
def extCheck (c : Clk) (m : Mod) : Clk :=
  if extOut c m ∧ c.sync = .locked then { c with sync := .holdover, steer := 0, steerRef := 0 } else c

/-- The ticks from the count to the nearest whole second. -/
def toSecond (sid : W64) : Int :=
  let r := sid.toNat % second
  if 2 * r ≤ second then -(r : Int) else (second : Int) - r

/-- When an input became valid, now or before. -/
def sinceGood (since now : Nat) : Nat := if since = 0 then max 1 now else since

/-- PPS_IN_EDGE (R266). -/
def ppsIn (valid : Bool) (c : Clk) (m : Mod) : Clk :=
  if ¬ rootWith m 3 ∨ ¬ c.running then c
  else if ¬ valid then extCheck { c with extGood := 0 } m
  else extValid { c with steer := stepsFor (toSecond c.sid), extGood := sinceGood c.extGood c.now, ppsLast := c.now } m

/-- The ticks by which the count has fallen behind the 10 MHz input since the first comparison, at 160 ticks per input
cycle (R266). -/
def refOffset (base : W64) (cycles : Nat) (c : Clk) : Int := 160 * (cycles : Int) - diff c.sid base

/-- REF10M_COMPARE: so many cycles of the 10 MHz input since the last comparison; the first only takes the count. -/
def ref10m (valid : Bool) (cycles : Nat) (c : Clk) (m : Mod) : Clk :=
  if ¬ rootWith m 2 ∨ ¬ c.running then c
  else if ¬ valid then extCheck { c with refGood := 0, ref10m := none } m
  else
    let c1 := { c with refGood := sinceGood c.refGood c.now, refLast := c.now }
    extValid (match c.ref10m with
      | none => { c1 with ref10m := some (c.sid, 0), steerRef := 0 }
      | some (base, n) => { c1 with ref10m := some (base, n + cycles), steerRef := stepsFor (refOffset base (n + cycles) c) }) m

/-- EXTERNAL_INPUT_LOSS: an enabled input that has not been valid for 2 seconds (R267). -/
def extLoss (c : Clk) (m : Mod) : Clk :=
  if ¬ c.running ∨ ¬ extOut c m then c
  else
    let c1 := if rootWith m 3 && decide (c.ppsLast + 2 * second ≤ c.now) then { c with extGood := 0 } else c
    let c2 := if rootWith m 2 && decide (c.refLast + 2 * second ≤ c.now) then { c1 with refGood := 0, ref10m := none } else c1
    extCheck c2 m

/-- PPS_OUT_EDGE: one edge each time the count reaches a whole number of seconds (R268). -/
def ppsOut (c : Clk) (m : Mod) : Clk × Mod :=
  if c.running ∧ c.sid.toNat % second = 0 ∧ ¬ c.ppsSent then ({ c with ppsSent := true }, emit (.ppsEdge c.sid) m) else (c, m)

/-! ## The rows -/

def execTimeLoad (f : Func) (v : W64) (s : State) : Host.Outcome State Fault Refusal :=
  onBoth (gatedBoth f.val 0x400008 fun c m => (timeLoad v c m, m)) s
def execSyncEnable (f : Func) (v : W64) (s : State) : Host.Outcome State Fault Refusal :=
  onBoth (gatedBoth f.val rTimeCtrl (timeCtrl f.val v.toNat)) s
def execSyncDisable (f : Func) (v : W64) (s : State) : Host.Outcome State Fault Refusal :=
  onBoth (gatedBoth f.val rTimeCtrl (timeCtrl f.val v.toNat)) s
def execTimeMeasurement (s : State) : Host.Outcome State Fault Refusal := onBoth measure s
def execSteeringStep (s : State) : Host.Outcome State Fault Refusal := onClk (fun c _ => steerStep c) s
def execPpsInEdge (valid : Bool) (s : State) : Host.Outcome State Fault Refusal := onClk (ppsIn valid) s
def execRef10mCompare (valid : Bool) (cycles : Nat) (s : State) : Host.Outcome State Fault Refusal := onClk (ref10m valid cycles) s
def execExternalInputLoss (s : State) : Host.Outcome State Fault Refusal := onClk extLoss s
def execPpsOutEdge (s : State) : Host.Outcome State Fault Refusal := onBoth ppsOut s

end Sys2Proof.Machine
end

