-- ==== Sys2Proof/Machine/Packets.lean ====
section
/-! DEFINITION. Packets that arrive at the module: signals, time, norm, reduction, parameters, tokens,
bulk data and their acknowledgement (R261, R288, R381 to R384, R388, R413 to R415, R423 to R427), and
EPOCH_ADVANCE (R386). -/

namespace Sys2Proof.Machine

/-- Whether the bytes a link writes would fall on a pinned byte: the packet waits (R136). -/
def linkHeld (m : Mod) (p va n : Nat) : Bool :=
  writeHeld m { reqOf m (.link (Fin.ofNat 18 p)) with part := some (portPart m p), phys := false } va n

/-- Whether the write of a BULK or PARAM packet is held. -/
def packetHeld (m : Mod) (p : Nat) (k : Packet) : Bool :=
  match k.typ.toNat with
  | 0x12 => (match lookShard m k.arg.toNat with
    | .ok (_, s) => linkHeld m p (s.paramVa.toNat + k.addr.toNat) (min 4096 (ifld k 0x20 4))
    | .error _ => false)
  | 0x30 => linkHeld m p k.addr.toNat (min 4096 k.arg.toNat)
  | _ => false

/-- Whether every earlier packet of the VC at the port is a held write of another transfer: such a write holds only its
own (R136). -/
def nextOfVc (m : Mod) (p : Nat) (k : Packet) : Bool :=
  (port m p).rxq.contains k
    && ((port m p).rxq.takeWhile fun x => x != k).all fun x => x.vc != k.vc || (packetHeld m p x && !sameUnit x k)

/-- The packet is the next of its VC at the port and of the row's type; it leaves the receive buffers
and its credits return (R403). -/
def arrived (typ p : Nat) (k : Packet) (m : Mod) : Option Mod :=
  if k.typ.toNat = typ ∧ nextOfVc m p k = true then
    some (modPort m p fun l => creditBack k.vc.val (1 + bodyFlits k) { l with
      rxq := l.rxq.erase k, stamps := l.stamps.filter fun x => x.1 != k.pseq })
  else none

/-- A packet row: what the packet does once it has arrived. -/
def onPacket (typ p : Nat) (k : Packet) (act : Clk → Mod → Mod) (t : Clk) (m : Mod) : Mod :=
  match arrived typ p k m with
  | none => m
  | some m1 => act t m1

/-! ## SIGNAL (R288, R516) -/

def signalIn (p : Nat) (k : Packet) (t : Clk) (m : Mod) : Mod :=
  let a := k.addr.toNat
  let d := a / 2 ^ 14 % 16
  let i := a % 2 ^ 14
  let o := syncObj m d i
  if a / 2 ^ 18 ≠ moduleNum m then packetLost t p k 0 m
  else if ¬ placePowered m (.sync d (16 * i)) then
    logErr t { reqOf m (.link (Fin.ofNat 18 p)) with part := some (portPart m p) } { typ := fAccess, reason := 0x37, addr := syncCell d i } m
  else if ¬ remoteOk o (portPart m p) k.arg.toNat then syncRefused t d i k.src.toNat (some (portPart m p)) m
  else if o.bad.isSome then m
  else applySignal t d i k.arg.toNat m

/-! ## Time (R415) -/

/-- When the first segment of a time packet entered the SerDes; now, for one that came without. -/
def enteredAt (p : Nat) (k : Packet) (t : Clk) (m : Mod) : W64 :=
  match (port m p).stamps.find? fun x => x.1 == k.pseq with
  | some x => x.2
  | none => t.sid

/-- TIME_REQ, its first segment entered at t2: answered by a TIME_RESP. -/
def timeReqIn (p : Nat) (k : Packet) (t2 : W64) (m : Mod) : Mod :=
  let r := packet m (portPart m p) 0x03 0 k.src.toNat 0 0 k.arg.toNat 0 (inlineOf [(0x20, toBe 8 t2.toNat)]) []
  sendOn m p { pkt := r, deps := [], task := none, works := [] }

/-- A packet that changes the time base. -/
def onTimePacket (typ p : Nat) (k : Packet) (act : Clk → Mod → Clk) (t : Clk) (m : Mod) : Clk × Mod :=
  match arrived typ p k m with
  | none => (t, m)
  | some m1 => (act t m1, m1)

def inl64 (k : Packet) : W64 := BitVec.ofNat 64 (ifld k 0x20 8)

/-! ## Packets of a layout's epoch (R388) -/

/-- Dropped, counted and logged at the receiving link die. -/
def epochDropAt (t : Clk) (p : Nat) (typ : Byte) (k : Packet) (m : Mod) : Mod :=
  linkLog t p typ (some (portPart m p)) k.arg.toNat k.epoch.toNat (countEpochDrop (portPart m p) m)

/-- Applied under the current or previous layout of the session's partition, held for the next, else
dropped. `old`: the layout is the previous one. -/
def byEpoch (t : Clk) (p : Nat) (k : Packet) (act : Layout → Bool → Mod → Mod) (m : Mod) : Mod :=
  let use := fun (l : Layout) (old : Bool) => if l.part = portPart m p then act l old m else packetLost t p k 0x48 m
  match epochAt m k.epoch.toNat with
  | .current l => use l false
  | .previous l => use l true
  | .future => modXch m fun x => { x with future := x.future ++ [(p, k, t.now)] }
  | .other => epochDropAt t p fEpochStale k m

/-- The ports of a link die with an arrival that it combines with a packet: the oldest of its VC at another port of
the partition (R380, R411). -/
def arrivalsWith (p : Nat) (k : Packet) (same : Packet → Packet → Bool) (m : Mod) : List (Nat × Packet) :=
  (List.range 18).filterMap fun q =>
    if q = p ∨ portDie q ≠ portDie p ∨ portPart m q ≠ portPart m p then none
    else match (port m q).rxq.find? fun x => x.vc == k.vc with
      | some y => if same k y then some (q, y) else none
      | none => none

/-- A packet taken in by another leaves its port; its credits return. -/
def takeIn (q : Nat) (k : Packet) (m : Mod) : Mod :=
  modPort m q fun l => creditBack k.vc.val (1 + bodyFlits k) { l with rxq := l.rxq.erase k }

/-- REDUCE packets that arrive from several ports, as one (R411): a packet of which only a part fits stays at its port. -/
def meetReduce (p : Nat) (k : Packet) (m : Mod) : Bundle × Mod :=
  (arrivalsWith p k sameReduce m).foldl (fun acc x =>
    match addRecs acc.1 (ifld x.2 0x20 1) (reduceRecs x.2) with
    | (b, []) => (b, takeIn x.1 x.2 acc.2)
    | _ => acc) (bundleOf k, m)

/-- Norm flits that arrive from several ports, as one (R380). -/
def meetNorm (p : Nat) (k : Packet) (m : Mod) : Packet × Mod :=
  (arrivalsWith p k sameNorm m).foldl (fun acc x => (addNorms acc.1 x.2, takeIn x.1 x.2 acc.2)) (k, m)

/-- NORM at the root (R381). -/
def normIn (p : Nat) (k : Packet) (t : Clk) (m : Mod) : Mod :=
  byEpoch t p k (fun l old m => match normSetOf l k.arg.toNat with
    | some s => if s.rootModule ≠ moduleNum m then packetLost t p k 0x48 m else
        let (n, m1) := meetNorm p k m
        normArrive t l old k.arg.toNat s (inl64 k) (BitVec.ofNat 32 (ifld n 0x28 4)) (ifld n 0x2C 4) (ifld n 0x30 4) m1
    | none => packetLost t p k 0x48 m) m

/-- NORM_RESULT: one of the two latest results of its set (R382). -/
def normResultIn (p : Nat) (k : Packet) (t : Clk) (m : Mod) : Mod :=
  byEpoch t p k (fun _ _ m => keepResult k.arg.toNat {
    dn := inl64 k, sum := BitVec.ofNat 32 (ifld k 0x28 4), arrivals := ifld k 0x2C 4, occ := ifld k 0x30 4 } m) m

/-- The owner's shard of a packet, and the part it names. -/
def ownedShard (m : Mod) (l : Layout) (k : Packet) : Option Shard :=
  match shardOf l k.arg.toNat with
  | some s => if s.ownerModule = moduleNum m ∧ s.kind ≠ 4 ∧ ifld k 0x22 2 < s.parts then some s else none
  | none => none

/-- REDUCE and REPORT at the owner (R372, R374); D is in bytes 0x28 to 0x2F. -/
def reduceIn (p : Nat) (k : Packet) (t : Clk) (m : Mod) : Mod :=
  byEpoch t p k (fun l old m => match ownedShard m l k with
    | some s =>
      let (b, m1) := meetReduce p k m
      ownerData t none l old k.arg.toNat s (BitVec.ofNat 64 (ifld k 0x28 8)) (ifld k 0x22 2) b.1 b.2 m1
    | none => packetLost t p k 0x48 m) m

def reportIn (p : Nat) (k : Packet) (t : Clk) (m : Mod) : Mod :=
  byEpoch t p k (fun l old m => match ownedShard m l k with
    | some s => ownerReport t l old k.arg.toNat s (BitVec.ofNat 64 (ifld k 0x28 8)) (ifld k 0x22 2) (ifld k 0x30 4)
        (bit (ifld k 0x24 1) 0) m
    | none => packetLost t p k 0x48 m) m

/-- A packet that was held: its row's effect, now that its epoch is current. -/
def epochPacket (p : Nat) (k : Packet) (t : Clk) (m : Mod) : Mod :=
  match k.typ.toNat with
  | 0x05 => normIn p k t m
  | 0x06 => normResultIn p k t m
  | 0x10 => reduceIn p k t m
  | _ => reportIn p k t m

/-- EPOCH_FUTURE_TIMEOUT: the i-th held packet has waited 65,536 ticks. -/
def futureTimeout (i : Nat) (t : Clk) (m : Mod) : Mod :=
  match m.xch.future[i]? with
  | none => m
  | some (p, k, at_) => if t.now < at_ + 65536 then m else
      epochDropAt t p fEpochFuture k (modXch m fun x => { x with future := x.future.eraseIdx i })

/-! ## EPOCH_ADVANCE (R386) -/

/-- The previous layout goes, the current becomes previous and the pending current. -/
def shiftLayouts (other : Bool) (x : Xch) : Xch :=
  let gone : Option Layout := x.previous
  { x with
    previous := x.current, current := x.pending, pending := none, advancing := other, future := []
    rounds := x.rounds.filter fun r => gone.all fun l => r.epoch != l.epoch
    pre := x.pre.filter fun r => gone.all fun l => r.epoch != l.epoch }

def epochBody (c : Cmd) (t : Clk) (m : Mod) : Mod :=
  let held := m.xch.future
  cmdDone t c (held.foldl (fun m x => epochPacket x.1 x.2.1 t m) (modXch m (shiftLayouts (otherAdvance m c))))

/-! ## PARAM (R383, R384) -/

/-- What is under way of a source's tile for a shard: its first packet has come; odd when a packet of it
was refused. -/
def paramState (m : Mod) (src sid : Nat) : Option Bool :=
  (m.xch.params.find? fun x => x.1 / 2 == src && x.2 == sid).map fun x => x.1 % 2 == 1

def setParam (src sid : Nat) (v : Option Bool) (m : Mod) : Mod :=
  modXch m fun x => { x with params := (x.params.filter fun y => !(y.1 / 2 == src && y.2 == sid)) ++
    (match v with | some b => [(2 * src + b2n b, sid)] | none => []) }


/-- A packet of a tile: written, and the arrival counter raised after its last (R383). -/
def paramIn (p : Nat) (k : Packet) (t : Clk) (m : Mod) : Mod :=
  let part := portPart m p
  let sid := k.arg.toNat
  let src := k.src.toNat
  match lookShard m sid with
  | .error r => packetLost t p k r m
  | .ok (l, s) =>
    if l.part ≠ part then packetLost t p k 0x48 m else
    let was := paramState m src sid
    let last := bit (ifld k 0x24 1) 0
    let bs := slice k.body 0 (min 4096 (ifld k 0x20 4))
    let (m1, e) := paramWrite t (.link (Fin.ofNat 18 p)) part (inDeviceSet m part (port m p).peer) s k.addr.toNat was.isNone bs m
    let refused := e.isSome || was == some true
    if last then (if refused then setParam src sid none m1 else arrivalSignal t part s (setParam src sid none m1))
    else setParam src sid (some refused) m1

/-! ## BULK and its acknowledgement (R413, R414, R557) -/

/-- A WRITE_ACK for n packets of a module. -/
def sendAck (p src n : Nat) (m : Mod) : Mod :=
  sendReply (portPart m p) (packet m (portPart m p) 0x07 0 src 0 0 n 0 [] []) m

/-- The write of a BULK packet at its destination; a bound page takes it only from a device of the set.
What is refused is logged here (log 41). -/
def bulkWrite (p : Nat) (k : Packet) (t : Clk) (m : Mod) : Mod :=
  let part := portPart m p
  let rq : Req := { reqOf m (.link (Fin.ofNat 18 p)) with part := some part, phys := false }
  let va := k.addr.toNat
  let n := min 4096 k.arg.toNat
  if boundRange m rq true va n ∧ ¬ inDeviceSet m part (port m p).peer then
    logErr t rq { typ := fAccess, reason := 0x74, addr := va, va := true } m
  else match writeMem t m rq va (slice k.body 0 n) false .clean with
    | (m1, some _) => m1
    | (m1, none) => fillPages m1 rq true va n

/-- BULK: the write, and a WRITE_ACK for every 16 of a source. -/
def bulkIn (p : Nat) (k : Packet) (t : Clk) (m : Mod) : Mod :=
  let src := k.src.toNat
  let m1 := bulkWrite p k t m
  let n := sget 0 (port m1 p).bulkSince src + 1
  if n < 16 then modPort m1 p fun l => { l with bulkSince := sset 0 l.bulkSince src n }
  else sendAck p src 16 (modPort m1 p fun l => { l with bulkSince := sset 0 l.bulkSince src 0 })

/-- BULK_PAUSE: the packets before a pause of 1 µs are acknowledged. -/
def bulkPause (p : Nat) (m : Mod) : Mod :=
  (port m p).bulkSince.foldl (fun m x => sendAck p x.1 x.2 m) (modPort m p fun l => { l with bulkSince := [] })

/-! ## The rows -/

def execSignal (p : Port) (k : Packet) (s : State) : Host.Outcome State Fault Refusal := onPort (onPacket 0x01 p.val k (signalIn p.val k)) s
def execTimeReq (p : Port) (k : Packet) (s : State) : Host.Outcome State Fault Refusal := 
  onPort (fun t m => onPacket 0x02 p.val k (fun _ m1 => timeReqIn p.val k (enteredAt p.val k t m) m1) t m) s
def execTimeResp (p : Port) (k : Packet) (s : State) : Host.Outcome State Fault Refusal :=
  onLink (fun t m => onTimePacket 0x03 p.val k (fun c m1 => timeResp p.val k.arg.toNat (inl64 k) (enteredAt p.val k t m) c m1) t m) s
def execTimeFollow (p : Port) (k : Packet) (s : State) : Host.Outcome State Fault Refusal :=
  onLink (onTimePacket 0x04 p.val k fun c m => timeFollow p.val k.arg.toNat (inl64 k) c m) s
def execNorm (p : Port) (k : Packet) (s : State) : Host.Outcome State Fault Refusal := onPort (onPacket 0x05 p.val k (normIn p.val k)) s
def execNormResult (p : Port) (k : Packet) (s : State) : Host.Outcome State Fault Refusal :=
  onPort (onPacket 0x06 p.val k (normResultIn p.val k)) s
def execWriteAck (p : Port) (k : Packet) (s : State) : Host.Outcome State Fault Refusal :=
  onPort (onPacket 0x07 p.val k fun t m => ackBulk t (portPart m p.val) k.src.toNat k.arg.toNat m) s
def execReduce (p : Port) (k : Packet) (s : State) : Host.Outcome State Fault Refusal := onPort (onPacket 0x10 p.val k (reduceIn p.val k)) s
def execReport (p : Port) (k : Packet) (s : State) : Host.Outcome State Fault Refusal := onPort (onPacket 0x11 p.val k (reportIn p.val k)) s
def execParam (p : Port) (k : Packet) (s : State) : Host.Outcome State Fault Refusal :=
  onPort (fun t m => if packetHeld m p.val k then m else onPacket 0x12 p.val k (paramIn p.val k) t m) s
def execToken (p : Port) (k : Packet) (s : State) : Host.Outcome State Fault Refusal :=
  onPort (onPacket 0x20 p.val k fun t m => arriveAt t p.val (portPart m p.val) k none m) s
def execTokenRet (p : Port) (k : Packet) (s : State) : Host.Outcome State Fault Refusal :=
  onPort (onPacket 0x21 p.val k fun t m => arriveAt t p.val (portPart m p.val) k none m) s
def execTokenDrop (p : Port) (k : Packet) (s : State) : Host.Outcome State Fault Refusal :=
  onPort (onPacket 0x22 p.val k fun t m => arriveAt t p.val (portPart m p.val) k none m) s
def execTokenEnd (p : Port) (k : Packet) (s : State) : Host.Outcome State Fault Refusal :=
  onPort (onPacket 0x23 p.val k fun t m => arriveAt t p.val (portPart m p.val) k none m) s
def execBulk (p : Port) (k : Packet) (s : State) : Host.Outcome State Fault Refusal :=
  onPort (fun t m => if packetHeld m p.val k then m else onPacket 0x30 p.val k (bulkIn p.val k) t m) s
def execBulkPause (p : Port) (s : State) : Host.Outcome State Fault Refusal := onPort (fun _ m => bulkPause p.val m) s
def execEpochFutureTimeout (i : Nat) (s : State) : Host.Outcome State Fault Refusal := onPort (futureTimeout i) s
def execEpochAdvance (sq : RingId) (tag : BitVec 16) (s : State) : Host.Outcome State Fault Refusal := cmdRow 0x31 epochBody sq tag s

end Sys2Proof.Machine
end

