-- ==== Sys2Proof/Machine/Reset.lean ====
section
/-! DEFINITION. Resets (R600 to R602, R607, R608, R620): input power, PERST#, the module resets, the
reset of a VF; and the protective halt (R523, R524). -/

namespace Sys2Proof.Machine

/-! ## Which firmware bank runs (R608, R610) -/

/-- A bank verifies and its version is not below the fused minimum. -/
def bankOk (k : FwKind) (b : Bool) : Bool := (if b then k.okB else k.okA) && decide (k.fused ≤ if b then k.verB else k.verA)

/-- The bank a kind boots: one that STAGE has written, else the active one; when it fails, the other. -/
def bootBank (k : FwKind) : Option Bool :=
  let first := if k.staged then !k.activeB else k.activeB
  if bankOk k first then some first else if bankOk k (!first) then some (!first) else none

/-- The mark is rewritten once the staged image runs. -/
def bootKind (k : FwKind) : FwKind :=
  match bootBank k with
  | none => k
  | some b =>
    let r := { k with runningB := b, runVer := if b then k.verB else k.verA, moved := [] }
    if k.staged ∧ b ≠ k.activeB then { r with activeB := b, staged := false } else r

/-- The units of an image kind: HN, HS, compute, link, media and tier dies. -/
def fwUnits (k : Nat) : Nat := ([1, 1, 16, 4, 6, 4][k]?).getD 1

/-- A unit runs the staged image, at its start-up or by FW_ACTIVATE; once every unit of the kind does, the mark is rewritten
(R610). A bank that the fused minimum has passed does not run (R611). -/
def runStaged (k index : Nat) (x : FwKind) : FwKind :=
  if ¬ x.staged ∨ ¬ bankOk x (!x.activeB) then x else
  let units := (index :: x.moved).dedup
  if units.length < fwUnits k then { x with moved := units }
  else
    let b := !x.activeB
    { x with activeB := b, runningB := b, runVer := if b then x.verB else x.verA, staged := false, moved := [] }

/-- The banks of the dies' kinds at the start of HS: the active one, or the other where that fails; each unit takes a staged
image as it powers up (R608, R610). -/
def bootDies (x : FwKind) : FwKind := { bootKind { x with staged := false } with staged := x.staged }

/-- A reset before the mark has moved, while some units run the staged image or an activation of it is under way, leaves the
previous bank to boot (R610, R616); the staged image is given up (DEDUCED, log 71). -/
def resetKind (m : Mod) (k : Nat) (x : FwKind) : FwKind :=
  let started := m.hub.svc.any fun s => s.2.busy && s.2.op == 1 && s.2.kind == k + 1
  { x with staged := x.staged && x.moved.isEmpty && !started, moved := [] }

def fwKind (m : Mod) (k : Nat) : FwKind := sget {} m.hub.fw k
def modFw (m : Mod) (k : Nat) (f : FwKind → FwKind) : Mod := modHub m fun h => { h with fw := smod {} h.fw k f }

/-! ## Module reset -/

/-- Host memory, which is not the module's. -/
def hostCells (m : Mod) : List Host.Cell := m.mem.cells.filter fun kv => decide (hostBase ≤ kv.1)

/-- The module after a reset: fuses, firmware store, Almanac and the log of HN are kept; HN is in its boot ROM; fresh keys
are drawn (R601, R607). -/
def resetMod (m : Mod) : Mod :=
  { modReset with
    hub := { hubReset with
      input := m.hub.input
      booted := false
      perst := m.hub.perst
      pcie := m.hub.pcie
      fw := m.hub.fw.map fun x => (x.1, resetKind m x.1 x.2)
      slotId := m.hub.slotId
      poh := m.hub.poh
      pohAt := m.hub.pohAt }
    pwr := { pwrReset with almanac := m.pwr.almanac, floors := m.pwr.floors }
    sec := { secReset with keys := m.sec.keys + 1, moduleKey := m.sec.keys }
    logs := m.logs.filter fun kv => kv.1 == logHN
    mem := { cells := hostCells m, lines := [], poison := [], keep := [] }
    out := m.out
    nextId := m.nextId
    draw := m.draw + 1 }

/-- HN's firmware runs: from its active bank, else the other, else HN stays in the boot ROM in recovery mode (R601, R608). -/
def bootHn (m : Mod) : Mod :=
  modHub m fun h => { h with booted := true, recovery := (bootBank (fwKind m 0)).isNone, fw := smod {} h.fw 0 bootKind }

/-- The boot ROM has done its steps: at a moment that the manual does not fix, within 400 ms (R601, R602; log 46). -/
def bootEnd (t : Clk) (m : Mod) : Mod := if m.hub.input ∧ ¬ m.hub.booted ∧ m.hub.bootAt ≤ t.now then bootHn m else m

/-- The time base with HS off (R514). -/
def resetClk (c : Clk) : Clk := { clkReset with now := c.now }

def moduleReset (c : Clk) (m : Mod) : Clk × Mod :=
  (resetClk c, modHub (resetMod m) fun h => { h with bootAt := c.now + Config.bootTicks m.draw % 640000001 })

/-! ## Input power and PERST# -/

/-- The input rises above 35.0 V (R600, R644): SLOT_ID is read (R642), log 272 starts anew too (R620), and no floor is measured yet (R526). -/
def powerOn (c : Clk) (m : Mod) : Clk × Mod :=
  if m.hub.input then (c, m) else moduleReset c { modPwr (modHub m fun h => { h with input := true, pohAt := c.now, slotId := Config.slotStrap m.draw }) (fun p => { p with floors := [] }) with logs := [] }

/-- The input is lost: everything but the fuses, the firmware store and the Almanac. -/
def powerLoss (c : Clk) (m : Mod) : Clk × Mod :=
  if ¬ m.hub.input then (c, m) else moduleReset c { modHub m fun h => { h with
    input := false, pcie := none, poh := h.poh + (c.now - h.pohAt), pohAt := c.now } with logs := [] }

/-- PERST# falls: one module reset, and the link goes (R607, R642). -/
def perstLow (c : Clk) (m : Mod) : Clk × Mod :=
  if m.hub.perst then (c, m) else moduleReset c (modHub m fun h => { h with perst := true, pcie := none })

/-- The widest link width within a width offered, and the generation within 7.0 (R472). -/
def linkWidth (w : Nat) : Nat := ([16, 8, 4, 2].find? fun x => decide (x ≤ w)).getD 1

/-- FLIT mode, at 6.0 and 7.0 only (R472). -/
def flitMode (m : Mod) : Bool := m.hub.pcie.any fun x => decide (6 ≤ x.1)

/-- The static address of the management target (R642). -/
def mgmtAddress (m : Mod) : Nat := 0x40 + m.hub.slotId.toNat

def perstHigh (gen width : Nat) (m : Mod) : Mod :=
  if ¬ m.hub.perst then m
  else modHub m fun h => { h with perst := false, pcie := if gen = 0 ∨ width = 0 then none else some (min 7 gen, linkWidth width) }

/-! ## Protective halt -/

/-- What a halt leaves of a partition: its registers' view, and no key (R544). -/
def haltPart (p : PartSt) : PartSt := { ({} : PartSt) with reason := p.reason, scrub := p.scrub }

/-- Registers that HN holds; those of HS and of the other dies are lost (R512, R524). -/
def hubRegister (off : Nat) : Bool := decide (off < 0x400000) || (decide (0x500000 ≤ off) && decide (off < 0x800000))

/-- The module with every regulator but the auxiliary one off: HN's registers and the Almanac stand,
commands never complete, TRIP# is low (R523, R524, R642). -/
def unpowered (m : Mod) : Mod :=
  let m1 := setBit m rPwrCmd 0 false
  { modReset with
    bar0 := m1.bar0.filter fun kv => hubRegister kv.1
    hub := { m1.hub with svc := m1.hub.svc.map fun s => (s.1, { s.2 with busy := false }), rails := [] }
    pwr := { m1.pwr with walk := none, tripped := true, hot := m1.pwr.hot.filter (· == 16), govs := [], rail := m1.pwr.rail.filter (·.1 == 16), refresh := [] }
    sec := m1.sec
    logs := m1.logs.filter fun kv => kv.1 == logHN
    mem := { cells := hostCells m1, lines := [], poison := [], keep := [] }
    rings := m1.rings.map fun r => (r.1, { r.2 with waiting := [] })
    cmds := m1.cmds.map fun c => { c with st := .retired }
    parts := m1.parts.map fun p => (p.1, haltPart p.2)
    tripPin := true
    out := m1.out
    nextId := m1.nextId
    draw := m1.draw }

/-- A protective halt with its entry in HN's log (R570); a halted module does not halt again. -/
def tripped (e : FEntry) (c : Clk) (m : Mod) : Clk × Mod :=
  if m.pwr.tripped ∨ ¬ m.hub.input then (c, m) else (resetClk c, unpowered (logFault c logHN e m))

/-! ## VF reset -/

/-- An incomplete command of a VF ends with no entry: what it moves ends as under an ABORT. -/
def endQuietly (m : Mod) (c : Cmd) : Mod :=
  let m1 := match c.st with
    | .accepted _ (some (g, id)) => returnResv m g id
    | .started => abortEffect c m
    | _ => m
  let m2 := if c.op = 0x31 ∧ c.st ≠ .retired then modXch m1 fun x => { x with advancing := otherAdvance m1 c } else m1
  if c.op = 0x21 ∧ (gatherOf m2 (carg c 0x10 1)).busy then
    modGather (gatherClose clkReset m2 (carg c 0x10 1) c.part (gatherOf m2 (carg c 0x10 1)) false) (carg c 0x10 1) fun _ => {}
  else m2

/-- The rings of a function are disabled. -/
def closeRings (f : Nat) (m : Mod) : Mod :=
  (List.range 1024).foldl (fun m n =>
    let m1 := if sqOwner m n = f ∧ sqEn m n then setBit m (rSq n + 0x10) 0 false else m
    if cqOwner m1 n = f ∧ cqEn m1 n then setBit m1 (rCq n + 0x10) 0 false else m1) m

/-- Every task of a partition's program ends issue with no fault entry (R138). -/
def stopTasks (k : Nat) (m : Mod) : Mod :=
  match (partSt m k).prog with
  | none => m
  | some p => p.taskIds.foldl (fun m tk =>
      let x := ctx m (tk / 4) (tk % 4)
      if x.st = .finished ∨ x.st = .faulted ∨ x.st = .empty then m
      else dropCollects (resetQueues (stopTask m tk .faulted none) tk) tk) m

/-- Armed BREAKs of some rings are gone. -/
def dropBreaks (gone : Nat → Bool) (m : Mod) : Mod :=
  { m with
    coreBreaks := m.coreBreaks.filter fun b => !gone b.sq
    eng := (m.eng.map fun e => (e.1, { e.2 with breaks := e.2.breaks.filter fun b => !gone b.sq })).filter fun e => e.2 != {} }

/-- FLR of VF(k + 1) (R607). -/
def vfReset (k : Nat) (m : Mod) : Mod :=
  let f := k + 1
  let mine := fun (n : Nat) => sqOwner m n == f
  let cs := m.cmds.filter fun c => mine c.sq
  let m1 := dropBreaks mine (stopTasks k (cs.foldl endQuietly m))
  let m2 := { m1 with
    cmds := m1.cmds.filter fun c => !mine c.sq
    rings := (m1.rings.map fun r => (r.1, if mine r.1 then { r.2 with waiting := [] } else r.2)).filter fun r => r.2 != {} }
  modHub (closeRings f m2) fun h => { h with
    masked := h.masked.filter fun x => x.1 / 2048 != f
    msixPend := h.msixPend.filter fun x => x.1 / 2048 != f }

/-! ## The rows -/

def execPowerOn (s : State) : Host.Outcome State Fault Refusal := onBoth powerOn s
def execInputPowerLoss (s : State) : Host.Outcome State Fault Refusal := onBoth powerLoss s
def execPerstAssert (s : State) : Host.Outcome State Fault Refusal := onBoth perstLow s
def execPerstDeassert (gen : Fin 8) (width : Fin 17) (s : State) : Host.Outcome State Fault Refusal :=
  onMod (fun _ m => perstHigh gen.val width.val m) s
def execPcieHotReset (s : State) : Host.Outcome State Fault Refusal := onBoth moduleReset s
def execPf0Flr (s : State) : Host.Outcome State Fault Refusal := onBoth moduleReset s
def execModuleResetWrite (f : Func) (s : State) : Host.Outcome State Fault Refusal := onBoth (gatedBoth f.val 0x20 moduleReset) s
def execVfReset (k : Part) (s : State) : Host.Outcome State Fault Refusal := onAll (fun _ m => vfReset k.val m) s

end Sys2Proof.Machine
end

