-- ==== Sys2Proof/Machine/Power.lean ====
section
/-! DEFINITION. Power (chapter 16): POWER_CMD and its check (R519 to R521), the steps of a walk (R512 to
R518, R604, R605, R653, R654), protective trips (R523, R543), thermal warnings (R525), the Almanac and
the guardband (R532 to R536), the refresh loop (R538, R539). -/

namespace Sys2Proof.Machine

/-! ## What a change alters -/

/-- A change: scope 0 MODULE, 1 DIE, 2 PORT, 3 LIMITS. -/
structure PowerOp where
  scope : Nat
  unit : Nat
  target : Nat
  deriving DecidableEq, Repr

def readPower (v : Nat) : PowerOp where
  scope := bits v 2 2
  unit := bits v 8 5
  target := bits v 16 3

/-- The module with the change made. -/
def targetMod (x : PowerOp) (m : Mod) : Mod :=
  match x.scope with
  | 0 => modPwr m fun p => { p with state := msOf x.target }
  | 1 => modPwr m fun p => { p with dieCmd := sset 0 p.dieCmd x.unit x.target }
  | 2 => modPwr m fun p => { p with portCmd := sset 0 p.portCmd x.unit x.target }
  | _ => m

/-- Compute dies whose state becomes less active, from below a level to that level or beyond (R517). -/
def diesDown (m after : Mod) (level : Nat) : List Nat :=
  (List.range 16).filter fun n => decide (dieState m n < level) && decide (level ≤ dieState after n)

def portsDown (m after : Mod) (level : Nat) : List Nat :=
  (List.range 18).filter fun p => decide (portState m p < level) && decide (level ≤ portState after p)

/-- A commanded state that crosses a level, whatever the module's state makes of it (R517, R520). -/
def crosses (scope now level : Nat) (x : PowerOp) : Bool := x.scope == scope && decide (now < level) && decide (level ≤ x.target)

/-- Compute dies that a change takes to a level or beyond, by their state or their commanded state. -/
def diesTo (m : Mod) (x : PowerOp) (level : Nat) : List Nat :=
  (List.range 16).filter fun n => (diesDown m (targetMod x m) level).contains n
    || (x.unit == n && crosses 1 (sget 0 m.pwr.dieCmd n) level x)

/-! ## The check of POWER_CMD.GO (R520) -/

def floorOf (m : Mod) (s : Nat) : Nat := sget (Config.floorWatts s) m.pwr.floors s

def powerMissing (m : Mod) (x : PowerOp) : Bool :=
  let late := decide (msNum m.pwr.state ≥ 3)
  match x.scope with
  | 0 => decide (x.target > 4)
  | 1 => decide (x.unit > 15) || decide (x.target > 3) || late
  | 2 => decide (x.unit > 17) || decide (x.target > 2) || late
  | _ => false

/-- Limit and budgets; a leave unit is 0.5 W. -/
def powerOver (m : Mod) (x : PowerOp) : Bool :=
  let limit := regF m rPwrLimit 0 13
  let sum := ((List.range 22).map fun u => regF m (rPwrBudget u) 0 16).foldl (· + ·) 0
  decide (limit > 5200) || decide (2 * floorOf m (if x.scope = 0 then x.target else msNum m.pwr.state) + sum > 2 * limit)

def railsBad (m : Mod) : Bool := (List.range 32).any fun d =>
  let lo := Config.vMinFused d % 1024
  let hi := Config.vMaxFused d % 1024
  let a := regF m (rPwrVmin d) 0 10
  let b := regF m (rPwrVmax d) 0 10
  decide (a < lo) || decide (a > hi) || decide (b < lo) || decide (b > hi) || decide (a > b)

def progRuns (m : Mod) (k : Nat) : Bool :=
  match (partSt m k).prog with
  | some p => p.started && !p.finished
  | none => false

def meets (a b : List Nat) : Bool := a.any fun x => b.contains x

/-- Work on the dies concerned: leave held, a program started, a command of the partition incomplete. -/
def workOn (m : Mod) (dies govs : List Nat) : Bool :=
  let ks := (List.range 8).filter fun k => meets (partDies m k) dies
  govs.any (fun g => held (gov m g) != 0) || ks.any (progRuns m) || m.cmds.any fun c => c.part.any fun k => ks.contains k

def loadedOn (m : Mod) (dies : List Nat) : Bool :=
  (List.range 8).any fun k => meets (partDies m k) dies && (partSt m k).prog.isSome

def streamBusy (m : Mod) : Bool := m.media.any fun d => d.2.slots.any fun s =>
  s.2.st == .opn || s.2.st == .paused || s.2.st == .draining

def scrubRuns (m : Mod) : Bool := m.parts.any fun p => p.2.scrub.isSome

def enabledOn (m : Mod) (dies : List Nat) : Bool := (List.range 8).any fun k => partEn m k && meets (partDies m k) dies

/-- A unit of a service operation that the change powers down. -/
def unitDown (after : Mod) (kind index : Nat) : Bool :=
  let ms := msNum after.pwr.state
  match kind with
  | 2 | 6 | 9 => decide (ms ≥ 4)
  | 3 => decide (dieState after index ≥ 2)
  | 4 | 5 => decide (ms ≥ 3)
  | 7 => portState after index == 2
  | 8 => dieState after index == 3
  | 10 => if index < 16 then decide (dieState after index ≥ 2) else if index < 22 then decide (ms ≥ 4) else decide (ms ≥ 3)
  | _ => false

/-- A port has a flit in progress or unacknowledged. -/
def flitsOut (m : Mod) (p : Nat) : Bool :=
  let l := port m p
  !l.unacked.isEmpty || !l.sending.isEmpty || !l.resend.isEmpty

/-- The same, or it has sent a packet in part. -/
def flitsOwed (m : Mod) (p : Nat) : Bool :=
  let l := port m p
  flitsOut m p || [0, 1, 2, 3].any fun v => (l.flits.find? fun f => f.vc == v).any fun f => f.head == 0

/-- A port has a flit, or a packet sent in part, or a BULK packet, unacknowledged (R520). -/
def portOwes (m : Mod) (p : Nat) : Bool :=
  flitsOwed m p || m.bulkOut.any fun b =>
    match route m b.part b.dst with
    | .ok q => q == p
    | .error _ => false

def serviceOnDown (m after : Mod) : Bool := m.hub.svc.any fun s => s.2.busy && unitDown after s.2.kind s.2.index && !unitDown m s.2.kind s.2.index

/-- A live FW_ACTIVATE of HS runs (R614). -/
def hsBusy (m : Mod) : Bool := svcRuns m 1 2 0

/-- The blocking conditions. -/
def powerBlocked (m : Mod) (x : PowerOp) : Bool :=
  let after := targetMod x m
  let govs := fun (dies : List Nat) => if x.scope = 0 then List.range 22 else dies
  let leave := diesTo m x 1
  let retain := diesTo m x 2
  let off := if x.scope = 0 then diesDown m after 3 else diesTo m x 2 ++ diesTo m x 3
  hsBusy m || serviceOnDown m after
    || (x.scope == 0 && decide (msNum m.pwr.state < 1) && decide (1 ≤ x.target) && workOn m (List.range 16) (List.range 22))
    || (!leave.isEmpty && workOn m leave (govs leave))
    || (!retain.isEmpty && (workOn m retain (govs retain) || loadedOn m retain || streamBusy m || scrubRuns m))
    || (x.scope == 0 && decide (msNum m.pwr.state < 2) && decide (2 ≤ x.target)
        && (workOn m (List.range 16) (List.range 22) || loadedOn m (List.range 16) || streamBusy m || scrubRuns m))
    || (x.scope == 0 && decide (msNum m.pwr.state < 3) && decide (3 ≤ x.target) && enabledOn m (List.range 16))
    || enabledOn m off
    || (portsDown m after 1).any (portOwes m)
    || (crosses 2 (sget 0 m.pwr.portCmd x.unit) 1 x && portOwes m x.unit)

def powerErr (m : Mod) (x : PowerOp) (tripHolds : Bool) : Option Byte :=
  if m.pwr.tripped ∧ (x.scope ≠ 0 ∨ x.target ≠ 4 ∨ tripHolds) then some 0x36
  else if powerMissing m x then some 0x32
  else if powerOver m x then some 0x33
  else if railsBad m then some 0x34
  else if powerBlocked m x then some 0x35
  else none

/-! ## What takes effect -/

/-- The staged values in effect (R519, R630). -/
def applyStaged (m : Mod) : Mod :=
  modPwr m fun p => { p with
    limit := regF m rPwrLimit 0 13
    budget := (List.range 22).foldl (fun t u => sset 0 t u (regF m (rPwrBudget u) 0 16)) p.budget
    vmin := (List.range 32).foldl (fun t d => sset (Config.vMinFused d % 1024) t d (regF m (rPwrVmin d) 0 10)) p.vmin
    vmax := (List.range 32).foldl (fun t d => sset (Config.vMaxFused d % 1024) t d (regF m (rPwrVmax d) 0 10)) p.vmax
    refMax := (List.range 16).foldl (fun t n => sset 8 t n (regF m (rPwrRefMax n) 0 8)) p.refMax }

/-- The place a walk stands at. -/
def walkAt (m : Mod) (w : Walk) : Nat :=
  match w.scope with
  | 0 => msNum m.pwr.state
  | 1 => sget 0 m.pwr.dieCmd w.unit
  | 2 => sget 0 m.pwr.portCmd w.unit
  | _ => w.target

/-- GO clears and PF0 is told (R521). -/
def endWalk (m : Mod) : Mod :=
  sendMsix 0 (regF m rPwrCtrl 0 11) (modPwr (setBit m rPwrCmd 0 false) fun p => { p with walk := none })

def settleWalk (w : Walk) (m : Mod) : Mod := if walkAt m w = w.target then endWalk m else m

/-- A write of PWR_CMD: its fields, then GO (R506, R521). A trip ended by the command is a module reset
(R524). -/
def powerWrite (scope f v : Nat) (tripHolds : Bool) (c : Clk) (m : Mod) : Clk × Mod :=
  let m1 := storeFields f rPwrCmd v m
  let x := readPower v
  if ¬ bit v 0 ∨ x.scope ≠ scope ∨ regB m rPwrCmd 0 then (c, m1)
  else match powerErr m1 x tripHolds with
    | some r => (c, modPwr m1 fun p => { p with reason := r })
    | none =>
      if m1.pwr.tripped then moduleReset c m1 else
      let w : Walk := { scope := x.scope, unit := x.unit, target := x.target }
      (c, settleWalk w (modPwr (setBit (applyStaged m1) rPwrCmd 0 true) fun p => { p with reason := 0, walk := some w }))

/-- In recovery mode every POWER_CMD is refused with 0x32 (R608). -/
def powerCmd (scope f v : Nat) (tripHolds : Bool) (c : Clk) (m : Mod) : Clk × Mod :=
  if m.hub.recovery ∧ hnUp m ∧ f = 0 then
    (c, if bit v 0 ∧ bits v 2 2 = scope then modPwr m fun p => { p with reason := 0x32 } else m)
  else gatedBoth f rPwrCmd (powerWrite scope f v tripHolds) c m

/-! ## The steps of a walk -/

def dropCells (keep : Nat → Bool) (m : Mod) : Mod :=
  { m with mem := { m.mem with
      cells := m.mem.cells.filter fun kv => keep kv.1
      poison := m.mem.poison.filter fun kv => keep (64 * kv.1)
      lines := m.mem.lines.filter fun kv => keep (256 * kv.1) } }

/-- An address in the SRAM of a compute die. -/
def inSram (n a : Nat) : Bool :=
  match place a with
  | .pool d _ => d == n
  | .pad g _ => g / 16 == n
  | .sync d _ => d == n
  | _ => false

def inStack (n a : Nat) : Bool :=
  match place a with
  | .hbm d _ => d == n
  | _ => false

def inTier (a : Nat) : Bool :=
  match place a with
  | .tier _ _ => true
  | _ => false

/-- An engine after the power-up of its die: its registers alone are kept (R607, R634). -/
def resetEngine (e : Engine) : Engine := {
  ctx := (e.ctx.map fun c => (c.1, ({ skip := c.2.skip } : Ctx))).filter fun c => c.2 != {}
  dq := (e.dq.map fun q => (q.1, ({ late := q.2.late, fallback := q.2.fallback, skip := q.2.skip } : DmaQ))).filter fun q => q.2 != {}
  breaks := e.breaks
  ecnt := e.ecnt
  shadow := e.shadow }

/-- A compute die enters DS2: its SRAM, sync file and queues are lost, its engines start anew. -/
def dieLost (m : Mod) (n : Nat) : Mod :=
  { dropCells (fun a => !inSram n a) m with
    eng := (m.eng.map fun ge => if ge.1 / 16 = n then (ge.1, resetEngine ge.2) else ge).filter fun ge => ge.2 != {}
    sync := m.sync.filter fun kv => kv.1 / 16384 != n
    syncQ := m.syncQ.filter fun kv => kv.1 != n
    hqs := m.hqs.filter fun kv => kv.1 / 512 != n
    hqQ := m.hqQ.filter fun kv => kv.1 != n
    coresHalted := m.coresHalted.filter fun c => c / 4 != n }

/-- A stack is off: every line is marked when it is next trained (R605). -/
def stackLost (m : Mod) (n : Nat) : Mod := dropCells (fun a => !inStack n a) m

/-- Link, media and hub contents that MS3 does not keep: phase maps, layouts and rounds (R512). -/
def enterMs3 (m : Mod) : Mod := { m with banks := [], exp := [], xch := xchReset }

/-- HS and the tier dies are off: only HN's registers and the Almanac stay; no key survives (R512,
R544). -/
def enterMs4 (m : Mod) : Mod :=
  { dropCells (fun a => !inTier a) m with
    bar0 := m.bar0.filter fun kv => hubRegister kv.1
    mem := { (dropCells (fun a => !inTier a) m).mem with keep := [] }
    regions := []
    regQ := []
    gather := []
    eng := []
    links := []
    media := []
    wdog := []
    logs := m.logs.filter fun kv => kv.1 == logHN
    hub := { m.hub with rails := [] }
    pwr := { m.pwr with rail := m.pwr.rail.filter (·.1 == 16), refresh := [], hot := m.pwr.hot.filter (· == 16) }
    parts := m.parts.map fun p => (p.1, { p.2 with enrolled := [], boundSet := [], ownerKem := [], boundNow := false })
    sec := { m.sec with unlocks := [] } }

/-- HS starts: dies boot their firmware, the module's keys are drawn (R513, R550, R608, R610). -/
def leaveMs4 (m : Mod) : Mod :=
  let m1 := [1, 2, 3, 4, 5].foldl (fun m k => modFw m k bootDies) m
  { m1 with sec := { m1.sec with keys := m1.sec.keys + 1, moduleKey := m1.sec.keys } }

/-- The units that a change powers up, as image kind and number (R513, R653). -/
def unitsUp (before after : Mod) : List (Nat × Nat) :=
  let a := msNum before.pwr.state
  let b := msNum after.pwr.state
  (if a = 4 ∧ b = 3 then (1, 0) :: (List.range 4).map fun i => (5, i) else [])
    ++ (if 3 ≤ a ∧ b ≤ 2 then (List.range 4).map (fun i => (3, i)) ++ (List.range 6).map (fun i => (4, i)) else [])
    ++ ((List.range 16).filter fun n => decide (2 ≤ dieState before n) && decide (dieState after n ≤ 1)).map fun n => (2, n)

/-- What the change of a state brings with it. -/
def powerEffects (t : Clk) (before after : Mod) : Mod :=
  let m1 := (diesDown before after 2).foldl dieLost after
  let m2 := (diesDown before after 3).foldl stackLost m1
  let m3 := (portsDown before after 2).foldl (fun m p => portDown t p 0 m) m2
  let a := msNum before.pwr.state
  let b := msNum after.pwr.state
  let m4 := if a = 2 ∧ b = 3 then enterMs3 m3 else if a = 3 ∧ b = 4 then enterMs4 m3 else if a = 4 ∧ b = 3 then leaveMs4 m3 else m3
  (unitsUp before after).foldl (fun m u => modFw m u.1 (runStaged u.1 u.2)) m4

/-- Sidereal time over a module step: it starts at 0 with HS, and stops with it; in MS3 a LOCKED module
is in HOLDOVER (R247, R514). A root without external inputs is LOCKED again above MS3, one with an input after 16 seconds
of it (R266, R267). -/
def clkEffects (before after : Mod) (c : Clk) : Clk :=
  let a := msNum before.pwr.state
  let b := msNum after.pwr.state
  if a = 4 ∧ b = 3 then { resetClk c with running := true }
  else if a = 3 ∧ b = 4 then resetClk c
  else if b = 3 ∧ c.sync = .locked then { c with sync := .holdover, good := 0, steer := 0, steerRef := 0, extGood := 0, refGood := 0 }
  else if a = 3 ∧ b = 2 ∧ c.sync = .holdover ∧ syncEn after ∧ timeRoot after ∧ ¬ rootWith after 2 ∧ ¬ rootWith after 3 then
    { c with sync := .locked }
  else c

/-- A verification or training that failed three times (R604): which steps can fail. -/
def stepFails (m : Mod) (w : Walk) : Bool :=
  let s := walkAt m w
  w.target < s && ((w.scope == 0 && decide (s ≥ 3)) || (w.scope == 1 && s == 3))

/-- The failing unit's log records an entry: a failed image as SECURITY, else as LINK training. -/
def bootFault (t : Clk) (u : Nat) (r : Byte) (m : Mod) : Mod :=
  let l := dieLog u
  let image := [0x70, 0x71, 0x72, 0x76].contains r
  logFault t l.1 { kind := l.2.1, index := l.2.2, typ := if image then fSecurity else fLink, reason := r, info := 3 } m

/-- The walk stops where it stands (R604). -/
def walkFailed (t : Clk) (u : Nat) (r : Byte) (m : Mod) : Mod :=
  bootFault t u r (modPwr (modHub (setBit m rPwrCmd 0 false) fun h => { h with bootFail := some (u, r) }) fun p => { p with walk := none })

/-- One step towards the target. -/
def stepOf (m : Mod) (w : Walk) : PowerOp :=
  let s := walkAt m w
  { scope := w.scope, unit := w.unit, target := if w.scope = 2 then w.target else if s < w.target then s + 1 else s - 1 }

/-- POWER_WALK_STEP_DONE, with the floor measured at the entry of a module state (R526). -/
def walkStep (fail : Option (Fin 32 × Byte)) (watts : Nat) (c : Clk) (m : Mod) : Clk × Mod :=
  match m.pwr.walk with
  | none => (c, m)
  | some w =>
    match fail, stepFails m w with
    | some (u, r), true => if reasonOk r then (c, walkFailed c u.val r m) else (c, m)
    | _, _ =>
      let after := targetMod (stepOf m w) m
      let m1 := powerEffects c m after
      let m2 := if w.scope = 0 then modPwr m1 fun p => { p with
          floors := let s := msNum p.state; sset (Config.floorWatts s) p.floors s watts } else m1
      (clkEffects m after c, settleWalk w m2)

/-! ## Protective trips -/

/-- The measured value of R576. -/
def measured (index : Nat) (v : Int) : W64 := BitVec.ofNat 64 (2 ^ 32 * (index % 256) + twos 32 v)

def tripEntry (kind index typ : Byte) (addr : W64) (info : Nat) : FEntry :=
  { kind := kind, index := index, typ := typ, addr := addr, info := BitVec.ofNat 64 info }

def tripIf (b : Bool) (e : FEntry) (c : Clk) (m : Mod) : Clk × Mod := if b then tripped e c m else (c, m)

def dieEntry (die sensor : Nat) (t8 : Int) (typ : Byte) : FEntry :=
  tripEntry (dieLog die).2.1 (dieLog die).2.2 typ (measured sensor t8) 0

/-- A die at 100 °C or more whose sensors were all below; one entry until they are again (R525). A
reading below 100 °C says that every sensor of the die is below. -/
def thermalWarn (die sensor : Nat) (t8 : Int) (t : Clk) (m : Mod) : Mod :=
  if t8 < 800 then modPwr m fun p => { p with hot := p.hot.filter (· != die) }
  else if m.pwr.hot.contains die then m
  else logFault t (dieLog die).1 (dieEntry die sensor t8 fThermalWarn)
    (modPwr m fun p => { p with twarn := true, hot := die :: p.hot })

/-! ## The Almanac and the guardband -/

def diePowered (t : Clk) (m : Mod) (die : Nat) : Bool :=
  if die = 16 then hnUp m
  else if m.pwr.tripped then false
  else if die < 16 then decide (dieState m die ≤ 1)
  else if die = 17 then t.running
  else if die < 28 then decide (msNum m.pwr.state ≤ 2)
  else decide (msNum m.pwr.state ≤ 3)

def vminOf (m : Mod) (d : Nat) : Nat := sget (Config.vMinFused d % 1024) m.pwr.vmin d
def vmaxOf (m : Mod) (d : Nat) : Nat := sget (Config.vMaxFused d % 1024) m.pwr.vmax d
def clampRail (m : Mod) (d v : Nat) : Nat := min (max v (vminOf m d)) (vmaxOf m d)
/-- The logic rail of a die: what it was planned to, else its end-of-life voltage (R534), within the bounds of the host,
which always apply (R538). -/
def railOf (m : Mod) (d : Nat) : Nat :=
  let r := sget 0 m.pwr.rail d
  clampRail m d (if r = 0 then Config.vEol d else r)
/-- The kind of a die, by its code of R533: 0 HN, 1 HS, 2 compute, 3 link, 4 media, 5 tier. -/
def dieKind (d : Nat) : Nat :=
  if d < 16 then 2 else if d = 16 then 0 else if d = 17 then 1 else if d < 22 then 3 else if d < 28 then 4 else 5
def targetOf (d : Nat) : Int := Config.slackTarget (dieKind d)
/-- What HN keeps of a die: its records and its fused baseline (R533). -/
def almanacOf (m : Mod) (d : Nat) : List Almanac × List Byte := (sget [] m.pwr.almanac d, Config.baseline d)
/-- How many of the previous 6 samples of a die had a slack well above its target (R534). -/
def slackHigh (m : Mod) (d : Nat) : Nat := (((almanacOf m d).1.take 6).filter fun r => decide (r.worst > targetOf d + 8)).length
def ageEn (m : Mod) : Bool := regB m rHubServiceCfg 1

/-- The value the loop wants from the rail v and the slack s. -/
def wantedRail (d v : Nat) (s : Int) (high : Nat) : Nat :=
  let target := targetOf d
  if s < target then v + 5 * min 4 (((target - s + 1) / 2).toNat)
  else if s > target + 8 ∧ high ≥ 6 then v - 5
  else v

/-- POLICY_CLAMP (R538, R539). -/
def policyClamp (t : Clk) (log : Nat × Byte × Byte) (loop unit wanted : Nat) (m : Mod) : Mod :=
  logFault t log.1 { kind := log.2.1, index := log.2.2, typ := fPolicyClamp, addr := BitVec.ofNat 64 (loop + 256 * unit + 65536 * wanted) } m

def newRecord (t : Clk) (m : Mod) (d : Nat) (x : MonSample) (plan : Nat) (wanted : Nat) (emergency : Bool) : Almanac where
  poh := BitVec.ofNat 64 ((m.hub.poh + t.now - m.hub.pohAt) / second)
  mon := x.mon
  worst := x.worst
  mean := x.mean
  vmv := railOf m d
  tj := x.tj
  plan := plan
  flags := BitVec.ofNat 8 (b2n (ageEn m) + 2 * b2n (decide (wanted < vminOf m d)) + 4 * b2n (decide (wanted > vmaxOf m d)) + 8 * b2n emergency)

/-- One sample: its record, then the rail of the next interval. -/
def sampleDie (d : Nat) (x : MonSample) (emergency : Bool) (t : Clk) (m : Mod) : Mod :=
  if ¬ diePowered t m d then m else
  let age := ageEn m
  let w := if age then wantedRail d (railOf m d) x.worst (slackHigh m d) else Config.vEol d
  let v := clampRail m d w
  let r := newRecord t m d x v w emergency
  let m1 := modPwr m fun p => { p with
    almanac := smod [] p.almanac d fun l => (r :: l).take 8192
    rail := sset 0 p.rail d (if age then v else 0) }
  if age ∧ v ≠ w then policyClamp t (dieLog d) 1 d w m1 else m1

/-- A slack 10 ps below the target forces a sample (R535). -/
def emergency (d : Nat) (x : MonSample) (t : Clk) (m : Mod) : Mod :=
  if x.worst < targetOf d - 10 then sampleDie d x true t m else m

/-- The refresh rate of a stack: what its temperature last called for, within the host's bound (R538). -/
def refreshOf (m : Mod) (h : Nat) : Nat := min (sget 0 m.pwr.refresh h) (sget 8 m.pwr.refMax h)

/-- The refresh rate that a stack's temperature calls for (R538). -/
def refreshChange (h mult4 : Nat) (t : Clk) (m : Mod) : Mod :=
  if dieState m h = 3 then m else
  let bound := sget 8 m.pwr.refMax h
  let m1 := modPwr m fun p => { p with refresh := sset 0 p.refresh h mult4 }
  if mult4 > bound then policyClamp t (logCD h, 3, BitVec.ofNat 8 h) 3 h mult4 m1 else m1

/-- The last measurements (R511). -/
def inputSample (mV cur watts : Nat) (m : Mod) : Mod :=
  if m.hub.input then modPwr m fun p => { p with input := (mV, cur, watts) } else m

/-! ## The rows -/

def execPowerCmdModule (f : Func) (v : W64) (tripHolds : Bool) (s : State) : Host.Outcome State Fault Refusal :=
  onBoth (powerCmd 0 f.val v.toNat tripHolds) s
def execPowerCmdDie (f : Func) (v : W64) (tripHolds : Bool) (s : State) : Host.Outcome State Fault Refusal :=
  onBoth (powerCmd 1 f.val v.toNat tripHolds) s
def execPowerCmdPort (f : Func) (v : W64) (tripHolds : Bool) (s : State) : Host.Outcome State Fault Refusal :=
  onBoth (powerCmd 2 f.val v.toNat tripHolds) s
def execPowerCmdLimits (f : Func) (v : W64) (tripHolds : Bool) (s : State) : Host.Outcome State Fault Refusal :=
  onBoth (powerCmd 3 f.val v.toNat tripHolds) s
def execPowerWalkStepDone (failUnit : Option (Fin 32 × Byte)) (floorWatts : Nat) (s : State) : Host.Outcome State Fault Refusal :=
  onLink (walkStep failUnit floorWatts) s
def execInputMeasurement (mV cur watts : Nat) (s : State) : Host.Outcome State Fault Refusal :=
  onMod (fun _ m => inputSample mV cur watts m) s
def execInputUndervoltage (mV : Int) (s : State) : Host.Outcome State Fault Refusal :=
  onBoth (tripIf (decide (mV < 34000)) (tripEntry 5 0 fPower (measured 0 mV) 0)) s
def execInputOvervoltage (mV : Int) (s : State) : Host.Outcome State Fault Refusal :=
  onBoth (tripIf (decide (mV > 46000)) (tripEntry 5 0 fPower (measured 0 mV) 0)) s
def execInputOverpower (watts : Int) (s : State) : Host.Outcome State Fault Refusal :=
  onBoth (tripIf (decide (watts > 5400)) (tripEntry 5 0 fPower (measured 0 watts) 0)) s
def execDieOvertemperature (die : Fin 32) (sensor : Byte) (t8 : Int) (s : State) : Host.Outcome State Fault Refusal :=
  onBoth (tripIf (decide (t8 ≥ 880)) (dieEntry die.val sensor.toNat t8 fThermal)) s
def execHbmOvertemperature (h : Stack) (sensor : Byte) (t8 : Int) (s : State) : Host.Outcome State Fault Refusal :=
  onBoth (tripIf (decide (t8 ≥ 840)) (tripEntry 3 (BitVec.ofNat 8 h.val) fThermal (measured sensor.toNat t8) 0)) s
def execRegulatorFault (rail : Byte) (mA : Int) (s : State) : Host.Outcome State Fault Refusal :=
  onBoth (tripped (tripEntry 5 0 fPower (measured rail.toNat mA) 0)) s
def execReferenceLoss (s : State) : Host.Outcome State Fault Refusal :=
  onBoth (fun c m => tripIf c.running (tripEntry 5 0 fClock 0 1) c m) s
def execPllUnlock (s : State) : Host.Outcome State Fault Refusal :=
  onBoth (fun c m => tripIf c.running (tripEntry 5 0 fClock 0 2) c m) s
def execEntropyFailure (s : State) : Host.Outcome State Fault Refusal :=
  onBoth (tripped (tripEntry 5 0 fSecurity 0 2)) s
def execThermalWarn (die : Fin 32) (sensor : Byte) (t8 : Int) (s : State) : Host.Outcome State Fault Refusal :=
  onMod (thermalWarn die.val sensor.toNat t8) s
def execAlmanacSample (die : Fin 32) (x : MonSample) (s : State) : Host.Outcome State Fault Refusal :=
  onMod (sampleDie die.val x false) s
def execEmergencySample (die : Fin 32) (x : MonSample) (s : State) : Host.Outcome State Fault Refusal :=
  onMod (emergency die.val x) s
def execHbmRefreshRateChange (h : Stack) (mult4 : Byte) (s : State) : Host.Outcome State Fault Refusal :=
  onMod (refreshChange h.val mult4.toNat) s

end Sys2Proof.Machine
end

