-- ==== Sys2Proof/Machine/HostPort.lean ====
section
/-! DEFINITION. The enable bits of the module, the partitions and the rings with their consistency checks
(R476 to R480, R485, R506, R551, R606, R621, R627 to R629), BAR4 (R482 to R484, R557, R563), and
configuration requests (R602). -/

namespace Sys2Proof.Machine

/-! ## Values a register takes -/

/-- A byte of a VCW write: weight 0 leaves the weight (R635). -/
def keepWeight (old v i : Nat) : Nat := if bits v (8 * i) 8 = 0 then bits old (8 * i) 8 else bits v (8 * i) 8

/-- The value a write stores: ICOUNT 0 is 1 (R627), the watchdog keeps its range (R295), a VCW weight 0
changes nothing. PART_TRACE_SIZE.LOG2 takes the nearest value of its range 12 to 30: R628 states the range
only, and the nearest value is a DESIGN CHOICE (log 21). -/
def fitValue (m : Mod) (off v : Nat) : Nat :=
  if 0x180000 ≤ off ∧ off < 0x200000 ∧ off % 0x40 = 0x10 then (if bits v 32 16 = 0 then v + 2 ^ 32 else v)
  else if 0x800000 ≤ off ∧ off < 0x1800000 ∧ off % 0x100000 = 0 then min 4000000 (max 1000 (v % 2 ^ 32))
  else if 0x200000 ≤ off ∧ off < 0x300000 ∧ off % 0x10000 = 0x488 then v / 32 * 32 + min 30 (max 12 (v % 32))
  else if 0x1800000 ≤ off ∧ off < 0x1C00000 ∧ off % 0x100 = 0x10 then
    keepWeight (regN m off) v 0 + 256 * keepWeight (regN m off) v 1 + 65536 * keepWeight (regN m off) v 2
  else v

def storeReg (f off v : Nat) (m : Mod) : Mod := storeFields f off (fitValue m off v) m

/-! ## MODULE_CTRL (R606) -/

/-- Firmware runs from a bank below the fused minimum of its kind: that of the kind, or that of the units which an
activation has brought to the other bank (R606, R610). -/
def fwTooOld (k : FwKind) : Bool :=
  decide (k.runVer < k.fused) || (!k.moved.isEmpty && decide ((if k.activeB then k.verA else k.verB) < k.fused))

def moduleErr (m : Mod) : Option Byte :=
  if m.pwr.tripped then some 0x36
  else if msNum m.pwr.state > 1 ∨ m.pwr.walk.isSome then some 0x32
  else if ¬ m.hub.idSet then some 0x40
  else if (List.range 6).any fun k => fwTooOld (fwKind m k) then some 0x76
  else none

/-- EN is set when it is 0 and the check passes; the result stands in HUB_STATUS. -/
def moduleOn (v : Nat) (m : Mod) : Mod :=
  if ¬ bit v 0 ∨ moduleEn m then m
  else match moduleErr m with
    | some r => modHub m fun h => { h with reason := r }
    | none => modHub (setBit m rHubModuleCtrl 0 true) fun h => { h with reason := 0 }

/-- EN is cleared only while no partition is enabled. -/
def moduleOff (m : Mod) : Mod :=
  if (List.range 8).any (partEn m) then m else setBit m rHubModuleCtrl 0 false

/-! ## PART_CTRL (R629) -/

def maskDies (mask : Nat) : List Nat := (List.range 16).filter fun d => bit mask (d / 2)

/-- An enabled ring of a partition. -/
def ringsOn (m : Mod) (k : Nat) : Bool := (List.range 1024).any fun n =>
  (sqEn m n && !sqModuleRing m n && sqPart m n == k) || (cqEn m n && !cqModuleRing m n && cqPart m n == k)

def partBusy (m : Mod) (k : Nat) : Bool :=
  !moduleEn m || (partSt m k).prog.isSome || ringsOn m k || (partSt m k).scrub.isSome
    || (partDies m k).any fun d => decide (dieState m d ≥ 2)

def otherParts (m : Mod) (k : Nat) : List Nat := (List.range 8).filter fun j => j != k && partEn m j

def maskBad (m : Mod) (k : Nat) : Bool :=
  !bit (partPairs m k) k || (otherParts m k).any fun j => (partPairs m k &&& partPairs m j) != 0

/-- The tier die of a range, none for HBM. -/
def rangeTier (b : Nat) : Option Nat :=
  match place b with
  | .tier d _ => some d
  | _ => none

/-- A range lies whole in LOCAL HBM of the partition's stacks, in the SPREAD view of a partition with
every pair, or in one tier die (R478). -/
def rangeOk (m : Mod) (k i : Nat) : Bool :=
  let b := rangeBase m k i
  let e := rangeEnd m k i
  decide (b < e) && match place b, place (e - 1) with
    | .hbm n _, .hbm n' _ =>
      if b < 0x20000000000 then decide (e ≤ 0x20000000000) && n == n' && (partDies m k).contains n else partPairs m k == 0xFF
    | .tier d _, .tier d' _ => d == d'
    | _, _ => false

def ranges (m : Mod) (k : Nat) : List Nat := (List.range 16).filter (rangeV m k)

def rangesMeet (m : Mod) (k i j l : Nat) : Bool :=
  decide (rangeBase m k i < rangeEnd m j l) && decide (rangeBase m j l < rangeEnd m k i)

def rangesBad (m : Mod) (k : Nat) : Bool :=
  (ranges m k).any fun i => !rangeOk m k i || (otherParts m k).any fun j => (ranges m j).any fun l => rangesMeet m k i j l

def rootBad (m : Mod) (k : Nat) : Bool :=
  let r := xlatRoot m k
  !(inAssigned m k r && inAssigned m k (r + 4095) && match place r with
    | .hbm _ _ => true
    | _ => false)

def tierUnits : Nat := 253952

def capsBad (m : Mod) (k : Nat) : Bool := (List.range 4).any fun t =>
  decide (tierCap m k t + ((otherParts m k).map fun j => tierCap m j t).foldl (· + ·) 0 > tierUnits)

/-- A KEEP window of a tier die: 0 LOSSLESS, 1 FP8; base and size in 2 MiB units. -/
def keepWindow (m : Mod) (k t fp8 : Nat) : Nat × Nat :=
  let o := rPart k + 0x40 + 0x10 * t + 8 * fp8
  (regF m o 0 18, regF m o 32 18)

/-- A span lies within the ranges of a partition: range by range from its start. -/
def covered (m : Mod) (k : Nat) : Nat → Nat → Nat → Bool
  | 0, _, _ => false
  | fuel + 1, a, e =>
    if e ≤ a then true else
    match (ranges m k).find? fun i => decide (rangeBase m k i ≤ a) && decide (a < rangeEnd m k i) with
    | none => false
    | some i => covered m k fuel (rangeEnd m k i) e

def keepOk (m : Mod) (k t fp8 : Nat) : Bool :=
  let w := keepWindow m k t fp8
  w.2 == 0 || (decide (w.1 + w.2 ≤ tierUnits) && covered m k 17 (tierAddr t (w.1 * unit2M)) (tierAddr t ((w.1 + w.2) * unit2M)))

def keepBad (m : Mod) (k : Nat) : Bool := (List.range 4).any fun t =>
  let a := keepWindow m k t 0
  let b := keepWindow m k t 1
  !keepOk m k t 0 || !keepOk m k t 1 || decide (a.2 + b.2 + coastUnits m k t > tierCap m k t)
    || (a.2 != 0 && b.2 != 0 && decide (a.1 < b.1 + b.2) && decide (b.1 < a.1 + a.2))

def poolSegs (m : Mod) (k : Nat) : Nat := regF m (rPart k + 0x80) 0 13
def drawDie (m : Mod) (k : Nat) : Nat := regF m (rPart k + 0x80) 16 3
def minFill (m : Mod) (k : Nat) : Nat := regF m (rPart k + 0x80) 20 20
/-- Entry i of PART_POOL_TQ. -/
def poolTq (m : Mod) (k i : Nat) : Nat := regF m (rPart k + 0x88 + 8 * (i / 4)) (16 * (i % 4)) 16
/-- The queue keys of the pool's valid targets. -/
def poolTargets (m : Mod) (k : Nat) : List Nat :=
  (List.range 8).filterMap fun i => if bit (poolTq m k i) 15 then some (hqKey (bits (poolTq m k i) 9 4) (bits (poolTq m k i) 0 9)) else none

/-- The pool: its size and its die, what it takes of the capacity beside windows and coast reserves, and its target
queues, which are checked whether or not the partition has a pool (R629). -/
def poolBad (m : Mod) (k : Nat) : Bool :=
  let segs := poolSegs m k
  let used := ((List.range 4).map fun t => (keepWindow m k t 0).2 + (keepWindow m k t 1).2 + coastUnits m k t).foldl (· + ·) 0
  let caps := ((List.range 4).map (tierCap m k)).foldl (· + ·) 0
  ((poolTargets m k).any fun q => !(partDies m k).contains (q / 512)) || decide (used + 32 * segs > caps)
    || segs != 0 && (decide (segs > 4096) || partIngest m k == 0 || !bit (partIngest m k) (drawDie m k))

def ingestBad (m : Mod) (k : Nat) : Bool := (List.range 8).any fun j =>
  j != k && (partEn m j || (partSt m j).scrub.isSome) && (partIngest m k &&& partIngest m j) != 0

/-- A link window: whether it is valid, its base, size and destination base. -/
def linkWindow (m : Mod) (k i : Nat) : Bool × Nat × Nat × Nat :=
  let o := rPart k + 0x200 + 0x20 * i
  (regB m o 0, regF m o 30 27, regF m (o + 8) 0 16, regF m (o + 0x10) 30 27)

def windowsBad (m : Mod) (k : Nat) : Bool := (List.range 16).any fun i =>
  let (v, b, n, d) := linkWindow m k i
  v && (n == 0 || decide (b + n > 2 ^ 27) || decide (d + n > 2 ^ 27) || (List.range i).any fun j =>
    let (v', b', n', _) := linkWindow m k j
    v' && decide (b < b' + n') && decide (b' < b + n))

/-- The check, with the first code that applies. -/
def partErr (m : Mod) (k : Nat) : Option Byte :=
  if partBusy m k then some 0x29
  else if maskBad m k then some 0x20
  else if partVf m k ∧ partPairs m k ≠ 2 ^ k then some 0x21
  else if rangesBad m k then some 0x22
  else if rootBad m k then some 0x23
  else if capsBad m k then some 0x24
  else if keepBad m k then some 0x25
  else if poolBad m k then some 0x26
  else if ingestBad m k then some 0x27
  else if windowsBad m k then some 0x28
  else none

/-- A write of PART_CTRL: fields first, then the check; a passing one draws the partition's keys (R550).
A write of 0 to EN is ignored (R551). -/
def partWrite (f k v : Nat) (m : Mod) : Mod :=
  if partEn m k then m else
  let m1 := storeFields f (rPart k) v m
  if ¬ bit v 0 then m1
  else match partErr m1 k with
    | some r => modPart m1 k fun p => { p with reason := r }
    | none =>
      let m2 := { setBit m1 (rPart k) 0 true with sec := { m1.sec with keys := m1.sec.keys + 1 } }
      modPart m2 k fun p => { p with reason := 0, keyGen := some m1.sec.keys, integrity := 0 }

/-- While the scrub of a disabled partition runs, its EN is refused with 0x29 (R563). -/
def partCtrl (f k v : Nat) (m : Mod) : Mod :=
  if f = 0 ∧ hnUp m ∧ ¬ hnBusy m ∧ (partSt m k).scrub.isSome then
    (if bit v 0 ∧ ¬ partEn m k then modPart m k fun p => { p with reason := 0x29 } else m)
  else gated f (rPart k) (partWrite f k v) m

/-! ## SQ_CTRL and CQ_CTRL (R485, R506, R507, R627) -/

/-- A ring's base and size: 16 to 65,536 entries within the host's bus addresses. -/
def ringShapeBad (m : Mod) (off each : Nat) : Bool :=
  let lg := regF m (off + 8) 0 5
  decide (lg < 4) || decide (lg > 16) || decide (regF m off 12 52 * 4096 + each * 2 ^ lg > 2 ^ 48)

/-- The owner is live; a partition ring's partition is enabled and, for a VF, its own; a module ring is
PF0's. -/
def ownerBad (m : Mod) (owner part : Nat) (module : Bool) : Bool :=
  decide (owner > 8) || !vfLive m owner || (module && owner != 0) || (!module && (!partEn m part || (owner != 0 && owner != part + 1)))

def sqErr (m : Mod) (n : Nat) : Option Byte :=
  if ringShapeBad m (rSq n) 64 then some 0x10
  else if ¬ cqEn m n ∨ cqOwner m n ≠ sqOwner m n ∨ cqModuleRing m n ≠ sqModuleRing m n ∨ (¬ sqModuleRing m n ∧ cqPart m n ≠ sqPart m n) then some 0x11
  else if ownerBad m (sqOwner m n) (sqPart m n) (sqModuleRing m n) then some 0x12
  else none

def cqErr (m : Mod) (n : Nat) : Option Byte :=
  if ringShapeBad m (rCq n) 16 then some 0x10
  else if ownerBad m (cqOwner m n) (cqPart m n) (cqModuleRing m n)
      ∨ regF m (rCq n + 0x10) 16 11 ≥ (if cqOwner m n = 0 then 1024 else 128) then some 0x12
  else none

/-- A write of SQ_CTRL; EN is set by a passing check with HEAD at 0, and cleared by a 0. -/
def sqWrite (f n v : Nat) (m : Mod) : Mod :=
  let was := sqEn m n
  let m1 := storeReg f (rSq n + 0x10) v m
  if ¬ bit v 0 then setBit m1 (rSq n + 0x10) 0 false
  else if was then m1
  else match sqErr m1 n with
    | some r => modRing m1 n fun x => { x with reason := r }
    | none => modRing (setBit m1 (rSq n + 0x10) 0 true) n fun x => { x with reason := 0, head := 0, tail := 0 }

/-- A write of CQ_CTRL; EN starts the ring at 0 with PHASE 1 and EVLOST 0. -/
def cqWrite (f n v : Nat) (m : Mod) : Mod :=
  let was := cqEn m n
  let m1 := storeReg f (rCq n + 0x10) v m
  if ¬ bit v 0 then setBit m1 (rCq n + 0x10) 0 false
  else if was then m1
  else match cqErr m1 n with
    | some r => modRing m1 n fun x => { x with cqReason := r }
    | none => modRing (setBit m1 (rCq n + 0x10) 0 true) n fun x => { x with
        cqReason := 0, cqHead := 0, cqTail := 0, cqPhase := true, evLost := 0, since := 0, oldest := none, cqBell := none }

/-! ## BAR4 -/

/-- The bytes of a function's window: 1 GiB to 2 TiB for PF0, to 256 GiB for a VF, as the host sized it. -/
def bar4Bytes (f : Nat) : Nat := 2 ^ (30 + Config.bar4Size f % (if f = 0 then 12 else 9))

def bar4Base (m : Mod) (f : Nat) : Nat :=
  let b := if f = 0 then regF m rHubBar4Base 30 19 else regF m (rPart (f - 1) + 0x18) 30 19
  b * 2 ^ 30 / bar4Bytes f * bar4Bytes f

/-- A leaf with BOUND = 1 of a partition's tables maps one of some physical addresses (R33). -/
def boundLeaf (m : Mod) (as : List Nat) : List (Nat × Nat × Nat × Nat × Option Nat) → Nat → Bool
  | [], _ => false
  | (_, _, nb, _, leafBits) :: rest, table => (List.range (2 ^ nb)).any fun i =>
    match tableRead m (table + 8 * i) with
    | .error _ => false
    | .ok e =>
      let addr := bits e 8 41 * 256
      if ¬ bit e 0 then false
      else if bit e 1 then bit e 4 && (match leafBits with
        | none => false
        | some pb => as.any fun a => decide (addr ≤ a) && decide (a < addr + 2 ^ pb))
      else boundLeaf m as rest addr

/-- A stack address in its two views. -/
def views (a : Nat) : List Nat :=
  match place a with
  | .hbm n off => [hbmAddr n off, spreadAddr n off]
  | _ => [a]

def isBound (m : Mod) (a : Nat) : Bool := (List.range 8).any fun k =>
  partEn m k && (views a).any (inAssigned m k) && boundLeaf m (views a) levels (xlatRoot m k)

def inScrub (m : Mod) (a : Nat) : Bool := (List.range 8).any fun k => (partSt m k).scrub.isSome && (views a).any (inAssigned m k)

/-- Why a BAR4 access is refused before it reaches memory: the power of the module, a scrub, a place
that is no stack, bound content. -/
def bar4Err (m : Mod) (f a n : Nat) : Option Byte :=
  let ends := [a, a + n - 1]
  let stack := fun (x : Nat) => decide (x < 0x20000000000) && (match place x with
    | .hbm _ _ => true
    | _ => false)
  if msNum m.pwr.state ≥ 2 ∨ m.pwr.tripped then some 0x37
  else if ¬ ends.all stack then some 0x6B
  else if f = 0 ∧ ends.any (inScrub m) then some 0x75
  else if ends.any (isBound m) then some 0x74
  else none

def bar4Log (t : Clk) (f a : Nat) (r : Byte) (m : Mod) : Mod :=
  hnFault t fAccess r a 0 (if f = 0 then none else some (f - 1)) m

/-- BAR4_READ. -/
def bar4Read (f : Func) (off n : Nat) (ecc : Ecc) (t : Clk) (m : Mod) : Mod :=
  if ¬ hnUp m then m
  else if ¬ vfLive m f.val ∨ off + n > bar4Bytes f.val then emit (.readUR f.val) m
  else
    let a := bar4Base m f.val + off
    match bar4Err m f.val a n with
    | some r => emit (if r = 0x74 then .readCA f.val else .readUR f.val) (bar4Log t f.val a r m)
    | none => memoryRead (.host f) a n ecc t m

/-- BAR4_WRITE; EP poisons what it writes (R581). -/
def bar4Write (f : Func) (off : Nat) (data : List Byte) (ep : Bool) (t : Clk) (m : Mod) : Mod :=
  if ¬ hnUp m then m
  else if ¬ vfLive m f.val ∨ off + data.length > bar4Bytes f.val then emit (.aerUR f.val) m
  else
    let a := bar4Base m f.val + off
    match bar4Err m f.val a data.length with
    | some r => emit (.aerUR f.val) (bar4Log t f.val a r m)
    | none => memoryWrite (.host f) a data ep .clean t m

/-! ## Configuration requests -/

/-- Request Retry Status until HN's firmware runs (R602); recovery mode shows the HUB block (R608). -/
def configRequest (f : Nat) (m : Mod) : Mod :=
  if ¬ m.hub.input ∨ m.hub.perst then m
  else emit (if m.hub.booted then .cfgAnswer f else .cfgRetry f) m

/-! ## The rows -/

def execModuleEnable (f : Func) (v : W64) (s : State) : Host.Outcome State Fault Refusal :=
  onMod (fun _ m => gated f.val rHubModuleCtrl (moduleOn v.toNat) m) s
def execModuleDisable (f : Func) (s : State) : Host.Outcome State Fault Refusal :=
  onMod (fun _ m => gated f.val rHubModuleCtrl moduleOff m) s
def execPartEnable (f : Func) (k : Part) (v : W64) (s : State) : Host.Outcome State Fault Refusal :=
  onMod (fun _ m => partCtrl f.val k.val v.toNat m) s
def execSqEnable (f : Func) (n : RingId) (v : W64) (s : State) : Host.Outcome State Fault Refusal :=
  onMod (fun _ m => gated f.val (rSq n.val + 0x10) (sqWrite f.val n.val v.toNat) m) s
def execCqEnable (f : Func) (n : RingId) (v : W64) (s : State) : Host.Outcome State Fault Refusal :=
  onMod (fun _ m => gated f.val (rCq n.val + 0x10) (cqWrite f.val n.val v.toNat) m) s
def execBar4Read (f : Func) (off len : Nat) (ecc : Ecc) (s : State) : Host.Outcome State Fault Refusal :=
  onEng (bar4Read f off len ecc) s
def execBar4Write (f : Func) (off : Nat) (data : List Byte) (ep : Bool) (s : State) : Host.Outcome State Fault Refusal :=
  onEng (bar4Write f off data ep) s
def execConfigurationRequest (f : Func) (s : State) : Host.Outcome State Fault Refusal :=
  onMod (fun _ m => configRequest f.val m) s

end Sys2Proof.Machine
end

