-- ==== Sys2Proof/Machine/Service.lean ====
section
/-! DEFINITION. The firmware store (R609 to R611, R625) and live servicing (R536, R537, R613 to R616,
R626). -/

namespace Sys2Proof.Machine

/-! ## STAGE and COMMIT -/

/-- The signed bytes of an image, before its two signatures. -/
def imageBody (b : List Byte) : List Byte := b.take (b.length - 3373)

/-- Both signatures under the fused slot that the image names, then its version (R545, R608). -/
def imageErr (k : FwKind) (b : List Byte) : Option Byte :=
  let msg := imageBody b
  let key := Config.imageKey msg
  if Config.imageSlot msg > 3 ∨ ¬ fusedPair (Config.imageSlot msg) key then some 0x72
  else
    let o := msg.length
    if ¬ Config.edVerify key msg (slice b o 64) then some 0x70
    else if ¬ Config.mlVerify key msg (slice b (o + 64) 3309) then some 0x71
    else if Config.imageVersion msg < k.fused then some 0x76
    else none

/-- The inactive bank of a kind takes a verified image and waits to become active (R609, R610). -/
def stageKind (b : List Byte) (k : FwKind) : FwKind :=
  let v := Config.imageVersion (imageBody b)
  let x := { k with staged := true, moved := [] }
  if k.activeB then { x with verA := v, okA := true, imgA := some b } else { x with verB := v, okB := true, imgB := some b }

/-- STAGE: KIND in [10:8], CMD 1 in [3:0]. -/
def stageWrite (v : Nat) (m : Mod) : Mod :=
  let k := bits v 8 3
  if bits v 0 4 ≠ 1 ∨ k > 5 ∨ m.hub.fwBusy then m else
  let b := hostRead m (regN m rHubFwImage) (regF m rHubFwLen 0 32)
  match imageErr (fwKind m k) b with
  | some r => modHub m fun h => { h with fwReason := r }
  | none => modHub (modFw m k (stageKind b)) fun h => { h with fwReason := 0 }

/-- COMMIT, CMD 2: the fused minimum becomes the running version (R611). In recovery mode no HN
firmware runs. -/
def commitWrite (v : Nat) (m : Mod) : Mod :=
  let k := bits v 8 3
  if bits v 0 4 ≠ 2 ∨ k > 5 ∨ m.hub.fwBusy ∨ (m.hub.recovery ∧ k = 0) then m
  else modHub (modFw m k fun x => { x with fused := max x.fused x.runVer }) fun h => { h with fwReason := 0 }

/-! ## Service slots -/

/-- A write of HUB_SVC_CMD. -/
structure SvcCmd where
  op : Nat
  kind : Nat
  index : Nat
  setting : Nat
  deriving DecidableEq, Repr

def readSvc (v : Nat) : SvcCmd where
  op := bits v 0 4
  kind := bits v 8 8
  index := bits v 16 16
  setting := bits v 32 32

/-- How many units of a kind there are (R626). -/
def unitCount (kind : Nat) : Nat :=
  match kind with
  | 1 | 2 => 1
  | 3 | 8 => 16
  | 4 => 4
  | 5 => 6
  | 6 => 4
  | 7 => 18
  | 9 => 64
  | 10 => 32
  | _ => 0

/-- The operations each unit has (R614): 1 FW_ACTIVATE, 2 RETRAIN, 3 RECAL, 4 REG_SET. -/
def opFits (op kind : Nat) : Bool :=
  match op with
  | 1 => decide (1 ≤ kind) && decide (kind ≤ 6)
  | 2 => kind == 7 || kind == 8
  | 3 => kind == 9
  | 4 => kind == 10
  | _ => false

/-- The unit's power, by its kind. -/
def unitPowered (t : Clk) (m : Mod) (kind index : Nat) : Bool :=
  let ms2 := !m.pwr.tripped && decide (msNum m.pwr.state ≤ 2)
  let hs := t.running && !m.pwr.tripped
  match kind with
  | 1 => true
  | 2 => hs
  | 3 => decide (dieState m index ≤ 1)
  | 4 | 5 => ms2
  | 6 | 9 => !m.pwr.tripped && decide (msNum m.pwr.state ≤ 3)
  | 7 => portState m index != 2
  | 8 => decide (dieState m index ≤ 2)
  | _ => hs

/-- A range of bytes, each 256-byte line of it taken where it lies, meets a memory. -/
def rangeHits (hits : Nat → Bool) (at_ : Nat → Option Nat) (a n : Nat) : Bool := (spans a n).any fun x => (at_ x.1).any hits

/-- A gather run whose streams read or write a memory. -/
def gatherHits (t : Clk) (m : Mod) (hits : Nat → Bool) : Bool :=
  m.gather.any fun d => d.2.busy && (runPieces t m d.1 d.2.record).any fun x =>
    rangeHits hits (fun a => some (physAt m (gatherReq m d.1 false) a)) x.1 x.2.1

/-- Whether a unit has a transfer of its memory under way, whichever of its bytes lie there: a stack's or a tier channel's. -/
def memoryBusy (t : Clk) (m : Mod) (hits : Nat → Bool) : Bool :=
  gatherHits t m hits || m.eng.any fun e => e.2.xfers.any fun x => x.ended.isNone &&
    (match dieOwner m (e.1 / 16) with
      | none => false
      | some k =>
        let phys := fun (a : Nat) => match xlate m k a false with
          | .ok p => some p.phys
          | .error _ => none
        let n := x.total + (if x.tile then 64 else 0)
        rangeHits hits phys x.src.toNat n || rangeHits hits phys x.dst.toNat n)

/-- A place of a tier channel (R172). -/
def inChannel (index a : Nat) : Bool :=
  match place a with
  | .tier d off => d == index / 16 && off / 256 % 16 == index % 16
  | _ => false

/-- The idle condition of R614, under LIVE_EN = 0. A regulator is idle with its die in DS2 or DS3, states that the compute
dies alone have (R516): those of the other dies never are. -/
def unitIdle (t : Clk) (m : Mod) (kind index : Nat) : Bool :=
  match kind with
  | 1 => !moduleEn m
  | 2 => m.pwr.walk.isNone
  | 3 => !loadedOn m [index]
  | 4 => (List.range 18).all fun p => portDie p != index || !portEn m p
  | 5 => (mdie m index).slots.all fun s => s.2.st == .disabled || s.2.st == .listening
  | 6 => !(gatherOf m index).busy
  | 7 => !flitsOut m index
  | 8 => !memoryBusy t m (inStack index)
  | 9 => !memoryBusy t m (inChannel index)
  | _ => decide (index < 16) && decide (dieState m index ≥ 2)

/-- The power state of a unit: 0 in full, then what it is reduced to (R512, R516, R518). -/
def unitState (m : Mod) (kind index : Nat) : Nat :=
  let ms := msNum m.pwr.state
  let memory := fun (s : Nat) => s - 1
  match kind with
  | 1 => 0
  | 2 => ms / 4
  | 3 => dieState m index
  | 4 => ms / 3
  | 5 => min 2 (memory ms)
  | 6 | 9 => memory ms - ms / 3 + ms / 4
  | 7 => portState m index
  | 8 => memory (dieState m index)
  | _ => if index < 16 then dieState m index else if index < 18 then ms / 4 else if index < 28 then ms / 3 else ms / 4

/-- The power change under way affects the unit, whether it loses, changes or regains its state (R616). -/
def walkTakes (m : Mod) (kind index : Nat) : Bool :=
  match m.pwr.walk with
  | none => false
  | some w => unitState (targetMod { scope := w.scope, unit := w.unit, target := w.target } m) kind index != unitState m kind index

/-- The check of a service command: 0x32 without power, then 0x35 (R613, R614, R616). -/
def svcErr (t : Clk) (m : Mod) (c : SvcCmd) : Option Byte :=
  if c.index ≥ unitCount c.kind ∨ ¬ unitPowered t m c.kind c.index then some 0x32
  else if m.hub.svc.any (fun s => s.2.busy && s.2.kind == c.kind && s.2.index == c.index) ∨ walkTakes m c.kind c.index then some 0x35
  else if ¬ regB m rHubServiceCfg 0 ∧ ¬ unitIdle t m c.kind c.index then some 0x35
  else none

def modSvc (s : Nat) (f : Svc → Svc) (m : Mod) : Mod := modHub m fun h => { h with svc := smod {} h.svc s f }
def svcOf (m : Mod) (s : Nat) : Svc := sget {} m.hub.svc s

/-- An operation ends: DONE, its reason, PF0's message (R613, R626). -/
def svcDone (s : Nat) (r : Byte) (m : Mod) : Mod :=
  sendMsix 0 (regF m rHubSvcCtrl 0 11) (modSvc s (fun x => { x with busy := false, done := true, reason := r }) m)

/-- RETRAIN of a port begins: it goes DOWN with no LINK fault, and trains again. -/
def retrainPort (t : Clk) (p : Nat) (m : Mod) : Mod :=
  modPort (setBit (portDown t p 0 m) (rLport p) 0 true) p fun l => { l with st := .training, since := t.now }

/-- What an operation does as it starts; a regulator takes its setting. -/
def svcStart (t : Clk) (c : SvcCmd) (m : Mod) : Mod :=
  if c.op = 2 ∧ c.kind = 7 ∧ portEn m c.index then retrainPort t c.index m
  else if c.op = 4 then modHub m fun h => { h with rails := sset 0 h.rails c.index (BitVec.ofNat 32 c.setting) }
  else m

/-- A write of HUB_SVC_CMD by the row of its operation. -/
def svcWrite (op slot v : Nat) (t : Clk) (m : Mod) : Mod :=
  let c := readSvc v
  if c.op ≠ op ∨ ¬ opFits c.op c.kind ∨ (svcOf m slot).busy then m else
  match svcErr t m c with
  | some r => svcDone slot r m
  | none => svcStart t c (modSvc slot (fun _ => { busy := true, done := false, reason := 0, op := c.op, kind := c.kind, index := c.index }) m)

def svcRow (op f slot v : Nat) (t : Clk) (m : Mod) : Mod := gated f (0x100 + 0x10 * slot) (svcWrite op slot v t) m

/-- FW_ACTIVATE brings a unit to the staged image (R610). -/
def activate (kind index : Nat) (m : Mod) : Mod := modFw m (kind - 1) (runStaged (kind - 1) index)

/-- The reason of an activation whose staged bank no longer runs. -/
def activateErr (m : Mod) (s : Svc) : Option Byte :=
  let k := fwKind m (s.kind - 1)
  if s.op = 1 ∧ k.staged ∧ ¬ bankOk k (!k.activeB) then some 0x76 else none

/-- SERVICE_OPERATION_END; no operation ends with a reserved code (R12). -/
def svcEnd (slot : Nat) (result : Byte) (m : Mod) : Mod :=
  let s := svcOf m slot
  if ¬ s.busy ∨ ¬ reasonOk result then m else
  let r := if result ≠ 0 then result else (activateErr m s).getD 0
  svcDone slot r (if s.op = 1 ∧ r = 0 then activate s.kind s.index m else m)

/-! ## HUB_SERVICE_CFG -/

/-- AGE_EN and LIVE_EN; ageing that ends leaves every rail at its end-of-life voltage (R536). -/
def serviceCfg (f v : Nat) (m : Mod) : Mod :=
  let m1 := storeFields f rHubServiceCfg v m
  if ageEn m ∧ ¬ ageEn m1 then modPwr m1 fun p => { p with rail := [] } else m1

/-! ## The rows -/

def execStage (f : Func) (v : W64) (s : State) : Host.Outcome State Fault Refusal :=
  onMod (fun _ m => gated f.val 0x78 (stageWrite v.toNat) m) s
def execCommit (f : Func) (v : W64) (s : State) : Host.Outcome State Fault Refusal :=
  onMod (fun _ m => gated f.val 0x78 (commitWrite v.toNat) m) s
def execFwActivate (f : Func) (slot : Fin 16) (v : W64) (s : State) : Host.Outcome State Fault Refusal :=
  onMod (svcRow 1 f.val slot.val v.toNat) s
def execRetrain (f : Func) (slot : Fin 16) (v : W64) (s : State) : Host.Outcome State Fault Refusal :=
  onPort (svcRow 2 f.val slot.val v.toNat) s
def execRecal (f : Func) (slot : Fin 16) (v : W64) (s : State) : Host.Outcome State Fault Refusal :=
  onMod (svcRow 3 f.val slot.val v.toNat) s
def execRegSet (f : Func) (slot : Fin 16) (v : W64) (s : State) : Host.Outcome State Fault Refusal :=
  onMod (svcRow 4 f.val slot.val v.toNat) s
def execServiceOperationEnd (slot : Fin 16) (result : Byte) (s : State) : Host.Outcome State Fault Refusal :=
  onMod (fun _ m => svcEnd slot.val result m) s
def execServiceCfgWrite (f : Func) (v : W64) (s : State) : Host.Outcome State Fault Refusal :=
  onMod (fun _ m => gated f.val rHubServiceCfg (serviceCfg f.val v.toNat) m) s

end Sys2Proof.Machine
end

