-- ==== Sys2Proof/Machine/Streams.lean ====
section
/-! DEFINITION. Archive streams: what an ingest port takes (R432, R433), ISF datagrams (R435 to R438),
landing and gaps (R455, R456), the coast-reserve contract (R445 to R451), stream states, events and
closing (R452 to R454, R561). -/

namespace Sys2Proof.Machine

/-! ## The port -/

/-- Ingest ports run in MS0 and MS1 (R512, R530). -/
def ingestUp (m : Mod) : Bool := !m.pwr.tripped && decide (msNum m.pwr.state ≤ 1)

def netAddr (m : Mod) (d : Nat) : List Byte := toLe 8 (regN m (rMd d)) ++ toLe 8 (regN m (rMd d + 8))
def udpPort (m : Mod) (d : Nat) : Nat := regF m (rMd d + 0x10) 0 16
def sat64 (a b : Nat) : Nat := satAdd 0xFFFFFFFFFFFFFFFF a b

/-- A frame that is not IPv6, is too long, or carries extension headers or a fragment is dropped; so is
a UDP datagram of another port or with a bad checksum. -/
def frameIn (d : Nat) (x : Frame) (m : Mod) : Mod :=
  if ¬ ingestUp m then m else modMdie m d fun y =>
    let y := { y with fec := sat64 y.fec x.fecCorr }
    if x.etherType ≠ 0x86DD ∨ x.bytes > 9216 ∨ x.extHeaders ∨ x.fragment then { y with frames := sat64 y.frames 1 }
    else if x.udp ∧ (¬ x.checksumOk ∨ x.dstPort.toNat ≠ udpPort m d) then { y with dgrams := sat64 y.dgrams 1 }
    else y

/-- ICMPv6 for the port's own address (R433). -/
def icmpIn (d : Nat) (echo : Bool) (target : List Byte) (m : Mod) : Mod :=
  if ingestUp m ∧ target = netAddr m d then emit (.icmp d echo target) m else m

/-- A datagram dropped by R436. -/
def isfDrop (d : Nat) (m : Mod) : Mod := modMdie m d fun x => { x with isf := sat64 x.isf 1 }

/-! ### The ISF header (R435): 32 bytes in network order -/

def isfType (g : Datagram) : Nat := fldBe g.udp 1 1
def isfStream (g : Datagram) : W32 := BitVec.ofNat 32 (fldBe g.udp 4 4)
def isfSeq (g : Datagram) : Nat := fldBe g.udp 8 6
def isfLast (g : Datagram) : Bool := bit (fldBe g.udp 0x0E 1) 0
def isfCtrl (g : Datagram) : Nat := fldBe g.udp 0x10 4
def isfPayload (g : Datagram) : List Byte := g.udp.drop 32

/-- The checks of R436: VERSION 1, the row's TYPE, reserved fields, LENGTH. -/
def isfBad (typ : Nat) (g : Datagram) : Bool :=
  decide (g.udp.length < 32) || fldBe g.udp 0 1 != 0x10 || isfType g != typ || fldBe g.udp 2 2 != g.udp.length - 32
    || decide (g.udp.length > 8992) || decide (fldBe g.udp 0x0E 1 > 1) || fldBe g.udp 0x0F 1 != 0 || !allZero (slice g.udp 0x14 12)

/-- A control message of the module: VERSION 1, TYPE, LENGTH, STREAM_ID, SEQ 0, CTRL_SEQ, payload. -/
def isfMsg (typ : Nat) (id : W32) (ctrl : Nat) (pl : List Byte) : List Byte :=
  toBe 1 0x10 ++ toBe 1 typ ++ toBe 2 pl.length ++ toBe 4 id.toNat ++ List.replicate 8 0 ++ toBe 4 ctrl ++ List.replicate 12 0 ++ pl

/-! ## Streams of a port -/

def isOpen (s : SSt) : Bool := s == .opn || s == .paused || s == .draining

def slotsOf (m : Mod) (d : Nat) : List (Nat × Strm) := (mdie m d).slots

/-- The open stream of a source and STREAM_ID. -/
def openOf (m : Mod) (d : Nat) (g : Datagram) : Option Nat :=
  ((slotsOf m d).find? fun x => isOpen x.2.st && x.2.id == isfStream g && x.2.src == g.srcAddr).map (·.1)

/-! ## Events (R452, R486, R493) -/

def pauseCode (s : Strm) : Nat := if s.st ≠ .paused then 0 else if s.pauseScrub then 3 else if s.pauseHost then 2 else 1

def eventEntry (d s : Nat) (x : Strm) (why : Nat) (time : W64) : CqEntry where
  own := false
  tag := BitVec.ofNat 16 (4096 * d + s)
  half := BitVec.ofNat 16 (ssNum x.st + 16 * why)
  event := true
  status := 0
  reason := x.reason
  flog := 0
  time := time

/-- LABEL of the OFFER (R441). -/
def streamLabel (x : Strm) : List Byte := slice x.offer 0x20 32

/-- A stream event: at most 64 wait at a CQ; one for a CQ that is not enabled or not the partition's is
counted at the slot. The entry of R493 has no field for the LABEL, which goes out beside it (log 69, DESIGN CHOICE). -/
def postEvent (t : Clk) (d s why : Nat) (m : Mod) : Mod :=
  let x := strm m d s
  let n := fld x.profile 0x60 2
  let mine := cqEn m n && !cqModuleRing m n && some (cqPart m n) == mediaPart m d
  if n ≥ 1024 ∨ ¬ mine then modStrm m d s fun y => { y with evDropped := satAdd 0xFFFF y.evDropped 1 }
  else if ((ring m n).waiting.filter (·.event)).length ≥ 64 then modRing m n fun r => { r with evLost := satAdd 0xFFFFFFFF r.evLost 1 }
  else
    let e := eventEntry d s x why t.sid
    emit (.eventLabel n e.tag (streamLabel x)) (putEntry n e m)

/-- A change of state, with its event. -/
def enterState (t : Clk) (d s : Nat) (st : SSt) (why : Nat) (m : Mod) : Mod :=
  postEvent t d s why (modStrm m d s fun x => { x with st := st })

/-! ## Control messages -/

/-- A message to the source of a stream. -/
def toSource (d s typ ctrl : Nat) (pl : List Byte) (m : Mod) : Mod :=
  let x := strm m d s
  emit (.isf d x.src x.srcPort (isfMsg typ x.id ctrl pl)) m

/-- A new control message (R437). -/
def sendCtl (d s typ : Nat) (pl : List Byte) (m : Mod) : Mod :=
  let n := (strm m d s).ctrlTx + 1
  toSource d s typ n pl (modStrm m d s fun x => { x with ctrlTx := n })

/-- A repeat, with the CTRL_SEQ of the message it repeats. -/
def repeatCtl (t : Clk) (d s typ ctrl : Nat) (pl : List Byte) (m : Mod) : Mod :=
  toSource d s typ ctrl pl (modStrm m d s fun x => { x with lastTx := t.now })

def usTicks (n : Nat) : Nat := 1600 * n

/-! ## Landing regions -/

def landDie (x : Strm) (d : Nat) : Nat := landTd d x.profile
def segUnits (x : Strm) : Nat := x.seg / unit2M

/-- A region operation of a media die, applied as it is issued (log 45). -/
def mediaOp (d part entry : Nat) (op : RegOp) (landing : Bool) : RegReq where
  id := 0
  op := op
  who := .media d
  part := part
  entry := entry
  va := false
  deps := []
  result := if landing then some (landMark d 0, 0) else none
  word := none
  cmd := none

def applyMedia (t : Clk) (td : Nat) (q : RegReq) (m : Mod) : Option (Nat × Mod) :=
  match regionStep t m td q with
  | .error _ => none
  | .ok (e, r) => some (e, setRegion m td e r)

/-- The same where the table of R189 may refuse it, after a driver's RECLAIM: the refusal is logged with its reason. -/
def mediaStep (t : Clk) (td : Nat) (q : RegReq) (m : Mod) : Bool × Mod :=
  match regionStep t m td q with
  | .error e => (false, regionRefused t m td q e)
  | .ok (e, r) => (true, setRegion m td e r)

/-- Whether a range of a tier die reaches a KEEP window, where a media die could write nothing (R354). -/
def reachesKeep (m : Mod) (td base size : Nat) : Bool :=
  (List.range size).any fun i => (keepWin m td ((base + i) * unit2M)).isSome

/-- The free places of a tier die that take a region, and the one the media die picks: outside every KEEP window. -/
def pickBase (m : Mod) (td part size : Nat) (landing : Bool) : Option Nat :=
  let ok := (List.range 253952).filter fun b => (openErr m td part (b * unit2M) size landing).isNone && !reachesKeep m td b size
  ok[Config.placePick m.draw % max 1 ok.length]?

/-- Opens a region: its entry and base. -/
def openMedia (t : Clk) (d td part size : Nat) (landing : Bool) (m : Mod) : Option (Nat × Nat × Mod) :=
  match pickBase m td part size landing with
  | none => none
  | some b => (applyMedia t td (mediaOp d part 0 (.opn (b * unit2M) size) landing) { m with draw := m.draw + 1 }).map fun r => (r.1, b, r.2)

/-- Seals a region for n readers and releases it (R189: at seal). -/
def sealMedia (t : Clk) (d td part entry n : Nat) (m : Mod) : Mod :=
  match mediaStep t td (mediaOp d part entry (.seal n) false) m with
  | (false, m1) => m1
  | (true, m1) => (mediaStep t td (mediaOp d part entry .release false) m1).2

/-- An access of a media die to the tier, by physical address. -/
def mediaReq (m : Mod) (d : Nat) : Req :=
  { who := .media (Fin.ofNat 6 d), part := mediaPart m d, phys := true, owner := some (.media d) }

/-- Bytes that a media die writes at an offset of a tier die, line by line, and how many of them are refused: a line
whose range, region, window or check refuses the write is refused alone, and logged (R175, R190, R354). -/
def writeTier (t : Clk) (d td off : Nat) (data : List Byte) (m : Mod) : Mod × Nat :=
  let base := tierAddr td off
  (spans base data.length).foldl (fun acc c =>
    match writeMem t acc.1 (mediaReq m d) c.1 ((data.drop (c.1 - base)).take c.2) false .clean with
    | (m1, some _) => (m1, acc.2 + c.2)
    | (m1, none) => (m1, acc.2)) (m, 0)

/-- The partition of a media die's slots. -/
def streamPart (m : Mod) (d : Nat) : Nat := (mediaPart m d).getD 0

/-- The FILLING segment is sealed for its one decoder (R455). -/
def sealSeg (t : Clk) (d s : Nat) (m : Mod) : Mod :=
  let x := strm m d s
  match x.cur with
  | none => m
  | some (e, _, _) => modStrm (sealMedia t d (landDie x d) (streamPart m d) e 1 m) d s fun y => { y with cur := none }

/-- A segment to fill: the one that fills, or a new one within the pool. A pause for SPACE seals the segment that crossed
the threshold part-filled (R455), so the bytes below LIMIT_SEQ, which R447 lands, may take one segment more than P: DEDUCED,
log 69. -/
def needSeg (t : Clk) (d s : Nat) (m : Mod) : Option Mod :=
  let x := strm m d s
  if x.cur.isSome then some m
  else if x.segs.length * x.seg + x.seg > x.pool + (if x.pauseSpace then x.seg else 0) then none
  else (openMedia t d (landDie x d) (streamPart m d) (segUnits x) true m).map fun r =>
    modStrm r.2.2 d s fun y => { y with cur := some (r.1, r.2.1, 0), segs := y.segs ++ [(r.1, 0, 0)] }

/-- Bytes into the segment that fills, and how many of them land; a full one is sealed. Those whose write is refused are
dropped and counted (R568). -/
def fillSeg (t : Clk) (d s : Nat) (bs : List Byte) (m : Mod) : Nat × Mod :=
  let x := strm m d s
  match x.cur with
  | none => (0, m)
  | some (e, b, at_) =>
    let (m1, lost) := writeTier t d (landDie x d) (b * unit2M + at_) bs m
    let m2 := modStrm m1 d s fun y => { y with
      cur := some (e, b, at_ + bs.length)
      segs := y.segs.map fun z => if z.1 = e then (e, at_ + bs.length, z.2.2) else z
      undecoded := y.undecoded + bs.length
      bytesDropped := sat64 y.bytesDropped lost }
    (bs.length - lost, if at_ + bs.length = x.seg then sealSeg t d s m2 else m2)

def curLeft (x : Strm) : Nat :=
  match x.cur with
  | none => x.seg
  | some (_, _, at_) => x.seg - at_

/-- Bytes landed in order, and how many: those for which no segment can be opened are dropped and counted (R455). -/
def landAll (t : Clk) (d s : Nat) : Nat → Nat → List Byte → Mod → Nat × Mod
  | 0, k, _, m => (k, m)
  | fuel + 1, k, bs, m =>
    if bs.isEmpty then (k, m) else
    match needSeg t d s m with
    | none => (k, modStrm m d s fun y => { y with bytesDropped := sat64 y.bytesDropped bs.length })
    | some m1 =>
      let n := min bs.length (curLeft (strm m1 d s))
      let (got, m2) := fillSeg t d s (bs.take n) m1
      landAll t d s fuel (k + got) (bs.drop n) m2

def landBytes (t : Clk) (d s : Nat) (bs : List Byte) (m : Mod) : Nat × Mod := landAll t d s bs.length 0 bs m

/-! ## Landing bytes decoded -/

/-- Whether a segment is the FILLING one, which no decoder may read (R190). -/
def fills (x : Strm) (e : Nat) : Bool := x.cur.any fun c => c.1 == e

/-- The landing bytes a decoder may read: those of sealed segments. -/
def sealedBytes (x : Strm) : Nat := ((x.segs.filter fun z => !fills x z.1).map fun z => z.2.1 - z.2.2).foldl (· + ·) 0

/-- Landing bytes decoded: each sealed segment that is done is freed (R189, R193). -/
def consume (t : Clk) (d s : Nat) : Nat → Nat → Mod → Mod
  | 0, _, m => m
  | fuel + 1, n, m =>
    let x := strm m d s
    match x.segs with
    | [] => m
    | (e, filled, dec) :: r =>
      if fills x e then m else
      let k := min n (filled - dec)
      let took := fun (y : Strm) => { y with undecoded := y.undecoded - k, taken := y.taken + k }
      if dec + k = filled then
        let m1 := (mediaStep t (landDie x d) (mediaOp d (streamPart m d) e .done false) m).2
        consume t d s fuel (n - k) (modStrm m1 d s fun y => { took y with segs := r })
      else modStrm m d s fun y => { took y with segs := (e, filled, dec + k) :: r }

/-- A stream that is over seals what it still fills and frees what is decoded. -/
def freeDecoded (t : Clk) (d s : Nat) (m : Mod) : Mod :=
  let m1 := sealSeg t d s m
  consume t d s ((strm m1 d s).segs.length + 1) 0 m1

def noPause (x : Strm) : Strm := { x with pauseSpace := false, pauseHost := false, pauseScrub := false }

/-- A stream of the partition on a media die is still active. -/
def dieStreams (m : Mod) (d : Nat) : Bool := (slotsOf m d).any fun x => isOpen x.2.st

/-- The shuffle segment of a media die whose last stream has drained is sealed, or abandoned when it
holds no sample (R467). -/
def closeShuffle (t : Clk) (d : Nat) (m : Mod) : Mod :=
  let k := streamPart m d
  let g : ShufSeg := sget { td := 0, region := 0, va := 0, fill := 0, count := 0 } (partSt m k).shuf d
  if dieStreams m d ∨ ¬ (partSt m k).shuf.any (fun x => x.1 == d) then m else
  let m1 := modPart m k fun p => { p with shuf := p.shuf.filter fun x => x.1 != d }
  if g.count = 0 then (mediaStep t g.td (mediaOp d k g.region .abandon false) m1).2
  else modPart (sealMedia t d g.td k g.region g.count m1) k fun p => { p with
    samples := p.samples.map fun y => if y.td = g.td ∧ y.region = g.region then { y with isSealed := true } else y }

/-- What commits the landing pool ends with the last landing segment of a stream that is over (R444). -/
def endCommit (d s : Nat) (m : Mod) : Mod :=
  modStrm m d s fun x => if x.segs.isEmpty ∧ (x.st = .closed ∨ x.st = .error ∨ x.st = .disabled) then { x with pool := 0 } else x

/-- CLOSED. While EN is 0 the slot is DISABLED at once; with EN set again since, it then listens under the new
profile (R452; log 69, DEDUCED). -/
def toClosed (t : Clk) (d s : Nat) (m : Mod) : Mod :=
  let m1 := endCommit d s (closeShuffle t d (enterState t d s .closed 0 (modStrm m d s noPause)))
  match (strm m1 d s).nextProfile with
  | some b => enterState t d s .listening 0 (modStrm (enterState t d s .disabled 0 m1) d s fun x => { x with profile := b, nextProfile := none })
  | none => if streamEn m1 d s then m1 else enterState t d s .disabled 0 m1

/-- A stream set aside that is over leaves nothing. -/
def dropAside (d s : Nat) (m : Mod) : Mod := if s < 64 then m else modMdie m d fun x => { x with slots := x.slots.filter fun z => z.1 != s }

/-- DRAINING ends once everything landed is decoded and pooled. A stream in ERROR frees its segments once all is decoded
(R444), and leaves its shuffle segment to the same end, which R467 states of streams that drain (log 69, DEDUCED). -/
def tryDrained (t : Clk) (d s : Nat) (m : Mod) : Mod :=
  let x := strm m d s
  if x.undecoded ≠ 0 ∨ ¬ x.ahead.isEmpty then m
  else if x.st = .error then
    let m1 := endCommit d s (freeDecoded t d s m)
    if x.ready.isEmpty then dropAside d s (closeShuffle t d m1) else m1
  else if x.st = .draining ∧ x.ready.isEmpty then toClosed t d s (freeDecoded t d s m)
  else m

/-! ## A stream that leaves ERROR (R448, R452) -/

/-- The slot number under which what a stream still decodes goes on, beside those that wait there. -/
def asideSlot (m : Mod) (d s : Nat) : Nat :=
  s + 64 * (1 + (((slotsOf m d).filter fun z => z.1 % 64 == s).map fun z => z.1 / 64).foldl max 0)

/-- What the slot keeps of a stream that is over: its profile, its name, its counters, the repeats of its CLOSE. -/
def slotRest (x : Strm) : Strm :=
  { ({} : Strm) with
    st := x.st, profile := x.profile, reason := x.reason, id := x.id, src := x.src, srcPort := x.srcPort, offer := x.offer, opens := x.opens
    ctrlRx := x.ctrlRx, ctrlTx := x.ctrlTx, closeLeft := x.closeLeft, closePl := x.closePl, closeCtrl := x.closeCtrl, closeId := x.closeId
    closeTo := x.closeTo, closePort := x.closePort, closeAt := x.closeAt, bytesLanded := x.bytesLanded, bytesDropped := x.bytesDropped
    gapBytes := x.gapBytes, evDropped := x.evDropped, smpDropped := x.smpDropped }

/-- What a stream in ERROR has still to decode and to place is set aside, so that its slot is free (log 69, DEDUCED). -/
def setAside (d s : Nat) (m : Mod) : Mod :=
  let x := strm m d s
  let m1 := if x.segs.isEmpty ∧ x.ready.isEmpty then m else modStrm m d (asideSlot m d s) fun _ => { x with nextProfile := none }
  modStrm m1 d s slotRest

/-- ERROR is left when EN is cleared, at once where it is 0 already; with EN set again since, the slot then listens. -/
def leaveError (t : Clk) (d s : Nat) (m : Mod) : Mod :=
  let next := (strm m d s).nextProfile
  let m1 := enterState t d s .disabled 0 (setAside d s m)
  match next with
  | some b => enterState t d s .listening 0 (modStrm m1 d s fun x => { x with profile := b })
  | none => m1

/-- ERROR, with its event. -/
def enterError (t : Clk) (d s : Nat) (m : Mod) : Mod :=
  let m1 := tryDrained t d s (enterState t d s .error 0 m)
  if streamEn m1 d s ∧ (strm m1 d s).nextProfile.isNone then m1 else leaveError t d s m1

/-! ## Sync (R456) -/

/-- Demux finds no sync, or what R457 does not list: ERROR. -/
def demuxError (t : Clk) (d s : Nat) (m : Mod) : Mod :=
  if (strm m d s).st = .error then m
  else enterError t d s (modStrm (sealSeg t d s m) d s fun y => { noPause y with
    reason := 0x51, ahead := [], hole := none, resync := none, scan := [] })

/-- CONTAINER of a stream. -/
def containerOf (x : Strm) : Nat := fldBe x.offer 0x14 1

/-- Whether bytes hold sync: a transport-stream sync byte and another 188 bytes on, or the first four bytes of a KLV key
(06 0E 2B 34, PRESUMED from the MXF standards, log 69). -/
def hasSync (container : Nat) (b : List Byte) : Bool :=
  if container = 0 then (List.range (b.length - 188)).any fun i => b[i]? == some 0x47 && b[i + 188]? == some 0x47
  else (List.range (b.length - 3)).any fun i => slice b i 4 == [0x06, 0x0E, 0x2B, 0x34]

/-- Demux searches for sync from the start of a stream and after a gap, in the bytes as they land (log 69, DESIGN
CHOICE); an elementary stream has none to find. -/
def wantSync (x : Strm) : Strm := if containerOf x ≤ 1 then { x with resync := some 0, scan := [] } else x

/-- The search goes on in n landed bytes: 16 MiB without sync end the stream. -/
def searchSync (t : Clk) (d s : Nat) (bs : List Byte) (m : Mod) : Mod :=
  let x := strm m d s
  match x.resync with
  | none => m
  | some n =>
    let b := x.scan ++ bs
    if hasSync (containerOf x) b then modStrm m d s fun y => { y with resync := none, scan := [] }
    else if n + bs.length ≥ 0x1000000 then demuxError t d s m
    else modStrm m d s fun y => { y with resync := some (n + bs.length), scan := b.drop (b.length - 188) }

/-! ## Order -/

/-- The held datagrams' first arrival. -/
def firstHeld (l : List (Nat × List Byte × Nat)) : Option Nat := (l.map fun x => x.2.2).min?

def holdList (l : List (Nat × List Byte × Nat)) (x : Strm) : Strm := { x with ahead := l, hole := firstHeld l }

/-- A gap: its 16-byte record, the first and last sequence number, in place of the bytes (R456). -/
def landGap (t : Clk) (d s upto : Nat) (m : Mod) : Mod :=
  let x := strm m d s
  let m1 := (landBytes t d s (toLe 8 (x.next % 2 ^ 48) ++ toLe 8 ((upto - 1) % 2 ^ 48)) m).2
  modStrm m1 d s fun y => wantSync { y with
    next := upto, gapBytes := sat64 y.gapBytes (upto - x.next), gapAt := y.gapAt ++ [x.taken + x.undecoded] }

/-- Bytes at a sequence number that is due: those already there are left out. -/
def landAt (t : Clk) (d s seq : Nat) (bs : List Byte) (m : Mod) : Mod :=
  let x := strm m d s
  let new := bs.drop (x.next - seq)
  let r := landBytes t d s new m
  searchSync t d s (new.take r.1) (modStrm r.2 d s fun y => { y with
    next := max x.next (seq + bs.length), bytesLanded := sat64 y.bytesLanded r.1 })

/-- The held datagrams in order of their sequence numbers. -/
def insertAhead (x : Nat × List Byte × Nat) : List (Nat × List Byte × Nat) → List (Nat × List Byte × Nat)
  | [] => [x]
  | y :: r => if x.1 < y.1 then x :: y :: r else y :: insertAhead x r

/-- Held datagrams that are due now land; one that holds nothing new is dropped. -/
def landAhead (t : Clk) (d s : Nat) : Nat → Mod → Mod
  | 0, m => m
  | fuel + 1, m =>
    let x := strm m d s
    match x.ahead with
    | [] => m
    | (seq, bs, _) :: r =>
      if seq > x.next then m else
      let m1 := modStrm m d s (holdList r)
      if seq + bs.length ≤ x.next then landAhead t d s fuel (modStrm m1 d s fun y => { y with bytesDropped := sat64 y.bytesDropped bs.length })
      else landAhead t d s fuel (landAt t d s seq bs m1)

def drainAhead (t : Clk) (d s : Nat) (m : Mod) : Mod := landAhead t d s ((strm m d s).ahead.length + 1) m

/-- The hole before the held datagrams is given up. -/
def closeHole (t : Clk) (d s : Nat) (m : Mod) : Mod :=
  match (strm m d s).ahead with
  | [] => m
  | (seq, _, _) :: _ => if seq > (strm m d s).next then drainAhead t d s (landGap t d s seq m) else drainAhead t d s m

/-- Every hole before a datagram that has waited 100 µs is given up. -/
def closeLate (t : Clk) (d s : Nat) : Nat → Mod → Mod
  | 0, m => m
  | fuel + 1, m =>
    match (strm m d s).hole with
    | none => m
    | some at_ => if t.now < at_ + usTicks 100 then m else closeLate t d s fuel (closeHole t d s m)

/-- Bytes in the reorder space of a port: 1 MiB. -/
def reorderUsed (m : Mod) (d : Nat) : Nat :=
  ((slotsOf m d).map fun x => (x.2.ahead.map fun y => y.2.1.length).foldl (· + ·) 0).foldl (· + ·) 0

/-- Gaps are recorded until a datagram fits the reorder space. -/
def makeRoom (t : Clk) (d s n : Nat) : Nat → Mod → Mod
  | 0, m => m
  | fuel + 1, m => if reorderUsed m d + n ≤ 0x100000 ∨ (strm m d s).ahead.isEmpty then m else makeRoom t d s n fuel (closeHole t d s m)

/-- A datagram that lies ahead of the next byte waits for the bytes between. -/
def holdAhead (t : Clk) (d s seq : Nat) (bs : List Byte) (m : Mod) : Mod :=
  let m1 := makeRoom t d s bs.length ((strm m d s).ahead.length + 1) m
  let x := strm m1 d s
  if seq ≤ x.next then drainAhead t d s (landAt t d s seq bs m1)
  else if reorderUsed m1 d + bs.length > 0x100000 then drainAhead t d s (landAt t d s seq bs (landGap t d s seq m1))
  else modStrm m1 d s (holdList (insertAhead (seq, bs, t.now) x.ahead))

/-! ## Pauses (R445 to R451) -/

/-- U: the bytes of the landing pool in use. -/
def poolUse (x : Strm) : Nat := x.segs.length * x.seg - (if x.cur.isSome then curLeft x else 0)

/-- The PAUSE payload; its sequence numbers are big-endian as the ISF header is, which R5 and R445 do not say (DESIGN CHOICE,
log 69). -/
def pausePayload (why from_ limit : Nat) : List Byte := slice (toLe 1 why ++ [0] ++ toBe 6 from_ ++ toBe 6 limit) 0 16

/-- A new PAUSE, which is then repeated. -/
def sendPause (t : Clk) (d s : Nat) (pl : List Byte) (m : Mod) : Mod :=
  sendCtl d s 4 pl (modStrm m d s fun x => { x with pausePl := pl, pauseCtrl := x.ctrlTx + 1, lastTx := t.now })

/-- A reason to pause: 1 SPACE, 2 HOST, 3 SCRUB. An OPEN stream seals its segment and enters PAUSED; a
PAUSED one sends the reason under the numbers of its first PAUSE (R446). -/
def pauseFor (t : Clk) (d s why : Nat) (m : Mod) : Mod :=
  let x := strm m d s
  let set := fun (y : Strm) => match why with
    | 1 => { y with pauseSpace := true }
    | 2 => { y with pauseHost := true }
    | _ => { y with pauseScrub := true }
  if x.st = .opn then
    let pl := pausePayload why x.highest (x.highest + x.v)
    let m1 := modStrm (sealSeg t d s m) d s fun y => { set y with pauseSeq := y.highest, limit := y.highest + y.v, resumeAt := none }
    enterState t d s .paused why (sendPause t d s pl m1)
  else if x.st = .paused then
    let pl := pausePayload why x.pauseSeq x.limit
    sendPause t d s pl (modStrm m d s set)
  else m

/-- An OPEN stream past its working segments is paused for SPACE. -/
def checkSpace (t : Clk) (d s : Nat) (m : Mod) : Mod :=
  let x := strm m d s
  if x.st = .opn ∧ poolUse x > x.work * x.seg then pauseFor t d s 1 m else m

/-- The SPACE reason ends at the resume point (R450). -/
def endSpace (d s : Nat) (m : Mod) : Mod :=
  modStrm m d s fun x => if x.pauseSpace ∧ poolUse x * 1000000 ≤ x.rate * x.restart + x.seg * 1000000 then { x with pauseSpace := false } else x

/-- The RESUME payload, big-endian (log 69). -/
def resumePayload (seq : Nat) : List Byte := slice ([0, 0] ++ toBe 6 seq) 0 16

/-- A PAUSED stream with no reason left resumes. -/
def tryResume (t : Clk) (d s : Nat) (m0 : Mod) : Mod :=
  let m := endSpace d s m0
  let x := strm m d s
  if x.st ≠ .paused ∨ x.pauseSpace ∨ x.pauseHost ∨ x.pauseScrub then m
  else
    let m1 := sendCtl d s 5 (resumePayload x.highest) (modStrm m d s fun y => { y with
      resumeAt := some (y.highest, t.now), resumeCtrl := y.ctrlTx + 1, lastTx := t.now })
    checkSpace t d s (enterState t d s .opn 0 m1)

def pauseRepeat (d s : Nat) (t : Clk) (m : Mod) : Mod :=
  let x := strm m d s
  if ¬ ingestUp m ∨ x.st ≠ .paused ∨ t.now < x.lastTx + usTicks 10 then m else repeatCtl t d s 4 x.pauseCtrl x.pausePl m

def resumeRepeat (d s : Nat) (t : Clk) (m : Mod) : Mod :=
  let x := strm m d s
  match x.resumeAt with
  | none => if x.st = .paused then tryResume t d s m else m
  | some (seq, at_) =>
    if t.now ≥ at_ + usTicks 1000 then modStrm m d s fun y => { y with resumeAt := none }
    else if t.now < x.lastTx + usTicks 10 then m
    else repeatCtl t d s 5 x.resumeCtrl (resumePayload seq) m

/-! ## Closing (R448, R452 to R454) -/

/-- The CLOSE payload, big-endian (log 69). -/
def closePayload (why code final : Nat) : List Byte := toLe 1 why ++ toLe 1 code ++ toBe 6 final

/-- The module's CLOSE, the first of 8 that are the same. -/
def sendClose (t : Clk) (d s why code : Nat) (m : Mod) : Mod :=
  let pl := closePayload why code (strm m d s).highest
  sendCtl d s 6 pl (modStrm m d s fun y => { y with
    closeLeft := 7, closePl := pl, closeCtrl := y.ctrlTx + 1, closeId := y.id, closeTo := y.src, closePort := y.srcPort, closeAt := t.now
    resumeAt := none })

/-- The contract or the rate is broken: ERROR with its code (R448, R449). -/
def breakStream (t : Clk) (d s code : Nat) (m : Mod) : Mod :=
  let m1 := sendClose t d s 1 code (sealSeg t d s m)
  enterError t d s (modStrm m1 d s fun y => { noPause y with reason := BitVec.ofNat 8 code, ahead := [], hole := none })

/-- What is held ahead, up to a sequence number. -/
def cutAhead (final : Nat) (l : List (Nat × List Byte × Nat)) : List (Nat × List Byte × Nat) :=
  (l.map fun x => (x.1, x.2.1.take (final - x.1), x.2.2)).filter fun x => !x.2.1.isEmpty

def aheadBytes (l : List (Nat × List Byte × Nat)) : Nat := (l.map fun x => x.2.1.length).foldl (· + ·) 0

/-- DRAINING up to a sequence number; bytes held beyond it are dropped. -/
def beginDrain (t : Clk) (d s final : Nat) (m : Mod) : Mod :=
  tryDrained t d s (enterState t d s .draining 0 (modStrm (sealSeg t d s m) d s fun y =>
    let l := cutAhead final y.ahead
    { holdList l (noPause y) with
      final := some final, resumeAt := none, bytesDropped := sat64 y.bytesDropped (aheadBytes y.ahead - aheadBytes l) }))

/-- The landing regions of a stream are freed. -/
def reclaimSegs (d s : Nat) (m : Mod) : Mod :=
  let x := strm m d s
  modStrm (x.segs.foldl (fun m e => setRegion m (landDie x d) e.1 {}) m) d s fun y => { y with
    segs := [], cur := none, undecoded := 0, gapAt := [], ready := [], shown := [], ahead := [], hole := none, resync := none, scan := [], pool := 0 }

/-- A scrub closes a stream with REASON 3: no decoding, its landing regions are reclaimed (R561). -/
def scrubClose (t : Clk) (d s : Nat) (m : Mod) : Mod :=
  let m1 := sendClose t d s 3 0 m
  let m2 := if (strm m1 d s).st = .draining then m1 else enterState t d s .draining 0 (modStrm m1 d s noPause)
  toClosed t d s (reclaimSegs d s m2)

/-! ## DATA -/

/-- A 48-bit sequence number of the wire, as the one nearest the next byte; none before 0 (R438). -/
def unwrapSeq (x : Strm) (q : Nat) : Option Nat :=
  let up := (q % 2 ^ 48 + 2 ^ 48 - x.next % 2 ^ 48) % 2 ^ 48
  if up < 2 ^ 47 then some (x.next + up)
  else if 2 ^ 48 ≤ x.next + up then some (x.next + up - 2 ^ 48)
  else none

/-- The end of what a stream may carry: 2^48 − 1 bytes (R438), and the end of a DRAINING one. -/
def endOf (x : Strm) : Nat := min (x.start + (2 ^ 48 - 1)) (x.final.getD (x.start + (2 ^ 48 - 1)))

/-- The bytes below that end. -/
def belowFinal (x : Strm) (seq : Nat) (bs : List Byte) : List Byte := bs.take (endOf x - seq)

/-- Bytes of a datagram that the state admits. -/
def dataIn (t : Clk) (d s seq : Nat) (bs : List Byte) (m : Mod) : Mod :=
  let x := strm m d s
  let cut := belowFinal x seq bs
  let m1 := modStrm m d s fun y => { y with
    highest := max y.highest (seq + cut.length)
    bytesDropped := sat64 y.bytesDropped (bs.length - cut.length)
    sinceData := t.now
    resumeAt := match y.resumeAt with
      | some (r, at_) => if seq + bs.length > r then none else some (r, at_)
      | none => none }
  if cut.isEmpty then m1
  else if seq + cut.length ≤ x.next then modStrm m1 d s fun y => { y with bytesDropped := sat64 y.bytesDropped cut.length }
  else if seq ≤ x.next then drainAhead t d s (landAt t d s seq cut m1)
  else holdAhead t d s seq cut m1

/-- Phase 2 of a scrub of the media die's partition (R559). -/
def streamsPhase (m : Mod) (d : Nat) : Bool := (partSt m (streamPart m d)).scrub.any fun x => x.phase == .streams

/-- During phase 2 the byte before LIMIT_SEQ closes the stream (R561). -/
def scrubLimit (t : Clk) (d s : Nat) (m : Mod) : Mod :=
  let x := strm m d s
  if streamsPhase m d ∧ x.st = .paused ∧ x.pauseScrub ∧ x.limit ≤ x.highest then scrubClose t d s m else m

/-- A datagram waits to land: for a recalibration, or, where it may open or seal a segment, for the firmware of the tier die. -/
def landWaits (m : Mod) (d s n : Nat) : Bool :=
  let x := strm m d s
  tierRecals m (landDie x d) || svcRuns m 1 6 (landDie x d) && (x.cur.isNone || decide (curLeft x ≤ n) || !x.ahead.isEmpty)

def dataRow (d : Nat) (g : Datagram) (t : Clk) (m : Mod) : Mod :=
  if ¬ ingestUp m then m
  else if isfBad 1 g then isfDrop d m
  else match openOf m d g with
    | none => isfDrop d m
    | some s =>
      let x := strm m d s
      let n := (isfPayload g).length
      if landWaits m d s n then m else
      let m1 := modStrm m d s fun y => { y with window := y.window + n }
      match unwrapSeq x (isfSeq g) with
      | none => modStrm m1 d s fun y => { y with bytesDropped := sat64 y.bytesDropped n, sinceData := t.now }
      | some seq =>
        if x.st = .paused ∧ seq + n > x.limit ∧ n ≠ 0 then
          breakStream t d s 0x58 (modStrm m1 d s fun y => { y with bytesDropped := sat64 y.bytesDropped n })
        else scrubLimit t d s (checkSpace t d s (dataIn t d s seq (isfPayload g)
          (modStrm m1 d s fun y => { y with lastAt := if isfLast g then some (seq + n) else y.lastAt })))

def reorderTimeout (d s : Nat) (t : Clk) (m : Mod) : Mod :=
  match (strm m d s).hole with
  | none => m
  | some at_ => if t.now < at_ + usTicks 100 then m
    else tryDrained t d s (checkSpace t d s (closeLate t d s ((strm m d s).ahead.length + 1) m))

/-- The end of a window of 100 µs: R × 100 µs × 1.01 bytes at most (R449). -/
def rateWindow (d s : Nat) (t : Clk) (m : Mod) : Mod :=
  let x := strm m d s
  if ¬ isOpen x.st ∨ t.now < x.windowAt + usTicks 100 then m
  else if x.window * 1000000 > x.rate * 101 then breakStream t d s 0x59 m
  else modStrm m d s fun y => { y with window := 0, windowAt := t.now }

/-! ## CLOSE -/

/-- A source's CLOSE: bytes below FINAL_SEQ, and below LIMIT_SEQ of an outstanding PAUSE, still land
(R454). -/
def closeIn (d : Nat) (g : Datagram) (t : Clk) (m : Mod) : Mod :=
  if ¬ ingestUp m then m
  else if isfBad 6 g ∨ (isfPayload g).length ≠ 8 then isfDrop d m
  else match openOf m d g with
    | none => m
    | some s =>
      let x := strm m d s
      if isfCtrl g ≤ x.ctrlRx then m else
      let m1 := modStrm m d s fun y => { y with ctrlRx := isfCtrl g }
      let final := (unwrapSeq x (fldBe (isfPayload g) 2 6)).getD 0
      if x.st = .draining then m1
      else if x.pauseScrub ∧ streamsPhase m d then scrubClose t d s m1
      else beginDrain t d s (if x.st = .paused then min final x.limit else final) m1

def closeRepeat (d s : Nat) (t : Clk) (m : Mod) : Mod :=
  let x := strm m d s
  if ¬ ingestUp m ∨ x.closeLeft = 0 ∨ t.now < x.closeAt + usTicks 10 then m
  else emit (.isf d x.closeTo x.closePort (isfMsg 6 x.closeId x.closeCtrl x.closePl))
    (modStrm m d s fun y => { y with closeLeft := y.closeLeft - 1, closeAt := t.now })

/-- 1 ms with no DATA byte during a scrub closes the stream (R561). -/
def scrubIdle (d s : Nat) (t : Clk) (m : Mod) : Mod :=
  let x := strm m d s
  if streamsPhase m d ∧ x.st = .paused ∧ x.pauseScrub ∧ t.now ≥ x.sinceData + usTicks 1000 then scrubClose t d s m else m

/-! ## The rows -/

def execEthernetFrame (d : Media) (fr : Frame) (s : State) : Host.Outcome State Fault Refusal := onMod (fun _ m => frameIn d.val fr m) s
def execNeighborSolicitation (d : Media) (target : List Byte) (s : State) : Host.Outcome State Fault Refusal :=
  onMod (fun _ m => icmpIn d.val false target m) s
def execEchoRequest (d : Media) (target : List Byte) (s : State) : Host.Outcome State Fault Refusal :=
  onMod (fun _ m => icmpIn d.val true target m) s
def execData (d : Media) (g : Datagram) (s : State) : Host.Outcome State Fault Refusal := onMod (dataRow d.val g) s
def execPauseRepeat (d : Media) (n : Slot) (s : State) : Host.Outcome State Fault Refusal := onMod (pauseRepeat d.val n.val) s
def execResumeRepeat (d : Media) (n : Slot) (s : State) : Host.Outcome State Fault Refusal := onMod (resumeRepeat d.val n.val) s
def execClose (d : Media) (g : Datagram) (s : State) : Host.Outcome State Fault Refusal := onMod (closeIn d.val g) s
def execCloseRepeat (d : Media) (n : Slot) (s : State) : Host.Outcome State Fault Refusal := onMod (closeRepeat d.val n.val) s
def execReorderTimeout (d : Media) (n : Slot) (s : State) : Host.Outcome State Fault Refusal := onMod (reorderTimeout d.val n.val) s
def execRateWindowEnd (d : Media) (n : Slot) (s : State) : Host.Outcome State Fault Refusal := onMod (rateWindow d.val n.val) s
def execScrubStreamIdleTimeout (d : Media) (n : Slot) (s : State) : Host.Outcome State Fault Refusal := onMod (scrubIdle d.val n.val) s

end Sys2Proof.Machine
end

