-- ==== Sys2Proof/Machine/Samples.lean ====
section
/-! DEFINITION. Stream slots and profiles (R439, R440, R451), OFFER and ACCEPT (R441 to R444, R458),
decoding (R457 to R460), samples (R461 to R465), the shuffle pool (R466 to R471). -/

namespace Sys2Proof.Machine

/-! ## Profiles (R439, R440) -/

def pf (x : Strm) (o n : Nat) : Nat := fld x.profile o n

def reservedZero (b : List Byte) : Bool :=
  fld b 0x23 1 == 0 && fld b 0x3F 1 == 0 && fld b 0x5B 1 == 0 && fld b 0x5E 2 == 0 && allZero (slice b 0x62 30)
    && decide (fld b 0x5A 1 < 8)

def codecOk (c : Nat) : Bool := decide (c ≤ 6)
def patchOk (p : Nat) : Bool := p == 14 || p == 16 || p == 32
def outOk (v p : Nat) : Bool := decide (32 ≤ v) && decide (v ≤ 4096) && v % p == 0

/-- Three hexadecimal digits. -/
def pageOk (v : Nat) : Bool := decide (v < 0x1000)

/-- Every field within its range (R439). -/
def fieldsOk (b : List Byte) : Bool :=
  let f := fld b
  let patch := f 0x38 1
  decide (f 0x12 1 < 8) && (decide (f 0x13 1 < 4) || f 0x13 1 == 0xFF)
    && f 0x14 2 % 2 == 0 && decide (2 ≤ f 0x14 2) && decide (f 0x14 2 ≤ 64)
    && decide (2 ≤ f 0x16 2) && decide (f 0x16 2 ≤ 1024) && codecOk (f 0x22 1)
    && decide (f 0x28 1 < 3) && decide (f 0x29 1 < 2) && decide (f 0x2A 1 < 4) && decide (f 0x2B 1 < 2)
    && patchOk patch && outOk (f 0x34 2) patch && outOk (f 0x36 2) patch
    && decide (1 ≤ f 0x39 1) && decide (f 0x39 1 ≤ 16) && decide (1 ≤ f 0x3A 1)
    && (f 0x3B 1 == 1 || f 0x3B 1 == 3 || f 0x3B 1 == 4) && decide (1 ≤ f 0x3C 2) && decide (f 0x3E 1 < 2)
    && decide (f 0x58 1 ≤ 4) && (f 0x58 1 == 0 || f 0x59 1 % 16 == 1 || f 0x59 1 % 16 == 2)
    && pageOk (f 0x5C 2) && decide (f 0x60 2 < 1024) && reservedZero b

/-- Columns and rows of the video matrix (R462). -/
def videoCols (b : List Byte) : Nat := roundUp (3 * fld b 0x38 1 * fld b 0x38 1 * fld b 0x39 1) 32
def videoRows (b : List Byte) : Nat := roundUp (fld b 0x34 2 / fld b 0x38 1 * (fld b 0x36 2 / fld b 0x38 1)) 32
def videoBytes (b : List Byte) : Nat := gridBytes (videoCols b) (fld b 0x3B 1) (videoRows b)

/-- The crop window, and its relation to the output. -/
def cropBad (b : List Byte) : Bool :=
  let w := fld b 0x30 2
  let h := fld b 0x32 2
  w != 0 && (decide (w > 8192) || decide (h > 4320) || (fld b 0x2B 1 == 0 && (decide (fld b 0x34 2 > w) || decide (fld b 0x36 2 > h))))

/-- Record tile and video run; sound and captions come with the stream. -/
def leastExtent (b : List Byte) : Nat := 512 + videoBytes b

/-- The check of STREAM_CTRL.EN. -/
def profileErr (m : Mod) (d : Nat) (b : List Byte) : Option Byte :=
  if ¬ fieldsOk b ∨ cropBad b ∨ leastExtent b > 0x4000000 then some 0x51
  else match mediaPart m d with
    | none => some 0x56
    | some k => if fld b 0x12 1 ≠ k ∨ ¬ partEn m k ∨ (partSt m k).scrub.isSome ∨ poolSegs m k = 0 then some 0x56 else none

/-- The profile, read by its virtual address from HBM of the slot's partition. -/
def readProfile (t : Clk) (m : Mod) (d a : Nat) : Mod × Option (List Byte) :=
  match mediaPart m d with
  | none => (m, none)
  | some k =>
    let hbm : Nat → Bool := fun x => match xlate m k x false with
      | .ok p => (match place p.phys with
        | .hbm _ _ => true
        | _ => false)
      | .error _ => true
    let rq : Req := { who := .media (Fin.ofNat 6 d), part := some k, phys := false, owner := some (.media d) }
    if !hbm a || !hbm (a + 127) then (m, none) else
    match readMem t m rq a 128 .clean with
    | (m1, .ok (b, _)) => (m1, some b)
    | (m1, .error _) => (m1, none)

/-- EN is set: the check, and the copy of the profile. A slot that still drains keeps draining, and takes the profile
after it (R452). -/
def streamOn (t : Clk) (d s : Nat) (m : Mod) : Mod :=
  match readProfile t m d (regF m (rSlot d s + 8) 0 57) with
  | (m1, none) => modStrm m1 d s fun x => { x with reason := 0x51 }
  | (m1, some b) => match profileErr m1 d b with
    | some r => modStrm m1 d s fun x => { x with reason := r }
    | none =>
      let m2 := setBit m1 (rSlot d s) 0 true
      if (strm m2 d s).st = .draining then modStrm m2 d s fun x => { x with nextProfile := some b, reason := 0 }
      else enterState t d s .listening 0 (modStrm m2 d s fun x => { x with profile := b, reason := 0 })

/-- EN is cleared: an open stream closes with REASON 2 and drains (R451). -/
def streamOff (t : Clk) (d s : Nat) (m : Mod) : Mod :=
  let m1 := setBit m (rSlot d s) 0 false
  let x := strm m1 d s
  match x.st with
  | .opn | .paused => beginDrain t d s x.highest (sendClose t d s 2 0 m1)
  | .draining => modStrm m1 d s fun y => { y with nextProfile := none }
  | .disabled => m1
  | .error => leaveError t d s m1
  | _ => endCommit d s (enterState t d s .disabled 0 m1)

/-- HOLD adds and removes the reason HOST. -/
def applyHold (t : Clk) (d s : Nat) (m : Mod) : Mod :=
  let x := strm m d s
  let hold := regB m (rSlot d s) 1
  if hold ∧ ¬ x.pauseHost ∧ (x.st = .opn ∨ x.st = .paused) then pauseFor t d s 2 m
  else if ¬ hold ∧ x.pauseHost then tryResume t d s (modStrm m d s fun y => { y with pauseHost := false })
  else m

/-- A write of STREAM_CTRL: its fields, EN, then HOLD (R636). -/
def streamWrite (f d s v : Nat) (t : Clk) (m : Mod) : Mod :=
  let was := streamEn m d s
  let m1 := storeFields f (rSlot d s) v m
  let m2 := if bit v 0 ∧ ¬ was then streamOn t d s m1 else if ¬ bit v 0 ∧ was then streamOff t d s m1 else m1
  applyHold t d s m2

/-! ## OFFER (R441 to R444) -/

/-- Load by codec: the rate of a core in half a million samples per second, and the weight of the die's
rate in 1/24,000 (R458). -/
def codecLoad (c : Nat) : Nat × Nat :=
  match c with
  | 1 | 6 => (2000, 3)
  | 2 | 3 => (1000, 6)
  | 4 => (750, 8)
  | 5 => (375, 16)
  | _ => (0, 0)

def pixelLoad (x : Strm) : Nat := if pf x 0x22 1 = 0 then 0 else pf x 0x24 4

def loadBad (m : Mod) (d : Nat) (x : Strm) : Bool :=
  let share := fun (y : Strm) => pixelLoad y * (codecLoad (pf y 0x22 1)).2
  let open_ := ((slotsOf m d).filter fun z => isOpen z.2.st).map fun z => share z.2
  decide (2 * pixelLoad x > (codecLoad (pf x 0x22 1)).1) || decide (open_.foldl (· + ·) 0 + share x > 24000)

/-- The reserve V (R443). R5 makes the ISF header alone big-endian and R441 gives the OFFER payload no byte order: the model
takes it big-endian too (DESIGN CHOICE, log 69). -/
def offerV (o : List Byte) : Nat := fldBe o 8 8 + ceilDiv (fldBe o 0 8 * 20) 1000000
/-- The pool P (R443). -/
def offerP (x : Strm) (v : Nat) : Nat :=
  let s := pf x 0x14 2 * 0x100000
  ceilDiv v s * s + pf x 0x16 2 * s

def offerFields (x : Strm) (o : List Byte) : Bool :=
  let c := fldBe o 0x14 1
  let e := fldBe o 0x15 1
  let codec := pf x 0x22 1
  o.length == 64 && decide (1 ≤ fldBe o 0 8) && decide (fldBe o 0 8 ≤ 48000000000) && decide (c ≤ 2) && fldBe o 0x16 2 == 0
    && fldBe o 0x18 2 == 0 && (if c = 2 then decide (1 ≤ e) && decide (e ≤ 6) && (codec == 0 || codec == e) else e == 0)

/-- The landing pools committed to a partition's streams on a tier die. -/
def poolsOn (m : Mod) (k td : Nat) : Nat :=
  ((m.media.filter fun md => mediaPart m md.1 == some k).flatMap fun md =>
    md.2.slots.map fun ks => if landDie ks.2 md.1 = td then ks.2.pool else 0).foldl (· + ·) 0

/-- The partition's tier capacity less its committed reserves (R188). -/
def tierRoom (m : Mod) (k td : Nat) : Nat := tierCap m k td * unit2M - poolsOn m k td

/-- The first check of R443 that fails. A media die with no enabled partition has
no capacity to judge by: its VF is disabled. -/
def offerErr (m : Mod) (d : Nat) (x : Strm) (o : List Byte) : Option Byte :=
  let v := offerV o
  let p := offerP x v
  let s := pf x 0x14 2 * 0x100000
  let rates := ((slotsOf m d).filter fun z => isOpen z.2.st).map fun z => z.2.rate
  match mediaPart m d with
  | none => some (if offerFields x o then 0x56 else 0x51)
  | some k =>
    if ¬ offerFields x o then some 0x51
    else if v > pf x 0x18 8 ∨ p > tierRoom m k (landDie x d) then some 0x52
    else if pf x 0x16 2 * s * 1000000 < fldBe o 0 8 * fldBe o 0x10 4 + s * 1000000 then some 0x53
    else if loadBad m d x then some 0x54
    else if ¬ partEn m k then some 0x56
    else if rates.foldl (· + ·) 0 + fldBe o 0 8 > 48000000000 then some 0x57
    else none

/-- The enabled slot that a source's new stream takes. -/
def slotFor (m : Mod) (d : Nat) (g : Datagram) : Option Nat :=
  ((slotsOf m d).find? fun x => streamEn m d x.1 && (x.2.st == .listening || x.2.st == .closed)
    && slice x.2.profile 0 16 == g.srcAddr && (pf x.2 0x10 2 == 0 || pf x.2 0x10 2 == g.srcPort.toNat)).map (·.1)

/-- The ACCEPT payload, V and P big-endian as the header (DESIGN CHOICE, log 69). -/
def acceptPayload (status slot v p : Nat) : List Byte :=
  slice (toBe 1 status ++ toBe 1 slot ++ List.replicate 6 0 ++ toBe 8 v ++ toBe 8 p) 0 32

/-- An answer to a source that has no open stream: its own first message. -/
def refuseOffer (d slot : Nat) (g : Datagram) (r : Byte) (m : Mod) : Mod :=
  emit (.isf d g.srcAddr g.srcPort (isfMsg 3 (isfStream g) 1 (acceptPayload r.toNat slot 0 0))) m

/-- The stream opens: its contract, its numbers. The slot's counters go on, and the repeats of an earlier CLOSE. -/
def openStrm (t : Clk) (g : Datagram) (s : Nat) (x : Strm) : Strm :=
  let o := isfPayload g
  let v := offerV o
  let p := offerP x v
  let start := fldBe o 0x1A 6
  wantSync { ({} : Strm) with
    st := x.st, profile := x.profile, id := isfStream g, src := g.srcAddr, srcPort := g.srcPort, offer := o, ctrlRx := isfCtrl g
    accept := acceptPayload 0 s v p, acceptCtrl := 1, rate := fldBe o 0 8, restart := fldBe o 0x10 4
    seg := pf x 0x14 2 * 0x100000, work := pf x 0x16 2, v := v, pool := p, start := start, next := start, highest := start, windowAt := t.now
    sinceData := t.now, bytesLanded := x.bytesLanded, bytesDropped := x.bytesDropped, gapBytes := x.gapBytes
    evDropped := x.evDropped, smpDropped := x.smpDropped, opens := x.opens + 1, closeLeft := x.closeLeft, closePl := x.closePl
    closeCtrl := x.closeCtrl, closeId := x.closeId, closeTo := x.closeTo, closePort := x.closePort, closeAt := x.closeAt }

def acceptOffer (t : Clk) (d s : Nat) (g : Datagram) (m : Mod) : Mod :=
  let m1 := modStrm m d s (openStrm t g s)
  let m2 := enterState t d s .opn 0 (sendCtl d s 3 (strm m1 d s).accept m1)
  applyHold t d s m2

/-- An OFFER refused while a stream of its source and STREAM_ID is open: a new ACCEPT, or, for the same fields again, the
same one (R437, R442). -/
def refuseOpen (d s : Nat) (g : Datagram) (r : Byte) (m : Mod) : Mod :=
  let x := strm m d s
  let pl := acceptPayload r.toNat s 0 0
  match x.refused with
  | some (o, c, ctrl) => if o = isfPayload g ∧ c = r then toSource d s 3 ctrl pl m else again x pl
  | none => again x pl
where
  again (x : Strm) (pl : List Byte) : Mod := sendCtl d s 3 pl (modStrm m d s fun y => { y with
    ctrlRx := max y.ctrlRx (isfCtrl g), refused := some (isfPayload g, r, x.ctrlTx + 1) })

/-- A scrub of the media die's partition runs: it answers 0x56 to any OFFER (R561). -/
def scrubsDie (m : Mod) (d : Nat) : Bool := (mediaPart m d).any fun k => (partSt m k).scrub.isSome

/-- OFFER: a repeat gets its ACCEPT again, with other fields 0x55, and the open stream goes on (R442); a new one is checked.
A walk towards MS2 answers none (R520). -/
def offerIn (d : Nat) (g : Datagram) (t : Clk) (m : Mod) : Mod :=
  if ¬ ingestUp m ∨ fetchLevel m ≥ 2 then m
  else if isfBad 2 g then isfDrop d m
  else match openOf m d g with
    | some s =>
      let x := strm m d s
      if scrubsDie m d then refuseOpen d s g 0x56 m
      else if x.offer = isfPayload g then toSource d s 3 x.acceptCtrl x.accept m
      else refuseOpen d s g 0x55 m
    | none => if scrubsDie m d then refuseOffer d ((slotFor m d g).getD 0) g 0x56 m
      else match slotFor m d g with
      | none => refuseOffer d 0 g 0x50 m
      | some s => match offerErr m d (strm m d s) (isfPayload g) with
        | some r => refuseOffer d s g r m
        | none => acceptOffer t d s g m

/-! ## Decoding -/

/-- The leave of a decode core: 10 units of its media die's governor at level 7 (R526, R527). -/
def coreReady (d core : Nat) (m : Mod) : Bool × Mod :=
  let id := sget 0 (mdie m d).coreLeave core
  if id ≠ 0 then (hasGrant m (16 + d) id, m)
  else
    let (n, m1) := fresh m
    let (ok, m2) := requestLeave m1 (16 + d) n 7 10
    (ok, modMdie m2 d fun x => { x with coreLeave := sset 0 x.coreLeave core n })

/-- The frames of sample position c (R462). -/
def sampleFrames (x : Strm) (c : Nat) : List Nat := (List.range (pf x 0x39 1)).map fun i => c * pf x 0x3C 2 + i * pf x 0x3A 1

/-- Whether a gap record lies among the next n landing bytes that are decoded: what takes them contains bytes of a gap
(R460). -/
def gapIn (x : Strm) (n : Nat) : Bool := x.gapAt.any fun g => decide (g < x.taken + n) && decide (x.taken < g + 16)

/-- The output frames of a picture (R459): FIELDS its two fields at half height, WEAVE the whole, BOB its two fields at full
height; progressive material is one frame. The second field follows by half the duration. -/
def outFrames (x : Strm) (gap hurt : Bool) (p : Picture) : List OutFrame :=
  let pic : Pic := {
    gen := x.opens, n := x.pics, w := p.width, h := p.height, depth := p.depth, lowerFirst := p.lowerFirst, matrix := p.matrix, full := p.full }
  let one := fun (part later dur : Nat) => ({
    pic := pic, part := part, pts := p.pts + later / 300, dur := dur, hurt := hurt, gap := gap, good := x.good } : OutFrame)
  let mode := pf x 0x28 1
  if ¬ p.fields ∨ mode = 1 then [one 0 0 p.dur]
  else
    let first := if mode = 0 then 1 else 3
    [one first 0 (p.dur / 2), one (first + 1) (p.dur / 2) (p.dur / 2)]

/-- A picture is damaged by a gap, by an error, or by a reference to a damaged one since the last intra random-access
picture (R460). -/
def pictureHurt (x : Strm) (gap : Bool) (p : Picture) : Bool := gap || p.inError || (!p.intra && x.lost && p.refsLost)

/-- A sample dropped, counted at its slot. -/
def smpDrop (d s : Nat) (m : Mod) : Mod := modStrm m d (s % 64) fun y => { y with smpDropped := satAdd 0xFFFFFFFF y.smpDropped 1 }

/-- The output frames of a sample's span: TUBELET × FRAME_STEP from its first (R465). -/
def inSpan (x : Strm) (c i : Nat) : Bool :=
  decide (c * pf x 0x3C 2 ≤ i) && decide (i < c * pf x 0x3C 2 + pf x 0x39 1 * pf x 0x3A 1)

/-- Sample positions whose span is all there, or, at the end of the stream, whose frames are: dropped when damaged under
DROP_SAMPLE, else numbered in order of production (R460, R464). -/
def produce (d s : Nat) (ends : Bool) : Nat → Mod → Mod
  | 0, m => m
  | fuel + 1, m =>
    let x := strm m d s
    let fs := sampleFrames x x.cand
    if (fs.any fun i => decide (x.frames ≤ i)) ∨ (¬ ends ∧ inSpan x x.cand x.frames) then m else
    let got := fs.filterMap fun i => (x.shown.find? fun y => y.1 == i).map (·.2)
    let gap := x.shown.any fun z => inSpan x x.cand z.1 && z.2.gap
    let step := fun (y : Strm) => { y with cand := y.cand + 1, shown := y.shown.filter fun z => decide ((y.cand + 1) * pf y 0x3C 2 ≤ z.1) }
    produce d s ends fuel (
      if (got.any (·.hurt)) ∧ pf x 0x29 1 = 0 then smpDrop d s (modStrm m d s step)
      else modStrm m d s fun y => { step y with
        made := y.made + 1, ready := y.ready ++ [{ num := y.made, id := y.id, frames := got, gap := gap, last := false }] })

/-- The last sample of a stream bears its flag. -/
def markLast : List MadeSample → List MadeSample
  | [] => []
  | [x] => [{ x with last := true }]
  | x :: r => x :: markLast r

/-- The end of the stream is known: a LAST datagram has landed, or a CLOSE has named FINAL_SEQ. -/
def endKnown (x : Strm) : Bool := x.lastAt == some x.next || x.final.isSome

def addFrames (d s : Nat) (gap : Bool) (p : Picture) (m : Mod) : Mod :=
  let x := strm m d s
  let hurt := pictureHurt x gap p
  let fs := outFrames x gap hurt p
  let m1 := modStrm m d s fun y => { y with
    pics := y.pics + 1
    frames := y.frames + fs.length
    shown := y.shown ++ fs.zipIdx.map fun z => (y.frames + z.2, z.1)
    lost := hurt || (!p.intra && y.lost)
    good := if hurt then y.good else (fs.getLast?.map fun z => (z.pic, z.part)) <|> y.good }
  let m2 := produce d s p.last (fs.length + 1 + pf x 0x39 1 * pf x 0x3A 1) m1
  if p.last ∧ endKnown x then modStrm m2 d s fun y => { y with ready := markLast y.ready } else m2

/-! ### What demux and the cores support (R457) -/

/-- The CODEC code of an essence. -/
def codecOf : Essence → Nat
  | .mpeg2Main | .mpeg2Main422 => 1
  | .avcHigh | .avcHigh422Intra => 2
  | .hevcMain | .hevcMain10 | .hevcMain42210 => 3
  | .av1Main => 4
  | .vvcMain10 => 5
  | .dvIec61834 | .dvSmpte314m => 6
  | .other c => c.toNat

/-- An essence of the table; AV1 has 8 or 10 bits. -/
def essenceOk (p : Picture) : Bool :=
  match p.essence with
  | .other _ => false
  | .av1Main => p.depth == 8 || p.depth == 10
  | _ => true

/-- A container of the table, the one the OFFER names: a transport stream of 188-byte packets with the program of SELECT, 0 for
the first, and 16 elementary PIDs of it at most; an MXF file of OP1a or OP-Atom, frame- or clip-wrapped, with the picture
track of SELECT; an elementary stream of the OFFER's ESSENCE, in Annex B form where the codec has one (AVC, HEVC and VVC do:
PRESUMED, log 9). -/
def muxOk (x : Strm) (p : Picture) : Bool :=
  let sel := pf x 0x20 2
  match containerOf x, p.mux with
  | 0, .ts n progs pids => n == 188 && decide (pids ≤ 16) && (if sel = 0 then !progs.isEmpty else progs.contains sel)
  | 1, .mxf pattern wrapping tracks => decide (pattern ≤ 1) && decide (wrapping ≤ 1) && tracks.contains sel
  | 2, .es annexB => codecOf p.essence == fldBe x.offer 0x15 1 && (annexB || !([2, 3, 5].contains (codecOf p.essence)))
  | _, _ => false

/-- What makes the stream enter ERROR: a container or an essence outside the tables, a codec other than CODEC (R452, R457). -/
def undecodable (x : Strm) (p : Picture) : Bool :=
  !muxOk x p || !essenceOk p || p.tracks.contains .other || (pf x 0x22 1 != 0 && codecOf p.essence != pf x 0x22 1)

/-! ## The shuffle pool -/

def segBytes : Nat := 0x4000000

def noShuf : ShufSeg := { td := 0, region := 0, va := 0, fill := 0, count := 0 }

/-- The shuffle segments of a partition that are not FREE: regions of media dies that no stream lands
in. -/
def shufOpen (m : Mod) (k : Nat) : Nat :=
  (m.regions.filter fun kv => kv.2.st != .free && kv.2.part == k && (match kv.2.owner with
    | .media d => !(slotsOf m d).any fun x => landDie x.2 d == kv.1 / 8192 && x.2.segs.any fun e => e.1 == kv.1 % 8192
    | _ => false)).length

/-- The tier dies at a media die's end: one of the two first (R25). -/
def shufDies (d : Nat) : List Nat :=
  let lo := if d < 3 then 0 else 2
  if Config.landHigh d then [lo + 1, lo] else [lo, lo + 1]

/-- A new FILLING shuffle segment, while the pool is below its size. -/
def openShuf (t : Clk) (d k : Nat) (m : Mod) : Option Mod :=
  if shufOpen m k ≥ poolSegs m k then none else
  (shufDies d).findSome? fun td => (openMedia t d td k 32 false m).map fun r =>
    modPart r.2.2 k fun p => { p with shuf := sset noShuf p.shuf d { td := td, region := r.1, va := BitVec.ofNat 64 (r.2.1 * unit2M), fill := 0, count := 0 } }

/-- A full segment is sealed for its samples, which the draw die may now draw. -/
def sealShuf (t : Clk) (d k : Nat) (m : Mod) : Mod :=
  let g := sget noShuf (partSt m k).shuf d
  modPart (sealMedia t d g.td k g.region g.count m) k fun p => { p with
    shuf := p.shuf.filter fun x => x.1 != d
    samples := p.samples.map fun y => if y.td = g.td ∧ y.region = g.region then { y with isSealed := true } else y }

def hasShuf (m : Mod) (k d : Nat) : Bool := (partSt m k).shuf.any fun x => x.1 == d

/-- Whether the segment that fills takes a sample of n bytes. -/
def shufFits (m : Mod) (d k n : Nat) : Bool := decide ((sget noShuf (partSt m k).shuf d).fill + n ≤ segBytes)

/-- A sample that does not fit seals the segment, whether or not another can be opened (R467). -/
def shufSealed (t : Clk) (d k n : Nat) (m : Mod) : Mod :=
  if hasShuf m k d ∧ ¬ shufFits m d k n then sealShuf t d k m else m

/-- The segment that takes a sample of n bytes. -/
def shufRoom (t : Clk) (d k n : Nat) (m : Mod) : Option Mod :=
  let m1 := shufSealed t d k n m
  if hasShuf m1 k d then some m1 else openShuf t d k m1

/-! ## Shaping (R459 to R462) -/

/-- Twice the sample of component c at a frame's x, y (R459): a field's line, or under BOB the mean of the lines beside one
that is not the field's; at an edge the one line there is (PRESUMED, log 9). -/
def lineSample (d s : Nat) (p : Pic) (part x y c : Nat) : Nat :=
  let at_ := fun (v : Nat) => Config.picSample d s p.gen p.n x v c
  let odd := b2n ((part == 2 || part == 4) != p.lowerFirst)
  if part = 0 then 2 * at_ y
  else if part ≤ 2 then 2 * at_ (2 * y + odd)
  else if y % 2 = odd then 2 * at_ y
  else (at_ (if y = 0 then 1 else y - 1)) + at_ (if y + 1 < p.h then y + 1 else y - 1)

/-- The same with damage concealed (R460): the co-located region of the last good output frame, or mid-grey, the middle
code of each component. -/
def frameSample (d s : Nat) (f : OutFrame) (x y c : Nat) : Nat :=
  if f.hurt ∧ Config.lostAt d s f.pic.gen f.pic.n x y then match f.good with
    | some g => lineSample d s g.1 g.2 x y c
    | none => 2 ^ f.pic.depth
  else lineSample d s f.pic f.part x y c

def frameHeight (f : OutFrame) : Nat := if f.part = 1 ∨ f.part = 2 then f.pic.h / 2 else f.pic.h

/-- A fraction in FP32. -/
def ratio (n : Int) (d : Nat) : W32 := toF32 (divVal (.fin (decide (n < 0)) n.natAbs 0) (.fin false d 0))

/-- A weighted sum in FP32, in the order and with the fusing that R461 leaves open (log 9). -/
def weighted (ps : List (W32 × W32)) : W32 :=
  let l := if (Config.shapeOrder ps).isPerm ps then Config.shapeOrder ps else ps
  l.foldl (fun a p => if Config.shapeFused then ffma p.1 p.2 a else fadd a (fmul p.1 p.2)) 0

/-- Kr and Kb of a matrix in 1/10,000 (BT.601, BT.709, BT.2020; PRESUMED from those standards, log 9). -/
def lumaWeights (matrix : Nat) : Nat × Nat := if matrix = 1 then (2990, 1140) else if matrix = 3 then (2627, 593) else (2126, 722)

/-- Y′, Cb and Cr of a pixel as fractions, by the range the stream signals: Y′ in [0, 1], Cb and Cr in [−1/2, 1/2]. -/
def ycc (d s : Nat) (f : OutFrame) (x y c : Nat) : W32 :=
  let k : Nat := 2 ^ (f.pic.depth - 8)
  let v : Int := frameSample d s f x y c
  if f.pic.full then
    (if c = 0 then ratio v (2 * (2 ^ f.pic.depth - 1)) else ratio (v - 2 ^ f.pic.depth) (2 * (2 ^ f.pic.depth - 1)))
  else if c = 0 then ratio (v - 32 * k) (438 * k) else ratio (v - 256 * k) (448 * k)

def clampUnit (w : W32) : W32 := if ltVal (f32 w) (f32 0) then 0 else if ltVal (f32 fone) (f32 w) then fone else w

/-- Step 2: component c of R′, G′, B′ at a pixel of the frame. -/
def rgb (d s : Nat) (colour : Nat) (f : OutFrame) (x y c : Nat) : W32 :=
  let (r, b) := lumaWeights (if colour = 0 then f.pic.matrix else colour)
  let g := 10000 - r - b
  let v := ycc d s f x y
  clampUnit (weighted (match c with
    | 0 => [(fone, v 0), (ratio (2 * (10000 - r)) 10000, v 2)]
    | 1 => [(fone, v 0), (ratio (-(2 * b * (10000 - b))) (10000 * g), v 1), (ratio (-(2 * r * (10000 - r))) (10000 * g), v 2)]
    | _ => [(fone, v 0), (ratio (2 * (10000 - b)) 10000, v 1)]))

/-- Where output place o of n draws on in a line of w, with weights, and their sum: under AREA the part of each source place
that the output's box covers, under BILINEAR the two nearest with centres aligned, the edge repeated (PRESUMED, log 9). -/
def taps (bilinear : Bool) (w n o : Nat) : List (Nat × Nat) × Nat :=
  if bilinear then
    let p : Int := (2 * o + 1) * w - n
    let x := p / (2 * n)
    let k := (p % (2 * n)).toNat
    let at_ := fun (v : Int) => min v.toNat (w - 1)
    ([(at_ x, 2 * n - k), (at_ (x + 1), k)], 2 * n)
  else
    ((List.range (ceilDiv ((o + 1) * w) n - o * w / n)).map fun i =>
      let x := o * w / n + i
      (x, min ((x + 1) * n) ((o + 1) * w) - max (x * n) (o * w)), w)

/-- Steps 1, 3 and 4: component c of the shaped frame at an output pixel. -/
def shaped (d s : Nat) (b : List Byte) (f : OutFrame) (ox oy c : Nat) : W32 :=
  let g := fld b
  let whole := g 0x30 2 == 0
  let tx := taps (g 0x2B 1 == 1) (if whole then f.pic.w else g 0x30 2) (g 0x34 2) ox
  let ty := taps (g 0x2B 1 == 1) (if whole then frameHeight f else g 0x32 2) (g 0x36 2) oy
  let x0 := if whole then 0 else g 0x2C 2
  let y0 := if whole then 0 else g 0x2E 2
  let v := weighted (ty.1.flatMap fun y => tx.1.map fun x =>
    (ratio (x.2 * y.2) (tx.2 * ty.2), rgb d s (g 0x2A 1) f (x0 + x.1) (y0 + y.1) c))
  fmul (fsub v (BitVec.ofNat 32 (g (0x40 + 4 * c) 4))) (BitVec.ofNat 32 (g (0x4C + 4 * c) 4))

/-- An element of the patch matrix (R462); the padding is zero. -/
def patchElem (d s : Nat) (b : List Byte) (fs : List OutFrame) (row col : Nat) : Val :=
  let p := fld b 0x38 1
  let across := fld b 0x34 2 / p
  match fs[col / (3 * p * p)]? with
  | some f => if row < across * (fld b 0x36 2 / p) then
      f32 (shaped d s b f (row % across * p + col / 3 % p) (row / across * p + col / (3 * p) % p) (col % 3))
    else .fin false 0 0
  | none => .fin false 0 0

/-! ## A sample's bytes (R463) -/

def sampleId (d s n : Nat) : Nat := 2 ^ 61 * d + 2 ^ 55 * s + n % 2 ^ 55

/-- A tile at an offset of a tier die. -/
def sampleTile (fmt rows32 cols32 : Nat) (order : Bool) (maxexp off id : Nat) (payload : List Byte) : List Byte :=
  buildTile (hdrFor fmt rows32 cols32 order maxexp (off / 256) 0 id 0) payload []

/-- A tile of 32 rows of values, each rounded once to nearest even, with its exact MAXEXP (R461, R76). -/
def valueTile (fmt cols : Nat) (order : Bool) (off id : Nat) (v : Nat → Nat → Val) : List Byte :=
  let vs := if order then (List.range cols).flatMap fun c => (List.range 32).map fun r => v r c
    else (List.range 32).flatMap fun r => (List.range cols).map fun c => v r c
  let e := encodeTile fmt (if order then cols else 32) (if order then 32 else cols) none vs
  sampleTile fmt 1 (cols / 32) order (maxExpField e.vals) off id e.payload

/-- Tiles one after another from an offset. -/
def tilesFrom (make : Nat → List Byte → List Byte) : Nat → List (List Byte) → List Byte
  | _, [] => []
  | off, p :: r =>
    let b := make off p
    b ++ tilesFrom make (off + b.length) r

/-- The video run: the patch matrix in the grid layout, row groups outer, slices of columns inner. -/
def videoRun (d s : Nat) (y : MadeSample) (x : Strm) (off : Nat) : List Byte :=
  let fmt := pf x 0x3B 1
  let cols := videoCols x.profile
  let w := gridW cols fmt
  let c := gridC cols fmt
  (List.range (videoRows x.profile / 32 * c)).flatMap fun i =>
    valueTile fmt w (pf x 0x3E 1 == 1) (off + i * gridTile cols fmt) (sampleId d s y.num) fun r k =>
      patchElem d s x.profile y.frames (i / c * 32 + r) (i % c * w + k)

/-! ### Sound and captions (R465) -/

def samplePts (y : MadeSample) : Nat := (y.frames.head?.map (·.pts)).getD 0
/-- The sample's span in 27 MHz units: TUBELET × FRAME_STEP frame durations. -/
def sampleSpan (x : Strm) (y : MadeSample) : Nat := pf x 0x39 1 * pf x 0x3A 1 * (y.frames.head?.map (·.dur)).getD 0
def sampleGen (y : MadeSample) : Nat := (y.frames.head?.map (·.pic.gen)).getD 0

/-- How many periods of n 27 MHz units a span holds; whether a part counts is free (log 9). -/
def periods (span n : Nat) : Nat := if Config.partCounts then ceilDiv span n else span / n

/-- Columns of an audio run, rows of one channel, and channels. -/
def audioCols (kind : Nat) : Nat := if kind ≤ 2 then 256 else if kind = 3 then 96 else 128
def audioRows (x : Strm) (y : MadeSample) : Nat :=
  let kind := pf x 0x58 1
  let span := sampleSpan x y
  if kind = 0 then 0
  else if kind = 1 then ceilDiv (span * 16000 / 27000000 + b2n (Config.partCounts && span * 16000 % 27000000 != 0)) 256
  else if kind = 2 then ceilDiv (span * 48000 / 27000000 + b2n (Config.partCounts && span * 48000 % 27000000 != 0)) 256
  else periods span 270000
def audioChannels (x : Strm) : Nat := pf x 0x59 1 % 16
def audioGroups (x : Strm) (y : MadeSample) : Nat := ceilDiv (audioRows x y * audioChannels x) 32

/-- An element of the audio matrix: channel by channel; a waveform's samples in rows of 256, or the log of a mel bin's
power and 10^−10, an FP32 sum; padding is zero. -/
def audioElem (d s : Nat) (x : Strm) (y : MadeSample) (row col : Nat) : Val :=
  let kind := pf x 0x58 1
  let rows := audioRows x y
  let track := pf x 0x59 1 / 16
  let key := fun (n : Nat) => [d, s, sampleGen y, track + row / rows, n, samplePts y]
  let r := row % rows
  let rate := if kind = 1 then 16 else 48
  if rows = 0 ∨ audioChannels x ≤ row / rows then .fin false 0 0
  else if kind ≤ 2 then
    (if 256 * r + col < periods (sampleSpan x y * rate) 27000 then f32 (Config.pcm (key rate) (256 * r + col)) else .fin false 0 0)
  else
    let bins := if kind = 3 then 80 else 128
    if col < bins then f32 (Config.melLog (fadd (Config.melPower (key bins) r col) 0x2EDBE6FF)) else .fin false 0 0

def audioRun (d s : Nat) (y : MadeSample) (x : Strm) (off : Nat) : List Byte :=
  let cols := audioCols (pf x 0x58 1)
  (List.range (audioGroups x y)).flatMap fun g =>
    valueTile 1 cols false (off + g * roundUp (64 + 64 * cols) 256) (sampleId d s y.num) fun r k => audioElem d s x y (32 * g + r) k

/-- The captions of the sample's span of the kinds that CAPTIONS asks for: a prefix, then the text or the bitmap, 65,536
bytes at most. -/
def captionTiles (d s : Nat) (x : Strm) (y : MadeSample) : List (List Byte) :=
  let pts := samplePts y
  let span := sampleSpan x y
  ((Config.captions d s (sampleGen y) pts span).filter fun c =>
      decide (1 ≤ c.2.1) && decide (c.2.1 ≤ 3) && bit (pf x 0x5A 1) (c.2.1 - 1) && decide (pts ≤ c.1) && decide (300 * (c.1 - pts) < span)).map fun c =>
    (toLe 8 c.1 ++ toLe 1 c.2.1 ++ [0] ++ (if c.2.1 = 2 then toLe 2 c.2.2.1 ++ toLe 2 c.2.2.2.1 else toLe 4 0) ++ toLe 2 0 ++ c.2.2.2.2).take 65536

def captionRun (d s : Nat) (y : MadeSample) (x : Strm) (off : Nat) : List Byte :=
  tilesFrom (fun o p => sampleTile 0x30 1 (max 1 (ceilDiv p.length 1024)) false 0xFF o (sampleId d s y.num) p) off (captionTiles d s x y)

/-- The 256 bytes of the sample record. -/
def recordBytes (d s : Nat) (y : MadeSample) (video audio caps : Nat × Nat) : List Byte :=
  let flags := b2n (y.frames.any (·.hurt)) + 2 * b2n y.gap + 4 * b2n (audio.2 != 0) + 8 * b2n (caps.2 != 0)
    + 16 * b2n (y.frames.any fun f => f.part == 1 || f.part == 2) + 32 * b2n y.last
  let pair := fun (z : Nat × Nat) => toLe 4 z.1 ++ toLe 4 z.2
  slice (toLe 8 (sampleId d s y.num) ++ toLe 8 (samplePts y) ++ toLe 4 y.id.toNat ++ toLe 4 flags
    ++ pair video ++ pair audio ++ pair caps) 0 256

/-- The whole extent of a sample, to lie at an offset of a tier die. -/
def sampleExtent (d s : Nat) (y : MadeSample) (x : Strm) (off : Nat) : List Byte :=
  let v := videoRun d s y x (off + 512)
  let a := audioRun d s y x (off + 512 + v.length)
  let c := captionRun d s y x (off + 512 + v.length + a.length)
  let tiles := videoRows x.profile / 32 * gridC (videoCols x.profile) (pf x 0x3B 1)
  let at_ := fun (o : Nat) (b : List Byte) (k : Nat) => if b.isEmpty then (0, 0) else (o, k)
  let r := recordBytes d s y (512, tiles) (at_ (512 + v.length) a (audioGroups x y))
    (at_ (512 + v.length + a.length) c (captionTiles d s x y).length)
  sampleTile 0x30 1 1 false 0xFF off (sampleId d s y.num) r ++ v ++ a ++ c

/-- Its bytes. -/
def extentBytes (d s : Nat) (y : MadeSample) (x : Strm) : Nat :=
  leastExtent x.profile + audioGroups x y * roundUp (64 + 64 * audioCols (pf x 0x58 1)) 256
    + ((captionTiles d s x y).map fun p => roundUp (64 + p.length) 256).foldl (· + ·) 0

/-- The slot number whose decoder works: a stream of the slot set aside comes first. -/
def workSlot (m : Mod) (d s : Nat) : Nat :=
  (((slotsOf m d).find? fun z => decide (64 ≤ z.1) && z.1 % 64 == s).map (·.1)).getD s

/-- All that a stream will produce is produced: it is over, and decoded. -/
def allMade (x : Strm) : Bool := (x.st == .draining || x.st == .error) && x.undecoded == 0 && x.ahead.isEmpty

/-- The oldest sample of a stream and those behind it. The newest stays until another follows it or the stream is over,
since it may bear FLAGS[5] (R463; DEDUCED, log 69). -/
def nextSample (x : Strm) : Option (MadeSample × List MadeSample) :=
  match x.ready with
  | [] => none
  | [y] => if y.last ∨ allMade x then some ({ y with last := true }, []) else none
  | y :: rest => some (y, rest)

/-- A sample waits to be placed while a tier die of its media die's segments recalibrates or brings its firmware up (R614). -/
def shufWaits (m : Mod) (d : Nat) : Bool := (shufDies d).any fun td => regionsWait m td

/-- SAMPLE_PLACE: the oldest sample of a stream goes whole into the die's shuffle segment; it waits while
none can be opened (R467, R468). One whose write is refused is dropped and counted (R568). -/
def placeSample (d s0 : Nat) (t : Clk) (m : Mod) : Mod :=
  let s := workSlot m d s0
  let x := strm m d s
  match nextSample x with
  | none => m
  | some (y, rest) =>
    if shufWaits m d then m else
    let k := streamPart m d
    let len := extentBytes d s0 y x
    match shufRoom t d k len m with
    | none => shufSealed t d k len m
    | some m1 =>
      let g := sget noShuf (partSt m1 k).shuf d
      let off := g.va.toNat + g.fill
      let (m2, lost) := writeTier t d g.td off (sampleExtent d s0 y x off) m1
      let put := fun (p : PartSt) => { p with
        shuf := sset noShuf p.shuf d { g with fill := g.fill + len, count := g.count + 1 }
        samples := p.samples ++ [{ addr := BitVec.ofNat 64 (Config.tierVa k (tierAddr g.td off)).toNat, len := len, td := g.td, region := g.region, isSealed := false }] }
      tryDrained t d s (modStrm (if lost = 0 then modPart m2 k put else smpDrop d s m2) d s fun z => { z with ready := rest })

/-- The decoder of a stream stops while its oldest sample finds no segment (R468). -/
def decoderStops (t : Clk) (d s : Nat) (m : Mod) : Bool :=
  let x := strm m d s
  match x.ready with
  | [] => false
  | y :: _ => (shufRoom t d (streamPart m d) (extentBytes d (s % 64) y x) m).isNone

/-- Under a live FW_ACTIVATE of the media die a core switches at a random-access picture of its streams, and decode on
it pauses: at which of them, and how long, is free (R614). -/
def coreSwitches (m : Mod) (d core : Nat) (p : Picture) : Bool :=
  svcRuns m 1 5 d && p.intra && Config.coreSwitching m.nextId core

/-- The tier offsets of the next n landing bytes of a stream, segment by segment. -/
def landPieces (m : Mod) (d : Nat) (x : Strm) : Nat → List (Nat × Nat × Nat) → List (Nat × Nat)
  | _, [] => []
  | n, (e, filled, dec) :: r =>
    if n = 0 ∨ fills x e then [] else
    let k := min n (filled - dec)
    ((region m (landDie x d) e).base * unit2M + dec, k) :: landPieces m d x (n - k) r

/-- A decoder reads landing bytes: a refused read is logged, poison faults it with a POISON entry (R568, R582). Whether
some are not to be had: the picture's bitstream is then in error (DESIGN CHOICE, log 69). -/
def readLanding (t : Clk) (d s n : Nat) (m : Mod) : Mod × Bool :=
  let x := strm m d s
  (landPieces m d x n x.segs).foldl (fun acc c =>
    let a := tierAddr (landDie x d) c.1
    match readMem t acc.1 (mediaReq m d) a c.2 .clean with
    | (m1, .error _) => (m1, true)
    | (m1, .ok (_, true)) => (logErr t (mediaReq m d) { typ := fPoison, reason := 0, addr := a, poison := true } m1, true)
    | (m1, .ok (_, false)) => (m1, acc.2)) (m, false)

/-- DECODE_PICTURE: a stream of the slot set aside is decoded first. Bytes that are undecodable are taken and give no
picture. -/
def decodePicture (d s0 : Nat) (p : Picture) (t : Clk) (m : Mod) : Mod :=
  let s := workSlot m d s0
  let x := strm m d s
  let core := Config.coreOf d s0 % 8
  let n := min p.consumed (sealedBytes x)
  if ¬ ingestUp m ∨ sealedBytes x = 0 ∨ decoderStops t d s m ∨ coreSwitches m d core p ∨ regionsWait m (landDie x d) then m else
  match coreReady d core m with
  | (false, m1) => m1
  | (true, m1) =>
    let m2 := modMdie m1 d fun y => { y with coreSince := sset 0 y.coreSince core t.now }
    let eat := consume t d s (x.segs.length + 1) n
    if undecodable x p then tryDrained t d s (demuxError t d s (eat m2)) else
    let (m3, bad) := readLanding t d s n m2
    let m4 := eat (addFrames d s (gapIn x n) { p with inError := p.inError || bad } m3)
    tryDrained t d s (tryResume t d s (endCommit d s (modStrm m4 d s fun y => { y with
      gapAt := y.gapAt.filter fun g => decide (y.taken < g + 16) })))

/-- DECODE_CORE_IDLE: a core with no work for 1 ms returns its leave. -/
def coreIdle (d core : Nat) (t : Clk) (m : Mod) : Mod :=
  let id := sget 0 (mdie m d).coreLeave core
  if id = 0 ∨ ¬ hasGrant m (16 + d) id ∨ t.now < sget 0 (mdie m d).coreSince core + usTicks 1000 then m
  else modMdie (returnLeave m (16 + d) id) d fun x => { x with coreLeave := sset 0 x.coreLeave core 0, coreSince := sset 0 x.coreSince core 0 }

/-! ## Drawing (R469 to R471) -/

def undrawn (p : PartSt) : List Sample := p.samples.filter (·.isSealed)

/-- The next target in turn that has space. -/
def nextTarget (m : Mod) (k : Nat) : Option (Nat × Nat) :=
  let ts := poolTargets m k
  ((List.range ts.length).map fun i => ((partSt m k).rr + i) % ts.length).findSome? fun i => match ts[i]? with
    | some q => if (hqAt m q).alloc ∧ (hqAt m q).part = k ∧ ¬ hqFull (hqAt m q) then some (i, q) else none
    | none => none

def drawHandle (x : Sample) : Handle :=
  { addr := BitVec.ofNat 57 x.addr.toNat, len := BitVec.ofNat 32 x.len, doneOnUse := true, td := BitVec.ofNat 2 x.td, region := BitVec.ofNat 13 x.region }

/-- No stream of the pool goes on, nothing fills, nothing is undrawn, something was drawn (R471). -/
def poolOver (m : Mod) (k : Nat) : Bool :=
  let p := partSt m k
  p.drawnSince && p.shuf.isEmpty && p.samples.isEmpty
    && (List.range 6).all fun d => !bit (partIngest m k) d || !dieStreams m d

/-- One END handle to each target, once every one has space. -/
def poolEnd (k : Nat) (m : Mod) : Mod :=
  let ts := poolTargets m k
  if ¬ poolOver m k ∨ ts.any (fun q => !(hqAt m q).alloc || hqFull (hqAt m q)) then m
  else modPart (ts.foldl (fun m q => pushHandle q { fin := true } m) m) k fun p => { p with drawnSince := false }

/-- SAMPLE_DRAW: uniformly at random among the undrawn samples of sealed segments. -/
def drawSample (k : Nat) (_ : Clk) (m : Mod) : Mod :=
  let p := partSt m k
  let us := undrawn p
  let go := p.drawing || decide (us.length ≥ max 1 (minFill m k))
  if us.isEmpty ∨ ¬ go ∨ (p.scrub.isSome : Bool) then (if p.scrub.isSome then m else poolEnd k m) else
  match nextTarget m k, us[Config.drawNat m.draw % us.length]? with
  | some (i, q), some x =>
    let m1 := pushHandle q (drawHandle x) { m with draw := m.draw + 1 }
    poolEnd k (modPart m1 k fun y => { y with
      samples := y.samples.erase x, rr := i + 1, drawnSince := true, drawing := decide (1 < us.length) })
  | _, _ => m

/-! ## The rows -/

def execOffer (d : Media) (g : Datagram) (s : State) : Host.Outcome State Fault Refusal := onMod (offerIn d.val g) s
def execDecodePicture (d : Media) (n : Slot) (p : Picture) (s : State) : Host.Outcome State Fault Refusal :=
  onMod (decodePicture d.val n.val p) s
def execDecodeCoreIdle (d : Media) (core : Fin 8) (s : State) : Host.Outcome State Fault Refusal := onMod (coreIdle d.val core.val) s
def execSamplePlace (d : Media) (n : Slot) (s : State) : Host.Outcome State Fault Refusal := onMod (placeSample d.val n.val) s
def execSampleDraw (k : Part) (s : State) : Host.Outcome State Fault Refusal := onAll (drawSample k.val) s
def execStreamEnable (f : Func) (d : Media) (n : Slot) (v : W64) (s : State) : Host.Outcome State Fault Refusal :=
  onMod (fun t m => if bit v.toNat 0 ∧ ¬ streamEn m d.val n.val then gated f.val (rSlot d.val n.val) (streamWrite f.val d.val n.val v.toNat t) m else m) s
def execStreamDisable (f : Func) (d : Media) (n : Slot) (v : W64) (s : State) : Host.Outcome State Fault Refusal :=
  onMod (fun t m => if bit v.toNat 0 then m else gated f.val (rSlot d.val n.val) (streamWrite f.val d.val n.val v.toNat t) m) s
def execHold (f : Func) (d : Media) (n : Slot) (v : W64) (s : State) : Host.Outcome State Fault Refusal :=
  onMod (fun t m => if bit v.toNat 0 = streamEn m d.val n.val then gated f.val (rSlot d.val n.val) (streamWrite f.val d.val n.val v.toNat t) m else m) s

end Sys2Proof.Machine
end

