-- ==== Sys2Proof/Machine/Scrub.lean ====
section
/-! DEFINITION. SCRUB and its phases (R559 to R564, R599): quiesce, streams, overwrite, clear. Units of
an overwrite: 0 to 15 HBM stacks, 16 to 19 tier dies. -/

namespace Sys2Proof.Machine

/-! ## Units and leave (R562) -/

/-- The compute die a tier die attaches to (R17). -/
def tierHost (td : Nat) : Nat := ([0, 8, 7, 15][td]?).getD 0
def unitGov (u : Nat) : Nat := if u < 16 then u else tierHost (u - 16)
def unitLeave (u : Nat) : Nat := if u < 16 then 100 else 40

/-- The work number of an overwrite's leave, beyond every other. -/
def scrubId (k u : Nat) : Nat := 2 ^ 64 + 32 * k + u

/-- An address of a unit, in the ranges of the partition. -/
def unitHolds (m : Mod) (k u a : Nat) : Bool :=
  match place a with
  | .hbm n _ => n == u && (views a).any (inAssigned m k)
  | .tier d _ => d + 16 == u && inAssigned m k a
  | _ => false

/-- The units that hold a range of the partition: a stack, every stack in the SPREAD view, a tier die. -/
def unitsOf (m : Mod) (k : Nat) : List Nat :=
  (List.range 20).filter fun u => (ranges m k).any fun i =>
    match place (rangeBase m k i) with
    | .hbm n _ => if rangeBase m k i < 0x20000000000 then n == u else decide (u < 16)
    | .tier d _ => d + 16 == u
    | _ => false

/-- The leave of an overwrite: asked for above level 7, or taken at once where the state of the governor's die, which the
module's state may imply, makes its effective budget 0; a budget staged at 0 makes it wait (R530, R562). -/
def askLeave (k : Nat) (m : Mod) (u : Nat) : Mod :=
  let g := unitGov u
  if ¬ dieActive m g then modGov m g fun x => { x with grants := sset 0 x.grants (scrubId k u) (unitLeave u) }
  else (requestLeave m g (scrubId k u) 8 (unitLeave u)).2

def modScrub (m : Mod) (k : Nat) (f : Scrub → Scrub) : Mod := modPart m k fun p => { p with scrub := p.scrub.map f }

def askUnits (k : Nat) (us : List Nat) (m : Mod) : Mod :=
  us.foldl (askLeave k) (modScrub m k fun x => { x with going := x.going ++ us })

/-! ## Phase 1 -/

/-- An incomplete command of the partition's rings completes ABORTED. -/
def abortOf (t : Clk) (m : Mod) (c : Cmd) : Mod :=
  match c.st with
  | .retired => m
  | _ => retireCmd t c.sq c.tag 1 0 0 (endQuietly m c)

def stopChains (k : Nat) (m : Mod) : Mod :=
  modPart m k fun p => { p with chains := p.chains.map fun r => { r with stopped := true } }

/-- The ports of the partition signal the scrub; what they hold is discarded (R563). -/
def quietPort (k : Nat) (m : Mod) (p : Nat) : Mod :=
  let l := port m p
  if portPart m p ≠ k ∨ l.st = .down then m else
  ((linkWorks l).map (·.id)).foldl dropSignals (modPort m p fun y => { y with
    txq := [], flits := [], sending := [], unacked := [], resend := [], rxSegs := [], rxFlits := [], rxq := [], nak := none })

/-- The slots of the partition's media dies. -/
def partSlots (m : Mod) (k : Nat) : List (Nat × Nat) :=
  m.media.flatMap fun d => if bit (partIngest m k) d.1 then d.2.slots.map fun s => (d.1, s.1) else []

/-- The PART_ registers that assign something to a partition: pairs and ingest ports, its root and BAR4 window, tier
capacities, KEEP windows, pool and its targets, ranges, and link windows (R628). -/
def assignRegs : List Nat :=
  [0x10, 0x18, 0x80, 0x88, 0x90] ++ (List.range 4).map (fun t => 0x20 + 8 * t) ++ (List.range 8).map (fun i => 0x40 + 8 * i)
    ++ (List.range 32).map (fun i => 0x100 + 8 * i) ++ (List.range 64).map fun i => 0x200 + 8 * i

/-- A partition has assignments in its PART_ registers (R559). -/
def hasAssigned (m : Mod) (k : Nat) : Bool :=
  partPairs m k != 0 || partIngest m k != 0 || assignRegs.any fun o => regN m (rPart k + o) != 0

/-- SCRUB: 0x75 while one runs, 0x32 with a die in DS2 or DS3, 0x29 for a partition with nothing
assigned. -/
def scrubErr (m : Mod) (k : Nat) : Option Byte :=
  if (partSt m k).scrub.isSome then some 0x75
  else if ¬ partEn m k ∧ ¬ hasAssigned m k then some 0x29
  else if (partDies m k).any fun d => decide (dieState m d ≥ 2) then some 0x32
  else none

def scrubBody (c : Cmd) (t : Clk) (m : Mod) : Mod :=
  let k := carg c 0x10 1
  match scrubErr m k with
  | some r => cmdRefuse t c r m
  | none =>
    let gone := fun (n : Nat) => !sqModuleRing m n && sqPart m n == k
    let m1 := modPart m k fun p => { p with scrub := some { sq := c.sq, tag := c.tag, phase := .quiesce, going := [], failed := false, flog := 0 } }
    let m2 := clearDebug t [k] { m1 with sec := { m1.sec with unlocks := m1.sec.unlocks.filter fun u => u.part != some k } }
    let m3 := stopChains k (stopTasks k (dropBreaks gone m2))
    let m4 := (m3.cmds.filter fun x => x.part == some k).foldl (abortOf t) m3
    let m5 := (List.range 18).foldl (quietPort k) m4
    (partSlots m5 k).foldl (fun m x => pauseFor t x.1 x.2 3 (modStrm m x.1 x.2 fun y => { y with sinceData := t.now })) m5

/-- Everything issued on the partition's engines has retired, but for what waits for another module. -/
def partQuiet (m : Mod) (k : Nat) : Bool := m.eng.all fun ge =>
  !(partDies m k).contains (ge.1 / 16) ||
    (ge.2.gangs.all (fun x => x.passes.isEmpty && x.drains.isEmpty) && ge.2.forming.isEmpty && ge.2.vops.isEmpty
      && ge.2.xfers.all fun x => x.ended.isSome || x.acks != 0)

/-- An engine of the partition with nothing waiting; its trace buffer is zeroed. -/
def emptyEngine (e : Engine) : Engine :=
  { e with
    dq := (e.dq.map fun q => (q.1, { q.2 with runs := [], fetched := [] })).filter fun q => q.2 != ({} : DmaQ)
    xfers := []
    tickets := []
    staging := 0
    trace := []
    traceLost := 0 }

/-- The leave of the partition's governors but for the scrubs'. -/
def clearGov (g : Gov) : Gov :=
  { grants := g.grants.filter fun x => decide (2 ^ 64 ≤ x.1), resv := [], queue := g.queue.filter fun r => decide (2 ^ 64 ≤ r.id) }

/-- What the partition's dies hold of it: work that waits, on-die memories, sync files, queues, caches. -/
def clearDies (k : Nat) (m : Mod) : Mod :=
  let ds := partDies m k
  let m1 := ds.foldl (fun m d => modGov (dropCells (fun a => !inSram d a) m) d clearGov) m
  { m1 with
    eng := (m1.eng.map fun ge => if ds.contains (ge.1 / 16) then (ge.1, emptyEngine ge.2) else ge).filter fun ge => ge.2 != {}
    sync := m1.sync.filter fun kv => !ds.contains (kv.1 / 16384)
    syncQ := m1.syncQ.filter fun kv => !ds.contains kv.1
    hqs := m1.hqs.filter fun kv => !ds.contains (kv.1 / 512)
    hqQ := m1.hqQ.filter fun kv => !ds.contains kv.1
    regQ := (m1.regQ.map fun q => (q.1, q.2.filter fun r => r.part != k)).filter fun q => q.2 != []
    parts := smod {} m1.parts k fun p => { p with xlat := [], chains := [] } }

/-- A stream at the start of phase 2: one whose source has closed it, or has sent all, closes now. -/
def enterStreams (t : Clk) (m : Mod) (x : Nat × Nat) : Mod :=
  if (strm m x.1 x.2).st = .draining then scrubClose t x.1 x.2 m else scrubLimit t x.1 x.2 m

/-- SCRUB_QUIESCE_END: phase 2 begins, and the overwriting of HBM. -/
def quiesceEnd (k : Nat) (t : Clk) (m : Mod) : Mod :=
  match (partSt m k).scrub with
  | some { phase := .quiesce, .. } =>
    if ¬ partQuiet m k ∨ m.pwr.tripped then m else
    let m1 := modScrub (clearDies k m) k fun x => { x with phase := .streams }
    let m2 := (partSlots m1 k).foldl (enterStreams t) m1
    askUnits k ((unitsOf m2 k).filter fun u => decide (u < 16)) m2
  | _ => m

/-! ## Phase 2 -/

/-- SCRUB_STREAMS_END: the overwriting of the tier begins. -/
def streamsEnd (k : Nat) (_ : Clk) (m : Mod) : Mod :=
  match (partSt m k).scrub with
  | some { phase := .streams, .. } =>
    if (partSlots m k).any (fun x => isOpen (strm m x.1 x.2).st) ∨ m.pwr.tripped then m else
    askUnits k ((unitsOf m k).filter fun u => decide (16 ≤ u)) (modScrub m k fun x => { x with phase := .overwrite })
  | _ => m

/-! ## Phase 3 -/

/-- Every line of the partition's ranges in a unit reads as zeros, its scrub marker set; the lines that
cannot be written stay as they are (R560). -/
def overwrite (k u : Nat) (failed : List Nat) (m : Mod) : Mod :=
  let stays := fun (a : Nat) => !unitHolds m k u a || failed.contains (a / 256)
  let m1 := dropCells stays m
  { m1 with mem := { m1.mem with keep := m1.mem.keep.filter fun x => stays (256 * x.1) } }

/-- The log and unit of a memory's controller. -/
def unitLog (u : Nat) : Nat × Byte × Byte := if u < 16 then (logCD u, 3, BitVec.ofNat 8 u) else (logTD (u - 16), 8, BitVec.ofNat 8 (u - 16))

/-- A failed line in the partition's ranges. -/
def lineFailed (t : Clk) (k u line : Nat) (m : Mod) : Mod :=
  let l := unitLog u
  let m1 := logFault t l.1 { kind := l.2.1, index := l.2.2, typ := fEccUncorr, part := some k, addr := BitVec.ofNat 64 (256 * line), info := Config.syndrome m.draw } m
  modScrub { m1 with draw := m1.draw + 1 } k fun x => if x.failed then x else { x with failed := true, flog := flogOf m1 l.1 }

/-- The partition whose overwrite of a unit runs: its leave is granted. -/
def overwriting (m : Mod) (u : Nat) : Option Nat :=
  (List.range 8).find? fun k => ((partSt m k).scrub.any fun x => x.going.contains u) && hasGrant m (unitGov u) (scrubId k u)

/-- OVERWRITE_END: every line of the unit is overwritten, but for those that could not be, each of which is logged. -/
def unitDone (u : Nat) (failed : List Nat) (t : Clk) (m : Mod) : Mod :=
  match overwriting m u with
  | none => m
  | some k =>
    let bad := failed.filter fun l => unitHolds m k u (256 * l)
    let m1 := returnLeave (overwrite k u bad m) (unitGov u) (scrubId k u)
    let m2 := modScrub m1 k fun x => { x with going := x.going.erase u }
    bad.dedup.foldl (fun m l => lineFailed t k u l m) m2

/-! ## Phase 4 -/

/-- The rings of a partition are disabled. -/
def closePartRings (k : Nat) (m : Mod) : Mod :=
  (List.range 1024).foldl (fun m n =>
    let m1 := if sqEn m n ∧ ¬ sqModuleRing m n ∧ sqPart m n = k then setBit m (rSq n + 0x10) 0 false else m
    if cqEn m1 n ∧ ¬ cqModuleRing m1 n ∧ cqPart m1 n = k then setBit m1 (rCq n + 0x10) 0 false else m1) m

/-- The layouts of a partition are destroyed with the rounds and results they hold. -/
def clearLayouts (k : Nat) (m : Mod) : Mod :=
  let mine := fun (l : Option Layout) => l.any fun x => x.part == k
  let gone := fun (e : BitVec 16) => (mine m.xch.current && m.xch.current.any fun l => l.epoch == e) || (mine m.xch.previous && m.xch.previous.any fun l => l.epoch == e)
  modXch m fun x => { x with
    pending := if mine x.pending then none else x.pending
    current := if mine x.current then none else x.current
    previous := if mine x.previous then none else x.previous
    advancing := x.advancing && !mine x.pending
    rounds := x.rounds.filter fun r => !gone r.epoch
    pre := x.pre.filter fun r => !gone r.epoch
    results := if mine x.current then [] else x.results
    params := if mine x.current then [] else x.params }

/-- Counters of the partition's engines and slots. -/
def clearTallies (k : Nat) (m : Mod) : Mod :=
  let ds := partDies m k
  let m1 := { m with eng := (m.eng.map fun ge => if ds.contains (ge.1 / 16) then (ge.1, { ge.2 with ecnt := [], shadow := [], cleared := none }) else ge).filter fun ge => ge.2 != {} }
  (partSlots m1 k).foldl (fun m x => modStrm m x.1 x.2 fun y => { y with
    bytesLanded := 0, bytesDropped := 0, gapBytes := 0, evDropped := 0, smpDropped := 0 }) m1

/-- A slot's stream has lost its landing regions with the others. -/
def dropLanding (m : Mod) (x : Nat × Nat) : Mod := reclaimSegs x.1 x.2 m

/-- Everything that belongs to the partition is gone; its assignments stay. -/
def clearPart (t : Clk) (k : Nat) (m : Mod) : Mod :=
  let m1 := (partSlots m k).foldl dropLanding (freeProgram (clearLayouts k m) k)
  let m2 := clearTallies k { m1 with
    media := m1.media.map fun d => if bit (partIngest m k) d.1 then (d.1, { d.2 with slots := d.2.slots.filter fun z => decide (z.1 < 64) }) else d
    regions := m1.regions.filter fun kv => kv.2.part != k
    exp := m1.exp.filter fun kv => !(partDies m1 k).contains (kv.1 / 4096 / 16)
    sec := { m1.sec with unlocks := m1.sec.unlocks.filter fun u => u.part != some k } }
  let m3 := (List.range 18).foldl (fun m p => if portPart m p = k ∧ (portEn m p ∨ (port m p).st ≠ .down) then portDown t p 0 m else m) (closePartRings k m2)
  modPart (setBit m3 (rPart k) 0 false) k fun p => { ({} : PartSt) with reason := p.reason, traceHead := p.traceHead }

/-- SCRUB_OVERWRITE_END: phase 4, and the completion of the SCRUB. -/
def scrubEnd (k : Nat) (t : Clk) (m : Mod) : Mod :=
  match (partSt m k).scrub with
  | some { phase := .overwrite, going := [], sq := sq, tag := tag, failed := failed, flog := fl, .. } =>
    if m.pwr.tripped then m else
    let m1 := clearPart t k m
    endCmd t sq tag 0 (if failed then modCmd m1 sq tag fun c => { c with fault := some (fl, 0) } else m1)
  | _ => m

/-! ## The rows -/

def execScrub (sq : RingId) (tag : BitVec 16) (s : State) : Host.Outcome State Fault Refusal := cmdRow 0x50 scrubBody sq tag s
def execScrubQuiesceEnd (k : Part) (s : State) : Host.Outcome State Fault Refusal := onAll (quiesceEnd k.val) s
def execScrubStreamsEnd (k : Part) (s : State) : Host.Outcome State Fault Refusal := onAll (streamsEnd k.val) s
def execOverwriteEnd (u : Fin 20) (failedLines : List Nat) (s : State) : Host.Outcome State Fault Refusal := onAll (unitDone u.val failedLines) s
def execScrubOverwriteEnd (k : Part) (s : State) : Host.Outcome State Fault Refusal := onPort (scrubEnd k.val) s

end Sys2Proof.Machine
end

