-- ==== Sys2Proof/Machine/Security.lean ====
section
/-! DEFINITION. The root of trust: mailbox requests (R546, R632), enrolment (R547), attestation (R548,
R549), bound images (R554 to R558), debug unlocks (R565 to R567). -/

namespace Sys2Proof.Machine

/-! ## The mailbox -/

/-- The request of a function's mailbox ends (R632). -/
def mailEnd (f : Nat) (r : Byte) (m : Mod) : Mod := modMbox m f fun x => { x with busy := false, done := true, reason := r }

/-- A request: who asks, its partition, its block. -/
structure MailReq where
  f : Nat
  part : Nat
  block : List Byte
  deriving DecidableEq, Repr

def mailBlock (m : Mod) (f : Nat) : List Byte := hostRead m (regF m (rMboxReq f) 6 58 * 64) 64

/-- What every request is refused for: an unknown code, another function's partition, a scrub. -/
def mailErr (m : Mod) (code : Nat) (q : MailReq) : Option Byte :=
  if code = 0 ∨ code > 7 then some 0x15
  else if q.f ≠ 0 ∧ q.part ≠ q.f - 1 then some 0x16
  else if (partSt m q.part).scrub.isSome then some 0x75
  else none

/-- The row of a request: only the code that the block holds is processed. -/
def mailRow (code : Nat) (body : MailReq → Clk → Mod → Mod × Byte) (f : Nat) (t : Clk) (m : Mod) : Mod :=
  if ¬ (mbox m f).busy ∨ ¬ hnUp m ∨ m.hub.recovery ∨ hnBusy m then m else
  let b := mailBlock m f
  let c := Config.reqCode b
  let q : MailReq := { f := f, part := Config.reqPart b % 8, block := b }
  match mailErr m c q with
  | some r => mailEnd f r m
  | none => if c ≠ code then m else let x := body q t m; mailEnd f x.2 x.1

/-! ## ENROLL_KEY -/

/-- An Ed25519 public key of 32 bytes and an ML-DSA-65 public key of 1,952 (R547). -/
def enrolBody (q : MailReq) (_ : Clk) (m : Mod) : Mod × Byte :=
  let p := partSt m q.part
  let rec_ := hostRead m (Config.reqAddr 0 q.block) 2048
  let kind := Config.enrolDebug rec_
  if p.prog.isSome then (m, 0x8C)
  else if p.boundNow then (m, 0x74)
  else if (keysOf m q.part kind).length ≥ 4 then (m, 0x16)
  else (modPart m q.part fun p => { p with enrolled := p.enrolled ++ [(kind, slice (Config.enrolKeys rec_) 0 1984)] }, 0)

/-! ## Measurements and ATTEST -/

/-- Unlocks in force, as scope and partition. -/
def debugState (t : Clk) (m : Mod) : List Nat :=
  (m.sec.unlocks.filter fun u => decide (t.now < u.ends)).flatMap fun u => match u.part with
    | some k => [1, k]
    | none => [2, 0]

/-- The image in the active bank of a kind: measurements change with the mark (R610). -/
def activeImage (k : Nat) (x : FwKind) : List Byte := ((if x.activeB then x.imgB else x.imgA).getD (Config.factoryImage k))

/-- The fuse state: revocations, minimum versions, key-slot hashes (R548). -/
def fuseState (m : Mod) : List (List Byte) :=
  (List.range 5).map (fun i => toLe 1 (b2n (Config.slotRevoked i))) ++ (List.range 6).map (fun k => toLe 4 (fwKind m k).fused)
    ++ (List.range 5).map fun i => slice (Config.slotHash i) 0 48

/-- What a loaded container, the keys and the device set of a partition are. -/
def container (m : Mod) (k : Nat) : List Byte := match (partSt m k).prog with
  | some p => p.bytes
  | none => []
def keyBytes (m : Mod) (k : Nat) : List Byte := (partSt m k).enrolled.flatMap (·.2)
def bindBytes (m : Mod) (k : Nat) : List Byte := (partSt m k).boundSet.flatten

/-- What a measurement index covers (R548). -/
def measuredState (t : Clk) (m : Mod) (i : Nat) : List (List Byte) :=
  if i = 1 then [Config.bootRom]
  else if 2 ≤ i ∧ i ≤ 7 then [activeImage (i - 2) (fwKind m (i - 2))]
  else if i = 8 then fuseState m
  else if i = 9 then (debugState t m).map (toLe 1)
  else if 16 ≤ i then [container m (i - 16), keyBytes m (i - 16), bindBytes m (i - 16)]
  else []

/-- A measurement: a SHA-384 digest. -/
def measurement (t : Clk) (m : Mod) (i : Nat) : List Byte := slice (Config.sha384 (Config.measured i (measuredState t m i))) 0 48

/-- The DEBUG field of a report. -/
def debugField (t : Clk) (m : Mod) (k : Nat) : Nat :=
  let u := m.sec.unlocks.filter fun u => decide (t.now < u.ends)
  if u.any (·.part.isNone) then 2 else if u.any (·.part == some k) then 1 else 0

def digestOr (b : List Byte) : List Byte := if b.isEmpty then List.replicate 48 0 else slice (Config.sha384 b) 0 48

/-- The signed bytes of a tenant attestation report. -/
def reportBody (t : Clk) (m : Mod) (q : MailReq) : List Byte :=
  slice (Config.reqNonce q.block) 0 32 ++ deviceId ++ toLe 1 q.part ++ toLe 1 (debugField t m q.part) ++ [0, 0]
    ++ toLe 4 (partSt m q.part).integrity ++ toLe 8 t.sid.toNat
    ++ slice (Config.sha384 ((List.range 9).flatMap fun i => measurement t m (i + 1))) 0 48
    ++ digestOr (container m q.part) ++ slice (Config.sha384 (keyBytes m q.part)) 0 48 ++ digestOr (bindBytes m q.part)

def attestBody (q : MailReq) (t : Clk) (m : Mod) : Mod × Byte :=
  (hostWrite m (Config.reqAddr 1 q.block) (slice (signed (reportBody t m q)) 0 4096), 0)

/-! ## Bound images (R554) -/

/-- The parts of an image in host memory. -/
structure Image where
  at_ : Nat
  hdr : List Byte
  r : Nat
  len : Nat
  payAt : Nat
  chunks : Nat
  sigAt : Nat
  deriving DecidableEq, Repr

def readImage (m : Mod) (a : Nat) : Image :=
  let h := hostRead m a 0x5C0
  let r := fld h 8 4
  let len := fld h 0x10 8
  let pay := roundUp (0x5C0 + 1216 * r) 256
  let n := ceilDiv len 65536
  { at_ := a, hdr := h, r := r, len := len, payAt := pay, chunks := n, sigAt := roundUp (pay + len + 16 * n) 256 }

def imageHead (x : Image) : List Byte := slice x.hdr 0 0x60

/-- A field out of its range or a reserved one that is not 0. -/
def imageBad (x : Image) : Bool :=
  let h := x.hdr
  fld h 0 4 != 0x444E4942 || fld h 4 2 != 1 || decide (fld h 6 1 > 1) || fld h 7 1 != 0 || x.r == 0 || decide (x.r > 16384)
    || x.len == 0 || decide (x.len > 2 ^ 40) || fld h 0xC 4 != 0 || !allZero (slice h 0x24 12) || !allZero (slice h 0x90 112)
    || (fld h 6 1 == 0 && !allZero (slice h 0x60 48))

def recipient (m : Mod) (x : Image) (i : Nat) : List Byte := hostRead m (x.at_ + 0x5C0 + 1216 * i) 1216
def recipients (m : Mod) (x : Image) : List (List Byte) := (List.range x.r).map fun i => slice (recipient m x i) 0 48

/-- The key pairs that may sign an image, none when the key it names is not there (R556 step 1). -/
def imageKeys (m : Mod) (k : Nat) (x : Image) : List (List Byte) :=
  let owner := (keysOf m k false).filter fun key => slice (Config.sha384 key) 0 48 == slice x.hdr 0x30 48
  if fld x.hdr 6 1 = 0 then owner
  else
    let dev := slice x.hdr 0x60 48
    let peer := dev == deviceId || (List.range 18).any fun p =>
      portPart m p == k && (port m p).st == .up && (port m p).peer == dev
    if owner.isEmpty ∨ ¬ peer then [] else [if dev = deviceId then identityKey else Config.identityPair dev]

/-- Both signatures under one pair (R545). -/
def pairErr (keys : List (List Byte)) (msg sigs : List Byte) (noKey : Byte) : Option Byte :=
  let ed := keys.filter fun k => Config.edVerify k msg (slice sigs 0 64)
  if keys.isEmpty then some noKey
  else if ed.isEmpty then some 0x70
  else if ed.any fun k => Config.mlVerify k msg (slice sigs 64 3309) then none else some 0x71

def sameSet (a b : List (List Byte)) : Bool := a.all b.contains && b.all a.contains

/-- Every page of a range is a leaf with BOUND, and WR where it is written. -/
def pagesBound (m : Mod) (k a len : Nat) (wr : Bool) : Bool :=
  (chunks 65536 (len / 65536 + 2) a len).all fun c => match xlate m k c.1 wr with
    | .ok x => x.bound
    | .error _ => false

/-- The checks of BIND_LOAD, in order; its recipient entry. -/
def bindErr (t : Clk) (m : Mod) (k : Nat) (x : Image) (dst : Nat) : Except Byte (List Byte) :=
  let msg := hostRead m x.at_ x.sigAt
  if unlocked t m k then .error 0x74
  else if imageBad x then .error 0x74
  else match pairErr (imageKeys m k x) msg (hostRead m (x.at_ + x.sigAt) 3373) 0x72 with
    | some r => .error r
    | none => match ((List.range x.r).map (recipient m x)).find? fun e => slice e 0 48 == deviceId with
      | none => .error 0x74
      | some e =>
        if (partSt m k).boundNow ∧ ¬ sameSet (recipients m x) (partSt m k).boundSet then .error 0x74
        else if ¬ pagesBound m k dst x.len true then .error 0x74
        else .ok e

/-- The unit's own access to a partition's memory. -/
def unitReq (k : Nat) : Req := { who := .host 0, part := some k, phys := false, owner := none }

/-- Chunk j of an image: its place, and its plaintext bytes. -/
def chunkBytes (m : Mod) (x : Image) (j : Nat) : List Byte :=
  hostRead m (x.at_ + x.payAt + 65552 * j) (min 65536 (x.len - 65536 * j) + 16)

/-- Bytes written so far are zeroed (R556). -/
def zeroOut (t : Clk) (k dst n : Nat) (m : Mod) : Mod := (writeMem t m (unitReq k) dst (List.replicate n 0) false .clean).1

/-- The chunks from j on, decrypted into the destination. -/
def loadChunks (t : Clk) (k dst : Nat) (x : Image) (key : List Byte) : Nat → Nat → Mod → Mod × Byte
  | 0, _, m => (m, 0)
  | n + 1, j, m =>
    match openChunk key (imageHead x) j (chunkBytes m x j) with
    | none => (zeroOut t k dst (65536 * j) m, 0x74)
    | some b =>
      match writeMem t m (unitReq k) (dst + 65536 * j) (slice b 0 (min 65536 (x.len - 65536 * j))) false .clean with
      | (m1, some e) => (zeroOut t k dst (65536 * j) m1, e.reason)
      | (m1, none) => loadChunks t k dst x key n (j + 1) m1

/-- BIND_LOAD: on success the recipients are the partition's device set. -/
def bindLoadBody (q : MailReq) (t : Clk) (m : Mod) : Mod × Byte :=
  let k := q.part
  let x := readImage m (Config.reqAddr 0 q.block)
  let dst := Config.reqAddr 1 q.block
  match bindErr t m k x dst with
  | .error r => (m, r)
  | .ok e => match unwrap e (imageHead x) with
    | none => (m, 0x74)
    | some key =>
      let r := loadChunks t k dst x key x.chunks 0 m
      if r.2 ≠ 0 then r
      else (modPart r.1 k fun p => { p with
        boundNow := true, boundSet := recipients m x, ownerKem := slice x.hdr 0x30 48 ++ slice x.hdr 0x100 0x4C0 }, 0)

/-- The binding public keys of a device: this module's own, or another's from its certificate. -/
def bindKeys (id : List Byte) : List Byte := if id = deviceId then bindPublic else Config.bindPair id

/-- The bytes of an export before its signatures (R554, R558): one entry for each device of the set, or one of device ID
0 for OWNER_KEM. -/
def exportBytes (draw : Nat) (p : PartSt) (owner : Bool) (payload : List Byte) : List Byte :=
  let key := slice (Config.drawBytes draw 32) 0 32
  let dests := if owner then [List.replicate 48 0] else p.boundSet
  let head := toLe 4 0x444E4942 ++ toLe 2 1 ++ [1, 0] ++ toLe 4 dests.length ++ toLe 4 0 ++ toLe 8 payload.length
    ++ slice (Config.drawBytes (draw + 1) 12) 0 12 ++ List.replicate 12 0 ++ slice p.ownerKem 0 48
  let hdr := slice (head ++ deviceId) 0 0x100 ++ slice p.ownerKem 48 0x4C0
  let entries := (List.range dests.length).flatMap fun i =>
    let id := (dests[i]?).getD []
    let pub := if owner then slice p.ownerKem 48 0x4C0 else bindKeys id
    wrapEntry key id pub head (Config.drawBytes (draw + 2 + i) 64)
  let padTo := fun (b : List Byte) => b ++ List.replicate (roundUp b.length 256 - b.length) 0
  let chunk := fun (j : Nat) => sealChunk key head j ((payload.drop (65536 * j)).take 65536)
  padTo (padTo (hdr ++ entries) ++ (List.range (ceilDiv payload.length 65536)).flatMap chunk)

/-- BIND_EXPORT: a range wholly in bound pages, sealed anew and signed by this module. -/
def bindExportBody (q : MailReq) (t : Clk) (m : Mod) : Mod × Byte :=
  let k := q.part
  let a := Config.reqAddr 0 q.block
  let len := Config.reqLen q.block
  if ¬ (partSt m k).boundNow ∨ len = 0 ∨ len > 2 ^ 40 ∨ ¬ pagesBound m k a len false then (m, 0x74) else
  match readMem t m (unitReq k) a len .clean with
  | (m1, .error e) => (m1, e.reason)
  | (m1, .ok (b, _)) =>
    let p := partSt m k
    let n := if Config.reqOwner q.block then 1 else p.boundSet.length
    (hostWrite { m1 with draw := m1.draw + 2 + n } (Config.reqAddr 1 q.block) (signed (exportBytes m1.draw p (Config.reqOwner q.block) b)), 0)

/-! ## Debug unlock -/

/-- A fresh challenge of a mailbox: the device ID and a nonce, valid for 60 s. -/
def challenge (f : Nat) (t : Clk) (m : Mod) : List Byte × Mod :=
  let (n, m1) := drawId m
  (deviceId ++ slice (Config.drawBytes n 32) 0 32, modMbox m1 f fun x => { x with nonce := some (n, t.now + 60 * second) })

/-- DEBUG_CHALLENGE. -/
def challengeBody (q : MailReq) (t : Clk) (m : Mod) : Mod × Byte :=
  let (b, m1) := challenge q.f t m
  (hostWrite m1 (Config.reqAddr 1 q.block) b, 0)

/-- The port of the debug connector, beside the mailboxes of the nine functions (R565). -/
def connector : Nat := 9

/-- A debug-unlock token. -/
structure DebugToken where
  scope : Nat
  part : Nat
  life : Nat
  deriving DecidableEq, Repr

def readToken (b : List Byte) : DebugToken where
  scope := fld b 0x50 1
  part := fld b 0x51 1
  life := fld b 0x54 4

/-- The token bears the live nonce of the mailbox. -/
def nonceOk (t : Clk) (m : Mod) (f : Nat) (b : List Byte) : Bool :=
  match (mbox m f).nonce with
  | none => false
  | some (n, ends) => decide (t.now < ends) && slice b 0x30 32 == slice (Config.drawBytes n 32) 0 32

def tokenBad (m : Mod) (f : Nat) (b : List Byte) : Bool :=
  let x := readToken b
  slice b 0 48 != deviceId || (x.scope != 1 && x.scope != 2) || (x.scope == 1 && decide (x.part > 7))
    || fld b 0x52 2 != 0 || !allZero (slice b 0x58 8) || x.life == 0 || decide (x.life > 86400)
    || (f != 0 && f != connector && (x.scope == 2 || x.part != f - 1)) || m.hub.recovery

/-- DEBUG_UNLOCK's refusals, in the order of R566. -/
def unlockErr (t : Clk) (m : Mod) (f : Nat) (b : List Byte) : Option Byte :=
  let x := readToken b
  let keys := if x.scope = 2 then [Config.debugAuthority].filter (fusedPair 4) else keysOf m x.part true
  if tokenBad m f b ∨ ¬ nonceOk t m f b then some 0x73
  else match pairErr keys (slice b 0 0x60) (slice b 0x60 3373) 0x70 with
    | some r => some r
    | none =>
      if x.scope = 1 ∧ (partSt m x.part).boundNow then some 0x74
      else if x.scope = 2 ∧ (List.range 8).any (partEn m) then some 0x29
      else if x.scope = 1 ∧ (partSt m x.part).scrub.isSome then some 0x75
      else none

/-- A token at a mailbox; a nonce is spent by the token that bears it. -/
def presentToken (f : Nat) (b : List Byte) (t : Clk) (m : Mod) : Mod × Byte :=
  let m1 := if nonceOk t m f b then modMbox m f fun x => { x with nonce := none } else m
  match unlockErr t m f b with
  | some r => (m1, r)
  | none =>
    let x := readToken b
    let u : Unlock := { part := if x.scope = 2 then none else some x.part, ends := t.now + x.life * second, func := f }
    ({ m1 with sec := { m1.sec with unlocks := m1.sec.unlocks ++ [u] } }, 0)

def unlockBody (q : MailReq) (t : Clk) (m : Mod) : Mod × Byte :=
  presentToken q.f (hostRead m (Config.reqAddr 0 q.block) 0xD8D) t m

/-- The exchange of the debug connector, with an attached probe (DBG_PRESENT# low, R642), whose answers leave through its own port: the challenge, or the reason of an
unlock (R565). -/
def connectorRow (body : Clk → Mod → List Byte × Mod) (t : Clk) (m : Mod) : Mod :=
  if ¬ hnUp m ∨ m.hub.recovery ∨ hnBusy m then m else
  let x := body t m
  emit (.debugPort x.1) x.2

def connectorUnlock (token : List Byte) (t : Clk) (m : Mod) : List Byte × Mod :=
  let x := presentToken connector (slice token 0 0xD8D) t m
  ([x.2], x.1)

/-- Unlocks end; the BREAKs of partitions that nothing unlocks any more are cleared, and what they halted
goes on (R599). -/
def endUnlocks (t : Clk) (gone : Unlock → Bool) (m : Mod) : Mod :=
  let was := (List.range 8).filter (unlocked t m)
  let lapsed := (m.sec.unlocks.filter gone).flatMap fun u => match u.part with
    | some k => [k]
    | none => List.range 8
  let m1 := { m with sec := { m.sec with unlocks := m.sec.unlocks.filter fun u => !gone u } }
  clearDebug t ((was ++ lapsed).dedup.filter fun k => !unlocked t m1 k) m1

/-- DEBUG_LOCK: the unlock of its partition, and from PF0 a module unlock. -/
def lockBody (q : MailReq) (t : Clk) (m : Mod) : Mod × Byte :=
  (endUnlocks t (fun u => u.part == some q.part || (u.part.isNone && q.f == 0)) m, 0)

def nonceExpiry (f : Nat) (t : Clk) (m : Mod) : Mod :=
  modMbox m f fun x => match x.nonce with
    | some (_, ends) => if t.now < ends then x else { x with nonce := none }
    | none => x

/-- The end of a LIFETIME. -/
def unlockExpiry (i : Nat) (t : Clk) (m : Mod) : Mod :=
  match m.sec.unlocks[i]? with
  | none => m
  | some u => if t.now < u.ends then m else endUnlocks t (· == u) m

/-! ## SPDM (R548) -/

/-- Requests are answered once HN's firmware runs. -/
def spdmUp (m : Mod) : Bool := hnUp m && !m.hub.recovery && !hnBusy m

/-- A reply; a signed one leaves its transcript for the request of the second signature. -/
def spdmAnswer (code : Nat) (req content : List Byte) (m : Mod) : Mod :=
  if ¬ spdmUp m then m else
  let r := Config.spdmReply code req content
  let m1 := { m with sec := { m.sec with spdmLast := none } }
  if Config.spdmSigns code req then
    let h := Config.spdmTranscript req r
    emit (.spdmSigned r (edSig h)) { m1 with sec := { m1.sec with spdmLast := some h } }
  else emit (.spdm r) m1

/-- The measurements of the module and its partitions. -/
def allMeasures (t : Clk) (m : Mod) : List Byte :=
  ((List.range 9).map (· + 1) ++ (List.range 8).map (· + 16)).flatMap (measurement t m)

/-- The ML-DSA-65 signature over the transcript of the last signed reply. -/
def spdmSecond (m : Mod) : Mod :=
  if ¬ spdmUp m then m else
  match m.sec.spdmLast with
  | none => m
  | some h => emit (.spdm (mlSig h)) { m with sec := { m.sec with spdmLast := none } }

/-! ## The rows -/

def execEnrollKey (f : Func) (s : State) : Host.Outcome State Fault Refusal := onMod (mailRow 1 enrolBody f.val) s
def execAttest (f : Func) (s : State) : Host.Outcome State Fault Refusal := onMod (mailRow 2 attestBody f.val) s
def execBindLoad (f : Func) (s : State) : Host.Outcome State Fault Refusal := onMod (mailRow 3 bindLoadBody f.val) s
def execBindExport (f : Func) (s : State) : Host.Outcome State Fault Refusal := onMod (mailRow 4 bindExportBody f.val) s
def execDebugChallenge (f : MailPort) (s : State) : Host.Outcome State Fault Refusal :=
  onMod (if f.val = connector then connectorRow (challenge connector) else mailRow 5 challengeBody f.val) s
def execDebugUnlock (f : TokenAt) (s : State) : Host.Outcome State Fault Refusal :=
  onMod (match f with
    | .mailbox f => mailRow 6 unlockBody f.val
    | .connector token => connectorRow (connectorUnlock token)) s
def execDebugLock (f : Func) (s : State) : Host.Outcome State Fault Refusal := onAll (mailRow 7 lockBody f.val) s
def execDebugNonceExpiry (f : MailPort) (s : State) : Host.Outcome State Fault Refusal := onMod (nonceExpiry f.val) s
def execDebugUnlockExpiry (i : Nat) (s : State) : Host.Outcome State Fault Refusal := onAll (unlockExpiry i) s
def execGetVersion (req : List Byte) (s : State) : Host.Outcome State Fault Refusal := onMod (fun _ m => spdmAnswer 1 req [] m) s
def execGetCapabilities (req : List Byte) (s : State) : Host.Outcome State Fault Refusal := onMod (fun _ m => spdmAnswer 2 req [] m) s
def execNegotiateAlgorithms (req : List Byte) (s : State) : Host.Outcome State Fault Refusal := onMod (fun _ m => spdmAnswer 3 req [] m) s
def execGetDigests (req : List Byte) (s : State) : Host.Outcome State Fault Refusal :=
  onMod (fun _ m => spdmAnswer 4 req (slice (Config.sha384 certChain) 0 48) m) s
def execGetCertificate (req : List Byte) (s : State) : Host.Outcome State Fault Refusal :=
  onMod (fun _ m => spdmAnswer 5 req certChain m) s
def execChallenge (req : List Byte) (s : State) : Host.Outcome State Fault Refusal :=
  onMod (fun t m => spdmAnswer 6 req (slice (Config.sha384 certChain) 0 48 ++ allMeasures t m) m) s
def execGetMeasurements (req : List Byte) (s : State) : Host.Outcome State Fault Refusal :=
  onMod (fun t m => spdmAnswer 7 req (allMeasures t m) m) s
def execMldsaSignatureRequest (_req : List Byte) (s : State) : Host.Outcome State Fault Refusal := onMod (fun _ m => spdmSecond m) s

end Sys2Proof.Machine
end

