-- ==== Sys2Proof/Machine/Logs.lean ====
section
/-! DEFINITION. FLT_CLEAR and ECC_STORM (R572, R580, R633), the trace ring (R586, R587), counter samples
(R591, R634), the TIME_NOW latch (R618). -/

namespace Sys2Proof.Machine

/-! ## Fault logs -/

/-- FLT_CLEAR: bit 0 clears FIRST, LAST and COUNT, bit 1 the corrected count. -/
def clearLog (v : Nat) (l : FLog) : FLog :=
  let l1 := if bit v 0 then { l with first := {}, last := {}, count := 0 } else l
  if bit v 1 then { l1 with corr := 0, corrMark := 0 } else l1

def fltClear (log v : Nat) (m : Mod) : Mod := { m with logs := smod {} m.logs log (clearLog v) }

/-- The unit that a log belongs to (R570, R574). -/
def logUnit (l : Nat) : Byte × Byte :=
  if l < 256 then (1, BitVec.ofNat 8 l)
  else if l < 272 then (2, BitVec.ofNat 8 (l - 256))
  else if l < 274 then (5, BitVec.ofNat 8 (l - 272))
  else if l < 278 then (6, BitVec.ofNat 8 (l - 274))
  else if l < 284 then (7, BitVec.ofNat 8 (l - 278))
  else (8, BitVec.ofNat 8 (l - 284))

/-- A second ends now that a log has not been judged for. The seconds are those of the time since power-on (log 71). -/
def secondEnds (t : Clk) (l : FLog) : Bool := t.now % second == 0 && decide (l.stormAt < t.now)

/-- The end of a second: one entry when the corrected count has risen by more than the limit in it (R580). -/
def eccStorm (log : Nat) (t : Clk) (m : Mod) : Mod :=
  let l := flog m log
  if ¬ secondEnds t l then m else
  let risen := l.corr - l.corrMark
  let m1 := { m with logs := smod {} m.logs log fun x => { x with corrMark := x.corr, stormAt := t.now } }
  let e : FEntry := { kind := (logUnit log).1, index := (logUnit log).2, typ := fEccStorm, info := BitVec.ofNat 64 risen }
  if risen ≤ regF m (rFltLimit log) 0 32 then m1
  else if log < 256 then logEngine t log e m1 else logFault t log e m1

/-! ## The trace ring -/

def traceOn (m : Mod) (k : Nat) : Bool := regB m (rPart k + 0x488) 31
def traceSize (m : Mod) (k : Nat) : Nat := 2 ^ regF m (rPart k + 0x488) 0 5

/-- A write of PART_TRACE_SIZE; setting ON resets the head. -/
def traceWrite (f k v : Nat) (m : Mod) : Mod :=
  let was := traceOn m k
  let m1 := setBit (storeReg f (rPart k + 0x488) v m) (rPart k + 0x488) 31 (bit v 31)
  if bit v 31 ∧ ¬ was then modPart m1 k fun p => { p with traceHead := 0 } else m1

def traceFull (m : Mod) (k : Nat) : Bool :=
  ((partSt m k).traceHead + 16) % traceSize m k == regF m (rPart k + 0x498) 0 32 % traceSize m k

/-- The engine of a die whose record the trace path takes: the next in turn with records waiting. -/
def traceNext (m : Mod) (d : Nat) : Option Nat :=
  let from_ := sget 0 m.traceRr d
  ((List.range 16).map fun i => 16 * d + (from_ + i) % 16).find? fun g => !(engine m g).trace.isEmpty

/-- A die has a record that its partition's ring can take. -/
def traceReady (m : Mod) (d : Nat) : Bool :=
  (traceNext m d).isSome && match dieOwner m d with
    | some k => traceOn m k && !traceFull m k
    | none => false

/-- The die whose record HN takes: the next in turn with a record that can move (R587; log 71). -/
def traceDie (m : Mod) : Option Nat :=
  ((List.range 16).map fun i => (sget 0 m.traceRr 16 + i) % 16).find? (traceReady m)

/-- The turns go on past engine g. -/
def traceTurn (g : Nat) (m : Mod) : Mod :=
  { m with traceRr := sset 0 (sset 0 m.traceRr (g / 16) ((g % 16 + 1) % 16)) 16 ((g / 16 + 1) % 16) }

/-- A record with an uncorrected error is dropped and counted as lost (R579). -/
def traceDrop (g : Nat) (rest : List (BitVec 128)) (m : Mod) : Mod :=
  countEv (modEngine m g fun e => { e with trace := rest, traceLost := e.traceLost + 1 }) g 0x11 1

/-- A record reaches the ring of partition k. -/
def traceWriteOut (g k : Nat) (r : BitVec 128) (rest : List (BitVec 128)) (m : Mod) : Mod :=
  let at_ := regF m (rPart k + 0x480) 12 52 * 4096 + (partSt m k).traceHead
  modPart (modEngine (hostWrite m at_ (toLe 16 r.toNat)) g fun e => { e with trace := rest }) k
    fun p => { p with traceHead := (p.traceHead + 16) % traceSize m k }

/-- TRACE_RECORD_TRANSFER: one record of the die whose turn it is reaches its partition's ring, as ECC reads it (R578,
R579, R587). -/
def traceMove (d : Nat) (_ : Clk) (m : Mod) : Mod :=
  if traceDie m ≠ some d then m else
  match dieOwner m d, traceNext m d with
  | some k, some g => match (engine m g).trace with
    | [] => m
    | r :: rest =>
      let (n, m1) := drawId (traceTurn g m)
      match Config.traceEcc n with
      | .uncorrectable _ => traceDrop g rest m1
      | .corrected => countEv (addCorr (traceWriteOut g k r rest m1) g) g 0x10 1
      | _ => traceWriteOut g k r rest m1
  | _, _ => m

/-! ## Counters -/

/-- Every counter of an engine into its shadow. -/
def snapEngine (t : Clk) (m : Mod) (g : Nat) : Mod :=
  modEngine m g fun e => { e with shadow := (List.range 32).foldl (fun s c => sset 0 s c (counterSample t m g c)) e.shadow }

def ecntSnap (d v : Nat) (t : Clk) (m : Mod) : Mod :=
  ((List.range 16).filter (bit v)).foldl (fun m i => snapEngine t m (16 * d + i)) m

/-- A write of CDn_Em_ECNT_SEL clears its counter. -/
def selWrite (f g c v : Nat) (m : Mod) : Mod :=
  modEngine (storeReg f (rEcntSel g c) v m) g fun e => { e with ecnt := sset {} e.ecnt c {} }

/-- The entry of an access that BAR0 does not serve: ACCESS 0x1E in log 272 (R618). -/
def barLog (t : Clk) (f off : Nat) (m : Mod) : Mod := hnFault t fAccess 0x1E off 0 (if f = 0 then none else some (f - 1)) m

/-- An access that BAR0 serves: aligned, of 4 or 8 bytes (R618). -/
def barServes (off size : Nat) : Bool := (size == 4 || size == 8) && off % size == 0

/-- A read of BAR0 as HN answers it: UR for a VF that is not live (R480) and for an access it does not serve; a register,
or the half of it that 4 bytes reach. The low half of TIME_NOW latches the high half for the function, and the next read of
the high half returns that (R618). -/
def barRead (t : Clk) (f off size : Nat) (m : Mod) : Mod :=
  let v := (readReg t m f (off / 8 * 8)).toNat
  let gives := fun (n : Nat) => emit (.regRead f (BitVec.ofNat 64 n))
  let latch := fun (x : Option W32) => modHub m fun h => { h with nowHigh := sset none h.nowHigh f x }
  if ¬ hnUp m ∨ hnBusy m then m
  else if ¬ vfLive m f then emit (.readUR f) m
  else if ¬ barServes off size then emit (.readUR f) (barLog t f off m)
  else if size = 8 then gives v m
  else if off % 8 = 0 then gives (v % 2 ^ 32) (if off = 0x400000 then latch (some (BitVec.ofNat 32 (v / 2 ^ 32))) else m)
  else match if off = 0x400004 then sget none m.hub.nowHigh f else none with
    | some high => gives high.toNat (latch none)
    | none => gives (v / 2 ^ 32) m

/-! ## The rows -/

def execFltClear (f : Func) (log : Fin 288) (v : W64) (s : State) : Host.Outcome State Fault Refusal :=
  onMod (fun _ m => gated f.val (0x600050 + 0x80 * log.val) (fltClear log.val v.toNat) m) s
def execEccStorm (log : Fin 288) (s : State) : Host.Outcome State Fault Refusal := onMod (eccStorm log.val) s
def execTraceEnable (f : Func) (k : Part) (v : W64) (s : State) : Host.Outcome State Fault Refusal :=
  onMod (fun _ m => if bit v.toNat 31 then gated f.val (rPart k.val + 0x488) (traceWrite f.val k.val v.toNat) m else m) s
def execTraceRecordTransfer (d : Die) (s : State) : Host.Outcome State Fault Refusal := onMod (traceMove d.val) s
def execEcntSnap (f : Func) (d : Die) (v : W64) (s : State) : Host.Outcome State Fault Refusal :=
  onMod (fun t m => gated f.val (rCd d.val + 8) (ecntSnap d.val v.toNat t) m) s
def execEcntRead (f : Func) (e : Eng) (c : Fin 32) (s : State) : Host.Outcome State Fault Refusal :=
  onMod (fun t m => barRead t f.val (rTraceCtrl e.val + 0x200 + 8 * c.val) 8 m) s
def execEcntSelWrite (f : Func) (e : Eng) (c : Fin 32) (v : W64) (s : State) : Host.Outcome State Fault Refusal :=
  onMod (fun _ m => gated f.val (rEcntSel e.val c.val) (selWrite f.val e.val c.val v.toNat) m) s
def execTimeNowLowRead (f : Func) (s : State) : Host.Outcome State Fault Refusal := onMod (fun t m => barRead t f.val 0x400000 4 m) s

end Sys2Proof.Machine
end

