-- ==== Sys2Proof/Machine/Launch.lean ====
section
/-! DEFINITION. The launch of a Transit (R258, R308, R491) and the arrival of a region operation at its
tier die (R191 to R193, R444). -/

namespace Sys2Proof.Machine

/-- A Transit instruction at its launch: the reservation becomes the grant. -/
def launchInsn (g c : Nat) (t : Clk) (m : Mod) : Mod :=
  match (ctx m g c).accepted with
  | none => m
  | some a => dispatchInsn (formOf (wOp a.word) (wExt a.word)) t g c m

/-- The commands that a Transit may carry (R495). -/
def launchBody (op : Nat) : Option (Cmd → Clk → Mod → Mod) :=
  match op with
  | 0x00 => some nopBody
  | 0x11 => some progStartBody
  | 0x13 => some chainBody
  | 0x20 => some dmaBody
  | 0x31 => some epochBody
  | _ => none

/-- A Transit command at its launch; one that still waits for ring order has no launch yet. -/
def launchCmd (sq : RingId) (tag : BitVec 16) (t : Clk) (m : Mod) : Mod :=
  match findCmd m sq.val tag.toNat with
  | none => m
  | some c => match c.st, launchBody c.op with
    | .accepted _ _, some body => startCmd c.op body sq tag t m
    | _, _ => m

def launch (r : TransitRef) (t : Clk) (m : Mod) : Mod :=
  match r with
  | .insn e c => launchInsn e.val c.val t m
  | .cmd sq tag => launchCmd sq tag t m

/-- The landing regions of a stream that an operation of a driver has freed no longer count. -/
def dropFreed (m : Mod) (d s : Nat) : Mod :=
  endCommit d s (modStrm m d s fun x => { x with segs := x.segs.filter fun e => (region m (landDie x d) e.1).st != .free })

def dropAllFreed (m : Mod) : Mod :=
  (List.range 6).foldl (fun m d => ((slotsOf m d).map (·.1)).foldl (fun m s => dropFreed m d s) m) m

/-- REGION_OP_ARRIVAL: a live FW_ACTIVATE of the tier die holds its operations (R614). -/
def regionArrival (d i : Nat) (t : Clk) (m : Mod) : Mod :=
  if svcRuns m 1 6 d then m else
  match regionArrive m d i with
  | none => m
  | some q => dropAllFreed (regionApply d q t m)

/-! ## The rows -/

def execTransitDispatch (r : TransitRef) (s : State) : Host.Outcome State Fault Refusal := onAll (launch r) s
def execRegionOpArrival (d : Tier) (i : Nat) (s : State) : Host.Outcome State Fault Refusal := onAll (regionArrival d.val i) s

end Sys2Proof.Machine
end

