-- ==== Sys2Proof/Machine/Registers.lean ====
section
/-! DEFINITION. REGISTER_WRITE: a write of BAR0 under the access rules of the register reference (R8 to
R10, R482, R618 to R622, R624 to R637). -/

namespace Sys2Proof.Machine

/-- A write that BAR0 does not serve: Unsupported Request, and ACCESS 0x1E in log 272 (R568, R618). -/
def barRefuse (t : Clk) (f off : Nat) (m : Mod) : Mod :=
  emit (.aerUR f) (barLog t f off m)

/-- A register with a WO or W1S field. -/
def actsWhole (off : Nat) : Bool :=
  match lookReg off with
  | none => false
  | some (d, _, _) => d.flds.any fun x => x.acc == .wo || x.acc == .w1s

/-- A register of 64 bits: one with a field above bit 31. -/
def isWide (off : Nat) : Bool :=
  match lookReg off with
  | none => false
  | some (d, _, _) => d.flds.any fun x => decide (32 ≤ x.hi)

/-- The value of a 4-byte write: the other half as it stands. -/
def halfWrite (m : Mod) (off v : Nat) : Nat :=
  let old := regN m (off / 8 * 8)
  if off % 8 = 4 then old % 2 ^ 32 + v % 2 ^ 32 * 2 ^ 32 else old / 2 ^ 32 * 2 ^ 32 + v % 2 ^ 32

/-- HUB_MODULE_ID: writing MODULE sets SET (R624). -/
def idWrite (f v : Nat) (m : Mod) : Mod :=
  if moduleEn m then m else modHub (storeReg f rHubModuleId v m) fun h => { h with idSet := true }

/-- MODULE_CTRL.EN by what is written. -/
def moduleWrite (v : Nat) (m : Mod) : Mod := if bit v 0 then moduleOn v m else moduleOff m

/-- SEC_MBOX_GO: ignored while a request runs (R546, R632). -/
def mboxGo (f v : Nat) (m : Mod) : Mod :=
  if ¬ bit v 0 ∨ (mbox m f).busy then m else modMbox m f fun x => { x with busy := true, done := false }

/-- A trace control register; the record of the time base opens a trace that becomes enabled (R586). -/
def traceCtrlWrite (f g v : Nat) (m : Mod) : Mod :=
  let was := regN m (rTraceCtrl g)
  let m1 := storeReg f (rTraceCtrl g) v m
  if was = 0 ∧ regN m1 (rTraceCtrl g) ≠ 0 then modEngine m1 g fun e => { e with timebase := none } else m1

/-- LPORT_CTRL: EN, then REKEY. -/
def lportAll (f p v : Nat) (t : Clk) (m : Mod) : Mod :=
  let m1 := lportWrite f p v t m
  if bit v 1 then rekeyAsk p m1 else m1

/-- Registers of the HUB block. -/
def hubWrite (f off v : Nat) (t : Clk) (m : Mod) : Mod :=
  if off = rHubModuleId then idWrite f v m
  else if off = rHubModuleCtrl then moduleWrite v m
  else if off = rHubServiceCfg then serviceCfg f v m
  else if off = 0x78 then (if bits v 0 4 = 1 then stageWrite v m else commitWrite v m)
  else if 0x100 ≤ off ∧ off < 0x200 then
    if off % 16 = 0 then svcWrite (bits v 0 4) ((off - 0x100) / 16) v t m
    else if bit v 0 then modSvc ((off - 0x108) / 16) (fun x => { x with done := false }) m else m
  else storeReg f off v m

/-- Registers of the other blocks of HN. -/
def unitWrite (f off v : Nat) (m : Mod) : Mod :=
  if off < 0x180000 then
    if off % 0x40 = 0x10 then sqWrite f ((off - 0x100000) / 0x40) v m else storeReg f off v m
  else if off < 0x200000 then
    if off % 0x40 = 0x10 then cqWrite f ((off - 0x180000) / 0x40) v m else storeReg f off v m
  else if off < 0x300000 then
    let k := (off - 0x200000) / 0x10000
    if off % 0x10000 = 0x488 then traceWrite f k v m else storeReg f off v m
  else if off = 0x300008 then (if bit v 11 then modPwr m fun p => { p with twarn := false } else m)
  else if off < 0x500000 then storeReg f off v m
  else if off < 0x600000 then
    if off % 0x1000 = 8 then mboxGo ((off - 0x500000) / 0x1000) v m else storeReg f off v m
  else if off % 0x80 = 0x50 then fltClear ((off - 0x600000) / 0x80) v m
  else storeReg f off v m

/-- Registers of the dies. -/
def dieWrite (f off v : Nat) (t : Clk) (m : Mod) : Mod :=
  if off < 0x1800000 then
    let d := (off - 0x800000) / 0x100000
    let o := off % 0x100000
    let g := 16 * d + (o - 0x10000) / 0x1000
    let y := o % 0x1000
    if o = 8 then ecntSnap d v t m
    else if o < 0x10000 then storeReg f off v m
    else if y = 0 then traceCtrlWrite f g v m
    else if 0x100 ≤ y ∧ y < 0x200 then selWrite f g ((y - 0x100) / 8) v m
    else storeReg f off v m
  else if off < 0x1C00000 then
    if off % 0x100 = 0 then lportAll f (lportOf off) v t m else storeReg f off v m
  else if off < 0x2200000 then
    let d := (off - 0x1C00000) / 0x100000
    let o := off % 0x100000
    if 0x1000 ≤ o ∧ o % 0x40 = 0 then streamWrite f d ((o - 0x1000) / 0x40) v t m else storeReg f off v m
  else storeReg f off v m

/-- A write of the power command as a plain register. Whether a trip condition holds at its check, which a POWER_CMD row
says, is free here (log 22). -/
def powerAny (f v : Nat) (c : Clk) (m : Mod) : Clk × Mod :=
  if m.pwr.tripped then powerCmd (bits v 2 2) f v (Config.tripHolds m.draw) c { m with draw := m.draw + 1 }
  else powerCmd (bits v 2 2) f v false c m

/-- An 8-byte write, or a 4-byte one with its other half (`whole` false), by the register it reaches. -/
def wordWrite (f off v : Nat) (whole : Bool) (c : Clk) (m : Mod) : Clk × Mod :=
  if off = rPwrCmd then powerAny f v c m
  else if off = 0x20 then (if bit v 0 then gatedBoth f off moduleReset c m else (c, m))
  else if off = 0x400008 then gatedBoth f off (fun c m => (timeLoad (BitVec.ofNat 64 v) c m, m)) c m
  else if off = rTimeCtrl then gatedBoth f off (timeCtrl f v) c m
  else if off = 0x400018 then
    gatedBoth f off (fun c m => (if bit v 2 ∧ whole then { c with refused := false } else c, m)) c m
  else if 0x200000 ≤ off ∧ off < 0x300000 ∧ off % 0x10000 = 0 then (c, partCtrl f ((off - 0x200000) / 0x10000) v m)
  else if off < 0x100000 then (c, gated f off (hubWrite f off v c) m)
  else if off < 0x800000 then (c, gated f off (unitWrite f off v) m)
  else (c, gated f off (dieWrite f off v c) m)

/-- REGISTER_WRITE. The upper half of a register of 32 bits is an offset that no table assigns (R619). -/
def registerWrite (f off size v : Nat) (c : Clk) (m : Mod) : Clk × Mod :=
  let o := off / 8 * 8
  if ¬ hnUp m ∨ hnBusy m then (c, m)
  else if ¬ vfLive m f then (c, emit (.aerUR f) m)
  else if ¬ barServes off size then (c, barRefuse c f off m)
  else if size = 8 then wordWrite f o v true c m
  else if off % 8 = 4 ∧ ¬ isWide o then (c, m)
  else if ¬ writable m f o then wordWrite f o v false c m
  else if actsWhole o then (c, barRefuse c f off m)
  else wordWrite f o (halfWrite m off v) (!isWide o) c m

/-! ## The row -/

def execRegisterWrite (f : Func) (off size : Nat) (v : W64) (s : State) : Host.Outcome State Fault Refusal :=
  onLink (registerWrite f.val off size v.toNat) s

end Sys2Proof.Machine
end

