-- ==== Sys2Proof/Machine/Dispatch.lean ====
section
/-! DEFINITION. One arm per command. -/

namespace Sys2Proof.Machine

open Host (Outcome)

def exec (i : Instr) (s : State) : Host.Outcome State Fault Refusal :=
  match i with
  | .nop e c w => Sys2Proof.Machine.execNop e c w s
  | .endTask e c w => Sys2Proof.Machine.execEndTask e c w s
  | .add e c w => Sys2Proof.Machine.execAdd e c w s
  | .cmp e c w => Sys2Proof.Machine.execCmp e c w s
  | .sel e c w => Sys2Proof.Machine.execSel e c w s
  | .loop e c w => Sys2Proof.Machine.execLoop e c w s
  | .br e c w => Sys2Proof.Machine.execBr e c w s
  | .setlt e c w => Sys2Proof.Machine.execSetlt e c w s
  | .time e c w => Sys2Proof.Machine.execTime e c w s
  | .move e c w => Sys2Proof.Machine.execMove e c w s
  | .hqPush e c w => Sys2Proof.Machine.execHqPush e c w s
  | .hqPop e c w => Sys2Proof.Machine.execHqPop e c w s
  | .tierOpen e c w => Sys2Proof.Machine.execTierOpen e c w s
  | .tierSeal e c w => Sys2Proof.Machine.execTierSeal e c w s
  | .tierAbandon e c w => Sys2Proof.Machine.execTierAbandon e c w s
  | .tierDone e c w => Sys2Proof.Machine.execTierDone e c w s
  | .tierRelease e c w => Sys2Proof.Machine.execTierRelease e c w s
  | .chainStartInsn e c w => Sys2Proof.Machine.execChainStartInsn e c w s
  | .opxPass e c w => Sys2Proof.Machine.execOpxPass e c w s
  | .opxDrain e c w => Sys2Proof.Machine.execOpxDrain e c w s
  | .dotPass e c w => Sys2Proof.Machine.execDotPass e c w s
  | .dotDrain e c w => Sys2Proof.Machine.execDotDrain e c w s
  | .vld e c w => Sys2Proof.Machine.execVld e c w s
  | .vst e c w => Sys2Proof.Machine.execVst e c w s
  | .varith e c w => Sys2Proof.Machine.execVarith e c w s
  | .vcvt e c w => Sys2Proof.Machine.execVcvt e c w s
  | .vtrans e c w => Sys2Proof.Machine.execVtrans e c w s
  | .vred e c w => Sys2Proof.Machine.execVred e c w s
  | .vact e c w => Sys2Proof.Machine.execVact e c w s
  | .actBwd e c w => Sys2Proof.Machine.execActBwd e c w s
  | .update e c w => Sys2Proof.Machine.execUpdate e c w s
  | .topkHist e c w => Sys2Proof.Machine.execTopkHist e c w s
  | .topkSelect e c w => Sys2Proof.Machine.execTopkSelect e c w s
  | .sign e c w => Sys2Proof.Machine.execSign e c w s
  | .xchDrain e c w => Sys2Proof.Machine.execXchDrain e c w s
  | .xchNorm e c w => Sys2Proof.Machine.execXchNorm e c w s
  | .xchCollect e c w => Sys2Proof.Machine.execXchCollect e c w s
  | .xchMcast e c w => Sys2Proof.Machine.execXchMcast e c w s
  | .dispatch e c w => Sys2Proof.Machine.execDispatch e c w s
  | .combine e c w => Sys2Proof.Machine.execCombine e c w s
  | .xchPhase e c w => Sys2Proof.Machine.execXchPhase e c w s
  | .syncArm e c w => Sys2Proof.Machine.execSyncArm e c w s
  | .syncClear e c w => Sys2Proof.Machine.execSyncClear e c w s
  | .syncSignal e c w => Sys2Proof.Machine.execSyncSignal e c w s
  | .transitDispatch r => Sys2Proof.Machine.execTransitDispatch r s
  | .contextSwitch e => Sys2Proof.Machine.execContextSwitch e s
  | .leaveGrant g => Sys2Proof.Machine.execLeaveGrant g s
  | .stepInject e base => Sys2Proof.Machine.execStepInject e base s
  | .stepRetire e a => Sys2Proof.Machine.execStepRetire e a s
  | .replayStart e base => Sys2Proof.Machine.execReplayStart e base s
  | .passRetire e base => Sys2Proof.Machine.execPassRetire e base s
  | .drainRowSend e a => Sys2Proof.Machine.execDrainRowSend e a s
  | .gangForm e base => Sys2Proof.Machine.execGangForm e base s
  | .descriptorBurstFetch e q => Sys2Proof.Machine.execDescriptorBurstFetch e q s
  | .dmaTransferStart e q => Sys2Proof.Machine.execDmaTransferStart e q s
  | .dmaLineLand e id ecc => Sys2Proof.Machine.execDmaLineLand e id ecc s
  | .dmaTransferComplete e id => Sys2Proof.Machine.execDmaTransferComplete e id s
  | .fetchDeadlineExpiry e id => Sys2Proof.Machine.execFetchDeadlineExpiry e id s
  | .prefetchWaitExpiry e q => Sys2Proof.Machine.execPrefetchWaitExpiry e q s
  | .syncOpArrival d srcs => Sys2Proof.Machine.execSyncOpArrival d srcs s
  | .hqOpArrival d srcs => Sys2Proof.Machine.execHqOpArrival d srcs s
  | .chainStageStep p chain stage => Sys2Proof.Machine.execChainStageStep p chain stage s
  | .waitWatchdogExpiry e c => Sys2Proof.Machine.execWaitWatchdogExpiry e c s
  | .reduceWriteApply r op addr n payload poisoned => Sys2Proof.Machine.execReduceWriteApply r op addr n payload poisoned s
  | .memoryRead r addr len hint ecc => Sys2Proof.Machine.execMemoryRead r addr len hint ecc s
  | .memoryWrite r addr data poisoned ecc => Sys2Proof.Machine.execMemoryWrite r addr data poisoned ecc s
  | .regionOpArrival d ix => Sys2Proof.Machine.execRegionOpArrival d ix s
  | .sqDoorbell f n off size v => Sys2Proof.Machine.execSqDoorbell f n off size v s
  | .cqDoorbell f n off size v => Sys2Proof.Machine.execCqDoorbell f n off size v s
  | .sqEntryFetch n burst fetchError => Sys2Proof.Machine.execSqEntryFetch n burst fetchError s
  | .cqEntryWrite n writeError => Sys2Proof.Machine.execCqEntryWrite n writeError s
  | .cqInterruptDelay n => Sys2Proof.Machine.execCqInterruptDelay n s
  | .nopCommand sq tag => Sys2Proof.Machine.execNopCommand sq tag s
  | .abort sq tag => Sys2Proof.Machine.execAbort sq tag s
  | .xlatInvalidate sq tag => Sys2Proof.Machine.execXlatInvalidate sq tag s
  | .programLoad sq tag => Sys2Proof.Machine.execProgramLoad sq tag s
  | .programStart sq tag => Sys2Proof.Machine.execProgramStart sq tag s
  | .programUnload sq tag => Sys2Proof.Machine.execProgramUnload sq tag s
  | .chainStart sq tag => Sys2Proof.Machine.execChainStart sq tag s
  | .dma sq tag => Sys2Proof.Machine.execDma sq tag s
  | .gatherRun sq tag => Sys2Proof.Machine.execGatherRun sq tag s
  | .gatherRunEnd d => Sys2Proof.Machine.execGatherRunEnd d s
  | .tierRegionOpen sq tag => Sys2Proof.Machine.execTierRegionOpen sq tag s
  | .tierRegionSeal sq tag => Sys2Proof.Machine.execTierRegionSeal sq tag s
  | .tierRegionAbandon sq tag => Sys2Proof.Machine.execTierRegionAbandon sq tag s
  | .tierRegionRelease sq tag => Sys2Proof.Machine.execTierRegionRelease sq tag s
  | .tierRegionReclaim sq tag => Sys2Proof.Machine.execTierRegionReclaim sq tag s
  | .layoutLoad sq tag => Sys2Proof.Machine.execLayoutLoad sq tag s
  | .epochAdvance sq tag => Sys2Proof.Machine.execEpochAdvance sq tag s
  | .phaseLoad sq tag => Sys2Proof.Machine.execPhaseLoad sq tag s
  | .phaseLoadRelease bank => Sys2Proof.Machine.execPhaseLoadRelease bank s
  | .slotDump sq tag => Sys2Proof.Machine.execSlotDump sq tag s
  | .breakCmd sq tag => Sys2Proof.Machine.execBreakCmd sq tag s
  | .bpClear sq tag => Sys2Proof.Machine.execBpClear sq tag s
  | .halt sq tag => Sys2Proof.Machine.execHalt sq tag s
  | .haltComplete e => Sys2Proof.Machine.execHaltComplete e s
  | .resume sq tag => Sys2Proof.Machine.execResume sq tag s
  | .scrub sq tag => Sys2Proof.Machine.execScrub sq tag s
  | .scrubQuiesceEnd p => Sys2Proof.Machine.execScrubQuiesceEnd p s
  | .scrubStreamsEnd p => Sys2Proof.Machine.execScrubStreamsEnd p s
  | .scrubOverwriteEnd p => Sys2Proof.Machine.execScrubOverwriteEnd p s
  | .scrubStreamIdleTimeout d sl => Sys2Proof.Machine.execScrubStreamIdleTimeout d sl s
  | .bar4Read f off len ecc => Sys2Proof.Machine.execBar4Read f off len ecc s
  | .bar4Write f off data ep => Sys2Proof.Machine.execBar4Write f off data ep s
  | .configurationRequest f => Sys2Proof.Machine.execConfigurationRequest f s
  | .registerWrite f off size v => Sys2Proof.Machine.execRegisterWrite f off size v s
  | .moduleEnable f v => Sys2Proof.Machine.execModuleEnable f v s
  | .moduleDisable f => Sys2Proof.Machine.execModuleDisable f s
  | .partEnable f k v => Sys2Proof.Machine.execPartEnable f k v s
  | .sqEnable f n v => Sys2Proof.Machine.execSqEnable f n v s
  | .cqEnable f n v => Sys2Proof.Machine.execCqEnable f n v s
  | .moduleResetWrite f => Sys2Proof.Machine.execModuleResetWrite f s
  | .stage f v => Sys2Proof.Machine.execStage f v s
  | .commit f v => Sys2Proof.Machine.execCommit f v s
  | .fwActivate f slot v => Sys2Proof.Machine.execFwActivate f slot v s
  | .retrain f slot v => Sys2Proof.Machine.execRetrain f slot v s
  | .recal f slot v => Sys2Proof.Machine.execRecal f slot v s
  | .regSet f slot v => Sys2Proof.Machine.execRegSet f slot v s
  | .serviceOperationEnd slot result => Sys2Proof.Machine.execServiceOperationEnd slot result s
  | .serviceCfgWrite f v => Sys2Proof.Machine.execServiceCfgWrite f v s
  | .powerCmdModule f v tripHolds => Sys2Proof.Machine.execPowerCmdModule f v tripHolds s
  | .powerCmdDie f v tripHolds => Sys2Proof.Machine.execPowerCmdDie f v tripHolds s
  | .powerCmdPort f v tripHolds => Sys2Proof.Machine.execPowerCmdPort f v tripHolds s
  | .powerCmdLimits f v tripHolds => Sys2Proof.Machine.execPowerCmdLimits f v tripHolds s
  | .powerWalkStepDone failUnit floorWatts => Sys2Proof.Machine.execPowerWalkStepDone failUnit floorWatts s
  | .powerOn => Sys2Proof.Machine.execPowerOn s
  | .perstAssert => Sys2Proof.Machine.execPerstAssert s
  | .pcieHotReset => Sys2Proof.Machine.execPcieHotReset s
  | .pf0Flr => Sys2Proof.Machine.execPf0Flr s
  | .vfReset k => Sys2Proof.Machine.execVfReset k s
  | .inputMeasurement mV cur watts => Sys2Proof.Machine.execInputMeasurement mV cur watts s
  | .inputUndervoltage mV => Sys2Proof.Machine.execInputUndervoltage mV s
  | .inputOvervoltage mV => Sys2Proof.Machine.execInputOvervoltage mV s
  | .inputOverpower watts => Sys2Proof.Machine.execInputOverpower watts s
  | .dieOvertemperature die sensor t8 => Sys2Proof.Machine.execDieOvertemperature die sensor t8 s
  | .hbmOvertemperature h sensor t8 => Sys2Proof.Machine.execHbmOvertemperature h sensor t8 s
  | .regulatorFault rail mA => Sys2Proof.Machine.execRegulatorFault rail mA s
  | .referenceLoss => Sys2Proof.Machine.execReferenceLoss s
  | .pllUnlock => Sys2Proof.Machine.execPllUnlock s
  | .entropyFailure => Sys2Proof.Machine.execEntropyFailure s
  | .thermalWarn die sensor t8 => Sys2Proof.Machine.execThermalWarn die sensor t8 s
  | .almanacSample die m => Sys2Proof.Machine.execAlmanacSample die m s
  | .emergencySample die m => Sys2Proof.Machine.execEmergencySample die m s
  | .decodeCoreIdle d core => Sys2Proof.Machine.execDecodeCoreIdle d core s
  | .timeLoad f v => Sys2Proof.Machine.execTimeLoad f v s
  | .syncEnable f v => Sys2Proof.Machine.execSyncEnable f v s
  | .syncDisable f v => Sys2Proof.Machine.execSyncDisable f v s
  | .timeMeasurement => Sys2Proof.Machine.execTimeMeasurement s
  | .steeringStep => Sys2Proof.Machine.execSteeringStep s
  | .ppsInEdge valid => Sys2Proof.Machine.execPpsInEdge valid s
  | .ref10mCompare valid offset => Sys2Proof.Machine.execRef10mCompare valid offset s
  | .externalInputLoss => Sys2Proof.Machine.execExternalInputLoss s
  | .ppsOutEdge => Sys2Proof.Machine.execPpsOutEdge s
  | .lportEnable f p v => Sys2Proof.Machine.execLportEnable f p v s
  | .trainingComplete p theirs ours => Sys2Proof.Machine.execTrainingComplete p theirs ours s
  | .portStateTimeout p => Sys2Proof.Machine.execPortStateTimeout p s
  | .hello p module versions => Sys2Proof.Machine.execHello p module versions s
  | .keyx p k => Sys2Proof.Machine.execKeyx p k s
  | .rekey p k => Sys2Proof.Machine.execRekey p k s
  | .rekeyRequest f p => Sys2Proof.Machine.execRekeyRequest f p s
  | .ctlSegment p c => Sys2Proof.Machine.execCtlSegment p c s
  | .ctlSegmentSend p => Sys2Proof.Machine.execCtlSegmentSend p s
  | .segmentReceive p tag body => Sys2Proof.Machine.execSegmentReceive p tag body s
  | .scrubSegment p => Sys2Proof.Machine.execScrubSegment p s
  | .laneLoss p lane => Sys2Proof.Machine.execLaneLoss p lane s
  | .signal p k => Sys2Proof.Machine.execSignal p k s
  | .timeReq p k => Sys2Proof.Machine.execTimeReq p k s
  | .timeResp p k => Sys2Proof.Machine.execTimeResp p k s
  | .timeFollow p k => Sys2Proof.Machine.execTimeFollow p k s
  | .norm p k => Sys2Proof.Machine.execNorm p k s
  | .normResult p k => Sys2Proof.Machine.execNormResult p k s
  | .writeAck p k => Sys2Proof.Machine.execWriteAck p k s
  | .reduce p k => Sys2Proof.Machine.execReduce p k s
  | .report p k => Sys2Proof.Machine.execReport p k s
  | .param p k => Sys2Proof.Machine.execParam p k s
  | .token p k => Sys2Proof.Machine.execToken p k s
  | .tokenRet p k => Sys2Proof.Machine.execTokenRet p k s
  | .tokenDrop p k => Sys2Proof.Machine.execTokenDrop p k s
  | .tokenEnd p k => Sys2Proof.Machine.execTokenEnd p k s
  | .bulk p k => Sys2Proof.Machine.execBulk p k s
  | .epochFutureTimeout ix => Sys2Proof.Machine.execEpochFutureTimeout ix s
  | .ethernetFrame d fr => Sys2Proof.Machine.execEthernetFrame d fr s
  | .neighborSolicitation d target => Sys2Proof.Machine.execNeighborSolicitation d target s
  | .echoRequest d target => Sys2Proof.Machine.execEchoRequest d target s
  | .data d g => Sys2Proof.Machine.execData d g s
  | .offer d g => Sys2Proof.Machine.execOffer d g s
  | .pauseRepeat d sl => Sys2Proof.Machine.execPauseRepeat d sl s
  | .resumeRepeat d sl => Sys2Proof.Machine.execResumeRepeat d sl s
  | .close d g => Sys2Proof.Machine.execClose d g s
  | .closeRepeat d sl => Sys2Proof.Machine.execCloseRepeat d sl s
  | .reorderTimeout d sl => Sys2Proof.Machine.execReorderTimeout d sl s
  | .rateWindowEnd d sl => Sys2Proof.Machine.execRateWindowEnd d sl s
  | .decodePicture d sl p => Sys2Proof.Machine.execDecodePicture d sl p s
  | .samplePlace d sl => Sys2Proof.Machine.execSamplePlace d sl s
  | .sampleDraw p => Sys2Proof.Machine.execSampleDraw p s
  | .streamEnable f d sl v => Sys2Proof.Machine.execStreamEnable f d sl v s
  | .streamDisable f d sl v => Sys2Proof.Machine.execStreamDisable f d sl v s
  | .hold f d sl v => Sys2Proof.Machine.execHold f d sl v s
  | .enrollKey f => Sys2Proof.Machine.execEnrollKey f s
  | .attest f => Sys2Proof.Machine.execAttest f s
  | .bindLoad f => Sys2Proof.Machine.execBindLoad f s
  | .bindExport f => Sys2Proof.Machine.execBindExport f s
  | .debugChallenge f => Sys2Proof.Machine.execDebugChallenge f s
  | .debugUnlock f => Sys2Proof.Machine.execDebugUnlock f s
  | .debugLock f => Sys2Proof.Machine.execDebugLock f s
  | .debugNonceExpiry f => Sys2Proof.Machine.execDebugNonceExpiry f s
  | .debugUnlockExpiry ix => Sys2Proof.Machine.execDebugUnlockExpiry ix s
  | .getVersion req => Sys2Proof.Machine.execGetVersion req s
  | .getCapabilities req => Sys2Proof.Machine.execGetCapabilities req s
  | .negotiateAlgorithms req => Sys2Proof.Machine.execNegotiateAlgorithms req s
  | .getDigests req => Sys2Proof.Machine.execGetDigests req s
  | .getCertificate req => Sys2Proof.Machine.execGetCertificate req s
  | .challenge req => Sys2Proof.Machine.execChallenge req s
  | .getMeasurements req => Sys2Proof.Machine.execGetMeasurements req s
  | .mldsaSignatureRequest req => Sys2Proof.Machine.execMldsaSignatureRequest req s
  | .fltClear f log v => Sys2Proof.Machine.execFltClear f log v s
  | .eccStorm log => Sys2Proof.Machine.execEccStorm log s
  | .traceEnable f k v => Sys2Proof.Machine.execTraceEnable f k v s
  | .traceRecordTransfer d => Sys2Proof.Machine.execTraceRecordTransfer d s
  | .ecntSnap f d v => Sys2Proof.Machine.execEcntSnap f d v s
  | .ecntRead f e c => Sys2Proof.Machine.execEcntRead f e c s
  | .ecntSelWrite f e c v => Sys2Proof.Machine.execEcntSelWrite f e c v s
  | .timeNowLowRead f => Sys2Proof.Machine.execTimeNowLowRead f s
  | .perstDeassert gen width => Sys2Proof.Machine.execPerstDeassert gen width s
  | .segmentSlot p => Sys2Proof.Machine.execSegmentSlot p s
  | .bulkPause p => Sys2Proof.Machine.execBulkPause p s
  | .vectorComplete e id => Sys2Proof.Machine.execVectorComplete e id s
  | .expertRoundReopen e expert => Sys2Proof.Machine.execExpertRoundReopen e expert s
  | .overwriteEnd unit failedLines => Sys2Proof.Machine.execOverwriteEnd unit failedLines s
  | .inputPowerLoss => Sys2Proof.Machine.execInputPowerLoss s
  | .hbmRefreshRateChange h mult4 => Sys2Proof.Machine.execHbmRefreshRateChange h mult4 s

end Sys2Proof.Machine
end

