-- ==== Sys2Proof/Machine/Tick.lean ====
section
/-! DEFINITION. One coincidence edge of sidereal time: what a step does when no command waits
(R247, R249, R250; log 4). -/

namespace Sys2Proof.Machine

/-- The count at one coincidence edge: the load that has reached the time base, with bit 0 cleared,
or the increment of the edge, which is 2 again afterwards (R247, R249, R250). -/
def edge (c : Clk) : Clk :=
  if ¬ c.running then { c with now := c.now + 2 }
  else match c.load with
    | some v => { c with now := c.now + 2, sid := v &&& ~~~1, load := none, loadAcq := false, incr := 2, ppsSent := false, ref10m := none }
    | none => { c with now := c.now + 2, sid := c.sid + BitVec.ofNat 64 c.incr, incr := 2, ppsSent := c.ppsSent && c.incr == 0 }

/-- Every second the coolant's temperatures are measured and reported as sensors, and nothing else follows (R649). -/
def measureCoolant (now : Nat) (m : Mod) : Mod :=
  if now < m.coolAt + 1600000000 then m
  else
    let x := Config.coolant m.draw
    emit (.sensors x.1 x.2) { m with coolIn := x.1, coolOut := x.2, coolAt := now, draw := m.draw + 1 }

/-! ## The counters of cycles (R590) -/

/-- The counter that an offset of BAR0 selects the event of: its engine and number. -/
def selOf (off : Nat) : Option (Nat × Nat) :=
  let o := off % 0x100000
  let y := o % 0x1000
  if 0x800000 ≤ off ∧ off < 0x1800000 ∧ 0x10000 ≤ o ∧ o < 0x20000 ∧ 0x100 ≤ y ∧ y < 0x200 then
    some (16 * ((off - 0x800000) / 0x100000) + (o - 0x10000) / 0x1000, (y - 0x100) / 8)
  else none

/-- Whether a cycle counts under an event code: every one, with no context ready, with a context that waits for leave. -/
def cycleCounts (t : Clk) (m : Mod) (g code : Nat) : Bool :=
  engineRuns m g && match code with
    | 0x01 => true
    | 0x06 => (List.range 4).all fun c => !ctxReady t m g c
    | 0x0D => (List.range 4).any fun c => (ctx m g c).leaveReq.any fun id => !hasGrant m (g / 16) id
    | _ => false

/-- The 3 array cycles between two coincidence edges (R245). -/
def countCycles (t : Clk) (m : Mod) : Mod :=
  m.bar0.foldl (fun x r => match selOf r.1 with
    | some (g, c) =>
      if cycleCounts t m g (bits r.2.toNat 0 5) then modEngine x g fun e => { e with ecnt := smod {} e.ecnt c fun y => ecntAdd y 3 }
      else x
    | none => x) m

/-! ## What the moment itself brings about -/

/-- The engine whose trace control register an offset of BAR0 is. -/
def ctrlOf (off : Nat) : Option Nat := (List.range 256).find? fun g => rTraceCtrl g == off

/-- A COUNTER record of an engine whose class is enabled, at a moment the manual does not fix (R588, R591; log 60). -/
def counterRecord (t : Clk) (g : Nat) (m : Mod) : Mod :=
  if ¬ regB m (rTraceCtrl g) 7 ∨ ¬ engineRuns m g then m else
  let (n, m1) := drawId m
  match Config.counterDue n with
  | none => m1
  | some c =>
    let v := (counterSample t m1 g c.toNat).toNat
    trace t g 0 0x0B (c.toNat + 32 * bits v 63 1 + 64 * bits v 0 48) (some 7) m1

/-- The COUNTER records of an edge. -/
def counterRecords (t : Clk) (m : Mod) : Mod :=
  m.bar0.foldl (fun x r => match ctrlOf r.1 with
    | some g => counterRecord t g x
    | none => x) m

/-- TIMEBASE of every engine that traces, once bits [63:48] of the time have changed (R588). -/
def timebases (t : Clk) (m : Mod) : Mod :=
  let hi := BitVec.ofNat 16 (t.sid.toNat / 2 ^ 48)
  m.eng.foldl (fun x e =>
    if e.2.timebase.isNone ∨ e.2.timebase = some hi ∨ regN m (rTraceCtrl e.1) = 0 then x
    else modEngine (tracePut t x e.1 (traceWord t 0x01 e.1 0 hi.toNat)) e.1 fun y => { y with timebase := some hi }) m

/-- The end of a second is judged for every log that no ECC_STORM row has judged (R580). -/
def storms (t : Clk) (m : Mod) : Mod :=
  if t.now % second ≠ 0 then m else (m.logs.map (·.1)).foldl (fun x l => eccStorm l t x) m

/-- The cores of armed BREAKs at a moment (R594). -/
def coreSteps (t : Clk) (m : Mod) : Mod := m.coreBreaks.foldl (fun x b => coreBreak t b x) m

/-- Nothing of these can happen at an edge. -/
def quietEdge (s : State) : Bool :=
  (s.m.hub.booted || !s.m.hub.input) && s.m.coreBreaks.isEmpty && (s.clk.now % second != 0 || s.m.logs.isEmpty) && s.m.eng.all (fun e => e.2.timebase.isNone)
    && s.m.cmds.all (fun a => (awaitedAbort s.m a).isNone) && s.m.bar0.all fun r => (ctrlOf r.1).isNone

/-- One edge, before which a load that may no longer be applied is dropped. -/
def tick (s : State) : State :=
  let c := edge (settleLoad s.m s.clk)
  let m := grantAborts s.clk (coreSteps s.clk (counterRecords s.clk (storms s.clk (countCycles s.clk (bootEnd s.clk s.m)))))
  { s with clk := c, m := measureCoolant c.now (timebases c m) }

end Sys2Proof.Machine
end

