-- ==== Sys2Proof/Safety.lean ====
section
/-! DEFINITION. What counts as a safe run, the invariants the claims use, and the part of the state
that what follows by itself never touches. -/

namespace Sys2Proof

open Machine

/-- The time base is as R247 to R250 keep it: the count is even, the next edge adds 0, 2 or 4. -/
def clkOk (c : Clk) : Prop := c.sid.toNat % 2 = 0 ∧ (c.incr = 0 ∨ c.incr = 2 ∨ c.incr = 4)

/-- A step that does not stop. -/
def stepsOn (s : State) : Prop := ∃ t, step s = .next t

/-! ## Frames

`settle` ends runs, commands, tasks and programs whose conditions hold, lets waiting signals leave and
writes the fault records this brings. Each projection blanks exactly what that may change. -/

def stillCtx (x : Ctx) : Ctx :=
  { x with st := .empty, accepted := none, leaveReq := none, waitSince := none, flog := none, pop := none }

def stillEng (e : Engine) : Engine :=
  { e with ctx := [], last := none, dq := [], xfers := [], trace := [], traceLost := 0, timebase := none, ecnt := [] }

def stillMod (m : Mod) : Mod :=
  { m with
    eng := [], rings := [], cmds := [], parts := [], syncQ := [], hqQ := [], links := [], logs := [], nextId := 0
    pwr := { m.pwr with govs := [] }
    xch := { m.xch with collects := [] } }

/-- Everything but what settling may change is the same: memory, sync objects, handle queues,
registers, cells and vectors, and of each context its stream, place, counters and comparators. -/
def Undisturbed (m m' : Mod) : Prop :=
  stillMod m' = stillMod m ∧ (∀ g, stillEng (engine m' g) = stillEng (engine m g))
    ∧ ∀ g c, stillCtx (ctx m' g c) = stillCtx (ctx m g c)

/-- The command answers the state in which u has settled, for a u as P says. -/
def Settles (s : State) (r : Host.Outcome State Fault Refusal) (P : Mod → Prop) : Prop :=
  ∃ u, r = .next { s with m := settle s.clk u } ∧ P u

/-- The same for a command after which collects, held copies and held tokens are tried first. -/
def SettlesAll (s : State) (r : Host.Outcome State Fault Refusal) (P : Mod → Prop) : Prop :=
  ∃ u, r = .next { s with m := settleAll s.clk u } ∧ P u

/-- The same for a row of the links: a lock lost with the upstream port leaves the time base in holdover. -/
def Links (s : State) (r : Host.Outcome State Fault Refusal) (P : Mod → Prop) : Prop :=
  ∃ u, r = .next { s with clk := upstreamLost s.m u s.clk, m := settleAll s.clk u } ∧ P u

/-- No collect, no copy and no token is held. -/
def nothingHeld (m : Mod) : Prop :=
  m.xch.collects = [] ∧ (∀ ge ∈ m.eng, ∀ v ∈ ge.2.vops, wOp v.word ≠ 0xC3 ∧ notBegun v = false) ∧ ∀ x ∈ m.exp, x.2.held = [] ∧ x.2.pinHeld = []

/-! ## Issue -/

/-- No BREAK is armed on the head instruction, or the context has gone past it (R594). -/
def noBreak (m : Mod) (g c : Nat) : Prop :=
  (ctx m g c).hitPast = true
    ∨ ∀ b ∈ (engine m g).breaks, ¬ (b.task = taskId g c ∧ b.index = (ctx m g c).pc ∧ b.hit = none)

/-- The word heads a context that may issue: the engine runs, the context is its active one, no Transit of the engine
has come to its launch, no BREAK holds it and its wait is satisfied. -/
def headReady (s : State) (g c op : Nat) (ext : Option Nat) (w : LviWord) : Prop :=
  headIs s.m g c op ext w = true ∧ launchDue s.clk s.m g = false ∧ noBreak s.m g c ∧ waitBad s.m g w = none
    ∧ waitSat s.m g w = true

/-- The leave an instruction needs is granted as it asks for it (R528). -/
def granted (m : Mod) (g c units : Nat) : Prop :=
  (ctx m g c).leaveReq = none ∧ units ≤ freeBudget m (g / 16)
    ∧ nothingAhead (gov m (g / 16)).queue (levelOf m (taskId g c)) = true

/-- The operands of an instruction are readable, nothing it needs is missing, and its leave is granted. -/
def formReady (f : Form) (s : State) (g c : Nat) (w : LviWord) : Prop :=
  let m := pastWait s.clk g c w s.m
  wT w = false ∧ f.chk s.clk m g c w = none ∧ f.miss s.clk m g c w = none
    ∧ (f.leave m g c w = 0 ∨ granted s.m g c (f.leave m g c w))

/-- The stream goes on after the head instruction. -/
def hasNext (m : Mod) (g c : Nat) : Prop :=
  (moveTo (ctx m g c) ((ctx m g c).pc + 1)).pc < (ctx m g c).stream.length

/-- The context has taken `f` and moved to a place of its stream; nothing that `Undisturbed` names has
changed beside it. -/
def Moved (m m' : Mod) (g c : Nat) (f : Ctx → Ctx) (pc : Nat) : Prop :=
  stillMod m' = stillMod m ∧ (∀ h, stillEng (engine m' h) = stillEng (engine m h))
    ∧ (∀ h d, ¬ (h = g ∧ d = c) → stillCtx (ctx m' h d) = stillCtx (ctx m h d))
    ∧ stillCtx (ctx m' g c) = stillCtx (moveTo (f (ctx m g c)) pc)

/-! ## Links -/

/-- The port is DOWN for a reason, its enable cleared, and nothing of its session is left (R394, R406). -/
def wentDown (u : Mod) (p : Nat) (reason : Byte) : Prop :=
  (port u p).st = .down ∧ (port u p).reason = reason ∧ portEn u p = false
    ∧ (port u p).txq = [] ∧ (port u p).unacked = [] ∧ (port u p).rxq = []

/-- A LINK entry with its cause stands last in the log of the port's link die (R575). -/
def linkEntry (m u : Mod) (p cause : Nat) : Prop :=
  let log := logLD (portDie p)
  (flog u log).last.typ = fLink ∧ (flog u log).last.info = BitVec.ofNat 64 cause
    ∧ (flog u log).count = min 0xFFFFFFFF ((flog m log).count + 1)

/-- The packet is the oldest of its VC in the buffers of a port, and of a type. -/
def oldest (m : Mod) (p : Nat) (k : Packet) (typ : Nat) : Prop :=
  k.typ.toNat = typ ∧ (port m p).rxq.find? (fun x => x.vc == k.vc) = some k

/-- The packet taken out of the buffers, its credits due (R403). -/
def takenIn (m : Mod) (p : Nat) (k : Packet) : Mod :=
  modPort m p fun l => creditBack k.vc.val (1 + bodyFlits k) { l with rxq := l.rxq.erase k, stamps := l.stamps.filter fun x => x.1 != k.pseq }

/-! ## The mailbox -/

/-- The request that stands in the block of a function's mailbox. -/
def mailAsk (m : Mod) (f : Nat) : MailReq :=
  { f := f, part := Config.reqPart (mailBlock m f) % 8, block := mailBlock m f }

/-- A request with a code waits at a mailbox that HN's firmware serves, and nothing refuses it (R546, R632). -/
def mailWaits (m : Mod) (f code : Nat) : Prop :=
  (mbox m f).busy = true ∧ hnUp m = true ∧ m.hub.recovery = false ∧ hnBusy m = false
    ∧ Config.reqCode (mailBlock m f) = code

/-! ## Ring commands -/

/-- The command starts at its row: it heads its ring, or its Transit has come to its launch (R491, R258). -/
def cmdReady (s : State) (sq : RingId) (tag : BitVec 16) (op : Nat) (c : Cmd) : Prop :=
  findCmd s.m sq.val tag.toNat = some c ∧ c.op = op ∧ c.fault = none ∧ c.fallback = false
    ∧ ((c.st = .waiting ∧ mayStart s.m c = true)
      ∨ ∃ l r, c.st = .accepted l r ∧ s.clk.running = true ∧ l.toNat ≤ s.clk.sid.toNat)

/-- The command has retired with a status and a reason at a time, and its entry waits last at the CQ (R492). -/
def answered (m m' : Mod) (sq : RingId) (tag : BitVec 16) (status : Nat) (reason : Byte) (time : W64) : Prop :=
  (ring m' sq.val).waiting = (ring m sq.val).waiting ++ [cmdEntry true tag.toNat status reason 0 time]
    ∧ ∃ c, findCmd m' sq.val tag.toNat = some c ∧ c.st = .retired

end Sys2Proof
end

