-- ==== Sys2Proof/WellFormed.lean ====
section
/-! DEFINITION. Well-formed commands: an LVI row carries a word of its own opcode that passes the
static check of R290; a register row's access has a size of 4 or 8 bytes. -/

namespace Sys2Proof

/-- A word of the given opcode, and EXT where the row fixes it, that passes the check. -/
def wordOk (op : Nat) (ext : Option Nat) (w : LviWord) : Bool :=
  Machine.wOp w == op && (ext.isNone || ext == some (Machine.wExt w)) && (Machine.wordErr w).isNone

def Instr.wellFormed : Instr → Bool
  | .nop _ _ w => wordOk 0x00 none w
  | .endTask _ _ w => wordOk 0x01 none w
  | .add _ _ w => wordOk 0x02 none w
  | .cmp _ _ w => wordOk 0x03 none w
  | .sel _ _ w => wordOk 0x04 none w
  | .loop _ _ w => wordOk 0x05 none w
  | .br _ _ w => wordOk 0x06 none w
  | .setlt _ _ w => wordOk 0x07 none w
  | .time _ _ w => wordOk 0x08 none w
  | .move _ _ w => wordOk 0x20 none w
  | .hqPush _ _ w => wordOk 0x21 none w
  | .hqPop _ _ w => wordOk 0x22 none w
  | .tierOpen _ _ w => wordOk 0x23 (some 0) w
  | .tierSeal _ _ w => wordOk 0x23 (some 1) w
  | .tierAbandon _ _ w => wordOk 0x23 (some 2) w
  | .tierDone _ _ w => wordOk 0x23 (some 3) w
  | .tierRelease _ _ w => wordOk 0x23 (some 4) w
  | .chainStartInsn _ _ w => wordOk 0x24 none w
  | .opxPass _ _ w => wordOk 0x40 none w
  | .opxDrain _ _ w => wordOk 0x41 none w
  | .dotPass _ _ w => wordOk 0x60 none w
  | .dotDrain _ _ w => wordOk 0x61 none w
  | .vld _ _ w => wordOk 0x80 none w
  | .vst _ _ w => wordOk 0x81 none w
  | .varith _ _ w => wordOk 0x82 none w
  | .vcvt _ _ w => wordOk 0x83 none w
  | .vtrans _ _ w => wordOk 0x84 none w
  | .vred _ _ w => wordOk 0x85 none w
  | .vact _ _ w => wordOk 0x86 none w
  | .actBwd _ _ w => wordOk 0x87 none w
  | .update _ _ w => wordOk 0x88 none w
  | .topkHist _ _ w => wordOk 0x89 none w
  | .topkSelect _ _ w => wordOk 0x8A none w
  | .sign _ _ w => wordOk 0x8B none w
  | .xchDrain _ _ w => wordOk 0xC0 none w
  | .xchNorm _ _ w => wordOk 0xC1 none w
  | .xchCollect _ _ w => wordOk 0xC2 none w
  | .xchMcast _ _ w => wordOk 0xC3 none w
  | .dispatch _ _ w => wordOk 0xC4 (some 0) w
  | .combine _ _ w => wordOk 0xC4 (some 1) w
  | .xchPhase _ _ w => wordOk 0xC5 none w
  | .syncArm _ _ w => wordOk 0xE0 none w
  | .syncClear _ _ w => wordOk 0xE1 none w
  | .syncSignal _ _ w => wordOk 0xE2 none w
  | .registerWrite _ off size _ => (size == 4 || size == 8) && off % size == 0
  | _ => true

end Sys2Proof
end

