-- ==== Sys2Proof/Certificates/Slice0/Obligations.lean ====
section
/-! DEFINITION. The statements about the module, family by family: what a step does, what each command
does where it completes, and what it leaves as it was. -/

open Sys2Proof Sys2Proof.Machine

/-! ## The machine -/

/-- A step takes the command at the front of the queue and runs it with the rest of the queue. -/
def Obligations.StepRunsFront : Prop :=
  ∀ (c : Instr) (rest : List Instr) (s : State), s.pending = c :: rest →
    step s = exec c { s with pending := rest }

/-- With no command waiting, one coincidence edge passes (log 4 says that an idle step is one edge): the count
takes the load, or the increment of the edge. A load is dropped where a Transit is pending by then, or, for a
TIME_LOAD, SYNC_EN is set. The counters of cycles count the edge's 3 array cycles, and every second of the fabric
clock the temperatures of the coolant are measured and reported; nothing else changes where no BREAK of a core is armed, no
engine traces and no second with logged errors ends. -/
def Obligations.IdleStepIsOneEdge : Prop :=
  ∀ s : State, s.pending = [] → ∃ t, step s = .next t ∧ t.pending = []
    ∧ t.clk.now = s.clk.now + 2
    ∧ (s.clk.running = false → t.clk.sid = s.clk.sid)
    ∧ (s.clk.running = true → ∀ v, s.clk.load = some v → transitPending s.m = false → (s.clk.loadAcq = true ∨ syncEn s.m = false) →
        t.clk.sid = v &&& ~~~1 ∧ t.clk.load = none ∧ t.clk.incr = 2)
    ∧ (s.clk.running = true → (s.clk.load = none ∨ transitPending s.m = true ∨ (s.clk.loadAcq = false ∧ syncEn s.m = true)) →
        t.clk.sid = s.clk.sid + BitVec.ofNat 64 s.clk.incr ∧ t.clk.load = none ∧ t.clk.incr = 2)
    ∧ (quietEdge s = true → (∀ r ∈ s.m.bar0, selOf r.1 = none) → s.clk.now + 2 < s.m.coolAt + 1600000000 → t.m = s.m)
    ∧ (quietEdge s = true → s.m.coolAt + 1600000000 ≤ s.clk.now + 2 →
        (t.m.coolIn, t.m.coolOut) = Config.coolant s.m.draw ∧ t.m.coolAt = s.clk.now + 2
          ∧ t.m.out = s.m.out ++ [.sensors t.m.coolIn t.m.coolOut])
    ∧ (quietEdge s = true → ∀ off v g c, s.m.bar0 = [(off, v)] → selOf off = some (g, c) →
        sget {} (engine t.m g).ecnt c = (if cycleCounts s.clk s.m g (bits v.toNat 0 5) then ecntAdd (sget {} (engine s.m g).ecnt c) 3
          else sget {} (engine s.m g).ecnt c))

/-- No command stops the module: each answers a next state, and none touches the queue. -/
def Obligations.EveryCommandAnswers : Prop :=
  ∀ (i : Instr) (s : State), ∃ t, exec i s = .next t ∧ t.pending = s.pending

/-- Every step keeps the time base: the count stays even, the next increment is 0, 2 or 4. -/
def Obligations.TimeBaseKept : Prop :=
  ∀ s t : State, clkOk s.clk → step s = .next t → clkOk t.clk

/-- At reset sidereal time does not run and its count is 0, no command waits, and memory is canonical. -/
def Obligations.TimeBaseAtReset : Prop :=
  clkOk State.reset.clk ∧ State.reset.clk.running = false ∧ State.reset.clk.sid = 0 ∧ State.reset.pending = []
    ∧ memWf State.reset.m.mem = true

/-! ## The sequencer -/

/-- The scalar results. ADD is the sum modulo 2^32 of a counter and a counter or the immediate; CMP puts the
relation of EXT's low bits into one comparator; SEL chooses between the two sources of its EXT by a
comparator; SETLT and TIME set the launch time of the context and read the count into a counter pair. -/
def Obligations.ScalarResults : Prop :=
  (∀ (e : Eng) (c : CtxId) (w : LviWord) (s : State), headReady s e c 0x02 none w → wT w = false →
    ∃ t, exec (.add e c w) s = .next t ∧ t.clk = s.clk
      ∧ Moved s.m t.m e c (fun x => setCounter x (wf w 60 4)
          (counter x (wf w 56 4) + if wExt w = 0 then counter x (wf w 52 4) else imm w)) ((ctx s.m e c).pc + 1))
  ∧ (∀ (e : Eng) (c : CtxId) (w : LviWord) (s : State), headReady s e c 0x03 none w → wT w = false →
    ∃ t, exec (.cmp e c w) s = .next t ∧ t.clk = s.clk
      ∧ Moved s.m t.m e c (fun x =>
          let b := relation (wExt w % 8) (counter x (wf w 56 4)) (if wExt w < 8 then counter x (wf w 52 4) else imm w)
          { x with pred := setPred x.pred (wf w 61 3) b }) ((ctx s.m e c).pc + 1))
  ∧ (∀ (e : Eng) (c : CtxId) (w : LviWord) (s : State), headReady s e c 0x04 none w → wT w = false →
    ∃ t, exec (.sel e c w) s = .next t ∧ t.clk = s.clk
      ∧ Moved s.m t.m e c (fun x =>
          let p := bit x.pred.toNat (wf w 57 3)
          let cx := counter x (wf w 52 4)
          let cy := counter x (wf w 48 4)
          setCounter x (wf w 60 4) (match wExt w with
            | 0 => if p then cx else cy
            | 1 => if p then imm w else cy
            | 2 => if p then cx else imm w
            | _ => imm w)) ((ctx s.m e c).pc + 1))
  ∧ (∀ (e : Eng) (c : CtxId) (w : LviWord) (s : State), wT w = false →
    (headReady s e c 0x07 none w → ∃ t, exec (.setlt e c w) s = .next t ∧ t.clk = s.clk
      ∧ Moved s.m t.m e c (fun x => { x with lt := match wExt w with
          | 0 => (counter x (wf w 56 4 + 1) ++ counter x (wf w 56 4) : BitVec 64)
          | 1 => x.lt + (imm w).signExtend 64
          | _ => s.clk.sid + (imm w).zeroExtend 64 }) ((ctx s.m e c).pc + 1))
    ∧ (headReady s e c 0x08 none w → ∃ t, exec (.time e c w) s = .next t ∧ t.clk = s.clk
      ∧ Moved s.m t.m e c (fun x => setCounter (setCounter x (wf w 60 4) (BitVec.ofNat 32 s.clk.sid.toNat))
          (wf w 60 4 + 1) (BitVec.ofNat 32 (s.clk.sid.toNat / 2 ^ 32))) ((ctx s.m e c).pc + 1)))

/-- Where the context goes. A LOOP of count 0 skips its body; any other opens its loop, whose end takes
another turn while more than one is left. A BR goes to its signed offset when its condition holds. After
END the context issues nothing more. -/
def Obligations.FlowResults : Prop :=
  (∀ (e : Eng) (c : CtxId) (w : LviWord) (s : State), wT w = false →
    let x := ctx s.m e c
    let n := if wExt w = 0 then imm w else counter x (wf w 52 4)
    (headReady s e c 0x00 none w →
      ∃ t, exec (.nop e c w) s = .next t ∧ t.clk = s.clk ∧ Moved s.m t.m e c id (x.pc + 1))
    ∧ (headReady s e c 0x05 none w → n = 0 →
      ∃ t, exec (.loop e c w) s = .next t ∧ t.clk = s.clk ∧ Moved s.m t.m e c id (x.pc + 1 + wf w 32 20))
    ∧ (headReady s e c 0x05 none w → n ≠ 0 →
      ∃ t, exec (.loop e c w) s = .next t ∧ t.clk = s.clk ∧ Moved s.m t.m e c (fun x => { x with
        lcnt := sset 0 x.lcnt (wf w 62 2) n
        loops := { n := wf w 62 2, start := x.pc + 1, stop := x.pc + 1 + wf w 32 20 } :: x.loops }) (x.pc + 1))
    ∧ (headReady s e c 0x06 none w →
      let p := bit x.pred.toNat (wf w 61 3)
      let taken := match wExt w with
        | 0 => p
        | 1 => !p
        | _ => true
      ∃ t, exec (.br e c w) s = .next t ∧ t.clk = s.clk
        ∧ Moved s.m t.m e c id (if taken then ((x.pc : Int) + (imm w).toInt).toNat else x.pc + 1)))
  ∧ ((∀ (l : Sparse W32) (f : LoopFrame) (r : List LoopFrame), 1 < (sget 0 l f.n).toNat →
    loopEnd l (f :: r) f.stop = (sset 0 l f.n (sget 0 l f.n - 1), f :: r, f.start))
  ∧ (∀ (l : Sparse W32) (f : LoopFrame) (r : List LoopFrame), (sget 0 l f.n).toNat ≤ 1 →
    loopEnd l (f :: r) f.stop = loopEnd (sset 0 l f.n 0) r f.stop)
  ∧ (∀ (l : Sparse W32) (f : LoopFrame) (r : List LoopFrame) (pc : Nat), pc ≠ f.stop → loopEnd l (f :: r) pc = (l, f :: r, pc)))
  ∧ (∀ (e : Eng) (c : CtxId) (w : LviWord) (s : State), headReady s e c 0x01 none w → wT w = false →
    ∃ t, exec (.endTask e c w) s = .next t ∧ t.clk = s.clk ∧ Undisturbed s.m t.m
      ∧ ((ctx t.m e c).st = .ended ∨ (ctx t.m e c).st = .finished ∨ (ctx t.m e c).st = .faulted))

/-! ## Sync -/

/-- SYNC.ARM, SYNC.CLEAR and SYNC.SIGNAL send one operation to the object, and the context goes on; an ARM or
a CLEAR that reaches its object sets its target or its value. -/
def Obligations.SyncOpsSent : Prop :=
  (∀ (e : Eng) (c : CtxId) (w : LviWord) (s : State), wT w = false → hasNext s.m e c →
    let task := 4 * e.val + c.val
    let sent := fun (u : Mod) (obj : Nat) (k : SyncKind) => ∃ o ∈ syncQueue u (e / 16),
      o.src = task ∧ o.obj = obj ∧ o.kind = k
    (headReady s e c 0xE0 none w → Settles s (exec (.syncArm e c w) s) fun u =>
      Moved s.m u e c id ((ctx s.m e c).pc + 1) ∧ sent u (wf w 50 14) (.arm (if wExt w ≥ 2 then counter (ctx s.m e c) (wf w 46 4) else imm w) (wExt w % 2 == 1)))
    ∧ (headReady s e c 0xE1 none w → Settles s (exec (.syncClear e c w) s) fun u =>
      Moved s.m u e c id ((ctx s.m e c).pc + 1) ∧ sent u (wf w 50 14) .clear)
    ∧ (headReady s e c 0xE2 none w → Settles s (exec (.syncSignal e c w) s) fun u =>
      Moved s.m u e c id ((ctx s.m e c).pc + 1)
      ∧ (wSmode w = 1 → sent u (wS w) (.sig 1))
      ∧ (wSmode w = 2 → sent u (wS w) (.sig (if wExt w = 1 then counter (ctx s.m e c) (wf w 46 4) else imm w)))
      ∧ (wSmode w = 3 → ∀ p sl, (partSt s.m (ctx s.m e c).part).prog = some p → p.slots[wS w]? = some sl →
          ∃ o ∈ syncQueue u (if sl.pod.toNat / 2 ^ 18 = moduleNum s.m then sl.pod.toNat / 2 ^ 14 % 16 else remoteQ),
            o.src = 8192 + task ∧ o.kind = .sig (BitVec.ofNat 32 sl.count)
            ∧ o.obj = if sl.pod.toNat / 2 ^ 18 = moduleNum s.m then sl.pod.toNat % 2 ^ 14 else sl.pod.toNat)))
  ∧ (∀ (d : Die) (src : Nat) (o : SyncOp) (s : State),
    firstReady s.m d (syncQueue s.m d) src = some o → dieState s.m d ≤ 1 → (syncObj s.m d o.obj).bad = none →
    let x := syncObj s.m d o.obj
    (∀ target reset, o.kind = .arm target reset → Settles s (exec (.syncOpArrival d [src]) s) fun u =>
      syncObj u d o.obj = { x with target := target, value := if reset then 0 else x.value })
    ∧ (o.kind = .clear → Settles s (exec (.syncOpArrival d [src]) s) fun u =>
      syncObj u d o.obj = { x with value := 0 }))

/-- A signal that reaches its object: a flag is set, a counter adds and stays at its top, where the sync
file logs SYNC_SAT; the signalling task goes on. -/
def Obligations.SignalArrives : Prop :=
  ∀ (d : Die) (src : Nat) (o : SyncOp) (n : W32) (s : State),
    firstReady s.m d (syncQueue s.m d) src = some o → o.kind = .sig n → src < 8192 → o.src = src →
    dieState s.m d ≤ 1 → (syncObj s.m d o.obj).bad = none →
    let x := syncObj s.m d o.obj
    Settles s (exec (.syncOpArrival d [src]) s) fun u =>
      (x.counter = false → (syncObj u d o.obj).value = if n = 0 then x.value else 1)
      ∧ (x.counter = true → (syncObj u d o.obj).value = BitVec.ofNat 32 (min 0xFFFFFFFF (x.value.toNat + n.toNat)))
      ∧ (x.counter = true → 0xFFFFFFFF < x.value.toNat + n.toNat →
          (flog u (logCD d)).last.typ = fSyncSat ∧ (flog u (logCD d)).last.addr = BitVec.ofNat 64 (podAddr s.m d o.obj)
          ∧ (flog u (logCD d)).count = min 0xFFFFFFFF ((flog s.m (logCD d)).count + 1))
      ∧ (syncObj u d o.obj).target = x.target
      ∧ (∀ j, j ≠ syncKey d o.obj → sget {} u.sync j = sget {} s.m.sync j)
      ∧ ∀ g c, (ctx u g c).st = (ctx s.m g c).st

/-! ## Contexts and leave -/

/-- CONTEXT_SWITCH: an active context that has missed, ended or faulted gives way to the next ready one. LEAVE_GRANT: the
oldest request of the highest level is granted once it fits the free budget. WAIT_WATCHDOG_EXPIRY: a wait
longer than the watchdog's time faults its task, and its partner where they wait for each other; the
compute die logs which. -/
def Obligations.IssueControl : Prop :=
  ((∀ (e : Eng) (k : Nat) (s : State), engineRuns s.m e = true → (engine s.m e).halt = .running →
    goesOn s.m e = false → nextReady s.clk s.m e (engine s.m e).active = some k →
    SettlesAll s (exec (.contextSwitch e) s) fun u =>
      (engine u e).active = k ∧ (engine u e).sel = true ∧ ∀ c, ctx u e c = ctx s.m e c)
  ∧ (∀ (g : Fin 22) (r : LeaveReq) (s : State), headOf (gov s.m g).queue = some r → r.units ≤ freeBudget s.m g →
    SettlesAll s (exec (.leaveGrant g) s) fun u =>
      sget 0 (gov u g).grants r.id = r.units ∧ (∀ x ∈ (gov u g).queue, x.id ≠ r.id)
      ∧ ∀ h, h ≠ g → gov u h = gov s.m h))
  ∧ (∀ (e : Eng) (c : CtxId) (since obj : Nat) (s : State), (ctx s.m e c).waitSince = some since →
    taskWait s.m (4 * e.val + c.val) = some obj → (engine s.m e).halt = .running → since + wdogTicks s.m e ≤ s.clk.now →
    SettlesAll s (exec (.waitWatchdogExpiry e c) s) fun u =>
      (ctx u e c).st = .faulted
      ∧ (∀ b o, partner s.m (4 * e.val + c.val) obj = some (b, o) → (ctx u (b / 4) (b % 4)).st = .faulted)
      ∧ (flog u (logCD (e / 16))).count = min 0xFFFFFFFF ((flog s.m (logCD (e / 16))).count + 1)
      ∧ (flog u (logCD (e / 16))).last.task = some (4 * e.val + c.val)
      ∧ (flog u (logCD (e / 16))).last.typ
          = (if (partner s.m (4 * e.val + c.val) obj).isSome then fWaitCycle else fWaitTimeout)
      ∧ (flog u (logCD (e / 16))).last.time = s.clk.sid)

/-! ## Streams, handle queues, CHAINs, regions -/

/-- MOVE puts its run at the end of its queue, with its place in the descriptor table, its offsets and
its count. -/
def Obligations.MoveIssues : Prop :=
  ∀ (e : Eng) (c : CtxId) (w : LviWord) (s : State), headReady s e c 0x20 none w → wT w = false → hasNext s.m e c →
    (dmaq (engine s.m e) (wf w 13 3)).runs.length < 256 →
    let off := fun (i : Nat) => if i < 16 then counter (ctx s.m e c) i else 0
    Settles s (exec (.move e c w) s) fun u =>
      Moved s.m u e c id ((ctx s.m e c).pc + 1)
      ∧ ∃ r, (dmaq (engine u e) (wf w 13 3)).runs = (dmaq (engine s.m e) (wf w 13 3)).runs ++ [r]
        ∧ r.task = some (4 * e.val + c.val) ∧ r.section_ = some (wf w 48 16) ∧ r.next = wf w 32 16 ∧ r.left = wf w 16 16
        ∧ r.soff = off (wf w 5 5) ∧ r.doff = off (wf w 0 5) ∧ r.prefetch = wb w 10

/-- HQ.PUSH sends the handle of its counters to a queue of its partition, and HQ.POP sends its pop to the port of its die
and waits for it. -/
def Obligations.HandleInstructions : Prop :=
  ∀ (e : Eng) (c : CtxId) (w : LviWord) (s : State), wT w = false →
    let x := ctx s.m e c
    let d := 4 * wf w 62 2
    (∀ die, headReady s e c 0x21 none w → hasNext s.m e c → (partDies s.m x.part)[wf w 52 4]? = some die →
      Settles s (exec (.hqPush e c w) s) fun u => Moved s.m u e c id (x.pc + 1)
        ∧ ∃ o ∈ hqQueue u die, o.queue = 512 * die + wf w 32 9 ∧ o.src = 4 * e.val + c.val
          ∧ o.push = some (readHandle (counter x d) (counter x (d + 1)) (counter x (d + 2)) (counter x (d + 3))))
    ∧ (headReady s e c 0x22 none w → Settles s (exec (.hqPop e c w) s) fun u =>
        ∃ o, hqQueue u (e / 16) = hqQueue s.m (e / 16) ++ [o] ∧ o.queue = 512 * (e / 16) + wf w 32 9 ∧ o.src = 4 * e.val + c.val
          ∧ o.push = none ∧ o.word = some w ∧ (ctx u e c).pop = some (o.id, false) ∧ (ctx u e c).pc = x.pc)

/-- An operation that reaches a handle queue: a push of the queue's partition goes to its end while it
has room, faults its task with 0x86 where an HQ.PUSH finds it full, and is held otherwise. A descriptor's pop takes
the head; that of an HQ.POP, of a queue that is no side of a CHAIN stage of its task, takes the first handle, past the SKIP
handles under SKIPSUB, into its counters and comparators, and misses at an empty queue. ECC finds no uncorrectable word in
the handle. -/
def Obligations.QueueArrivals : Prop :=
  ∀ (d : Die) (src : Nat) (o : HqOp) (s : State), firstHq s.m d src = some o →
    let q := hqAt s.m o.queue
    let part := if o.src < 1024 then (ctx s.m (o.src / 4) (o.src % 4)).part else (dieOwner s.m (srcEngine o.src / 16)).getD 8
    (∀ h, o.push = some h → q.alloc = true → q.part = part →
      (q.items.length < 64 → Settles s (exec (.hqOpArrival d [src]) s) fun u =>
        (hqAt u o.queue).items = q.items ++ [h] ∧ ∀ p ∈ hqQueue u d, p.id ≠ o.id)
      ∧ (64 ≤ q.items.length → o.holds = false → o.src < 1024 → (ctx s.m (o.src / 4) (o.src % 4)).st ≠ .empty →
        Settles s (exec (.hqOpArrival d [src]) s) fun u => (hqAt u o.queue).items = q.items
          ∧ (ctx u (o.src / 4) (o.src % 4)).st = .faulted ∧ (flog u (o.src / 4)).last.reason = 0x86
          ∧ (flog u (o.src / 4)).last.typ = fTask)
      ∧ (64 ≤ q.items.length → o.holds = true → Settles s (exec (.hqOpArrival d [src]) s) fun u => u = s.m))
    ∧ (o.push = none → Config.handleEcc s.m.draw = .clean →
      (∀ h rest, o.desc.isSome = true → q.items = h :: rest → h.skip = false → h.bad = none →
        Settles s (exec (.hqOpArrival d [src]) s) fun u => (hqAt u o.queue).items = rest ∧ ∀ p ∈ hqQueue u d, p.id ≠ o.id)
      ∧ (∀ w, o.desc = none → o.word = some w → o.queue = popKey (o.src / 4) w → (ctx s.m (o.src / 4) (o.src % 4)).pop = some (o.id, false) →
        taskSide s.m (ctx s.m (o.src / 4) (o.src % 4)).part o.src o.queue = none →
        let x := ctx s.m (o.src / 4) (o.src % 4)
        let e := 4 * wf w 62 2
        (∀ skips h rest, q.items = skips ++ h :: rest → h.bad = none →
          (wExt w = 1 → (∀ k ∈ skips, k.skip = true ∧ k.bad = none) ∧ h.skip = false) → (wExt w ≠ 1 → skips = []) →
          Settles s (exec (.hqOpArrival d [src]) s) fun u =>
            let y := ctx u (o.src / 4) (o.src % 4)
            (hqAt u o.queue).items = rest
            ∧ counter y e = BitVec.ofNat 32 h.addr.toNat ∧ counter y (e + 1) = BitVec.ofNat 32 (h.addr.toNat / 2 ^ 32)
            ∧ counter y (e + 2) = h.len ∧ counter y (e + 3) = handleTail h
            ∧ bit y.pred.toNat (2 * wf w 60 2) = h.fin ∧ bit y.pred.toNat (2 * wf w 60 2 + 1) = h.skip
            ∧ y.skip = (if wExt w = 1 then satAdd 0xFFFF x.skip skips.length else x.skip) ∧ y.pop = none)
        ∧ (q.items = [] → Settles s (exec (.hqOpArrival d [src]) s) fun u =>
            (ctx u (o.src / 4) (o.src % 4)).st = .missed .emptyQueue ∧ (ctx u (o.src / 4) (o.src % 4)).pc = x.pc
            ∧ (ctx u (o.src / 4) (o.src % 4)).pop = none)))

/-- CHAIN.START starts a CHAIN of the program that does not run. A DMA stage that has both its buffers takes
them, and puts its template with their addresses into its queue; a TASK stage takes the buffer that its task pops
(readings of log 37). ECC finds no uncorrectable word in a handle. -/
def Obligations.ChainsRun : Prop :=
  (∀ (e : Eng) (c : CtxId) (w : LviWord) (r : ChainRec) (s : State), headReady s e c 0x24 none w → wT w = false →
    chainRec s.m (ctx s.m e c).part (wf w 0 16) = some r → chainRunning s.m (ctx s.m e c).part (wf w 0 16) = false →
    Settles s (exec (.chainStartInsn e c w) s) fun u => chainRunning u (ctx s.m e c).part (wf w 0 16) = true
      ∧ (ctx u e c).pc = (moveTo (ctx s.m e c) ((ctx s.m e c).pc + 1)).pc)
  ∧ (∀ (p : Part) (n i inKey outKey : Nat) (r : ChainRt) (c : ChainRec) (g : StageRec) (st : StageSt) (hi ho : Handle)
      (ri ro : List Handle) (s : State),
    chainRt s.m p n = some r → chainRec s.m p n = some c → c.stages[i]? = some g → r.stages[i]? = some st →
    g.kind = 0 → st.busy = false → st.stopped = false → r.stopped = false → 0 < i → i + 1 < c.stages.length →
    c.full[i - 1]? = some inKey → c.free[i]? = some outKey → inKey ≠ 65536 → outKey ≠ 65536 → inKey ≠ outKey →
    (hqAt s.m inKey).items = hi :: ri → (hqAt s.m outKey).items = ho :: ro → hi.bad = none → ho.bad = none →
    Config.handleEcc s.m.draw = .clean → Config.handleEcc (s.m.draw + 1) = .clean →
    Settles s (exec (.chainStageStep p n i) s) fun u =>
      (hqAt u inKey).items = ri ∧ (hqAt u outKey).items = ro
      ∧ ((chainRt u p n).bind fun x => x.stages[i]?)
          = some { inp := some hi, out := some ho, busy := true, fin := hi.fin, stopped := false }
      ∧ ∃ d, (dmaq (engine u g.place) 8).fetched = (dmaq (engine s.m g.place) 8).fetched ++ [d]
          ∧ fld d.bytes 8 8 = hi.addr.toNat ∧ fld d.bytes 16 8 = ho.addr.toNat ∧ d.popped = some hi)
  ∧ (∀ (d : Die) (o : HqOp) (w : LviWord) (n i : Nat) (inp : Bool) (st : StageSt) (h : Handle) (rest : List Handle) (s : State),
    firstHq s.m d o.src = some o → o.push = none → o.desc = none → o.word = some w → wExt w ≠ 1 →
    let g := o.src / 4
    let c := o.src % 4
    let key := popKey g w
    let k := (ctx s.m g c).part
    o.queue = key → (ctx s.m g c).pop = some (o.id, false) → hasNext s.m g c →
    taskSide s.m k o.src key = some (n, i, inp) → stageAt s.m k n i = some (st, false) →
    (if inp then st.inp = none ∧ st.fin = false else st.out = none) → (hqAt s.m key).items = h :: rest → h.bad = none →
    Config.handleEcc s.m.draw = .clean →
    Settles s (exec (.hqOpArrival d [o.src]) s) fun u => (hqAt u key).items = rest
      ∧ stageAt u k n i = some (if inp then { st with inp := some h, busy := true, fin := h.fin } else { st with out := some h, busy := true }, false))

/-- TIER.OPEN asks the die of its base for a region; SEAL, ABANDON, DONE and RELEASE ask the die of the region
their counter names. The TIER_REGION commands ask it as the partition's driver. -/
def Obligations.TierInstructions : Prop :=
  (∀ (e : Eng) (c : CtxId) (w : LviWord) (s : State), wT w = false → hasNext s.m e c →
    let x := ctx s.m e c
    let v := (counter x (wf w 60 4)).toNat
    let asks := fun (ext : Nat) (i : Instr) (td : Nat) (op : RegOp) (entry : Nat) => headReady s e c 0x23 (some ext) w →
      Settles s (exec i s) fun u => Moved s.m u e c id (x.pc + 1)
        ∧ ∃ q ∈ sget [] u.regQ td, q.op = op ∧ q.who = .task (4 * e.val + c.val) ∧ q.part = x.part ∧ q.entry = entry
    (∀ l td off, xlate s.m x.part (counterPair x (wf w 56 4)).toNat true = .ok l → place l.phys = .tier td off →
      asks 0 (.tierOpen e c w) td (.opn off (counter x (wf w 52 4)).toNat) 0)
    ∧ asks 1 (.tierSeal e c w) (bits v 13 2) (.seal (wf w 0 16)) (bits v 0 13)
    ∧ asks 2 (.tierAbandon e c w) (bits v 13 2) .abandon (bits v 0 13)
    ∧ asks 3 (.tierDone e c w) (bits v 13 2) .done (bits v 0 13)
    ∧ asks 4 (.tierRelease e c w) (bits v 13 2) .release (bits v 0 13))
  ∧ (∀ (sq : RingId) (tag : BitVec 16) (c : Cmd) (k : Nat) (s : State), cmdReady s sq tag 0x22 c → c.part = some k →
    let sends := fun (i : Instr) (td : Nat) (op : RegOp) (entry : Nat) => SettlesAll s (exec i s) fun u =>
      ∃ q, sget [] u.regQ td = sget [] s.m.regQ td ++ [q] ∧ q.op = op ∧ q.who = .driver k ∧ q.part = k ∧ q.entry = entry
        ∧ q.cmd = some (sq.val, tag.toNat)
    let td := carg c 0x11 1
    let entry := carg c 0x12 2
    (∀ x d off, carg c 0x10 1 = 0 → xlate s.m k (carg c 0x18 8) true = .ok x → place x.phys = .tier d off →
      sends (.tierRegionOpen sq tag) d (.opn off (carg c 0x20 4)) 0)
    ∧ (carg c 0x10 1 = 1 → sends (.tierRegionSeal sq tag) td (.seal (carg c 0x24 2)) entry)
    ∧ (carg c 0x10 1 = 2 → sends (.tierRegionAbandon sq tag) td .abandon entry)
    ∧ (carg c 0x10 1 = 3 → sends (.tierRegionRelease sq tag) td .release entry)
    ∧ (carg c 0x10 1 = 4 → sends (.tierRegionReclaim sq tag) td .reclaim entry))

/-- REGION_OP_ARRIVAL: an operation whose earlier accesses are over reaches its region controller and changes its
entry as the table of the operations says: OPEN fills the lowest free entry (log 20), SEAL of its owner seals it with
its count, ABANDON and RECLAIM free it (RECLAIM leaves a FREE one as it is), DONE counts and frees a RELEASED one at the last, RELEASE frees a finished one
and marks any other; an operation the table refuses changes no entry. -/
def Obligations.RegionOpsApply : Prop :=
  ∀ (d : Tier) (i : Nat) (q : RegReq) (s : State), svcRuns s.m 1 6 d = false → (sget [] s.m.regQ d)[i]? = some q →
    depsDone s.m q.deps = true →
    let r := region s.m d q.entry
    let gives := fun (entry : Nat) (r' : Region) => SettlesAll s (exec (.regionOpArrival d i) s) fun u => region u d entry = r'
    (∀ base size n, q.op = .opn base size → openErr s.m d q.part base size (isLanding q.result) = none →
      freeEntry s.m d = some n →
      gives n { st := .filling, base := base / 0x200000, size := size, part := q.part, owner := q.who })
    ∧ (∀ k, q.op = .seal k → r.part = q.part → r.st = .filling → r.owner = q.who → k ≠ 0 →
      gives q.entry { r with st := .sealed, d := k, done := 0, sealTime := s.clk.sid })
    ∧ (q.op = .abandon → r.part = q.part → r.st = .filling → (r.owner = q.who ∨ isDriver q.who = true) → gives q.entry {})
    ∧ (q.op = .done → r.part = q.part → (r.st = .sealed ∨ (r.st = .released ∧ r.done + 1 ≠ r.d)) → r.done < r.d →
      gives q.entry { r with done := r.done + 1 })
    ∧ (q.op = .done → r.part = q.part → r.st = .released → r.done + 1 = r.d → gives q.entry {})
    ∧ (q.op = .release → r.part = q.part → r.st = .sealed → (r.owner = q.who ∨ isDriver q.who = true) →
      gives q.entry (if r.done = r.d then {} else { r with st := .released }))
    ∧ (q.op = .reclaim → isDriver q.who = true → (r.part = q.part ∨ r.st = .free) →
      gives q.entry (if r.st = .free then r else {}))
    ∧ (∀ x, regionStep s.clk s.m d q = .error x → SettlesAll s (exec (.regionOpArrival d i) s) fun u => u.regions = s.m.regions)

/-! ## Passes, gangs and drains -/

/-- OPX.PASS and DOT.PASS: a pass whose operands are ready takes its leave and enters its gang, or the
gang that is to form, with the operands its word names. -/
def Obligations.PassEnters : Prop :=
  ∀ row ∈ [(Instr.opxPass, 0x40), (Instr.dotPass, 0x60)], ∀ (e : Eng) (c : CtxId) (w : LviWord) (s : State),
    headReady s e c row.2 none w → formReady passForm s e c w → hasNext s.m e c →
    let f := passFields w
    let x := ctx s.m e c
    Settles s (exec (row.1 e c w) s) fun u =>
      (ctx u e c).pc = (moveTo x (x.pc + 1)).pc
      ∧ ∃ p, (p ∈ (engine u e).forming ∨ ∃ gg ∈ (engine u e).gangs, sameGang gg f.shape f.base = true ∧ p ∈ gg.passes)
        ∧ p.task = 4 * e.val + c.val ∧ p.word = w ∧ p.shape = f.shape ∧ p.base = f.base ∧ p.st = .running ∧ p.injected = 0
        ∧ p.k = min f.k 8192 ∧ p.rest = f.k - min f.k 8192
        ∧ p.aOff = (counter x f.ca).toNat ∧ p.bOff = (counter x f.cb).toNat
        ∧ (passLeave (pastWait s.clk e c w s.m) e c w ≠ 0 →
            sget 0 (gov u (e / 16)).grants p.leave = passLeave (pastWait s.clk e c w s.m) e c w)

/-- OPX.DRAIN and DOT.DRAIN: the drain of a slot that can be drained joins the order of its gang, behind the
passes the gang has received. DRAIN_ROW_SEND: a row of a drain to the scratchpad, in a format without
blocks, is written where its tile lies and nowhere else, and is counted. -/
def Obligations.DrainsRun : Prop :=
  (∀ row ∈ [(Instr.opxDrain, 0x41), (Instr.dotDrain, 0x61)], ∀ (e : Eng) (c : CtxId) (w : LviWord) (gg : Gang) (s : State),
    headReady s e c row.2 none w → formReady drainForm s e c w →
    gangAt (engine s.m e) (drainFields w).base = some gg → drainOk gg (drainFields w).slot = true →
    Settles s (exec (row.1 e c w) s) fun u =>
      (ctx u e c).pc = (moveTo (ctx s.m e c) ((ctx s.m e c).pc + 1)).pc
      ∧ ∃ h ∈ (engine u e).gangs, h.base = gg.base ∧ ∃ d ∈ h.drains, d.task = 4 * e.val + c.val ∧ d.word = w
        ∧ d.slot = (drainFields w).slot ∧ d.fmt = dfmtCode (drainFields w).dfmt ∧ d.sr = (drainFields w).sr
        ∧ d.cols = (drainFields w).cols ∧ d.dest = drainDest s.m e c (drainFields w).cd (drainFields w).ddest
        ∧ d.after = gg.passes.map fun p => (p.id, p.done, p.injected))
  ∧ (∀ (e : Eng) (a : Ast) (gg : Gang) (d : Drain) (off : Nat) (s : State), gangAt (engine s.m e) a = some gg →
    nextDrain gg a = some d → fenceOpen gg d a = true → d.dest = .pad off → d.cw = none → isMx d.fmt = false →
    let x := rowOut s.m e gg d a (sget 0 d.rows a) (if d.sr then some s.m.draw else none)
    (∃ b ∈ members gg, sget 0 (countRow a x d).rows b ≠ 32) → (∀ p ∈ x.pieces, pinned s.m e (off + p.1) p.2.length = false) →
    SettlesAll s (exec (.drainRowSend e a) s) fun u =>
      (∃ p, x.pieces = [p] ∧ peeks u.mem (padAddr e (off + p.1)) p.2.length = p.2
        ∧ ∀ y, (y < padAddr e (off + p.1) ∨ padAddr e (off + p.1) + p.2.length ≤ y) → peek u.mem y = peek s.m.mem y)
      ∧ ∃ h ∈ (engine u e).gangs, h.base = gg.base ∧ ∃ d' ∈ h.drains, d'.id = d.id
        ∧ sget 0 d'.rows a = sget 0 d.rows a + 1)

/-- GANG_FORM: a gang forms for the passes that wait for it, from the gangs it displaces once those are quiet.
STEP_INJECT: the next group of steps of a pass already begun enters the pipeline, two steps a cycle for
formats that allow it. -/
def Obligations.GangsStep : Prop :=
  (∀ (e : Eng) (base : Ast) (p : Pass) (s : State), ((engine s.m e).forming.find? fun q => q.base == base.val) = some p →
    takeForming p.shape base.val (engine s.m e).forming ≠ [] → canForm (engine s.m e) p.shape base.val = true →
    Settles s (exec (.gangForm e base) s) fun u =>
      (∃ gg ∈ (engine u e).gangs, gg.shape = p.shape ∧ gg.base = base.val ∧ ∃ q ∈ gg.passes, q.id = p.id ∧ q.word = p.word)
      ∧ (∀ q ∈ (engine u e).forming, q.id ≠ p.id)
      ∧ ∀ gg ∈ (engine u e).gangs, gg.base ≠ base.val → gg ∈ (engine s.m e).gangs)
  ∧ (∀ (e : Eng) (base : Ast) (gg : Gang) (p : Pass) (seen : List Pass) (ta tb : List RunTile) (mag : Int) (s : State),
    gangOf (engine s.m e) base = some gg → injecting [] gg.passes = some (seen, p) →
    (∀ q ∈ gg.passes, q.st ≠ .overflowed) → (∀ q ∈ seen, q.replays = 0) → 0 < p.injected → p.m = some mag →
    runA s.m e p p.k true = .ok ta → runB s.m e p p.k true = .ok tb →
    let fa := ((ta.head?).map (·.h.fmt)).getD 0
    let fb := ((tb.head?).map (·.h.fmt)).getD 0
    let n := min (if p.shape = .dot then 1 else max (stepsPerCycle fa) (stepsPerCycle fb)) (totalSteps p - p.injected)
    pairingOk p fa fb = true → loadReady (members gg) seen p p.injected = true →
    (∀ r ∈ (List.range n).flatMap fun i => feedRanges p ta tb (p.injected + i),
      deadRange s.m e r.1 r.2 = none ∧ notLanded s.m e r.1 r.2 = false ∧ padPoison s.m e r.1 r.2 = false) →
    Settles s (exec (.stepInject e base) s) fun u =>
      ∃ h, gangOf (engine u e) base = some h ∧ ∃ q ∈ h.passes, q.id = p.id ∧ q.injected = p.injected + n ∧ q.m = some mag)

/-- STEP_RETIRE: one step of an Asterism reaches its cells. A cell that overflows stops its pass and every later pass
begun, and changes no other; at the last replay a cell saturates in its place, and marks the pass, which no earlier
turn does. -/
def Obligations.StepsRetire : Prop :=
  ∀ (e : Eng) (a : Ast) (gg : Gang) (p : Pass) (before after : List Pass) (s : State), gangAt (engine s.m e) a = some gg →
    retiring a false gg.passes = some (p, false) → p.faulted = false → gg.passes = before ++ p :: after →
    (∀ q ∈ before ++ after, q.id ≠ p.id) →
    let r := retireCells s.m e a p (sget 0 p.retired a) (engine s.m e).cells
    Settles s (exec (.stepRetire e a) s) fun u =>
      (engine u e).cells = r.1 ∧ u.mem = s.m.mem
      ∧ (∃ h ∈ (engine u e).gangs, h.base = gg.base
        ∧ h.passes = before
            ++ { p with retired := sset 0 p.retired a (sget 0 p.retired a + 1), sat := p.sat || r.2.2, st := if r.2.1 then .overflowed else p.st }
            :: (if r.2.1 then after.map fun q => if q.injected = 0 then q else { q with st := .overflowed } else after))
      ∧ (p.replays = 4 → r.2.1 = false) ∧ (p.replays ≠ 4 → r.2.2 = false)

/-- REPLAY_START: once every step in flight has retired, the first overflowed pass starts again with M + 6 and
one more replay, and the overflowed passes after it start anew. PASS_RETIRE: a pass whose steps have all retired
leaves its result in its slot with its M, replays and SAT, and returns its leave; SAT marks its program. -/
def Obligations.PassesEnd : Prop :=
  (∀ (e : Eng) (base : Ast) (gg : Gang) (ok rest : List Pass) (p : Pass) (s : State), gangOf (engine s.m e) base = some gg →
    gg.passes = ok ++ p :: rest → (∀ q ∈ ok, q.st ≠ .overflowed) → p.st = .overflowed →
    gg.passes.all (allRetired (members gg)) = true →
    Settles s (exec (.replayStart e base) s) fun u =>
      ∃ h, gangOf (engine u e) base = some h
        ∧ h.passes = ok ++ { p with st := .running, injected := 0, retired := [], m := p.m.map (· + 6), replays := p.replays + 1 }
            :: rest.map fun q => if q.st = .overflowed then { q with st := .running, injected := 0, retired := [], m := none } else q)
  ∧ (∀ (e : Eng) (base : Ast) (gg : Gang) (p : Pass) (rest : List Pass) (s : State), gangOf (engine s.m e) base = some gg →
    gg.passes = p :: rest → p.st = .running → p.faulted = false → p.injected = totalSteps p → p.rest = 0 →
    allRetired (members gg) p = true →
    SettlesAll s (exec (.passRetire e base) s) fun u =>
      (∃ h, gangOf (engine u e) base = some h ∧ h.passes = rest ∧ h.lastM = p.m
        ∧ slotInfo h p.slot = {
            full := true, draining := p.drain.isSome || p.asked, m := p.m.getD 0, replays := max p.maxReplays p.replays
            sat := p.satAny || p.sat, epoch := p.epoch, sample := p.sample, t := p.t })
      ∧ sget 0 (gov u (e / 16)).grants p.leave = 0
      ∧ (p.sat = true → ∀ x, (partSt u (ctx s.m e (p.task % 4)).part).prog = some x → x.sat = true))

/-! ## The vector unit -/

/-- Every vector instruction whose operands are present goes to the vector unit with its word, its
operands and its leave, and its context goes on. -/
def Obligations.VectorIssues : Prop :=
  ∀ row ∈ [(Instr.vld, 0x80), (Instr.vst, 0x81), (Instr.varith, 0x82), (Instr.vcvt, 0x83), (Instr.vtrans, 0x84),
      (Instr.vred, 0x85), (Instr.vact, 0x86), (Instr.actBwd, 0x87), (Instr.update, 0x88), (Instr.topkHist, 0x89),
      (Instr.topkSelect, 0x8A), (Instr.sign, 0x8B)],
    ∀ (e : Eng) (c : CtxId) (w : LviWord) (s : State), headReady s e c row.2 none w → formReady vectorForm s e c w →
    hasNext s.m e c →
    Settles s (exec (row.1 e c w) s) fun u =>
      (ctx u e c).pc = (moveTo (ctx s.m e c) ((ctx s.m e c).pc + 1)).pc
      ∧ ∃ v, (engine u e).vops = (engine s.m e).vops ++ [v] ∧ v.task = 4 * e.val + c.val ∧ v.word = w
        ∧ v.args = vectorArgs s.m e c w
        ∧ (vectorLeave w ≠ 0 → sget 0 (gov u (e / 16)).grants v.leave = vectorLeave w)

/-- VECTOR_COMPLETE: the oldest instruction of the vector unit writes its results and returns its leave.
VLD loads 256 words, VST stores 256 lanes and nothing beside them, VARITH and VTRANS write the first N lanes, or BF16
halves, of one register and no other. -/
def Obligations.VectorCompletes : Prop :=
  ∀ (e : Eng) (v : VOp) (s : State), (engine s.m e).vops.find? isVector = some v →
    ((vectorWrites s.m e v.word v.args).any fun r => pinned s.m e r.1 r.2) = false →
    ((vectorReads s.m e v.word v.args).find? fun r => padPoison s.m e r.1 r.2) = none →
    let w := v.word
    let x := engine s.m e
    let d := wf w 59 5
    Settles s (exec (.vectorComplete e v.id) s) fun u =>
      (∀ y ∈ (engine u e).vops, y.id ≠ v.id) ∧ sget 0 (gov u (e / 16)).grants v.leave = 0
      ∧ (wOp w = 0x80 → u.mem = s.m.mem ∧ ∀ i < 256, lane (engine u e) d i = word32 s.m e (arg v.args 0) i)
      ∧ (wOp w = 0x81 → (engine u e).vreg = x.vreg
          ∧ (∀ i < 256, word32 u e (arg v.args 0) i = lane x d i)
          ∧ ∀ y, (y < padAddr e (arg v.args 0) ∨ padAddr e (arg v.args 0) + 1024 ≤ y) → peek u.mem y = peek s.m.mem y)
      ∧ (wOp w = 0x82 → wb w 42 = false → u.mem = s.m.mem
          ∧ (∀ i < min (wf w 33 9 + 1) 256, lane (engine u e) d i
              = arith32 (wExt w) (lane x (wf w 54 5) i)
                  (if wb w 43 then BitVec.ofNat 32 (arg v.args 0) else lane x (wf w 49 5) i) (lane x (wf w 44 5) i))
          ∧ ∀ r i, i < 256 → (r ≠ d ∨ wf w 33 9 + 1 ≤ i) → lane (engine u e) r i = lane x r i)
      ∧ (wOp w = 0x82 → wb w 42 = true → u.mem = s.m.mem
          ∧ (∀ i < wf w 33 9 + 1, half (engine u e) d i
              = arith16 (wExt w) (half x (wf w 54 5) i)
                  (if wb w 43 then (BitVec.ofNat 32 (arg v.args 0)).toNat % 65536 else half x (wf w 49 5) i) (half x (wf w 44 5) i) % 65536)
          ∧ ∀ r i, i < 512 → (r ≠ d ∨ wf w 33 9 + 1 ≤ i) → half (engine u e) r i = half x r i)
      ∧ (wOp w = 0x84 → u.mem = s.m.mem
          ∧ (∀ i < min (wf w 33 9 + 1) 256, lane (engine u e) d i = trans32 (wExt w) (lane x (wf w 54 5) i))
          ∧ ∀ r i, i < 256 → (r ≠ d ∨ wf w 33 9 + 1 ≤ i) → lane (engine u e) r i = lane x r i)

/-! ## DMA -/

/-- DESCRIPTOR_BURST_FETCH takes the next burst of the oldest run of its queue, at most 32 descriptors,
each with the offsets of its MOVE added. PREFETCH_WAIT_EXPIRY marks a PREFETCH descriptor that has waited
4,096 ticks, and it alone, to start next.
FETCH_DEADLINE_EXPIRY: a fetch late for its tick leaves a skip marker under SKIP, takes its shadow
tile under SHADOW, once an earlier transfer of its queue and the services on it let that be read, and is counted late
otherwise. -/
def Obligations.DescriptorsFetched : Prop :=
  ((∀ (e : Eng) (q : Fin 9) (r : Run) (before after : List Run) (p : Program) (k sec : Nat) (s : State),
    engineRuns s.m e = true → (dmaq (engine s.m e) q).runs = before ++ r :: after → (∀ x ∈ before, x.left = 0) → r.left ≠ 0 →
    (∀ x ∈ before ++ after, x.id ≠ r.id) → (dmaq (engine s.m e) q).fetched.length ≤ 8 →
    r.section_ = some sec → dieOwner s.m (e / 16) = some k → (partSt s.m k).prog = some p →
    let n := min 32 r.left
    Settles s (exec (.descriptorBurstFetch e q) s) fun u =>
      ∃ ds, (dmaq (engine u e) q).fetched = (dmaq (engine s.m e) q).fetched ++ ds
        ∧ (ds.map fun d => d.bytes) = ((List.range n).map fun i => issueDesc r (slice (sget [] p.descs sec) (64 * (r.next + i)) 64))
        ∧ (∀ d ∈ ds, d.run = r.id ∧ d.at_ = s.clk.now ∧ d.popped = none)
        ∧ (dmaq (engine u e) q).runs = before ++ { r with next := r.next + n, left := r.left - n, grant := 0 } :: after
        ∧ u.mem = s.m.mem)
  ∧ (∀ (e : Eng) (q : Fin 9) (d : Desc) (s : State), d ∈ (dmaq (engine s.m e) q).fetched →
    (readDesc d.bytes).prefetch = true → d.forced = false → d.at_ + 4096 ≤ s.clk.now →
    (∀ x ∈ (dmaq (engine s.m e) q).fetched, x ≠ d → x.id ≠ d.id ∧ x.forced = false
      ∧ ((readDesc x.bytes).prefetch = false ∨ s.clk.now < x.at_ + 4096)) →
    Settles s (exec (.prefetchWaitExpiry e q) s) fun u =>
      (dmaq (engine u e) q).fetched = ((dmaq (engine s.m e) q).fetched.map fun x => if x = d then { x with forced := true } else x)
      ∧ nextDesc (dmaq (engine u e) q) = some { d with forced := true }))
  ∧ (∀ (e : Eng) (id : Nat) (x : Xfer) (s : State), findXfer s.m e id = some x → overdue s.clk x = true →
    let d := xferDesc x
    let q := fun (m : Mod) => dmaq (engine m e) x.q
    let refused := pathRefused d (keepAt s.m e d.dst true).isSome
    (d.path = 2 → refused = none → Settles s (exec (.fetchDeadlineExpiry e id) s) fun u =>
      findXfer u e id = some { x with
        mode := .skip, landed := 0, total := 0, head := [], headBad := false, buf := [], poisoned := false
        hdr := destHdr s.m e x (skipHdr d.fmt d.rows32 d.cols32 0), pad := ownPad s.m e x.dst.toNat 64 }
      ∧ (q u).fallback = min 0xFFFF ((q s.m).fallback + 1) ∧ u.mem = s.m.mem)
    ∧ (d.path ≠ 1 → d.path ≠ 2 → Settles s (exec (.fetchDeadlineExpiry e id) s) fun u =>
      findXfer u e id = some { x with late := true } ∧ (q u).late = min 0xFFFF ((q s.m).late + 1)
      ∧ (q u).fallback = (q s.m).fallback ∧ u.mem = s.m.mem)
    ∧ (d.path = 1 → tileWaits s.m e x.q x.id (xferRun s.m e x) d.shadow true = true →
      Settles s (exec (.fetchDeadlineExpiry e id) s) fun u =>
        findXfer u e id = some x ∧ (q u).fallback = (q s.m).fallback ∧ u.mem = s.m.mem)
    ∧ (∀ m1 r y, d.path = 1 → refused = none → tileWaits s.m e x.q x.id (xferRun s.m e x) d.shadow true = false →
      readTile s.clk (countFallback e x s.m) (dmaReq (countFallback e x s.m) e x.q (xferRun (countFallback e x s.m) e x) true) e d.shadow = (m1, .ok r) →
      tileBarred m1 e x d.shadow (64 + r.bytes.length) = false →
      shadowTile d r = .ok y → Settles s (exec (.fetchDeadlineExpiry e id) s) fun u =>
        ∃ z, findXfer u e id = some z ∧ z.mode = .shadow ∧ z.landed = z.head.length
          ∧ z.head ++ z.buf = (recodeTile d ((keepAt m1 e d.dst true).any (·.2)) y).bytes
          ∧ (q u).fallback = min 0xFFFF ((q s.m).fallback + 1)))

/-- A COPY runs: DMA_TRANSFER_START begins the transfer of the next descriptor, with those that merge
with it; DMA_LINE_LAND moves its next bytes, and no other byte of memory; DMA_TRANSFER_COMPLETE returns
its leave and sends its signals, behind the earlier transfers of its queue. -/
def Obligations.CopyRuns : Prop :=
  (∀ (e : Eng) (q : Fin 9) (d : Desc) (s : State),
    engineRuns s.m e = true → (engine s.m e).halt = .running → pushHeld s.m e q = false → engineFull s.m e q = false →
    nextDesc (dmaq (engine s.m e) q) = some d →
    let f := readDesc d.bytes
    let r := findRun s.m e q d.run
    let ds := merged s.m e q d (((dmaq (engine s.m e) q).fetched.dropWhile fun y => y.id != d.id).drop 1)
    let total := (ds.map fun y => (readDesc y.bytes).len).foldl (· + ·) 0
    descOk (e / 16) f = true → f.op = 1 → f.popSrc = false → f.len ≤ 0x40000 →
    (ownPad s.m e f.dst total ≠ [] → entriesUsed s.m e < 256) →
    (∀ k, (partSt s.m k).xlat = []) → boundRefused s.m e q r f.src f.dst total false = false →
    Settles s (exec (.dmaTransferStart e q) s) fun u =>
      (∃ x, (engine u e).xfers = (engine s.m e).xfers ++ [x] ∧ x.descs = ds ∧ x.q = q.val ∧ x.total = total ∧ x.landed = 0
        ∧ x.src = BitVec.ofNat 64 f.src ∧ x.dst = BitVec.ofNat 64 f.dst ∧ x.tile = false ∧ x.ended = none
        ∧ x.pad = ownPad s.m e f.dst total)
      ∧ (dmaq (engine u e) q).fetched = ((dmaq (engine s.m e) q).fetched.filter fun y => !ds.any fun z => z.id == y.id)
      ∧ u.mem = s.m.mem)
  ∧ (∀ (e : Eng) (id : Nat) (ecc : Ecc) (x : Xfer) (m1 m3 : Mod) (bs : List Byte) (bad last b : Bool) (p : Place) (s : State),
    findXfer s.m e id = some x → x.tile = false → (xferDesc x).path = 0 → x.landed < x.total →
    let k := (dieOwner s.m (e / 16)).getD 0
    let c := nextChunk s.m k x
    let m2 := modXfer m1 e id fun y => { y with buf := bs.drop c.2, poisoned := last }
    let rq := dmaReq m2 e x.q (xferRun m2 e x) false
    destPinned s.m e x c.1 c.2 = false → behind s.m e x c.1 c.2 = false → chunkWaits s.m e x c.1 c.2 = false →
    readAhead s.clk (dmaReq s.m e x.q (xferRun s.m e x) false) ecc (x.src.toNat + c.1) (x.total - x.landed) c.2 (c.2 / 256 + 2) x.buf x.poisoned s.m
      = (m1, .ok (bs, bad, last)) →
    linkWin m2 ((dieOwner m2 (e / 16)).getD 0) (x.dst.toNat + c.1) = none →
    spanCheck m2 rq true (x.dst.toNat + c.1) = .ok (p, b) → (∀ i o, p ≠ .sync i o) →
    writeMem s.clk m2 rq (x.dst.toNat + c.1) (bs.take c.2) bad .clean = (m3, none) →
    (bs.take c.2).length = c.2 → (x.dst.toNat + c.1) % 256 + c.2 ≤ 256 →
    Settles s (exec (.dmaLineLand e id ecc) s) fun u =>
      findXfer u e id = some { x with landed := x.landed + c.2, buf := bs.drop c.2, poisoned := last }
      ∧ peeks u.mem (cellAddr p) c.2 = bs.take c.2
      ∧ ∀ y, (y < cellAddr p ∨ cellAddr p + c.2 ≤ y) → peek u.mem y = peek s.m.mem y)
  ∧ (∀ (e : Eng) (id : Nat) (x : Xfer) (s : State),
    findXfer s.m e id = some x → x.tile = false → (xferDesc x).path = 0 → x.total ≤ x.landed → x.acks = 0 → (xferDesc x).pushDst = false →
    Settles s (exec (.dmaTransferComplete e id) s) fun u =>
      findXfer u e id = none ∧ sget 0 (gov u (e / 16)).grants x.leave = 0 ∧ u.mem = s.m.mem
      ∧ ∀ d ∈ x.descs, (readDesc d.bytes).smode = 1 → ∃ o ∈ syncQueue u (e / 16),
          o.src = srcQueue e x.q ∧ o.obj = (readDesc d.bytes).s ∧ o.kind = .sig 1 ∧ o.deps = earlierXfers s.m e x)

/-! ## Memory -/

/-- MEMORY_READ and MEMORY_WRITE: a read that its checks let through changes no byte and, for the host,
answers the bytes; a refused one answers a host an error. A write within one line puts its bytes where
the address leads, and no other byte changes. REDUCE_WRITE_APPLY at a die pool: ADD.F32 and ADD.BF16 add a
line, MERGE adds its pairs, SIGNCNT counts, each into its own bytes alone; one that meets the next in a router waits
for it (log 68), and the two go on as one write. -/
def Obligations.MemoryServes : Prop :=
  ((∀ (r : Requester) (a n : Nat) (hint : Fin 4) (ecc : Ecc) (m1 : Mod) (bs : List Byte) (bad : Bool) (s : State),
    accessWaits s.m (reqOf s.m r) false a n = false → readMem s.clk s.m (reqOf s.m r) a n ecc = (m1, .ok (bs, bad)) →
    Settles s (exec (.memoryRead r a n hint ecc) s) fun u =>
      (∀ y, peek u.mem y = peek s.m.mem y) ∧ u.mem.lines = s.m.mem.lines
      ∧ ∀ f, r = .host f → u.out = s.m.out ++ [.readData f.val bs bad])
  ∧ (∀ (f : Func) (a n : Nat) (hint : Fin 4) (ecc : Ecc) (m1 : Mod) (x : XErr) (s : State),
    accessWaits s.m (reqOf s.m (.host f)) false a n = false →
    readMem s.clk s.m (reqOf s.m (.host f)) a n ecc = (m1, .error x) →
    Settles s (exec (.memoryRead (.host f) a n hint ecc) s) fun u =>
      (∀ y, peek u.mem y = peek s.m.mem y) ∧ u.out = s.m.out ++ [.readUR f.val]
      ∧ (flog u logHN).last.reason = x.reason ∧ (flog u logHN).last.typ = x.typ)
  ∧ (∀ (r : Requester) (a : Nat) (data : List Byte) (poisoned b : Bool) (ecc : Ecc) (p : Place) (m1 : Mod) (s : State),
    data ≠ [] → a % 256 + data.length ≤ 256 → writeHeld s.m (reqOf s.m r) a data.length = false →
    accessWaits s.m (reqOf s.m r) true a data.length = false →
    spanCheck s.m (reqOf s.m r) true a = .ok (p, b) → (∀ i o, p ≠ .sync i o) →
    writeMem s.clk s.m (reqOf s.m r) a data poisoned ecc = (m1, none) →
    Settles s (exec (.memoryWrite r a data poisoned ecc) s) fun u =>
      peeks u.mem (cellAddr p) data.length = data
      ∧ ∀ y, (y < cellAddr p ∨ cellAddr p + data.length ≤ y) → peek u.mem y = peek s.m.mem y))
  ∧ (∀ (r : Requester) (op : Byte) (a n : Nat) (ps : List (Nat × Nat × Nat)) (payload : List Byte) (poisoned : Bool) (s : State),
    reducePlace s.m (reqOf s.m r) op.toNat a n = .ok ps → 1 ≤ op.toNat → op.toNat ≤ 5 →
    let run := exec (.reduceWriteApply r op a n payload poisoned) s
    let w : RWrite := { op := op.toNat, pieces := ps, n := n, payload := payload, poisoned := poisoned, who := [(r, a, payload)] }
    let m1 := fillPages s.m (reqOf s.m r) true a 1
    let x := pieceAddr ps 0
    let z := pieceAddr ps 256
    let i := pieceAddr ps (4 * fld payload 0 4)
    let only := fun (u : Mod) (lo len : Nat) => ∀ y, (y < lo ∨ lo + len ≤ y) → peek u.mem y = peek s.m.mem y
    (s.m.router = none → partnerNext m1 w s.pending.head? = false →
      (op = 1 → Settles s run fun u => peeks u.mem x 256 = addF32 (peeks s.m.mem x 256) payload ∧ only u x 256)
      ∧ (op = 2 → Settles s run fun u => peeks u.mem x 256 = addB16 (peeks s.m.mem x 256) payload ∧ only u x 256)
      ∧ (op = 3 → payload.length = 8 → fld payload 0 4 < n → Settles s run fun u =>
          leNat (peeks u.mem i 4)
            = (fadd (BitVec.ofNat 32 (leNat (peeks s.m.mem i 4))) (BitVec.ofNat 32 (fld payload 4 4))).toNat
          ∧ only u i 4)
      ∧ (op = 4 ∨ op = 5 → x + 256 ≤ z ∨ z + 256 ≤ x → Settles s run fun u =>
          (∀ j < 256, let y := if j < 128 then x + 2 * j else z + 2 * (j - 128)
            leNat (peeks u.mem y 2) = min 65535 (leNat (peeks s.m.mem y 2) + signAddend (op == 5) payload j))
          ∧ ∀ y, (y < x ∨ x + 256 ≤ y) → (y < z ∨ z + 256 ≤ y) → peek u.mem y = peek s.m.mem y))
    ∧ (s.m.router = none → partnerNext m1 w s.pending.head? = true → Config.routersMeet s.m.draw = true →
      Settles s run fun u => u.router = some w ∧ u.mem = s.m.mem)
    ∧ (∀ old both, s.m.router = some old → combineWrites old w = some both →
      partnerNext { m1 with router := none } both s.pending.head? = false →
      Settles s run fun u => u.router = none
        ∧ ∀ y, peek u.mem y = peek (reduceAt both.pieces both.op both.n both.payload both.poisoned s.m).1.mem y))

/-! ## The exchange -/

/-- XCH.DRAIN joins the order of its gang with its record, shard and deadline; XCH.NORM of the set's root
opens a pre-round with its value, or an occulted one past its deadline; XCH.COLLECT waits for its round,
and when that is complete writes its tile and record, leaves zeros in the reduction buffer and closes it. -/
def Obligations.ExchangeInstructions : Prop :=
  (∀ (e : Eng) (c : CtxId) (w : LviWord) (s : State), hasNext s.m e c →
    let x := ctx s.m e c
    let pc := (moveTo x (x.pc + 1)).pc
    (∀ gg sh, headReady s e c 0xC0 none w → formReady xchDrainForm s e c w →
      let off := (counter x (wf w 60 4)).toNat
      padPoison s.m e off 64 = false → gangAt (engine s.m e) (wf w 53 3) = some gg →
      xchErr s.m x.part (gangElems gg.shape) w (readXRec (padRead s.m e off 64)) = .ok sh → drainOk gg (wf w 52 1) = true →
      SettlesAll s (exec (.xchDrain e c w) s) fun u => (ctx u e c).pc = pc
        ∧ ∃ h ∈ (engine u e).gangs, h.base = gg.base ∧ ∃ d ∈ h.drains, d.task = 4 * e.val + c.val ∧ d.word = w ∧ d.slot = wf w 52 1
          ∧ d.dest = .exch ∧ d.shard = some sh ∧ d.exchRec = padRead s.m e off 64 ∧ d.deadline = counterPair x (wf w 56 4))
    ∧ (∀ l n, headReady s e c 0xC1 none w → wT w = false → s.m.xch.current = some l →
      let set := (counter x (wf w 52 4)).toNat
      let dn := counterPair x (wf w 56 4)
      normSetOf l set = some n → n.rootModule = moduleNum s.m → 1 < n.nexpect → (∀ p ∈ s.m.xch.pre, p.set ≠ set) →
      SettlesAll s (exec (.xchNorm e c w) s) fun u => (ctx u e c).pc = pc
        ∧ ∃ p ∈ u.xch.pre, p.set = set ∧ p.d = dn ∧ p.epoch = l.epoch
          ∧ (s.clk.sid.toNat ≤ dn.toNat → p.sum = fadd 0 (counter x (wf w 60 4)) ∧ p.count = 1 ∧ p.occ = 0)
          ∧ (dn.toNat < s.clk.sid.toNat → p.count = 0 ∧ p.occ = 1))
    ∧ (headReady s e c 0xC2 none w → formReady collectForm s e c w →
      collectErr s.m e (counter x (wf w 56 4)).toNat = none →
      SettlesAll s (exec (.xchCollect e c w) s) fun u => (ctx u e c).pc = pc
        ∧ ∃ k, u.xch.collects = s.m.xch.collects ++ [k] ∧ k.task = 4 * e.val + c.val ∧ k.word = w
          ∧ k.shard = (counter x (wf w 56 4)).toNat ∧ k.cd = (counter x (wf w 60 4)).toNat ∧ k.cc = (counter x (wf w 52 4)).toNat))
  ∧ (∀ (t : Clk) (c : Collect) (r : Round) (sh : Shard) (m : Mod),
    roundOf m c.shard = some r → roundShard m r = some sh →
    let u := runCollect t c m
    let g := c.task / 4
    let tile := collectTile m c sh r
    (roundComplete m sh r = false → u = m)
    ∧ (roundComplete m sh r = true →
      (pinned m g c.cd (roundUp (64 + 4 * elems sh) 256) || pinned m g c.cc 16) = false →
      sectorsBad m (poolAddr (ownerDie sh) sh.buf) (bufBytes sh) = false →
      poolAddr (ownerDie sh) sh.buf + roundUp (bufBytes sh) 256 ≤ 0x90000000000 →
      roundOf u c.shard = none ∧ (∀ k ∈ u.xch.collects, k.id ≠ c.id)
      ∧ padRead u g c.cc 16 = collectRecord m sh r
      ∧ ((c.cc + 16 ≤ c.cd ∨ c.cd + tile.length ≤ c.cc) → padRead u g c.cd tile.length = tile)
      ∧ ∀ i < bufBytes sh, peek u.mem (poolAddr (ownerDie sh) sh.buf + i) = 0))

/-- XCH.MCAST writes a copy of its tile, with the TAG_INDEX of its place; DISPATCH zeroes its
destination and, with every expert off, ends with the count of its entries; COMBINE sends a TOKEN_RET
for every record and closes its round, which EXPERT_ROUND_REOPEN opens again, empty. -/
def Obligations.TokenInstructions : Prop :=
  (∀ (e : Eng) (c : CtxId) (w : LviWord) (s : State), hasNext s.m e c →
    let x := ctx s.m e c
    let pc := (moveTo x (x.pc + 1)).pc
    let part := x.part
    (∀ d p, headReady s e c 0xC3 none w → formReady mcastForm s e c w → wExt w = 0 →
      let src := (counter x (wf w 60 4)).toNat
      let n := tileExtent (headAt s.m e src)
      padPoison s.m e src 64 = false → mcastGroup s.m part (wf w 32 16) = [d] → (∀ v ∈ (engine s.m e).vops, isMcast v = false) →
      copyPlace d (counter x (wf w 56 4)).toNat n = some p → pinnedAt s.m p n = false →
      SettlesAll s (exec (.xchMcast e c w) s) fun u => (ctx u e c).pc = pc
        ∧ peeks u.mem (cellAddr p) n = retag p (padRead s.m e src n)
        ∧ ∀ y, (y < cellAddr p ∨ cellAddr p + n ≤ y) → peek u.mem y = peek s.m.mem y)
    ∧ (∀ tk, headReady s e c 0xC4 (some 0) w → formReady dispatchForm s e c w →
      let d := dispOp s.m e c w
      let b := (actBank s.m e c).2
      let z := zeroRun s.m e d.cd b.rowElems d.rows
      let entries := (List.range d.rows).flatMap fun row => (List.range 4).filterMap fun j => routeEntry z e d.ce row j
      gridOk s.m e d.cs b.rowElems b.fmt d.rows = true → poisonIn s.m e (dispRanges s.m e c w).1 = none →
      freeTicket s.m e = some tk →
      (∀ y ∈ b.experts, y.module % 2 ^ 14 ≠ moduleNum s.m ∧ ∃ q, route s.m part (y.module % 2 ^ 14) = .ok q) →
      (∀ n ∈ entries, ∀ y, b.experts[n.1]? = some y → y.capacity = 0) →
      SettlesAll s (exec (.dispatch e c w) s) fun u => (ctx u e c).pc = pc ∧ u.mem = z.mem
        ∧ counter (ctx u e c) (wf w 60 4) = BitVec.ofNat 32 entries.length ∧ ticketAt u e tk = none)
    ∧ (∀ n y, headReady s e c 0xC4 (some 1) w → formReady combineForm s e c w →
      combineErr s.m e c w = none → combineExpert s.m e c w = some (n, y) → poisonIn s.m e (combineRanges s.m e c w y) = none →
      let ks := (List.range y.capacity).flatMap fun i => retPackets s.m part e c w y i
      (∀ k ∈ ks, k.dst.toNat ≠ moduleNum s.m ∧ ∃ q, route s.m part k.dst.toNat = .ok q ∧ 1 ≤ (port s.m q).version) →
      SettlesAll s (exec (.combine e c w) s) fun u => (ctx u e c).pc = pc ∧ (expRound u e n).st = .closing
        ∧ (expRound u e n).fill = (expRound s.m e n).fill
        ∧ ∀ k ∈ ks, ∀ q, route s.m part k.dst.toNat = .ok q → ∃ z ∈ (port u q).txq, z.pkt = k))
  ∧ ∀ (e : Eng) (n : Nat) (s : State), (expRound s.m e n).st = .closing → (expRound s.m e n).held = [] → (expRound s.m e n).pinHeld = [] →
      SettlesAll s (exec (.expertRoundReopen e n) s) fun u => expRound u e n = {}
        ∧ ∀ y, peek u.mem y = peek s.m.mem y

/-! ## Transits -/

/-- An instruction with T = 1 is accepted with its launch time rounded up to an even tick, or faults as
late; XCH.PHASE is one of them. TRANSIT_DISPATCH issues an accepted instruction at its launch: a NOP
moves on, an XCH.PHASE switches the map of its partition. -/
def Obligations.Transits : Prop :=
  (∀ row ∈ [(Instr.nop, 0x00), (Instr.add, 0x02), (Instr.cmp, 0x03), (Instr.sel, 0x04), (Instr.loop, 0x05), (Instr.br, 0x06),
      (Instr.setlt, 0x07), (Instr.time, 0x08)],
    ∀ (e : Eng) (c : CtxId) (w : LviWord) (s : State), headReady s e c row.2 none w → wT w = true →
    let launch := roundUpTick (ctx s.m e c).lt
    (isLate s.clk launch = false → Settles s (exec (row.1 e c w) s) fun u =>
      (ctx u e c).accepted = some { launch := launch, word := w, resv := none } ∧ (ctx u e c).pc = (ctx s.m e c).pc)
    ∧ (isLate s.clk launch = true → Settles s (exec (row.1 e c w) s) fun u =>
      (ctx u e c).st = .faulted ∧ (flog u e).last.typ = fTransitLate ∧ (flog u e).last.addr = launch))
  ∧ (∀ (e : Eng) (c : CtxId) (w : LviWord) (s : State), headReady s e c 0xC5 none w → wT w = true →
    (bank s.m (wf w 0 2)).loaded = true → (bank s.m (wf w 0 2)).heldBy = [] →
    isLate s.clk (roundUpTick (ctx s.m e c).lt) = false →
    SettlesAll s (exec (.xchPhase e c w) s) fun u =>
      (ctx u e c).accepted = some { launch := roundUpTick (ctx s.m e c).lt, word := w, resv := none }
      ∧ (partSt u (ctx s.m e c).part).activeMap = (partSt s.m (ctx s.m e c).part).activeMap)
  ∧ (∀ (e : Eng) (c : CtxId) (a : Accepted) (s : State), (ctx s.m e c).accepted = some a → a.resv = none →
    s.clk.running = true → a.launch.toNat ≤ s.clk.sid.toNat → lowerDue s.clk s.m e c = false →
    let x := ctx s.m e c
    (wOp a.word = 0x00 → SettlesAll s (exec (.transitDispatch (.insn e c)) s) fun u => Moved s.m u e c id (x.pc + 1))
    ∧ (wOp a.word = 0xC5 → hasNext s.m e c → (∀ y ∈ (partSt s.m x.part).phaseAsk, y.1 ≠ s.clk.sid.toNat) →
      SettlesAll s (exec (.transitDispatch (.insn e c)) s) fun u =>
        (ctx u e c).pc = (moveTo x (x.pc + 1)).pc ∧ (partSt u x.part).activeMap = wf a.word 0 2))

/-! ## Rings -/

/-- Doorbells and the fetch: a doorbell of the ring's owner moves its tail or head, a tail beyond the
ring or a head outside the written entries stops it (such a head is only recorded while rings are not fetched), any
other write is discarded and reported. A fetch takes the next entries in order and
completes one that breaks the entry's rules at once, with its reason. -/
def Obligations.RingsFetch : Prop :=
  (∀ (f : Func) (n : RingId) (off size : Nat) (v : W32) (s : State), vfLive s.m f = true →
    let good := off = 0 ∧ size = 4
    let x := v.toNat % 65536
    (sqOwner s.m n = f.val → good → sqEn s.m n = true → x < sqSize s.m n →
      exec (.sqDoorbell f n off size v) s = .next { s with m := modRing s.m n fun r => { r with tail := x } })
    ∧ (sqOwner s.m n = f.val → good → sqEn s.m n = true → sqSize s.m n ≤ x → msLevel s.m ≤ 1 → hnBusy s.m = false →
      ∃ t, exec (.sqDoorbell f n off size v) s = .next t ∧ sqEn t.m n = false ∧ (ring t.m n).reason = 0x14
        ∧ (flog t.m logHN).last.typ = fRing ∧ (flog t.m logHN).last.reason = 0x14)
    ∧ (¬ (sqOwner s.m n = f.val ∧ good) → ∃ t, exec (.sqDoorbell f n off size v) s = .next t ∧ t.m.rings = s.m.rings
        ∧ t.m.out = s.m.out ++ [.aerUR f.val])
    ∧ (cqOwner s.m n = f.val → good → cqEn s.m n = true → x < cqSize s.m n →
      (x + cqSize s.m n - (ring s.m n).cqHead) % cqSize s.m n ≤ ((ring s.m n).cqTail + cqSize s.m n - (ring s.m n).cqHead) % cqSize s.m n →
      exec (.cqDoorbell f n off size v) s = .next { s with m := modRing s.m n fun r => { r with cqHead := x, cqBell := none } })
    ∧ (cqOwner s.m n = f.val → good → cqEn s.m n = true → badHead s.m n x = true →
      (msLevel s.m ≤ 1 → hnBusy s.m = false → ∃ t, exec (.cqDoorbell f n off size v) s = .next t
        ∧ cqEn t.m n = false ∧ (ring t.m n).cqReason = 0x14)
      ∧ (2 ≤ msLevel s.m → exec (.cqDoorbell f n off size v) s = .next { s with m := modRing s.m n fun r => { r with cqBell := some x } })))
  ∧ (∀ (n : RingId) (burst : Nat) (s : State), fetches s.m n = true → (ring s.m n).tail < sqSize s.m n → sqPick s.m = some n.val →
    let size := sqSize s.m n
    let left := ((ring s.m n).tail + size - (ring s.m n).head) % size
    let b := entryAt s.m n (ring s.m n).head
    left ≠ 0 →
    (∃ t, exec (.sqEntryFetch n burst false) s = .next t
      ∧ (ring t.m n).head = ((ring s.m n).head + min (min 16 (max 1 burst)) left) % size ∧ (ring t.m n).tail = (ring s.m n).tail)
    ∧ (burst ≤ 1 → ∀ r, entryErr s.m n b = some r → findCmd s.m n (fld b 2 2) = none →
      ∃ t, exec (.sqEntryFetch n burst false) s = .next t ∧ t.m.cmds = s.m.cmds ++ [newCmd s.m n s.m.nextId b .retired]
        ∧ (ring t.m n).waiting = (ring s.m n).waiting ++ [cmdEntry true (fld b 2 2) 2 r 0 s.clk.sid])
    ∧ (burst ≤ 1 → entryErr s.m n b = none → findCmd s.m n (fld b 2 2) = none → fld b 1 1 % 2 = 0 →
      ∃ t, exec (.sqEntryFetch n burst false) s = .next t ∧ t.m.cmds = s.m.cmds ++ [newCmd s.m n s.m.nextId b .waiting]
        ∧ (ring t.m n).waiting = (ring s.m n).waiting))

/-- CQ_ENTRY_WRITE puts the oldest waiting entry at the tail in host memory, frees its TAG and flips
PHASE at the wrap, and stops a ring whose recorded head is invalid; CQ_INTERRUPT_DELAY sends the message of entries that no message covers yet.
NOP completes OK. XLAT_INVALIDATE waits for the accesses in flight at its start, and the partition's cached
translations are gone once its entry is written. ABORT completes a command that has not started with
ABORTED, and is refused where there is none. -/
def Obligations.CompletionsWritten : Prop :=
  ((∀ (n : RingId) (x : CqEntry) (rest : List CqEntry) (s : State), (ring s.m n).waiting = x :: rest → cqEn s.m n = true →
    (ring s.m n).cqBell = none → cqFull s.m n = false → (∀ a ∈ s.m.cmds, a.op ≠ 1) →
    let r := ring s.m n
    let a := hostBase + (regF s.m (rCq n) 12 52 * 4096 + 16 * r.cqTail)
    ∃ t, exec (.cqEntryWrite n false) s = .next t
      ∧ peeks t.m.mem a 16 = entryBytes x r.head r.cqPhase
      ∧ (∀ y, (y < a ∨ a + 16 ≤ y) → peek t.m.mem y = peek s.m.mem y)
      ∧ (ring t.m n).waiting = rest ∧ (ring t.m n).cqTail = (r.cqTail + 1) % cqSize s.m n
      ∧ (ring t.m n).cqPhase = (if (r.cqTail + 1) % cqSize s.m n = 0 then !r.cqPhase else r.cqPhase)
      ∧ (x.own = true → findCmd t.m n x.tag.toNat = none) ∧ (x.own = false → t.m.cmds = s.m.cmds))
  ∧ (∀ (n : RingId) (h : Nat) (s : State), (ring s.m n).cqBell = some h → badHead s.m n h = true → msLevel s.m ≤ 1 →
    hnBusy s.m = false → (ring s.m n).waiting = [] →
    ∃ t, exec (.cqEntryWrite n false) s = .next t ∧ cqEn t.m n = false ∧ (ring t.m n).cqReason = 0x14)
  ∧ (∀ (n : RingId) (at_ : Nat) (s : State), (ring s.m n).oldest = some at_ →
    let d := regF s.m (rCq n + 0x10) 48 16
    let vec := regF s.m (rCq n + 0x10) 16 11
    d ≠ 0 → at_ + 1600 * d ≤ s.clk.now → sget false s.m.hub.masked (2048 * cqOwner s.m n + vec) = false →
    ∃ t, exec (.cqInterruptDelay n) s = .next t ∧ t.m.out = s.m.out ++ [.msix (cqOwner s.m n) vec]
      ∧ ring t.m n = { ring s.m n with since := 0, oldest := none }))
  ∧ (∀ (sq : RingId) (tag : BitVec 16) (c : Cmd) (s : State),
    (cmdReady s sq tag 0x00 c → SettlesAll s (exec (.nopCommand sq tag) s) fun u => answered s.m u sq tag 0 0 s.clk.sid ∧ u.mem = s.m.mem ∧ u.eng = s.m.eng)
    ∧ (∀ k, cmdReady s sq tag 0x02 c → c.part = some k → SettlesAll s (exec (.xlatInvalidate sq tag) s) fun u =>
      (∃ d, findCmd u sq tag.toNat = some d ∧ d.st = .started ∧ d.works = inFlight s.m k) ∧ u.mem = s.m.mem)
    ∧ (∀ k x rest, (ring s.m sq).waiting = x :: rest → x.own = true → x.status = 0 → x.tag = tag → findCmd s.m sq tag.toNat = some c →
      c.op = 0x02 → c.part = some k → cqEn s.m sq = true → (ring s.m sq).cqBell = none → cqFull s.m sq = false →
      ∃ t, exec (.cqEntryWrite sq false) s = .next t ∧ (partSt t.m k).xlat = [])
    ∧ (∀ (sq' : RingId) (tag' : BitVec 16) d, cmdReady s sq tag 0x01 c → carg c 0x10 2 = sq'.val → carg c 0x12 2 = tag'.toNat →
      sqOwner s.m sq' = c.func → findCmd s.m sq' tag'.toNat = some d → d.st = .waiting → d.op ≠ 0x01 →
      SettlesAll s (exec (.abort sq tag) s) fun u => answered s.m u sq' tag' 1 0 s.clk.sid
        ∧ ∃ a, findCmd u sq tag.toNat = some a ∧ a.st = .started)
    ∧ (cmdReady s sq tag 0x01 c → findCmd s.m (carg c 0x10 2) (carg c 0x12 2) = none →
      SettlesAll s (exec (.abort sq tag) s) fun u => answered s.m u sq tag 2 0x1A s.clk.sid))

/-! ## Commands of the rings -/

/-- The commands of programs: PROGRAM_LOAD installs a checked program and reports its PROGRAM_ID beside the
entry (log 69), PROGRAM_START puts each task at
instruction 0 of its section with its counters cleared, PROGRAM_UNLOAD frees it, CHAIN_START starts a
CHAIN of it, DMA puts its run on the driver's queue of its engine. -/
def Obligations.ProgramCommands : Prop :=
  ∀ (sq : RingId) (tag : BitVec 16) (c : Cmd) (k : Nat) (s : State), c.part = some k →
    (∀ m1 m2 b map l x y, cmdReady s sq tag 0x10 c → (partSt s.m k).prog = none →
      ((partDies s.m (sqPart s.m sq)).any fun d => svcRuns s.m 1 3 d) = false →
      readMem s.clk (markStarted c s.m) (cmdReq c) (carg c 0x10 8) (carg c 0x18 8) .clean = (m1, .ok (b, x)) →
      readMem s.clk m1 (cmdReq c) (carg c 0x20 8) (4 * carg c 0x28 4) .clean = (m2, .ok (map, y)) →
      checkLoad m2 k (carg c 0x18 8) (carg c 0x28 4) b map = .ok l →
      SettlesAll s (exec (.programLoad sq tag) s) fun u =>
        answered s.m u sq tag 0 0 s.clk.sid ∧ (partSt u k).prog = some (newProgram m2 k l)
        ∧ u.out = m2.out ++ [.programId sq.val tag.toNat (BitVec.ofNat 64 (fld b 0x18 8))])
    ∧ (∀ p, cmdReady s sq tag 0x10 c → (partSt s.m k).prog = some p →
      ((partDies s.m (sqPart s.m sq)).any fun d => svcRuns s.m 1 3 d) = false →
      SettlesAll s (exec (.programLoad sq tag) s) fun u => answered s.m u sq tag 2 0x8C s.clk.sid ∧ (partSt u k).prog = some p)
    ∧ (∀ p, cmdReady s sq tag 0x11 c → (partSt s.m k).prog = some p → p.started = false → p.taskIds.Nodup →
      SettlesAll s (exec (.programStart sq tag) s) fun u =>
        (partSt u k).prog = some { p with started := true, cmd := some (sq.val, tag.toNat) }
        ∧ ∀ x ∈ p.tasks.zip p.taskIds,
            let y := ctx u (x.2 / 4) (x.2 % 4)
            y.st = .ready ∧ y.part = k ∧ y.pc = 0 ∧ y.ctr = [] ∧ y.lt = 0 ∧ y.loops = []
            ∧ ∀ z, (sections p.bytes)[x.1.section_]? = some z → y.stream = words (sectBytes p.bytes z))
    ∧ (∀ p, cmdReady s sq tag 0x12 c → (partSt s.m k).prog = some p → running p = false → chainsRun s.m k = false →
      SettlesAll s (exec (.programUnload sq tag) s) fun u => answered s.m u sq tag 0 0 s.clk.sid ∧ (partSt u k).prog = none)
    ∧ (∀ r, cmdReady s sq tag 0x13 c → chainRec s.m k (carg c 0x10 2) = some r → chainRunning s.m k (carg c 0x10 2) = false →
      SettlesAll s (exec (.chainStart sq tag) s) fun u => ∃ y ∈ (partSt u k).chains, y.rec_ = carg c 0x10 2
        ∧ y.cmd = some (sq.val, tag.toNat) ∧ y.stopped = false ∧ y.stages.length = r.stages.length)
    ∧ (cmdReady s sq tag 0x20 c → c.st = .waiting → (dmaq (engine s.m (carg c 0x10 1)) 8).runs.length < 256 →
      SettlesAll s (exec (.dma sq tag) s) fun u => ∃ r, (dmaq (engine u (carg c 0x10 1)) 8).runs = (dmaq (engine s.m (carg c 0x10 1)) 8).runs ++ [r]
        ∧ r.cmd = some (sq.val, tag.toNat) ∧ r.base = BitVec.ofNat 64 (carg c 0x18 8) ∧ r.next = 0 ∧ r.left = carg c 0x20 2
        ∧ ∃ d, findCmd u sq tag.toNat = some d ∧ d.works = [r.id])

/-- LAYOUT_LOAD makes its image the pending layout; EPOCH_ADVANCE makes the pending layout current and
the current one previous; PHASE_LOAD writes its image into a bank that nothing uses, and is held, behind
those already held, while packets of the bank are under way, until PHASE_LOAD_RELEASE. -/
def Obligations.ImageCommands : Prop :=
  ∀ (sq : RingId) (tag : BitVec 16) (c : Cmd) (s : State),
    (∀ m1 m2 h es x y, cmdReady s sq tag 0x30 c →
      readMem s.clk (markStarted c s.m) (cmdReq c) (carg c 0x10 8) 0x900 .clean = (m1, .ok (h, x)) → fld h 4 4 ≠ 0 → fld h 4 4 ≤ 4194304 →
      readMem s.clk m1 (cmdReq c) (carg c 0x10 8 + 0x900) (64 * fld h 4 4) .clean = (m2, .ok (es, y)) →
      layoutBad m2 (h ++ es) (readLayout (cpart c) (h ++ es)) = false →
      SettlesAll s (exec (.layoutLoad sq tag) s) fun u => u.xch.pending = some (readLayout (cpart c) (h ++ es))
        ∧ u.xch.current = s.m.xch.current ∧ answered s.m u sq tag 0 0 s.clk.sid)
    ∧ (cmdReady s sq tag 0x31 c → s.m.xch.future = [] → SettlesAll s (exec (.epochAdvance sq tag) s) fun u =>
      u.xch.current = s.m.xch.pending ∧ u.xch.previous = s.m.xch.current ∧ u.xch.pending = none ∧ u.xch.advancing = otherAdvance s.m c
      ∧ (∀ r ∈ u.xch.rounds, ∀ l, s.m.xch.previous = some l → r.epoch ≠ l.epoch) ∧ answered s.m u sq tag 0 0 s.clk.sid)
    ∧ (cmdReady s sq tag 0x32 c →
      let b := carg c 0x10 1
      bankNamed s.m b = false →
      (bankCount s.m b ≠ 0 ∨ phaseHeld s.m b = true → SettlesAll s (exec (.phaseLoad sq tag) s) fun u =>
        bank u b = { bank s.m b with heldBy := (bank s.m b).heldBy ++ [(sq.val, tag.toNat)] })
      ∧ ∀ m1 m2 h es x y, bankCount s.m b = 0 → phaseHeld s.m b = false →
        readMem s.clk (modBank (markStarted c s.m) b fun x => { x with heldBy := x.heldBy.filter (· != (c.sq, c.tag)) }) (cmdReq c) (carg c 0x18 8) 0x4100 .clean = (m1, .ok (h, x)) →
        readMem s.clk m1 (cmdReq c) (carg c 0x18 8 + 0x4100) (32 * min 4096 (fld h 4 2)) .clean = (m2, .ok (es, y)) →
        phaseBad (h ++ es) = false →
        SettlesAll s (exec (.phaseLoad sq tag) s) fun u =>
          bank u b = { readBank (h ++ es) with heldBy := (bank m2 b).heldBy } ∧ answered s.m u sq tag 0 0 s.clk.sid)
    ∧ (∀ (b : Fin 4) m1 m2 h es x y rest, (bank s.m b).heldBy = (sq.val, tag.toNat) :: rest → findCmd s.m sq tag.toNat = some c → c.st = .started →
      c.fault = none → c.fallback = false → bankCount s.m b = 0 →
      readMem s.clk (modBank s.m b fun x => { x with heldBy := x.heldBy.filter (· != (c.sq, c.tag)) }) (cmdReq c) (carg c 0x18 8) 0x4100 .clean = (m1, .ok (h, x)) →
      readMem s.clk m1 (cmdReq c) (carg c 0x18 8 + 0x4100) (32 * min 4096 (fld h 4 2)) .clean = (m2, .ok (es, y)) →
      phaseBad (h ++ es) = false →
      SettlesAll s (exec (.phaseLoadRelease b) s) fun u => bank u b = { readBank (h ++ es) with heldBy := (bank m2 b).heldBy } ∧ answered s.m u sq tag 0 0 s.clk.sid)

/-- The breakpoint commands, under an unlock of the partition: BREAK arms at its engine, BP_CLEAR ends
one that has not hit, HALT stops issue on its engine and HALT_COMPLETE marks it halted once quiet, RESUME
lets it issue again, SLOT_DUMP writes the slot of a halted engine. Without an unlock each is refused. -/
def Obligations.DebugCommands : Prop :=
  (∀ row ∈ [(Instr.slotDump, 0x40), (Instr.breakCmd, 0x41), (Instr.bpClear, 0x42), (Instr.halt, 0x43), (Instr.resume, 0x44)],
    ∀ (sq : RingId) (tag : BitVec 16) (c : Cmd) (s : State), cmdReady s sq tag row.2 c → unlocked s.clk s.m (cpart c) = false →
    SettlesAll s (exec (row.1 sq tag) s) fun u => answered s.m u sq tag 2 0x73 s.clk.sid ∧ u.eng = s.m.eng ∧ u.mem = s.m.mem)
  ∧ (∀ (sq : RingId) (tag : BitVec 16) (c : Cmd) (s : State), unlocked s.clk s.m (cpart c) = true →
    let g := carg c 0x11 1
    (cmdReady s sq tag 0x41 c → carg c 0x10 1 ≠ 1 → (engine s.m g).breaks.length < 8 →
      SettlesAll s (exec (.breakCmd sq tag) s) fun u => (engine u g).breaks = (engine s.m g).breaks ++ [newBrk c])
    ∧ (∀ b d, cmdReady s sq tag 0x42 c → ((allBrks s.m).find? fun b => b.sq == carg c 0x10 2 && b.tag == carg c 0x12 2) = some b →
      b.hit = none → findCmd s.m b.sq b.tag = some d → d.part = c.part → ¬ (d.sq = c.sq ∧ d.tag = c.tag) →
      SettlesAll s (exec (.bpClear sq tag) s) fun u => (∀ y ∈ (engine u b.target).breaks, ¬ (y.sq = b.sq ∧ y.tag = b.tag))
        ∧ (∃ a, findCmd u b.sq b.tag = some a ∧ a.st = .retired) ∧ ∃ a, findCmd u sq tag.toNat = some a ∧ a.st = .retired)
    ∧ (cmdReady s sq tag 0x43 c → g ≠ 0xFF → (engine s.m g).halt = .running → (∀ b ∈ allBrks s.m, brkDone s.m b = false) →
      (∀ d ∈ s.m.cmds, d.op ≠ 0x43 ∨ (d.sq = sq.val ∧ d.tag = tag.toNat)) →
      SettlesAll s (exec (.halt sq tag) s) fun u => (engine u g).halt = .halting
        ∧ (∀ i < 4, (ctx u g i).accepted = none) ∧ ∀ h, h ≠ g → engine u h = engine s.m h)
    ∧ (cmdReady s sq tag 0x44 c → g ≠ 0xFF → (engine s.m g).halt = .halted →
      SettlesAll s (exec (.resume sq tag) s) fun u => (engine u g).halt = .running ∧ (engine u g).active = (engine s.m g).active
        ∧ answered s.m u sq tag 0 0 s.clk.sid)
    ∧ (∀ m1, cmdReady s sq tag 0x40 c → (engine s.m (carg c 0x10 1)).halt = .halted →
      writeMem s.clk (markStarted c s.m) (cmdReq c) (carg c 0x18 8) (dumpSlot s.m (carg c 0x10 1) (carg c 0x11 1) (carg c 0x12 1)) false .clean
        = (m1, none) →
      SettlesAll s (exec (.slotDump sq tag) s) fun u => u.mem = m1.mem ∧ answered s.m u sq tag 0 0 s.clk.sid))
  ∧ (∀ (e : Eng) (s : State), (engine s.m e).halt = .halting → haltQuiet s.m e = true → allBrks s.m = [] →
    SettlesAll s (exec (.haltComplete e) s) fun u => (engine u e).halt = .halted ∧ sget 0 u.wdog e = s.clk.now)

/-- GATHER_RUN waits for a busy engine, and one that opens a region for the FW_ACTIVATE of its tier die; a run without
region takes its record and occupies the gather engine; GATHER_RUN_END of a run without streams or region writes the result, 256 bytes, and frees the engine. -/
def Obligations.GatherRuns : Prop :=
  (∀ (sq : RingId) (tag : BitVec 16) (c : Cmd) (m1 : Mod) (b : List Byte) (x : Bool) (s : State), cmdReady s sq tag 0x21 c →
    let d := carg c 0x10 1
    ((gatherOf s.m d).busy = true ∨ (svcRuns s.m 1 6 d = true ∧ opensRegion s.clk s.m c = true) → SettlesAll s (exec (.gatherRun sq tag) s) fun u => u = s.m)
    ∧ ((gatherOf s.m d).busy = false → (svcRuns s.m 1 6 d && opensRegion s.clk s.m c) = false →
    readMem s.clk (markStarted c s.m) (cmdReq c) (carg c 0x18 8) 320 .clean = (m1, .ok (b, x)) → recordBad b = false → fld b 0 8 = 0 →
    SettlesAll s (exec (.gatherRun sq tag) s) fun u =>
      gatherOf u d = { id := m1.nextId, busy := true, sq := sq.val, tag := tag.toNat, region := none, sealD := fld b 0xC 2, record := b }
        ∧ u.mem = s.m.mem))
  ∧ (∀ (d : Tier) (c : Cmd) (m1 : Mod) (s : State),
    let g := gatherOf s.m d
    g.busy = true → findCmd s.m g.sq g.tag = some c → c.st = .started → c.fault = none → c.fallback = false → g.region = none → g.stop = none →
    (∀ i < 4, (readStream g.record i).kind = 0) →
    writeMem s.clk (modGather s.m d fun _ => {}) (cmdReq c) (carg c 0x20 8) (gatherResult g) false .clean = (m1, none) →
    SettlesAll s (exec (.gatherRunEnd d) s) fun u => gatherOf u d = {} ∧ u.mem = m1.mem
      ∧ ∃ y, findCmd u g.sq g.tag = some y ∧ y.st = .retired)

/-- The phases of a SCRUB: it stands in the partition in phase 1, no unlock of the partition left; once the
partition is quiet its cached translations, CHAINs and sync objects are gone and phase 2 begins; once its streams
are closed phase 3 overwrites the tier; each unit's overwrite leaves its lines zero, returns its leave and is no
longer under way; at the end the partition is disabled, its program, keys and regions gone, and the SCRUB completes. -/
def Obligations.ScrubPhases : Prop :=
  (∀ (sq : RingId) (tag : BitVec 16) (c : Cmd) (s : State), cmdReady s sq tag 0x50 c → scrubErr s.m (carg c 0x10 1) = none → c.part = none →
    carg c 0x10 1 < 8 → SettlesAll s (exec (.scrub sq tag) s) fun u => ∃ x, (partSt u (carg c 0x10 1)).scrub = some x ∧ x.phase = .quiesce ∧ x.sq = sq.val ∧ x.tag = tag.toNat
        ∧ ∀ y ∈ u.sec.unlocks, y.part ≠ some (carg c 0x10 1))
  ∧ (∀ (k : Part) (x : Scrub) (s : State), (partSt s.m k).scrub = some x → s.m.pwr.tripped = false →
    (x.phase = .quiesce → partQuiet s.m k = true → SettlesAll s (exec (.scrubQuiesceEnd k) s) fun u =>
      (∃ y, (partSt u k).scrub = some y ∧ y.phase = .streams) ∧ (partSt u k).xlat = [] ∧ (partSt u k).chains = []
        ∧ ∀ y ∈ u.sync, (partDies s.m k).contains (y.1 / 16384) = false)
    ∧ (x.phase = .streams → (∀ y ∈ partSlots s.m k, isOpen (strm s.m y.1 y.2).st = false) →
      SettlesAll s (exec (.scrubStreamsEnd k) s) fun u => ∃ y, (partSt u k).scrub = some y ∧ y.phase = .overwrite
        ∧ y.going = x.going ++ (unitsOf s.m k).filter fun u => decide (16 ≤ u))
    ∧ (x.phase = .overwrite → x.going = [] → Links s (exec (.scrubOverwriteEnd k) s) fun u =>
      (partSt u k).scrub = none ∧ (partSt u k).prog = none ∧ (partSt u k).keyGen = none ∧ partEn u k = false
      ∧ (∀ y ∈ u.regions, y.2.part ≠ k.val)
      ∧ ∀ c, findCmd s.m x.sq x.tag = some c → c.st = .started → ∃ d, findCmd u x.sq x.tag = some d ∧ d.st = .retired))
  ∧ (∀ (u : Fin 20) (k : Nat) (x : Scrub) (s : State), overwriting s.m u = some k → (partSt s.m k).scrub = some x →
    SettlesAll s (exec (.overwriteEnd u []) s) fun v =>
      (∀ a, unitHolds s.m k u a = true → peek v.mem a = 0) ∧ (∀ a, unitHolds s.m k u a = false → peek v.mem a = peek s.m.mem a)
      ∧ sget 0 (gov v (unitGov u)).grants (scrubId k u) = 0
      ∧ ∃ y, (partSt v k).scrub = some y ∧ y.going = x.going.erase u.val)

/-! ## The host port and its registers -/

/-- The enables: MODULE_CTRL, PART_CTRL, SQ_CTRL and CQ_CTRL set EN when their check passes, and stand
with the reason of the first that fails otherwise; a partition that is enabled draws its keys. -/
def Obligations.EnablesChecked : Prop :=
  (∀ (f : Func) (v : W64) (s : State), writable s.m f rHubModuleCtrl = true →
    (bit v.toNat 0 = true → moduleEn s.m = false → ∃ t, exec (.moduleEnable f v) s = .next t ∧ t.clk = s.clk
      ∧ (moduleErr s.m = none → moduleEn t.m = true ∧ t.m.hub.reason = 0)
      ∧ ∀ r, moduleErr s.m = some r → moduleEn t.m = false ∧ t.m.hub.reason = r)
    ∧ ((∀ k < 8, partEn s.m k = false) → ∃ t, exec (.moduleDisable f) s = .next t ∧ moduleEn t.m = false)
    ∧ (∀ k < 8, partEn s.m k = true → exec (.moduleDisable f) s = .next s))
  ∧ (∀ (f : Func) (k : Part) (v : W64) (s : State), writable s.m f (rPart k) = true → (partSt s.m k).scrub = none →
    partEn s.m k = false → bit v.toNat 0 = true →
    let m1 := storeFields f (rPart k) v.toNat s.m
    ∃ t, exec (.partEnable f k v) s = .next t
      ∧ (partErr m1 k = none → partEn t.m k = true ∧ (partSt t.m k).reason = 0 ∧ (partSt t.m k).keyGen = some s.m.sec.keys
          ∧ t.m.sec.keys = s.m.sec.keys + 1 ∧ (partSt t.m k).integrity = 0)
      ∧ ∀ r, partErr m1 k = some r → partEn t.m k = false ∧ (partSt t.m k).reason = r ∧ (partSt t.m k).keyGen = (partSt s.m k).keyGen)
  ∧ (∀ (f : Func) (n : RingId) (v : W64) (s : State), bit v.toNat 0 = true →
    (writable s.m f (rSq n + 0x10) = true → sqEn s.m n = false →
      let m1 := storeReg f (rSq n + 0x10) v.toNat s.m
      ∃ t, exec (.sqEnable f n v) s = .next t
        ∧ (sqErr m1 n = none → sqEn t.m n = true ∧ (ring t.m n).head = 0 ∧ (ring t.m n).tail = 0 ∧ (ring t.m n).reason = 0)
        ∧ ∀ r, sqErr m1 n = some r → sqEn t.m n = false ∧ (ring t.m n).reason = r)
    ∧ (writable s.m f (rCq n + 0x10) = true → cqEn s.m n = false →
      let m1 := storeReg f (rCq n + 0x10) v.toNat s.m
      ∃ t, exec (.cqEnable f n v) s = .next t
        ∧ (cqErr m1 n = none → cqEn t.m n = true ∧ (ring t.m n).cqHead = 0 ∧ (ring t.m n).cqTail = 0 ∧ (ring t.m n).cqPhase = true)
        ∧ ∀ r, cqErr m1 n = some r → cqEn t.m n = false ∧ (ring t.m n).cqReason = r))

/-- REGISTER_WRITE of a plain register stores its fields and changes nothing else; one that is no
aligned access of 4 or 8 bytes is an Unsupported Request with ACCESS 0x1E. A configuration request is
answered once the firmware runs. -/
def Obligations.RegistersWritten : Prop :=
  (∀ off ∈ [0x30, 0x68, 0x70, 0x300020, 0x300028, 0x400100, 0x600058], ∀ (f : Func) (v : W64) (s : State),
    writable s.m f off = true → hnUp s.m = true → hnBusy s.m = false →
    Links s (exec (.registerWrite f off 8 v) s) fun u => u = storeFields f off v.toNat s.m
      ∧ (off = 0x30 → regF u rHubBar4Base 30 19 = bits v.toNat 30 19) ∧ ∀ o, o ≠ off → reg u o = reg s.m o)
  ∧ (∀ (f : Func) (off size : Nat) (v : W64) (s : State), hnUp s.m = true → hnBusy s.m = false → vfLive s.m f = true →
    ¬ ((size = 4 ∨ size = 8) ∧ off % size = 0) → Links s (exec (.registerWrite f off size v) s) fun u =>
      u.bar0 = s.m.bar0 ∧ u.out = s.m.out ++ [.aerUR f.val] ∧ (flog u logHN).last.typ = fAccess ∧ (flog u logHN).last.reason = 0x1E)
  ∧ (∀ (f : Func) (s : State), s.m.hub.input = true → s.m.hub.perst = false → s.m.hub.booted = true →
    exec (.configurationRequest f) s = .next { s with m := emit (.cfgAnswer f.val) s.m })
  ∧ (∀ (f : Func) (s : State), s.m.hub.input = true → s.m.hub.perst = false → s.m.hub.booted = false →
    exec (.configurationRequest f) s = .next { s with m := emit (.cfgRetry f.val) s.m })

/-- BAR4 reads and writes the window of its function; an access that power, a scrub, the map or bound
content bars is refused, and logged by HN. -/
def Obligations.Bar4Serves : Prop :=
  (∀ (f : Func) (off n : Nat) (ecc : Ecc) (s : State), hnUp s.m = true → vfLive s.m f = true → off + n ≤ bar4Bytes f →
    let a := bar4Base s.m f + off
    (∀ m1 bs bad, bar4Err s.m f a n = none → readMem s.clk s.m (reqOf s.m (.host f)) a n ecc = (m1, .ok (bs, bad)) →
      Settles s (exec (.bar4Read f off n ecc) s) fun u => u.out = s.m.out ++ [.readData f.val bs bad] ∧ ∀ y, peek u.mem y = peek s.m.mem y)
    ∧ ∀ r, bar4Err s.m f a n = some r → Settles s (exec (.bar4Read f off n ecc) s) fun u =>
        u.out = s.m.out ++ [if r = 0x74 then .readCA f.val else .readUR f.val] ∧ u.mem = s.m.mem
        ∧ (flog u logHN).last.typ = fAccess ∧ (flog u logHN).last.reason = r)
  ∧ (∀ (f : Func) (off : Nat) (data : List Byte) (ep b : Bool) (p : Place) (m1 : Mod) (s : State), hnUp s.m = true → vfLive s.m f = true →
    off + data.length ≤ bar4Bytes f →
    let a := bar4Base s.m f + off
    (bar4Err s.m f a data.length = none → data ≠ [] → a % 256 + data.length ≤ 256 → writeHeld s.m (reqOf s.m (.host f)) a data.length = false →
      spanCheck s.m (reqOf s.m (.host f)) true a = .ok (p, b) → (∀ i o, p ≠ .sync i o) →
      writeMem s.clk s.m (reqOf s.m (.host f)) a data ep .clean = (m1, none) →
      Settles s (exec (.bar4Write f off data ep) s) fun u => peeks u.mem (cellAddr p) data.length = data ∧ u.out = s.m.out
        ∧ ∀ y, (y < cellAddr p ∨ cellAddr p + data.length ≤ y) → peek u.mem y = peek s.m.mem y)
    ∧ ∀ r, bar4Err s.m f a data.length = some r → Settles s (exec (.bar4Write f off data ep) s) fun u =>
        u.out = s.m.out ++ [.aerUR f.val] ∧ u.mem = s.m.mem ∧ (flog u logHN).last.reason = r)

/-- Servicing: STAGE puts a verified image into the inactive bank, COMMIT fuses the running version; the
service operations check their unit and occupy their slot; SERVICE_OPERATION_END reports the result,
and an activation of the last unit makes the staged bank the active one. -/
def Obligations.ServiceRuns : Prop :=
  (∀ (f : Func) (v : W64) (s : State), s.m.hub.fwBusy = false →
    let k := bits v.toNat 8 3
    let img := hostRead s.m (regN s.m rHubFwImage) (regF s.m rHubFwLen 0 32)
    (writable s.m f 0x78 = true → k ≤ 5 → bits v.toNat 0 4 = 1 → ∃ t, exec (.stage f v) s = .next t
      ∧ (imageErr (fwKind s.m k) img = none → fwKind t.m k = stageKind img (fwKind s.m k) ∧ t.m.hub.fwReason = 0)
      ∧ ∀ r, imageErr (fwKind s.m k) img = some r → t.m.hub.fw = s.m.hub.fw ∧ t.m.hub.fwReason = r)
    ∧ (writable s.m f 0x78 = true → k ≤ 5 → bits v.toNat 0 4 = 2 → s.m.hub.recovery = false → ∃ t, exec (.commit f v) s = .next t
      ∧ fwKind t.m k = { fwKind s.m k with fused := max (fwKind s.m k).fused (fwKind s.m k).runVer }))
  ∧ (∀ row ∈ [(Instr.fwActivate, 1), (Instr.recal, 3), (Instr.regSet, 4)], ∀ (f : Func) (slot : Fin 16) (v : W64) (s : State),
    let c := readSvc v.toNat
    writable s.m f (0x100 + 0x10 * slot.val) = true → c.op = row.2 → opFits c.op c.kind = true → (svcOf s.m slot).busy = false →
    ∃ t, exec (row.1 f slot v) s = .next t
      ∧ (svcErr s.clk s.m c = none → svcOf t.m slot = { busy := true, done := false, reason := 0, op := c.op, kind := c.kind, index := c.index }
          ∧ (row.2 = 4 → sget 0 t.m.hub.rails c.index = BitVec.ofNat 32 c.setting))
      ∧ ∀ r, svcErr s.clk s.m c = some r → (svcOf t.m slot).busy = false ∧ (svcOf t.m slot).done = true ∧ (svcOf t.m slot).reason = r)
  ∧ (∀ (f : Func) (slot : Fin 16) (v : W64) (s : State),
    let c := readSvc v.toNat
    writable s.m f (0x100 + 0x10 * slot.val) = true → c.op = 2 → opFits c.op c.kind = true → (svcOf s.m slot).busy = false →
    svcErr s.clk s.m c = none → Links s (exec (.retrain f slot v) s) fun u =>
      svcOf u slot = { busy := true, done := false, reason := 0, op := 2, kind := c.kind, index := c.index }
      ∧ (c.kind = 7 → portEn s.m c.index = true → (port u c.index).st = .training ∧ (port u c.index).since = s.clk.now))
  ∧ (∀ (slot : Fin 16) (result : Byte) (s : State), reasonOk result = false → exec (.serviceOperationEnd slot result) s = .next s)
  ∧ (∀ (slot : Fin 16) (result : Byte) (s : State), (svcOf s.m slot).busy = true → reasonOk result = true →
    let x := svcOf s.m slot
    let k := fwKind s.m (x.kind - 1)
    ∃ t, exec (.serviceOperationEnd slot result) s = .next t ∧ (svcOf t.m slot).busy = false ∧ (svcOf t.m slot).done = true
      ∧ (result ≠ 0 → (svcOf t.m slot).reason = result ∧ t.m.hub.fw = s.m.hub.fw)
      ∧ (result = 0 → x.op = 1 → k.staged = true → bankOk k (!k.activeB) = true → unitCount x.kind ≤ ((x.index :: k.moved).dedup).length →
          (fwKind t.m (x.kind - 1)).activeB = !k.activeB ∧ (fwKind t.m (x.kind - 1)).staged = false
          ∧ (fwKind t.m (x.kind - 1)).runVer = (if k.activeB then k.verA else k.verB) ∧ (svcOf t.m slot).reason = 0))
  ∧ (∀ (f : Func) (v : W64) (s : State), writable s.m f rHubServiceCfg = true →
    ∃ t, exec (.serviceCfgWrite f v) s = .next t ∧ t.m.bar0 = (storeFields f rHubServiceCfg v.toNat s.m).bar0
      ∧ (ageEn s.m = true → ageEn t.m = false → t.m.pwr.rail = [])
      ∧ (ageEn t.m = true → t.m.pwr = s.m.pwr))

/-! ## Power and resets -/

/-- POWER_CMD of each scope with GO: refused with the first reason that applies, its fields stored and nothing else
changed; or the staged limits take effect and the walk to the target begins, which ends at once where it stands at the
target. POWER_WALK_STEP_DONE moves one state towards the target and ends the walk there; where a verification or a
training has failed that this step can fail by, the walk stops and the failing unit and its code are kept. -/
def Obligations.PowerWalks : Prop :=
  (∀ row ∈ [(Instr.powerCmdModule, 0), (Instr.powerCmdDie, 1), (Instr.powerCmdPort, 2), (Instr.powerCmdLimits, 3)],
    ∀ (f : Func) (v : W64) (th : Bool) (s : State), writable s.m f rPwrCmd = true → s.m.hub.recovery = false → bit v.toNat 0 = true →
    regB s.m rPwrCmd 0 = false → s.m.pwr.tripped = false →
    let x := readPower v.toNat
    let m1 := storeFields f rPwrCmd v.toNat s.m
    let w : Walk := { scope := x.scope, unit := x.unit, target := x.target }
    x.scope = row.2 →
    (∀ r, powerErr m1 x th = some r → exec (row.1 f v th) s = .next { s with m := modPwr m1 fun p => { p with reason := r } })
    ∧ (powerErr m1 x th = none → ∃ t, exec (row.1 f v th) s = .next t ∧ t.clk = s.clk
        ∧ t.m.pwr.reason = 0 ∧ t.m.pwr.state = s.m.pwr.state ∧ t.m.pwr.limit = regF s.m rPwrLimit 0 13
        ∧ (∀ u < 22, sget 0 t.m.pwr.budget u = regF s.m (rPwrBudget u) 0 16)
        ∧ (walkAt s.m w ≠ x.target → t.m.pwr.walk = some w ∧ regB t.m rPwrCmd 0 = true)
        ∧ (walkAt s.m w = x.target → t.m.pwr.walk = none ∧ regB t.m rPwrCmd 0 = false)))
  ∧ (∀ (watts : Nat) (w : Walk) (s : State), s.m.pwr.walk = some w → walkAt s.m w ≠ w.target →
    let at_ := (stepOf s.m w).target
    let c := clkEffects s.m (targetMod (stepOf s.m w) s.m) s.clk
    ∃ u, exec (.powerWalkStepDone none watts) s = .next { s with clk := upstreamLost s.m u c, m := settleAll s.clk u }
      ∧ (w.scope = 0 → u.pwr.state = msOf at_)
      ∧ (w.scope = 1 → sget 0 u.pwr.dieCmd w.unit = at_)
      ∧ (w.scope = 2 → sget 0 u.pwr.portCmd w.unit = w.target)
      ∧ (w.scope ≠ 3 → at_ = w.target → w.target ≤ 4 → u.pwr.walk = none ∧ regB u rPwrCmd 0 = false))
  ∧ (∀ (unit : Fin 32) (r : Byte) (watts : Nat) (w : Walk) (s : State), s.m.pwr.walk = some w → stepFails s.m w = true → reasonOk r = true →
    ∃ u, exec (.powerWalkStepDone (some (unit, r)) watts) s = .next { s with clk := upstreamLost s.m u s.clk, m := settleAll s.clk u }
      ∧ u.pwr.state = s.m.pwr.state ∧ u.pwr.walk = none ∧ u.hub.bootFail = some (unit.val, r))

/-- Every module reset leaves the module as reset: no register, program, ring or memory of its own, the
time base off, MS4; host memory, the Almanac and the fuses stay. The log of HN stays too, but for the
input power.
The reset of a VF ends the commands of its rings with no entry, disables those rings and drops its
waiting messages. -/
def Obligations.ModuleResets : Prop :=
  ((∀ (i : Instr) (s : State),
    ((i = .pcieHotReset ∨ i = .pf0Flr) ∨ (i = .perstAssert ∧ s.m.hub.perst = false)
      ∨ (∃ f : Func, i = .moduleResetWrite f ∧ writable s.m f 0x20 = true)
      ∨ (i = .powerOn ∧ s.m.hub.input = false) ∨ (i = .inputPowerLoss ∧ s.m.hub.input = true)) →
    ∃ t, exec i s = .next t ∧ t.clk = { clkReset with now := s.clk.now }
      ∧ t.m.bar0 = [] ∧ t.m.eng = [] ∧ t.m.parts = [] ∧ t.m.rings = [] ∧ t.m.cmds = [] ∧ t.m.regions = [] ∧ t.m.sync = []
      ∧ t.m.hqs = [] ∧ t.m.links = [] ∧ t.m.media = [] ∧ t.m.banks = [] ∧ t.m.gather = []
      ∧ t.m.pwr.state = .ms4 ∧ t.m.pwr.tripped = false ∧ t.m.sec.unlocks = [] ∧ t.m.tripPin = false
      ∧ t.m.pwr.almanac = s.m.pwr.almanac ∧ (∀ k, (fwKind t.m k).fused = (fwKind s.m k).fused)
      ∧ (∀ a, peek t.m.mem a = if hostBase ≤ a then peek s.m.mem a else 0)
      ∧ flog t.m logHN = (if i = .powerOn ∨ i = .inputPowerLoss then {} else flog s.m logHN)
      ∧ t.m.hub.input = (if i = .powerOn then true else if i = .inputPowerLoss then false else s.m.hub.input)
      ∧ t.m.hub.perst = (if i = .perstAssert then true else s.m.hub.perst)
      ∧ t.m.hub.booted = false ∧ t.m.hub.bootAt ≤ s.clk.now + 640000000)
  ∧ (∀ (gen : Fin 8) (width : Fin 17) (s : State), s.m.hub.perst = true →
    ∃ t, exec (.perstDeassert gen width) s = .next t ∧ t.m.hub.perst = false
      ∧ t.m.hub.pcie = (if gen.val = 0 ∨ width.val = 0 then none else some (gen.val, linkWidth width.val))
      ∧ flitMode t.m = decide (6 ≤ gen.val ∧ width.val ≠ 0)))
  ∧ (∀ (k : Part) (s : State), SettlesAll s (exec (.vfReset k) s) fun u =>
    (∀ c ∈ u.cmds, sqOwner s.m c.sq ≠ k.val + 1)
    ∧ (∀ n : RingId, sqOwner s.m n = k.val + 1 → sqEn u n = false)
    ∧ (∀ n : RingId, cqOwner s.m n = k.val + 1 → cqEn u n = false)
    ∧ (∀ x ∈ u.hub.msixPend, x.1 / 2048 ≠ k.val + 1)
    ∧ ∀ a, peek u.mem a = peek s.m.mem a)

/-- A protective trip halts the module at once: its condition with the input on writes one entry to the
log of HN, stops sidereal time and leaves no work and no memory; a halted module does not halt again. -/
def Obligations.ProtectiveTrips : Prop :=
  ∀ (s : State),
    let trips := fun (i : Instr) (cond : Prop) (typ : Byte) (addr : W64) (info : W64) =>
      (s.m.pwr.tripped = true → exec i s = .next s)
      ∧ (cond → s.m.pwr.tripped = false → s.m.hub.input = true → ∃ t, exec i s = .next t
        ∧ t.clk = { clkReset with now := s.clk.now } ∧ t.m.pwr.tripped = true ∧ t.m.tripPin = true ∧ t.m.pwr.walk = none ∧ t.m.eng = []
        ∧ (flog t.m logHN).last.typ = typ ∧ (flog t.m logHN).last.addr = addr ∧ (flog t.m logHN).last.info = info
        ∧ (flog t.m logHN).last.time = s.clk.sid ∧ (flog t.m logHN).count = min 0xFFFFFFFF ((flog s.m logHN).count + 1)
        ∧ (∀ c ∈ t.m.cmds, c.st = .retired) ∧ ∀ a, a < hostBase → peek t.m.mem a = 0)
    (∀ mV, trips (.inputUndervoltage mV) (mV < 34000) fPower (measured 0 mV) 0)
    ∧ (∀ mV, trips (.inputOvervoltage mV) (46000 < mV) fPower (measured 0 mV) 0)
    ∧ (∀ w, trips (.inputOverpower w) (5400 < w) fPower (measured 0 w) 0)
    ∧ (∀ (die : Fin 32) (sensor : Byte) t8, trips (.dieOvertemperature die sensor t8) (880 ≤ t8) fThermal (measured sensor.toNat t8) 0)
    ∧ (∀ (h : Stack) (sensor : Byte) t8, trips (.hbmOvertemperature h sensor t8) (840 ≤ t8) fThermal (measured sensor.toNat t8) 0)
    ∧ (∀ (rail : Byte) mA, trips (.regulatorFault rail mA) True fPower (measured rail.toNat mA) 0)
    ∧ trips .referenceLoss (s.clk.running = true) fClock 0 1
    ∧ trips .pllUnlock (s.clk.running = true) fClock 0 2
    ∧ trips .entropyFailure True fSecurity 0 2

/-- What the module measures of itself: the input, the thermal warning, the Almanac and its rail, the
emergency sample, the refresh rate, and the leave that an idle decode core returns after 1 ms. -/
def Obligations.ModuleMeasures : Prop :=
  ∀ (s : State),
    (∀ mV cur watts, s.m.hub.input = true →
      exec (.inputMeasurement mV cur watts) s = .next { s with m := modPwr s.m fun p => { p with input := (mV, cur, watts) } })
    ∧ (∀ (die : Fin 32) (sensor : Byte) t8, 800 ≤ t8 → die.val ∉ s.m.pwr.hot → ∃ t, exec (.thermalWarn die sensor t8) s = .next t
      ∧ t.m.pwr.twarn = true ∧ die.val ∈ t.m.pwr.hot ∧ (flog t.m (dieLog die).1).last.typ = fThermalWarn
      ∧ (flog t.m (dieLog die).1).last.addr = measured sensor.toNat t8)
    ∧ (∀ (die : Fin 32) (x : MonSample), diePowered s.clk s.m die = true →
      let age := ageEn s.m
      let w := if age then wantedRail die (railOf s.m die) x.worst (slackHigh s.m die) else Config.vEol die
      let sampled := fun (i : Instr) (em : Bool) => ∃ t, exec i s = .next t
        ∧ sget [] t.m.pwr.almanac die
            = (newRecord s.clk s.m die x (min (max w (vminOf s.m die)) (vmaxOf s.m die)) w em :: sget [] s.m.pwr.almanac die).take 8192
        ∧ sget 0 t.m.pwr.rail die = (if age then min (max w (vminOf s.m die)) (vmaxOf s.m die) else 0)
      sampled (.almanacSample die x) false
      ∧ (x.worst < targetOf die - 10 → sampled (.emergencySample die x) true)
      ∧ (¬ x.worst < targetOf die - 10 → exec (.emergencySample die x) s = .next s))
    ∧ (∀ (h : Stack) (mult4 : Byte), dieState s.m h ≠ 3 → ∃ t, exec (.hbmRefreshRateChange h mult4) s = .next t
      ∧ refreshOf t.m h = min mult4.toNat (sget 8 s.m.pwr.refMax h)
      ∧ (sget 8 s.m.pwr.refMax h < mult4.toNat → (flog t.m (logCD h)).last.typ = fPolicyClamp)
      ∧ (mult4.toNat ≤ sget 8 s.m.pwr.refMax h → t.m.logs = s.m.logs))
    ∧ (∀ (d : Media) (core : Fin 8),
      let id := sget 0 (mdie s.m d).coreLeave core
      id ≠ 0 → hasGrant s.m (16 + d.val) id = true → sget 0 (mdie s.m d).coreSince core + 1600000 ≤ s.clk.now →
      ∃ t, exec (.decodeCoreIdle d core) s = .next t ∧ sget 0 (gov t.m (16 + d.val)).grants id = 0
        ∧ sget 0 (mdie t.m d).coreLeave core = 0)

/-! ## Time -/

/-- R250: a steering step changes the increment at one coincidence edge, from 2 to 4 (a forward step) or to 0
(a back step), and at most one step is made in any 4,096 ticks. STEERING_STEP sets the next increment to 4 or 0 and
takes the step off what is left; with nothing left, or while the last step is less than 4,096 ticks old, it does
nothing. An edge adds the increment, which is 2 again after it. The steps towards the 10 MHz input come when no other
is left, and a step of the others moves the count that comparisons with it start from (log 4). -/
def Obligations.SteeringRate : Prop :=
  (∀ s : State, s.clk.running = true → s.clk.load = none → (∀ n, s.clk.lastStep = some n → n + 4096 ≤ s.clk.now) →
    let c := s.clk
    (0 < c.steer → exec .steeringStep s = .next { s with clk := { shiftRef 2 c with incr := 4, steer := c.steer - 1, lastStep := some c.now } })
    ∧ (c.steer < 0 → exec .steeringStep s = .next { s with clk := { shiftRef (-2) c with incr := 0, steer := c.steer + 1, lastStep := some c.now } })
    ∧ (c.steer = 0 → 0 < c.steerRef →
      exec .steeringStep s = .next { s with clk := { c with incr := 4, steerRef := c.steerRef - 1, lastStep := some c.now } })
    ∧ (c.steer = 0 → c.steerRef < 0 →
      exec .steeringStep s = .next { s with clk := { c with incr := 0, steerRef := c.steerRef + 1, lastStep := some c.now } })
    ∧ (c.steer = 0 → c.steerRef = 0 → exec .steeringStep s = .next s))
  ∧ (∀ (s : State) (n : Nat), s.clk.lastStep = some n → s.clk.now < n + 4096 → exec .steeringStep s = .next s)
  ∧ (∀ s : State, s.pending = [] → s.clk.running = true → s.clk.load = none →
    ∃ t, step s = .next t ∧ t.clk.sid = s.clk.sid + BitVec.ofNat 64 s.clk.incr ∧ t.clk.incr = 2)

/-- The commands of sidereal time: a load is refused under SYNC_EN or a pending Transit; SYNC_EN starts
ACQUIRE, or LOCKED at the pod time root, and its end leaves FREERUN; a measurement asks the upstream
partner; the root steers towards the nearest whole second at an edge of 1PPS, and by 160 ticks a cycle of the
10 MHz input; an enabled input that has not been valid for 2 seconds takes LOCKED to HOLDOVER, without steering; an
edge of 1PPS leaves once at a whole second; a read of TIME_NOW latches its high half. -/
def Obligations.TimeCommands : Prop :=
  ∀ (s : State),
    (∀ (f : Func) (v : W64), writable s.m f 0x400008 = true → s.clk.running = true →
      let c := if syncEn s.m ∨ transitPending s.m then { s.clk with refused := true } else { s.clk with load := some v, loadAcq := false }
      exec (.timeLoad f v) s = .next { s with clk := c })
    ∧ (∀ (f : Func) (v : W64), writable s.m f rTimeCtrl = true →
      let m1 := storeFields f rTimeCtrl v.toNat s.m
      (bit v.toNat 0 = true → syncEn s.m = false → ∃ t, exec (.syncEnable f v) s = .next t ∧ syncEn t.m = true
        ∧ t.clk = startSync (timeRoot m1) s.clk ∧ t.clk.sync = (if timeRoot m1 then .locked else .acquire))
      ∧ (bit v.toNat 0 = false → syncEn s.m = true → ∃ t, exec (.syncDisable f v) s = .next t ∧ syncEn t.m = false
        ∧ t.clk = stopSync s.clk ∧ t.clk.sync = .freerun))
    ∧ (syncEn s.m = true → timeRoot s.m = false → s.clk.running = true → s.clk.lastMeas + 65536 ≤ s.clk.now → s.clk.meas = none →
      (port s.m (upstream s.m)).st = .up → ∃ t, exec .timeMeasurement s = .next t
        ∧ t.clk.meas = some { num := s.clk.measNum + 1, t1 := s.clk.sid, t2 := none, t4 := 0 } ∧ t.clk.lastMeas = s.clk.now
        ∧ ∃ x, (port t.m (upstream s.m)).txq = (port s.m (upstream s.m)).txq ++ [x] ∧ x.pkt.typ = 0x02 ∧ x.pkt.arg = s.clk.measNum + 1)
    ∧ (rootWith s.m 3 = true → s.clk.running = true → ∃ t, exec (.ppsInEdge true) s = .next t ∧ t.m = s.m
        ∧ t.clk.steer = stepsFor (toSecond s.clk.sid)
        ∧ t.clk.sync = (if s.clk.sync = .holdover ∧ (if s.clk.extGood = 0 then max 1 s.clk.now else s.clk.extGood) + 16 * second ≤ s.clk.now
            ∧ (rootWith s.m 2 = true → s.clk.refGood ≠ 0 ∧ s.clk.refGood + 16 * second ≤ s.clk.now)
            then .locked else s.clk.sync))
    ∧ (∀ n : Nat, rootWith s.m 2 = true → s.clk.running = true → ∃ t, exec (.ref10mCompare true n) s = .next t ∧ t.m = s.m
        ∧ t.clk.sid = s.clk.sid ∧ t.clk.steer = s.clk.steer
        ∧ (s.clk.ref10m = none → t.clk.ref10m = some (s.clk.sid, 0) ∧ t.clk.steerRef = 0)
        ∧ ∀ base k, s.clk.ref10m = some (base, k) → t.clk.ref10m = some (base, k + n)
            ∧ t.clk.steerRef = stepsFor (160 * ((k + n : Nat) : Int) - (s.clk.sid - base).toInt))
    ∧ (∀ row ∈ [(2, s.clk.refLast), (3, s.clk.ppsLast)], rootWith s.m row.1 = true → s.clk.running = true →
        row.2 + 2 * second ≤ s.clk.now → ∃ t, exec .externalInputLoss s = .next t ∧ t.m = s.m
        ∧ (row.1 = 2 → t.clk.refGood = 0) ∧ (row.1 = 3 → t.clk.extGood = 0)
        ∧ (s.clk.sync = .locked → t.clk.sync = .holdover ∧ t.clk.steer = 0 ∧ t.clk.steerRef = 0)
        ∧ (s.clk.sync ≠ .locked → t.clk.sync = s.clk.sync ∧ t.clk.steer = s.clk.steer))
    ∧ (s.clk.running = true → s.clk.sid.toNat % second = 0 → s.clk.ppsSent = false →
      exec .ppsOutEdge s = .next { s with clk := { s.clk with ppsSent := true }, m := emit (.ppsEdge s.clk.sid) s.m })
    ∧ (hnUp s.m = true → hnBusy s.m = false → ∃ t, exec (.timeNowLowRead 0) s = .next t ∧ t.clk = s.clk
        ∧ (let v := (readReg s.clk s.m 0 0x400000).toNat
           t.m.out = s.m.out ++ [.regRead 0 (BitVec.ofNat 64 (v % 2 ^ 32))] ∧ sget none t.m.hub.nowHigh 0 = some (BitVec.ofNat 32 (v / 2 ^ 32))))

/-! ## Links -/

/-- The states of a port. EN is checked and starts TRAINING, which ends with the best common mode; HELLO
refuses the module's own number and takes the highest common version, with fresh ephemeral secrets; KEYX and REKEY
derive new keys with a trusted peer; a limit, a refusal or a lost lane takes the port down with its reason. -/
def Obligations.PortStates : Prop :=
  ∀ (p : Port) (s : State),
    let l := port s.m p
    let now := s.clk.now
    let down := fun (i : Instr) (r : Byte) => Links s (exec i s) fun u => wentDown u p r ∧ u.mem = s.m.mem
    let becomes := fun (i : Instr) (n : LPort) => Links s (exec i s) fun u => port u p = n ∧ u.mem = s.m.mem ∧ u.logs = s.m.logs
    (∀ (f : Func) (v : W64), writable s.m f (rLport p) = true →
      (bit v.toNat 0 = false → portEn s.m p = true → down (.lportEnable f p v) 0)
      ∧ (bit v.toNat 0 = true → portEn s.m p = false → ∀ r, lportErr s.m p = some r →
        becomes (.lportEnable f p v) { l with reason := r })
      ∧ (bit v.toNat 0 = true → portEn s.m p = false → lportErr s.m p = none →
        Links s (exec (.lportEnable f p v) s) fun u => portEn u p = true
          ∧ port u p = { l with st := .training, reason := 0, since := now, quiesced := false }))
    ∧ (∀ (x : Offering) (ours : BitVec 4), l.st = .training → linkBusy s.m p = false → portScrubs s.m p = false →
      let best := bestMode p (ourRates s.m p &&& x.rates.toNat) (ourWidths s.m p &&& x.widths.toNat) (ourFec s.m p &&& x.fec.toNat)
        (ours.toNat &&& x.lanes.toNat)
      (best = none → Links s (exec (.trainingComplete p x ours) s) fun u => wentDown u p 0x41 ∧ linkEntry s.m u p 3)
      ∧ (∀ r w c, best = some (r, w, c) → Links s (exec (.trainingComplete p x ours) s) fun u =>
        port u p = { l with st := .hello, since := now, rate := r, width := w, fec := c, fragTx := 0, rxMsg := (0, 0, []) }))
    ∧ (l.st = .training → l.since + 160000000 ≤ now →
      Links s (exec (.portStateTimeout p) s) fun u => wentDown u p 0x41 ∧ linkEntry s.m u p 3)
    ∧ (l.st = .hello → l.since + 16000000 ≤ now → down (.portStateTimeout p) 0x42)
    ∧ (l.st = .keying → l.since + 16000000 ≤ now → down (.portStateTimeout p) 0x43)
    ∧ (∀ (n : BitVec 14) (vs : BitVec 3), l.st = .hello → linkBusy s.m p = false → portScrubs s.m p = false →
      (n.toNat = moduleNum s.m → down (.hello p n vs) 0x40)
      ∧ (n.toNat ≠ moduleNum s.m → vs = 0 → down (.hello p n vs) 0x42)
      ∧ (n.toNat ≠ moduleNum s.m → vs ≠ 0 → becomes (.hello p n vs) { l with
          st := .keying, since := now, partner := n, eph := Config.drawBytes s.m.draw 96, fragTx := 0, rxMsg := (0, 0, [])
          version := if bit vs.toNat 2 then 2 else if bit vs.toNat 1 then 1 else 0 }))
    ∧ (∀ (k : PeerKey), linkBusy s.m p = false → portScrubs s.m p = false →
      (l.st = .keying → trusted s.m p k = false → down (.keyx p k) 0x43)
      ∧ (l.st = .keying → trusted s.m p k = true → becomes (.keyx p k) { l with
          st := .up, since := now, peer := k.device, peerSwitch := k.isSwitch, key := sessKeys (initiates s.m l) l.eph k.kx
          prevKey := none, keyphase := false, pseqTx := 0, pseqHi := 0, seen := [], creditTx := creditsAtUp
          eph := [], fragTx := 0, rxMsg := (0, 0, []) })
      ∧ (l.st = .up → l.version = 2 → trusted s.m p k = false → down (.rekey p k) 0x43)
      ∧ (l.st = .up → l.version = 2 → trusted s.m p k = true → becomes (.rekey p k) { l with
          rekeying := false, prevKey := some l.key, keyphase := !l.keyphase, pseqTx := 0, eph := [], fragTx := 0, rxMsg := (0, 0, [])
          key := sessKeys (initiates s.m l) (if l.rekeying then l.eph else Config.drawBytes s.m.draw 96) k.kx }))
    ∧ (∀ f : Func, writable s.m f (rLport p) = true → l.st = .up → l.version = 2 →
      becomes (.rekeyRequest f p) (if l.rekeying then l else
        { l with rekeying := true, eph := Config.drawBytes s.m.draw 96, fragTx := 0, rxMsg := (0, 0, []) }))
    ∧ (∀ lane : Fin 4, (l.st = .up → l.quiesced = false →
        Links s (exec (.laneLoss p lane) s) fun u => wentDown u p 0x4B ∧ linkEntry s.m u p 1)
      ∧ (l.st ≠ .down → l.quiesced = true →
        Links s (exec (.laneLoss p lane) s) fun u => wentDown u p 0x4B ∧ u.logs = s.m.logs))

/-- Segments. A slot carries a CTL segment when one is due, else the segment in turn. A CTL
segment grants credits, and acknowledges or asks for flits again; the sixteenth NAK in a row takes the
port down; a SCRUB segment quiesces it. A received segment with a bad CRC is asked for again; a good one
joins its flit. -/
def Obligations.SegmentsMove : Prop :=
  ∀ (p : Port) (s : State),
    let l := port s.m p
    (l.st = .up → portScrubs s.m p = false → l.sending.any (fun x => x.flit.vc == 0) = false → Links s (exec (.ctlSegmentSend p) s) fun u =>
      u.out = s.m.out ++ [ctlOut p (ctlOf s.m p l)] ∧ (port u p).nak = none ∧ (port u p).slotCount = 0)
    ∧ (l.st ≠ .down → portScrubs s.m p = true → Links s (exec (.ctlSegmentSend p) s) fun u =>
      u.out = s.m.out ++ [ctlOut p scrubCtl])
    ∧ (∀ c : CtlSeg, l.st = .up → portScrubs s.m p = false → c.scrub = false →
      let n := if l.nakFseq = c.ack.toNat ∧ l.nakCount ≠ 0 then l.nakCount + 1 else 1
      (c.nak = false → Links s (exec (.ctlSegment p c) s) fun u =>
        (port u p).unacked = l.unacked.drop (endedBefore l ((c.ack.toNat + 1) % 2048))
        ∧ (∀ v b, c.credits[v]? = some b → sget 0 (port u p).creditTx v = sget 0 l.creditTx v + b.toNat))
      ∧ (c.nak = true → n < 16 → Links s (exec (.ctlSegment p c) s) fun u =>
        (port u p).resend = l.unacked.drop (endedBefore l c.ack.toNat) ∧ (port u p).unacked = (port u p).resend ∧ (port u p).sending = []
        ∧ (port u p).nakFseq = c.ack.toNat ∧ (port u p).nakCount = n ∧ (port u p).retries = min 0xFFFFFFFF (l.retries + 1)
        ∧ (∀ v b, c.credits[v]? = some b → sget 0 (port u p).creditTx v = sget 0 l.creditTx v + b.toNat))
      ∧ (c.nak = true → 16 ≤ n → Links s (exec (.ctlSegment p c) s) fun u => wentDown u p 0x4B ∧ linkEntry s.m u p 2))
    ∧ (l.st = .up → portScrubs s.m p = false → Links s (exec (.scrubSegment p) s) fun u =>
      port u p = { l with quiesced := true, unacked := [], resend := [], sending := [] } ∧ u.logs = s.m.logs)
    ∧ (∀ (tag : W32) (body : List Byte),
      let good := crc16 (toBe 2 (tag.toNat / 65536) ++ slice body 0 64) = tag.toNat % 65536
      let vc := bits tag.toNat 30 2
      let fseq := bits tag.toNat 16 11
      let m0 := fecCount p s.m
      let l := port m0 p
      (good → bit tag.toNat 27 = true → exec (.segmentReceive p tag body) s = exec (.ctlSegment p (readCtl body)) { s with m := m0 })
      ∧ (l.st = .up → portScrubs s.m p = false →
        (¬ good → Links s (exec (.segmentReceive p tag body) s) fun u =>
          (port u p).nak = some (firstOpen l) ∧ (port u p).nakWait = some (firstOpen l) ∧ (port u p).rxFseq = firstOpen l
            ∧ (port u p).rxq = l.rxq)
        ∧ (good → bit tag.toNat 27 = false → l.nakWait = none →
          let l0 := stampFirst s.clk vc (bits tag.toNat 28 2) l
          (∀ l1, addSegment vc (bits tag.toNat 28 2) fseq (slice body 0 64) l0 = some (l1, none) →
            Links s (exec (.segmentReceive p tag body) s) fun u => port u p = l1 ∧ u.logs = s.m.logs)
          ∧ (∀ l1 bs, addSegment vc (bits tag.toNat 28 2) fseq (slice body 0 64) l0 = some (l1, some bs) →
            sget [] l1.rxFlits vc = [] → fld bs 2 1 % 32 ≠ 0 →
            Links s (exec (.segmentReceive p tag body) s) fun u => sget [] (port u p).rxFlits vc = [bs] ∧ u.logs = s.m.logs))))
    ∧ (l.st ≠ .down → portScrubs s.m p = true → ∃ c u, exec (.segmentSlot p) s = .next { s with clk := upstreamLost s.m u c, m := settleAll s.clk u }
        ∧ c = s.clk ∧ u.out = s.m.out ++ [ctlOut p scrubCtl])
    ∧ (l.st = .up →
      let m1 := modPort s.m p slotTick
      let run := fun (P : Clk → Mod → Prop) => ∃ c u, exec (.segmentSlot p) s = .next { s with clk := upstreamLost s.m u c, m := settleAll s.clk u } ∧ P c u
      (portScrubs s.m p = false → ctlDue l = true → run fun c u => c = s.clk ∧ u.out = s.m.out ++ [ctlOut p (ctlOf m1 p (port m1 p))] ∧ (port u p).slotCount = 0)
      ∧ (portScrubs s.m p = false → ctlDue l = false → l.quiesced = false →
        let quiet := portQuiet s.m p
        let pick := chooseFlit m1 quiet p (formAll m1 quiet (port m1 p))
        (pick = none → run fun c u => c = s.clk ∧ u = m1)
        ∧ ∀ l2 x, pick = some l2 → turn l2 = some x → run fun c u =>
          c = (if x.idx = 0 then stampT1 x.flit s.clk else s.clk)
            ∧ (let b := slice x.flit.bytes (64 * x.idx) 64
               u.out = s.m.out ++ [.segment p (segTag x.flit.vc x.idx x.flit.fseq false b) b]) ∧ u.mem = s.m.mem))

/-! ## Packets -/

/-- Packets that arrive in order. SIGNAL reaches its object or is refused and logged, at an
unpowered die as an access refused with 0x37; TIME_REQ is answered
with the time its first segment entered; TIME_RESP and TIME_FOLLOW complete a measurement, its offset and its delay;
WRITE_ACK acknowledges the oldest BULK packets sent to its module. -/
def Obligations.PacketsArrive : Prop :=
  ∀ (p : Port) (k : Packet) (s : State),
    let m1 := takenIn s.m p k
    let part := portPart s.m p
    (oldest s.m p k 0x01 → k.addr.toNat / 2 ^ 18 = moduleNum s.m →
      let d := k.addr.toNat / 2 ^ 14 % 16
      let i := k.addr.toNat % 2 ^ 14
      let o := syncObj s.m d i
      (dieState s.m d ≤ 1 → remoteOk o part k.arg.toNat = true → o.bad = none → Links s (exec (.signal p k) s) fun u =>
        syncObj u d i = signalObj o k.arg.toNat ∧ (∀ j, j ≠ syncKey d i → sget {} u.sync j = sget {} s.m.sync j)
          ∧ u.mem = s.m.mem ∧ port u p = port m1 p)
      ∧ (dieState s.m d ≤ 1 → remoteOk o part k.arg.toNat = false → Links s (exec (.signal p k) s) fun u =>
        u.sync = s.m.sync ∧ u.mem = s.m.mem ∧ port u p = port m1 p ∧ (flog u (logCD d)).last.typ = fSyncRefused
          ∧ (flog u (logCD d)).last.info = BitVec.ofNat 64 k.src.toNat)
      ∧ (2 ≤ dieState s.m d → Links s (exec (.signal p k) s) fun u =>
        u.sync = s.m.sync ∧ u.mem = s.m.mem ∧ port u p = port m1 p ∧ (flog u (logLD (portDie p))).last.typ = fAccess
          ∧ (flog u (logLD (portDie p))).last.reason = 0x37))
    ∧ (oldest s.m p k 0x02 → Links s (exec (.timeReq p k) s) fun u =>
      ∃ x, (port u p).txq = (port s.m p).txq ++ [x] ∧ x.pkt.typ = 0x03 ∧ x.pkt.dst = k.src ∧ x.pkt.arg = k.arg
        ∧ x.pkt.inl = inlineOf [(0x20, toBe 8 (enteredAt p k s.clk s.m).toNat)] ∧ (port u p).creditDue = (port m1 p).creditDue)
    ∧ (∀ y, oldest s.m p k 0x03 → s.clk.meas = some y → y.num.toNat = k.arg.toNat → p.val = upstream s.m → y.t2 = none →
      ∃ t, exec (.timeResp p k) s = .next t
        ∧ t.clk = { s.clk with meas := some { y with t2 := some (inl64 k), t4 := enteredAt p k s.clk s.m } })
    ∧ (∀ n t1 t2 t4, oldest s.m p k 0x04 → s.clk.meas = some { num := n, t1 := t1, t2 := some t2, t4 := t4 } →
      n.toNat = k.arg.toNat → p.val = upstream s.m →
      let off := halfTicks (diff t2 t1 - diff t4 (inl64 k)) - asym s.m p
      let acquires := s.clk.sync = .acquire ∧ s.clk.acqDone = false ∧ transitPending s.m = false
      let inRow := if -4 ≤ off ∧ off ≤ 4 then s.clk.good + 1 else 0
      ∃ t, exec (.timeFollow p k) s = .next t ∧ t.clk.meas = none ∧ t.clk.offset = off
        ∧ t.clk.delay = halfTicks (diff t2 t1 + diff t4 (inl64 k)) ∧ t.clk.sid = s.clk.sid ∧ t.clk.good = inRow
        ∧ (acquires → t.clk.load = some (s.clk.sid + 2 + BitVec.ofInt 64 off) ∧ t.clk.steer = 0)
        ∧ (¬ acquires → t.clk.load = s.clk.load ∧ t.clk.steer = stepsFor off)
        ∧ t.clk.sync = (if 16 ≤ inRow ∧ (s.clk.sync = .acquire ∨ s.clk.sync = .holdover) then .locked else s.clk.sync))
    ∧ (oldest s.m p k 0x07 → Links s (exec (.writeAck p k) s) fun u =>
      u = ackBulk s.clk part k.src.toNat k.arg.toNat m1
      ∧ ∀ b rest x, s.m.bulkOut = b :: rest → b.part = part → b.dst = k.src.toNat → k.arg = 1 → findXfer s.m b.eng b.xfer = some x →
          Config.farRefused s.m.draw = false →
          findXfer u b.eng b.xfer = some { x with acks := x.acks - 1 } ∧ u.bulkOut = rest ∧ u.mem = s.m.mem ∧ u.sync = s.m.sync)

/-- Packets of a layout's epoch: held for the next epoch, dropped and counted outside the current and the
previous, and after 65,536 ticks; else NORM joins the pre-round of its set, NORM_RESULT becomes one of
the latest two, REDUCE and REPORT join the round of their shard; NORM and REDUCE with what arrives for the same at
other ports of the link die. -/
def Obligations.EpochPackets : Prop :=
  ∀ (p : Port) (k : Packet) (s : State),
    let part := portPart s.m p
    let log := logLD (portDie p)
    (∀ row ∈ [(Instr.norm p k, 0x05), (Instr.normResult p k, 0x06), (Instr.reduce p k, 0x10), (Instr.report p k, 0x11)],
      oldest s.m p k row.2 →
      (epochAt s.m k.epoch.toNat = .future → Links s (exec row.1 s) fun u =>
        u.xch.future = s.m.xch.future ++ [(p.val, k, s.clk.now)] ∧ u.mem = s.m.mem ∧ u.xch.rounds = s.m.xch.rounds)
      ∧ (epochAt s.m k.epoch.toNat = .other → Links s (exec row.1 s) fun u =>
        (partSt u part).epochDrop = sat32 ((partSt s.m part).epochDrop + 1) ∧ u.xch = s.m.xch ∧ u.mem = s.m.mem
          ∧ (flog u log).last.typ = fEpochStale ∧ (flog u log).last.addr = BitVec.ofNat 64 k.arg.toNat))
    ∧ (∀ l, epochAt s.m k.epoch.toNat = .current l → l.part = part →
      (∀ n, oldest s.m p k 0x05 → normSetOf l k.arg.toNat = some n → n.rootModule = moduleNum s.m →
        let dn := inl64 k
        let met := (meetNorm p k (takenIn s.m p k)).1
        let v := BitVec.ofNat 32 (ifld met 0x28 4)
        let count := ifld met 0x2C 4
        let occ := ifld met 0x30 4
        let round := s.m.xch.pre.find? fun y => y.set == k.arg.toNat
        let joins := fun (y : PreRound) => Links s (exec (.norm p k) s) fun u =>
          u.xch.pre.find? (fun y => y.set == k.arg.toNat) =
            (if n.nexpect ≤ y.count + count + (y.occ + occ) then none
             else some { y with sum := fadd y.sum v, count := y.count + count, occ := y.occ + occ })
        (round = none → joins { set := k.arg.toNat, d := dn, epoch := l.epoch, sum := 0, count := 0, occ := 0 })
        ∧ (∀ y, round = some y → y.d = dn → joins y)
        ∧ (∀ y, round = some y → y.d.toNat < dn.toNat → Links s (exec (.norm p k) s) fun u =>
          u.xch = s.m.xch ∧ (partSt u part).conflict = sat32 ((partSt s.m part).conflict + 1))
        ∧ (∀ y, round = some y → dn.toNat < y.d.toNat → Links s (exec (.norm p k) s) fun u =>
          u.xch = s.m.xch ∧ (partSt u part).staleRound = sat32 ((partSt s.m part).staleRound + 1)))
      ∧ (oldest s.m p k 0x06 → Links s (exec (.normResult p k) s) fun u =>
        let old := sget [] s.m.xch.results k.arg.toNat
        let r : NormRes := { dn := inl64 k, sum := BitVec.ofNat 32 (ifld k 0x28 4), arrivals := ifld k 0x2C 4, occ := ifld k 0x30 4 }
        sget [] u.xch.results k.arg.toNat = (old ++ [r]).drop (old.length - 1) ∧ u.mem = s.m.mem)
      ∧ (∀ sh, ownedShard s.m l k = some sh →
        let d := BitVec.ofNat 64 (ifld k 0x28 8)
        let sid := k.arg.toNat
        let pt := ifld k 0x22 2
        let joins := fun (i : Instr) (f : RPart → RPart) (M : Mod → Prop) =>
          (roundOf s.m sid = none → Links s (exec i s) fun u =>
            roundOf u sid = some (modRPart pt f { shard := sid, d := d, epoch := l.epoch, parts := [] }) ∧ M u)
          ∧ (∀ r, roundOf s.m sid = some r → r.d = d → Links s (exec i s) fun u => roundOf u sid = some (modRPart pt f r) ∧ M u)
          ∧ (∀ r, roundOf s.m sid = some r → r.d.toNat < d.toNat → Links s (exec i s) fun u =>
            u.xch = s.m.xch ∧ u.mem = s.m.mem ∧ (partSt u part).conflict = sat32 ((partSt s.m part).conflict + 1))
          ∧ (∀ r, roundOf s.m sid = some r → d.toNat < r.d.toNat → Links s (exec i s) fun u =>
            u.xch = s.m.xch ∧ u.mem = s.m.mem ∧ (partSt u part).staleRound = sat32 ((partSt s.m part).staleRound + 1))
        (oldest s.m p k 0x10 → joins (.reduce p k)
          (fun q => { q with applied := q.applied + ((meetReduce p k (takenIn s.m p k)).1.2.map (·.count)).foldl (· + ·) 0 })
          fun u => (partSt u part).conflict = (partSt s.m part).conflict)
        ∧ (oldest s.m p k 0x11 → joins (.report p k)
          (fun q => { q with reports := q.reports + 1, occulted := q.occulted + b2n (bit (ifld k 0x24 1) 0), named := q.named + ifld k 0x30 4 })
          fun u => u.mem = s.m.mem)))
    ∧ (∀ i at_, s.m.xch.future[i]? = some (p.val, k, at_) → at_ + 65536 ≤ s.clk.now →
      Links s (exec (.epochFutureTimeout i) s) fun u =>
        u.xch.future = s.m.xch.future.eraseIdx i ∧ (partSt u part).epochDrop = sat32 ((partSt s.m part).epochDrop + 1)
          ∧ (flog u log).last.typ = fEpochFuture)

/-- PARAM and BULK write this module's memory unless a pinned byte holds them: the last packet of a tile
signals its arrival counter, and a WRITE_ACK leaves for every 16 BULK packets of a source and, at a
pause, for what is left. -/
def Obligations.BulkData : Prop :=
  ∀ (p : Port) (k : Packet) (s : State),
    let m1 := takenIn s.m p k
    let part := portPart s.m p
    (∀ l sh, oldest s.m p k 0x12 → packetHeld s.m p k = false → lookShard s.m k.arg.toNat = .ok (l, sh) → l.part = part →
      let src := k.src.toNat
      let sid := k.arg.toNat
      let was := paramState s.m src sid
      let last := bit (ifld k 0x24 1) 0
      let r := paramWrite s.clk (.link p) part (inDeviceSet s.m part (port s.m p).peer) sh k.addr.toNat was.isNone
        (slice k.body 0 (min 4096 (ifld k 0x20 4))) m1
      let refused := r.2.isSome || was == some true
      Links s (exec (.param p k) s) fun u => u.mem = r.1.mem
        ∧ paramState u src sid = (if last then none else some refused)
        ∧ (last = true → refused = false → sh.arriveEn = true → ∀ d, (partDies s.m part)[sh.arriveDie]? = some d →
          syncObj u d sh.arriveObj = signalObj (syncObj r.1 d sh.arriveObj) 1)
        ∧ ((last = false ∨ refused = true ∨ sh.arriveEn = false) → u.sync = r.1.sync))
    ∧ (oldest s.m p k 0x12 → packetHeld s.m p k = true → ∃ t, exec (.param p k) s = .next t ∧ t.m.mem = (settleAll s.clk s.m).mem)
    ∧ (oldest s.m p k 0x30 → packetHeld s.m p k = false →
      let src := k.src.toNat
      let n := sget 0 (port s.m p).bulkSince src + 1
      Links s (exec (.bulk p k) s) fun u => u.mem = (bulkWrite p k s.clk m1).mem
        ∧ sget 0 (port u p).bulkSince src = (if n < 16 then n else 0)
        ∧ (16 ≤ n → ∀ q, route s.m part src = .ok q → ∃ x ∈ (port u q).txq, x.pkt.typ = 0x07 ∧ x.pkt.dst = k.src ∧ x.pkt.arg = 16))
    ∧ Links s (exec (.bulkPause p) s) fun u => (port u p).bulkSince = [] ∧ u.mem = s.m.mem
      ∧ ∀ src n, (src, n) ∈ (port s.m p).bulkSince → src < 2 ^ 14 → ∀ q, route s.m part src = .ok q →
        ∃ x ∈ (port u q).txq, x.pkt.typ = 0x07 ∧ x.pkt.dst = BitVec.ofNat 14 src ∧ x.pkt.arg = BitVec.ofNat 32 n

/-- TOKEN, TOKEN_RET, TOKEN_DROP and TOKEN_END at the engine they name: behind a held packet each waits, and at
a pin, or behind a packet of its source that waits at one;
a token takes the next row of its round or is refused with a TOKEN_DROP; a TOKEN_RET adds to its row; a
TOKEN_DROP is counted by its ticket; the last TOKEN_END completes the round and signals it. -/
def Obligations.TokensArrive : Prop :=
  ∀ (p : Port) (k : Packet) (s : State),
    let m1 := takenIn s.m p k
    let part := portPart s.m p
    let g := k.dstEng.toNat
    (∀ row ∈ [(Instr.token p k, 0x20), (Instr.tokenRet p k, 0x21), (Instr.tokenDrop p k, 0x22), (Instr.tokenEnd p k, 0x23)],
      oldest s.m p k row.2 →
      (∀ n, blockedAt s.m g = some n → Links s (exec row.1 s) fun u =>
        (expRound u g n).held = (expRound s.m g n).held ++ [(p.val, k, none)] ∧ u.mem = s.m.mem)
      ∧ (∀ n, blockedAt s.m g = none → pinnedBehind s.m k = some n → Links s (exec row.1 s) fun u =>
        (expRound u g n).pinHeld = (expRound s.m g n).pinHeld ++ [(p.val, k, none)] ∧ u.mem = s.m.mem)
      ∧ (blockedAt s.m g = none → pinnedBehind s.m k = none → vc2At s.clk p part k m1 = .held → Links s (exec row.1 s) fun u =>
        (expRound u g (holdKey s.m k)).held = (expRound s.m g (holdKey s.m k)).held ++ [(p.val, k, none)] ∧ u.mem = s.m.mem)
      ∧ (blockedAt s.m g = none → pinnedBehind s.m k = none → vc2At s.clk p part k m1 = .pinned → Links s (exec row.1 s) fun u =>
        (expRound u g (holdKey s.m k)).pinHeld = (expRound s.m g (holdKey s.m k)).pinHeld ++ [(p.val, k, none)] ∧ u.mem = s.m.mem)
      ∧ (blockedAt s.m g = none → pinnedBehind s.m k = none → ∀ m2, vc2At s.clk p part k m1 = .done m2 → Links s (exec row.1 s) fun u => u = m2))
    ∧ (∀ x, oldest s.m p k 0x20 → blockedAt s.m g = none → pinnedBehind s.m k = none → dieOwner s.m (g / 16) = some part → expertAt s.m k.map.val k.arg.toNat = some x → x.module = moduleNum s.m →
      x.engine = g → x.capacity ≠ 0 →
      let n := k.arg.toNat
      let r := expRound s.m g n
      let b := bank s.m k.map.val
      r.st = .opn → ifld k 0x2C 2 = 0 →
      (x.capacity ≤ r.fill → k.src.toNat ≠ moduleNum s.m → (∀ q, route s.m part k.src.toNat = .ok q → 1 ≤ (port s.m q).version) → Links s (exec (.token p k) s) fun u =>
        (partSt u part).tokenDrop = sat32 ((partSt s.m part).tokenDrop + 1) ∧ (expRound u g n).fill = r.fill ∧ u.mem = s.m.mem
          ∧ ∀ q, route s.m part k.src.toNat = .ok q → ∃ y ∈ (port u q).txq, y.pkt.typ = 0x22 ∧ y.pkt.dst = k.src ∧ y.pkt.arg = k.arg)
      ∧ (r.fill < x.capacity → (r.fill = 0 → expertTilesOk s.m k.map.val x = true) → slotPinned s.m g b x r.fill = false →
        Links s (exec (.token p k) s) fun u =>
          (expRound u g n).fill = r.fill + 1 ∧ (expRound u g n).st = .opn ∧ (expRound u g n).maxExp = max r.maxExp (ifld k 0x26 1)
            ∧ padRead u g (x.gate + 64 + 4 * r.fill) 4 = toLe 4 (ifld k 0x20 4)
            ∧ (x.record + 80 + 16 * r.fill ≤ x.gate + 64 + 4 * r.fill ∨ x.gate + 68 + 4 * r.fill ≤ x.record + 64 + 16 * r.fill →
              padRead u g (x.record + 64 + 16 * r.fill) 16 = recordRow k)))
    ∧ (∀ x, blockedAt s.m g = none → pinnedBehind s.m k = none → dieOwner s.m (g / 16) = some part → ticketAt s.m g (ifld k 0x25 1) = some x →
      let n := ifld k 0x25 1
      (oldest s.m p k 0x22 → 1 < x.left → Links s (exec (.tokenDrop p k) s) fun u =>
        ticketAt u g n = some { x with left := x.left - 1, dropped := x.dropped + 1 } ∧ u.mem = s.m.mem)
      ∧ (oldest s.m p k 0x22 → x.left = 1 → Links s (exec (.tokenDrop p k) s) fun u => ticketAt u g n = none ∧ u.mem = s.m.mem
        ∧ ((ctx s.m g (x.task % 4)).st ≠ .empty → counter (ctx u g (x.task % 4)) (wf x.word 60 4) = BitVec.ofNat 32 (x.dropped + 1)))
      ∧ (oldest s.m p k 0x21 →
        let row := ifld k 0x28 4
        let o := 4096 * ifld k 0x2C 2
        let len := min 4096 (4 * x.cols - o)
        row < x.rows → (∀ r ∈ gridRow x.dest x.cols 0x10 row, pinned s.m g r.1 r.2 = false) →
        let old := slice (gridRowBytes s.m g x.dest x.cols 0x10 row) o len
        let sum := (List.range (len / 4)).flatMap fun i => toLe 4 (fadd (word32At old i) (word32At k.body i)).toNat
        Links s (exec (.tokenRet p k) s) fun u => u.mem = (gridPut m1 g x.dest x.cols 0x10 row o sum).mem
          ∧ (lastSeg k = true → 1 < x.left → ticketAt u g n = some { x with left := x.left - 1 })
          ∧ (lastSeg k = false → ticketAt u g n = some x)))
    ∧ (∀ n x, oldest s.m p k 0x23 → blockedAt s.m g = none → pinnedBehind s.m k = none → dieOwner s.m (g / 16) = some part → expertsOn s.m k.map.val g = [(n, x)] → (expRound s.m g n).st = .opn →
      let ends := (expRound s.m g n).ends + 1
      (ends < x.senders → Links s (exec (.tokenEnd p k) s) fun u =>
        expRound u g n = { expRound s.m g n with ends := ends } ∧ u.mem = s.m.mem ∧ u.sync = s.m.sync)
      ∧ (x.senders ≤ ends → roundPinned s.m g n (bank s.m k.map.val) x = false → Links s (exec (.tokenEnd p k) s) fun u =>
        (expRound u g n).st = .complete ∧ syncObj u (g / 16) x.endObj = signalObj (syncObj s.m (g / 16) x.endObj) 1
          ∧ (∀ j, j ≠ syncKey (g / 16) x.endObj → sget {} u.sync j = sget {} s.m.sync j)))

/-! ## Archive ingest -/

/-- What a port that is up does with a frame and with ICMPv6: it counts what it drops and answers for its
own address.
PAUSE, RESUME and CLOSE are repeated, each under its own CTRL_SEQ, no sooner than 10 µs after the last; after 1 ms a
RESUME repeats no more; 1 ms without DATA during a scrub closes the stream with REASON 3. -/
def Obligations.PortFrames : Prop :=
  (∀ (d : Media) (s : State), ingestUp s.m = true →
    let y := mdie s.m d
    (∀ x : Frame,
      let bad := x.etherType ≠ 0x86DD ∨ 9216 < x.bytes ∨ x.extHeaders = true ∨ x.fragment = true
      let wrong := x.udp = true ∧ (x.checksumOk = false ∨ x.dstPort.toNat ≠ udpPort s.m d)
      ∃ t, exec (.ethernetFrame d x) s = .next t ∧ t.clk = s.clk ∧ (∀ e, e ≠ d → mdie t.m e = mdie s.m e) ∧ t.m.out = s.m.out
        ∧ (bad → mdie t.m d = { y with fec := sat64 y.fec x.fecCorr, frames := sat64 y.frames 1 })
        ∧ (¬ bad → wrong → mdie t.m d = { y with fec := sat64 y.fec x.fecCorr, dgrams := sat64 y.dgrams 1 })
        ∧ (¬ bad → ¬ wrong → mdie t.m d = { y with fec := sat64 y.fec x.fecCorr }))
    ∧ (∀ target : List Byte,
      (target = netAddr s.m d → exec (.neighborSolicitation d target) s = .next { s with m := emit (.icmp d false target) s.m }
        ∧ exec (.echoRequest d target) s = .next { s with m := emit (.icmp d true target) s.m })
      ∧ (target ≠ netAddr s.m d → exec (.neighborSolicitation d target) s = .next s ∧ exec (.echoRequest d target) s = .next s)))
  ∧ (∀ (d : Media) (n : Slot) (s : State), ingestUp s.m = true →
    let x := strm s.m d n
    let again := fun (i : Instr) (msg : List Byte) => ∃ t, exec i s = .next t ∧ t.clk = s.clk
      ∧ t.m.out = s.m.out ++ [.isf d x.src x.srcPort msg] ∧ strm t.m d n = { x with lastTx := s.clk.now }
    (x.lastTx + 16000 ≤ s.clk.now →
      (x.st = .paused → again (.pauseRepeat d n) (isfMsg 4 x.id x.pauseCtrl x.pausePl))
      ∧ (∀ seq at_, x.resumeAt = some (seq, at_) → s.clk.now < at_ + 1600000 →
          again (.resumeRepeat d n) (isfMsg 5 x.id x.resumeCtrl (resumePayload seq))))
    ∧ (x.closeLeft ≠ 0 → x.closeAt + 16000 ≤ s.clk.now → ∃ t, exec (.closeRepeat d n) s = .next t ∧ t.clk = s.clk
      ∧ t.m.out = s.m.out ++ [.isf d x.closeTo x.closePort (isfMsg 6 x.closeId x.closeCtrl x.closePl)]
      ∧ strm t.m d n = { x with closeLeft := x.closeLeft - 1, closeAt := s.clk.now })
    ∧ (∀ seq at_, x.resumeAt = some (seq, at_) → at_ + 1600000 ≤ s.clk.now → ∃ t, exec (.resumeRepeat d n) s = .next t
      ∧ t.m.out = s.m.out ∧ strm t.m d n = { x with resumeAt := none })
    ∧ (streamsPhase s.m d = true → x.st = .paused → x.pauseScrub = true → x.nextProfile = none → x.sinceData + 1600000 ≤ s.clk.now →
      ∃ t, exec (.scrubStreamIdleTimeout d n) s = .next t
        ∧ (strm t.m d n).st = (if streamEn s.m d n then .closed else .disabled) ∧ (strm t.m d n).segs = [] ∧ (strm t.m d n).ahead = []
        ∧ .isf d x.src x.srcPort (isfMsg 6 x.id (x.ctrlTx + 1) (closePayload 3 0 x.highest)) ∈ t.m.out))

/-- OFFER: a source with no slot and an offer that fails a check are refused with the code; one that
passes opens its stream and is accepted; a repeat gets its ACCEPT again, and 0x55 with other fields, the open stream as it
was, and the same answer for the same other fields; under a scrub of the die's partition every one is refused with 0x56. -/
def Obligations.OffersAnswered : Prop :=
  ∀ (d : Media) (g : Datagram) (s : State), ingestUp s.m = true → fetchLevel s.m < 2 → isfBad 2 g = false →
    let o := isfPayload g
    (openOf s.m d g = none → scrubsDie s.m d = true → ∃ n, exec (.offer d g) s
      = .next { s with m := emit (.isf d g.srcAddr g.srcPort (isfMsg 3 (isfStream g) 1 (acceptPayload 0x56 n 0 0))) s.m })
    ∧ (openOf s.m d g = none → scrubsDie s.m d = false →
      let answer := fun (ctrl : Nat) (pl : List Byte) => Out.isf d g.srcAddr g.srcPort (isfMsg 3 (isfStream g) ctrl pl)
      (slotFor s.m d g = none → exec (.offer d g) s = .next { s with m := emit (answer 1 (acceptPayload 0x50 0 0 0)) s.m })
      ∧ (∀ n, slotFor s.m d g = some n →
        let x := strm s.m d n
        (∀ r, offerErr s.m d x o = some r →
          exec (.offer d g) s = .next { s with m := emit (answer 1 (acceptPayload r.toNat n 0 0)) s.m })
        ∧ (offerErr s.m d x o = none → regB s.m (rSlot d n) 1 = false →
          let v := offerV o
          ∃ t, exec (.offer d g) s = .next t ∧ t.clk = s.clk
            ∧ answer 1 (acceptPayload 0 n v (offerP x v)) ∈ t.m.out
            ∧ (let z := strm t.m d n
               z.st = .opn ∧ z.id = isfStream g ∧ z.src = g.srcAddr ∧ z.srcPort = g.srcPort ∧ z.offer = o ∧ z.profile = x.profile
               ∧ z.rate = fldBe o 0 8 ∧ z.restart = fldBe o 0x10 4 ∧ z.v = v ∧ z.pool = offerP x v
               ∧ z.next = fldBe o 0x1A 6 ∧ z.highest = fldBe o 0x1A 6 ∧ z.undecoded = 0 ∧ z.segs = []))))
    ∧ (∀ n, openOf s.m d g = some n →
      let x := strm s.m d n
      let answer := fun (ctrl : Nat) (pl : List Byte) => Out.isf d x.src x.srcPort (isfMsg 3 x.id ctrl pl)
      (scrubsDie s.m d = false → x.offer = o → exec (.offer d g) s = .next { s with m := emit (answer x.acceptCtrl x.accept) s.m })
      ∧ (∀ r, (if scrubsDie s.m d then r = 0x56 else x.offer ≠ o ∧ r = 0x55) →
        (∀ ctrl, x.refused = some (o, r, ctrl) →
          exec (.offer d g) s = .next { s with m := emit (answer ctrl (acceptPayload r.toNat n 0 0)) s.m })
        ∧ (x.refused = none → ∃ t, exec (.offer d g) s = .next t
          ∧ t.m.out = s.m.out ++ [answer (x.ctrlTx + 1) (acceptPayload r.toNat n 0 0)]
          ∧ strm t.m d n = { x with ctrlRx := max x.ctrlRx (isfCtrl g), ctrlTx := x.ctrlTx + 1, refused := some (o, r, x.ctrlTx + 1) })))

/-- DATA: a datagram waits for a service of the tier die it needs; bytes that are due land, bytes ahead wait, bytes past LIMIT_SEQ break the stream, and a bad
header or an unknown source is counted. CLOSE drains the stream. A hole of 100 µs is given up, its bytes counted as a
gap, and a window of 100 µs above the rate breaks the stream. -/
def Obligations.DataLands : Prop :=
  ∀ (d : Media) (s : State), ingestUp s.m = true →
    let closes := fun (x : Strm) (pl : List Byte) => Out.isf d x.src x.srcPort (isfMsg 6 x.id (x.ctrlTx + 1) pl)
    (∀ (g : Datagram),
      (isfBad 1 g = true ∨ openOf s.m d g = none → ∃ t, exec (.data d g) s = .next t
        ∧ mdie t.m d = { mdie s.m d with isf := sat64 (mdie s.m d).isf 1 } ∧ t.m.mem = s.m.mem)
      ∧ (∀ n seq, isfBad 1 g = false → openOf s.m d g = some n → unwrapSeq (strm s.m d n) (isfSeq g) = some seq →
        let x := strm s.m d n
        let pl := isfPayload g
        let len := pl.length
        (landWaits s.m d n len = true → exec (.data d g) s = .next s)
        ∧ (landWaits s.m d n len = false → 0 < len →
        (∀ e b at_, x.st = .opn → x.final = none → x.ahead = [] → x.cur = some (e, b, at_) → seq = x.next → x.highest ≤ seq →
          seq + len < x.start + 2 ^ 48 → x.resync = none →
          at_ + len < x.seg → poolUse x + len ≤ x.work * x.seg →
          let lands := writeTier s.clk d (landDie x d) (b * unit2M + at_) pl s.m
          ∃ t, exec (.data d g) s = .next t
          ∧ (let z := strm t.m d n
             z.st = .opn ∧ z.next = seq + len ∧ z.highest = seq + len ∧ z.cur = some (e, b, at_ + len)
             ∧ z.undecoded = x.undecoded + len ∧ z.sinceData = s.clk.now ∧ z.window = x.window + len
             ∧ z.bytesLanded = sat64 x.bytesLanded (len - lands.2) ∧ z.bytesDropped = sat64 (sat64 x.bytesDropped 0) lands.2)
          ∧ t.m.mem = lands.1.mem)
        ∧ (x.st = .opn → x.final = none → x.next < seq → seq + len < x.start + 2 ^ 48 → poolUse x ≤ x.work * x.seg →
          (∀ z : Strm, z.ahead = x.ahead → reorderUsed (modStrm s.m d n fun _ => z) d + len ≤ 0x100000) →
          ∃ t, exec (.data d g) s = .next t ∧ (strm t.m d n).next = x.next
            ∧ (strm t.m d n).ahead = insertAhead (seq, pl, s.clk.now) x.ahead
            ∧ (strm t.m d n).hole = firstHeld (insertAhead (seq, pl, s.clk.now) x.ahead) ∧ t.m.mem = s.m.mem)
        ∧ (x.st = .paused → x.limit < seq + len → streamEn s.m d n = true → x.nextProfile = none → ∃ t, exec (.data d g) s = .next t
          ∧ (strm t.m d n).st = .error ∧ (strm t.m d n).reason = 0x58 ∧ (strm t.m d n).bytesDropped = sat64 x.bytesDropped len
          ∧ closes x (closePayload 1 0x58 x.highest) ∈ t.m.out ∧ t.m.mem = s.m.mem))))
    ∧ (∀ (g : Datagram) n final, isfBad 6 g = false → (isfPayload g).length = 8 → openOf s.m d g = some n →
      let x := strm s.m d n
      unwrapSeq x (fldBe (isfPayload g) 2 6) = some final →
      x.ctrlRx < isfCtrl g → x.pauseScrub = false → x.undecoded ≠ 0 → (x.st = .opn ∨ x.st = .paused) →
      ∃ t, exec (.close d g) s = .next t ∧ (strm t.m d n).st = .draining ∧ (strm t.m d n).ctrlRx = isfCtrl g
        ∧ (strm t.m d n).final = some (if x.st = .paused then min final x.limit else final)
        ∧ (strm t.m d n).cur = none ∧ t.m.mem = s.m.mem)
    ∧ (∀ (n : Slot),
      let x := strm s.m d n
      (∀ at_ seq bs came, x.hole = some at_ → at_ + 160000 ≤ s.clk.now → x.ahead = [(seq, bs, came)] → x.next < seq →
        ∃ t, exec (.reorderTimeout d n) s = .next t ∧ (strm t.m d n).gapBytes = sat64 x.gapBytes (seq - x.next)
          ∧ seq ≤ (strm t.m d n).next ∧ (strm t.m d n).ahead = [])
      ∧ (isOpen x.st = true → x.windowAt + 160000 ≤ s.clk.now →
        (x.window * 1000000 ≤ x.rate * 101 → ∃ t, exec (.rateWindowEnd d n) s = .next t
          ∧ strm t.m d n = { x with window := 0, windowAt := s.clk.now })
        ∧ (x.rate * 101 < x.window * 1000000 → streamEn s.m d n = true → x.nextProfile = none → ∃ t, exec (.rateWindowEnd d n) s = .next t
          ∧ (strm t.m d n).st = .error ∧ (strm t.m d n).reason = 0x59
          ∧ closes x (closePayload 1 0x59 x.highest) ∈ t.m.out)))

/-- A write of STREAM_CTRL: EN is checked and the profile copied, which a slot that still drains takes when it has; its
end closes the stream with REASON 2; HOLD pauses for HOST and its end resumes. -/
def Obligations.StreamControl : Prop :=
  ∀ (f : Func) (d : Media) (n : Slot) (v : W64) (s : State), writable s.m f (rSlot d n) = true →
    let x := strm s.m d n
    let m1 := storeFields f (rSlot d n) v.toNat s.m
    let sent := fun (t : State) (typ : Nat) (pl : List Byte) => Out.isf d x.src x.srcPort (isfMsg typ x.id (x.ctrlTx + 1) pl) ∈ t.m.out
    (bit v.toNat 0 = true → bit v.toNat 1 = false → streamEn s.m d n = false → x.pauseHost = false →
      let r := readProfile s.clk m1 d (regF m1 (rSlot d n + 8) 0 57)
      ∃ t, exec (.streamEnable f d n v) s = .next t ∧ t.clk = s.clk
        ∧ (r.2 = none → (strm t.m d n).reason = 0x51 ∧ streamEn t.m d n = false ∧ (strm t.m d n).st = x.st)
        ∧ (∀ b, r.2 = some b →
          (∀ e, profileErr r.1 d b = some e → (strm t.m d n).reason = e ∧ streamEn t.m d n = false ∧ (strm t.m d n).st = x.st)
          ∧ (profileErr r.1 d b = none → streamEn t.m d n = true ∧ (strm t.m d n).reason = 0
            ∧ (x.st ≠ .draining → (strm t.m d n).st = .listening ∧ (strm t.m d n).profile = b)
            ∧ (x.st = .draining → (strm t.m d n).st = .draining ∧ (strm t.m d n).profile = x.profile
                ∧ (strm t.m d n).nextProfile = some b))))
    ∧ (bit v.toNat 0 = false → bit v.toNat 1 = false → streamEn s.m d n = true → x.pauseHost = false →
      ((x.st = .opn ∨ x.st = .paused) → x.undecoded ≠ 0 → ∃ t, exec (.streamDisable f d n v) s = .next t
        ∧ (strm t.m d n).st = .draining ∧ (strm t.m d n).final = some x.highest ∧ streamEn t.m d n = false
        ∧ sent t 6 (closePayload 2 0 x.highest) ∧ t.m.mem = s.m.mem)
      ∧ ((x.st = .listening ∨ x.st = .closed ∨ x.st = .error) → x.nextProfile = none → ∃ t, exec (.streamDisable f d n v) s = .next t
        ∧ (strm t.m d n).st = .disabled ∧ streamEn t.m d n = false ∧ t.m.mem = s.m.mem)
      ∧ (x.st = .draining → ∃ t, exec (.streamDisable f d n v) s = .next t
        ∧ strm t.m d n = { x with nextProfile := none } ∧ streamEn t.m d n = false ∧ t.m.mem = s.m.mem))
    ∧ (bit v.toNat 0 = streamEn s.m d n →
      (bit v.toNat 1 = true → x.st = .opn → x.pauseHost = false → ∃ t, exec (.hold f d n v) s = .next t
        ∧ (strm t.m d n).st = .paused ∧ (strm t.m d n).pauseHost = true ∧ (strm t.m d n).limit = x.highest + x.v
        ∧ sent t 4 (pausePayload 2 x.highest (x.highest + x.v)))
      ∧ (bit v.toNat 1 = false → x.st = .paused → x.pauseHost = true → x.pauseSpace = false → x.pauseScrub = false →
        poolUse x ≤ x.work * x.seg → ∃ t, exec (.hold f d n v) s = .next t
          ∧ (strm t.m d n).st = .opn ∧ (strm t.m d n).pauseHost = false
          ∧ sent t 5 (resumePayload x.highest)))

/-- Decoding and samples: a picture waits for the core's leave and for the switch of a core to new firmware, adds its
output frames, or stops the stream as undecodable; a finished sample goes whole into a shuffle segment or waits, for a segment or a service of the tier, one whose
write is refused is counted as dropped; a
draw takes one sample of a sealed segment to the next target in turn. -/
def Obligations.SamplesFlow : Prop :=
  (∀ (d : Media) (n : Slot) (p : Picture) (s : State), ingestUp s.m = true →
    let w := workSlot s.m d n
    let x := strm s.m d w
    sealedBytes x ≠ 0 → decoderStops s.clk d w s.m = false →
    let core := Config.coreOf d n % 8
    (coreSwitches s.m d core p = true ∨ regionsWait s.m (landDie x d) = true → exec (.decodePicture d n p) s = .next s)
    ∧ (regionsWait s.m (landDie x d) = false → (∀ m1, coreSwitches s.m d core p = false → coreReady d core s.m = (false, m1) →
      exec (.decodePicture d n p) s = .next { s with m := m1 })
    ∧ (∀ m1, coreSwitches s.m d core p = false → coreReady d core s.m = (true, m1) → ∃ t, exec (.decodePicture d n p) s = .next t
      ∧ sget 0 (mdie t.m d).coreSince core = s.clk.now
      ∧ (undecodable x p = true → w = n → x.st ≠ .error → streamEn s.m d n = true → x.nextProfile = none →
        (strm t.m d n).st = .error ∧ (strm t.m d n).reason = 0x51 ∧ t.m.mem = s.m.mem)
      ∧ (undecodable x p = false → w = n → (strm t.m d n).frames = x.frames + (outFrames x false false p).length))))
  ∧ (∀ (d : Media) (n : Slot) (s : State), nextSample (strm s.m d (workSlot s.m d n)) = none ∨ shufWaits s.m d = true → exec (.samplePlace d n) s = .next s)
  ∧ (∀ (d : Media) (n : Slot) (y : MadeSample) (rest : List MadeSample) (s : State),
    let w := workSlot s.m d n
    let x := strm s.m d w
    nextSample x = some (y, rest) → shufWaits s.m d = false →
    let k := streamPart s.m d
    let len := extentBytes d n y x
    (shufRoom s.clk d k len s.m = none → exec (.samplePlace d n) s = .next { s with m := shufSealed s.clk d k len s.m })
    ∧ (∀ m1, shufRoom s.clk d k len s.m = some m1 →
      let g := sget noShuf (partSt m1 k).shuf d
      let off := g.va.toNat + g.fill
      let puts := writeTier s.clk d g.td off (sampleExtent d n y x off) m1
      ∃ t, exec (.samplePlace d n) s = .next t ∧ (strm t.m d w).ready = rest ∧ t.m.mem = puts.1.mem
        ∧ (puts.2 ≠ 0 → (strm t.m d n).smpDropped = satAdd 0xFFFFFFFF (strm m1 d n).smpDropped 1)
        ∧ (puts.2 = 0 → x.st ≠ .draining → x.st ≠ .error →
          sget noShuf (partSt t.m k).shuf d = { g with fill := g.fill + len, count := g.count + 1 }
          ∧ ∃ z, (partSt t.m k).samples = (partSt m1 k).samples ++ [z] ∧ z.len = len ∧ z.td = g.td ∧ z.region = g.region ∧ z.isSealed = false)))
  ∧ (∀ (k : Part) (i q : Nat) (y : Sample) (s : State),
    let p := partSt s.m k
    let us := undrawn p
    (p.drawing = true ∨ max 1 (minFill s.m k) ≤ us.length) → p.scrub = none → nextTarget s.m k = some (i, q) →
    us[Config.drawNat s.m.draw % us.length]? = some y →
    SettlesAll s (exec (.sampleDraw k) s) fun u => u.draw = s.m.draw + 1 ∧ (partSt u k).samples = p.samples.erase y
      ∧ (partSt u k).rr = i + 1 ∧ drawHandle y ∈ (hqAt u q).items ∧ u.mem = s.m.mem)

/-! ## The root of trust -/

/-- The security mailboxes: a request that is refused ends with its reason and changes nothing; keys are
enrolled, reports signed, bound images loaded and exported, nonces drawn and spent, unlocks begun and
ended; the debug connector draws a nonce and takes a token of its own; a nonce and an unlock lapse with their time. -/
def Obligations.MailboxRequests : Prop :=
  ∀ (f : Func) (s : State),
    let q := mailAsk s.m f
    let p := partSt s.m q.part
    let ends := fun (i : Instr) (r : Byte) (m : Mod) => exec i s = .next { s with m := mailEnd f r m }
    (∀ row ∈ [(Instr.enrollKey f, 1), (.attest f, 2), (.bindLoad f, 3), (.bindExport f, 4), (.debugChallenge f.castSucc, 5),
        (.debugUnlock (.mailbox f), 6)],
      ∀ r, mailWaits s.m f row.2 → mailErr s.m row.2 q = some r → ends row.1 r s.m)
    ∧ (∀ r, mailWaits s.m f 7 → mailErr s.m 7 q = some r → SettlesAll s (exec (.debugLock f) s) fun u => u = mailEnd f r s.m)
    ∧ (mailWaits s.m f 1 → mailErr s.m 1 q = none →
      let b := hostRead s.m (Config.reqAddr 0 q.block) 2048
      (p.prog.isSome = true → ends (.enrollKey f) 0x8C s.m)
      ∧ (p.prog = none → p.boundNow = true → ends (.enrollKey f) 0x74 s.m)
      ∧ (p.prog = none → p.boundNow = false → 4 ≤ (keysOf s.m q.part (Config.enrolDebug b)).length → ends (.enrollKey f) 0x16 s.m)
      ∧ (p.prog = none → p.boundNow = false → (keysOf s.m q.part (Config.enrolDebug b)).length < 4 → ∃ t, exec (.enrollKey f) s = .next t
        ∧ (partSt t.m q.part).enrolled = p.enrolled ++ [(Config.enrolDebug b, slice (Config.enrolKeys b) 0 1984)]
        ∧ (mbox t.m f).done = true ∧ (mbox t.m f).busy = false ∧ (mbox t.m f).reason = 0))
    ∧ (mailWaits s.m f 2 → mailErr s.m 2 q = none →
      ends (.attest f) 0 (hostWrite s.m (Config.reqAddr 1 q.block) (slice (signed (reportBody s.clk s.m q)) 0 4096)))
    ∧ (mailWaits s.m f 3 → mailErr s.m 3 q = none →
      let x := readImage s.m (Config.reqAddr 0 q.block)
      let dst := Config.reqAddr 1 q.block
      (∀ r, bindErr s.clk s.m q.part x dst = .error r → ends (.bindLoad f) r s.m)
      ∧ (∀ e, bindErr s.clk s.m q.part x dst = .ok e → unwrap e (imageHead x) = none → ends (.bindLoad f) 0x74 s.m)
      ∧ (∀ e key, bindErr s.clk s.m q.part x dst = .ok e → unwrap e (imageHead x) = some key →
        let r := loadChunks s.clk q.part dst x key x.chunks 0 s.m
        (r.2 ≠ 0 → ends (.bindLoad f) r.2 r.1)
        ∧ (r.2 = 0 → ∃ t, exec (.bindLoad f) s = .next t ∧ t.m.mem = r.1.mem ∧ (partSt t.m q.part).boundNow = true
          ∧ (partSt t.m q.part).boundSet = recipients s.m x ∧ (mbox t.m f).done = true ∧ (mbox t.m f).reason = 0)))
    ∧ (mailWaits s.m f 4 → mailErr s.m 4 q = none →
      let a := Config.reqAddr 0 q.block
      let len := Config.reqLen q.block
      let bad := p.boundNow = false ∨ len = 0 ∨ 2 ^ 40 < len ∨ pagesBound s.m q.part a len false = false
      (bad → ends (.bindExport f) 0x74 s.m)
      ∧ (∀ m1 e, ¬ bad → readMem s.clk s.m (unitReq q.part) a len .clean = (m1, .error e) → ends (.bindExport f) e.reason m1)
      ∧ (∀ m1 b poison, ¬ bad → readMem s.clk s.m (unitReq q.part) a len .clean = (m1, .ok (b, poison)) →
        ∃ t, exec (.bindExport f) s = .next t ∧ (mbox t.m f).done = true ∧ (mbox t.m f).reason = 0
          ∧ t.m.mem = (hostWrite m1 (Config.reqAddr 1 q.block) (signed (exportBytes m1.draw p (Config.reqOwner q.block) b))).mem))
    ∧ (mailWaits s.m f 5 → mailErr s.m 5 q = none → ∃ t, exec (.debugChallenge f.castSucc) s = .next t
      ∧ (mbox t.m f).nonce = some (s.m.draw, s.clk.now + 60 * 1600000000) ∧ (mbox t.m f).done = true ∧ t.m.draw = s.m.draw + 1
      ∧ t.m.mem = (hostWrite s.m (Config.reqAddr 1 q.block) (deviceId ++ slice (Config.drawBytes s.m.draw 32) 0 32)).mem)
    ∧ (mailWaits s.m f 6 → mailErr s.m 6 q = none →
      let b := hostRead s.m (Config.reqAddr 0 q.block) 0xD8D
      let x := readToken b
      let unlock : Unlock := { part := if x.scope = 2 then none else some x.part, ends := s.clk.now + x.life * 1600000000, func := f }
      ∃ t, exec (.debugUnlock (.mailbox f)) s = .next t ∧ (mbox t.m f).done = true
        ∧ (mbox t.m f).nonce = (if nonceOk s.clk s.m f b then none else (mbox s.m f).nonce)
        ∧ (∀ r, unlockErr s.clk s.m f b = some r → (mbox t.m f).reason = r ∧ t.m.sec.unlocks = s.m.sec.unlocks)
        ∧ (unlockErr s.clk s.m f b = none → (mbox t.m f).reason = 0 ∧ t.m.sec.unlocks = s.m.sec.unlocks ++ [unlock]))
    ∧ (mailWaits s.m f 7 → mailErr s.m 7 q = none → SettlesAll s (exec (.debugLock f) s) fun u =>
      (mbox u f).done = true ∧ (mbox u f).reason = 0
        ∧ u.sec.unlocks = s.m.sec.unlocks.filter fun x => !(x.part == some q.part || (x.part.isNone && f.val == 0)))
    ∧ (spdmUp s.m = true → ∃ t, exec (.debugChallenge 9) s = .next t ∧ t.m.mem = s.m.mem
      ∧ (mbox t.m 9).nonce = some (s.m.draw, s.clk.now + 60 * 1600000000) ∧ t.m.draw = s.m.draw + 1
      ∧ t.m.out = s.m.out ++ [.debugPort (deviceId ++ slice (Config.drawBytes s.m.draw 32) 0 32)])
    ∧ (∀ token : List Byte, spdmUp s.m = true →
      let b := slice token 0 0xD8D
      let x := readToken b
      let unlock : Unlock := { part := if x.scope = 2 then none else some x.part, ends := s.clk.now + x.life * 1600000000, func := 9 }
      ∃ t, exec (.debugUnlock (.connector token)) s = .next t ∧ t.m.mem = s.m.mem
        ∧ (mbox t.m 9).nonce = (if nonceOk s.clk s.m 9 b then none else (mbox s.m 9).nonce)
        ∧ (∀ r, unlockErr s.clk s.m 9 b = some r → t.m.out = s.m.out ++ [.debugPort [r]] ∧ t.m.sec.unlocks = s.m.sec.unlocks)
        ∧ (unlockErr s.clk s.m 9 b = none → t.m.out = s.m.out ++ [.debugPort [0]] ∧ t.m.sec.unlocks = s.m.sec.unlocks ++ [unlock]))
    ∧ (∀ (g : MailPort) n e, (mbox s.m g).nonce = some (n, e) → e ≤ s.clk.now → ∃ t, exec (.debugNonceExpiry g) s = .next t
      ∧ mbox t.m g = { mbox s.m g with nonce := none } ∧ t.m.mem = s.m.mem)
    ∧ (∀ i x, s.m.sec.unlocks[i]? = some x → x.ends ≤ s.clk.now → SettlesAll s (exec (.debugUnlockExpiry i) s) fun u =>
      u.sec.unlocks = s.m.sec.unlocks.filter (fun y => !(y == x)) ∧ u.mem = s.m.mem)

/-- SPDM requests are answered once HN's firmware runs; a signed reply leaves its transcript for the
request of the second signature, which serves once. -/
def Obligations.SpdmAnswers : Prop :=
  ∀ (req : List Byte) (s : State), spdmUp s.m = true →
    let chain := slice (Config.sha384 certChain) 0 48
    (∀ row ∈ [(Instr.getVersion req, 1, ([] : List Byte)), (.getCapabilities req, 2, []), (.negotiateAlgorithms req, 3, []),
        (.getDigests req, 4, chain), (.getCertificate req, 5, certChain),
        (.challenge req, 6, chain ++ allMeasures s.clk s.m), (.getMeasurements req, 7, allMeasures s.clk s.m)],
      let r := Config.spdmReply row.2.1 req row.2.2
      let h := Config.spdmTranscript req r
      ∃ t, exec row.1 s = .next t ∧ t.clk = s.clk ∧ t.m.mem = s.m.mem
        ∧ (Config.spdmSigns row.2.1 req = false → t.m.out = s.m.out ++ [.spdm r] ∧ t.m.sec = { s.m.sec with spdmLast := none })
        ∧ (Config.spdmSigns row.2.1 req = true → t.m.out = s.m.out ++ [.spdmSigned r (edSig h)]
          ∧ t.m.sec = { s.m.sec with spdmLast := some h }))
    ∧ (∀ h, s.m.sec.spdmLast = some h → ∃ t, exec (.mldsaSignatureRequest req) s = .next t
      ∧ t.m.out = s.m.out ++ [.spdm (mlSig h)] ∧ t.m.sec = { s.m.sec with spdmLast := none })
    ∧ (s.m.sec.spdmLast = none → exec (.mldsaSignatureRequest req) s = .next s)

/-! ## Logs, trace and counters -/

/-- FLT_CLEAR clears what its bits name; a second with too many corrected errors leaves one ECC_STORM; the
trace ring starts at its base and takes the records of the dies in turn, and of each die's engines in turn; counters are sampled into shadows,
read, and cleared by a new selection. -/
def Obligations.LogsAndCounters : Prop :=
  (∀ (f : Func) (log : Fin 288) (v : W64) (s : State), writable s.m f (0x600050 + 0x80 * log.val) = true →
    let l := flog s.m log
    ∃ t, exec (.fltClear f log v) s = .next t ∧ t.clk = s.clk ∧ (∀ j, j ≠ log.val → flog t.m j = flog s.m j) ∧ t.m.bar0 = s.m.bar0
      ∧ (bit v.toNat 0 = true → (flog t.m log).first = {} ∧ (flog t.m log).last = {} ∧ (flog t.m log).count = 0)
      ∧ (bit v.toNat 0 = false → (flog t.m log).first = l.first ∧ (flog t.m log).last = l.last ∧ (flog t.m log).count = l.count)
      ∧ (flog t.m log).corr = if bit v.toNat 1 then 0 else l.corr)
  ∧ (∀ (log : Fin 288) (s : State),
    let l := flog s.m log
    let risen := l.corr - l.corrMark
    (secondEnds s.clk l = false → exec (.eccStorm log) s = .next s)
    ∧ (secondEnds s.clk l = true → ∃ t, exec (.eccStorm log) s = .next t ∧ t.clk = s.clk ∧ t.m.mem = s.m.mem ∧ (flog t.m log).corr = l.corr ∧ (flog t.m log).corrMark = l.corr
      ∧ (risen ≤ regF s.m (rFltLimit log) 0 32 → (flog t.m log).count = l.count)
      ∧ (regF s.m (rFltLimit log) 0 32 < risen → (flog t.m log).last.typ = fEccStorm ∧ (flog t.m log).last.info = BitVec.ofNat 64 risen
        ∧ (flog t.m log).count = min 0xFFFFFFFF (l.count + 1))))
  ∧ (∀ (f : Func) (k : Part) (v : W64) (s : State), writable s.m f (rPart k + 0x488) = true → bit v.toNat 31 = true →
    ∃ t, exec (.traceEnable f k v) s = .next t ∧ traceOn t.m k = true
      ∧ (partSt t.m k).traceHead = if traceOn s.m k then (partSt s.m k).traceHead else 0)
  ∧ (∀ (d : Die) (k g : Nat) (r : BitVec 128) (rest : List (BitVec 128)) (s : State), dieOwner s.m d = some k → traceNext s.m d = some g →
    (engine s.m g).trace = r :: rest →
    (traceOn s.m k = false ∨ traceFull s.m k = true ∨ traceDie s.m ≠ some d.val → exec (.traceRecordTransfer d) s = .next s)
    ∧ (traceDie s.m = some d.val → Config.traceEcc s.m.draw = .clean → ∃ t, exec (.traceRecordTransfer d) s = .next t
      ∧ (engine t.m g).trace = rest ∧ (partSt t.m k).traceHead = ((partSt s.m k).traceHead + 16) % traceSize s.m k
      ∧ hostRead t.m (regF s.m (rPart k + 0x480) 12 52 * 4096 + (partSt s.m k).traceHead) 16 = toLe 16 r.toNat
      ∧ (∀ h, h ≠ g → engine t.m h = engine s.m h)))
  ∧ (∀ (f : Func) (d : Die) (v : W64) (s : State), writable s.m f (rCd d + 8) = true →
    ∃ t, exec (.ecntSnap f d v) s = .next t ∧ t.m.mem = s.m.mem
      ∧ (∀ i < 16, bit v.toNat i = true → ∀ c < 32,
        sget 0 (engine t.m (16 * d.val + i)).shadow c = counterSample s.clk s.m (16 * d.val + i) c
          ∧ (engine t.m (16 * d.val + i)).ecnt = (engine s.m (16 * d.val + i)).ecnt)
      ∧ (∀ g, (∀ i < 16, bit v.toNat i = true → g ≠ 16 * d.val + i) → engine t.m g = engine s.m g))
  ∧ (∀ (f : Func) (e : Eng) (c : Fin 32) (s : State), hnUp s.m = true → hnBusy s.m = false → vfLive s.m f = true →
    exec (.ecntRead f e c) s = .next { s with m := emit (.regRead f (readReg s.clk s.m f (rTraceCtrl e + 0x200 + 8 * c.val))) s.m })
  ∧ (∀ (f : Func) (e : Eng) (c : Fin 32) (v : W64) (s : State), writable s.m f (rEcntSel e c) = true →
    ∃ t, exec (.ecntSelWrite f e c v) s = .next t ∧ (∀ j, sget {} (engine t.m e).ecnt j = if j = c.val then {} else sget {} (engine s.m e).ecnt j)
      ∧ (∀ g, g ≠ e.val → engine t.m g = engine s.m g) ∧ t.m.mem = s.m.mem)
end

