-- ==== Sys2Proof/Laws/Sparse.lean ====
section
/-! SUPPORT. The laws of sparse tables and of raw memory: a read after a write, and the canonical
form that every write keeps. -/

namespace Sys2Proof.Machine

section
variable {α : Type}

theorem sget_cons (d : α) (k : Nat) (v : α) (r : Sparse α) (x : Nat) :
    sget d ((k, v) :: r) x = if k = x then v else sget d r x := rfl

theorem sget_sput (d : α) (t : Sparse α) (x y : Nat) (v : α) :
    sget d (sput t x v) y = if y = x then v else sget d t y := by
  induction t with
  | nil => simp only [sput, sget]; split_ifs <;> first | rfl | omega
  | cons e r ih =>
    obtain ⟨k, w⟩ := e
    simp only [sput]
    split_ifs with h1 h2 <;> simp only [sget, ih] <;> split_ifs <;> first | rfl | omega

theorem sget_filter_ne (d : α) (t : Sparse α) (x y : Nat) :
    sget d (t.filter fun e => e.1 != x) y = if y = x then d else sget d t y := by
  induction t with
  | nil => simp [sget]
  | cons e r ih =>
    obtain ⟨k, w⟩ := e
    by_cases h : k = x
    · subst h
      simp only [bne_self_eq_false, Bool.false_eq_true, not_false_eq_true, List.filter_cons_of_neg, ih, sget]
      split_ifs <;> first | rfl | omega
    · have h' : (k != x) = true := by simpa using h
      simp only [List.filter_cons, h', if_true, sget, ih]
      split_ifs <;> first | rfl | omega

variable [DecidableEq α]

/-- A read after a write, for every table. -/
theorem sget_sset (d : α) (t : Sparse α) (x y : Nat) (v : α) :
    sget d (sset d t x v) y = if y = x then v else sget d t y := by
  unfold sset
  split_ifs with hv <;> simp_all [sget_filter_ne, sget_sput]

@[simp] theorem sget_sset_same (d : α) (t : Sparse α) (x : Nat) (v : α) : sget d (sset d t x v) x = v := by
  simp [sget_sset]

theorem sget_sset_other (d : α) (t : Sparse α) {x y : Nat} (v : α) (h : y ≠ x) :
    sget d (sset d t x v) y = sget d t y := by simp [sget_sset, h]

theorem sget_smod (d : α) (t : Sparse α) (x y : Nat) (f : α → α) :
    sget d (smod d t x f) y = if y = x then f (sget d t x) else sget d t y := sget_sset ..

@[simp] theorem sget_smod_same (d : α) (t : Sparse α) (x : Nat) (f : α → α) :
    sget d (smod d t x f) x = f (sget d t x) := by simp [sget_smod]

/-! ## The canonical form -/

theorem swfFrom_mono (d : α) {lo hi : Option Nat} (t : Sparse α)
    (h : ∀ k, above hi k = true → above lo k = true)
    (ht : swfFrom d hi t = true) : swfFrom d lo t = true := by
  cases t with
  | nil => rfl
  | cons e r =>
    obtain ⟨k, v⟩ := e
    simp only [swfFrom, Bool.and_eq_true] at ht ⊢
    exact ⟨⟨h k ht.1.1, ht.1.2⟩, ht.2⟩

theorem swfFrom_none (d : α) {lo : Option Nat} (t : Sparse α) (ht : swfFrom d lo t = true) :
    swfFrom d none t = true := swfFrom_mono d t (fun _ _ => rfl) ht

theorem swfFrom_lower (d : α) (l : Option Nat) (k : Nat) (t : Sparse α)
    (hk : above l k = true)
    (ht : swfFrom d (some k) t = true) : swfFrom d l t = true := by
  apply swfFrom_mono d t _ ht
  intro j hj
  cases l with
  | none => rfl
  | some x => simp only [above, decide_eq_true_eq] at hk hj ⊢; omega

theorem swfFrom_filter (d : α) (p : Nat × α → Bool) (lo : Option Nat) (t : Sparse α)
    (ht : swfFrom d lo t = true) : swfFrom d lo (t.filter p) = true := by
  induction t generalizing lo with
  | nil => rfl
  | cons e r ih =>
    obtain ⟨k, v⟩ := e
    simp only [swfFrom, Bool.and_eq_true] at ht
    have hr := ih (some k) ht.2
    by_cases hp : p (k, v) = true
    · rw [List.filter_cons_of_pos hp]
      simp only [swfFrom, Bool.and_eq_true]
      exact ⟨ht.1, hr⟩
    · rw [List.filter_cons_of_neg hp]
      exact swfFrom_lower d lo k _ ht.1.1 hr

theorem swfFrom_sput (d : α) (lo : Option Nat) (t : Sparse α) (x : Nat) (v : α) (hv : v ≠ d)
    (hx : above lo x = true)
    (ht : swfFrom d lo t = true) : swfFrom d lo (sput t x v) = true := by
  induction t generalizing lo with
  | nil => simp only [sput, swfFrom, Bool.and_eq_true, decide_eq_true_eq]; exact ⟨⟨hx, hv⟩, trivial⟩
  | cons e r ih =>
    obtain ⟨k, w⟩ := e
    simp only [swfFrom, Bool.and_eq_true, decide_eq_true_eq] at ht
    simp only [sput]
    split_ifs with h1 h2
    · simp only [swfFrom, Bool.and_eq_true, decide_eq_true_eq]
      exact ⟨⟨hx, hv⟩, ⟨by simpa [above] using h1, ht.1.2⟩, ht.2⟩
    · subst h2
      simp only [swfFrom, Bool.and_eq_true, decide_eq_true_eq]
      exact ⟨⟨hx, hv⟩, ht.2⟩
    · simp only [swfFrom, Bool.and_eq_true, decide_eq_true_eq]
      exact ⟨ht.1, ih (some k) (by simp only [above, decide_eq_true_eq]; omega) ht.2⟩

/-- Every write keeps the canonical form. -/
theorem swf_sset (d : α) (t : Sparse α) (x : Nat) (v : α) (ht : swf d t = true) : swf d (sset d t x v) = true := by
  unfold sset
  split_ifs with hv
  · exact swfFrom_filter d _ none t ht
  · exact swfFrom_sput d none t x v hv rfl ht

theorem swf_filter (d : α) (t : Sparse α) (p : Nat × α → Bool) (ht : swf d t = true) : swf d (t.filter p) = true :=
  swfFrom_filter d p none t ht

end

/-! ## Raw memory -/

@[simp] theorem peek_poke (m : Mem) (a b : Nat) (v : Byte) :
    peek (poke m a v) b = if b = a then v else peek m b := sget_sset ..

theorem memWf_poke (m : Mem) (a : Nat) (v : Byte) (h : memWf m = true) : memWf (poke m a v) = true :=
  swf_sset 0 m.cells a v h

theorem memWf_pokes (m : Mem) (a : Nat) (bs : List Byte) (h : memWf m = true) : memWf (pokes m a bs) = true := by
  induction bs generalizing m a with
  | nil => exact h
  | cons b r ih => exact ih _ _ (memWf_poke m a b h)

/-- A byte outside the range written reads as before. -/
theorem peek_pokes_outside (m : Mem) (a : Nat) (bs : List Byte) (b : Nat) (h : b < a ∨ a + bs.length ≤ b) :
    peek (pokes m a bs) b = peek m b := by
  induction bs generalizing m a with
  | nil => rfl
  | cons v r ih =>
    simp only [List.length_cons] at h
    rw [pokes, ih _ _ (by omega), peek_poke, if_neg (by omega)]

/-- A byte of the range written reads as written. -/
theorem peek_pokes_inside (m : Mem) (a : Nat) (bs : List Byte) (i : Nat) (h : i < bs.length) :
    peek (pokes m a bs) (a + i) = bs[i] := by
  induction bs generalizing m a i with
  | nil => simp at h
  | cons v r ih =>
    cases i with
    | zero => rw [pokes, Nat.add_zero, peek_pokes_outside _ _ _ _ (by omega), peek_poke]; simp
    | succ j =>
      have := ih (poke m a v) (a + 1) j (by simpa using h)
      rw [pokes, show a + (j + 1) = a + 1 + j by omega, this]; simp

theorem peeks_pokes (m : Mem) (a : Nat) (bs : List Byte) : peeks (pokes m a bs) a bs.length = bs := by
  have len : ∀ (m : Mem) (a n : Nat), (peeks m a n).length = n := by
    intro m a n; induction n generalizing a with
    | zero => rfl
    | succ n ih => simp [peeks, ih]
  have get : ∀ (m : Mem) (n a i : Nat) (h : i < (peeks m a n).length), (peeks m a n)[i] = peek m (a + i) := by
    intro m n; induction n with
    | zero => intro a i h; simp [peeks] at h
    | succ n ih =>
      intro a i h
      cases i with
      | zero => simp [peeks]
      | succ j => simp only [peeks, List.getElem_cons_succ]; rw [ih]; congr 1; omega
  apply List.ext_getElem (len ..)
  intro i h1 h2
  rw [get, peek_pokes_inside _ _ _ _ h2]

end Sys2Proof.Machine
end

