-- ==== Sys2Proof/Laws/State.lean ====
section
/-! SUPPORT. The updates of the module's state: each leaves every field but its own as it was, and a
unit reads back as it was written. -/

namespace Sys2Proof.Machine

variable (m : Mod)

/-! ## setEngine -/

@[simp] theorem setEngine_bar0 (g : Nat) (e : Engine) : (setEngine m g e).bar0 = m.bar0 := rfl
@[simp] theorem setEngine_hub (g : Nat) (e : Engine) : (setEngine m g e).hub = m.hub := rfl
@[simp] theorem setEngine_pwr (g : Nat) (e : Engine) : (setEngine m g e).pwr = m.pwr := rfl
@[simp] theorem setEngine_sec (g : Nat) (e : Engine) : (setEngine m g e).sec = m.sec := rfl
@[simp] theorem setEngine_logs (g : Nat) (e : Engine) : (setEngine m g e).logs = m.logs := rfl
@[simp] theorem setEngine_mem (g : Nat) (e : Engine) : (setEngine m g e).mem = m.mem := rfl
@[simp] theorem setEngine_regions (g : Nat) (e : Engine) : (setEngine m g e).regions = m.regions := rfl
@[simp] theorem setEngine_regQ (g : Nat) (e : Engine) : (setEngine m g e).regQ = m.regQ := rfl
@[simp] theorem setEngine_gather (g : Nat) (e : Engine) : (setEngine m g e).gather = m.gather := rfl
@[simp] theorem setEngine_rings (g : Nat) (e : Engine) : (setEngine m g e).rings = m.rings := rfl
@[simp] theorem setEngine_cmds (g : Nat) (e : Engine) : (setEngine m g e).cmds = m.cmds := rfl
@[simp] theorem setEngine_parts (g : Nat) (e : Engine) : (setEngine m g e).parts = m.parts := rfl
@[simp] theorem setEngine_sync (g : Nat) (e : Engine) : (setEngine m g e).sync = m.sync := rfl
@[simp] theorem setEngine_syncQ (g : Nat) (e : Engine) : (setEngine m g e).syncQ = m.syncQ := rfl
@[simp] theorem setEngine_hqs (g : Nat) (e : Engine) : (setEngine m g e).hqs = m.hqs := rfl
@[simp] theorem setEngine_hqQ (g : Nat) (e : Engine) : (setEngine m g e).hqQ = m.hqQ := rfl
@[simp] theorem setEngine_coreBreaks (g : Nat) (e : Engine) : (setEngine m g e).coreBreaks = m.coreBreaks := rfl
@[simp] theorem setEngine_coresHalted (g : Nat) (e : Engine) : (setEngine m g e).coresHalted = m.coresHalted := rfl
@[simp] theorem setEngine_wdog (g : Nat) (e : Engine) : (setEngine m g e).wdog = m.wdog := rfl
@[simp] theorem setEngine_traceRr (g : Nat) (e : Engine) : (setEngine m g e).traceRr = m.traceRr := rfl
@[simp] theorem setEngine_router (g : Nat) (e : Engine) : (setEngine m g e).router = m.router := rfl
@[simp] theorem setEngine_bulkOut (g : Nat) (e : Engine) : (setEngine m g e).bulkOut = m.bulkOut := rfl
@[simp] theorem setEngine_coolIn (g : Nat) (e : Engine) : (setEngine m g e).coolIn = m.coolIn := rfl
@[simp] theorem setEngine_coolOut (g : Nat) (e : Engine) : (setEngine m g e).coolOut = m.coolOut := rfl
@[simp] theorem setEngine_coolAt (g : Nat) (e : Engine) : (setEngine m g e).coolAt = m.coolAt := rfl
@[simp] theorem setEngine_links (g : Nat) (e : Engine) : (setEngine m g e).links = m.links := rfl
@[simp] theorem setEngine_banks (g : Nat) (e : Engine) : (setEngine m g e).banks = m.banks := rfl
@[simp] theorem setEngine_exp (g : Nat) (e : Engine) : (setEngine m g e).exp = m.exp := rfl
@[simp] theorem setEngine_xch (g : Nat) (e : Engine) : (setEngine m g e).xch = m.xch := rfl
@[simp] theorem setEngine_media (g : Nat) (e : Engine) : (setEngine m g e).media = m.media := rfl
@[simp] theorem setEngine_tripPin (g : Nat) (e : Engine) : (setEngine m g e).tripPin = m.tripPin := rfl
@[simp] theorem setEngine_out (g : Nat) (e : Engine) : (setEngine m g e).out = m.out := rfl
@[simp] theorem setEngine_nextId (g : Nat) (e : Engine) : (setEngine m g e).nextId = m.nextId := rfl
@[simp] theorem setEngine_draw (g : Nat) (e : Engine) : (setEngine m g e).draw = m.draw := rfl

/-! ## modEngine -/

@[simp] theorem modEngine_bar0 (g : Nat) (f : Engine → Engine) : (modEngine m g f).bar0 = m.bar0 := rfl
@[simp] theorem modEngine_hub (g : Nat) (f : Engine → Engine) : (modEngine m g f).hub = m.hub := rfl
@[simp] theorem modEngine_pwr (g : Nat) (f : Engine → Engine) : (modEngine m g f).pwr = m.pwr := rfl
@[simp] theorem modEngine_sec (g : Nat) (f : Engine → Engine) : (modEngine m g f).sec = m.sec := rfl
@[simp] theorem modEngine_logs (g : Nat) (f : Engine → Engine) : (modEngine m g f).logs = m.logs := rfl
@[simp] theorem modEngine_mem (g : Nat) (f : Engine → Engine) : (modEngine m g f).mem = m.mem := rfl
@[simp] theorem modEngine_regions (g : Nat) (f : Engine → Engine) : (modEngine m g f).regions = m.regions := rfl
@[simp] theorem modEngine_regQ (g : Nat) (f : Engine → Engine) : (modEngine m g f).regQ = m.regQ := rfl
@[simp] theorem modEngine_gather (g : Nat) (f : Engine → Engine) : (modEngine m g f).gather = m.gather := rfl
@[simp] theorem modEngine_rings (g : Nat) (f : Engine → Engine) : (modEngine m g f).rings = m.rings := rfl
@[simp] theorem modEngine_cmds (g : Nat) (f : Engine → Engine) : (modEngine m g f).cmds = m.cmds := rfl
@[simp] theorem modEngine_parts (g : Nat) (f : Engine → Engine) : (modEngine m g f).parts = m.parts := rfl
@[simp] theorem modEngine_sync (g : Nat) (f : Engine → Engine) : (modEngine m g f).sync = m.sync := rfl
@[simp] theorem modEngine_syncQ (g : Nat) (f : Engine → Engine) : (modEngine m g f).syncQ = m.syncQ := rfl
@[simp] theorem modEngine_hqs (g : Nat) (f : Engine → Engine) : (modEngine m g f).hqs = m.hqs := rfl
@[simp] theorem modEngine_hqQ (g : Nat) (f : Engine → Engine) : (modEngine m g f).hqQ = m.hqQ := rfl
@[simp] theorem modEngine_coreBreaks (g : Nat) (f : Engine → Engine) : (modEngine m g f).coreBreaks = m.coreBreaks := rfl
@[simp] theorem modEngine_coresHalted (g : Nat) (f : Engine → Engine) : (modEngine m g f).coresHalted = m.coresHalted := rfl
@[simp] theorem modEngine_wdog (g : Nat) (f : Engine → Engine) : (modEngine m g f).wdog = m.wdog := rfl
@[simp] theorem modEngine_traceRr (g : Nat) (f : Engine → Engine) : (modEngine m g f).traceRr = m.traceRr := rfl
@[simp] theorem modEngine_router (g : Nat) (f : Engine → Engine) : (modEngine m g f).router = m.router := rfl
@[simp] theorem modEngine_bulkOut (g : Nat) (f : Engine → Engine) : (modEngine m g f).bulkOut = m.bulkOut := rfl
@[simp] theorem modEngine_coolIn (g : Nat) (f : Engine → Engine) : (modEngine m g f).coolIn = m.coolIn := rfl
@[simp] theorem modEngine_coolOut (g : Nat) (f : Engine → Engine) : (modEngine m g f).coolOut = m.coolOut := rfl
@[simp] theorem modEngine_coolAt (g : Nat) (f : Engine → Engine) : (modEngine m g f).coolAt = m.coolAt := rfl
@[simp] theorem modEngine_links (g : Nat) (f : Engine → Engine) : (modEngine m g f).links = m.links := rfl
@[simp] theorem modEngine_banks (g : Nat) (f : Engine → Engine) : (modEngine m g f).banks = m.banks := rfl
@[simp] theorem modEngine_exp (g : Nat) (f : Engine → Engine) : (modEngine m g f).exp = m.exp := rfl
@[simp] theorem modEngine_xch (g : Nat) (f : Engine → Engine) : (modEngine m g f).xch = m.xch := rfl
@[simp] theorem modEngine_media (g : Nat) (f : Engine → Engine) : (modEngine m g f).media = m.media := rfl
@[simp] theorem modEngine_tripPin (g : Nat) (f : Engine → Engine) : (modEngine m g f).tripPin = m.tripPin := rfl
@[simp] theorem modEngine_out (g : Nat) (f : Engine → Engine) : (modEngine m g f).out = m.out := rfl
@[simp] theorem modEngine_nextId (g : Nat) (f : Engine → Engine) : (modEngine m g f).nextId = m.nextId := rfl
@[simp] theorem modEngine_draw (g : Nat) (f : Engine → Engine) : (modEngine m g f).draw = m.draw := rfl

/-! ## modCtx -/

@[simp] theorem modCtx_bar0 (g c : Nat) (f : Ctx → Ctx) : (modCtx m g c f).bar0 = m.bar0 := rfl
@[simp] theorem modCtx_hub (g c : Nat) (f : Ctx → Ctx) : (modCtx m g c f).hub = m.hub := rfl
@[simp] theorem modCtx_pwr (g c : Nat) (f : Ctx → Ctx) : (modCtx m g c f).pwr = m.pwr := rfl
@[simp] theorem modCtx_sec (g c : Nat) (f : Ctx → Ctx) : (modCtx m g c f).sec = m.sec := rfl
@[simp] theorem modCtx_logs (g c : Nat) (f : Ctx → Ctx) : (modCtx m g c f).logs = m.logs := rfl
@[simp] theorem modCtx_mem (g c : Nat) (f : Ctx → Ctx) : (modCtx m g c f).mem = m.mem := rfl
@[simp] theorem modCtx_regions (g c : Nat) (f : Ctx → Ctx) : (modCtx m g c f).regions = m.regions := rfl
@[simp] theorem modCtx_regQ (g c : Nat) (f : Ctx → Ctx) : (modCtx m g c f).regQ = m.regQ := rfl
@[simp] theorem modCtx_gather (g c : Nat) (f : Ctx → Ctx) : (modCtx m g c f).gather = m.gather := rfl
@[simp] theorem modCtx_rings (g c : Nat) (f : Ctx → Ctx) : (modCtx m g c f).rings = m.rings := rfl
@[simp] theorem modCtx_cmds (g c : Nat) (f : Ctx → Ctx) : (modCtx m g c f).cmds = m.cmds := rfl
@[simp] theorem modCtx_parts (g c : Nat) (f : Ctx → Ctx) : (modCtx m g c f).parts = m.parts := rfl
@[simp] theorem modCtx_sync (g c : Nat) (f : Ctx → Ctx) : (modCtx m g c f).sync = m.sync := rfl
@[simp] theorem modCtx_syncQ (g c : Nat) (f : Ctx → Ctx) : (modCtx m g c f).syncQ = m.syncQ := rfl
@[simp] theorem modCtx_hqs (g c : Nat) (f : Ctx → Ctx) : (modCtx m g c f).hqs = m.hqs := rfl
@[simp] theorem modCtx_hqQ (g c : Nat) (f : Ctx → Ctx) : (modCtx m g c f).hqQ = m.hqQ := rfl
@[simp] theorem modCtx_coreBreaks (g c : Nat) (f : Ctx → Ctx) : (modCtx m g c f).coreBreaks = m.coreBreaks := rfl
@[simp] theorem modCtx_coresHalted (g c : Nat) (f : Ctx → Ctx) : (modCtx m g c f).coresHalted = m.coresHalted := rfl
@[simp] theorem modCtx_wdog (g c : Nat) (f : Ctx → Ctx) : (modCtx m g c f).wdog = m.wdog := rfl
@[simp] theorem modCtx_traceRr (g c : Nat) (f : Ctx → Ctx) : (modCtx m g c f).traceRr = m.traceRr := rfl
@[simp] theorem modCtx_router (g c : Nat) (f : Ctx → Ctx) : (modCtx m g c f).router = m.router := rfl
@[simp] theorem modCtx_bulkOut (g c : Nat) (f : Ctx → Ctx) : (modCtx m g c f).bulkOut = m.bulkOut := rfl
@[simp] theorem modCtx_coolIn (g c : Nat) (f : Ctx → Ctx) : (modCtx m g c f).coolIn = m.coolIn := rfl
@[simp] theorem modCtx_coolOut (g c : Nat) (f : Ctx → Ctx) : (modCtx m g c f).coolOut = m.coolOut := rfl
@[simp] theorem modCtx_coolAt (g c : Nat) (f : Ctx → Ctx) : (modCtx m g c f).coolAt = m.coolAt := rfl
@[simp] theorem modCtx_links (g c : Nat) (f : Ctx → Ctx) : (modCtx m g c f).links = m.links := rfl
@[simp] theorem modCtx_banks (g c : Nat) (f : Ctx → Ctx) : (modCtx m g c f).banks = m.banks := rfl
@[simp] theorem modCtx_exp (g c : Nat) (f : Ctx → Ctx) : (modCtx m g c f).exp = m.exp := rfl
@[simp] theorem modCtx_xch (g c : Nat) (f : Ctx → Ctx) : (modCtx m g c f).xch = m.xch := rfl
@[simp] theorem modCtx_media (g c : Nat) (f : Ctx → Ctx) : (modCtx m g c f).media = m.media := rfl
@[simp] theorem modCtx_tripPin (g c : Nat) (f : Ctx → Ctx) : (modCtx m g c f).tripPin = m.tripPin := rfl
@[simp] theorem modCtx_out (g c : Nat) (f : Ctx → Ctx) : (modCtx m g c f).out = m.out := rfl
@[simp] theorem modCtx_nextId (g c : Nat) (f : Ctx → Ctx) : (modCtx m g c f).nextId = m.nextId := rfl
@[simp] theorem modCtx_draw (g c : Nat) (f : Ctx → Ctx) : (modCtx m g c f).draw = m.draw := rfl

/-! ## modDmaq -/

@[simp] theorem modDmaq_bar0 (g q : Nat) (f : DmaQ → DmaQ) : (modDmaq m g q f).bar0 = m.bar0 := rfl
@[simp] theorem modDmaq_hub (g q : Nat) (f : DmaQ → DmaQ) : (modDmaq m g q f).hub = m.hub := rfl
@[simp] theorem modDmaq_pwr (g q : Nat) (f : DmaQ → DmaQ) : (modDmaq m g q f).pwr = m.pwr := rfl
@[simp] theorem modDmaq_sec (g q : Nat) (f : DmaQ → DmaQ) : (modDmaq m g q f).sec = m.sec := rfl
@[simp] theorem modDmaq_logs (g q : Nat) (f : DmaQ → DmaQ) : (modDmaq m g q f).logs = m.logs := rfl
@[simp] theorem modDmaq_mem (g q : Nat) (f : DmaQ → DmaQ) : (modDmaq m g q f).mem = m.mem := rfl
@[simp] theorem modDmaq_regions (g q : Nat) (f : DmaQ → DmaQ) : (modDmaq m g q f).regions = m.regions := rfl
@[simp] theorem modDmaq_regQ (g q : Nat) (f : DmaQ → DmaQ) : (modDmaq m g q f).regQ = m.regQ := rfl
@[simp] theorem modDmaq_gather (g q : Nat) (f : DmaQ → DmaQ) : (modDmaq m g q f).gather = m.gather := rfl
@[simp] theorem modDmaq_rings (g q : Nat) (f : DmaQ → DmaQ) : (modDmaq m g q f).rings = m.rings := rfl
@[simp] theorem modDmaq_cmds (g q : Nat) (f : DmaQ → DmaQ) : (modDmaq m g q f).cmds = m.cmds := rfl
@[simp] theorem modDmaq_parts (g q : Nat) (f : DmaQ → DmaQ) : (modDmaq m g q f).parts = m.parts := rfl
@[simp] theorem modDmaq_sync (g q : Nat) (f : DmaQ → DmaQ) : (modDmaq m g q f).sync = m.sync := rfl
@[simp] theorem modDmaq_syncQ (g q : Nat) (f : DmaQ → DmaQ) : (modDmaq m g q f).syncQ = m.syncQ := rfl
@[simp] theorem modDmaq_hqs (g q : Nat) (f : DmaQ → DmaQ) : (modDmaq m g q f).hqs = m.hqs := rfl
@[simp] theorem modDmaq_hqQ (g q : Nat) (f : DmaQ → DmaQ) : (modDmaq m g q f).hqQ = m.hqQ := rfl
@[simp] theorem modDmaq_coreBreaks (g q : Nat) (f : DmaQ → DmaQ) : (modDmaq m g q f).coreBreaks = m.coreBreaks := rfl
@[simp] theorem modDmaq_coresHalted (g q : Nat) (f : DmaQ → DmaQ) : (modDmaq m g q f).coresHalted = m.coresHalted := rfl
@[simp] theorem modDmaq_wdog (g q : Nat) (f : DmaQ → DmaQ) : (modDmaq m g q f).wdog = m.wdog := rfl
@[simp] theorem modDmaq_traceRr (g q : Nat) (f : DmaQ → DmaQ) : (modDmaq m g q f).traceRr = m.traceRr := rfl
@[simp] theorem modDmaq_router (g q : Nat) (f : DmaQ → DmaQ) : (modDmaq m g q f).router = m.router := rfl
@[simp] theorem modDmaq_bulkOut (g q : Nat) (f : DmaQ → DmaQ) : (modDmaq m g q f).bulkOut = m.bulkOut := rfl
@[simp] theorem modDmaq_coolIn (g q : Nat) (f : DmaQ → DmaQ) : (modDmaq m g q f).coolIn = m.coolIn := rfl
@[simp] theorem modDmaq_coolOut (g q : Nat) (f : DmaQ → DmaQ) : (modDmaq m g q f).coolOut = m.coolOut := rfl
@[simp] theorem modDmaq_coolAt (g q : Nat) (f : DmaQ → DmaQ) : (modDmaq m g q f).coolAt = m.coolAt := rfl
@[simp] theorem modDmaq_links (g q : Nat) (f : DmaQ → DmaQ) : (modDmaq m g q f).links = m.links := rfl
@[simp] theorem modDmaq_banks (g q : Nat) (f : DmaQ → DmaQ) : (modDmaq m g q f).banks = m.banks := rfl
@[simp] theorem modDmaq_exp (g q : Nat) (f : DmaQ → DmaQ) : (modDmaq m g q f).exp = m.exp := rfl
@[simp] theorem modDmaq_xch (g q : Nat) (f : DmaQ → DmaQ) : (modDmaq m g q f).xch = m.xch := rfl
@[simp] theorem modDmaq_media (g q : Nat) (f : DmaQ → DmaQ) : (modDmaq m g q f).media = m.media := rfl
@[simp] theorem modDmaq_tripPin (g q : Nat) (f : DmaQ → DmaQ) : (modDmaq m g q f).tripPin = m.tripPin := rfl
@[simp] theorem modDmaq_out (g q : Nat) (f : DmaQ → DmaQ) : (modDmaq m g q f).out = m.out := rfl
@[simp] theorem modDmaq_nextId (g q : Nat) (f : DmaQ → DmaQ) : (modDmaq m g q f).nextId = m.nextId := rfl
@[simp] theorem modDmaq_draw (g q : Nat) (f : DmaQ → DmaQ) : (modDmaq m g q f).draw = m.draw := rfl

/-! ## modPart -/

@[simp] theorem modPart_bar0 (k : Nat) (f : PartSt → PartSt) : (modPart m k f).bar0 = m.bar0 := rfl
@[simp] theorem modPart_hub (k : Nat) (f : PartSt → PartSt) : (modPart m k f).hub = m.hub := rfl
@[simp] theorem modPart_pwr (k : Nat) (f : PartSt → PartSt) : (modPart m k f).pwr = m.pwr := rfl
@[simp] theorem modPart_sec (k : Nat) (f : PartSt → PartSt) : (modPart m k f).sec = m.sec := rfl
@[simp] theorem modPart_logs (k : Nat) (f : PartSt → PartSt) : (modPart m k f).logs = m.logs := rfl
@[simp] theorem modPart_mem (k : Nat) (f : PartSt → PartSt) : (modPart m k f).mem = m.mem := rfl
@[simp] theorem modPart_regions (k : Nat) (f : PartSt → PartSt) : (modPart m k f).regions = m.regions := rfl
@[simp] theorem modPart_regQ (k : Nat) (f : PartSt → PartSt) : (modPart m k f).regQ = m.regQ := rfl
@[simp] theorem modPart_gather (k : Nat) (f : PartSt → PartSt) : (modPart m k f).gather = m.gather := rfl
@[simp] theorem modPart_rings (k : Nat) (f : PartSt → PartSt) : (modPart m k f).rings = m.rings := rfl
@[simp] theorem modPart_cmds (k : Nat) (f : PartSt → PartSt) : (modPart m k f).cmds = m.cmds := rfl
@[simp] theorem modPart_eng (k : Nat) (f : PartSt → PartSt) : (modPart m k f).eng = m.eng := rfl
@[simp] theorem modPart_sync (k : Nat) (f : PartSt → PartSt) : (modPart m k f).sync = m.sync := rfl
@[simp] theorem modPart_syncQ (k : Nat) (f : PartSt → PartSt) : (modPart m k f).syncQ = m.syncQ := rfl
@[simp] theorem modPart_hqs (k : Nat) (f : PartSt → PartSt) : (modPart m k f).hqs = m.hqs := rfl
@[simp] theorem modPart_hqQ (k : Nat) (f : PartSt → PartSt) : (modPart m k f).hqQ = m.hqQ := rfl
@[simp] theorem modPart_coreBreaks (k : Nat) (f : PartSt → PartSt) : (modPart m k f).coreBreaks = m.coreBreaks := rfl
@[simp] theorem modPart_coresHalted (k : Nat) (f : PartSt → PartSt) : (modPart m k f).coresHalted = m.coresHalted := rfl
@[simp] theorem modPart_wdog (k : Nat) (f : PartSt → PartSt) : (modPart m k f).wdog = m.wdog := rfl
@[simp] theorem modPart_traceRr (k : Nat) (f : PartSt → PartSt) : (modPart m k f).traceRr = m.traceRr := rfl
@[simp] theorem modPart_router (k : Nat) (f : PartSt → PartSt) : (modPart m k f).router = m.router := rfl
@[simp] theorem modPart_bulkOut (k : Nat) (f : PartSt → PartSt) : (modPart m k f).bulkOut = m.bulkOut := rfl
@[simp] theorem modPart_coolIn (k : Nat) (f : PartSt → PartSt) : (modPart m k f).coolIn = m.coolIn := rfl
@[simp] theorem modPart_coolOut (k : Nat) (f : PartSt → PartSt) : (modPart m k f).coolOut = m.coolOut := rfl
@[simp] theorem modPart_coolAt (k : Nat) (f : PartSt → PartSt) : (modPart m k f).coolAt = m.coolAt := rfl
@[simp] theorem modPart_links (k : Nat) (f : PartSt → PartSt) : (modPart m k f).links = m.links := rfl
@[simp] theorem modPart_banks (k : Nat) (f : PartSt → PartSt) : (modPart m k f).banks = m.banks := rfl
@[simp] theorem modPart_exp (k : Nat) (f : PartSt → PartSt) : (modPart m k f).exp = m.exp := rfl
@[simp] theorem modPart_xch (k : Nat) (f : PartSt → PartSt) : (modPart m k f).xch = m.xch := rfl
@[simp] theorem modPart_media (k : Nat) (f : PartSt → PartSt) : (modPart m k f).media = m.media := rfl
@[simp] theorem modPart_tripPin (k : Nat) (f : PartSt → PartSt) : (modPart m k f).tripPin = m.tripPin := rfl
@[simp] theorem modPart_out (k : Nat) (f : PartSt → PartSt) : (modPart m k f).out = m.out := rfl
@[simp] theorem modPart_nextId (k : Nat) (f : PartSt → PartSt) : (modPart m k f).nextId = m.nextId := rfl
@[simp] theorem modPart_draw (k : Nat) (f : PartSt → PartSt) : (modPart m k f).draw = m.draw := rfl

/-! ## modProg -/

@[simp] theorem modProg_bar0 (k : Nat) (f : Program → Program) : (modProg m k f).bar0 = m.bar0 := rfl
@[simp] theorem modProg_hub (k : Nat) (f : Program → Program) : (modProg m k f).hub = m.hub := rfl
@[simp] theorem modProg_pwr (k : Nat) (f : Program → Program) : (modProg m k f).pwr = m.pwr := rfl
@[simp] theorem modProg_sec (k : Nat) (f : Program → Program) : (modProg m k f).sec = m.sec := rfl
@[simp] theorem modProg_logs (k : Nat) (f : Program → Program) : (modProg m k f).logs = m.logs := rfl
@[simp] theorem modProg_mem (k : Nat) (f : Program → Program) : (modProg m k f).mem = m.mem := rfl
@[simp] theorem modProg_regions (k : Nat) (f : Program → Program) : (modProg m k f).regions = m.regions := rfl
@[simp] theorem modProg_regQ (k : Nat) (f : Program → Program) : (modProg m k f).regQ = m.regQ := rfl
@[simp] theorem modProg_gather (k : Nat) (f : Program → Program) : (modProg m k f).gather = m.gather := rfl
@[simp] theorem modProg_rings (k : Nat) (f : Program → Program) : (modProg m k f).rings = m.rings := rfl
@[simp] theorem modProg_cmds (k : Nat) (f : Program → Program) : (modProg m k f).cmds = m.cmds := rfl
@[simp] theorem modProg_eng (k : Nat) (f : Program → Program) : (modProg m k f).eng = m.eng := rfl
@[simp] theorem modProg_sync (k : Nat) (f : Program → Program) : (modProg m k f).sync = m.sync := rfl
@[simp] theorem modProg_syncQ (k : Nat) (f : Program → Program) : (modProg m k f).syncQ = m.syncQ := rfl
@[simp] theorem modProg_hqs (k : Nat) (f : Program → Program) : (modProg m k f).hqs = m.hqs := rfl
@[simp] theorem modProg_hqQ (k : Nat) (f : Program → Program) : (modProg m k f).hqQ = m.hqQ := rfl
@[simp] theorem modProg_coreBreaks (k : Nat) (f : Program → Program) : (modProg m k f).coreBreaks = m.coreBreaks := rfl
@[simp] theorem modProg_coresHalted (k : Nat) (f : Program → Program) : (modProg m k f).coresHalted = m.coresHalted := rfl
@[simp] theorem modProg_wdog (k : Nat) (f : Program → Program) : (modProg m k f).wdog = m.wdog := rfl
@[simp] theorem modProg_traceRr (k : Nat) (f : Program → Program) : (modProg m k f).traceRr = m.traceRr := rfl
@[simp] theorem modProg_router (k : Nat) (f : Program → Program) : (modProg m k f).router = m.router := rfl
@[simp] theorem modProg_bulkOut (k : Nat) (f : Program → Program) : (modProg m k f).bulkOut = m.bulkOut := rfl
@[simp] theorem modProg_coolIn (k : Nat) (f : Program → Program) : (modProg m k f).coolIn = m.coolIn := rfl
@[simp] theorem modProg_coolOut (k : Nat) (f : Program → Program) : (modProg m k f).coolOut = m.coolOut := rfl
@[simp] theorem modProg_coolAt (k : Nat) (f : Program → Program) : (modProg m k f).coolAt = m.coolAt := rfl
@[simp] theorem modProg_links (k : Nat) (f : Program → Program) : (modProg m k f).links = m.links := rfl
@[simp] theorem modProg_banks (k : Nat) (f : Program → Program) : (modProg m k f).banks = m.banks := rfl
@[simp] theorem modProg_exp (k : Nat) (f : Program → Program) : (modProg m k f).exp = m.exp := rfl
@[simp] theorem modProg_xch (k : Nat) (f : Program → Program) : (modProg m k f).xch = m.xch := rfl
@[simp] theorem modProg_media (k : Nat) (f : Program → Program) : (modProg m k f).media = m.media := rfl
@[simp] theorem modProg_tripPin (k : Nat) (f : Program → Program) : (modProg m k f).tripPin = m.tripPin := rfl
@[simp] theorem modProg_out (k : Nat) (f : Program → Program) : (modProg m k f).out = m.out := rfl
@[simp] theorem modProg_nextId (k : Nat) (f : Program → Program) : (modProg m k f).nextId = m.nextId := rfl
@[simp] theorem modProg_draw (k : Nat) (f : Program → Program) : (modProg m k f).draw = m.draw := rfl

/-! ## modRing -/

@[simp] theorem modRing_bar0 (n : Nat) (f : Ring → Ring) : (modRing m n f).bar0 = m.bar0 := rfl
@[simp] theorem modRing_hub (n : Nat) (f : Ring → Ring) : (modRing m n f).hub = m.hub := rfl
@[simp] theorem modRing_pwr (n : Nat) (f : Ring → Ring) : (modRing m n f).pwr = m.pwr := rfl
@[simp] theorem modRing_sec (n : Nat) (f : Ring → Ring) : (modRing m n f).sec = m.sec := rfl
@[simp] theorem modRing_logs (n : Nat) (f : Ring → Ring) : (modRing m n f).logs = m.logs := rfl
@[simp] theorem modRing_mem (n : Nat) (f : Ring → Ring) : (modRing m n f).mem = m.mem := rfl
@[simp] theorem modRing_regions (n : Nat) (f : Ring → Ring) : (modRing m n f).regions = m.regions := rfl
@[simp] theorem modRing_regQ (n : Nat) (f : Ring → Ring) : (modRing m n f).regQ = m.regQ := rfl
@[simp] theorem modRing_gather (n : Nat) (f : Ring → Ring) : (modRing m n f).gather = m.gather := rfl
@[simp] theorem modRing_cmds (n : Nat) (f : Ring → Ring) : (modRing m n f).cmds = m.cmds := rfl
@[simp] theorem modRing_parts (n : Nat) (f : Ring → Ring) : (modRing m n f).parts = m.parts := rfl
@[simp] theorem modRing_eng (n : Nat) (f : Ring → Ring) : (modRing m n f).eng = m.eng := rfl
@[simp] theorem modRing_sync (n : Nat) (f : Ring → Ring) : (modRing m n f).sync = m.sync := rfl
@[simp] theorem modRing_syncQ (n : Nat) (f : Ring → Ring) : (modRing m n f).syncQ = m.syncQ := rfl
@[simp] theorem modRing_hqs (n : Nat) (f : Ring → Ring) : (modRing m n f).hqs = m.hqs := rfl
@[simp] theorem modRing_hqQ (n : Nat) (f : Ring → Ring) : (modRing m n f).hqQ = m.hqQ := rfl
@[simp] theorem modRing_coreBreaks (n : Nat) (f : Ring → Ring) : (modRing m n f).coreBreaks = m.coreBreaks := rfl
@[simp] theorem modRing_coresHalted (n : Nat) (f : Ring → Ring) : (modRing m n f).coresHalted = m.coresHalted := rfl
@[simp] theorem modRing_wdog (n : Nat) (f : Ring → Ring) : (modRing m n f).wdog = m.wdog := rfl
@[simp] theorem modRing_traceRr (n : Nat) (f : Ring → Ring) : (modRing m n f).traceRr = m.traceRr := rfl
@[simp] theorem modRing_router (n : Nat) (f : Ring → Ring) : (modRing m n f).router = m.router := rfl
@[simp] theorem modRing_bulkOut (n : Nat) (f : Ring → Ring) : (modRing m n f).bulkOut = m.bulkOut := rfl
@[simp] theorem modRing_coolIn (n : Nat) (f : Ring → Ring) : (modRing m n f).coolIn = m.coolIn := rfl
@[simp] theorem modRing_coolOut (n : Nat) (f : Ring → Ring) : (modRing m n f).coolOut = m.coolOut := rfl
@[simp] theorem modRing_coolAt (n : Nat) (f : Ring → Ring) : (modRing m n f).coolAt = m.coolAt := rfl
@[simp] theorem modRing_links (n : Nat) (f : Ring → Ring) : (modRing m n f).links = m.links := rfl
@[simp] theorem modRing_banks (n : Nat) (f : Ring → Ring) : (modRing m n f).banks = m.banks := rfl
@[simp] theorem modRing_exp (n : Nat) (f : Ring → Ring) : (modRing m n f).exp = m.exp := rfl
@[simp] theorem modRing_xch (n : Nat) (f : Ring → Ring) : (modRing m n f).xch = m.xch := rfl
@[simp] theorem modRing_media (n : Nat) (f : Ring → Ring) : (modRing m n f).media = m.media := rfl
@[simp] theorem modRing_tripPin (n : Nat) (f : Ring → Ring) : (modRing m n f).tripPin = m.tripPin := rfl
@[simp] theorem modRing_out (n : Nat) (f : Ring → Ring) : (modRing m n f).out = m.out := rfl
@[simp] theorem modRing_nextId (n : Nat) (f : Ring → Ring) : (modRing m n f).nextId = m.nextId := rfl
@[simp] theorem modRing_draw (n : Nat) (f : Ring → Ring) : (modRing m n f).draw = m.draw := rfl

/-! ## modPort -/

@[simp] theorem modPort_bar0 (p : Nat) (f : LPort → LPort) : (modPort m p f).bar0 = m.bar0 := rfl
@[simp] theorem modPort_hub (p : Nat) (f : LPort → LPort) : (modPort m p f).hub = m.hub := rfl
@[simp] theorem modPort_pwr (p : Nat) (f : LPort → LPort) : (modPort m p f).pwr = m.pwr := rfl
@[simp] theorem modPort_sec (p : Nat) (f : LPort → LPort) : (modPort m p f).sec = m.sec := rfl
@[simp] theorem modPort_logs (p : Nat) (f : LPort → LPort) : (modPort m p f).logs = m.logs := rfl
@[simp] theorem modPort_mem (p : Nat) (f : LPort → LPort) : (modPort m p f).mem = m.mem := rfl
@[simp] theorem modPort_regions (p : Nat) (f : LPort → LPort) : (modPort m p f).regions = m.regions := rfl
@[simp] theorem modPort_regQ (p : Nat) (f : LPort → LPort) : (modPort m p f).regQ = m.regQ := rfl
@[simp] theorem modPort_gather (p : Nat) (f : LPort → LPort) : (modPort m p f).gather = m.gather := rfl
@[simp] theorem modPort_rings (p : Nat) (f : LPort → LPort) : (modPort m p f).rings = m.rings := rfl
@[simp] theorem modPort_cmds (p : Nat) (f : LPort → LPort) : (modPort m p f).cmds = m.cmds := rfl
@[simp] theorem modPort_parts (p : Nat) (f : LPort → LPort) : (modPort m p f).parts = m.parts := rfl
@[simp] theorem modPort_eng (p : Nat) (f : LPort → LPort) : (modPort m p f).eng = m.eng := rfl
@[simp] theorem modPort_sync (p : Nat) (f : LPort → LPort) : (modPort m p f).sync = m.sync := rfl
@[simp] theorem modPort_syncQ (p : Nat) (f : LPort → LPort) : (modPort m p f).syncQ = m.syncQ := rfl
@[simp] theorem modPort_hqs (p : Nat) (f : LPort → LPort) : (modPort m p f).hqs = m.hqs := rfl
@[simp] theorem modPort_hqQ (p : Nat) (f : LPort → LPort) : (modPort m p f).hqQ = m.hqQ := rfl
@[simp] theorem modPort_coreBreaks (p : Nat) (f : LPort → LPort) : (modPort m p f).coreBreaks = m.coreBreaks := rfl
@[simp] theorem modPort_coresHalted (p : Nat) (f : LPort → LPort) : (modPort m p f).coresHalted = m.coresHalted := rfl
@[simp] theorem modPort_wdog (p : Nat) (f : LPort → LPort) : (modPort m p f).wdog = m.wdog := rfl
@[simp] theorem modPort_traceRr (p : Nat) (f : LPort → LPort) : (modPort m p f).traceRr = m.traceRr := rfl
@[simp] theorem modPort_router (p : Nat) (f : LPort → LPort) : (modPort m p f).router = m.router := rfl
@[simp] theorem modPort_bulkOut (p : Nat) (f : LPort → LPort) : (modPort m p f).bulkOut = m.bulkOut := rfl
@[simp] theorem modPort_coolIn (p : Nat) (f : LPort → LPort) : (modPort m p f).coolIn = m.coolIn := rfl
@[simp] theorem modPort_coolOut (p : Nat) (f : LPort → LPort) : (modPort m p f).coolOut = m.coolOut := rfl
@[simp] theorem modPort_coolAt (p : Nat) (f : LPort → LPort) : (modPort m p f).coolAt = m.coolAt := rfl
@[simp] theorem modPort_banks (p : Nat) (f : LPort → LPort) : (modPort m p f).banks = m.banks := rfl
@[simp] theorem modPort_exp (p : Nat) (f : LPort → LPort) : (modPort m p f).exp = m.exp := rfl
@[simp] theorem modPort_xch (p : Nat) (f : LPort → LPort) : (modPort m p f).xch = m.xch := rfl
@[simp] theorem modPort_media (p : Nat) (f : LPort → LPort) : (modPort m p f).media = m.media := rfl
@[simp] theorem modPort_tripPin (p : Nat) (f : LPort → LPort) : (modPort m p f).tripPin = m.tripPin := rfl
@[simp] theorem modPort_out (p : Nat) (f : LPort → LPort) : (modPort m p f).out = m.out := rfl
@[simp] theorem modPort_nextId (p : Nat) (f : LPort → LPort) : (modPort m p f).nextId = m.nextId := rfl
@[simp] theorem modPort_draw (p : Nat) (f : LPort → LPort) : (modPort m p f).draw = m.draw := rfl

/-! ## modBank -/

@[simp] theorem modBank_bar0 (b : Nat) (f : Bank → Bank) : (modBank m b f).bar0 = m.bar0 := rfl
@[simp] theorem modBank_hub (b : Nat) (f : Bank → Bank) : (modBank m b f).hub = m.hub := rfl
@[simp] theorem modBank_pwr (b : Nat) (f : Bank → Bank) : (modBank m b f).pwr = m.pwr := rfl
@[simp] theorem modBank_sec (b : Nat) (f : Bank → Bank) : (modBank m b f).sec = m.sec := rfl
@[simp] theorem modBank_logs (b : Nat) (f : Bank → Bank) : (modBank m b f).logs = m.logs := rfl
@[simp] theorem modBank_mem (b : Nat) (f : Bank → Bank) : (modBank m b f).mem = m.mem := rfl
@[simp] theorem modBank_regions (b : Nat) (f : Bank → Bank) : (modBank m b f).regions = m.regions := rfl
@[simp] theorem modBank_regQ (b : Nat) (f : Bank → Bank) : (modBank m b f).regQ = m.regQ := rfl
@[simp] theorem modBank_gather (b : Nat) (f : Bank → Bank) : (modBank m b f).gather = m.gather := rfl
@[simp] theorem modBank_rings (b : Nat) (f : Bank → Bank) : (modBank m b f).rings = m.rings := rfl
@[simp] theorem modBank_cmds (b : Nat) (f : Bank → Bank) : (modBank m b f).cmds = m.cmds := rfl
@[simp] theorem modBank_parts (b : Nat) (f : Bank → Bank) : (modBank m b f).parts = m.parts := rfl
@[simp] theorem modBank_eng (b : Nat) (f : Bank → Bank) : (modBank m b f).eng = m.eng := rfl
@[simp] theorem modBank_sync (b : Nat) (f : Bank → Bank) : (modBank m b f).sync = m.sync := rfl
@[simp] theorem modBank_syncQ (b : Nat) (f : Bank → Bank) : (modBank m b f).syncQ = m.syncQ := rfl
@[simp] theorem modBank_hqs (b : Nat) (f : Bank → Bank) : (modBank m b f).hqs = m.hqs := rfl
@[simp] theorem modBank_hqQ (b : Nat) (f : Bank → Bank) : (modBank m b f).hqQ = m.hqQ := rfl
@[simp] theorem modBank_coreBreaks (b : Nat) (f : Bank → Bank) : (modBank m b f).coreBreaks = m.coreBreaks := rfl
@[simp] theorem modBank_coresHalted (b : Nat) (f : Bank → Bank) : (modBank m b f).coresHalted = m.coresHalted := rfl
@[simp] theorem modBank_wdog (b : Nat) (f : Bank → Bank) : (modBank m b f).wdog = m.wdog := rfl
@[simp] theorem modBank_traceRr (b : Nat) (f : Bank → Bank) : (modBank m b f).traceRr = m.traceRr := rfl
@[simp] theorem modBank_router (b : Nat) (f : Bank → Bank) : (modBank m b f).router = m.router := rfl
@[simp] theorem modBank_bulkOut (b : Nat) (f : Bank → Bank) : (modBank m b f).bulkOut = m.bulkOut := rfl
@[simp] theorem modBank_coolIn (b : Nat) (f : Bank → Bank) : (modBank m b f).coolIn = m.coolIn := rfl
@[simp] theorem modBank_coolOut (b : Nat) (f : Bank → Bank) : (modBank m b f).coolOut = m.coolOut := rfl
@[simp] theorem modBank_coolAt (b : Nat) (f : Bank → Bank) : (modBank m b f).coolAt = m.coolAt := rfl
@[simp] theorem modBank_links (b : Nat) (f : Bank → Bank) : (modBank m b f).links = m.links := rfl
@[simp] theorem modBank_exp (b : Nat) (f : Bank → Bank) : (modBank m b f).exp = m.exp := rfl
@[simp] theorem modBank_xch (b : Nat) (f : Bank → Bank) : (modBank m b f).xch = m.xch := rfl
@[simp] theorem modBank_media (b : Nat) (f : Bank → Bank) : (modBank m b f).media = m.media := rfl
@[simp] theorem modBank_tripPin (b : Nat) (f : Bank → Bank) : (modBank m b f).tripPin = m.tripPin := rfl
@[simp] theorem modBank_out (b : Nat) (f : Bank → Bank) : (modBank m b f).out = m.out := rfl
@[simp] theorem modBank_nextId (b : Nat) (f : Bank → Bank) : (modBank m b f).nextId = m.nextId := rfl
@[simp] theorem modBank_draw (b : Nat) (f : Bank → Bank) : (modBank m b f).draw = m.draw := rfl

/-! ## modMdie -/

@[simp] theorem modMdie_bar0 (d : Nat) (f : MDie → MDie) : (modMdie m d f).bar0 = m.bar0 := rfl
@[simp] theorem modMdie_hub (d : Nat) (f : MDie → MDie) : (modMdie m d f).hub = m.hub := rfl
@[simp] theorem modMdie_pwr (d : Nat) (f : MDie → MDie) : (modMdie m d f).pwr = m.pwr := rfl
@[simp] theorem modMdie_sec (d : Nat) (f : MDie → MDie) : (modMdie m d f).sec = m.sec := rfl
@[simp] theorem modMdie_logs (d : Nat) (f : MDie → MDie) : (modMdie m d f).logs = m.logs := rfl
@[simp] theorem modMdie_mem (d : Nat) (f : MDie → MDie) : (modMdie m d f).mem = m.mem := rfl
@[simp] theorem modMdie_regions (d : Nat) (f : MDie → MDie) : (modMdie m d f).regions = m.regions := rfl
@[simp] theorem modMdie_regQ (d : Nat) (f : MDie → MDie) : (modMdie m d f).regQ = m.regQ := rfl
@[simp] theorem modMdie_gather (d : Nat) (f : MDie → MDie) : (modMdie m d f).gather = m.gather := rfl
@[simp] theorem modMdie_rings (d : Nat) (f : MDie → MDie) : (modMdie m d f).rings = m.rings := rfl
@[simp] theorem modMdie_cmds (d : Nat) (f : MDie → MDie) : (modMdie m d f).cmds = m.cmds := rfl
@[simp] theorem modMdie_parts (d : Nat) (f : MDie → MDie) : (modMdie m d f).parts = m.parts := rfl
@[simp] theorem modMdie_eng (d : Nat) (f : MDie → MDie) : (modMdie m d f).eng = m.eng := rfl
@[simp] theorem modMdie_sync (d : Nat) (f : MDie → MDie) : (modMdie m d f).sync = m.sync := rfl
@[simp] theorem modMdie_syncQ (d : Nat) (f : MDie → MDie) : (modMdie m d f).syncQ = m.syncQ := rfl
@[simp] theorem modMdie_hqs (d : Nat) (f : MDie → MDie) : (modMdie m d f).hqs = m.hqs := rfl
@[simp] theorem modMdie_hqQ (d : Nat) (f : MDie → MDie) : (modMdie m d f).hqQ = m.hqQ := rfl
@[simp] theorem modMdie_coreBreaks (d : Nat) (f : MDie → MDie) : (modMdie m d f).coreBreaks = m.coreBreaks := rfl
@[simp] theorem modMdie_coresHalted (d : Nat) (f : MDie → MDie) : (modMdie m d f).coresHalted = m.coresHalted := rfl
@[simp] theorem modMdie_wdog (d : Nat) (f : MDie → MDie) : (modMdie m d f).wdog = m.wdog := rfl
@[simp] theorem modMdie_traceRr (d : Nat) (f : MDie → MDie) : (modMdie m d f).traceRr = m.traceRr := rfl
@[simp] theorem modMdie_router (d : Nat) (f : MDie → MDie) : (modMdie m d f).router = m.router := rfl
@[simp] theorem modMdie_bulkOut (d : Nat) (f : MDie → MDie) : (modMdie m d f).bulkOut = m.bulkOut := rfl
@[simp] theorem modMdie_coolIn (d : Nat) (f : MDie → MDie) : (modMdie m d f).coolIn = m.coolIn := rfl
@[simp] theorem modMdie_coolOut (d : Nat) (f : MDie → MDie) : (modMdie m d f).coolOut = m.coolOut := rfl
@[simp] theorem modMdie_coolAt (d : Nat) (f : MDie → MDie) : (modMdie m d f).coolAt = m.coolAt := rfl
@[simp] theorem modMdie_links (d : Nat) (f : MDie → MDie) : (modMdie m d f).links = m.links := rfl
@[simp] theorem modMdie_banks (d : Nat) (f : MDie → MDie) : (modMdie m d f).banks = m.banks := rfl
@[simp] theorem modMdie_exp (d : Nat) (f : MDie → MDie) : (modMdie m d f).exp = m.exp := rfl
@[simp] theorem modMdie_xch (d : Nat) (f : MDie → MDie) : (modMdie m d f).xch = m.xch := rfl
@[simp] theorem modMdie_tripPin (d : Nat) (f : MDie → MDie) : (modMdie m d f).tripPin = m.tripPin := rfl
@[simp] theorem modMdie_out (d : Nat) (f : MDie → MDie) : (modMdie m d f).out = m.out := rfl
@[simp] theorem modMdie_nextId (d : Nat) (f : MDie → MDie) : (modMdie m d f).nextId = m.nextId := rfl
@[simp] theorem modMdie_draw (d : Nat) (f : MDie → MDie) : (modMdie m d f).draw = m.draw := rfl

/-! ## modStrm -/

@[simp] theorem modStrm_bar0 (d i : Nat) (f : Strm → Strm) : (modStrm m d i f).bar0 = m.bar0 := rfl
@[simp] theorem modStrm_hub (d i : Nat) (f : Strm → Strm) : (modStrm m d i f).hub = m.hub := rfl
@[simp] theorem modStrm_pwr (d i : Nat) (f : Strm → Strm) : (modStrm m d i f).pwr = m.pwr := rfl
@[simp] theorem modStrm_sec (d i : Nat) (f : Strm → Strm) : (modStrm m d i f).sec = m.sec := rfl
@[simp] theorem modStrm_logs (d i : Nat) (f : Strm → Strm) : (modStrm m d i f).logs = m.logs := rfl
@[simp] theorem modStrm_mem (d i : Nat) (f : Strm → Strm) : (modStrm m d i f).mem = m.mem := rfl
@[simp] theorem modStrm_regions (d i : Nat) (f : Strm → Strm) : (modStrm m d i f).regions = m.regions := rfl
@[simp] theorem modStrm_regQ (d i : Nat) (f : Strm → Strm) : (modStrm m d i f).regQ = m.regQ := rfl
@[simp] theorem modStrm_gather (d i : Nat) (f : Strm → Strm) : (modStrm m d i f).gather = m.gather := rfl
@[simp] theorem modStrm_rings (d i : Nat) (f : Strm → Strm) : (modStrm m d i f).rings = m.rings := rfl
@[simp] theorem modStrm_cmds (d i : Nat) (f : Strm → Strm) : (modStrm m d i f).cmds = m.cmds := rfl
@[simp] theorem modStrm_parts (d i : Nat) (f : Strm → Strm) : (modStrm m d i f).parts = m.parts := rfl
@[simp] theorem modStrm_eng (d i : Nat) (f : Strm → Strm) : (modStrm m d i f).eng = m.eng := rfl
@[simp] theorem modStrm_sync (d i : Nat) (f : Strm → Strm) : (modStrm m d i f).sync = m.sync := rfl
@[simp] theorem modStrm_syncQ (d i : Nat) (f : Strm → Strm) : (modStrm m d i f).syncQ = m.syncQ := rfl
@[simp] theorem modStrm_hqs (d i : Nat) (f : Strm → Strm) : (modStrm m d i f).hqs = m.hqs := rfl
@[simp] theorem modStrm_hqQ (d i : Nat) (f : Strm → Strm) : (modStrm m d i f).hqQ = m.hqQ := rfl
@[simp] theorem modStrm_coreBreaks (d i : Nat) (f : Strm → Strm) : (modStrm m d i f).coreBreaks = m.coreBreaks := rfl
@[simp] theorem modStrm_coresHalted (d i : Nat) (f : Strm → Strm) : (modStrm m d i f).coresHalted = m.coresHalted := rfl
@[simp] theorem modStrm_wdog (d i : Nat) (f : Strm → Strm) : (modStrm m d i f).wdog = m.wdog := rfl
@[simp] theorem modStrm_traceRr (d i : Nat) (f : Strm → Strm) : (modStrm m d i f).traceRr = m.traceRr := rfl
@[simp] theorem modStrm_router (d i : Nat) (f : Strm → Strm) : (modStrm m d i f).router = m.router := rfl
@[simp] theorem modStrm_bulkOut (d i : Nat) (f : Strm → Strm) : (modStrm m d i f).bulkOut = m.bulkOut := rfl
@[simp] theorem modStrm_coolIn (d i : Nat) (f : Strm → Strm) : (modStrm m d i f).coolIn = m.coolIn := rfl
@[simp] theorem modStrm_coolOut (d i : Nat) (f : Strm → Strm) : (modStrm m d i f).coolOut = m.coolOut := rfl
@[simp] theorem modStrm_coolAt (d i : Nat) (f : Strm → Strm) : (modStrm m d i f).coolAt = m.coolAt := rfl
@[simp] theorem modStrm_links (d i : Nat) (f : Strm → Strm) : (modStrm m d i f).links = m.links := rfl
@[simp] theorem modStrm_banks (d i : Nat) (f : Strm → Strm) : (modStrm m d i f).banks = m.banks := rfl
@[simp] theorem modStrm_exp (d i : Nat) (f : Strm → Strm) : (modStrm m d i f).exp = m.exp := rfl
@[simp] theorem modStrm_xch (d i : Nat) (f : Strm → Strm) : (modStrm m d i f).xch = m.xch := rfl
@[simp] theorem modStrm_tripPin (d i : Nat) (f : Strm → Strm) : (modStrm m d i f).tripPin = m.tripPin := rfl
@[simp] theorem modStrm_out (d i : Nat) (f : Strm → Strm) : (modStrm m d i f).out = m.out := rfl
@[simp] theorem modStrm_nextId (d i : Nat) (f : Strm → Strm) : (modStrm m d i f).nextId = m.nextId := rfl
@[simp] theorem modStrm_draw (d i : Nat) (f : Strm → Strm) : (modStrm m d i f).draw = m.draw := rfl

/-! ## modPwr -/

@[simp] theorem modPwr_bar0 (f : Pwr → Pwr) : (modPwr m f).bar0 = m.bar0 := rfl
@[simp] theorem modPwr_hub (f : Pwr → Pwr) : (modPwr m f).hub = m.hub := rfl
@[simp] theorem modPwr_sec (f : Pwr → Pwr) : (modPwr m f).sec = m.sec := rfl
@[simp] theorem modPwr_logs (f : Pwr → Pwr) : (modPwr m f).logs = m.logs := rfl
@[simp] theorem modPwr_mem (f : Pwr → Pwr) : (modPwr m f).mem = m.mem := rfl
@[simp] theorem modPwr_regions (f : Pwr → Pwr) : (modPwr m f).regions = m.regions := rfl
@[simp] theorem modPwr_regQ (f : Pwr → Pwr) : (modPwr m f).regQ = m.regQ := rfl
@[simp] theorem modPwr_gather (f : Pwr → Pwr) : (modPwr m f).gather = m.gather := rfl
@[simp] theorem modPwr_rings (f : Pwr → Pwr) : (modPwr m f).rings = m.rings := rfl
@[simp] theorem modPwr_cmds (f : Pwr → Pwr) : (modPwr m f).cmds = m.cmds := rfl
@[simp] theorem modPwr_parts (f : Pwr → Pwr) : (modPwr m f).parts = m.parts := rfl
@[simp] theorem modPwr_eng (f : Pwr → Pwr) : (modPwr m f).eng = m.eng := rfl
@[simp] theorem modPwr_sync (f : Pwr → Pwr) : (modPwr m f).sync = m.sync := rfl
@[simp] theorem modPwr_syncQ (f : Pwr → Pwr) : (modPwr m f).syncQ = m.syncQ := rfl
@[simp] theorem modPwr_hqs (f : Pwr → Pwr) : (modPwr m f).hqs = m.hqs := rfl
@[simp] theorem modPwr_hqQ (f : Pwr → Pwr) : (modPwr m f).hqQ = m.hqQ := rfl
@[simp] theorem modPwr_coreBreaks (f : Pwr → Pwr) : (modPwr m f).coreBreaks = m.coreBreaks := rfl
@[simp] theorem modPwr_coresHalted (f : Pwr → Pwr) : (modPwr m f).coresHalted = m.coresHalted := rfl
@[simp] theorem modPwr_wdog (f : Pwr → Pwr) : (modPwr m f).wdog = m.wdog := rfl
@[simp] theorem modPwr_traceRr (f : Pwr → Pwr) : (modPwr m f).traceRr = m.traceRr := rfl
@[simp] theorem modPwr_router (f : Pwr → Pwr) : (modPwr m f).router = m.router := rfl
@[simp] theorem modPwr_bulkOut (f : Pwr → Pwr) : (modPwr m f).bulkOut = m.bulkOut := rfl
@[simp] theorem modPwr_coolIn (f : Pwr → Pwr) : (modPwr m f).coolIn = m.coolIn := rfl
@[simp] theorem modPwr_coolOut (f : Pwr → Pwr) : (modPwr m f).coolOut = m.coolOut := rfl
@[simp] theorem modPwr_coolAt (f : Pwr → Pwr) : (modPwr m f).coolAt = m.coolAt := rfl
@[simp] theorem modPwr_links (f : Pwr → Pwr) : (modPwr m f).links = m.links := rfl
@[simp] theorem modPwr_banks (f : Pwr → Pwr) : (modPwr m f).banks = m.banks := rfl
@[simp] theorem modPwr_exp (f : Pwr → Pwr) : (modPwr m f).exp = m.exp := rfl
@[simp] theorem modPwr_xch (f : Pwr → Pwr) : (modPwr m f).xch = m.xch := rfl
@[simp] theorem modPwr_media (f : Pwr → Pwr) : (modPwr m f).media = m.media := rfl
@[simp] theorem modPwr_tripPin (f : Pwr → Pwr) : (modPwr m f).tripPin = m.tripPin := rfl
@[simp] theorem modPwr_out (f : Pwr → Pwr) : (modPwr m f).out = m.out := rfl
@[simp] theorem modPwr_nextId (f : Pwr → Pwr) : (modPwr m f).nextId = m.nextId := rfl
@[simp] theorem modPwr_draw (f : Pwr → Pwr) : (modPwr m f).draw = m.draw := rfl

/-! ## modGov -/

@[simp] theorem modGov_bar0 (g : Nat) (f : Gov → Gov) : (modGov m g f).bar0 = m.bar0 := rfl
@[simp] theorem modGov_hub (g : Nat) (f : Gov → Gov) : (modGov m g f).hub = m.hub := rfl
@[simp] theorem modGov_sec (g : Nat) (f : Gov → Gov) : (modGov m g f).sec = m.sec := rfl
@[simp] theorem modGov_logs (g : Nat) (f : Gov → Gov) : (modGov m g f).logs = m.logs := rfl
@[simp] theorem modGov_mem (g : Nat) (f : Gov → Gov) : (modGov m g f).mem = m.mem := rfl
@[simp] theorem modGov_regions (g : Nat) (f : Gov → Gov) : (modGov m g f).regions = m.regions := rfl
@[simp] theorem modGov_regQ (g : Nat) (f : Gov → Gov) : (modGov m g f).regQ = m.regQ := rfl
@[simp] theorem modGov_gather (g : Nat) (f : Gov → Gov) : (modGov m g f).gather = m.gather := rfl
@[simp] theorem modGov_rings (g : Nat) (f : Gov → Gov) : (modGov m g f).rings = m.rings := rfl
@[simp] theorem modGov_cmds (g : Nat) (f : Gov → Gov) : (modGov m g f).cmds = m.cmds := rfl
@[simp] theorem modGov_parts (g : Nat) (f : Gov → Gov) : (modGov m g f).parts = m.parts := rfl
@[simp] theorem modGov_eng (g : Nat) (f : Gov → Gov) : (modGov m g f).eng = m.eng := rfl
@[simp] theorem modGov_sync (g : Nat) (f : Gov → Gov) : (modGov m g f).sync = m.sync := rfl
@[simp] theorem modGov_syncQ (g : Nat) (f : Gov → Gov) : (modGov m g f).syncQ = m.syncQ := rfl
@[simp] theorem modGov_hqs (g : Nat) (f : Gov → Gov) : (modGov m g f).hqs = m.hqs := rfl
@[simp] theorem modGov_hqQ (g : Nat) (f : Gov → Gov) : (modGov m g f).hqQ = m.hqQ := rfl
@[simp] theorem modGov_coreBreaks (g : Nat) (f : Gov → Gov) : (modGov m g f).coreBreaks = m.coreBreaks := rfl
@[simp] theorem modGov_coresHalted (g : Nat) (f : Gov → Gov) : (modGov m g f).coresHalted = m.coresHalted := rfl
@[simp] theorem modGov_wdog (g : Nat) (f : Gov → Gov) : (modGov m g f).wdog = m.wdog := rfl
@[simp] theorem modGov_traceRr (g : Nat) (f : Gov → Gov) : (modGov m g f).traceRr = m.traceRr := rfl
@[simp] theorem modGov_router (g : Nat) (f : Gov → Gov) : (modGov m g f).router = m.router := rfl
@[simp] theorem modGov_bulkOut (g : Nat) (f : Gov → Gov) : (modGov m g f).bulkOut = m.bulkOut := rfl
@[simp] theorem modGov_coolIn (g : Nat) (f : Gov → Gov) : (modGov m g f).coolIn = m.coolIn := rfl
@[simp] theorem modGov_coolOut (g : Nat) (f : Gov → Gov) : (modGov m g f).coolOut = m.coolOut := rfl
@[simp] theorem modGov_coolAt (g : Nat) (f : Gov → Gov) : (modGov m g f).coolAt = m.coolAt := rfl
@[simp] theorem modGov_links (g : Nat) (f : Gov → Gov) : (modGov m g f).links = m.links := rfl
@[simp] theorem modGov_banks (g : Nat) (f : Gov → Gov) : (modGov m g f).banks = m.banks := rfl
@[simp] theorem modGov_exp (g : Nat) (f : Gov → Gov) : (modGov m g f).exp = m.exp := rfl
@[simp] theorem modGov_xch (g : Nat) (f : Gov → Gov) : (modGov m g f).xch = m.xch := rfl
@[simp] theorem modGov_media (g : Nat) (f : Gov → Gov) : (modGov m g f).media = m.media := rfl
@[simp] theorem modGov_tripPin (g : Nat) (f : Gov → Gov) : (modGov m g f).tripPin = m.tripPin := rfl
@[simp] theorem modGov_out (g : Nat) (f : Gov → Gov) : (modGov m g f).out = m.out := rfl
@[simp] theorem modGov_nextId (g : Nat) (f : Gov → Gov) : (modGov m g f).nextId = m.nextId := rfl
@[simp] theorem modGov_draw (g : Nat) (f : Gov → Gov) : (modGov m g f).draw = m.draw := rfl

/-! ## modMbox -/

@[simp] theorem modMbox_bar0 (f : Nat) (h : Mbox → Mbox) : (modMbox m f h).bar0 = m.bar0 := rfl
@[simp] theorem modMbox_hub (f : Nat) (h : Mbox → Mbox) : (modMbox m f h).hub = m.hub := rfl
@[simp] theorem modMbox_pwr (f : Nat) (h : Mbox → Mbox) : (modMbox m f h).pwr = m.pwr := rfl
@[simp] theorem modMbox_logs (f : Nat) (h : Mbox → Mbox) : (modMbox m f h).logs = m.logs := rfl
@[simp] theorem modMbox_mem (f : Nat) (h : Mbox → Mbox) : (modMbox m f h).mem = m.mem := rfl
@[simp] theorem modMbox_regions (f : Nat) (h : Mbox → Mbox) : (modMbox m f h).regions = m.regions := rfl
@[simp] theorem modMbox_regQ (f : Nat) (h : Mbox → Mbox) : (modMbox m f h).regQ = m.regQ := rfl
@[simp] theorem modMbox_gather (f : Nat) (h : Mbox → Mbox) : (modMbox m f h).gather = m.gather := rfl
@[simp] theorem modMbox_rings (f : Nat) (h : Mbox → Mbox) : (modMbox m f h).rings = m.rings := rfl
@[simp] theorem modMbox_cmds (f : Nat) (h : Mbox → Mbox) : (modMbox m f h).cmds = m.cmds := rfl
@[simp] theorem modMbox_parts (f : Nat) (h : Mbox → Mbox) : (modMbox m f h).parts = m.parts := rfl
@[simp] theorem modMbox_eng (f : Nat) (h : Mbox → Mbox) : (modMbox m f h).eng = m.eng := rfl
@[simp] theorem modMbox_sync (f : Nat) (h : Mbox → Mbox) : (modMbox m f h).sync = m.sync := rfl
@[simp] theorem modMbox_syncQ (f : Nat) (h : Mbox → Mbox) : (modMbox m f h).syncQ = m.syncQ := rfl
@[simp] theorem modMbox_hqs (f : Nat) (h : Mbox → Mbox) : (modMbox m f h).hqs = m.hqs := rfl
@[simp] theorem modMbox_hqQ (f : Nat) (h : Mbox → Mbox) : (modMbox m f h).hqQ = m.hqQ := rfl
@[simp] theorem modMbox_coreBreaks (f : Nat) (h : Mbox → Mbox) : (modMbox m f h).coreBreaks = m.coreBreaks := rfl
@[simp] theorem modMbox_coresHalted (f : Nat) (h : Mbox → Mbox) : (modMbox m f h).coresHalted = m.coresHalted := rfl
@[simp] theorem modMbox_wdog (f : Nat) (h : Mbox → Mbox) : (modMbox m f h).wdog = m.wdog := rfl
@[simp] theorem modMbox_traceRr (f : Nat) (h : Mbox → Mbox) : (modMbox m f h).traceRr = m.traceRr := rfl
@[simp] theorem modMbox_router (f : Nat) (h : Mbox → Mbox) : (modMbox m f h).router = m.router := rfl
@[simp] theorem modMbox_bulkOut (f : Nat) (h : Mbox → Mbox) : (modMbox m f h).bulkOut = m.bulkOut := rfl
@[simp] theorem modMbox_coolIn (f : Nat) (h : Mbox → Mbox) : (modMbox m f h).coolIn = m.coolIn := rfl
@[simp] theorem modMbox_coolOut (f : Nat) (h : Mbox → Mbox) : (modMbox m f h).coolOut = m.coolOut := rfl
@[simp] theorem modMbox_coolAt (f : Nat) (h : Mbox → Mbox) : (modMbox m f h).coolAt = m.coolAt := rfl
@[simp] theorem modMbox_links (f : Nat) (h : Mbox → Mbox) : (modMbox m f h).links = m.links := rfl
@[simp] theorem modMbox_banks (f : Nat) (h : Mbox → Mbox) : (modMbox m f h).banks = m.banks := rfl
@[simp] theorem modMbox_exp (f : Nat) (h : Mbox → Mbox) : (modMbox m f h).exp = m.exp := rfl
@[simp] theorem modMbox_xch (f : Nat) (h : Mbox → Mbox) : (modMbox m f h).xch = m.xch := rfl
@[simp] theorem modMbox_media (f : Nat) (h : Mbox → Mbox) : (modMbox m f h).media = m.media := rfl
@[simp] theorem modMbox_tripPin (f : Nat) (h : Mbox → Mbox) : (modMbox m f h).tripPin = m.tripPin := rfl
@[simp] theorem modMbox_out (f : Nat) (h : Mbox → Mbox) : (modMbox m f h).out = m.out := rfl
@[simp] theorem modMbox_nextId (f : Nat) (h : Mbox → Mbox) : (modMbox m f h).nextId = m.nextId := rfl
@[simp] theorem modMbox_draw (f : Nat) (h : Mbox → Mbox) : (modMbox m f h).draw = m.draw := rfl

/-! ## setRegion -/

@[simp] theorem setRegion_bar0 (td i : Nat) (r : Region) : (setRegion m td i r).bar0 = m.bar0 := rfl
@[simp] theorem setRegion_hub (td i : Nat) (r : Region) : (setRegion m td i r).hub = m.hub := rfl
@[simp] theorem setRegion_pwr (td i : Nat) (r : Region) : (setRegion m td i r).pwr = m.pwr := rfl
@[simp] theorem setRegion_sec (td i : Nat) (r : Region) : (setRegion m td i r).sec = m.sec := rfl
@[simp] theorem setRegion_logs (td i : Nat) (r : Region) : (setRegion m td i r).logs = m.logs := rfl
@[simp] theorem setRegion_mem (td i : Nat) (r : Region) : (setRegion m td i r).mem = m.mem := rfl
@[simp] theorem setRegion_regQ (td i : Nat) (r : Region) : (setRegion m td i r).regQ = m.regQ := rfl
@[simp] theorem setRegion_gather (td i : Nat) (r : Region) : (setRegion m td i r).gather = m.gather := rfl
@[simp] theorem setRegion_rings (td i : Nat) (r : Region) : (setRegion m td i r).rings = m.rings := rfl
@[simp] theorem setRegion_cmds (td i : Nat) (r : Region) : (setRegion m td i r).cmds = m.cmds := rfl
@[simp] theorem setRegion_parts (td i : Nat) (r : Region) : (setRegion m td i r).parts = m.parts := rfl
@[simp] theorem setRegion_eng (td i : Nat) (r : Region) : (setRegion m td i r).eng = m.eng := rfl
@[simp] theorem setRegion_sync (td i : Nat) (r : Region) : (setRegion m td i r).sync = m.sync := rfl
@[simp] theorem setRegion_syncQ (td i : Nat) (r : Region) : (setRegion m td i r).syncQ = m.syncQ := rfl
@[simp] theorem setRegion_hqs (td i : Nat) (r : Region) : (setRegion m td i r).hqs = m.hqs := rfl
@[simp] theorem setRegion_hqQ (td i : Nat) (r : Region) : (setRegion m td i r).hqQ = m.hqQ := rfl
@[simp] theorem setRegion_coreBreaks (td i : Nat) (r : Region) : (setRegion m td i r).coreBreaks = m.coreBreaks := rfl
@[simp] theorem setRegion_coresHalted (td i : Nat) (r : Region) : (setRegion m td i r).coresHalted = m.coresHalted := rfl
@[simp] theorem setRegion_wdog (td i : Nat) (r : Region) : (setRegion m td i r).wdog = m.wdog := rfl
@[simp] theorem setRegion_traceRr (td i : Nat) (r : Region) : (setRegion m td i r).traceRr = m.traceRr := rfl
@[simp] theorem setRegion_router (td i : Nat) (r : Region) : (setRegion m td i r).router = m.router := rfl
@[simp] theorem setRegion_bulkOut (td i : Nat) (r : Region) : (setRegion m td i r).bulkOut = m.bulkOut := rfl
@[simp] theorem setRegion_coolIn (td i : Nat) (r : Region) : (setRegion m td i r).coolIn = m.coolIn := rfl
@[simp] theorem setRegion_coolOut (td i : Nat) (r : Region) : (setRegion m td i r).coolOut = m.coolOut := rfl
@[simp] theorem setRegion_coolAt (td i : Nat) (r : Region) : (setRegion m td i r).coolAt = m.coolAt := rfl
@[simp] theorem setRegion_links (td i : Nat) (r : Region) : (setRegion m td i r).links = m.links := rfl
@[simp] theorem setRegion_banks (td i : Nat) (r : Region) : (setRegion m td i r).banks = m.banks := rfl
@[simp] theorem setRegion_exp (td i : Nat) (r : Region) : (setRegion m td i r).exp = m.exp := rfl
@[simp] theorem setRegion_xch (td i : Nat) (r : Region) : (setRegion m td i r).xch = m.xch := rfl
@[simp] theorem setRegion_media (td i : Nat) (r : Region) : (setRegion m td i r).media = m.media := rfl
@[simp] theorem setRegion_tripPin (td i : Nat) (r : Region) : (setRegion m td i r).tripPin = m.tripPin := rfl
@[simp] theorem setRegion_out (td i : Nat) (r : Region) : (setRegion m td i r).out = m.out := rfl
@[simp] theorem setRegion_nextId (td i : Nat) (r : Region) : (setRegion m td i r).nextId = m.nextId := rfl
@[simp] theorem setRegion_draw (td i : Nat) (r : Region) : (setRegion m td i r).draw = m.draw := rfl

/-! ## modSync -/

@[simp] theorem modSync_bar0 (d i : Nat) (f : SyncObj → SyncObj) : (modSync m d i f).bar0 = m.bar0 := rfl
@[simp] theorem modSync_hub (d i : Nat) (f : SyncObj → SyncObj) : (modSync m d i f).hub = m.hub := rfl
@[simp] theorem modSync_pwr (d i : Nat) (f : SyncObj → SyncObj) : (modSync m d i f).pwr = m.pwr := rfl
@[simp] theorem modSync_sec (d i : Nat) (f : SyncObj → SyncObj) : (modSync m d i f).sec = m.sec := rfl
@[simp] theorem modSync_logs (d i : Nat) (f : SyncObj → SyncObj) : (modSync m d i f).logs = m.logs := rfl
@[simp] theorem modSync_mem (d i : Nat) (f : SyncObj → SyncObj) : (modSync m d i f).mem = m.mem := rfl
@[simp] theorem modSync_regions (d i : Nat) (f : SyncObj → SyncObj) : (modSync m d i f).regions = m.regions := rfl
@[simp] theorem modSync_regQ (d i : Nat) (f : SyncObj → SyncObj) : (modSync m d i f).regQ = m.regQ := rfl
@[simp] theorem modSync_gather (d i : Nat) (f : SyncObj → SyncObj) : (modSync m d i f).gather = m.gather := rfl
@[simp] theorem modSync_rings (d i : Nat) (f : SyncObj → SyncObj) : (modSync m d i f).rings = m.rings := rfl
@[simp] theorem modSync_cmds (d i : Nat) (f : SyncObj → SyncObj) : (modSync m d i f).cmds = m.cmds := rfl
@[simp] theorem modSync_parts (d i : Nat) (f : SyncObj → SyncObj) : (modSync m d i f).parts = m.parts := rfl
@[simp] theorem modSync_eng (d i : Nat) (f : SyncObj → SyncObj) : (modSync m d i f).eng = m.eng := rfl
@[simp] theorem modSync_syncQ (d i : Nat) (f : SyncObj → SyncObj) : (modSync m d i f).syncQ = m.syncQ := rfl
@[simp] theorem modSync_hqs (d i : Nat) (f : SyncObj → SyncObj) : (modSync m d i f).hqs = m.hqs := rfl
@[simp] theorem modSync_hqQ (d i : Nat) (f : SyncObj → SyncObj) : (modSync m d i f).hqQ = m.hqQ := rfl
@[simp] theorem modSync_coreBreaks (d i : Nat) (f : SyncObj → SyncObj) : (modSync m d i f).coreBreaks = m.coreBreaks := rfl
@[simp] theorem modSync_coresHalted (d i : Nat) (f : SyncObj → SyncObj) : (modSync m d i f).coresHalted = m.coresHalted := rfl
@[simp] theorem modSync_wdog (d i : Nat) (f : SyncObj → SyncObj) : (modSync m d i f).wdog = m.wdog := rfl
@[simp] theorem modSync_traceRr (d i : Nat) (f : SyncObj → SyncObj) : (modSync m d i f).traceRr = m.traceRr := rfl
@[simp] theorem modSync_router (d i : Nat) (f : SyncObj → SyncObj) : (modSync m d i f).router = m.router := rfl
@[simp] theorem modSync_bulkOut (d i : Nat) (f : SyncObj → SyncObj) : (modSync m d i f).bulkOut = m.bulkOut := rfl
@[simp] theorem modSync_coolIn (d i : Nat) (f : SyncObj → SyncObj) : (modSync m d i f).coolIn = m.coolIn := rfl
@[simp] theorem modSync_coolOut (d i : Nat) (f : SyncObj → SyncObj) : (modSync m d i f).coolOut = m.coolOut := rfl
@[simp] theorem modSync_coolAt (d i : Nat) (f : SyncObj → SyncObj) : (modSync m d i f).coolAt = m.coolAt := rfl
@[simp] theorem modSync_links (d i : Nat) (f : SyncObj → SyncObj) : (modSync m d i f).links = m.links := rfl
@[simp] theorem modSync_banks (d i : Nat) (f : SyncObj → SyncObj) : (modSync m d i f).banks = m.banks := rfl
@[simp] theorem modSync_exp (d i : Nat) (f : SyncObj → SyncObj) : (modSync m d i f).exp = m.exp := rfl
@[simp] theorem modSync_xch (d i : Nat) (f : SyncObj → SyncObj) : (modSync m d i f).xch = m.xch := rfl
@[simp] theorem modSync_media (d i : Nat) (f : SyncObj → SyncObj) : (modSync m d i f).media = m.media := rfl
@[simp] theorem modSync_tripPin (d i : Nat) (f : SyncObj → SyncObj) : (modSync m d i f).tripPin = m.tripPin := rfl
@[simp] theorem modSync_out (d i : Nat) (f : SyncObj → SyncObj) : (modSync m d i f).out = m.out := rfl
@[simp] theorem modSync_nextId (d i : Nat) (f : SyncObj → SyncObj) : (modSync m d i f).nextId = m.nextId := rfl
@[simp] theorem modSync_draw (d i : Nat) (f : SyncObj → SyncObj) : (modSync m d i f).draw = m.draw := rfl

/-! ## modHq -/

@[simp] theorem modHq_bar0 (d q : Nat) (f : HQueue → HQueue) : (modHq m d q f).bar0 = m.bar0 := rfl
@[simp] theorem modHq_hub (d q : Nat) (f : HQueue → HQueue) : (modHq m d q f).hub = m.hub := rfl
@[simp] theorem modHq_pwr (d q : Nat) (f : HQueue → HQueue) : (modHq m d q f).pwr = m.pwr := rfl
@[simp] theorem modHq_sec (d q : Nat) (f : HQueue → HQueue) : (modHq m d q f).sec = m.sec := rfl
@[simp] theorem modHq_logs (d q : Nat) (f : HQueue → HQueue) : (modHq m d q f).logs = m.logs := rfl
@[simp] theorem modHq_mem (d q : Nat) (f : HQueue → HQueue) : (modHq m d q f).mem = m.mem := rfl
@[simp] theorem modHq_regions (d q : Nat) (f : HQueue → HQueue) : (modHq m d q f).regions = m.regions := rfl
@[simp] theorem modHq_regQ (d q : Nat) (f : HQueue → HQueue) : (modHq m d q f).regQ = m.regQ := rfl
@[simp] theorem modHq_gather (d q : Nat) (f : HQueue → HQueue) : (modHq m d q f).gather = m.gather := rfl
@[simp] theorem modHq_rings (d q : Nat) (f : HQueue → HQueue) : (modHq m d q f).rings = m.rings := rfl
@[simp] theorem modHq_cmds (d q : Nat) (f : HQueue → HQueue) : (modHq m d q f).cmds = m.cmds := rfl
@[simp] theorem modHq_parts (d q : Nat) (f : HQueue → HQueue) : (modHq m d q f).parts = m.parts := rfl
@[simp] theorem modHq_eng (d q : Nat) (f : HQueue → HQueue) : (modHq m d q f).eng = m.eng := rfl
@[simp] theorem modHq_sync (d q : Nat) (f : HQueue → HQueue) : (modHq m d q f).sync = m.sync := rfl
@[simp] theorem modHq_syncQ (d q : Nat) (f : HQueue → HQueue) : (modHq m d q f).syncQ = m.syncQ := rfl
@[simp] theorem modHq_hqQ (d q : Nat) (f : HQueue → HQueue) : (modHq m d q f).hqQ = m.hqQ := rfl
@[simp] theorem modHq_coreBreaks (d q : Nat) (f : HQueue → HQueue) : (modHq m d q f).coreBreaks = m.coreBreaks := rfl
@[simp] theorem modHq_coresHalted (d q : Nat) (f : HQueue → HQueue) : (modHq m d q f).coresHalted = m.coresHalted := rfl
@[simp] theorem modHq_wdog (d q : Nat) (f : HQueue → HQueue) : (modHq m d q f).wdog = m.wdog := rfl
@[simp] theorem modHq_traceRr (d q : Nat) (f : HQueue → HQueue) : (modHq m d q f).traceRr = m.traceRr := rfl
@[simp] theorem modHq_router (d q : Nat) (f : HQueue → HQueue) : (modHq m d q f).router = m.router := rfl
@[simp] theorem modHq_bulkOut (d q : Nat) (f : HQueue → HQueue) : (modHq m d q f).bulkOut = m.bulkOut := rfl
@[simp] theorem modHq_coolIn (d q : Nat) (f : HQueue → HQueue) : (modHq m d q f).coolIn = m.coolIn := rfl
@[simp] theorem modHq_coolOut (d q : Nat) (f : HQueue → HQueue) : (modHq m d q f).coolOut = m.coolOut := rfl
@[simp] theorem modHq_coolAt (d q : Nat) (f : HQueue → HQueue) : (modHq m d q f).coolAt = m.coolAt := rfl
@[simp] theorem modHq_links (d q : Nat) (f : HQueue → HQueue) : (modHq m d q f).links = m.links := rfl
@[simp] theorem modHq_banks (d q : Nat) (f : HQueue → HQueue) : (modHq m d q f).banks = m.banks := rfl
@[simp] theorem modHq_exp (d q : Nat) (f : HQueue → HQueue) : (modHq m d q f).exp = m.exp := rfl
@[simp] theorem modHq_xch (d q : Nat) (f : HQueue → HQueue) : (modHq m d q f).xch = m.xch := rfl
@[simp] theorem modHq_media (d q : Nat) (f : HQueue → HQueue) : (modHq m d q f).media = m.media := rfl
@[simp] theorem modHq_tripPin (d q : Nat) (f : HQueue → HQueue) : (modHq m d q f).tripPin = m.tripPin := rfl
@[simp] theorem modHq_out (d q : Nat) (f : HQueue → HQueue) : (modHq m d q f).out = m.out := rfl
@[simp] theorem modHq_nextId (d q : Nat) (f : HQueue → HQueue) : (modHq m d q f).nextId = m.nextId := rfl
@[simp] theorem modHq_draw (d q : Nat) (f : HQueue → HQueue) : (modHq m d q f).draw = m.draw := rfl

/-! ## modExp -/

@[simp] theorem modExp_bar0 (g x : Nat) (f : ExpRound → ExpRound) : (modExp m g x f).bar0 = m.bar0 := rfl
@[simp] theorem modExp_hub (g x : Nat) (f : ExpRound → ExpRound) : (modExp m g x f).hub = m.hub := rfl
@[simp] theorem modExp_pwr (g x : Nat) (f : ExpRound → ExpRound) : (modExp m g x f).pwr = m.pwr := rfl
@[simp] theorem modExp_sec (g x : Nat) (f : ExpRound → ExpRound) : (modExp m g x f).sec = m.sec := rfl
@[simp] theorem modExp_logs (g x : Nat) (f : ExpRound → ExpRound) : (modExp m g x f).logs = m.logs := rfl
@[simp] theorem modExp_mem (g x : Nat) (f : ExpRound → ExpRound) : (modExp m g x f).mem = m.mem := rfl
@[simp] theorem modExp_regions (g x : Nat) (f : ExpRound → ExpRound) : (modExp m g x f).regions = m.regions := rfl
@[simp] theorem modExp_regQ (g x : Nat) (f : ExpRound → ExpRound) : (modExp m g x f).regQ = m.regQ := rfl
@[simp] theorem modExp_gather (g x : Nat) (f : ExpRound → ExpRound) : (modExp m g x f).gather = m.gather := rfl
@[simp] theorem modExp_rings (g x : Nat) (f : ExpRound → ExpRound) : (modExp m g x f).rings = m.rings := rfl
@[simp] theorem modExp_cmds (g x : Nat) (f : ExpRound → ExpRound) : (modExp m g x f).cmds = m.cmds := rfl
@[simp] theorem modExp_parts (g x : Nat) (f : ExpRound → ExpRound) : (modExp m g x f).parts = m.parts := rfl
@[simp] theorem modExp_eng (g x : Nat) (f : ExpRound → ExpRound) : (modExp m g x f).eng = m.eng := rfl
@[simp] theorem modExp_sync (g x : Nat) (f : ExpRound → ExpRound) : (modExp m g x f).sync = m.sync := rfl
@[simp] theorem modExp_syncQ (g x : Nat) (f : ExpRound → ExpRound) : (modExp m g x f).syncQ = m.syncQ := rfl
@[simp] theorem modExp_hqs (g x : Nat) (f : ExpRound → ExpRound) : (modExp m g x f).hqs = m.hqs := rfl
@[simp] theorem modExp_hqQ (g x : Nat) (f : ExpRound → ExpRound) : (modExp m g x f).hqQ = m.hqQ := rfl
@[simp] theorem modExp_coreBreaks (g x : Nat) (f : ExpRound → ExpRound) : (modExp m g x f).coreBreaks = m.coreBreaks := rfl
@[simp] theorem modExp_coresHalted (g x : Nat) (f : ExpRound → ExpRound) : (modExp m g x f).coresHalted = m.coresHalted := rfl
@[simp] theorem modExp_wdog (g x : Nat) (f : ExpRound → ExpRound) : (modExp m g x f).wdog = m.wdog := rfl
@[simp] theorem modExp_traceRr (g x : Nat) (f : ExpRound → ExpRound) : (modExp m g x f).traceRr = m.traceRr := rfl
@[simp] theorem modExp_router (g x : Nat) (f : ExpRound → ExpRound) : (modExp m g x f).router = m.router := rfl
@[simp] theorem modExp_bulkOut (g x : Nat) (f : ExpRound → ExpRound) : (modExp m g x f).bulkOut = m.bulkOut := rfl
@[simp] theorem modExp_coolIn (g x : Nat) (f : ExpRound → ExpRound) : (modExp m g x f).coolIn = m.coolIn := rfl
@[simp] theorem modExp_coolOut (g x : Nat) (f : ExpRound → ExpRound) : (modExp m g x f).coolOut = m.coolOut := rfl
@[simp] theorem modExp_coolAt (g x : Nat) (f : ExpRound → ExpRound) : (modExp m g x f).coolAt = m.coolAt := rfl
@[simp] theorem modExp_links (g x : Nat) (f : ExpRound → ExpRound) : (modExp m g x f).links = m.links := rfl
@[simp] theorem modExp_banks (g x : Nat) (f : ExpRound → ExpRound) : (modExp m g x f).banks = m.banks := rfl
@[simp] theorem modExp_xch (g x : Nat) (f : ExpRound → ExpRound) : (modExp m g x f).xch = m.xch := rfl
@[simp] theorem modExp_media (g x : Nat) (f : ExpRound → ExpRound) : (modExp m g x f).media = m.media := rfl
@[simp] theorem modExp_tripPin (g x : Nat) (f : ExpRound → ExpRound) : (modExp m g x f).tripPin = m.tripPin := rfl
@[simp] theorem modExp_out (g x : Nat) (f : ExpRound → ExpRound) : (modExp m g x f).out = m.out := rfl
@[simp] theorem modExp_nextId (g x : Nat) (f : ExpRound → ExpRound) : (modExp m g x f).nextId = m.nextId := rfl
@[simp] theorem modExp_draw (g x : Nat) (f : ExpRound → ExpRound) : (modExp m g x f).draw = m.draw := rfl

/-! ## modXch -/

@[simp] theorem modXch_bar0 (f : Xch → Xch) : (modXch m f).bar0 = m.bar0 := rfl
@[simp] theorem modXch_hub (f : Xch → Xch) : (modXch m f).hub = m.hub := rfl
@[simp] theorem modXch_pwr (f : Xch → Xch) : (modXch m f).pwr = m.pwr := rfl
@[simp] theorem modXch_sec (f : Xch → Xch) : (modXch m f).sec = m.sec := rfl
@[simp] theorem modXch_logs (f : Xch → Xch) : (modXch m f).logs = m.logs := rfl
@[simp] theorem modXch_mem (f : Xch → Xch) : (modXch m f).mem = m.mem := rfl
@[simp] theorem modXch_regions (f : Xch → Xch) : (modXch m f).regions = m.regions := rfl
@[simp] theorem modXch_regQ (f : Xch → Xch) : (modXch m f).regQ = m.regQ := rfl
@[simp] theorem modXch_gather (f : Xch → Xch) : (modXch m f).gather = m.gather := rfl
@[simp] theorem modXch_rings (f : Xch → Xch) : (modXch m f).rings = m.rings := rfl
@[simp] theorem modXch_cmds (f : Xch → Xch) : (modXch m f).cmds = m.cmds := rfl
@[simp] theorem modXch_parts (f : Xch → Xch) : (modXch m f).parts = m.parts := rfl
@[simp] theorem modXch_eng (f : Xch → Xch) : (modXch m f).eng = m.eng := rfl
@[simp] theorem modXch_sync (f : Xch → Xch) : (modXch m f).sync = m.sync := rfl
@[simp] theorem modXch_syncQ (f : Xch → Xch) : (modXch m f).syncQ = m.syncQ := rfl
@[simp] theorem modXch_hqs (f : Xch → Xch) : (modXch m f).hqs = m.hqs := rfl
@[simp] theorem modXch_hqQ (f : Xch → Xch) : (modXch m f).hqQ = m.hqQ := rfl
@[simp] theorem modXch_coreBreaks (f : Xch → Xch) : (modXch m f).coreBreaks = m.coreBreaks := rfl
@[simp] theorem modXch_coresHalted (f : Xch → Xch) : (modXch m f).coresHalted = m.coresHalted := rfl
@[simp] theorem modXch_wdog (f : Xch → Xch) : (modXch m f).wdog = m.wdog := rfl
@[simp] theorem modXch_traceRr (f : Xch → Xch) : (modXch m f).traceRr = m.traceRr := rfl
@[simp] theorem modXch_router (f : Xch → Xch) : (modXch m f).router = m.router := rfl
@[simp] theorem modXch_bulkOut (f : Xch → Xch) : (modXch m f).bulkOut = m.bulkOut := rfl
@[simp] theorem modXch_coolIn (f : Xch → Xch) : (modXch m f).coolIn = m.coolIn := rfl
@[simp] theorem modXch_coolOut (f : Xch → Xch) : (modXch m f).coolOut = m.coolOut := rfl
@[simp] theorem modXch_coolAt (f : Xch → Xch) : (modXch m f).coolAt = m.coolAt := rfl
@[simp] theorem modXch_links (f : Xch → Xch) : (modXch m f).links = m.links := rfl
@[simp] theorem modXch_banks (f : Xch → Xch) : (modXch m f).banks = m.banks := rfl
@[simp] theorem modXch_exp (f : Xch → Xch) : (modXch m f).exp = m.exp := rfl
@[simp] theorem modXch_media (f : Xch → Xch) : (modXch m f).media = m.media := rfl
@[simp] theorem modXch_tripPin (f : Xch → Xch) : (modXch m f).tripPin = m.tripPin := rfl
@[simp] theorem modXch_out (f : Xch → Xch) : (modXch m f).out = m.out := rfl
@[simp] theorem modXch_nextId (f : Xch → Xch) : (modXch m f).nextId = m.nextId := rfl
@[simp] theorem modXch_draw (f : Xch → Xch) : (modXch m f).draw = m.draw := rfl

/-! ## modHub -/

@[simp] theorem modHub_bar0 (f : Hub → Hub) : (modHub m f).bar0 = m.bar0 := rfl
@[simp] theorem modHub_pwr (f : Hub → Hub) : (modHub m f).pwr = m.pwr := rfl
@[simp] theorem modHub_sec (f : Hub → Hub) : (modHub m f).sec = m.sec := rfl
@[simp] theorem modHub_logs (f : Hub → Hub) : (modHub m f).logs = m.logs := rfl
@[simp] theorem modHub_mem (f : Hub → Hub) : (modHub m f).mem = m.mem := rfl
@[simp] theorem modHub_regions (f : Hub → Hub) : (modHub m f).regions = m.regions := rfl
@[simp] theorem modHub_regQ (f : Hub → Hub) : (modHub m f).regQ = m.regQ := rfl
@[simp] theorem modHub_gather (f : Hub → Hub) : (modHub m f).gather = m.gather := rfl
@[simp] theorem modHub_rings (f : Hub → Hub) : (modHub m f).rings = m.rings := rfl
@[simp] theorem modHub_cmds (f : Hub → Hub) : (modHub m f).cmds = m.cmds := rfl
@[simp] theorem modHub_parts (f : Hub → Hub) : (modHub m f).parts = m.parts := rfl
@[simp] theorem modHub_eng (f : Hub → Hub) : (modHub m f).eng = m.eng := rfl
@[simp] theorem modHub_sync (f : Hub → Hub) : (modHub m f).sync = m.sync := rfl
@[simp] theorem modHub_syncQ (f : Hub → Hub) : (modHub m f).syncQ = m.syncQ := rfl
@[simp] theorem modHub_hqs (f : Hub → Hub) : (modHub m f).hqs = m.hqs := rfl
@[simp] theorem modHub_hqQ (f : Hub → Hub) : (modHub m f).hqQ = m.hqQ := rfl
@[simp] theorem modHub_coreBreaks (f : Hub → Hub) : (modHub m f).coreBreaks = m.coreBreaks := rfl
@[simp] theorem modHub_coresHalted (f : Hub → Hub) : (modHub m f).coresHalted = m.coresHalted := rfl
@[simp] theorem modHub_wdog (f : Hub → Hub) : (modHub m f).wdog = m.wdog := rfl
@[simp] theorem modHub_traceRr (f : Hub → Hub) : (modHub m f).traceRr = m.traceRr := rfl
@[simp] theorem modHub_router (f : Hub → Hub) : (modHub m f).router = m.router := rfl
@[simp] theorem modHub_bulkOut (f : Hub → Hub) : (modHub m f).bulkOut = m.bulkOut := rfl
@[simp] theorem modHub_coolIn (f : Hub → Hub) : (modHub m f).coolIn = m.coolIn := rfl
@[simp] theorem modHub_coolOut (f : Hub → Hub) : (modHub m f).coolOut = m.coolOut := rfl
@[simp] theorem modHub_coolAt (f : Hub → Hub) : (modHub m f).coolAt = m.coolAt := rfl
@[simp] theorem modHub_links (f : Hub → Hub) : (modHub m f).links = m.links := rfl
@[simp] theorem modHub_banks (f : Hub → Hub) : (modHub m f).banks = m.banks := rfl
@[simp] theorem modHub_exp (f : Hub → Hub) : (modHub m f).exp = m.exp := rfl
@[simp] theorem modHub_xch (f : Hub → Hub) : (modHub m f).xch = m.xch := rfl
@[simp] theorem modHub_media (f : Hub → Hub) : (modHub m f).media = m.media := rfl
@[simp] theorem modHub_tripPin (f : Hub → Hub) : (modHub m f).tripPin = m.tripPin := rfl
@[simp] theorem modHub_out (f : Hub → Hub) : (modHub m f).out = m.out := rfl
@[simp] theorem modHub_nextId (f : Hub → Hub) : (modHub m f).nextId = m.nextId := rfl
@[simp] theorem modHub_draw (f : Hub → Hub) : (modHub m f).draw = m.draw := rfl

/-! ## addCorr -/

@[simp] theorem addCorr_bar0 (l : Nat) : (addCorr m l).bar0 = m.bar0 := rfl
@[simp] theorem addCorr_hub (l : Nat) : (addCorr m l).hub = m.hub := rfl
@[simp] theorem addCorr_pwr (l : Nat) : (addCorr m l).pwr = m.pwr := rfl
@[simp] theorem addCorr_sec (l : Nat) : (addCorr m l).sec = m.sec := rfl
@[simp] theorem addCorr_mem (l : Nat) : (addCorr m l).mem = m.mem := rfl
@[simp] theorem addCorr_regions (l : Nat) : (addCorr m l).regions = m.regions := rfl
@[simp] theorem addCorr_regQ (l : Nat) : (addCorr m l).regQ = m.regQ := rfl
@[simp] theorem addCorr_gather (l : Nat) : (addCorr m l).gather = m.gather := rfl
@[simp] theorem addCorr_rings (l : Nat) : (addCorr m l).rings = m.rings := rfl
@[simp] theorem addCorr_cmds (l : Nat) : (addCorr m l).cmds = m.cmds := rfl
@[simp] theorem addCorr_parts (l : Nat) : (addCorr m l).parts = m.parts := rfl
@[simp] theorem addCorr_eng (l : Nat) : (addCorr m l).eng = m.eng := rfl
@[simp] theorem addCorr_sync (l : Nat) : (addCorr m l).sync = m.sync := rfl
@[simp] theorem addCorr_syncQ (l : Nat) : (addCorr m l).syncQ = m.syncQ := rfl
@[simp] theorem addCorr_hqs (l : Nat) : (addCorr m l).hqs = m.hqs := rfl
@[simp] theorem addCorr_hqQ (l : Nat) : (addCorr m l).hqQ = m.hqQ := rfl
@[simp] theorem addCorr_coreBreaks (l : Nat) : (addCorr m l).coreBreaks = m.coreBreaks := rfl
@[simp] theorem addCorr_coresHalted (l : Nat) : (addCorr m l).coresHalted = m.coresHalted := rfl
@[simp] theorem addCorr_wdog (l : Nat) : (addCorr m l).wdog = m.wdog := rfl
@[simp] theorem addCorr_traceRr (l : Nat) : (addCorr m l).traceRr = m.traceRr := rfl
@[simp] theorem addCorr_router (l : Nat) : (addCorr m l).router = m.router := rfl
@[simp] theorem addCorr_bulkOut (l : Nat) : (addCorr m l).bulkOut = m.bulkOut := rfl
@[simp] theorem addCorr_coolIn (l : Nat) : (addCorr m l).coolIn = m.coolIn := rfl
@[simp] theorem addCorr_coolOut (l : Nat) : (addCorr m l).coolOut = m.coolOut := rfl
@[simp] theorem addCorr_coolAt (l : Nat) : (addCorr m l).coolAt = m.coolAt := rfl
@[simp] theorem addCorr_links (l : Nat) : (addCorr m l).links = m.links := rfl
@[simp] theorem addCorr_banks (l : Nat) : (addCorr m l).banks = m.banks := rfl
@[simp] theorem addCorr_exp (l : Nat) : (addCorr m l).exp = m.exp := rfl
@[simp] theorem addCorr_xch (l : Nat) : (addCorr m l).xch = m.xch := rfl
@[simp] theorem addCorr_media (l : Nat) : (addCorr m l).media = m.media := rfl
@[simp] theorem addCorr_tripPin (l : Nat) : (addCorr m l).tripPin = m.tripPin := rfl
@[simp] theorem addCorr_out (l : Nat) : (addCorr m l).out = m.out := rfl
@[simp] theorem addCorr_nextId (l : Nat) : (addCorr m l).nextId = m.nextId := rfl
@[simp] theorem addCorr_draw (l : Nat) : (addCorr m l).draw = m.draw := rfl

/-! ## logFault -/

@[simp] theorem logFault_bar0 (t : Clk) (l : Nat) (e : FEntry) : (logFault t l e m).bar0 = m.bar0 := rfl
@[simp] theorem logFault_hub (t : Clk) (l : Nat) (e : FEntry) : (logFault t l e m).hub = m.hub := rfl
@[simp] theorem logFault_pwr (t : Clk) (l : Nat) (e : FEntry) : (logFault t l e m).pwr = m.pwr := rfl
@[simp] theorem logFault_sec (t : Clk) (l : Nat) (e : FEntry) : (logFault t l e m).sec = m.sec := rfl
@[simp] theorem logFault_mem (t : Clk) (l : Nat) (e : FEntry) : (logFault t l e m).mem = m.mem := rfl
@[simp] theorem logFault_regions (t : Clk) (l : Nat) (e : FEntry) : (logFault t l e m).regions = m.regions := rfl
@[simp] theorem logFault_regQ (t : Clk) (l : Nat) (e : FEntry) : (logFault t l e m).regQ = m.regQ := rfl
@[simp] theorem logFault_gather (t : Clk) (l : Nat) (e : FEntry) : (logFault t l e m).gather = m.gather := rfl
@[simp] theorem logFault_rings (t : Clk) (l : Nat) (e : FEntry) : (logFault t l e m).rings = m.rings := rfl
@[simp] theorem logFault_cmds (t : Clk) (l : Nat) (e : FEntry) : (logFault t l e m).cmds = m.cmds := rfl
@[simp] theorem logFault_parts (t : Clk) (l : Nat) (e : FEntry) : (logFault t l e m).parts = m.parts := rfl
@[simp] theorem logFault_eng (t : Clk) (l : Nat) (e : FEntry) : (logFault t l e m).eng = m.eng := rfl
@[simp] theorem logFault_sync (t : Clk) (l : Nat) (e : FEntry) : (logFault t l e m).sync = m.sync := rfl
@[simp] theorem logFault_syncQ (t : Clk) (l : Nat) (e : FEntry) : (logFault t l e m).syncQ = m.syncQ := rfl
@[simp] theorem logFault_hqs (t : Clk) (l : Nat) (e : FEntry) : (logFault t l e m).hqs = m.hqs := rfl
@[simp] theorem logFault_hqQ (t : Clk) (l : Nat) (e : FEntry) : (logFault t l e m).hqQ = m.hqQ := rfl
@[simp] theorem logFault_coreBreaks (t : Clk) (l : Nat) (e : FEntry) : (logFault t l e m).coreBreaks = m.coreBreaks := rfl
@[simp] theorem logFault_coresHalted (t : Clk) (l : Nat) (e : FEntry) : (logFault t l e m).coresHalted = m.coresHalted := rfl
@[simp] theorem logFault_wdog (t : Clk) (l : Nat) (e : FEntry) : (logFault t l e m).wdog = m.wdog := rfl
@[simp] theorem logFault_traceRr (t : Clk) (l : Nat) (e : FEntry) : (logFault t l e m).traceRr = m.traceRr := rfl
@[simp] theorem logFault_router (t : Clk) (l : Nat) (e : FEntry) : (logFault t l e m).router = m.router := rfl
@[simp] theorem logFault_bulkOut (t : Clk) (l : Nat) (e : FEntry) : (logFault t l e m).bulkOut = m.bulkOut := rfl
@[simp] theorem logFault_coolIn (t : Clk) (l : Nat) (e : FEntry) : (logFault t l e m).coolIn = m.coolIn := rfl
@[simp] theorem logFault_coolOut (t : Clk) (l : Nat) (e : FEntry) : (logFault t l e m).coolOut = m.coolOut := rfl
@[simp] theorem logFault_coolAt (t : Clk) (l : Nat) (e : FEntry) : (logFault t l e m).coolAt = m.coolAt := rfl
@[simp] theorem logFault_links (t : Clk) (l : Nat) (e : FEntry) : (logFault t l e m).links = m.links := rfl
@[simp] theorem logFault_banks (t : Clk) (l : Nat) (e : FEntry) : (logFault t l e m).banks = m.banks := rfl
@[simp] theorem logFault_exp (t : Clk) (l : Nat) (e : FEntry) : (logFault t l e m).exp = m.exp := rfl
@[simp] theorem logFault_xch (t : Clk) (l : Nat) (e : FEntry) : (logFault t l e m).xch = m.xch := rfl
@[simp] theorem logFault_media (t : Clk) (l : Nat) (e : FEntry) : (logFault t l e m).media = m.media := rfl
@[simp] theorem logFault_tripPin (t : Clk) (l : Nat) (e : FEntry) : (logFault t l e m).tripPin = m.tripPin := rfl
@[simp] theorem logFault_out (t : Clk) (l : Nat) (e : FEntry) : (logFault t l e m).out = m.out := rfl
@[simp] theorem logFault_nextId (t : Clk) (l : Nat) (e : FEntry) : (logFault t l e m).nextId = m.nextId := rfl
@[simp] theorem logFault_draw (t : Clk) (l : Nat) (e : FEntry) : (logFault t l e m).draw = m.draw := rfl

/-! ## emit -/

@[simp] theorem emit_bar0 (o : Out) : (emit o m).bar0 = m.bar0 := rfl
@[simp] theorem emit_hub (o : Out) : (emit o m).hub = m.hub := rfl
@[simp] theorem emit_pwr (o : Out) : (emit o m).pwr = m.pwr := rfl
@[simp] theorem emit_sec (o : Out) : (emit o m).sec = m.sec := rfl
@[simp] theorem emit_logs (o : Out) : (emit o m).logs = m.logs := rfl
@[simp] theorem emit_mem (o : Out) : (emit o m).mem = m.mem := rfl
@[simp] theorem emit_regions (o : Out) : (emit o m).regions = m.regions := rfl
@[simp] theorem emit_regQ (o : Out) : (emit o m).regQ = m.regQ := rfl
@[simp] theorem emit_gather (o : Out) : (emit o m).gather = m.gather := rfl
@[simp] theorem emit_rings (o : Out) : (emit o m).rings = m.rings := rfl
@[simp] theorem emit_cmds (o : Out) : (emit o m).cmds = m.cmds := rfl
@[simp] theorem emit_parts (o : Out) : (emit o m).parts = m.parts := rfl
@[simp] theorem emit_eng (o : Out) : (emit o m).eng = m.eng := rfl
@[simp] theorem emit_sync (o : Out) : (emit o m).sync = m.sync := rfl
@[simp] theorem emit_syncQ (o : Out) : (emit o m).syncQ = m.syncQ := rfl
@[simp] theorem emit_hqs (o : Out) : (emit o m).hqs = m.hqs := rfl
@[simp] theorem emit_hqQ (o : Out) : (emit o m).hqQ = m.hqQ := rfl
@[simp] theorem emit_coreBreaks (o : Out) : (emit o m).coreBreaks = m.coreBreaks := rfl
@[simp] theorem emit_coresHalted (o : Out) : (emit o m).coresHalted = m.coresHalted := rfl
@[simp] theorem emit_wdog (o : Out) : (emit o m).wdog = m.wdog := rfl
@[simp] theorem emit_traceRr (o : Out) : (emit o m).traceRr = m.traceRr := rfl
@[simp] theorem emit_router (o : Out) : (emit o m).router = m.router := rfl
@[simp] theorem emit_bulkOut (o : Out) : (emit o m).bulkOut = m.bulkOut := rfl
@[simp] theorem emit_coolIn (o : Out) : (emit o m).coolIn = m.coolIn := rfl
@[simp] theorem emit_coolOut (o : Out) : (emit o m).coolOut = m.coolOut := rfl
@[simp] theorem emit_coolAt (o : Out) : (emit o m).coolAt = m.coolAt := rfl
@[simp] theorem emit_links (o : Out) : (emit o m).links = m.links := rfl
@[simp] theorem emit_banks (o : Out) : (emit o m).banks = m.banks := rfl
@[simp] theorem emit_exp (o : Out) : (emit o m).exp = m.exp := rfl
@[simp] theorem emit_xch (o : Out) : (emit o m).xch = m.xch := rfl
@[simp] theorem emit_media (o : Out) : (emit o m).media = m.media := rfl
@[simp] theorem emit_tripPin (o : Out) : (emit o m).tripPin = m.tripPin := rfl
@[simp] theorem emit_nextId (o : Out) : (emit o m).nextId = m.nextId := rfl
@[simp] theorem emit_draw (o : Out) : (emit o m).draw = m.draw := rfl

/-! ## Reading back -/

@[simp] theorem engine_setEngine (g h : Nat) (e : Engine) :
    engine (setEngine m g e) h = if h = g then e else engine m h := sget_sset ..
@[simp] theorem engine_modEngine (g h : Nat) (f : Engine → Engine) :
    engine (modEngine m g f) h = if h = g then f (engine m g) else engine m h := sget_sset ..
theorem engine_modCtx (g c h : Nat) (f : Ctx → Ctx) :
    engine (modCtx m g c f) h =
      if h = g then { engine m g with ctx := smod {} (engine m g).ctx c f } else engine m h := sget_sset ..
@[simp] theorem ctx_modCtx (g c h d : Nat) (f : Ctx → Ctx) :
    ctx (modCtx m g c f) h d = if h = g ∧ d = c then f (ctx m g c) else ctx m h d := by
  unfold ctx ctxOf
  rw [engine_modCtx]
  by_cases hg : h = g
  · subst hg; simp [sget_smod]
  · simp [hg]
theorem ctx_modEngine (g h d : Nat) (f : Engine → Engine) (hf : ∀ e, (f e).ctx = e.ctx) :
    ctx (modEngine m g f) h d = ctx m h d := by
  unfold ctx ctxOf
  rw [engine_modEngine]
  split_ifs with hg
  · rw [hf, hg]
  · rfl
@[simp] theorem partSt_modPart (k j : Nat) (f : PartSt → PartSt) :
    partSt (modPart m k f) j = if j = k then f (partSt m k) else partSt m j := sget_smod ..
@[simp] theorem ring_modRing (n j : Nat) (f : Ring → Ring) :
    ring (modRing m n f) j = if j = n then f (ring m n) else ring m j := sget_smod ..
@[simp] theorem port_modPort (p j : Nat) (f : LPort → LPort) :
    port (modPort m p f) j = if j = p then f (port m p) else port m j := sget_smod ..
@[simp] theorem bank_modBank (b j : Nat) (f : Bank → Bank) :
    bank (modBank m b f) j = if j = b then f (bank m b) else bank m j := sget_smod ..
@[simp] theorem mdie_modMdie (d j : Nat) (f : MDie → MDie) :
    mdie (modMdie m d f) j = if j = d then f (mdie m d) else mdie m j := sget_smod ..
@[simp] theorem strm_modStrm (d i : Nat) (f : Strm → Strm) : strm (modStrm m d i f) d i = f (strm m d i) := by
  simp [strm, modStrm]
@[simp] theorem gov_modGov (g j : Nat) (f : Gov → Gov) :
    gov (modGov m g f) j = if j = g then f (gov m g) else gov m j := sget_smod ..
@[simp] theorem mbox_modMbox (f j : Nat) (h : Mbox → Mbox) :
    mbox (modMbox m f h) j = if j = f then h (mbox m f) else mbox m j := sget_smod ..
@[simp] theorem region_setRegion (td i : Nat) (r : Region) : region (setRegion m td i r) td i = r := by
  simp [region, setRegion]
@[simp] theorem syncObj_modSync (d i : Nat) (f : SyncObj → SyncObj) :
    syncObj (modSync m d i f) d i = f (syncObj m d i) := by simp [syncObj, modSync]
theorem syncObj_modSync_other (d i e j : Nat) (f : SyncObj → SyncObj) (h : syncKey e j ≠ syncKey d i) :
    syncObj (modSync m d i f) e j = syncObj m e j := by simp [syncObj, modSync, sget_smod, h]
@[simp] theorem hq_modHq (d q : Nat) (f : HQueue → HQueue) : hq (modHq m d q f) d q = f (hq m d q) := by
  simp [hq, modHq]
@[simp] theorem expRound_modExp (g x : Nat) (f : ExpRound → ExpRound) :
    expRound (modExp m g x f) g x = f (expRound m g x) := by simp [expRound, modExp]
@[simp] theorem flog_logFault (t : Clk) (l : Nat) (e : FEntry) :
    flog (logFault t l e m) l = logApply (flog m l) { e with time := t.sid } := by simp [flog, logFault]
theorem flog_logFault_other (t : Clk) (l j : Nat) (e : FEntry) (h : j ≠ l) :
    flog (logFault t l e m) j = flog m j := by simp [flog, logFault, sget_smod, h]
@[simp] theorem counter_setCounter (x : Ctx) (i j : Nat) (v : W32) :
    counter (setCounter x i v) j = if j = i then v else counter x j := sget_sset ..

end Sys2Proof.Machine
end

