-- ==== Sys2Proof/Laws/Settle.lean ====
section
/-! SUPPORT. What settling can do: it leaves undisturbed everything that `Undisturbed` names. One
lemma per shared operation that settling runs. -/

namespace Sys2Proof.Machine

namespace Still

theorem refl (m : Mod) : Undisturbed m m := ⟨rfl, fun _ => rfl, fun _ _ => rfl⟩

theorem trans {a b c : Mod} (h : Undisturbed a b) (k : Undisturbed b c) : Undisturbed a c :=
  ⟨k.1.trans h.1, fun g => (k.2.1 g).trans (h.2.1 g), fun g c => (k.2.2 g c).trans (h.2.2 g c)⟩

/-- An update that keeps the engines and the still fields. -/
theorem of_eng {m m' : Mod} (h : stillMod m' = stillMod m) (he : m'.eng = m.eng) : Undisturbed m m' :=
  ⟨h, fun g => by simp [engine, he], fun g c => by simp [ctx, ctxOf, engine, he]⟩

theorem modEngine (m : Mod) (g : Nat) (f : Engine → Engine) (h : stillEng (f (engine m g)) = stillEng (engine m g))
    (hc : ∀ c, stillCtx (ctxOf (f (engine m g)) c) = stillCtx (ctx m g c)) : Undisturbed m (modEngine m g f) := by
  refine ⟨rfl, fun j => ?_, fun j c => ?_⟩
  · rw [engine_modEngine]; split_ifs with hj
    · rw [h, hj]
    · rfl
  · unfold ctx; rw [engine_modEngine]; split_ifs with hj
    · rw [hc, hj]; rfl
    · rfl

/-- An update of an engine that keeps its contexts. -/
theorem modEngine' (m : Mod) (g : Nat) (f : Engine → Engine) (h : ∀ e, stillEng (f e) = stillEng e)
    (hc : ∀ e, (f e).ctx = e.ctx) : Undisturbed m (Machine.modEngine m g f) :=
  modEngine m g f (h _) fun c => by simp [ctxOf, hc, ctx]

theorem modCtx (m : Mod) (g c : Nat) (f : Ctx → Ctx) (h : ∀ x, stillCtx (f x) = stillCtx x) :
    Undisturbed m (Machine.modCtx m g c f) := by
  refine ⟨rfl, fun j => ?_, fun j d => ?_⟩
  · rw [engine_modCtx]; split_ifs with hj
    · subst hj; rfl
    · rfl
  · rw [ctx_modCtx]; split_ifs with hj
    · rw [h, hj.1, hj.2]
    · rfl

theorem ite {m a b : Mod} {c : Prop} [Decidable c] (ha : Undisturbed m a) (hb : Undisturbed m b) :
    Undisturbed m (if c then a else b) := by split_ifs <;> assumption

theorem foldl {α : Type} (f : Mod → α → Mod) (h : ∀ m x, Undisturbed m (f m x)) (l : List α) (m : Mod) :
    Undisturbed m (l.foldl f m) := by
  induction l generalizing m with
  | nil => exact refl m
  | cons x r ih => exact trans (h m x) (ih _)

theorem setLast (m : Mod) (g c : Nat) (b : Bool) :
    Undisturbed m (Machine.modEngine m g fun e => { e with last := if b then e.last else some c }) :=
  modEngine' _ _ _ (fun _ => rfl) fun _ => rfl

/-! ## Trace, counters, logs -/

theorem countEv (m : Mod) (g code n : Nat) : Undisturbed m (countEv m g code n) := by
  unfold Machine.countEv
  split_ifs
  · exact refl m
  · apply foldl
    intro m c
    split_ifs
    · exact modEngine' _ _ _ (fun _ => rfl) fun _ => rfl
    · exact refl m

theorem tracePush (r l : BitVec 128) (e : Engine) :
    stillEng (tracePush r l e) = stillEng e ∧ (Machine.tracePush r l e).ctx = e.ctx := by
  unfold Machine.tracePush
  split_ifs <;> exact ⟨rfl, rfl⟩

theorem tracePut (t : Clk) (m : Mod) (g : Nat) (r : BitVec 128) : Undisturbed m (tracePut t m g r) := by
  have h : Undisturbed m (Machine.modEngine m g (Machine.tracePush r (traceWord t 0x0C g 0 (engine m g).traceLost))) :=
    modEngine' _ _ _ (fun e => (tracePush _ _ e).1) fun e => (tracePush _ _ e).2
  unfold Machine.tracePut
  simp only
  split_ifs
  · exact trans h (countEv _ _ _ _)
  · exact h

theorem setTimebase (m : Mod) (g : Nat) (v : Option (BitVec 16)) :
    Undisturbed m (Machine.modEngine m g fun e => { e with timebase := v }) :=
  modEngine' _ _ _ (fun _ => rfl) fun _ => rfl

theorem trace (t : Clk) (g task kind arg : Nat) (cls : Option Nat) (m : Mod) :
    Undisturbed m (trace t g task kind arg cls m) := by
  unfold Machine.trace
  exact ite (refl m) (trans (ite (refl m)
    (trans (tracePut ..) (setTimebase ..))) (tracePut ..))

theorem traceIssue (t : Clk) (g task idx op : Nat) (m : Mod) : Undisturbed m (traceIssue t g task idx op m) := by
  unfold Machine.traceIssue
  split_ifs
  · exact trace ..
  · exact refl m

theorem logFault (t : Clk) (l : Nat) (e : FEntry) (m : Mod) : Undisturbed m (logFault t l e m) := of_eng rfl rfl

theorem logEngine (t : Clk) (g : Nat) (e : FEntry) (m : Mod) : Undisturbed m (logEngine t g e m) :=
  trans (logFault ..) (trace ..)

/-! ## Leave, signals, completions -/

theorem returnLeave (m : Mod) (g id : Nat) : Undisturbed m (returnLeave m g id) := of_eng rfl rfl
theorem returnResv (m : Mod) (g id : Nat) : Undisturbed m (returnResv m g id) := of_eng rfl rfl
theorem dropSignals (m : Mod) (id : Nat) : Undisturbed m (dropSignals m id) := of_eng rfl rfl
theorem setSyncQueue (m : Mod) (d : Nat) (q : List SyncOp) : Undisturbed m (setSyncQueue m d q) := of_eng rfl rfl
theorem pushSync (m : Mod) (d src obj : Nat) (k : SyncKind) (deps : List Nat) (b : Issuer) :
    Undisturbed m (pushSync m d src obj k deps b) := of_eng rfl rfl

theorem slotSignal (m : Mod) (k src s : Nat) (deps : List Nat) (b : Issuer) : Undisturbed m (slotSignal m k src s deps b) := by
  unfold Machine.slotSignal
  split
  · exact refl m
  · split
    · exact refl m
    · simp only; split_ifs <;> exact pushSync ..

theorem putSignal (m : Mod) (task : Nat) (w : LviWord) (count : Nat) (own : Option Nat) :
    Undisturbed m (putSignal m task w count own) := by
  unfold Machine.putSignal
  simp only
  split
  · exact refl m
  · exact pushSync ..
  · exact pushSync ..
  · exact slotSignal ..

theorem retireAt (time : W64) (sq tag status : Nat) (reason : Byte) (fl : BitVec 16) (m : Mod) :
    Undisturbed m (retireAt time sq tag status reason fl m) := of_eng rfl rfl

theorem endCmd (t : Clk) (sq tag status : Nat) (m : Mod) : Undisturbed m (endCmd t sq tag status m) := by
  unfold Machine.endCmd
  split
  · exact refl m
  · split
    · exact refl m
    · exact retireAt ..
    · split
      · exact retireAt ..
      · exact retireAt ..

/-! ## Task faults -/

theorem returnDescs (e : Engine) (g : Nat) (runs : List Nat) (m : Mod) : Undisturbed m (returnDescs e g runs m) :=
  foldl _ (fun m _ => returnLeave m _ _) _ m

theorem dropPops (e : Engine) (runs : List Nat) (m : Mod) : Undisturbed m (dropPops e runs m) := of_eng rfl rfl

theorem resetQueues (m : Mod) (task : Nat) : Undisturbed m (resetQueues m task) := by
  unfold Machine.resetQueues
  simp only
  refine trans (trans (trans (dropPops ..) (modEngine' _ _ _ ?_ ?_)) (returnDescs ..)) (foldl _ dropSignals _ _) <;> exact fun _ => rfl

theorem stopTask (m : Mod) (task : Nat) (st : CtxSt) (fl : Option (BitVec 16 × Byte × W64)) :
    Undisturbed m (stopTask m task st fl) := by
  unfold Machine.stopTask
  simp only
  refine trans ?_ (modCtx _ _ _ _ fun _ => rfl)
  split
  · split
    · exact trans (returnResv ..) (returnLeave ..)
    · exact trans (refl m) (returnLeave ..)
  · split
    · exact returnResv ..
    · exact refl m

theorem dropCollects (m : Mod) (task : Nat) : Undisturbed m (dropCollects m task) := by
  unfold Machine.dropCollects
  simp only
  exact trans (of_eng rfl rfl) (foldl _ dropSignals _ _)

theorem stopChain (m : Mod) (k n : Nat) (fl : Option (BitVec 16 × Byte × W64)) : Undisturbed m (stopChain m k n fl) :=
  of_eng rfl rfl

theorem stopTaskChains (m : Mod) (task : Nat) (fl : Option (BitVec 16 × Byte × W64)) :
    Undisturbed m (stopTaskChains m task fl) := by
  unfold Machine.stopTaskChains
  exact foldl _ (fun m (r : ChainRt) => stopChain m _ r.rec_ fl) _ m

theorem failTask (t : Clk) (task : Nat) (reason : Byte) (log : Nat) (m : Mod) :
    Undisturbed m (failTask t task reason log m) := by
  unfold Machine.failTask
  simp only
  exact trans (trans (trans (stopTaskChains ..) (stopTask ..)) (resetQueues ..)) (dropCollects ..)

/-- A task fault: the record, the end of the task, its queues reset. -/
theorem faultTask (t : Clk) (task : Nat) (typ reason : Byte) (addr info : W64) (poison : Bool) (m : Mod) :
    Undisturbed m (faultTask t task typ reason addr info poison m) := by
  unfold Machine.faultTask
  simp only
  split
  · exact refl m
  · exact trans (logEngine ..) (failTask ..)

theorem sget_map_keep {α β : Type} (p : α → β) (d : α) (f : Nat → α → α) (h : ∀ k v, p (f k v) = p v)
    (t : Sparse α) (x : Nat) : p (sget d (t.map fun e => (e.1, f e.1 e.2)) x) = p (sget d t x) := by
  induction t with
  | nil => rfl
  | cons e r ih =>
    obtain ⟨k, v⟩ := e
    simp only [List.map_cons, sget]
    split_ifs
    · exact h k v
    · exact ih

theorem modCmd (m : Mod) (sq tag : Nat) (f : Cmd → Cmd) : Undisturbed m (modCmd m sq tag f) := of_eng rfl rfl

theorem faultCmd (m : Mod) (sq tag log : Nat) (reason : Byte) : Undisturbed m (faultCmd m sq tag log reason) := modCmd ..

theorem discardRuns (sq tag : Nat) (m : Mod) : Undisturbed m (discardRuns sq tag m) := by
  unfold Machine.discardRuns
  simp only
  exact trans (foldl _ (fun m (ge : Nat × Engine) => trans (returnDescs ge.2 ge.1 _ m) (dropPops ge.2 _ _)) _ m)
    ⟨rfl, fun g => sget_map_keep stillEng {} (fun _ => endRuns _) (fun _ _ => rfl) _ g,
     fun g c => sget_map_keep (fun e => stillCtx (ctxOf e c)) {} (fun _ => endRuns _) (fun _ _ => rfl) _ g⟩

theorem faultIssuer (t : Clk) (b : Issuer) (reason : Byte) (log : Nat) (m : Mod) : Undisturbed m (faultIssuer t b reason log m) := by
  unfold Machine.faultIssuer
  cases b with
  | nobody => exact refl m
  | task tk => exact failTask ..
  | cmd sq tag => exact trans (faultCmd ..) (discardRuns ..)
  | stage k n => exact stopChain ..

theorem faultBy (t : Clk) (g : Nat) (b : Issuer) (typ reason : Byte) (addr info : W64) (m : Mod) :
    Undisturbed m (faultBy t g b typ reason addr info m) := by
  unfold Machine.faultBy
  cases b with
  | task tk => exact faultTask ..
  | nobody => exact trans (logEngine ..) (faultIssuer ..)
  | cmd sq tag => exact trans (logEngine ..) (faultIssuer ..)
  | stage k n => exact trans (logEngine ..) (faultIssuer ..)

/-! ## Settling -/

theorem sendOn (m : Mod) (p : Nat) (x : TxPkt) : Undisturbed m (sendOn m p x) := of_eng rfl rfl

theorem sendRemote (t : Clk) (o : SyncOp) (m : Mod) : Undisturbed m (sendRemote t o m) := by
  unfold Machine.sendRemote
  simp only
  split
  · exact trans (setSyncQueue ..) (sendOn ..)
  · exact trans (setSyncQueue ..) (faultBy ..)

theorem sendRemotes (t : Clk) (m : Mod) : Undisturbed m (sendRemotes t m) :=
  foldl _ (fun m o => sendRemote t o m) _ m

theorem purgeRuns (m : Mod) : Undisturbed m (purgeRuns m) :=
  ⟨rfl, fun g => sget_map_keep stillEng {} (purgeEngine m) (fun _ _ => rfl) m.eng g,
   fun g c => sget_map_keep (fun e => stillCtx (ctxOf e c)) {} (purgeEngine m) (fun _ _ => rfl) m.eng g⟩

theorem finishTask (m : Mod) (g c : Nat) : Undisturbed m (finishTask m g c) := by
  unfold Machine.finishTask
  simp only
  exact trans (trans (putSignal ..) (resetQueues ..)) (modCtx _ _ _ _ fun _ => rfl)

theorem finishTasks (m : Mod) : Undisturbed m (finishTasks m) := by
  unfold Machine.finishTasks
  refine foldl _ (fun m ge => foldl _ (fun m c => ?_) _ m) _ m
  split_ifs
  · exact finishTask ..
  · exact refl m

theorem endStart (t : Clk) (k : Nat) (p : Program) (m : Mod) : Undisturbed m (endStart t k p m) := by
  unfold Machine.endStart
  split
  · exact refl m
  · simp only
    split
    · exact trans (modCmd ..) (endCmd ..)
    · exact endCmd ..

theorem finishProgram (t : Clk) (m : Mod) (k : Nat) : Undisturbed m (finishProgram t m k) := by
  unfold Machine.finishProgram
  split
  · exact refl m
  · exact ite (trans (of_eng rfl rfl) (endStart ..)) (refl m)

theorem finishCmds (t : Clk) (m : Mod) : Undisturbed m (finishCmds t m) :=
  foldl _ (fun m (c : Cmd) => endCmd t c.sq c.tag 0 m) _ m

theorem settleWaits (t : Clk) (m : Mod) : Undisturbed m (settleWaits t m) := by
  unfold Machine.settleWaits
  refine foldl _ (fun m ge => foldl _ (fun m c => ?_) _ m) _ m
  unfold settleWait
  simp only
  split
  · split_ifs
    · exact Still.modCtx _ _ _ _ fun _ => rfl
    · exact Still.modCtx _ _ _ _ fun _ => rfl
    · exact refl m
  · exact refl m

/-- Settling disturbs nothing that `Undisturbed` names. -/
theorem settle (t : Clk) (m : Mod) : Undisturbed m (settle t m) :=
  trans (trans (trans (trans (trans (trans (purgeRuns m) (finishCmds t _)) (sendRemotes t _)) (finishTasks _)) (sendRemotes t _))
    (foldl _ (fun m k => finishProgram t m k) _ _)) (settleWaits t _)

end Still

end Sys2Proof.Machine
end

