-- ==== Sys2Proof/Laws/Issue.lean ====
section
/-! SUPPORT. What an issue attempt does: the word that heads a ready context reaches the effect of its
form, and the end of an instruction moves its context on. -/

namespace Sys2Proof.Machine

theorem noBreak_check (t : Clk) (g c : Nat) (m : Mod) (h : noBreak m g c) : breakCheck t g c m = (m, false) := by
  unfold breakCheck
  simp only
  rw [if_pos]
  rcases h with h | h
  · exact Or.inl h
  · right
    simp only [List.any_eq_true, not_exists, not_and, Bool.and_eq_true, beq_iff_eq, Option.isNone_iff_eq_none, and_assoc]
    intro b hb h1 h2 h3
    exact h b hb ⟨h1, h2, h3⟩

theorem attempt_eq (f : Form) (op : Nat) (ext : Option Nat) (g c : Nat) (w : LviWord) (s : State)
    (h : headReady s g c op ext w) : attempt f op ext g c w s.clk s.m = tryIssue f g c w s.clk (pastWait s.clk g c w s.m) := by
  unfold attempt
  rw [if_neg (by simp [h.1, h.2.1]), noBreak_check s.clk g c s.m h.2.2.1]
  simp [h.2.2.2.1, h.2.2.2.2]

theorem tryIssue_eq (f : Form) (g c : Nat) (w : LviWord) (t : Clk) (m : Mod) (hT : wT w = false)
    (hc : f.chk t m g c w = none) (hm : f.miss t m g c w = none) : tryIssue f g c w t m = withLeave f t g c w m := by
  unfold tryIssue
  rw [if_neg (by simp [hc]), hm]
  simp [hT]

theorem pastWait_und (t : Clk) (g c : Nat) (w : LviWord) (m : Mod) : Undisturbed m (pastWait t g c w m) := by
  unfold pastWait traceWait
  exact Still.trans (Still.ite (Still.trace ..) (Still.refl m)) (Still.modCtx _ _ _ _ fun _ => rfl)

theorem issuing_und (g c : Nat) (m : Mod) : Undisturbed m (issuing g c m) := by
  have h1 : Undisturbed m (modCtx m g c fun x => { x with waitSince := none, leaveReq := none, accepted := none }) :=
    Still.modCtx m g c _ fun _ => rfl
  exact Still.trans h1 (Still.setLast _ g c (ctx m g c).accepted.isSome)

/-- What the effect of an issued instruction starts from. -/
theorem traceIssue_und (t : Clk) (g c : Nat) (w : LviWord) (m : Mod) :
    Undisturbed m (traceIssue t g (taskId g c) (ctx m g c).pc (wOp w) (issuing g c m)) :=
  Still.trans (issuing_und g c m) (Still.traceIssue t g (taskId g c) (ctx m g c).pc (wOp w) _)

theorem withLeave_none (f : Form) (t : Clk) (g c : Nat) (w : LviWord) (m : Mod) (h : f.leave m g c w = 0) :
    withLeave f t g c w m = startInsn f t g c w 0 m := by
  unfold withLeave
  simp [h]

theorem startInsn_here (f : Form) (t : Clk) (g c : Nat) (w : LviWord) (grant : Nat) (m : Mod) (h : f.atPort = false) :
    startInsn f t g c w grant m = f.eff t g c w grant (traceIssue t g (taskId g c) (ctx m g c).pc (wOp w) (issuing g c m)) := by
  unfold startInsn
  simp [h]

/-- A plain form: it issues by itself, with no check, no miss, no leave. -/
theorem plain_attempt (f : Form) (op : Nat) (ext : Option Nat) (g c : Nat) (w : LviWord) (s : State)
    (h : headReady s g c op ext w) (hT : wT w = false) (h1 : ∀ t m, f.chk t m g c w = none)
    (h2 : ∀ t m, f.miss t m g c w = none) (h3 : ∀ m, f.leave m g c w = 0) (h4 : f.atPort = false) :
    ∃ u, Undisturbed s.m u ∧ attempt f op ext g c w s.clk s.m = f.eff s.clk g c w 0 u := by
  refine ⟨_, Still.trans (pastWait_und s.clk g c w s.m) (traceIssue_und s.clk g c w _), ?_⟩
  rw [attempt_eq f op ext g c w s h, tryIssue_eq f g c w s.clk _ hT (h1 _ _) (h2 _ _), withLeave_none f s.clk g c w _ (h3 _),
    startInsn_here f s.clk g c w 0 _ h4]

theorem moved_und {m u v : Mod} {g c : Nat} {f : Ctx → Ctx} {pc : Nat} (h : Moved m u g c f pc) (k : Undisturbed u v) : Moved m v g c f pc :=
  ⟨k.1.trans h.1, fun x => (k.2.1 x).trans (h.2.1 x), fun x y hxy => (k.2.2 x y).trans (h.2.2.1 x y hxy), (k.2.2 g c).trans h.2.2.2⟩

theorem advanceTo_moved (t : Clk) (g c pc : Nat) (m : Mod) : Moved m (advanceTo t g c pc m) g c id pc := by
  have h : Moved m (modCtx m g c fun x => moveTo x pc) g c id pc := by
    refine ⟨rfl, fun h => ?_, fun h d hd => ?_, ?_⟩
    · rw [engine_modCtx]; split_ifs with hh
      · subst hh; rfl
      · rfl
    · rw [ctx_modCtx, if_neg hd]
    · rw [ctx_modCtx, if_pos ⟨rfl, rfl⟩]; rfl
  unfold advanceTo
  simp only
  split_ifs
  · exact h
  · exact moved_und h (Still.faultTask ..)

theorem stillCtx_pc {x y : Ctx} (h : stillCtx x = stillCtx y) : x.pc = y.pc := by
  simp only [stillCtx, Ctx.mk.injEq] at h; exact h.2.2.2.1
theorem stillCtx_ctr {x y : Ctx} (h : stillCtx x = stillCtx y) : x.ctr = y.ctr := by
  simp only [stillCtx, Ctx.mk.injEq] at h; exact h.2.2.2.2.1
theorem und_pc {m u : Mod} (h : Undisturbed m u) (g c : Nat) : (ctx u g c).pc = (ctx m g c).pc := stillCtx_pc (h.2.2 g c)

/-- f sees only what `stillCtx` keeps. -/
def Sees (f : Ctx → Ctx) : Prop := ∀ x y, stillCtx x = stillCtx y → stillCtx (f x) = stillCtx (f y)

theorem moveTo_sees (pc : Nat) : Sees (fun x => moveTo x pc) := by
  intro x y h
  simp only [stillCtx, moveTo, Ctx.mk.injEq] at h ⊢
  simp_all

theorem und_moved {m u v : Mod} {g c : Nat} {f : Ctx → Ctx} {pc : Nat} (hf : Sees f) (k : Undisturbed m u) (h : Moved u v g c f pc) : Moved m v g c f pc :=
  ⟨h.1.trans k.1, fun x => (h.2.1 x).trans (k.2.1 x), fun x y hxy => (h.2.2.1 x y hxy).trans (k.2.2 x y),
   h.2.2.2.trans (moveTo_sees pc _ _ (hf _ _ (k.2.2 g c)))⟩

theorem mod_moved {m v : Mod} {g c : Nat} {f : Ctx → Ctx} {pc : Nat} (h : Moved (modCtx m g c f) v g c id pc) : Moved m v g c f pc := by
  obtain ⟨a, b, d, e⟩ := h
  refine ⟨a, fun x => (b x).trans ?_, fun x y hxy => (d x y hxy).trans ?_, e.trans ?_⟩
  · rw [engine_modCtx]; split_ifs with hh
    · subst hh; rfl
    · rfl
  · rw [ctx_modCtx, if_neg hxy]
  · rw [ctx_modCtx, if_pos ⟨rfl, rfl⟩]; rfl

theorem done_moved (t : Clk) (g c : Nat) (w : LviWord) (m : Mod) : Moved m (done t g c w m) g c id ((ctx m g c).pc + 1) := by
  unfold done advance
  have h := Still.putSignal m (taskId g c) w 0 none
  have hp : (ctx (putSignal m (taskId g c) w 0 none) g c).pc = (ctx m g c).pc := und_pc h g c
  rw [hp]
  exact und_moved (fun _ _ h => h) h (advanceTo_moved ..)

/-- A form whose effect updates its context and is done. -/
theorem ctx_form {f : Form} {op : Nat} {ext : Option Nat} {e : Eng} {c : CtxId} {w : LviWord} {s : State} {r : Ctx → Ctx}
    (h : headReady s e c op ext w) (hT : wT w = false) (h1 : ∀ t m, f.chk t m e c w = none)
    (h2 : ∀ t m, f.miss t m e c w = none) (h3 : ∀ m, f.leave m e c w = 0)
    (h4 : f.atPort = false) (he : ∀ m, f.eff s.clk e c w 0 m = done s.clk e c w (modCtx m e c r)) (hr : Sees r) (hpc : ∀ x, (r x).pc = x.pc) :
    ∃ t, issueRow f op ext e c w s = .next t ∧ t.clk = s.clk ∧ Moved s.m t.m e c r ((ctx s.m e c).pc + 1) := by
  refine ⟨_, rfl, rfl, ?_⟩
  obtain ⟨u, hu, ha⟩ := plain_attempt f op ext e c w s h hT h1 h2 h3 h4
  simp only
  rw [ha, he]
  refine moved_und ?_ (Still.settle ..)
  have hp : (ctx u e c).pc = (ctx s.m e c).pc := und_pc hu e c
  refine und_moved hr hu (mod_moved ?_)
  have := done_moved s.clk e c w (modCtx u e c r)
  rwa [ctx_modCtx, if_pos ⟨rfl, rfl⟩, hpc, hp] at this

end Sys2Proof.Machine
end

