-- ==== Sys2Proof/Tests/Slice0.lean ====
section
/-! SUPPORT. Tests: what well-formedness refuses, for every obligation a concrete state and operands that
meet the hypotheses of its clauses, and single steps held against the spec's words. A clause that asks
something of an opaque constant of Config has the value it asks for as a hypothesis of its witness. -/

open Sys2Proof Sys2Proof.Machine

namespace Sys2Proof.Tests

set_option Elab.async false

/-! ## Small states -/

/-- An LVI word of an opcode and of the bits below it. -/
def insn (op rest : Nat) : LviWord := BitVec.ofNat 128 (op * 2 ^ 120 + rest)

/-- MS0, HN up, partition 0 enabled with dies 0 and 1 and media die 0, some leave everywhere. -/
def live : Mod := { modReset with
  hub := { modReset.hub with booted := true, idSet := true }
  bar0 := [(0x200000, 0x10101)]
  pwr := { modReset.pwr with state := .ms0, budget := [(0, 100), (1, 100), (16, 100)] } }

def withEng (e : Engine) (m : Mod) : Mod := { m with eng := [(0, e)] }
def withCtx (x : Ctx) (m : Mod) : Mod := withEng { (engine m 0) with ctx := [(0, x)] } m
def withMem (a : Nat) (bs : List Byte) (m : Mod) : Mod := { m with mem := pokes m.mem a bs }
def withReg (off : Nat) (v : W64) (m : Mod) : Mod := setReg m off v
def task (ws : List LviWord) : Ctx := { st := .ready, stream := ws }
def run2 (w : LviWord) : Mod := withCtx (task [w, insn 0 0]) live
def atMod (m : Mod) : State := { State.reset with m := m }
/-- The same with the time base on. -/
def onTime (m : Mod) : State := { State.reset with m := m, clk := { clkReset with running := true, now := 1000000 } }
/-- The state of one word at the head of task 0, a NOP behind it. -/
def head (w : LviWord) : State := atMod (run2 w)

/-- A command that waits at its turn starts. -/
theorem waits {s : State} {sq : RingId} {tag : BitVec 16} {op : Nat} {c : Cmd}
    (h : (findCmd s.m sq.val tag.toNat = some c ∧ c.op = op ∧ c.fault = none) ∧ c.fallback = false ∧ c.st = .waiting ∧ mayStart s.m c = true) :
    cmdReady s sq tag op c :=
  ⟨h.1.1, h.1.2.1, h.1.2.2, h.2.1, .inl h.2.2⟩

/-- What a check or a read answers, named by its outcome. -/
theorem ok_of {α β ε : Type} {x : α × Except ε β} (h : x.2.toOption.isSome = true) : ∃ a b, x = (a, .ok b) := by
  obtain ⟨a, e | b⟩ := x
  · simp [Except.toOption] at h
  · exact ⟨a, b, rfl⟩
theorem error_of {α β ε : Type} {x : α × Except ε β} (h : x.2.toOption.isSome = false) : ∃ a e, x = (a, .error e) := by
  obtain ⟨a, e | b⟩ := x
  · exact ⟨a, e, rfl⟩
  · simp [Except.toOption] at h
theorem none_of {α β : Type} {x : α × Option β} (h : x.2.isNone = true) : ∃ a, x = (a, none) := by
  obtain ⟨a, b⟩ := x
  cases b
  · exact ⟨a, rfl⟩
  · simp at h

/-! ## Well-formedness: one ill-formed command for each check -/

theorem test_wf_wrong_opcode : (Instr.add 0 0 (insn 0x03 0)).wellFormed = false := by decide
theorem test_wf_wrong_ext : (Instr.tierSeal 0 0 (insn 0x23 0)).wellFormed = false := by decide
theorem test_wf_reserved_bit : (Instr.nop 0 0 (insn 0x00 1)).wellFormed = false := by decide
theorem test_wf_wmode_unused_w0 : (Instr.nop 0 0 (insn 0x00 (2 ^ 104))).wellFormed = false := by decide
theorem test_wf_register_size : (Instr.registerWrite 0 0x30 2 0).wellFormed = false := by decide
theorem test_wf_register_aligned : (Instr.registerWrite 0 0x34 8 0).wellFormed = false := by decide
theorem test_wf_good : (Instr.nop 0 0 (insn 0x00 0)).wellFormed = true ∧ (Instr.registerWrite 0 0x34 4 0).wellFormed = true := by decide

/-! ## Hypotheses met: the machine -/

theorem witness_StepRunsFront : (State.pending { State.reset with pending := [.steeringStep] }) = .steeringStep :: [] := rfl

theorem witness_IdleStepIsOneEdge :
    let s := onTime live
    let l := { s with clk := { s.clk with load := some 8 } }
    let p := { l with m := withCtx { (task [insn 0 0]) with accepted := some { launch := 4, word := insn 0 0, resv := none } } live }
    (State.reset.pending = [] ∧ State.reset.clk.running = false)
    ∧ (s.pending = [] ∧ s.clk.running = true ∧ s.clk.load = none ∧ s.clk.now + 2 < s.m.coolAt + 1600000000
      ∧ quietEdge s = true ∧ ∀ r ∈ s.m.bar0, selOf r.1 = none)
    ∧ (l.pending = [] ∧ l.clk.running = true ∧ l.clk.load = some 8 ∧ transitPending l.m = false ∧ syncEn l.m = false)
    ∧ (p.pending = [] ∧ p.clk.running = true ∧ transitPending p.m = true) := by decide +kernel
theorem witness_IdleStepIsOneEdge_coolant :
    let s := { onTime live with clk := { clkReset with now := 1600000000 } }
    s.pending = [] ∧ quietEdge s = true ∧ s.m.coolAt + 1600000000 ≤ s.clk.now + 2 := by decide +kernel
/-- One event counter of engine 0, which counts cycles. -/
theorem witness_IdleStepIsOneEdge_count :
    let m : Mod := { live with bar0 := [(rEcntSel 0 0, 1)] }
    quietEdge { onTime m with m := m } = true ∧ m.bar0 = [(rEcntSel 0 0, 1)] ∧ selOf (rEcntSel 0 0) = some (0, 0) ∧ cycleCounts clkReset m 0 (bits 1 0 5) = true := by decide +kernel

theorem witness_TimeBaseKept : clkOk (onTime live).clk ∧ ∃ t, step (onTime live) = .next t :=
  ⟨by unfold clkOk; decide, _, rfl⟩

/-! ## Hypotheses met: the sequencer -/

theorem witness_ScalarResults_add : headReady (head (insn 2 0)) 0 0 0x02 none (insn 2 0) ∧ wT (insn 2 0) = false := by
  unfold headReady noBreak; decide
theorem witness_ScalarResults_cmp : headReady (head (insn 3 0)) 0 0 0x03 none (insn 3 0) ∧ wT (insn 3 0) = false := by
  unfold headReady noBreak; decide
theorem witness_ScalarResults_sel : headReady (head (insn 4 0)) 0 0 0x04 none (insn 4 0) ∧ wT (insn 4 0) = false := by
  unfold headReady noBreak; decide
theorem witness_ScalarResults_setlt : headReady (head (insn 7 0)) 0 0 0x07 none (insn 7 0) ∧ wT (insn 7 0) = false := by
  unfold headReady noBreak; decide
theorem witness_ScalarResults_time : headReady (head (insn 8 0)) 0 0 0x08 none (insn 8 0) ∧ wT (insn 8 0) = false := by
  unfold headReady noBreak; decide

theorem witness_FlowResults_nop : headReady (head (insn 0 0)) 0 0 0x00 none (insn 0 0) ∧ wT (insn 0 0) = false := by
  unfold headReady noBreak; decide
theorem witness_FlowResults_loop_zero : headReady (head (insn 5 0)) 0 0 0x05 none (insn 5 0) ∧ imm (insn 5 0) = 0 := by
  unfold headReady noBreak; decide
theorem witness_FlowResults_loop : headReady (head (insn 5 7)) 0 0 0x05 none (insn 5 7) ∧ imm (insn 5 7) ≠ 0 := by
  unfold headReady noBreak; decide
theorem witness_FlowResults_br : headReady (head (insn 6 0)) 0 0 0x06 none (insn 6 0) := by
  unfold headReady noBreak; decide
theorem witness_FlowResults_turn : 1 < (sget 0 ([(0, 2)] : Sparse W32) 0).toNat ∧ (sget 0 ([(0, 1)] : Sparse W32) 0).toNat ≤ 1 := by decide
theorem witness_FlowResults_end : headReady (head (insn 1 0)) 0 0 0x01 none (insn 1 0) ∧ wT (insn 1 0) = false := by
  unfold headReady noBreak; decide

theorem witness_SyncOpsSent_issue : ∀ op ∈ [0xE0, 0xE1, 0xE2],
    headReady (head (insn op 0)) 0 0 op none (insn op 0) ∧ hasNext (head (insn op 0)).m 0 0 ∧ wT (insn op 0) = false := by
  unfold headReady noBreak hasNext; decide

/-- One operation of task 0 waits at the sync file of die 0. -/
def syncAsk (k : SyncKind) (x : SyncObj) : State :=
  atMod { live with sync := [(5, x)], syncQ := [(0, [{ id := 1, src := 0, obj := 5, kind := k, deps := [] }])] }
def anOp (k : SyncKind) : SyncOp := { id := 1, src := 0, obj := 5, kind := k, deps := [] }

theorem witness_SyncOpsSent_arrive : ∀ k ∈ [SyncKind.arm 3 true, SyncKind.clear],
    let s := syncAsk k { alloc := true }
    firstReady s.m 0 (syncQueue s.m 0) 0 = some (anOp k) ∧ dieState s.m 0 ≤ 1 ∧ (syncObj s.m 0 5).bad = none := by decide

/-- A flag, a counter, and a counter that the signal would take past its top (R281). -/
theorem witness_SignalArrives : ∀ x ∈ [({ alloc := true } : SyncObj), { alloc := true, counter := true },
      { alloc := true, counter := true, value := 0xFFFFFFFF }],
    let s := syncAsk (.sig 1) x
    firstReady s.m 0 (syncQueue s.m 0) 0 = some (anOp (.sig 1)) ∧ dieState s.m 0 ≤ 1 ∧ (syncObj s.m 0 5).bad = none := by decide
theorem witness_SignalArrives_top : 0xFFFFFFFF < (0xFFFFFFFF : W32).toNat + (1 : W32).toNat := by decide

/-- Context 0 waits on object 3, context 1 is ready. -/
def waiting : Mod := withEng { sel := false, ctx := [(0, { st := .missed .wait, stream := [insn 0 (2 ^ 118 + 3 * 2 ^ 104)], waitSince := some 0 }),
  (1, task [insn 0 0])] } live

theorem witness_IssueControl_switch :
    let s := atMod waiting
    engineRuns s.m 0 = true ∧ (engine s.m 0).halt = .running ∧ goesOn s.m 0 = false
      ∧ nextReady s.clk s.m 0 (engine s.m 0).active = some 1 := by decide
theorem witness_IssueControl_grant :
    let r : LeaveReq := { id := 4, level := 0, units := 3 }
    let m := modGov live 0 fun g => { g with queue := [r] }
    headOf (gov m 0).queue = some r ∧ r.units ≤ freeBudget m 0 := by decide
theorem witness_IssueControl_watchdog :
    let s := { atMod (withReg (rCd 0) 1 waiting) with clk := { clkReset with now := 1600 } }
    (ctx s.m 0 0).waitSince = some 0 ∧ taskWait s.m 0 = some 3 ∧ (engine s.m 0).halt = .running
      ∧ 0 + wdogTicks s.m 0 ≤ s.clk.now := by decide
/-- Task 0 waits for object 3, which task 1 signals; task 1 waits for object 4, which task 0 signals (R297). -/
theorem witness_IssueControl_cycle :
    let w := fun (o : Nat) => insn 0 (2 ^ 118 + o * 2 ^ 104)
    let x := fun (o : Nat) => ({ st := .missed .wait, stream := [w o], waitSince := some 0 } : Ctx)
    let m : Mod := { withEng { ctx := [(0, x 3), (1, x 4)] } live with
      sync := [(3, { alloc := true, signallers := [1] }), (4, { alloc := true, signallers := [0] })] }
    taskWait m 0 = some 3 ∧ partner m 0 3 = some (1, 4) := by decide +kernel

/-! ## Hypotheses met: streams, queues, CHAINs, regions -/

theorem witness_MoveIssues :
    let w := insn 0x20 0
    headReady (head w) 0 0 0x20 none w ∧ wT w = false ∧ hasNext (head w).m 0 0
      ∧ (dmaq (engine (head w).m 0) (wf w 13 3)).runs.length < 256 := by
  unfold headReady noBreak hasNext; decide

def aHandle : Handle := { addr := 0x100, len := 64 }
def skipHandle : Handle := { aHandle with skip := true }

theorem witness_HandleInstructions_push :
    let w := insn 0x21 0
    headReady (head w) 0 0 0x21 none w ∧ hasNext (head w).m 0 0
      ∧ (partDies (head w).m (ctx (head w).m 0 0).part)[wf w 52 4]? = some 0 := by
  unfold headReady noBreak hasNext; decide
theorem witness_HandleInstructions_pop :
    let w := insn 0x22 0
    headReady (head w) 0 0 0x22 none w ∧ wT w = false := by
  unfold headReady noBreak; decide

def hqAsk (o : HqOp) (items : List Handle) : Mod :=
  { withCtx (task [insn 0 0]) live with hqs := [(0, { alloc := true, items := items })], hqQ := [(0, [o])] }
def aPush (holds : Bool) : HqOp :=
  { id := 1, src := 0, queue := 0, push := some aHandle, deps := [], holds := holds, desc := none, word := none }

theorem witness_QueueArrivals_room :
    let m := hqAsk (aPush false) (List.replicate 63 aHandle)
    firstHq m 0 0 = some (aPush false) ∧ (hqAt m 0).alloc = true ∧ (hqAt m 0).part = (ctx m 0 0).part
      ∧ (hqAt m 0).items.length < 64 := by decide
theorem witness_QueueArrivals_full : ∀ b : Bool,
    let m := hqAsk (aPush b) (List.replicate 64 aHandle)
    firstHq m 0 0 = some (aPush b) ∧ (hqAt m 0).alloc = true ∧ 64 ≤ (hqAt m 0).items.length ∧ (ctx m 0 0).st ≠ .empty := by decide
theorem witness_QueueArrivals_pop (h : Config.handleEcc (hqAsk (aPush true) []).draw = .clean) :
    let o : HqOp := { aPush true with push := none, desc := some 3 }
    let m := hqAsk o [aHandle]
    firstHq m 0 0 = some o ∧ o.push = none ∧ (hqAt m 0).items = aHandle :: [] ∧ aHandle.skip = false ∧ aHandle.bad = none
      ∧ Config.handleEcc m.draw = .clean := ⟨by decide, rfl, by decide, rfl, rfl, h⟩
/-- The pop of an HQ.POP on its way: of task 0, or of the word at its head. -/
def aPop (w : LviWord) (key : Nat) : HqOp :=
  { id := 1, src := 0, queue := key, push := none, deps := [], holds := false, desc := none, word := some w, by_ := .task 0 }
def popAsk (w : LviWord) (key : Nat) (items : List Handle) (m : Mod) : Mod :=
  { withCtx { task [w, insn 0 0] with pop := some (1, false) } m with hqs := [(key, { alloc := true, items := items })], hqQ := [(0, [aPop w key])] }
/-- SKIPSUB past one SKIP handle, and a plain pop, of queues that hold handles and of one that holds none. -/
theorem witness_QueueArrivals_task : ∀ x ∈ [(insn 0x22 0, [aHandle]), (insn 0x22 (2 ^ 64), [skipHandle, aHandle]), (insn 0x22 0, [])],
    let m := popAsk x.1 0 x.2 live
    firstHq m 0 0 = some (aPop x.1 0) ∧ popKey 0 x.1 = 0 ∧ (ctx m 0 0).pop = some (1, false) ∧ (hqAt m 0).items = x.2
      ∧ taskSide m (ctx m 0 0).part 0 0 = none := by decide

def aStage (kind : Nat) : StageRec := { kind := kind, place := 0, pool := 1, bytes := 64, tmpl := 0 }
def aChain : ChainRec := { completion := 0, stages := [aStage 0, aStage 0, aStage 1], full := [1, 2], free := [3, 4] }
def aProg : Program where
  bytes := []
  major := 2
  minor := 0
  id := 7
  tasks := [{ section_ := 0, rdie := 0, eng := 0, ctx := 0, levels := [], weights := [] }]
  taskIds := [0]
  descs := []
  consts := []
  slots := []
  chains := [aChain]
  mcast := []
  keepQuota := 0
  placed := []
  started := false
  finished := false
  cmd := none
  partial_ := false
  sat := false
  flog := none
def loaded (p : Program) (m : Mod) : Mod := modPart m 0 fun x => { x with prog := some p }

theorem witness_ChainsRun_start :
    let w := insn 0x24 0
    let m := loaded aProg (run2 w)
    headReady (atMod m) 0 0 0x24 none w ∧ wT w = false ∧ chainRec m (ctx m 0 0).part (wf w 0 16) = some aChain
      ∧ chainRunning m (ctx m 0 0).part (wf w 0 16) = false := by
  unfold headReady noBreak; decide
theorem witness_ChainsRun_stage :
    let st : StageSt := { inp := none, out := none, busy := false, fin := false, stopped := false }
    let r : ChainRt := { rec_ := 0, stages := [st, st, st], cmd := none, stopped := false, flog := none }
    let m1 := modPart (loaded aProg live) 0 fun x => { x with chains := [r] }
    let m : Mod := { m1 with hqs := [(1, { alloc := true, items := [aHandle] }), (4, { alloc := true, items := [aHandle] })] }
    chainRt m 0 0 = some r ∧ chainRec m 0 0 = some aChain ∧ aChain.stages[1]? = some (aStage 0) ∧ r.stages[1]? = some st
      ∧ aChain.full[0]? = some 1 ∧ aChain.free[1]? = some 4 ∧ (hqAt m 1).items = aHandle :: [] ∧ (hqAt m 4).items = aHandle :: [] := by decide
def idleStage : StageSt := { inp := none, out := none, busy := false, fin := false, stopped := false }
def chained (c : ChainRec) (m : Mod) : Mod :=
  modPart (loaded { aProg with chains := [c] } m) 0 fun x => { x with chains := [{ rec_ := 0, stages := [idleStage, idleStage, idleStage], cmd := none, stopped := false, flog := none }] }
/-- Task 0 is the last stage of the CHAIN, whose input is FULL queue 2; then the first stage, whose output is FREE queue 3: it
pops an empty buffer. -/
theorem witness_ChainsRun_pop : ∀ x ∈ [(2, aChain, 2, true), (3, { aChain with stages := [aStage 1, aStage 0, aStage 0] }, 0, false)],
    let w := insn 0x22 (x.1 * 2 ^ 32)
    let m := popAsk w x.1 [aHandle] (chained x.2.1 live)
    firstHq m 0 0 = some (aPop w x.1) ∧ wExt w ≠ 1 ∧ popKey 0 w = x.1 ∧ (ctx m 0 0).pop = some (1, false) ∧ hasNext m 0 0
      ∧ taskSide m (ctx m 0 0).part 0 x.1 = some (0, x.2.2.1, x.2.2.2) ∧ stageAt m (ctx m 0 0).part 0 x.2.2.1 = some (idleStage, false)
      ∧ (hqAt m x.1).items = aHandle :: [] := by
  unfold hasNext; decide

/-- Partition 0 reaches HBM below 2 GiB and the first 1 GiB of tier die 0. Its tables map VA 0 to the tier,
1 GiB to HBM and, at 2 GiB, the scratchpad of engine 0. -/
def mapped (m : Mod) : Mod :=
  let cell := fun (a v : Nat) (m : Mod) => withMem a (toLe 8 v) m
  let m1 := withReg 0x200118 0x40040000000 (withReg 0x200110 0x40000000001 (withReg 0x200108 0x80000000 (withReg 0x200100 1 m)))
  let l : Line := { key := 0, marked := false, poison := false }
  let m2 := (cell 0 0x1001 (cell 0x1000 0x2001 (cell 0x2000 0x4000000000F (cell 0x2008 0x4000000F (cell 0x2010 0x3001 (cell 0x3000 0x9000000000F m1))))))
  { m2 with mem := { m2.mem with lines := [(0, l), (16, l), (32, l), (48, l)] } }

theorem witness_TierInstructions_open :
    let w := insn 0x23 0
    let m := mapped (run2 w)
    headReady (atMod m) 0 0 0x23 (some 0) w ∧ wT w = false ∧ hasNext m 0 0
      ∧ xlate m 0 (counterPair (ctx m 0 0) 0).toNat true = .ok { phys := 0x40000000000, rd := true, wr := true, bound := false }
      ∧ place 0x40000000000 = .tier 0 0 := by
  unfold headReady noBreak hasNext; decide +kernel
theorem witness_TierInstructions_others : ∀ x ∈ [1, 2, 3, 4],
    let w := insn 0x23 (x * 2 ^ 64)
    headReady (head w) 0 0 0x23 (some x) w ∧ wT w = false ∧ hasNext (head w).m 0 0 := by
  unfold headReady noBreak hasNext; decide

/-- A command of ring 0 with tag 9, its arguments from byte 0x10 on. -/
def aCmd (op : Nat) (part : Option Nat) (args : List Byte) : Cmd where
  sq := 0
  tag := 9
  seq := 1
  op := op
  fence := false
  entry := [BitVec.ofNat 8 op, 0, 9, 0] ++ List.replicate 12 0 ++ args ++ List.replicate (48 - args.length) 0
  part := part
  func := 0
  st := .waiting
  works := []
  fallback := false
  fault := none
def withCmd (c : Cmd) (m : Mod) : State := onTime { m with cmds := [c], nextId := 10 }

/-- Each TIER_REGION command, as its OP byte at 0x10 says. -/
theorem witness_TierInstructions_commands : ∀ op ∈ [1, 2, 3, 4],
    let c := aCmd 0x22 (some 0) (toLe 1 op)
    cmdReady (withCmd c live) 0 9 0x22 c ∧ c.part = some 0 ∧ carg c 0x10 1 = op :=
  fun op h => ⟨waits (by revert op; decide), rfl, by revert op; decide⟩
theorem witness_TierInstructions_open_command :
    let c := aCmd 0x22 (some 0) (toLe 1 0)
    let s := withCmd c (mapped live)
    carg c 0x10 1 = 0 ∧ xlate s.m 0 (carg c 0x18 8) true = .ok { phys := 0x40000000000, rd := true, wr := true, bound := false } := by
  decide +kernel

def regAsk (op : RegOp) (r : Region) : Mod :=
  { mapped live with
    regions := if r = {} then [] else [(0, r)]
    regQ := [(0, [{ id := 1, op := op, who := .driver 0, part := 0, entry := 0, va := false, deps := [], result := none, word := none, cmd := none }])] }
def aRegion (st : RState) : Region := { st := st, base := 0, size := 1, d := 2, done := 1 }

theorem witness_RegionOpsApply_open :
    let m := regAsk (.opn 0 1) {}
    svcRuns m 1 6 0 = false ∧ (∃ q, (sget [] m.regQ 0)[0]? = some q ∧ depsDone m q.deps = true ∧ q.op = .opn 0 1)
      ∧ openErr (withReg 0x200020 100 m) 0 0 0 1 false = none ∧ freeEntry m 0 = some 0 :=
  ⟨by decide, ⟨_, rfl, by decide, rfl⟩, by decide +kernel, by decide⟩
theorem witness_RegionOpsApply_others :
    (∀ op ∈ [RegOp.seal 2, .abandon], ∃ q, (sget [] (regAsk op (aRegion .filling)).regQ 0)[0]? = some q ∧ q.op = op
      ∧ (region (regAsk op (aRegion .filling)) 0 q.entry).st = .filling ∧ (region (regAsk op (aRegion .filling)) 0 q.entry).owner = q.who)
    ∧ (∀ op ∈ [RegOp.done, .release], ∃ q, (sget [] (regAsk op (aRegion .sealed)).regQ 0)[0]? = some q ∧ q.op = op
      ∧ (region (regAsk op (aRegion .sealed)) 0 q.entry).st = .sealed ∧ (aRegion .sealed).done < (aRegion .sealed).d)
    ∧ ∃ q, (sget [] (regAsk .done (aRegion .released)).regQ 0)[0]? = some q ∧ q.op = .done
      ∧ (region (regAsk .done (aRegion .released)) 0 q.entry).st = .released ∧ (aRegion .released).done + 1 = (aRegion .released).d := by
  refine ⟨?_, ?_, ⟨_, rfl, rfl, by decide, by decide⟩⟩
  · intro op h
    simp only [List.mem_cons, List.not_mem_nil, or_false] at h
    rcases h with rfl | rfl <;> exact ⟨_, rfl, rfl, by decide, by decide⟩
  · intro op h
    simp only [List.mem_cons, List.not_mem_nil, or_false] at h
    rcases h with rfl | rfl <;> exact ⟨_, rfl, rfl, by decide, by decide⟩

/-- RECLAIM by the driver of a sealed entry and of a free one; a SEAL of a free entry is refused. -/
theorem witness_RegionOpsApply_reclaim : ∀ st ∈ [RState.sealed, .free], ∃ q,
    (sget [] (regAsk .reclaim (aRegion st)).regQ 0)[0]? = some q ∧ q.op = .reclaim ∧ isDriver q.who = true
      ∧ ((region (regAsk .reclaim (aRegion st)) 0 q.entry).part = q.part ∨ (region (regAsk .reclaim (aRegion st)) 0 q.entry).st = .free) := by
  intro st h
  simp only [List.mem_cons, List.not_mem_nil, or_false] at h
  rcases h with rfl | rfl <;> exact ⟨_, rfl, rfl, by decide, by decide⟩
theorem witness_RegionOpsApply_refused : ∃ q x, (sget [] (regAsk (.seal 2) (aRegion .free)).regQ 0)[0]? = some q
    ∧ depsDone (regAsk (.seal 2) (aRegion .free)) q.deps = true ∧ regionStep clkReset (regAsk (.seal 2) (aRegion .free)) 0 q = .error x :=
  ⟨_, _, rfl, by decide, rfl⟩

/-! ## Hypotheses met: passes, gangs, drains -/

/-- A BF16 tile header of 32 rows and 32n columns at a scratchpad offset of engine 0. -/
def bfTile (n off : Nat) (m : Mod) : Mod :=
  withMem (padAddr 0 off) (writeHdr { hdrFor 1 1 n false 127 (off / 256) 0 0 0 with paylen := 2048 * n }) m

theorem witness_PassEnters_opx :
    let w := insn 0x40 0
    let s := atMod (bfTile 1 0 (run2 w))
    headReady s 0 0 0x40 none w ∧ formReady passForm s 0 0 w ∧ hasNext s.m 0 0 := by
  unfold headReady noBreak formReady granted hasNext; decide +kernel
theorem witness_PassEnters_dot :
    let w := insn 0x60 0
    let s := atMod (bfTile 8 0 (run2 w))
    headReady s 0 0 0x60 none w ∧ formReady passForm s 0 0 w ∧ hasNext s.m 0 0 := by
  unfold headReady noBreak formReady granted hasNext; decide +kernel

/-- A pass of one step at Asterism 0 of engine 0. -/
def aPass (w : LviWord) (m : Option Int) (injected : Nat) : Pass where
  id := 1
  task := 0
  word := w
  shape := .s32
  base := 0
  slot := 0
  st := .running
  k := 32
  rest := 0
  done := 0
  t := 32
  aOff := 0
  bOff := 0
  tight := false
  drain := none
  m := m
  injected := injected
  retired := []
  replays := 0
  maxReplays := 0
  sat := false
  satAny := false
  faulted := false
  leave := 0
def aGang (ps : List Pass) (ds : List Drain) (slots : Sparse SlotInfo) : Gang where
  base := 0
  shape := .s32
  passes := ps
  drains := ds
  slots := slots
  lastM := none
  nextSlot := 0
def aDrain : Drain where
  id := 3
  task := 0
  slot := 0
  fmt := 0x10
  sr := false
  cols := false
  dest := .pad 0
  word := insn 0x41 0

theorem witness_DrainsRun_ask : ∀ op ∈ [0x41, 0x61],
    let w := insn op 0
    let gg := aGang [] [] [(0, { full := true })]
    let s := atMod (withEng { gangs := [gg], ctx := [(0, task [w, insn 0 0])] } live)
    headReady s 0 0 op none w ∧ formReady drainForm s 0 0 w ∧ gangAt (engine s.m 0) (drainFields w).base = some gg
      ∧ drainOk gg (drainFields w).slot = true := by
  unfold headReady noBreak formReady granted; decide +kernel
theorem witness_DrainsRun_row :
    let gg := aGang [] [aDrain] [(0, { full := true, draining := true })]
    let m := withEng { gangs := [gg] } live
    let x := rowOut m 0 gg aDrain 0 (sget 0 aDrain.rows 0) none
    gangAt (engine m 0) 0 = some gg ∧ nextDrain gg 0 = some aDrain ∧ fenceOpen gg aDrain 0 = true ∧ isMx aDrain.fmt = false
      ∧ (∃ b ∈ members gg, sget 0 (countRow 0 x aDrain).rows b ≠ 32) ∧ ∀ p ∈ x.pieces, pinned m 0 (0 + p.1) p.2.length = false := by
  decide +kernel

theorem witness_GangsStep_form :
    let p := aPass (insn 0x40 0) none 0
    let m := withEng { forming := [p] } live
    ((engine m 0).forming.find? fun q => q.base == 0) = some p ∧ takeForming p.shape 0 (engine m 0).forming ≠ []
      ∧ canForm (engine m 0) p.shape 0 = true := by decide
/-- A pass that has injected 16 of its 32 steps, over one tile of zeros. -/
theorem witness_GangsStep_inject :
    let p := aPass (insn 0x40 0) (some 0) 16
    let gg := aGang [p] [] []
    let m := bfTile 1 0 (withEng { gangs := [gg] } live)
    let h := { hdrFor 1 1 1 false 127 0 0 0 0 with paylen := 2048 }
    let ts : List RunTile := [{ off := 0, h := h, first := 0, n := 32 }]
    gangOf (engine m 0) 0 = some gg ∧ injecting [] gg.passes = some ([], p) ∧ 0 < p.injected
      ∧ runA m 0 p p.k true = .ok ts ∧ runB m 0 p p.k true = .ok ts ∧ pairingOk p 1 1 = true
      ∧ ∀ r ∈ feedRanges p ts ts 16, deadRange m 0 r.1 r.2 = none ∧ notLanded m 0 r.1 r.2 = false ∧ padPoison m 0 r.1 r.2 = false := by
  decide +kernel
theorem witness_StepsRetire :
    let p := aPass (insn 0x40 0) (some 0) 1
    let gg := aGang [p] [] []
    let m := bfTile 1 0 (withEng { gangs := [gg] } live)
    gangAt (engine m 0) 0 = some gg ∧ retiring 0 false gg.passes = some (p, false) ∧ p.faulted = false := by decide
theorem witness_PassesEnd_replay :
    let p := { aPass (insn 0x40 0) (some 0) 1 with st := .overflowed, retired := [(0, 1)] }
    let gg := aGang [p] [] []
    let m := withEng { gangs := [gg] } live
    gangOf (engine m 0) 0 = some gg ∧ gg.passes = [] ++ p :: [] ∧ gg.passes.all (allRetired (members gg)) = true := by decide
theorem witness_PassesEnd_retire :
    let p := { aPass (insn 0x40 0) (some 0) 32 with retired := [(0, 32)] }
    let gg := aGang [p] [] []
    let m := withEng { gangs := [gg] } live
    gangOf (engine m 0) 0 = some gg ∧ gg.passes = p :: [] ∧ p.injected = totalSteps p ∧ allRetired (members gg) p = true := by decide

/-! ## Hypotheses met: the vector unit, DMA -/

theorem witness_VectorIssues : ∀ op ∈ [0x80, 0x81, 0x82, 0x83, 0x84, 0x85, 0x86, 0x87, 0x89, 0x8A, 0x8B],
    let w := insn op 0
    let s := atMod (bfTile 1 0 (run2 w))
    headReady s 0 0 op none w ∧ formReady vectorForm s 0 0 w ∧ hasNext s.m 0 0 := by
  unfold headReady noBreak formReady granted hasNext; decide +kernel
theorem witness_VectorIssues_update :
    let w := insn 0x88 0
    let s := atMod (withMem (padAddr 0 0x34) [1] (run2 w))
    headReady s 0 0 0x88 none w ∧ formReady vectorForm s 0 0 w ∧ hasNext s.m 0 0 := by
  unfold headReady noBreak formReady granted hasNext; decide +kernel
theorem witness_VectorCompletes : ∀ op ∈ [0x80, 0x81, 0x82, 0x84],
    let v : VOp := { id := 2, task := 0, word := insn op 0, args := [0], leave := 0 }
    let m := withEng { vops := [v] } live
    (engine m 0).vops.find? isVector = some v
      ∧ ((vectorWrites m 0 v.word v.args).any fun r => pinned m 0 r.1 r.2) = false
      ∧ ((vectorReads m 0 v.word v.args).find? fun r => padPoison m 0 r.1 r.2) = none := by decide +kernel

/-- A descriptor of op, path, flags, source, destination, length, with the deadline and shadow of its path. -/
def descBytes (op flags src dst len dl shadow : Nat) : List Byte :=
  toLe 1 op ++ toLe 1 flags ++ toLe 6 0 ++ toLe 8 src ++ toLe 8 dst ++ toLe 4 len ++ toLe 2 (if dl = 0 then 0 else 1)
    ++ toLe 2 (if dl = 0 then 0 else 1) ++ toLe 8 dl ++ toLe 8 shadow ++ toLe 1 (if dl = 0 then 0 else 1) ++ toLe 15 0
def aDesc (bs : List Byte) : Desc := { id := 2, run := 1, bytes := bs, at_ := 0, popped := none, popSent := false, forced := false }
def aRun (left : Nat) : Run where
  id := 1
  task := some 0
  cmd := none
  section_ := some 0
  base := 0
  next := 0
  left := left
  soff := 0
  doff := 0
  hint := 0
  prefetch := false
  word := none
  stage := none
def withQ (q : DmaQ) (xs : List Xfer) (m : Mod) : Mod := withEng { dq := if q = {} then [] else [(0, q)], xfers := xs } m
def copyDesc : Desc := aDesc (descBytes 1 0 0x40010000 0x80000000 256 0 0)
def aXfer (d : Desc) (src dst total landed : Nat) : Xfer := { newXfer 0 5 [d] (some 0) src dst total false [(0, 0, total)] 0 with landed := landed }

theorem witness_DescriptorsFetched_burst :
    let m := loaded aProg (withQ { runs := [aRun 3] } [] live)
    engineRuns m 0 = true ∧ (dmaq (engine m 0) 0).runs = [] ++ aRun 3 :: [] ∧ (dmaq (engine m 0) 0).fetched.length ≤ 8
      ∧ dieOwner m 0 = some 0 ∧ (partSt m 0).prog = some aProg := by decide
theorem witness_DescriptorsFetched_prefetch :
    let d := aDesc (descBytes 1 8 0 0 64 0 0)
    let m := withQ { fetched := [d] } [] live
    d ∈ (dmaq (engine m 0) 0).fetched ∧ (readDesc d.bytes).prefetch = true ∧ d.forced = false ∧ d.at_ + 4096 ≤ 1000000 := by decide
/-- A fetch under SKIP and one under LATE are overdue after their tick D. -/
theorem witness_DescriptorsFetched_late : ∀ path ∈ [2, 3],
    let d := aDesc (descBytes 2 (16 * path) 0x40000000 0x80000000 0 4 0)
    let m := withQ {} [aXfer d 0x40000000 0x80000000 64 0] live
    ∃ x, findXfer m 0 5 = some x ∧ overdue { clkReset with sid := 6 } x = true ∧ (xferDesc x).path = path
      ∧ pathRefused (xferDesc x) (keepAt m 0 (xferDesc x).dst true).isSome = none := by
  intro path h
  exact ⟨_, rfl, by revert path; decide, by revert path; decide, by revert path; decide⟩
/-- Under SHADOW, with an FP8 shadow tile in HBM. -/
theorem witness_DescriptorsFetched_shadow :
    let d := aDesc (descBytes 2 16 0x40000000 0x80000000 0 4 0x40100000)
    let x := aXfer d 0x40000000 0x80000000 64 0
    let m := withMem 0x40100000 (writeHdr { hdrFor 4 1 1 false 127 0x401000 0 0 0 with paylen := 1024 }) (mapped (withQ {} [x] live))
    let m0 := countFallback 0 x m
    let r := readTile clkReset m0 (dmaReq m0 0 x.q (xferRun m0 0 x) true) 0 (xferDesc x).shadow
    (xferDesc x).path = 1 ∧ overdue { clkReset with sid := 6 } x = true ∧ findXfer m 0 5 = some x
      ∧ tileWaits m 0 x.q x.id (xferRun m 0 x) (xferDesc x).shadow true = false
      ∧ pathRefused (xferDesc x) (keepAt m 0 (xferDesc x).dst true).isSome = none
      ∧ r.2.toOption.any (fun y => !tileBarred r.1 0 x (xferDesc x).shadow (64 + y.bytes.length)
          && (shadowTile (xferDesc x) y).toOption.isSome) = true := by decide +kernel
/-- The shadow's stack is in service. -/
theorem witness_DescriptorsFetched_waits :
    let d := aDesc (descBytes 2 16 0x40000000 0x80000000 0 4 0x40100000)
    let x := aXfer d 0x40000000 0x80000000 64 0
    let m := modHub (mapped (withQ {} [x] live)) fun h => { h with svc := [(0, { busy := true, op := 2, kind := 8, index := 0 })] }
    (xferDesc x).path = 1 ∧ overdue { clkReset with sid := 6 } x = true ∧ findXfer m 0 5 = some x
      ∧ tileWaits m 0 x.q x.id (xferRun m 0 x) (xferDesc x).shadow true = true := by decide +kernel

theorem witness_CopyRuns_start :
    let m := mapped (withQ { fetched := [copyDesc], runs := [aRun 0] } [] live)
    let f := readDesc copyDesc.bytes
    engineRuns m 0 = true ∧ (engine m 0).halt = .running ∧ pushHeld m 0 0 = false ∧ engineFull m 0 0 = false ∧ nextDesc (dmaq (engine m 0) 0) = some copyDesc
      ∧ descOk 0 f = true ∧ f.op = 1 ∧ f.popSrc = false ∧ f.len ≤ 0x40000
      ∧ boundRefused m 0 0 (findRun m 0 0 1) f.src f.dst 256 false = false := by decide +kernel
theorem witness_CopyRuns_start_pages : ∀ k, (partSt (mapped (withQ { fetched := [copyDesc], runs := [aRun 0] } [] live)) k).xlat = [] :=
  fun _ => rfl
theorem witness_CopyRuns_land :
    let x := aXfer copyDesc 0x40010000 0x80000000 256 0
    let m := mapped (withQ { runs := [aRun 0] } [x] live)
    let rq := dmaReq m 0 x.q (xferRun m 0 x) false
    let r := readAhead clkReset rq .clean 0x40010000 256 256 3 [] false m
    let m2 := modXfer r.1 0 5 fun y => { y with buf := [], poisoned := false }
    findXfer m 0 5 = some x ∧ nextChunk m 0 x = (0, 256) ∧ destPinned m 0 x 0 256 = false ∧ behind m 0 x 0 256 = false
      ∧ chunkWaits m 0 x 0 256 = false ∧ r.2.toOption = some (List.replicate 256 0, false, false)
      ∧ linkWin m2 0 x.dst.toNat = none ∧ spanCheck m2 (dmaReq m2 0 x.q (xferRun m2 0 x) false) true 0x80000000 = .ok (.pad 0 0, false)
      ∧ (writeMem clkReset m2 (dmaReq m2 0 x.q (xferRun m2 0 x) false) 0x80000000 (List.replicate 256 0) false .clean).2.isNone = true := by
  decide +kernel
theorem witness_CopyRuns_complete :
    let x := aXfer copyDesc 0x40010000 0x80000000 256 256
    let m := withQ { runs := [aRun 0] } [x] live
    findXfer m 0 5 = some x ∧ x.tile = false ∧ (xferDesc x).path = 0 ∧ x.total ≤ x.landed ∧ x.acks = 0 ∧ (xferDesc x).pushDst = false := by
  decide

/-! ## Hypotheses met: memory -/

theorem witness_MemoryServes_read :
    ∃ m1 b, readMem clkReset live (reqOf live (.host 0)) 0x80000000000 64 .clean = (m1, .ok b) := ok_of (by decide +kernel)
theorem witness_MemoryServes_refused :
    ∃ m1 e, readMem clkReset live (reqOf live (.host 0)) 0xB0000000000 64 .clean = (m1, .error e) := error_of (by decide +kernel)
theorem witness_MemoryServes_write :
    writeHeld live (reqOf live (.host 0)) 0x80000000000 2 = false
      ∧ spanCheck live (reqOf live (.host 0)) true 0x80000000000 = .ok (.pool 0 0, false)
      ∧ ∃ m1, writeMem clkReset live (reqOf live (.host 0)) 0x80000000000 [1, 2] false .clean = (m1, none) :=
  ⟨by decide +kernel, by decide +kernel, none_of (by decide +kernel)⟩
/-- The pieces of a reduce write at the first line of the die pool. -/
def poolOne (op : Nat) : List (Nat × Nat × Nat) :=
  if op < 4 then [(0, 0x80000000000, reduceSpan op 8)] else [(0, 0x80000000000, 256), (256, 0x80000000100, 256)]
theorem witness_MemoryServes_reduce : ∀ op ∈ [1, 2, 3, 4, 5],
    reducePlace live (reqOf live (.host 0)) op 0x80000000000 8 = .ok (poolOne op) ∧ live.router = none
      ∧ partnerNext (fillPages live (reqOf live (.host 0)) true 0x80000000000 1)
          { op := op, pieces := poolOne op, n := 8, payload := [], poisoned := false, who := [(.host 0, 0x80000000000, [])] } none = false := by
  decide +kernel
/-- An ADD.F32 line behind another of the same line: they meet where the routers bring them together, and one that
waits there combines. -/
theorem witness_MemoryServes_meet :
    let line := List.replicate 256 (0 : Byte)
    let w : RWrite := { op := 1, pieces := poolOne 1, n := 64, payload := line, poisoned := false, who := [(.host 0, 0x80000000000, line)] }
    let m := fillPages live (reqOf live (.host 0)) true 0x80000000000 1
    partnerNext m w (some (.reduceWriteApply (.host 0) 1 0x80000000000 64 line false)) = true
      ∧ (combineWrites w w).any (fun both => !partnerNext { m with router := none } both none) = true := by
  decide +kernel
theorem witness_MemoryServes_merge : (toLe 4 3 ++ toLe 4 0).length = 8 ∧ fld (toLe 4 3 ++ toLe 4 0) 0 4 < 8 := by decide

/-! ## Hypotheses met: the exchange -/

/-- A shard of 1,024 elements, one contribution each round, owned by an engine of a module. -/
def aShard (module engine_ : Nat) : Shard where
  kind := 0
  parts := 1
  part1k := 1
  ownerModule := module
  ownerEngine := engine_
  normSet := 0xFF
  expect := 1
  buf := 0
  paramVa := 0x40010000
  listVa := 0
  listCount := 0
  arriveDie := 0
  arriveEn := true
  arriveObj := 7
def aLayout (epoch : BitVec 16) : Layout where
  epoch := epoch
  part := 0
  norms := [{ valid := true, rootDie := 0, rootModule := 0, nexpect := 2, destVa := 0, destCount := 0 }]
  shards := [some (aShard 0 0)]
def withLayout (m : Mod) : Mod := modXch m fun x => { x with current := some (aLayout 0) }

theorem witness_ExchangeInstructions_drain :
    let w := insn 0xC0 0
    let gg := aGang [] [] [(0, { full := true })]
    let s := atMod (withLayout (withEng { gangs := [gg], ctx := [(0, task [w, insn 0 0])] } live))
    headReady s 0 0 0xC0 none w ∧ formReady xchDrainForm s 0 0 w ∧ hasNext s.m 0 0 ∧ padPoison s.m 0 0 64 = false
      ∧ gangAt (engine s.m 0) (wf w 53 3) = some gg ∧ drainOk gg (wf w 52 1) = true
      ∧ xchErr s.m 0 (gangElems gg.shape) w (readXRec (padRead s.m 0 0 64)) = .ok (aShard 0 0) := by
  unfold headReady noBreak formReady granted hasNext; decide +kernel
theorem witness_ExchangeInstructions_norm :
    let w := insn 0xC1 0
    let m := withLayout (run2 w)
    headReady (atMod m) 0 0 0xC1 none w ∧ hasNext m 0 0 ∧ wT w = false ∧ m.xch.current = some (aLayout 0)
      ∧ (∃ n, normSetOf (aLayout 0) 0 = some n ∧ n.rootModule = moduleNum m ∧ 1 < n.nexpect) ∧ m.xch.pre = [] :=
  ⟨by unfold headReady noBreak; decide, by unfold hasNext; decide, by decide, rfl, ⟨_, rfl, by decide, by decide⟩, rfl⟩
theorem witness_ExchangeInstructions_collect :
    let w := insn 0xC2 0
    let s := atMod (withLayout (run2 w))
    headReady s 0 0 0xC2 none w ∧ formReady collectForm s 0 0 w ∧ hasNext s.m 0 0 ∧ collectErr s.m 0 0 = none := by
  unfold headReady noBreak formReady granted hasNext; decide +kernel
/-- A round with its one report and no packet named, and one without. -/
theorem witness_ExchangeInstructions_round :
    let r : Round := { shard := 0, d := 8, epoch := 0, parts := [(0, { reports := 1 })] }
    let m := modXch (withLayout live) fun x => { x with rounds := [r] }
    roundOf m 0 = some r ∧ roundShard m r = some (aShard 0 0) ∧ roundComplete m (aShard 0 0) r = true
      ∧ roundComplete m (aShard 0 0) { r with parts := [] } = false
      ∧ (pinned m 0 0x1000 (roundUp (64 + 4 * elems (aShard 0 0)) 256) || pinned m 0 0 16) = false
      ∧ sectorsBad m (poolAddr 0 0) (bufBytes (aShard 0 0)) = false := by decide +kernel

/-- Port 0 up to module 5, every module's route through it; an expert table. -/
def linked (xs : List Expert) (m : Mod) : Mod :=
  { m with
    links := [(0, { st := .up, version := 2, rate := 1, width := 1, peer := [1] })]
    banks := [(0, { loaded := true, fmt := 1, rowElems := 32, routes := List.replicate 8 0, experts := xs })] }
def anExpert (module capacity : Nat) : Expert where
  module := module
  engine := 0
  capacity := capacity
  senders := 2
  recv := 0
  record := 0x10000
  gate := 0x20000
  endObj := 9
/-- A raw tile header of 32 rows and one column block. -/
def rawTile (off len : Nat) (m : Mod) : Mod :=
  withMem (padAddr 0 off) (writeHdr { hdrFor 0x30 1 1 false 0 (off / 256) 0 0 0 with paylen := len }) m
/-- Counters 1 to 3 hold 0x10000 to 0x30000. -/
def operands (w : LviWord) : Mod :=
  withCtx { task [w, insn 0 0] with ctr := [(1, 0x10000), (2, 0x20000), (3, 0x30000)] } live

theorem witness_TokenInstructions_mcast :
    let w := insn 0xC3 0
    let s := atMod (bfTile 1 0 (loaded { aProg with mcast := [[(0, false, 1)]] } (run2 w)))
    headReady s 0 0 0xC3 none w ∧ formReady mcastForm s 0 0 w ∧ hasNext s.m 0 0 ∧ wExt w = 0 ∧ padPoison s.m 0 0 64 = false
      ∧ mcastGroup s.m 0 0 = [(0, false, 1)] ∧ (∀ v ∈ (engine s.m 0).vops, isMcast v = false) ∧ copyPlace (0, false, 1) 0 (tileExtent (headAt s.m 0 0)) = some (.pad 1 0)
      ∧ pinnedAt s.m (.pad 1 0) (tileExtent (headAt s.m 0 0)) = false := by
  unfold headReady noBreak formReady granted hasNext; decide +kernel
/-- A dispatch whose one entry names an expert that is off. -/
theorem witness_TokenInstructions_dispatch :
    let w := insn 0xC4 (2 ^ 56 + 3 * 2 ^ 52)
    let s := atMod (withMem (padAddr 0 0x10047) [0x80] (rawTile 0x10000 1024 (bfTile 1 0 (linked [anExpert 5 0] (operands w)))))
    headReady s 0 0 0xC4 (some 0) w ∧ formReady dispatchForm s 0 0 w ∧ hasNext s.m 0 0
      ∧ gridOk s.m 0 0 32 1 (dispOp s.m 0 0 w).rows = true ∧ poisonIn s.m 0 (dispRanges s.m 0 0 w).1 = none
      ∧ freeTicket s.m 0 = some 0 ∧ (anExpert 5 0).module % 2 ^ 14 ≠ moduleNum s.m ∧ route s.m 0 5 = .ok 0
      ∧ routeEntry s.m 0 (dispOp s.m 0 0 w).ce 0 0 = some (0, 0) := by
  unfold headReady noBreak formReady granted hasNext; decide +kernel
/-- A combine of one record, of a token that module 5 sent. -/
theorem witness_TokenInstructions_combine :
    let w := insn 0xC4 (2 ^ 64 + 2 ^ 56 + 2 * 2 ^ 48)
    let m := withMem (padAddr 0 0x10040) [1, 0, 5] (rawTile 0x20000 128 (rawTile 0x10000 512 (bfTile 1 0 (linked [anExpert 0 32] (operands w)))))
    let s := atMod { m with exp := [(0, { st := .complete, fill := 1 })] }
    headReady s 0 0 0xC4 (some 1) w ∧ formReady combineForm s 0 0 w ∧ hasNext s.m 0 0 ∧ combineErr s.m 0 0 w = none
      ∧ combineExpert s.m 0 0 w = some (0, anExpert 0 32) ∧ poisonIn s.m 0 (combineRanges s.m 0 0 w (anExpert 0 32)) = none
      ∧ (retPackets s.m 0 0 0 w (anExpert 0 32) 0).map (fun k => k.dst.toNat) = [5] ∧ route s.m 0 5 = .ok 0 ∧ 1 ≤ (port s.m 0).version := by
  unfold headReady noBreak formReady granted hasNext; decide +kernel
theorem witness_TokenInstructions_reopen :
    let m : Mod := { live with exp := [(0, { st := .closing, fill := 1 })] }
    (expRound m 0 0).st = .closing ∧ (expRound m 0 0).held = [] ∧ (expRound m 0 0).pinHeld = [] := by decide

/-! ## Hypotheses met: Transits, rings -/

theorem witness_Transits_accept : ∀ op ∈ [0x00, 0x02, 0x03, 0x04, 0x05, 0x06, 0x07, 0x08],
    let w := insn op (2 ^ 73)
    let s := fun (lt : W64) => onTime (withCtx { task [w, insn 0 0] with lt := lt } live)
    (∀ lt ∈ [30, 31, 100], headReady (s (BitVec.ofNat 64 lt)) 0 0 op none w ∧ wT w = true)
      ∧ isLate (s 31).clk (roundUpTick 31) = false ∧ isLate (s 100).clk (roundUpTick 100) = false
      ∧ isLate (s 30).clk (roundUpTick 30) = true := by
  unfold headReady noBreak; decide +kernel
theorem witness_Transits_phase :
    let w := insn 0xC5 (2 ^ 73)
    let s := onTime (linked [] (withCtx { task [w, insn 0 0] with lt := 100 } live))
    headReady s 0 0 0xC5 none w ∧ wT w = true ∧ (bank s.m 0).loaded = true ∧ (bank s.m 0).heldBy = []
      ∧ isLate s.clk (roundUpTick (ctx s.m 0 0).lt) = false := by
  unfold headReady noBreak; decide
theorem witness_Transits_dispatch : ∀ op ∈ [0x00, 0xC5],
    let a : Accepted := { launch := 0, word := insn op (2 ^ 73), resv := none }
    let s := onTime (withCtx { task [a.word, insn 0 0] with st := .missed .wait, accepted := some a } live)
    (ctx s.m 0 0).accepted = some a ∧ s.clk.running = true ∧ a.launch.toNat ≤ s.clk.sid.toNat ∧ lowerDue s.clk s.m 0 0 = false ∧ hasNext s.m 0 0
      ∧ ∀ y ∈ (partSt s.m 0).phaseAsk, y.1 ≠ s.clk.sid.toNat := by
  unfold hasNext; decide

/-- Ring 0 with 16 entries, a module ring of PF0 of weight 1, both queues enabled. -/
def ringed (m : Mod) : Mod := withReg 0x180010 3 (withReg 0x180008 4 (withReg 0x100010 0x1000003 (withReg 0x100008 4 m)))

theorem witness_RingsFetch_doorbells :
    let m := ringed live
    vfLive m 0 = true ∧ sqOwner m 0 = 0 ∧ sqEn m 0 = true ∧ 15 < sqSize m 0 ∧ sqSize m 0 ≤ 16 ∧ msLevel m ≤ 1 ∧ hnBusy m = false
      ∧ cqOwner m 0 = 0 ∧ cqEn m 0 = true ∧ 0 < cqSize m 0 := by decide
/-- A head of 1 on an empty CQ, in MS0 and in MS2. -/
theorem witness_RingsFetch_heads : ∀ n ∈ [0, 2],
    let m := modPwr (ringed live) fun p => { p with state := msOf n }
    vfLive m 0 = true ∧ cqOwner m 0 = 0 ∧ cqEn m 0 = true ∧ badHead m 0 1 = true ∧ msLevel m = n ∧ hnBusy m = false := by decide
/-- A NOP entry with tag 9, and one of an unknown command, wait at the head. -/
theorem witness_RingsFetch_entries : ∀ x ∈ [(0, none), (0x77, some (0x15 : Byte))],
    let m := withMem hostBase ([BitVec.ofNat 8 x.1, 0, 9, 0]) (modRing (ringed live) 0 fun r => { r with tail := 1 })
    fetches m 0 = true ∧ (ring m 0).tail < sqSize m 0 ∧ sqPick m = some 0 ∧ entryErr m 0 (entryAt m 0 (ring m 0).head) = x.2
      ∧ findCmd m 0 (fld (entryAt m 0 (ring m 0).head) 2 2) = none ∧ fld (entryAt m 0 (ring m 0).head) 1 1 % 2 = 0 := by decide +kernel

theorem witness_CompletionsWritten_entry :
    let x := cmdEntry false 9 0 0 0 5
    let m := modRing (ringed live) 0 fun r => { r with waiting := [x] }
    (ring m 0).waiting = x :: [] ∧ cqEn m 0 = true ∧ (ring m 0).cqBell = none ∧ cqFull m 0 = false ∧ m.cmds = [] := by decide
theorem witness_CompletionsWritten_bell :
    let m := modRing (ringed live) 0 fun r => { r with cqBell := some 1 }
    (ring m 0).cqBell = some 1 ∧ badHead m 0 1 = true ∧ msLevel m ≤ 1 ∧ hnBusy m = false ∧ (ring m 0).waiting = [] := by decide
theorem witness_CompletionsWritten_delay :
    let m := modRing (withReg 0x180010 (3 + 2 ^ 48) (ringed live)) 0 fun r => { r with oldest := some 0 }
    (ring m 0).oldest = some 0 ∧ regF m (rCq 0 + 0x10) 48 16 ≠ 0 ∧ 0 + 1600 * regF m (rCq 0 + 0x10) 48 16 ≤ 1000000
      ∧ sget false m.hub.masked (2048 * cqOwner m 0 + regF m (rCq 0 + 0x10) 16 11) = false := by decide +kernel
/-- The entry of an XLAT_INVALIDATE waits. -/
theorem witness_CompletionsWritten_invalidate :
    let c := { aCmd 2 (some 0) [] with st := .retired }
    let x := cmdEntry true 9 0 0 0 5
    let m := modRing (ringed (withCmd c live).m) 0 fun r => { r with waiting := [x] }
    (ring m 0).waiting = x :: [] ∧ x.own = true ∧ x.status = 0 ∧ x.tag = 9 ∧ findCmd m 0 9 = some c ∧ c.op = 0x02 ∧ c.part = some 0
      ∧ cqEn m 0 = true ∧ (ring m 0).cqBell = none ∧ cqFull m 0 = false := by decide +kernel
theorem witness_CompletionsWritten_commands : ∀ op ∈ [0x00, 0x01, 0x02],
    let c := aCmd op (some 0) []
    cmdReady (withCmd c live) 0 9 op c ∧ c.part = some 0 :=
  fun op h => ⟨waits (by revert op; decide), rfl⟩
/-- An ABORT of ring 1's tag 9, and of a command that is not there. -/
theorem witness_CompletionsWritten_abort : ∀ n ∈ [0, 1],
    let c := { aCmd 1 none (toLe 2 n ++ toLe 2 9) with tag := 10, seq := 2 }
    let d := { aCmd 0 none [] with sq := 1 }
    let s := onTime { live with cmds := [d, c] }
    cmdReady s 0 10 1 c ∧ findCmd s.m (carg c 0x10 2) (carg c 0x12 2) = (if n = 1 then some d else none) ∧ d.st = .waiting ∧ d.op ≠ 1
      ∧ sqOwner s.m (carg c 0x10 2) = c.func :=
  fun n h => ⟨waits (by revert n; decide +kernel), by revert n; decide +kernel⟩

/-! ## Hypotheses met: commands of the rings -/

/-- `mapped`, with host memory from 0 on at VA 3 GiB. -/
def mappedHost (m : Mod) : Mod := withMem 0x2018 (toLe 8 0x100000000000F) (mapped m)
def onHost (bs : List Byte) (m : Mod) : Mod := withMem hostBase bs m
def cmdState (c : Cmd) (m : Mod) : State := withCmd c (mappedHost m)

theorem witness_ProgramCommands :
    (∀ op ∈ [0x10, 0x11, 0x12, 0x13, 0x20], cmdReady (cmdState (aCmd op (some 0) []) (loaded aProg live)) 0 9 op (aCmd op (some 0) []))
    ∧ (let m := loaded aProg live
       (partSt m 0).prog = some aProg ∧ aProg.started = false ∧ aProg.taskIds.Nodup ∧ running aProg = false ∧ chainsRun m 0 = false
       ∧ (partSt live 0).prog = none ∧ ((partDies m (sqPart m 0)).any fun d => svcRuns m 1 3 d) = false
       ∧ chainRec m 0 0 = some aChain ∧ chainRunning m 0 0 = false ∧ (dmaq (engine m 0) 8).runs.length < 256) :=
  ⟨fun op h => waits (by revert op; decide +kernel), by decide +kernel⟩

/-- An image of one NOP and END stream, empty RESOURCES with one TASK, and the least signatures. -/
def image : List Byte :=
  let sect := fun (typ off len : Nat) => toLe 4 typ ++ toLe 4 0 ++ toLe 8 off ++ toLe 8 len ++ toLe 8 0
  let head := toLe 4 0x4349564C ++ [0, 2] ++ toLe 2 0 ++ toLe 4 3 ++ toLe 4 1 ++ toLe 8 (0x300 + 0xD2D) ++ toLe 8 77 ++ toLe 8 0
    ++ List.replicate 24 0 ++ sect 1 0x100 32 ++ sect 5 0x200 32 ++ sect 0xFF 0x300 0xD2D
  let text := toLe 16 0 ++ toLe 16 (2 ^ 120)
  let res := toLe 2 1 ++ toLe 2 32 ++ toLe 2 0 ++ [0, 0, 0] ++ toLe 3 0 ++ (List.replicate 8 [(0 : Byte), 1]).flatten ++ toLe 4 0
  slice head 0 0x100 ++ slice text 0 0x100 ++ slice res 0 0x100 ++ List.replicate 0xD2D 0

/-- The bytes of the image that are not 0, in host memory. -/
def imaged (m : Mod) : Mod :=
  { m with mem := { m.mem with cells := (image.zipIdx.filter fun x => x.1 != 0).map fun x => (hostBase + x.2, x.1) } }
/-- PROGRAM_LOAD of the image at VA 3 GiB, with one enrolled PROGRAM pair. -/
def loadCmd : Cmd := aCmd 0x10 (some 0) (toLe 8 0xC0000000 ++ toLe 8 4141)
def enrolled : Mod := mappedHost (imaged (modPart live 0 fun p => { p with enrolled := [(false, [1])] }))
def loadState : State := withCmd loadCmd enrolled

set_option maxRecDepth 100000 in
theorem witness_ProgramCommands_read : cmdReady loadState 0 9 0x10 loadCmd ∧ (partSt loadState.m 0).prog = none
    ∧ ((partDies loadState.m (sqPart loadState.m 0)).any fun d => svcRuns loadState.m 1 3 d) = false
    ∧ (∃ m1 x, readMem loadState.clk (markStarted loadCmd loadState.m) (cmdReq loadCmd) (carg loadCmd 0x10 8) (carg loadCmd 0x18 8) .clean = (m1, .ok x))
    ∧ (∃ m2 x, readMem loadState.clk loadState.m (cmdReq loadCmd) (carg loadCmd 0x20 8) (4 * carg loadCmd 0x28 4) .clean = (m2, .ok x)) :=
  ⟨waits (by decide +kernel), by decide +kernel, by decide +kernel, ok_of (by decide +kernel), ok_of (by decide +kernel)⟩

/-- The image is accepted where its signatures are those of the enrolled pair and its native code fits. -/
theorem witness_ProgramCommands_load (he : ∀ k m s, Config.edVerify k m s = true) (hm : ∀ k m s, Config.mlVerify k m s = true)
    (hn : Config.nativeBytes 2 = 0) : ∃ l, checkLoad enrolled 0 4141 0 image [] = .ok l := by
  have hs : sigSect image 4141 = some (2, ⟨0xFF, 0x300, 0xD2D⟩) := by decide +kernel
  have hk : keysOf enrolled 0 false = [[1]] := by decide +kernel
  have hg : sigErr (keysOf enrolled 0 false) image 2 ⟨0xFF, 0x300, 0xD2D⟩ = none := by
    rw [hk]; simp [sigErr, he, hm, nonZero]
  have hh : headerErr image 4141 (partDies enrolled 0).length = none := by decide +kernel
  have ht : tableErr image = none := by decide +kernel
  have hb : sections image = [⟨1, 0x100, 32⟩, ⟨5, 0x200, 32⟩, ⟨0xFF, 0x300, 0xD2D⟩] := by decide +kernel
  have hd : (partDies enrolled 0).take (fld image 0xC 4) = [0] := by decide +kernel
  have hl : loadBytes { b := image, ss := [⟨1, 0x100, 32⟩, ⟨5, 0x200, 32⟩, ⟨0xFF, 0x300, 0xD2D⟩], rs := 1, dies := [0], nTasks := 1, quotaMax := 0 } = 0 := by
    simp [loadBytes, hn]
  have ok : ∀ (x : Except LErr Loaded), x.toOption.isSome = true → ∃ l, x = .ok l := by
    rintro (e | l) h
    · simp [Except.toOption] at h
    · exact ⟨l, rfl⟩
  have hq : ∀ v : LEnv, v = { b := image, ss := [⟨1, 0x100, 32⟩, ⟨5, 0x200, 32⟩, ⟨0xFF, 0x300, 0xD2D⟩], rs := 1, dies := [0], nTasks := 1, quotaMax := 0 } →
      decide (loadBytes v > hbmAssigned enrolled 0) = false := by
    rintro v rfl; rw [hl]; rfl
  have hf : ([⟨1, 0x100, 32⟩, ⟨5, 0x200, 32⟩, ⟨0xFF, 0x300, 0xD2D⟩] : List Sect).findIdx? (fun s => s.typ == 5) = some 1 := by decide
  have hc : taskCount (sectBytes image ⟨5, 0x200, 32⟩) = 1 := by decide +kernel
  have hx : keepTotal enrolled 0 = 0 := by decide +kernel
  apply ok
  unfold checkLoad
  simp only [hs, hg, hh, ht, hb, hd, hf, Option.getD, List.getElem?_cons_succ, List.getElem?_cons_zero, hc, hx]
  simp only [hq _ rfl]
  decide +kernel

/-! ## Hypotheses met: layouts and phase maps -/

theorem slice_zeros (a b : List Byte) (n o k : Nat) (h : a.length ≤ o) (h2 : o + k ≤ a.length + n) :
    slice (a ++ (List.replicate n 0 ++ b)) o k = List.replicate k 0 := by
  obtain ⟨i, rfl⟩ : ∃ i, o = a.length + i := ⟨o - a.length, by omega⟩
  have hn : n = i + (k + (n - i - k)) := by omega
  rw [hn, List.replicate_add, List.replicate_add]
  simp [slice, List.drop_append, List.take_append]

theorem leNat_zeros (k : Nat) : leNat (List.replicate k 0) = 0 := by
  induction k with
  | zero => rfl
  | succ k h => simpa [List.replicate_succ, leNat] using h

theorem fld_zeros (a b : List Byte) (n o k : Nat) (h : a.length ≤ o) (h2 : o + k ≤ a.length + n) :
    fld (a ++ (List.replicate n 0 ++ b)) o k = 0 := by rw [fld, slice_zeros a b n o k h h2, leNat_zeros]
/-- A layout image at VA 3 GiB whose one bucket belongs to no partition. -/
def layoutCmd : Cmd := aCmd 0x30 (some 0) (toLe 8 0xC0000000)
def layoutState : State := cmdState layoutCmd (onHost [0, 0, 0, 0, 1] (withMem (hostBase + 0x900) [0xFF] live))
/-- The image as bytes. -/
def layoutImage : List Byte := [0, 0, 0, 0, 1] ++ List.replicate 0x8FB 0 ++ 0xFF :: List.replicate 63 0

theorem layoutImage_fld (o k : Nat) (h : 5 ≤ o) (h2 : o + k ≤ 0x900) : fld layoutImage o k = 0 :=
  fld_zeros [0, 0, 0, 0, 1] _ 0x8FB o k (by simpa using h) (by simpa using h2)
theorem layoutImage_slice (o k : Nat) (h : 5 ≤ o) (h2 : o + k ≤ 0x900) : slice layoutImage o k = List.replicate k 0 :=
  slice_zeros [0, 0, 0, 0, 1] _ 0x8FB o k (by simpa using h) (by simpa using h2)
theorem layoutImage_ok (m : Mod) (k : Nat) (hp : m.xch.pending = none) (hc : m.xch.current = none) :
    layoutBad m layoutImage (readLayout k layoutImage) = false := by
  have hn : (List.range 64).any (fun i => normBad layoutImage (0x100 + 32 * i)) = false := by
    simp only [List.any_eq_false, List.mem_range]
    intro i hi
    simp (disch := omega) [normBad, readNorm, layoutImage_fld, layoutImage_slice, allZero, bit]
  have hs : (readLayout k layoutImage).shards = [none] := by simp only [readLayout]; decide +kernel
  have h8 : allZero (slice layoutImage 8 248) = true := by rw [layoutImage_slice 8 248 (by omega) (by omega)]; decide +kernel
  have h2 : fld layoutImage 2 2 = 0 := by decide
  have hr : shardResv layoutImage 2304 = false := by decide +kernel
  simp [layoutBad, hp, hc, hn, hs, h8, h2, hr]

set_option maxRecDepth 100000 in
theorem witness_ImageCommands_layout : cmdReady layoutState 0 9 0x30 layoutCmd ∧ fld layoutImage 4 4 = 1
    ∧ layoutBad layoutState.m layoutImage (readLayout (cpart layoutCmd) layoutImage) = false
    ∧ (∃ m1 x, readMem layoutState.clk (markStarted layoutCmd layoutState.m) (cmdReq layoutCmd) (carg layoutCmd 0x10 8) 0x900 .clean = (m1, .ok x))
    ∧ (∃ m1 x, readMem layoutState.clk layoutState.m (cmdReq layoutCmd) (carg layoutCmd 0x10 8 + 0x900) 64 .clean = (m1, .ok x)) :=
  ⟨waits (by decide +kernel), by decide, layoutImage_ok _ _ (by decide +kernel) (by decide +kernel), ok_of (by decide +kernel), ok_of (by decide +kernel)⟩
theorem witness_ImageCommands_advance :
    let c := aCmd 0x31 (some 0) []
    let s := withCmd c (modXch live fun x => { x with pending := some (aLayout 1), current := some (aLayout 0) })
    cmdReady s 0 9 0x31 c ∧ s.m.xch.future = [] := ⟨waits (by decide), by decide⟩

/-- A phase map of format 1, rows of 32 elements, all routes to port 0, no experts. -/
def phaseImage : List Byte := [1, 0, 32] ++ (List.replicate 16637 0 ++ [])
theorem phaseImage_ok : phaseBad phaseImage = false := by
  have hf : ∀ o k, 3 ≤ o → o + k ≤ 16640 → fld phaseImage o k = 0 := fun o k h h2 =>
    fld_zeros [1, 0, 32] [] 16637 o k (by simpa using h) (by simpa using h2)
  have hs : slice phaseImage 6 250 = List.replicate 250 0 := slice_zeros [1, 0, 32] [] 16637 6 250 (by simp) (by simp)
  have ha : (List.range 16384).any (fun i => decide (fld phaseImage (0x100 + i) 1 > 17) && fld phaseImage (0x100 + i) 1 != 0x1F) = false := by
    simp only [List.any_eq_false, List.mem_range]
    intro i hi
    simp [hf (0x100 + i) 1 (by omega) (by omega)]
  have h0 : fld phaseImage 0 1 = 1 := by decide +kernel
  have h1 : fld phaseImage 1 1 = 0 := by decide +kernel
  have h2 : fld phaseImage 2 2 = 32 := by decide +kernel
  have h4 : fld phaseImage 4 2 = 0 := hf 4 2 (by omega) (by omega)
  unfold phaseBad
  simp only [h0, h1, h2, h4, hs, ha]
  decide +kernel

/-- PHASE_LOAD of a bank nothing uses, with and without a packet of it under way. -/
def phaseCmd : Cmd := aCmd 0x32 (some 0) (toLe 8 1 ++ toLe 8 0xC0000000)
set_option maxRecDepth 100000 in
theorem witness_ImageCommands_phase :
    let s := cmdState phaseCmd (onHost [1, 0, 32] live)
    cmdReady s 0 9 0x32 phaseCmd ∧ bankNamed s.m (carg phaseCmd 0x10 1) = false ∧ phaseHeld s.m (carg phaseCmd 0x10 1) = false
      ∧ bankCount s.m (carg phaseCmd 0x10 1) = 0
      ∧ (∃ m1 x, readMem s.clk (modBank (markStarted phaseCmd s.m) 1 fun x => { x with heldBy := x.heldBy.filter (· != (0, 9)) }) (cmdReq phaseCmd) (carg phaseCmd 0x18 8) 0x4100 .clean
          = (m1, .ok x))
      ∧ (∃ m1 x, readMem s.clk s.m (cmdReq phaseCmd) (carg phaseCmd 0x18 8 + 0x4100) 0 .clean = (m1, .ok x)) :=
  ⟨waits (by decide +kernel), by
    iterate 3 (apply And.intro; decide +kernel)
    exact ⟨ok_of (by decide +kernel), ok_of (by decide +kernel)⟩⟩
theorem witness_ImageCommands_held :
    let m : Mod := { live with exp := [(0, { st := .closing, combine := some (0, 0, 0, 1) })] }
    let s := cmdState phaseCmd m
    cmdReady s 0 9 0x32 phaseCmd ∧ bankNamed s.m 1 = false ∧ phaseHeld s.m 1 = false ∧ bankCount s.m 1 ≠ 0 :=
  ⟨waits (by decide +kernel), by decide +kernel⟩
theorem witness_ImageCommands_release :
    let c := { phaseCmd with st := .started }
    let s := cmdState c { live with banks := [(1, { heldBy := [(0, 9), (1, 4)] })] }
    (bank s.m 1).heldBy = (0, 9) :: [(1, 4)] ∧ findCmd s.m 0 9 = some c ∧ c.st = .started ∧ c.fault = none ∧ c.fallback = false
      ∧ bankCount s.m 1 = 0 := by decide +kernel

/-! ## Hypotheses met: debug, gathers, SCRUB -/

/-- A live unlock of every partition. -/
def freed (m : Mod) : Mod := { m with sec := { m.sec with unlocks := [{ part := none, ends := 10 ^ 12, func := 0 }] } }

theorem witness_DebugCommands_locked : ∀ op ∈ [0x40, 0x41, 0x42, 0x43, 0x44],
    let c := aCmd op (some 0) []
    let s := withCmd c live
    cmdReady s 0 9 op c ∧ unlocked s.clk s.m (cpart c) = false :=
  fun op h => ⟨waits (by revert op; decide), by revert op; decide⟩
/-- BREAK and HALT at engine 5. -/
theorem witness_DebugCommands_arm : ∀ op ∈ [0x41, 0x43],
    let c := aCmd op (some 0) [0, 5]
    let s := withCmd c (freed live)
    cmdReady s 0 9 op c ∧ unlocked s.clk s.m (cpart c) = true ∧ carg c 0x10 1 ≠ 1 ∧ carg c 0x11 1 ≠ 0xFF ∧ (engine s.m (carg c 0x11 1)).breaks.length < 8
      ∧ (engine s.m (carg c 0x11 1)).halt = .running ∧ (∀ b ∈ allBrks s.m, brkDone s.m b = false)
      ∧ (∀ d ∈ s.m.cmds, d.op ≠ 0x43 ∨ (d.sq = 0 ∧ d.tag = 9)) :=
  fun op h => ⟨waits (by revert op; decide), by revert op; decide⟩
theorem witness_DebugCommands_clear :
    let d := { aCmd 0x41 (some 0) [] with tag := 3, st := .started }
    let b := newBrk d
    let c := aCmd 0x42 (some 0) (toLe 2 0 ++ toLe 2 3)
    let s := onTime { withEng { breaks := [b] } (freed live) with cmds := [d, c] }
    cmdReady s 0 9 0x42 c ∧ unlocked s.clk s.m (cpart c) = true
      ∧ ((allBrks s.m).find? fun b => b.sq == carg c 0x10 2 && b.tag == carg c 0x12 2) = some b ∧ b.hit = none
      ∧ findCmd s.m b.sq b.tag = some d ∧ d.part = c.part ∧ ¬ (d.sq = c.sq ∧ d.tag = c.tag) := ⟨waits (by decide), by decide⟩
theorem witness_DebugCommands_halted : ∀ op ∈ [0x40, 0x44],
    let c := aCmd op (some 0) (toLe 8 0 ++ toLe 8 0xC0000000)
    let s := cmdState c (freed (withEng { halt := .halted } live))
    cmdReady s 0 9 op c ∧ unlocked s.clk s.m (cpart c) = true ∧ (engine s.m (carg c 0x10 1)).halt = .halted ∧ (engine s.m (carg c 0x11 1)).halt = .halted
      ∧ carg c 0x11 1 ≠ 0xFF
      ∧ ∃ m1, writeMem s.clk (markStarted c s.m) (cmdReq c) (carg c 0x18 8) (dumpSlot s.m (carg c 0x10 1) (carg c 0x11 1) (carg c 0x12 1)) false .clean
          = (m1, none) :=
  fun op h => ⟨waits (by revert op; decide +kernel), by
    iterate 4 (apply And.intro; revert op; decide +kernel)
    exact none_of (by revert op; decide +kernel)⟩
theorem witness_DebugCommands_quiet :
    let m := withEng { halt := .halting } live
    (engine m 0).halt = .halting ∧ haltQuiet m 0 = true ∧ allBrks m = [] := by decide

/-- A run record of zeros: no streams, no region. -/
theorem witness_GatherRuns_start :
    let c := aCmd 0x21 (some 0) (toLe 8 0 ++ toLe 8 0xC0000000)
    let s := cmdState c live
    cmdReady s 0 9 0x21 c ∧ (gatherOf s.m (carg c 0x10 1)).busy = false ∧ (svcRuns s.m 1 6 (carg c 0x10 1) && opensRegion s.clk s.m c) = false
      ∧ ∃ m1 b x, readMem s.clk (markStarted c s.m) (cmdReq c) (carg c 0x18 8) 320 .clean = (m1, .ok (b, x)) ∧ recordBad b = false ∧ fld b 0 8 = 0 := by
  refine ⟨waits (by decide +kernel), by decide +kernel, by decide, ?_⟩
  have h : ∀ r : Mod × Except XErr (List Byte × Bool),
      (match r.2 with | .ok (b, _) => !recordBad b && fld b 0 8 == 0 | _ => false) = true →
      ∃ m1 b x, r = (m1, .ok (b, x)) ∧ recordBad b = false ∧ fld b 0 8 = 0 := by
    rintro ⟨m1, e | ⟨b, x⟩⟩ h
    · simp at h
    · exact ⟨m1, b, x, rfl, by simpa using h⟩
  exact h _ (by decide +kernel)
theorem witness_GatherRuns_end :
    let c := { aCmd 0x21 (some 0) (toLe 8 0 ++ toLe 8 0xC0000000 ++ toLe 8 0xC0000000) with st := .started }
    let s := cmdState c { live with gather := [(0, { busy := true, sq := 0, tag := 9, record := List.replicate 320 0 })] }
    let g := gatherOf s.m 0
    g.busy = true ∧ findCmd s.m g.sq g.tag = some c ∧ c.st = .started ∧ c.fault = none ∧ c.fallback = false ∧ g.region = none ∧ g.stop = none
      ∧ (∀ i < 4, (readStream g.record i).kind = 0)
      ∧ ∃ m1, writeMem s.clk (modGather s.m 0 fun _ => {}) (cmdReq c) (carg c 0x20 8) (gatherResult g) false .clean = (m1, none) :=
  by iterate 8 (apply And.intro; decide +kernel)
     exact none_of (by decide +kernel)

theorem witness_ScrubPhases_start :
    let c := aCmd 0x50 none [0]
    let s := withCmd c live
    cmdReady s 0 9 0x50 c ∧ scrubErr s.m (carg c 0x10 1) = none ∧ c.part = none ∧ carg c 0x10 1 < 8 := ⟨waits (by decide), by decide⟩
def scrubbing (ph : ScrubPh) (going : List Nat) : Mod :=
  modPart live 0 fun p => { p with scrub := some { sq := 0, tag := 9, phase := ph, going := going, failed := false, flog := 0 } }
theorem witness_ScrubPhases_quiet :
    let m := scrubbing .quiesce []
    (∃ x, (partSt m 0).scrub = some x ∧ x.phase = .quiesce) ∧ m.pwr.tripped = false ∧ partQuiet m 0 = true := ⟨⟨_, rfl, rfl⟩, by decide⟩
theorem witness_ScrubPhases_streams :
    let m := scrubbing .streams []
    (∃ x, (partSt m 0).scrub = some x ∧ x.phase = .streams) ∧ m.pwr.tripped = false
      ∧ (∀ y ∈ partSlots m 0, isOpen (strm m y.1 y.2).st = false) := ⟨⟨_, rfl, rfl⟩, by decide⟩
theorem witness_ScrubPhases_end :
    let m := scrubbing .overwrite []
    (∃ x, (partSt m 0).scrub = some x ∧ x.phase = .overwrite ∧ x.going = []) ∧ m.pwr.tripped = false := ⟨⟨_, rfl, rfl, rfl⟩, by decide⟩
theorem witness_ScrubPhases_unit :
    let m := modGov (scrubbing .overwrite [16]) (unitGov 16) fun g => { g with grants := [(scrubId 0 16, 1)] }
    overwriting m 16 = some 0 ∧ ∃ x, (partSt m 0).scrub = some x := ⟨by decide, _, rfl⟩

/-! ## Hypotheses met: registers, BAR4, servicing -/

theorem witness_EnablesChecked_module : writable live 0 rHubModuleCtrl = true ∧ moduleEn live = false ∧ moduleErr live = none
    ∧ moduleErr { live with hub := { live.hub with idSet := false } } = some 0x40 := by decide
theorem witness_EnablesChecked_disable :
    let m := withReg 0x10 1 (withReg 0x200000 0 live)
    writable m 0 rHubModuleCtrl = true ∧ (∀ k < 8, partEn m k = false) ∧ partEn live 0 = true := by decide
/-- Partition 0, disabled, with all its fields stored, in an enabled module; and one whose mask is not its own. -/
theorem witness_EnablesChecked_part : ∀ x ∈ [(0x10101, none), (0x10201, some (0x20 : Byte))],
    let m := withReg 0x10 1 (withReg 0x200000 0 (mapped live))
    let m1 := storeFields 0 (rPart 0) x.1 m
    writable m 0 (rPart 0) = true ∧ (partSt m 0).scrub = none ∧ partEn m 0 = false ∧ bit x.1 0 = true ∧ partErr m1 0 = x.2 := by decide +kernel
/-- A submission ring with its completion ring on, and off; a completion ring of 16 entries, and of 8. -/
theorem witness_EnablesChecked_rings : ∀ x ∈ [(3, 4, none, none), (2, 3, some (0x11 : Byte), some (0x10 : Byte))],
    let m := withReg 0x100008 4 (withReg 0x180008 (BitVec.ofNat 64 x.2.1) (withReg 0x180010 (BitVec.ofNat 64 x.1) live))
    let m0 := withReg 0x180008 (BitVec.ofNat 64 x.2.1) live
    writable m 0 (rSq 0 + 0x10) = true ∧ sqEn m 0 = false ∧ sqErr (storeReg 0 (rSq 0 + 0x10) 3 m) 0 = x.2.2.1
      ∧ writable m0 0 (rCq 0 + 0x10) = true ∧ cqEn m0 0 = false ∧ cqErr (storeReg 0 (rCq 0 + 0x10) 3 m0) 0 = x.2.2.2 := by decide +kernel

theorem witness_RegistersWritten : (∀ off ∈ [0x30, 0x68, 0x70, 0x300020, 0x300028, 0x400100, 0x600058], writable live 0 off = true)
    ∧ hnUp live = true ∧ hnBusy live = false ∧ vfLive live 0 = true ∧ ¬ ((8 = 4 ∨ 8 = 8) ∧ 0x34 % 8 = 0)
    ∧ live.hub.input = true ∧ live.hub.perst = false ∧ live.hub.booted = true := by decide
/-- The boot ROM still runs: the input is present and PERST# high. -/
theorem witness_RegistersWritten_booting : let m := { live with hub := { live.hub with booted := false, bootAt := 4 } }
    m.hub.input = true ∧ m.hub.perst = false ∧ m.hub.booted = false := by decide

theorem bar4Base_zero {m : Mod} (h : regF m rHubBar4Base 30 19 = 0) : bar4Base m 0 = 0 := by simp [bar4Base, h]
theorem bar4Bytes_pos : 256 ≤ bar4Bytes 0 := by
  have : 2 ^ 30 ≤ bar4Bytes 0 := by unfold bar4Bytes; exact Nat.pow_le_pow_right (by decide) (by omega)
  omega
/-- BAR4 at physical address 0: served in MS0, refused in MS2. -/
theorem witness_Bar4Serves : hnUp live = true ∧ vfLive live 0 = true ∧ 0 + 8 ≤ bar4Bytes 0 ∧ bar4Base live 0 + 0 = 0 ∧ bar4Err live 0 0 8 = none
    ∧ (∃ m1 x, readMem clkReset live (reqOf live (.host 0)) 0 8 .clean = (m1, .ok x)) ∧ writeHeld live (reqOf live (.host 0)) 0 8 = false
    ∧ (∃ p b, spanCheck live (reqOf live (.host 0)) true 0 = .ok (p, b) ∧ (∀ i o, p ≠ .sync i o))
    ∧ (∃ m1, writeMem clkReset live (reqOf live (.host 0)) 0 (toLe 8 5) false .clean = (m1, none))
    ∧ hnUp { live with pwr := { live.pwr with state := .ms2 } } = true ∧ bar4Err { live with pwr := { live.pwr with state := .ms2 } } 0 0 8 = some 0x37 :=
  ⟨by decide, by decide, by have := bar4Bytes_pos; omega, by rw [bar4Base_zero (by decide)], by decide, ok_of (by decide +kernel), by decide +kernel,
    ⟨_, _, rfl, by intro i o h; cases h⟩, none_of (by decide +kernel), by decide, by decide⟩

theorem witness_ServiceRuns_firmware : live.hub.fwBusy = false ∧ writable live 0 0x78 = true ∧ live.hub.recovery = false
    ∧ bits 1 0 4 = 1 ∧ bits 2 0 4 = 2 ∧ bits 1 8 3 ≤ 5 := by decide
/-- FW_ACTIVATE of compute die 0, RECAL of controller 0, REG_SET of rail 16 and RETRAIN of port 0 start; an index past the units is refused. -/
theorem witness_ServiceRuns_start : ∀ x ∈ [(1, 3, 0), (3, 9, 0), (4, 10, 16), (2, 7, 0)],
    let v := x.1 + x.2.1 * 2 ^ 8 + x.2.2 * 2 ^ 16
    let s := onTime (withReg rHubServiceCfg 1 live)
    writable s.m 0 (0x100 + 0x10 * 0) = true ∧ (readSvc v).op = x.1 ∧ opFits (readSvc v).op (readSvc v).kind = true ∧ (svcOf s.m 0).busy = false
      ∧ svcErr s.clk s.m (readSvc v) = none ∧ svcErr s.clk s.m (readSvc (v + 0x1000000)) = some 0x32 := by decide +kernel
theorem witness_ServiceRuns_codes : reasonOk 0 = true ∧ reasonOk 0x41 = true ∧ reasonOk 0x8D = true ∧ reasonOk 0x01 = false ∧ reasonOk 0x8E = false := by
  decide
theorem witness_ServiceRuns_end :
    let m := { live with hub := { live.hub with svc := [(0, { busy := true, op := 1, kind := 1 })], fw := [(0, { staged := true, okB := true })] } }
    let x := svcOf m 0
    let k := fwKind m (x.kind - 1)
    x.busy = true ∧ x.op = 1 ∧ k.staged = true ∧ bankOk k (!k.activeB) = true ∧ unitCount x.kind ≤ ((x.index :: k.moved).dedup).length := by decide
theorem witness_ServiceRuns_ageing :
    let m := withReg rHubServiceCfg 2 live
    writable m 0 rHubServiceCfg = true ∧ ageEn m = true ∧ ageEn (storeFields 0 rHubServiceCfg 0 m) = false := by decide

/-! ## Hypotheses met: power, resets, time -/

/-- The rails and the power floors stored, so that no fused value is read. -/
def railed (m : Mod) : Mod := { withReg rPwrLimit 5000 m with
  bar0 := (withReg rPwrLimit 5000 m).bar0 ++ (List.range 64).map fun i => (0x300200 + 8 * i, (0 : W64))
  pwr := { m.pwr with floors := (List.range 5).map fun i => (i, 100) } }
/-- POWER_CMD of a scope, unit and target. -/
def powerWord (scope unit target : Nat) : Nat := 1 + 4 * scope + 2 ^ 8 * unit + 2 ^ 16 * target

/-- A unit, target or limit that is not there is refused. -/
theorem witness_PowerWalks_refused : ∀ x ∈ [(0, 0, 7, 0x32), (1, 31, 0, 0x32), (2, 31, 0, 0x32), (3, 0, 0, (0x33 : Byte))],
    let m := withReg rPwrLimit 6000 live
    let v := powerWord x.1 x.2.1 x.2.2.1
    writable m 0 rPwrCmd = true ∧ m.hub.recovery = false ∧ bit v 0 = true ∧ regB m rPwrCmd 0 = false ∧ m.pwr.tripped = false
      ∧ (readPower v).scope = x.1 ∧ powerErr (storeFields 0 rPwrCmd v m) (readPower v) false = some x.2.2.2 := by decide +kernel
/-- A walk down of each scope, one that stays, and new limits, where the fused rails reach down to 0. -/
theorem witness_PowerWalks_starts (h : ∀ d, Config.vMinFused d = 0) : ∀ x ∈ [(0, 0, 1), (0, 0, 0), (1, 15, 1), (1, 15, 0), (2, 0, 1), (2, 0, 0), (3, 0, 0)],
    let m := railed live
    let v := powerWord x.1 x.2.1 x.2.2
    writable m 0 rPwrCmd = true ∧ m.hub.recovery = false ∧ bit v 0 = true ∧ regB m rPwrCmd 0 = false ∧ m.pwr.tripped = false
      ∧ (readPower v).scope = x.1 ∧ powerErr (storeFields 0 rPwrCmd v m) (readPower v) false = none
      ∧ walkAt m { scope := (readPower v).scope, unit := (readPower v).unit, target := (readPower v).target } = 0 := by
  have hr : ∀ v ∈ [powerWord 0 0 1, powerWord 0 0 0, powerWord 1 15 1, powerWord 1 15 0, powerWord 2 0 1, powerWord 2 0 0, powerWord 3 0 0],
      ∀ d < 32, regF (storeFields 0 rPwrCmd v (railed live)) (rPwrVmin d) 0 10 = 0 ∧ regF (storeFields 0 rPwrCmd v (railed live)) (rPwrVmax d) 0 10 = 0 := by
    decide +kernel
  have hb : ∀ v ∈ [powerWord 0 0 1, powerWord 0 0 0, powerWord 1 15 1, powerWord 1 15 0, powerWord 2 0 1, powerWord 2 0 0, powerWord 3 0 0],
      railsBad (storeFields 0 rPwrCmd v (railed live)) = false := by
    intro v hv
    simp only [railsBad, List.any_eq_false, List.mem_range]
    intro d hd
    obtain ⟨a, b⟩ := hr v hv d hd
    simp [a, b, h]
  have hx : ∀ x ∈ [(0, 0, 1), (0, 0, 0), (1, 15, 1), (1, 15, 0), (2, 0, 1), (2, 0, 0), (3, 0, 0)],
      powerWord x.1 x.2.1 x.2.2 ∈ [powerWord 0 0 1, powerWord 0 0 0, powerWord 1 15 1, powerWord 1 15 0, powerWord 2 0 1, powerWord 2 0 0, powerWord 3 0 0] := by decide
  have ha : ∀ x ∈ [(0, 0, 1), (0, 0, 0), (1, 15, 1), (1, 15, 0), (2, 0, 1), (2, 0, 0), (3, 0, 0)],
      let m := railed live
      let v := powerWord x.1 x.2.1 x.2.2
      let m1 := storeFields 0 rPwrCmd v m
      let y := readPower v
      (writable m 0 rPwrCmd = true ∧ m.hub.recovery = false ∧ bit v 0 = true ∧ regB m rPwrCmd 0 = false ∧ m.pwr.tripped = false ∧ y.scope = x.1)
        ∧ m1.pwr.tripped = false ∧ powerMissing m1 y = false ∧ powerOver m1 y = false ∧ powerBlocked m1 y = false
        ∧ walkAt m { scope := y.scope, unit := y.unit, target := y.target } = 0 := by decide +kernel
  intro x hm
  obtain ⟨⟨a1, a2, a3, a4, a5, a6⟩, b, c, d, e, f⟩ := ha x hm
  exact ⟨a1, a2, a3, a4, a5, a6, by simp [powerErr, b, c, d, e, hb _ (hx x hm)], f⟩
/-- A step down of each scope, and one up from MS3 that may fail. -/
theorem witness_PowerWalks_step : ∀ x ∈ [(0, .ms0, 1, false), (1, .ms0, 1, false), (2, .ms0, 1, false), (0, .ms3, 0, true)],
    let w : Walk := { scope := x.1, unit := 0, target := x.2.2.1 }
    let m := modPwr live fun p => { p with state := x.2.1, walk := some w }
    m.pwr.walk = some w ∧ walkAt m w ≠ w.target ∧ stepFails m w = x.2.2.2 ∧ w.target ≤ 4 ∧ (x.2.2.2 = false → (stepOf m w).target = w.target) := by decide

theorem witness_ModuleResets : writable live 0 0x20 = true ∧ live.hub.perst = false ∧ live.hub.input = true
    ∧ ({ live.hub with input := false } : Hub).input = false ∧ ({ live.hub with perst := true } : Hub).perst = true := by decide
theorem witness_ProtectiveTrips : (onTime live).m.pwr.tripped = false ∧ (onTime live).m.hub.input = true ∧ (onTime live).clk.running = true
    ∧ 33999 < 34000 ∧ 46000 < 46001 ∧ 5400 < 5401 ∧ 880 ≤ 880 ∧ 840 ≤ 840 ∧ (modPwr live fun p => { p with tripped := true }).pwr.tripped = true := by decide

theorem witness_ModuleMeasures_emergency : targetOf 0 - 11 < targetOf 0 - 10 ∧ ¬ targetOf 0 < targetOf 0 - 10 := by
  omega
theorem witness_ModuleMeasures :
    let s := onTime live
    s.m.hub.input = true ∧ 800 ≤ 800 ∧ (0 : Nat) ∉ s.m.pwr.hot ∧ diePowered s.clk s.m 0 = true ∧ dieState s.m 0 ≠ 3
      ∧ sget 8 s.m.pwr.refMax 0 < 9 ∧ 8 ≤ sget 8 s.m.pwr.refMax 0 := by decide
theorem witness_ModuleMeasures_idle :
    let m := modGov { live with media := [(0, { coreLeave := [(0, 5)] })] } 16 fun g => { g with grants := [(5, 1)] }
    let id := sget 0 (mdie m 0).coreLeave 0
    id ≠ 0 ∧ hasGrant m (16 + 0) id = true ∧ sget 0 (mdie m 0).coreSince 0 + 1600000 ≤ 1600000 := by decide

theorem witness_SteeringRate : ∀ x ∈ [(3, 995904, true), (-3, 995904, true), (3, 995905, false)],
    let c := { (onTime live).clk with steer := x.1, lastStep := some x.2.1 }
    c.incr = 2 ∧ c.running = true ∧ c.load = none ∧ (decide (x.2.1 + 4096 ≤ c.now) = x.2.2) := by decide
/-- No step ever made, none left, and steps towards the 10 MHz input left either way. -/
theorem witness_SteeringRate_reference : ∀ n ∈ [(-3 : Int), 0, 3],
    let s := { onTime live with clk := { (onTime live).clk with steerRef := n } }
    s.clk.running = true ∧ s.clk.load = none ∧ s.clk.lastStep = none ∧ s.clk.steer = 0 ∧ s.clk.steerRef = n ∧ s.pending = [] := by decide

theorem witness_TimeCommands :
    let s := onTime live
    let m1 := withReg rTimeCtrl 1 live
    writable s.m 0 0x400008 = true ∧ s.clk.running = true ∧ syncEn s.m = false ∧ transitPending s.m = false ∧ writable s.m 0 rTimeCtrl = true
      ∧ writable m1 0 rTimeCtrl = true ∧ syncEn m1 = true ∧ timeRoot m1 = false ∧ s.clk.lastMeas + 65536 ≤ s.clk.now ∧ s.clk.meas = none
      ∧ (port { m1 with links := [(0, { st := .up, version := 2 })] } (upstream { m1 with links := [(0, { st := .up, version := 2 })] })).st = .up
      ∧ hnUp s.m = true ∧ hnBusy s.m = false ∧ s.clk.sid.toNat % second = 0 ∧ s.clk.ppsSent = false := by decide
theorem witness_TimeCommands_root :
    rootWith (withReg rTimeCtrl 7 live) 2 = true ∧ rootWith (withReg rTimeCtrl 11 live) 3 = true ∧ (onTime live).clk.running = true := by decide
/-- Neither input has been valid for 2 seconds; the 10 MHz input with no base yet, and with one; LOCKED and HOLDOVER. -/
theorem witness_TimeCommands_inputs : ∀ st ∈ [SyncState.locked, .holdover],
    let c := { (onTime live).clk with now := 2 * second, sync := st }
    c.running = true ∧ c.refLast + 2 * second ≤ c.now ∧ c.ppsLast + 2 * second ≤ c.now ∧ c.ref10m = none
      ∧ ({ c with ref10m := some (4, 7) } : Clk).ref10m = some (4, 7) := by decide

/-! ## Hypotheses met: links -/

/-- Port 0 with a state of its own. -/
def withPort (l : LPort) (m : Mod) : Mod := { m with links := [(0, l)] }
def upPort : LPort := { st := .up, version := 2, rate := 1, width := 1, peer := [1] }
def goodPeer : PeerKey := { device := [1], isSwitch := false, certOk := true, edOk := true, mlOk := true }

theorem witness_PortStates_enable :
    let m := withReg (rLport 0) 1 live
    writable live 0 (rLport 0) = true ∧ portEn live 0 = false ∧ lportErr live 0 = none
      ∧ lportErr { live with hub := { live.hub with idSet := false } } 0 = some 0x40
      ∧ lportErr (modPwr live fun p => { p with portCmd := [(0, 2)] }) 0 = some 0x37 ∧ writable m 0 (rLport 0) = true ∧ portEn m 0 = true := by decide
/-- Every mode common, and none. -/
theorem witness_PortStates_training : ∀ x ∈ [(7, 1, some (0, 0, 0)), (4, 2, some (2, 0, 1)), (0, 1, none)],
    let m := withPort { st := .training } (withReg (rLport 0) 0x3771 live)
    (port m 0).st = .training ∧ linkBusy m 0 = false
      ∧ bestMode 0 (ourRates m 0 &&& x.1) (ourWidths m 0 &&& 7) (ourFec m 0 &&& x.2.1) (15 &&& 15) = x.2.2
      ∧ (port m 0).since + 160000000 ≤ 160000000 := by decide
theorem witness_PortStates_hello :
    let m := withPort { st := .hello } live
    (port m 0).st = .hello ∧ linkBusy m 0 = false ∧ (port m 0).since + 16000000 ≤ 16000000 ∧ (0 : Nat) = moduleNum m ∧ (5 : Nat) ≠ moduleNum m := by decide
theorem witness_PortStates_keys : ∀ x ∈ [PSt.keying, .up],
    let m := withPort { upPort with st := x } (withReg (rLport 0) 1 live)
    (port m 0).st = x ∧ linkBusy m 0 = false ∧ trusted m 0 goodPeer = true ∧ trusted m 0 { goodPeer with mlOk := false } = false ∧ (port m 0).version = 2
      ∧ (port m 0).since + 16000000 ≤ 16000000 ∧ writable m 0 (rLport 0) = true ∧ (port m 0).quiesced = false := by decide
/-- An UP port with a key exchange of its own under way, and without. -/
theorem witness_PortStates_rekey : ∀ b : Bool,
    let m := withPort { upPort with rekeying := b } (withReg (rLport 0) 1 live)
    (port m 0).st = .up ∧ (port m 0).version = 2 ∧ linkBusy m 0 = false ∧ (port m 0).rekeying = b ∧ trusted m 0 goodPeer = true := by decide
theorem witness_PortStates_quiesced : let m := withPort { upPort with quiesced := true } live
    (port m 0).st ≠ .down ∧ (port m 0).quiesced = true := by decide

theorem witness_SegmentsMove_ctl : (port (withPort upPort live) 0).st = .up ∧ portScrubs (withPort upPort live) 0 = false
    ∧ portScrubs (withPort upPort (scrubbing .quiesce [])) 0 = true := by decide
/-- The second NAK of a flit, and the sixteenth. -/
theorem witness_SegmentsMove_nak : ∀ x ∈ [(0, 1), (1, 2), (15, 16)],
    let l := port (withPort { upPort with nakFseq := 7, nakCount := x.1 } live) 0
    (if l.nakFseq = 7 ∧ l.nakCount ≠ 0 then l.nakCount + 1 else 1) = x.2 := by decide
set_option maxRecDepth 100000 in
/-- A first segment of a flit of VC1, its last, one of a CTL, and one whose CRC fails. -/
theorem witness_SegmentsMove_receive :
    let l := upPort
    let body := List.replicate 64 (7 : Byte)
    let tag := fun (vc idx : Nat) (ctl : Bool) => (segTag vc idx 0 ctl body).toNat
    let good := fun (n : Nat) => crc16 (toBe 2 (n / 65536) ++ slice body 0 64) == n % 65536
    let half := { upPort with rxFseq := 1, rxSegs := [(1, 0, List.replicate 192 7)] }
    good (tag 1 0 false) = true ∧ good (tag 0 0 true) = true ∧ good (tag 1 0 false + 1) = false ∧ bit (tag 0 0 true) 27 = true ∧ bit (tag 1 0 false) 27 = false
      ∧ l.nakWait = none ∧ (match addSegment 1 0 0 body (stampFirst clkReset 1 0 l) with | some (_, none) => true | _ => false) = true
      ∧ (match addSegment 1 3 0 body (stampFirst clkReset 1 3 half) with | some (l1, some bs) => sget [] l1.rxFlits 1 == [] && fld bs 2 1 % 32 != 0 | _ => false) = true := by
  decide +kernel
/-- A slot with nothing to send, with a new flit of VC1, and after 255 without a CTL segment. -/
theorem witness_SegmentsMove_slot : ∀ x ∈ [([], 0), ([{ vc := 1, fseq := 0, map := 0, bytes := List.replicate 256 7 }], 1)],
    let m := withPort { upPort with flits := x.1, creditTx := creditsAtUp } (withReg (rLport 0 + 0x10) 0x010101 live)
    let m1 := modPort m 0 slotTick
    let quiet := portQuiet m 0
    let pick := chooseFlit m1 quiet 0 (formAll m1 quiet (port m1 0))
    (port m 0).st = .up ∧ portScrubs m 0 = false ∧ ctlDue (port m 0) = false ∧ (port m 0).quiesced = false
      ∧ ((pick.bind turn).map fun y => y.flit.vc) = (if x.2 = 0 then none else some 1) ∧ pick.isNone = (x.2 == 0) := by decide +kernel
theorem witness_SegmentsMove_full : ctlDue (port (withPort { upPort with slotCount := 255 } live) 0) = true := by decide

/-! ## Hypotheses met: packets -/

def aPacket (typ arg : Nat) (addr : W64) (inl body : List Byte) : Packet where
  typ := BitVec.ofNat 8 typ
  vc := 0
  map := 0
  keyphase := false
  dst := 0
  dstEng := 0
  src := 5
  epoch := 0
  arg := BitVec.ofNat 32 arg
  addr := addr
  pseq := 0
  inl := inl
  body := body
/-- Packets in the buffers of port 0, which is up to module 5. -/
def arrive (ks : List Packet) (m : Mod) : Mod := withPort { upPort with rxq := ks } m

/-- SIGNAL of a flag of partition 0, and of an object that is not allocated. -/
theorem witness_PacketsArrive_signal :
    let k := aPacket 1 1 7 [] []
    let m := arrive [k] (modSync live 0 7 fun o => { o with alloc := true })
    oldest m 0 k 0x01 ∧ k.addr.toNat / 2 ^ 18 = moduleNum m ∧ remoteOk (syncObj m 0 7) (portPart m 0) k.arg.toNat = true ∧ (syncObj m 0 7).bad = none
      ∧ dieState m 0 ≤ 1 ∧ 2 ≤ dieState { m with pwr := { m.pwr with dieCmd := [(0, 2)] } } 0
      ∧ remoteOk (syncObj live 0 7) (portPart live 0) k.arg.toNat = false := by unfold oldest; decide
theorem witness_PacketsArrive_others : ∀ typ ∈ [0x02, 0x03, 0x04, 0x07],
    let k := aPacket typ 3 0 [] []
    let c : Clk := { (onTime live).clk with meas := some { num := 3, t1 := 0, t2 := if typ = 3 then none else some 4, t4 := 10 } }
    oldest (arrive [k] live) 0 k typ ∧ (c.meas.map fun y => (y.num.toNat, y.t2.isNone)) = some (k.arg.toNat, typ == 3)
      ∧ upstream (arrive [k] live) = 0 := by unfold oldest; decide
/-- A measurement that goes straight to a load, and one that steers. -/
theorem witness_PacketsArrive_follow : ∀ st ∈ [SyncState.acquire, .locked],
    let c : Clk := { (onTime live).clk with sync := st, meas := some { num := 3, t1 := 0, t2 := some 4, t4 := 10 } }
    c.meas = some { num := 3, t1 := 0, t2 := some 4, t4 := 10 } ∧ c.acqDone = false ∧ transitPending live = false ∧ c.sync = st := by decide
/-- One BULK packet of a transfer to module 5, which its destination does not refuse. -/
theorem witness_PacketsArrive_ack (h : Config.farRefused live.draw = false) :
    let k := aPacket 7 1 0 [] []
    let x := aXfer copyDesc 0x40010000 0x80000000 256 256
    let b : BulkOut := { part := 0, dst := 5, eng := 0, xfer := 5, addr := 0 }
    let m := { arrive [k] (withQ {} [x] live) with bulkOut := [b] }
    oldest m 0 k 0x07 ∧ m.bulkOut = b :: [] ∧ b.part = portPart m 0 ∧ b.dst = k.src.toNat ∧ k.arg = 1 ∧ findXfer m b.eng b.xfer = some x
      ∧ Config.farRefused m.draw = false := by
  refine ⟨by unfold oldest; decide, by decide, by decide, by decide, by decide, by decide, h⟩
theorem witness_EpochPackets_epochs : ∀ typ ∈ [0x05, 0x06, 0x10, 0x11],
    let k := aPacket typ 0 0 [] []
    oldest (arrive [k] (withLayout live)) 0 k typ ∧ epochAt (withLayout live) 0 = .current (aLayout 0) ∧ (aLayout 0).part = portPart (withLayout live) 0
      ∧ epochAt (withLayout live) 1 = .future ∧ epochAt (withLayout live) 7 = .other := by unfold oldest; decide +kernel
/-- A NORM with no pre-round and with one of the same, an earlier and a later D. -/
theorem witness_EpochPackets_norm : ∀ d ∈ [3, 2, 4],
    let k := aPacket 5 0 0 (toBe 8 3) []
    let y : PreRound := { set := 0, d := BitVec.ofNat 64 d, epoch := 0, sum := 0, count := 1, occ := 0 }
    let m := modXch (arrive [k] (withLayout live)) fun x => { x with pre := [y] }
    oldest m 0 k 0x05 ∧ (normSetOf (aLayout 0) k.arg.toNat).map (·.rootModule) = some (moduleNum m) ∧ (m.xch.pre.find? fun y => y.set == 0) = some y := by
  unfold oldest; decide
theorem witness_EpochPackets_round : ∀ x ∈ [(0x10, 3), (0x10, 2), (0x10, 4), (0x11, 3), (0x11, 2), (0x11, 4)],
    let k := aPacket x.1 0 0 (List.replicate 8 0 ++ toBe 8 3) []
    let r : Round := { shard := 0, d := BitVec.ofNat 64 x.2, epoch := 0, parts := [] }
    let m := modXch (arrive [k] (withLayout live)) fun y => { y with rounds := [r] }
    oldest m 0 k x.1 ∧ ownedShard m (aLayout 0) k = some (aShard 0 0) ∧ roundOf m 0 = some r ∧ roundOf (withLayout live) 0 = none := by
  unfold oldest; decide +kernel
theorem witness_EpochPackets_timeout :
    let k := aPacket 5 0 0 [] []
    let m := modXch live fun x => { x with future := [(0, k, 0)] }
    m.xch.future[0]? = some (0, k, 0) ∧ 0 + 65536 ≤ 65536 := by decide

theorem witness_BulkData_param :
    let k := aPacket 0x12 0 0 [] (List.replicate 32 1)
    let m := arrive [k] (withLayout (mapped live))
    oldest m 0 k 0x12 ∧ packetHeld m 0 k = false ∧ lookShard m k.arg.toNat = .ok (aLayout 0, aShard 0 0) ∧ (aLayout 0).part = portPart m 0
      ∧ (partDies m 0)[(aShard 0 0).arriveDie]? = some 0 ∧ (aShard 0 0).arriveEn = true := by unfold oldest; decide +kernel
/-- A PARAM whose bytes lie in the scratchpad of engine 0, under a pass that reads them. -/
theorem witness_BulkData_held :
    let k := aPacket 0x12 0 0 (List.replicate 3 0 ++ [32]) (List.replicate 32 1)
    let l : Layout := { aLayout 0 with shards := [some { aShard 0 0 with paramVa := 0x80000000 }] }
    let m := arrive [k] (modXch (mapped (bfTile 1 0 (withEng { gangs := [aGang [{ aPass (insn 0x40 0) none 0 with read := 1 }] [] []] } live))) fun x => { x with current := some l })
    oldest m 0 k 0x12 ∧ packetHeld m 0 k = true := by unfold oldest; decide +kernel
/-- The first BULK packet of module 5, and the sixteenth. -/
theorem witness_BulkData_bulk : ∀ n ∈ [0, 15],
    let k := aPacket 0x30 32 0x80000000 [] (List.replicate 32 1)
    let m := withPort { upPort with rxq := [k], bulkSince := if n = 0 then [] else [(5, n)] } (linked [] (mapped live))
    oldest m 0 k 0x30 ∧ packetHeld m 0 k = false ∧ sget 0 (port m 0).bulkSince 5 + 1 = n + 1
      ∧ route m (portPart m 0) 5 = .ok 0 := by unfold oldest; decide +kernel

/-- What a VC2 packet does, by kind: done, held, or a reply. -/
def vc2Kind : Vc2 → Nat
  | .done _ => 0
  | .held => 1
  | .reply _ _ => 2
  | .pinned => 3
theorem witness_TokensArrive_held : ∀ typ ∈ [0x20, 0x21, 0x22, 0x23],
    let k := { aPacket typ 0 0 [] [] with vc := 2 }
    let m := arrive [k] { live with exp := [(0, { held := [(0, k, none)] })] }
    oldest m 0 k typ ∧ blockedAt m 0 = some 0 ∧ blockedAt live 0 = none := by unfold oldest; decide
/-- An earlier packet of module 5 waits at a pin: its next one waits behind it, one of module 6 does not. -/
theorem witness_TokensArrive_behind : ∀ typ ∈ [0x20, 0x21, 0x23],
    let k := { aPacket typ 0 0 [] [] with vc := 2 }
    let m := arrive [k] { live with exp := [(0, { pinHeld := [(0, k, none)] })] }
    oldest m 0 k typ ∧ blockedAt m 0 = none ∧ pinnedBehind m k = some 0 ∧ pinnedBehind m { k with src := 6 } = none := by unfold oldest; decide
/-- A TOKEN_RET to a row that a pass of the engine reads. -/
theorem witness_TokensArrive_pinned :
    let tk : Ticket := { task := 0, word := 0, dest := 0, rows := 32, cols := 32, left := 2, dropped := 0 }
    let k := { aPacket 0x21 0 0 [] [] with vc := 2 }
    let m := arrive [k] (bfTile 1 0 (withEng { tickets := [(0, tk)], gangs := [aGang [{ aPass (insn 0x40 0) none 0 with read := 1 }] [] []] } live))
    oldest m 0 k 0x21 ∧ blockedAt m 0 = none ∧ pinnedBehind m k = none ∧ vc2Kind (vc2At clkReset 0 0 k (takenIn m 0 k)) = 3 := by
  unfold oldest; decide +kernel
theorem witness_TokensArrive_kinds :
    let m := linked [anExpert 0 32] { live with exp := [(0, { st := .complete })] }
    (∀ typ ∈ [0x20, 0x23], vc2Kind (vc2At clkReset 0 0 (aPacket typ 0 0 [] []) m) = 1)
      ∧ (∀ typ ∈ [0x20, 0x21, 0x22, 0x23], vc2Kind (vc2At clkReset 0 0 (aPacket typ 0 0 [] []) live) = 0) := by decide +kernel
/-- A first segment of a token at a round with room, and at a full one. -/
theorem witness_TokensArrive_token : ∀ fill ∈ [1, 32],
    let k := { aPacket 0x20 0 0 [] [] with vc := 2 }
    let m := withPort { upPort with rxq := [k] } (linked [anExpert 0 32] { live with exp := [(0, { fill := fill })] })
    oldest m 0 k 0x20 ∧ blockedAt m 0 = none ∧ pinnedBehind m k = none ∧ dieOwner m 0 = some 0 ∧ expertAt m 0 0 = some (anExpert 0 32) ∧ (anExpert 0 32).module = moduleNum m
      ∧ (expRound m 0 0).st = .opn ∧ ifld k 0x2C 2 = 0 ∧ k.src.toNat ≠ moduleNum m ∧ slotPinned m 0 (bank m 0) (anExpert 0 32) fill = false
      ∧ route m 0 5 = .ok 0 ∧ 1 ≤ (port m 0).version ∧ (expRound m 0 0).fill = fill ∧ fill ≠ 0 := by unfold oldest; decide +kernel
/-- Answers to ticket 0 with two left, and with one. -/
theorem witness_TokensArrive_ticket : ∀ x ∈ [(0x21, 2, 0), (0x21, 2, 1), (0x22, 2, 0), (0x22, 1, 0)],
    let tk : Ticket := { task := 0, word := 0, dest := 0, rows := 32, cols := 32, left := x.2.1, dropped := 0 }
    let k := { aPacket x.1 0 0 (List.replicate 15 0 ++ [BitVec.ofNat 8 x.2.2]) [] with vc := 2 }
    let m := arrive [k] (withEng { tickets := [(0, tk)], ctx := [(0, task [0])] } live)
    oldest m 0 k x.1 ∧ blockedAt m 0 = none ∧ pinnedBehind m k = none ∧ dieOwner m 0 = some 0 ∧ ticketAt m 0 (ifld k 0x25 1) = some tk ∧ ifld k 0x28 4 < tk.rows ∧ lastSeg k = (x.2.2 == 1)
      ∧ (∀ r ∈ gridRow tk.dest tk.cols 0x10 0, pinned m 0 r.1 r.2 = false) ∧ (ctx m 0 0).st ≠ .empty := by unfold oldest; decide +kernel
theorem witness_TokensArrive_end : ∀ ends ∈ [0, 1],
    let k := { aPacket 0x23 0 0 [] [] with vc := 2 }
    let m := withPort { upPort with rxq := [k] } (linked [anExpert 0 32] { live with exp := [(0, { ends := ends, fill := 1 })] })
    oldest m 0 k 0x23 ∧ blockedAt m 0 = none ∧ pinnedBehind m k = none ∧ dieOwner m 0 = some 0
      ∧ roundPinned m 0 0 (bank m 0) (anExpert 0 32) = false ∧ expertsOn m 0 0 = [(0, anExpert 0 32)] ∧ (expRound m 0 0).st = .opn
      ∧ (decide ((expRound m 0 0).ends + 1 < (anExpert 0 32).senders) = (ends == 0)) := by unfold oldest; decide +kernel

/-! ## Hypotheses met: Archive streams -/

/-- A profile of tier die 0, segments of 2 MiB, two at work, pictures of 32 by 32. -/
def aProfile : List Byte :=
  List.replicate 19 0 ++ [0] ++ toLe 2 2 ++ toLe 2 2 ++ toLe 8 (2 ^ 40) ++ List.replicate 20 0 ++ toLe 2 32 ++ toLe 2 32 ++ [16, 1, 1, 1]
    ++ toLe 2 1 ++ List.replicate 66 0
/-- Slot 0 of media die 0; partition 0 with a shuffle pool of one segment and 100 units on every tier die. -/
def withStrm (x : Strm) (m : Mod) : Mod :=
  withReg 0x200080 1 (withReg 0x200038 100 (withReg 0x200030 100 (withReg 0x200028 100 (withReg 0x200020 100
    { m with media := [(0, { slots := [(0, x)] })] }))))
def enabledSlot (m : Mod) : Mod := withReg (rSlot 0 0) 1 m
def datagram (typ seq ctrl : Nat) (payload : List Byte) : Datagram where
  srcAddr := List.replicate 16 0
  srcPort := 0
  udp := toBe 1 0x10 ++ toBe 1 typ ++ toBe 2 payload.length ++ toBe 4 7 ++ toBe 6 seq ++ [0, 0] ++ toBe 4 ctrl ++ List.replicate 12 0 ++ payload
/-- A stream of the datagrams' source that fills one segment. -/
def openStream : Strm :=
  { st := .opn, profile := aProfile, id := 7, src := List.replicate 16 0, seg := 0x200000, work := 2, segs := [(0, 0, 0)], cur := some (0, 0, 0) }

theorem witness_PortFrames_port : ingestUp live = true ∧ netAddr live 0 = netAddr live 0 ∧ ([] : List Byte) ≠ netAddr live 0 := by decide
theorem witness_PortFrames_repeats :
    let x : Strm := { openStream with st := .paused, pauseScrub := true, resumeAt := some (4, 0), closeLeft := 3 }
    let m := withStrm x (scrubbing .streams [])
    ingestUp m = true ∧ (strm m 0 0).lastTx + 16000 ≤ 16000 ∧ (strm m 0 0).st = .paused ∧ (strm m 0 0).resumeAt = some (4, 0) ∧ 16000 < 0 + 1600000 ∧ 0 + 1600000 ≤ 1600000
      ∧ (strm m 0 0).closeLeft ≠ 0 ∧ (strm m 0 0).closeAt + 16000 ≤ 16000 ∧ (strm m 0 0).nextProfile = none ∧ streamsPhase m 0 = true ∧ (strm m 0 0).pauseScrub = true ∧ (strm m 0 0).sinceData + 1600000 ≤ 1600000 := by decide

/-- An offer of a rate of 1 byte a second that asks for no reserve; one of rate 0; no slot for it. -/
theorem witness_OffersAnswered_new :
    let m := enabledSlot (withStrm { st := .listening, profile := aProfile } live)
    let g := fun (rate : Nat) => datagram 2 0 1 (toBe 8 rate ++ List.replicate 56 0)
    ingestUp m = true ∧ fetchLevel m < 2 ∧ isfBad 2 (g 1) = false ∧ openOf m 0 (g 1) = none ∧ slotFor m 0 (g 1) = some 0 ∧ scrubsDie m 0 = false
      ∧ offerErr m 0 (strm m 0 0) (isfPayload (g 1)) = none ∧ offerErr m 0 (strm m 0 0) (isfPayload (g 0)) = some 0x51 ∧ regB m (rSlot 0 0) 1 = false
      ∧ slotFor live 0 (g 1) = none := by decide +kernel
/-- A scrub of the die's partition runs. -/
def scrubbed (m : Mod) : Mod :=
  modPart m 0 fun p => { p with scrub := some { sq := 0, tag := 0, phase := .quiesce, going := [], failed := false, flog := 0 } }
theorem witness_OffersAnswered_scrub :
    let g := datagram 2 0 1 (List.replicate 64 0)
    scrubsDie (scrubbed live) 0 = true ∧ openOf (scrubbed live) 0 g = none
      ∧ scrubsDie (scrubbed (withStrm openStream live)) 0 = true ∧ openOf (scrubbed (withStrm openStream live)) 0 g = some 0 := by decide +kernel
theorem witness_OffersAnswered_repeat :
    let g := datagram 2 0 1 (List.replicate 64 0)
    let m := withStrm { openStream with offer := isfPayload g } live
    let g' := datagram 2 0 1 (List.replicate 64 1)
    isfBad 2 g = false ∧ openOf m 0 g = some 0 ∧ scrubsDie m 0 = false ∧ (strm m 0 0).offer = isfPayload g ∧ (strm m 0 0).offer ≠ isfPayload g'
      ∧ (strm m 0 0).refused = none
      ∧ (strm (withStrm { strm m 0 0 with refused := some (isfPayload g', 0x55, 7) } m) 0 0).refused = some (isfPayload g', 0x55, 7) := by decide +kernel

theorem witness_DataLands_lands :
    let g := datagram 1 0 0 [1, 2, 3, 4]
    let m := withStrm openStream live
    let x := strm m 0 0
    ingestUp m = true ∧ isfBad 1 g = false ∧ isfBad 1 { g with udp := [] } = true ∧ openOf m 0 g = some 0 ∧ unwrapSeq x (isfSeq g) = some 0
      ∧ x.st = .opn ∧ x.final = none ∧ x.ahead = [] ∧ x.cur = some (0, 0, 0) ∧ x.next = 0 ∧ x.highest ≤ 0 ∧ (isfPayload g).length = 4
      ∧ 0 + 4 < x.start + 2 ^ 48 ∧ x.resync = none ∧ 0 + 4 < x.seg ∧ poolUse x + 4 ≤ x.work * x.seg := by decide +kernel
/-- A recalibration of its tier die, and the die's own firmware where the segment would be full. -/
def tierService (op kind index : Nat) (m : Mod) : Mod :=
  { m with hub := { m.hub with svc := [(0, { busy := true, op := op, kind := kind, index := index })] } }
theorem witness_DataLands_waits :
    let m := withStrm openStream live
    landWaits m 0 0 4 = false ∧ landWaits (tierService 3 9 5 m) 0 0 4 = true ∧ landWaits (tierService 1 6 0 m) 0 0 4 = false
      ∧ landWaits (tierService 1 6 0 m) 0 0 0x200000 = true := by decide +kernel
theorem witness_DataLands_ahead :
    let g := datagram 1 8 0 [1, 2, 3, 4]
    let m := withStrm openStream live
    let x := strm m 0 0
    isfBad 1 g = false ∧ openOf m 0 g = some 0 ∧ unwrapSeq x (isfSeq g) = some 8 ∧ (isfPayload g).length = 4
      ∧ x.st = .opn ∧ x.final = none ∧ x.next < 8 ∧ 8 + 4 < x.start + 2 ^ 48 ∧ poolUse x ≤ x.work * x.seg
      ∧ ∀ z : Strm, z.ahead = x.ahead → reorderUsed (modStrm m 0 0 fun _ => z) 0 + 4 ≤ 0x100000 := by
  iterate 9 (apply And.intro; decide +kernel)
  intro z hz
  have h0 : z.ahead = [] := by rw [hz]; decide +kernel
  have hm : (withStrm openStream live).media = [(0, { slots := [(0, openStream)] })] := by decide +kernel
  have one : ∀ (α : Type) [DecidableEq α] (d v w : α), sset d [(0, w)] 0 v = [] ∨ sset d [(0, w)] 0 v = [(0, v)] := by
    intro α _ d v w
    by_cases h : v = d <;> simp [sset, sput, h]
  simp only [reorderUsed, slotsOf, modStrm, modMdie, mdie, hm, smod]
  rcases one _ ({} : MDie) _ _ with h | h <;> rw [h]
  · simp [sget]
  · simp only [sget, if_true]
    rcases one _ ({} : Strm) z openStream with h' | h' <;> rw [h'] <;> simp [h0]
theorem witness_DataLands_limit :
    let g := datagram 1 8 0 [1, 2, 3, 4]
    let m := enabledSlot (withStrm { openStream with st := .paused, limit := 11 } live)
    streamEn m 0 0 = true ∧ (strm m 0 0).nextProfile = none ∧ openOf m 0 g = some 0 ∧ (strm m 0 0).st = .paused ∧ unwrapSeq (strm m 0 0) (isfSeq g) = some 8 ∧ (strm m 0 0).limit < 8 + (isfPayload g).length := by decide +kernel
theorem witness_DataLands_close : ∀ st ∈ [SSt.opn, .paused],
    let g := datagram 6 0 1 (List.replicate 8 0)
    let m := withStrm { openStream with st := st, undecoded := 4 } live
    isfBad 6 g = false ∧ (isfPayload g).length = 8 ∧ unwrapSeq (strm m 0 0) (fldBe (isfPayload g) 2 6) = some 0 ∧ openOf m 0 g = some 0 ∧ (strm m 0 0).ctrlRx < isfCtrl g ∧ (strm m 0 0).pauseScrub = false
      ∧ (strm m 0 0).undecoded ≠ 0 ∧ (strm m 0 0).st = st := by decide +kernel
theorem witness_DataLands_times :
    let x : Strm := { openStream with hole := some 0, ahead := [(8, [1], 0)], rate := 1000000, window := 101 }
    (x.hole = some 0 ∧ 0 + 160000 ≤ 160000 ∧ x.ahead = [(8, [1], 0)] ∧ x.next < 8)
      ∧ isOpen x.st = true ∧ x.windowAt + 160000 ≤ 160000 ∧ x.window * 1000000 ≤ x.rate * 101 ∧ x.rate * 101 < 102 * 1000000 := by decide +kernel

/-- Enabling slot 0: its profile by VA 1 GiB in HBM, as it is there, all zero, and by a VA that is not mapped. -/
theorem witness_StreamControl_enable :
    let m := withMem 0x40000000 aProfile (withReg (rSlot 0 0 + 8) 0x40000000 (withStrm {} (mapped live)))
    writable m 0 (rSlot 0 0) = true ∧ streamEn m 0 0 = false ∧ (strm m 0 0).pauseHost = false
      ∧ (readProfile clkReset (storeFields 0 (rSlot 0 0) 1 m) 0 (regF (storeFields 0 (rSlot 0 0) 1 m) (rSlot 0 0 + 8) 0 57)).2 = some aProfile
      ∧ profileErr m 0 aProfile = none ∧ profileErr m 0 (List.replicate 128 0) = some 0x51
      ∧ (readProfile clkReset m 0 0x7000000000).2 = none := by decide +kernel
theorem witness_StreamControl_disable : ∀ st ∈ [SSt.opn, .paused, .listening, .closed, .error, .draining],
    let m := enabledSlot (withStrm { openStream with st := st, undecoded := 4 } live)
    writable m 0 (rSlot 0 0) = true ∧ streamEn m 0 0 = true ∧ (strm m 0 0).pauseHost = false ∧ (strm m 0 0).st = st ∧ (strm m 0 0).undecoded ≠ 0 := by
  decide +kernel
/-- A slot that was disabled while it drains is enabled again. -/
theorem witness_StreamControl_draining :
    let m := withMem 0x40000000 aProfile (withReg (rSlot 0 0 + 8) 0x40000000 (withStrm { openStream with st := .draining, undecoded := 4 } (mapped live)))
    streamEn m 0 0 = false ∧ (strm m 0 0).st = .draining ∧ (strm m 0 0).pauseHost = false
      ∧ (readProfile clkReset (storeFields 0 (rSlot 0 0) 1 m) 0 (regF (storeFields 0 (rSlot 0 0) 1 m) (rSlot 0 0 + 8) 0 57)).2 = some aProfile
      ∧ profileErr (readProfile clkReset (storeFields 0 (rSlot 0 0) 1 m) 0 0x40000000).1 0 aProfile = none := by decide +kernel
theorem witness_StreamControl_hold :
    let x : Strm := { openStream with st := .paused, pauseHost := true }
    let m := enabledSlot (withStrm openStream live)
    let y := strm (enabledSlot (withStrm x live)) 0 0
    (bit 3 0 = streamEn m 0 0 ∧ bit 3 1 = true ∧ (strm m 0 0).st = .opn ∧ (strm m 0 0).pauseHost = false)
      ∧ bit 1 1 = false ∧ y.st = .paused ∧ y.pauseHost = true ∧ y.pauseSpace = false ∧ y.pauseScrub = false ∧ poolUse y ≤ y.work * y.seg := by decide +kernel

/-- A core with leave to ask for, and one whose request waits. -/
theorem witness_SamplesFlow_decode :
    let m := withStrm { openStream with undecoded := 4 } live
    let w := { m with media := [(0, { slots := [(0, { openStream with undecoded := 4 })], coreLeave := (List.range 8).map fun i => (i, 5) })] }
    ingestUp m = true ∧ workSlot m 0 0 = 0 ∧ decoderStops clkReset 0 0 m = false ∧ (coreReady 0 (Config.coreOf 0 0 % 8) m).1 = true
      ∧ decoderStops clkReset 0 0 w = false ∧ (coreReady 0 (Config.coreOf 0 0 % 8) w).1 = false := by
  have h : ∀ c < 8, (coreReady 0 c (withStrm { openStream with undecoded := 4 } live)).1 = true
      ∧ (coreReady 0 c { withStrm { openStream with undecoded := 4 } live with
          media := [(0, { slots := [(0, { openStream with undecoded := 4 })], coreLeave := (List.range 8).map fun i => (i, 5) })] }).1 = false := by decide +kernel
  have hc : Config.coreOf 0 0 % 8 < 8 := Nat.mod_lt _ (by decide)
  exact ⟨by decide +kernel, by decide +kernel, by decide +kernel, (h _ hc).1, by decide +kernel, (h _ hc).2⟩
/-- Bytes of a sealed segment, beside one that fills. -/
theorem witness_SamplesFlow_sealed : sealedBytes { openStream with segs := [(3, 64, 4), (0, 8, 0)] } = 60 := by decide
/-- A random-access picture of 32 by 32, whole. -/
def aPicture : Picture where
  consumed := 4
  width := 32
  height := 32
  depth := 8
  fields := false
  lowerFirst := false
  matrix := 1
  full := false
  pts := 0
  dur := 900000
  inError := false
  intra := true
  refsLost := false
  mux := .ts 188 [1] 2
  essence := .mpeg2Main
  tracks := []
  last := false
theorem witness_SamplesFlow_pictures :
    undecodable openStream aPicture = false ∧ undecodable openStream { aPicture with mux := .ts 204 [1] 2 } = true ∧ openStream.st ≠ .error := by
  decide +kernel
/-- A core that goes on, and one that switches to new firmware at a random-access picture. -/
theorem witness_SamplesFlow_switches (h : Config.coreSwitching live.nextId 0 = true) :
    coreSwitches live 0 0 aPicture = false
      ∧ coreSwitches { live with hub := { live.hub with svc := [(0, { busy := true, op := 1, kind := 5, index := 0 })] } } 0 0 aPicture = true := by
  have h1 : svcRuns live 1 5 0 = false := by decide
  have h2 : svcRuns { live with hub := { live.hub with svc := [(0, { busy := true, op := 1, kind := 5, index := 0 })] } } 1 5 0 = true := by decide
  refine ⟨by simp [coreSwitches, h1], ?_⟩
  simp only [coreSwitches, h2, aPicture, Bool.true_and]
  exact h
/-- A tier die at work, and one that brings its firmware up. -/
theorem witness_SamplesFlow_waits :
    let m := withStrm { openStream with undecoded := 4 } live
    regionsWait m (landDie (strm m 0 0) 0) = false ∧ regionsWait (tierService 1 6 0 m) (landDie (strm m 0 0) 0) = true
      ∧ shufWaits m 0 = false ∧ shufWaits (tierService 1 6 0 m) 0 = true := by
  have h : shufDies 0 = [1, 0] ∨ shufDies 0 = [0, 1] := by unfold shufDies; cases Config.landHigh 0 <;> simp
  simp only [shufWaits]
  rcases h with h | h <;> rw [h] <;> decide +kernel
/-- A stream with a sample ready; a pool of no segment, and a segment that fills. -/
def aMade : MadeSample := { num := 0, id := 0, frames := [], last := false }
def poolOf (n : Nat) : Mod := withReg 0x200080 (BitVec.ofNat 64 n) (withStrm { openStream with ready := [aMade, aMade] } live)
def filling : Mod := modPart (poolOf 1) 0 fun p => { p with shuf := [(0, { td := 0, region := 0, va := 0x40000000, fill := 0, count := 0 })] }
theorem witness_SamplesFlow_place :
    nextSample (strm (poolOf 0) 0 0) = some (aMade, [aMade]) ∧ nextSample (strm filling 0 0) = some (aMade, [aMade])
      ∧ workSlot (poolOf 0) 0 0 = 0 ∧ workSlot filling 0 0 = 0 ∧ nextSample openStream = none
      ∧ (∀ n, shufRoom clkReset 0 (streamPart (poolOf 0) 0) n (poolOf 0) = none)
      ∧ ∀ n ≤ segBytes, shufRoom clkReset 0 (streamPart filling 0) n filling = some filling := by
  have h0 : hasShuf (poolOf 0) (streamPart (poolOf 0) 0) 0 = false := by decide +kernel
  have h1 : poolSegs (poolOf 0) (streamPart (poolOf 0) 0) = 0 := by decide +kernel
  have h2 : hasShuf filling (streamPart filling 0) 0 = true := by decide +kernel
  have h3 : (sget noShuf (partSt filling (streamPart filling 0)).shuf 0).fill = 0 := by decide +kernel
  refine ⟨by decide +kernel, by decide +kernel, by decide +kernel, by decide +kernel, by decide +kernel, fun n => ?_, fun n hn => ?_⟩
  · simp [shufRoom, shufSealed, h0, openShuf, h1]
  · simp [shufRoom, shufSealed, shufFits, h2, h3, hn]
def aSample : Sample := { addr := 0, len := 512, td := 0, region := 0, isSealed := true }
def drawing : Mod := modHq (withReg 0x200088 0x8000 (modPart live 0 fun p => { p with samples := [aSample] })) 0 0 fun q => { q with alloc := true }
theorem witness_SamplesFlow_draw :
    max 1 (minFill drawing 0) ≤ (undrawn (partSt drawing 0)).length ∧ (partSt drawing 0).scrub = none ∧ nextTarget drawing 0 = some (0, 0)
      ∧ (undrawn (partSt drawing 0))[Config.drawNat drawing.draw % (undrawn (partSt drawing 0)).length]? = some aSample := by
  have h : undrawn (partSt drawing 0) = [aSample] := by decide +kernel
  refine ⟨by decide +kernel, by decide +kernel, by decide +kernel, ?_⟩
  rw [h]; simp [Nat.mod_one]

/-! ## Hypotheses met: the root of trust

The layout of a request block, what cryptography answers and the module's own identity are opaque: each
witness names what it needs of them. -/

/-- A request waits at the mailbox of PF0; every partition may have a part of its own. -/
def mailed (p : PartSt) (m : Mod) : Mod :=
  { m with sec := { m.sec with mbox := [(0, { busy := true })] }, parts := (List.range 8).map fun k => (k, p) }
/-- The request block of zeros. -/
abbrev zeros : List Byte := List.replicate 64 0

theorem mailBlock_mailed (p : PartSt) : mailBlock (mailed p live) 0 = zeros := by
  have h : mailBlock (mailed p live) 0 = mailBlock live 0 := rfl
  rw [h]; decide +kernel
theorem partSt_mailed (p : PartSt) (k : Nat) (hk : k < 8) : partSt (mailed p live) k = p := by
  have : k = 0 ∨ k = 1 ∨ k = 2 ∨ k = 3 ∨ k = 4 ∨ k = 5 ∨ k = 6 ∨ k = 7 := by omega
  rcases this with h | h | h | h | h | h | h | h <;> subst h <;> rfl

theorem witness_MailboxRequests_waits (p : PartSt) (hp : p.scrub = none) (n : Nat) (hn : 1 ≤ n ∧ n ≤ 7) (h : Config.reqCode zeros = n) :
    mailWaits (mailed p live) 0 n ∧ mailErr (mailed p live) n (mailAsk (mailed p live) 0) = none
      ∧ partSt (mailed p live) (mailAsk (mailed p live) 0).part = p := by
  have hk : (mailAsk (mailed p live) 0).part < 8 := Nat.mod_lt _ (by decide)
  refine ⟨⟨rfl, rfl, rfl, rfl, by rw [mailBlock_mailed]; exact h⟩, ?_, partSt_mailed p _ hk⟩
  have h0 : ¬ (n = 0 ∨ n > 7) := by omega
  simp [mailErr, h0, mailAsk, partSt_mailed p _ (Nat.mod_lt _ (by decide : 0 < 8)), hp]
/-- A scrub of the partition refuses each. -/
theorem witness_MailboxRequests_refused (n : Nat) (hn : 1 ≤ n ∧ n ≤ 7) (h : Config.reqCode zeros = n) :
    let p : PartSt := { scrub := some { sq := 0, tag := 0, phase := .quiesce, going := [], failed := false, flog := 0 } }
    mailWaits (mailed p live) 0 n ∧ mailErr (mailed p live) n (mailAsk (mailed p live) 0) = some 0x75 := by
  refine ⟨⟨rfl, rfl, rfl, rfl, by rw [mailBlock_mailed]; exact h⟩, ?_⟩
  have h0 : ¬ (n = 0 ∨ n > 7) := by omega
  simp [mailErr, h0, mailAsk, partSt_mailed _ _ (Nat.mod_lt _ (by decide : 0 < 8))]
/-- What ENROLL_KEY finds: a loaded program, a bound image, four keys of each kind, or none of these. -/
theorem witness_MailboxRequests_enrol (debug : Bool) (k : Nat) (hk : k < 8) :
    (partSt (mailed { prog := some aProg } live) k).prog.isSome = true
      ∧ ((partSt (mailed { boundNow := true } live) k).prog = none ∧ (partSt (mailed { boundNow := true } live) k).boundNow = true)
      ∧ 4 ≤ (keysOf (mailed { enrolled := List.replicate 4 (false, []) ++ List.replicate 4 (true, []) } live) k debug).length
      ∧ (keysOf (mailed {} live) k debug).length < 4 := by
  simp only [keysOf, partSt_mailed _ k hk]
  cases debug <;> decide
/-- An unlock of the partition bars BIND_LOAD. -/
theorem witness_MailboxRequests_bindRefused (k : Nat) (x : Image) (dst : Nat) :
    bindErr clkReset (freed live) k x dst = .error 0x74 := by
  have : unlocked clkReset (freed live) k = true := by simp [unlocked, freed, clkReset]
  simp [bindErr, this]

/-- A bound image of one byte for one device at host address 0, and a bound page at VA 4 GiB for it. -/
def bindHead : List Byte := toLe 4 0x444E4942 ++ toLe 2 1 ++ [0, 0] ++ toLe 4 1 ++ toLe 4 0 ++ toLe 8 1
def bindState : Mod :=
  onHost bindHead (withMem 0x2020 (toLe 8 0x4000001F) (mapped (modPart live 0 fun p => { p with enrolled := [(false, [1])] })))
/-- The image is taken where every key, digest and signature is as a device of ID 0 would have them. -/
theorem witness_MailboxRequests_bind (hs : ∀ b, Config.sha384 b = []) (he : ∀ k m s, Config.edVerify k m s = true)
    (hm : ∀ k m s, Config.mlVerify k m s = true) :
    ∃ e, bindErr clkReset bindState 0 (readImage bindState 0) 0x100000000 = .ok e := by
  have h1 : unlocked clkReset bindState 0 = false := by decide +kernel
  have h2 : imageBad (readImage bindState 0) = false := by decide +kernel
  have h3 : keysOf bindState 0 false = [[1]] := by decide +kernel
  have h4 : slice (readImage bindState 0).hdr 0x30 48 = List.replicate 48 0 := by decide +kernel
  have h5 : fld (readImage bindState 0).hdr 6 1 = 0 := by decide +kernel
  have h6 : (readImage bindState 0).r = 1 := by decide +kernel
  have h7 : slice (recipient bindState (readImage bindState 0) 0) 0 48 = List.replicate 48 0 := by decide +kernel
  have h8 : (partSt bindState 0).boundNow = false := by decide +kernel
  have h9 : pagesBound bindState 0 0x100000000 (readImage bindState 0).len true = true := by decide +kernel
  have hz : slice ([] : List Byte) 0 48 = List.replicate 48 0 := by decide
  have hk : imageKeys bindState 0 (readImage bindState 0) = [[1]] := by simp [imageKeys, h3, h4, h5, hs, hz]
  have hd : deviceId = List.replicate 48 0 := by unfold deviceId; rw [hs]; exact hz
  simp [bindErr, h1, h2, hk, pairErr, he, hm, h6, hd, h7, h8, h9]
/-- A range of bound pages that BIND_EXPORT reads. -/
theorem witness_MailboxRequests_export :
    let m := modPart bindState 0 fun p => { p with boundNow := true }
    (partSt m 0).boundNow = true ∧ pagesBound m 0 0x100000000 64 false = true
      ∧ ∃ m1 x, readMem clkReset m (unitReq 0) 0x100000000 64 .clean = (m1, .ok x) :=
  ⟨by decide +kernel, by decide +kernel, ok_of (by decide +kernel)⟩
theorem witness_MailboxRequests_exportBad : pagesBound live 0 0 64 false = false := by decide +kernel
/-- No nonce is live: every token is refused, at a mailbox and at the connector. -/
theorem witness_MailboxRequests_unlockRefused (b : List Byte) : ∀ f ∈ [0, 9],
    unlockErr clkReset live f b = some 0x73 ∧ nonceOk clkReset live f b = false := by
  intro f hf
  have hc : f = 0 ∨ f = 9 := by simpa using hf
  have h : nonceOk clkReset live f b = false := by rcases hc with rfl | rfl <;> rfl
  simp [unlockErr, h]
/-- A token of partition 0 for 1 s, at a mailbox whose nonce is live. -/
def aToken : List Byte := List.replicate 0x50 0 ++ [1, 0, 0, 0, 1] ++ List.replicate 0xD38 0
theorem witness_MailboxRequests_unlock (he : ∀ k m s, Config.edVerify k m s = true) (hm : ∀ k m s, Config.mlVerify k m s = true)
    (hs : ∀ b, Config.sha384 b = []) (hn : Config.drawBytes 0 32 = []) : ∀ f ∈ [0, 9],
    let m := modMbox (modPart live 0 fun p => { p with enrolled := [(true, [1])] }) f fun x => { x with nonce := some (0, 1) }
    spdmUp m = true ∧ nonceOk clkReset m f aToken = true ∧ unlockErr clkReset m f aToken = none := by
  intro f hf m
  have hc : f = 0 ∨ f = 9 := by simpa using hf
  have hz : slice ([] : List Byte) 0 48 = List.replicate 48 0 ∧ slice ([] : List Byte) 0 32 = List.replicate 32 0 := by decide
  have h1 : slice aToken 0 48 = List.replicate 48 0 := by decide +kernel
  have h2 : slice aToken 0x30 32 = List.replicate 32 0 := by decide +kernel
  have h3 : readToken aToken = ⟨1, 0, 1⟩ := by decide +kernel
  have h4 : fld aToken 0x52 2 = 0 := by decide +kernel
  have h5 : allZero (slice aToken 0x58 8) = true := by decide +kernel
  have h6 : (mbox m f).nonce = some (0, 1) ∧ m.hub.recovery = false := by rcases hc with rfl | rfl <;> exact ⟨rfl, rfl⟩
  have h0 : spdmUp m = true := by rcases hc with rfl | rfl <;> rfl
  have hd : deviceId = List.replicate 48 0 := by unfold deviceId; rw [hs]; exact hz.1
  have h7 : keysOf m 0 true = [[1]] := rfl
  have h8 : (partSt m 0).boundNow = false ∧ (partSt m 0).scrub = none := ⟨rfl, rfl⟩
  have hn' : nonceOk clkReset m f aToken = true := by simp [nonceOk, h6, h2, hn, hz, clkReset]
  have hx : (f != 0 && f != connector && (false || 0 != f - 1)) = false := by rcases hc with rfl | rfl <;> rfl
  refine ⟨h0, hn', ?_⟩
  rcases hc with rfl | rfl <;> simp [unlockErr, tokenBad, hn', h1, h3, h4, h5, h6, h7, h8, hd, pairErr, he, hm, connector]
theorem witness_MailboxRequests_lapse :
    (mbox { live with sec := { live.sec with mbox := [(0, { nonce := some (0, 5) })] } } 0).nonce = some (0, 5) ∧ 5 ≤ 1000000
      ∧ (freed live).sec.unlocks[0]? = some { part := none, ends := 10 ^ 12, func := 0 } ∧ 10 ^ 12 ≤ 10 ^ 12 := by decide

theorem witness_SpdmAnswers : spdmUp live = true ∧ live.sec.spdmLast = none
    ∧ ({ live.sec with spdmLast := some [] } : Sec).spdmLast = some [] := by decide

/-! ## Hypotheses met: logs, trace, counters -/

theorem witness_LogsAndCounters_clear : ∀ log ∈ [0, 255, 272, 287],
    writable live 0 (0x600050 + 0x80 * log) = true ∧ bit 3 0 = true ∧ bit 2 0 = false ∧ regF live (rFltLimit log) 0 32 < 2 ^ 32 := by decide +kernel
/-- Corrected errors up to the limit, and past it, at the end of a second and in the middle of one. -/
theorem witness_LogsAndCounters_storm : ∀ x ∈ [(5, true), (6, false)],
    let m := withReg (rFltLimit 256) 5 { live with logs := [(256, { corr := 2 + x.1, corrMark := 2 })] }
    secondEnds { clkReset with now := second } (flog m 256) = true ∧ secondEnds clkReset (flog m 256) = false ∧
    decide ((flog m 256).corr - (flog m 256).corrMark ≤ regF m (rFltLimit 256) 0 32) = x.2 := by decide +kernel
theorem witness_LogsAndCounters_trace (h : Config.traceEcc live.draw = .clean) :
    let m := withReg 0x200488 0x8000000C (withEng { trace := [7] } live)
    (writable live 0 (rPart 0 + 0x488) = true ∧ bit 0x80000000 31 = true ∧ dieOwner m 0 = some 0 ∧ traceNext m 0 = some 0
      ∧ (engine m 0).trace = 7 :: [] ∧ traceOn m 0 = true ∧ traceFull m 0 = false ∧ traceDie m = some 0 ∧ traceOn (withEng { trace := [7] } live) 0 = false)
    ∧ Config.traceEcc m.draw = .clean := ⟨by decide +kernel, h⟩
theorem witness_LogsAndCounters_counters : writable live 0 (rCd 0 + 8) = true ∧ bit 1 0 = true ∧ hnUp live = true ∧ hnBusy live = false ∧ vfLive live 0 = true
    ∧ writable live 0 (rEcntSel 0 0) = true ∧ writable live 0 (rEcntSel 255 31) = true := by decide +kernel

/-! ## The spec's worked examples -/

/-- The pass of 4,096 steps (chapter 02): M = 0 under SAFE, −6 under TIGHT. -/
theorem test_magnitude : selectM false 0x82 0x7D 4096 none = 0 ∧ selectM true 0x82 0x7D 4096 none = -6 := by decide
/-- The parts of the reduction of 20,000 steps (chapter 02). -/
theorem test_magnitude_parts : selectM false 0x82 0x7D 8192 none = 1 ∧ selectM false 0x82 0x7D 3616 none = 0 := by decide
/-- The MXFP8 block (chapter 02): scale 0x81, codes 0x7A for 1,300.0 and 0x01 for 0.0025 × 4. -/
theorem test_mxfp8_block : encodeBlock 5 none 0 [.fin false 1300 0, .fin false 0x51EB85 (-29)] = (0x81, [(0x7A, false), (0x01, false)]) := by
  decide +kernel
/-- The SPREAD address of chapter 01 reaches the byte of its LOCAL address. -/
theorem test_spread : place 0x20000012345 = .hbm 2 0x1345 ∧ place 0x20000012345 = place 0x4000001345 := by decide +kernel
/-- The ganged pass of chapter 10: its bytes in the stream, its fields, and that the word is well formed. -/
theorem test_ganged_pass :
    words ([0x00, 0x00, 0x00, 0x43, 0xFF, 0x0F, 0x40, 0x23, 0x00, 0x18, 0x00, 0x01, 0x00, 0x05, 0x40, 0x40] : List Byte)
      = [0x40400500010018002340_0FFF43000000]
    ∧ (Instr.opxPass 0 0 0x40400500010018002340_0FFF43000000).wellFormed = true := by decide +kernel
theorem test_ganged_pass_fields :
    let w : LviWord := 0x40400500010018002340_0FFF43000000
    let p := opxFields w
    (p.ca, p.cb, p.cd, p.k, p.tight, p.attach, p.dfmt) = (2, 3, 4, 4096, true, true, 0) ∧ p.shape = .s128x64
      ∧ (wWmode w, wW0 w, wSmode w, wS w) = (1, 5, 1, 6) := by decide +kernel
/-- The exchange drain of chapter 10. -/
theorem test_exchange_drain_word :
    let w : LviWord := 0xC0000000_0104B001_8A900000_00000000
    (Instr.xchDrain 0 0 w).wellFormed = true ∧ (wSmode w, wS w, wExt w) = (1, 300, 1)
      ∧ (wf w 60 4, wf w 56 4, wf w 53 3, wf w 52 1) = (8, 10, 4, 1) := by decide +kernel
/-- CHAIN.START of record 2 as a Transit (chapter 10). -/
theorem test_chain_start_word :
    (Instr.chainStartInsn 0 0 0x24000000_00000200_00000000_00000002).wellFormed = true
      ∧ wT 0x24000000_00000200_00000000_00000002 = true := by decide +kernel
/-- The CHAIN record of chapter 10: three stages, completion counter 12. -/
theorem test_chain_record :
    let b : List Byte := [0x05, 0, 0x30, 0, 3, 0, 0x0C, 0, 2, 1, 0, 0, 0, 0, 0, 0, 0, 0, 0, 0, 0, 0x25, 0, 8, 0, 1, 1, 0, 0x0A, 0, 3, 0,
      1, 5, 0, 0, 0, 0, 0, 0, 0, 0, 0, 0, 0, 0, 0, 0]
    recNeed b 0 = some 44 ∧ fld b 6 2 = 12
      ∧ (List.range (fld b 4 1)).map (fun i => readStage b (8 + 12 * i))
        = [{ kind := 2, place := 1, pool := 0, bytes := 0, tmpl := 0 }, { kind := 0, place := 37, pool := 8, bytes := 0x10100, tmpl := 0x3000A },
          { kind := 1, place := 5, pool := 0, bytes := 0, tmpl := 0 }] := by decide +kernel
/-- The Transit of chapter 08: LT rounds up, and 501 ticks ahead is not late. -/
theorem test_transit_rounds : roundUpTick 4000001 = 4000002
    ∧ isLate { clkReset with running := true, sid := 3999500 } 4000002 = false := by decide +kernel
/-- The measurement of chapter 08: 40 ticks ahead, 20 forward steps. -/
theorem test_measured_offset : halfTicks (diff 5000360 5000000 - diff 5000780 5000500) = 40 ∧ stepsFor 40 = 20 := by decide +kernel
/-- Leave of the gangs of chapter 16, and the rest of a die's budget. -/
theorem test_gang_leave : gangLeave .s128x64 1 1 = 20 ∧ gangLeave .s128x64 9 9 = 32 := by decide +kernel
/-- The relay of chapter 14: V and P of its contract. -/
theorem test_coast_contract :
    let o : List Byte := toBe 8 400000000 ++ toBe 8 1200000000
    let x : Strm := { profile := List.replicate 0x14 0 ++ toLe 2 16 ++ toLe 2 49 }
    offerV o = 1200008000 ∧ offerP x (offerV o) = 2030043136 := by decide +kernel
/-- The video sample of chapter 14: its run and its extent. -/
theorem test_video_sample :
    let b : List Byte := List.replicate 0x34 0 ++ toLe 2 224 ++ toLe 2 224 ++ [16, 2, 0, 1]
    videoCols b = 1536 ∧ videoRows b = 224 ∧ videoBytes b = 691712 ∧ leastExtent b = 692224 ∧ segBytes / leastExtent b = 96 := by decide +kernel

/-- VF3 and PART2 of the ring pair of chapter 20: both rings of pair 9 set up, the registers in place. -/
def pair9 (cqOn : Bool) : State := atMod { live with
  bar0 := [(0x100240, 0x4120000000), (0x100248, 12), (0x180240, 0x4120100000), (0x180248, 12),
    (0x180250, if cqOn then 0x00140008_0005020D else 0), (0x220000, 0x403)] }
theorem test_pair9_cq : (match exec (.cqEnable 0 9 0x00140008_0005020D) (pair9 false) with
    | .next t => cqEn t.m 9 && (ring t.m 9).cqReason == 0 && cqOwner t.m 9 == 3 && cqPart t.m 9 == 2
    | _ => false) = true := by decide +kernel
theorem test_pair9_sq : (match exec (.sqEnable 0 9 0x0203020D) (pair9 true) with
    | .next t => sqEn t.m 9 && (ring t.m 9).reason == 0
    | _ => false) = true := by decide +kernel
theorem test_pair9_reversed : (match exec (.sqEnable 0 9 0x0203020D) (pair9 false) with
    | .next t => !sqEn t.m 9 && (ring t.m 9).reason == 0x11
    | _ => false) = true := by decide +kernel

/-- The walk of chapter 01: three entries in H2 map a 1 GiB page of H2. -/
theorem test_walk :
    let m : Mod := { live with bar0 := [(0x200000, 0x201), (0x200010, 0x4000000000), (0x200100, 0x4000000001), (0x200108, 0x5000000000)] }
    let m := withMem (0x4000000000 + 8 * 18) (toLe 8 0x4000001001) (withMem (0x4000001000 + 8 * 104) (toLe 8 0x4000002001)
      (withMem (0x4000002000 + 8 * 345) (toLe 8 0x4040000007) m))
    let m := [0x40000000, 0x40000013, 0x4000002A].foldl (fun m l => setLine m l { key := 0, marked := false, poison := false }) m
    (xlate m 0 0x123456789ABCDE false).toOption.map (·.phys) = some 0x40789ABCDE
      ∧ (xlate m 0 0x123456789ABCDE true).toOption.map (·.phys) = none := by decide +kernel
/-- The runs of chapter 13: a token run of 128 rows of 2,048 BF16 elements holds 8 tiles, a receive run of 320 rows 20. -/
theorem test_token_runs : (gridTiles 0 2048 1 128).length = 8 ∧ (gridTiles 0 2048 1 320).length = 20 ∧ gridTile 2048 1 = 65792 := by
  decide +kernel

end Sys2Proof.Tests
end

/-! # Writes of BAR0 (R8, R602, R618, R622)

What a register and a field read after a write, and the route of a write through REGISTER_WRITE to its register. -/

section
namespace Sys2Proof.Machine

/-! ## The register file: a read after a write -/

/-- A key that is not written reads as before, whatever default the table is read with. -/
theorem sget_sset_ne {α : Type} [DecidableEq α] (d d' : α) (t : Sparse α) {x y : Nat} (v : α) (h : y ≠ x) :
    sget d (sset d' t x v) y = sget d t y := by
  unfold sset
  split_ifs
  · rw [sget_filter_ne, if_neg h]
  · rw [sget_sput, if_neg h]

@[simp] theorem reg_setReg_same (m : Mod) (off : Nat) (v : W64) : reg (setReg m off v) off = v :=
  sget_sset_same ..

theorem reg_setReg_other (m : Mod) {off o : Nat} (v : W64) (h : o ≠ off) : reg (setReg m off v) o = reg m o :=
  sget_sset_ne _ _ _ v h

/-- A write of a register's fields leaves every other register as it was. -/
theorem reg_storeFields_other (f : Nat) {off o : Nat} (v : Nat) (m : Mod) (h : o ≠ off) :
    reg (storeFields f off v m) o = reg m o := by
  unfold storeFields
  split
  · rfl
  · exact reg_setReg_other m _ h

/-! ## The fields of a register -/

/-- A field within the 64 bits of a stored word is not cut. -/
theorem bits_ofNat64 (x : Nat) {lo n : Nat} (h : lo + n ≤ 64) : bits (BitVec.ofNat 64 x).toNat lo n = bits x lo n := by
  have hsplit : 2 ^ 64 = 2 ^ lo * 2 ^ (64 - lo) := by rw [← Nat.pow_add]; congr 1; omega
  unfold bits
  rw [BitVec.toNat_ofNat, hsplit, Nat.mod_mul_right_div_self, Nat.mod_mod_of_dvd _ (Nat.pow_dvd_pow 2 (by omega))]

/-- The field set by a write reads as the same bits of the value written. -/
theorem bits_setField (old v lo n : Nat) : bits (old - bits old lo n * 2 ^ lo + bits v lo n * 2 ^ lo) lo n = bits v lo n := by
  have hlo : 0 < 2 ^ lo := Nat.two_pow_pos lo
  have hfield : bits v lo n < 2 ^ n := Nat.mod_lt _ (Nat.two_pow_pos n)
  have hold : old - bits old lo n * 2 ^ lo = old % 2 ^ lo + old / 2 ^ lo / 2 ^ n * 2 ^ n * 2 ^ lo := by
    have hhigh : old / 2 ^ lo = old / 2 ^ lo / 2 ^ n * 2 ^ n + bits old lo n := (Nat.div_add_mod' _ _).symm
    have hword : old = old / 2 ^ lo * 2 ^ lo + old % 2 ^ lo := (Nat.div_add_mod' _ _).symm
    rw [hhigh, Nat.add_mul] at hword
    omega
  have hshift : (old - bits old lo n * 2 ^ lo + bits v lo n * 2 ^ lo) / 2 ^ lo = old / 2 ^ lo / 2 ^ n * 2 ^ n + bits v lo n := by
    rw [hold, Nat.add_assoc, ← Nat.add_mul, Nat.add_mul_div_right _ _ hlo, Nat.div_eq_of_lt (Nat.mod_lt _ hlo), Nat.zero_add]
  unfold bits at hshift ⊢
  rw [hshift, Nat.mul_add_mod', Nat.mod_mod]

/-- A register of one RW field, with no row of its own and no bar to the function, takes the field as written (R8). -/
theorem regF_storeFields_only {f off v i j : Nat} {m : Mod} {d : RDef} {fl : Fld} (hreg : lookReg off = some (d, i, j))
    (hfld : d.flds = [fl]) (hrw : fl.acc = .rw) (hen : enableBit off fl = false) (hvf : vfBarred off fl = false)
    (hlo : fl.lo ≤ fl.hi) (hhi : fl.hi < 64) :
    regF (storeFields f off v m) off fl.lo (fl.hi + 1 - fl.lo) = bits v fl.lo (fl.hi + 1 - fl.lo) := by
  have hst : storeFields f off v m = setReg m off (BitVec.ofNat 64 (regN m off
      - bits (regN m off) fl.lo (fl.hi + 1 - fl.lo) * 2 ^ fl.lo + bits v fl.lo (fl.hi + 1 - fl.lo) * 2 ^ fl.lo)) := by
    simp [storeFields, hreg, hfld, writeFields, hrw, hen, hvf]
  rw [hst, regF, regN, reg_setReg_same, bits_ofNat64 _ (by omega), bits_setField]

theorem regF_storeFields_bar4Base (f v : Nat) (m : Mod) :
    regF (storeFields f rHubBar4Base v m) rHubBar4Base 30 19 = bits v 30 19 :=
  regF_storeFields_only (fl := ⟨48, 30, .rw, 0⟩) (d := ⟨0x30, 1, 0, 1, 0, .free, .pf0, [⟨48, 30, .rw, 0⟩]⟩) (i := 0) (j := 0)
    (by decide) rfl rfl (by decide) (by decide) (by decide) (by decide)

/-! ## The route of a write -/

/-- A function that may write is live. -/
theorem vfLive_of_writable {m : Mod} {f off : Nat} (h : writable m f off = true) : vfLive m f = true := by
  simp only [writable, Bool.and_eq_true] at h
  obtain ⟨⟨⟨⟨-, hlive⟩, -⟩, -⟩, -⟩ := h
  exact hlive

theorem gated_of_writable {m : Mod} {f off : Nat} (act : Mod → Mod) (h : writable m f off = true) : gated f off act m = act m :=
  if_pos h

/-- Outside the completion rings, the traces, the watchdogs and the weights a register takes any value. -/
theorem storeReg_eq (f : Nat) {off : Nat} (v : Nat) (m : Mod) (h : off < 0x180000 ∨ 0x300000 ≤ off ∧ off < 0x800000) :
    storeReg f off v m = storeFields f off v m := by
  unfold storeReg fitValue
  rw [if_neg (by omega), if_neg (by omega), if_neg (by omega), if_neg (by omega)]

/-- A write of the HUB block goes to the hub, save that of HUB_RESET. -/
theorem wordWrite_hub {f off v : Nat} {whole : Bool} {c : Clk} {m : Mod} (hhub : off < 0x100000) (hreset : off ≠ 0x20) :
    wordWrite f off v whole c m = (c, gated f off (hubWrite f off v c) m) := by
  unfold wordWrite rPwrCmd rTimeCtrl
  rw [if_neg (by omega), if_neg hreset, if_neg (by omega), if_neg (by omega), if_neg (by omega), if_neg (by omega), if_pos hhub]

/-- A write of the power, time, mailbox and log blocks goes to their units, save those of PWR_CMD, TIME_LOAD, TIME_CTRL and
TIME_STATUS. -/
theorem wordWrite_unit {f off v : Nat} {whole : Bool} {c : Clk} {m : Mod} (hlo : 0x300000 < off) (hhi : off < 0x800000)
    (htime : off ∉ [0x400008, 0x400010, 0x400018]) :
    wordWrite f off v whole c m = (c, gated f off (unitWrite f off v) m) := by
  simp only [List.mem_cons, List.not_mem_nil, or_false, not_or] at htime
  obtain ⟨hload, hctrl, hstatus⟩ := htime
  unfold wordWrite rPwrCmd rTimeCtrl
  rw [if_neg (by omega), if_neg (by omega), if_neg hload, if_neg hctrl, if_neg hstatus, if_neg (by omega), if_neg (by omega), if_pos hhi]

/-- HUB_BAR4_BASE, HUB_FW_IMAGE and HUB_FW_LEN. -/
def hubPlain : List Nat := [0x30, 0x68, 0x70]

/-- PWR_CTRL, PWR_LIMIT, TIME_ASYM of port 0 and FLT_LIMIT of log 0. -/
def unitPlain : List Nat := [0x300020, 0x300028, 0x400100, 0x600058]

theorem hubWrite_plain {off : Nat} (h : off ∈ hubPlain) (f v : Nat) (t : Clk) (m : Mod) :
    hubWrite f off v t m = storeFields f off v m := by
  have hplace : off < 0x100 ∧ off ∉ [0x8, 0x10, 0x60, 0x78] :=
    (by decide : ∀ o ∈ hubPlain, o < 0x100 ∧ o ∉ [0x8, 0x10, 0x60, 0x78]) off h
  simp only [List.mem_cons, List.not_mem_nil, or_false, not_or] at hplace
  obtain ⟨hlow, hid, hctrl, hsvc, hfw⟩ := hplace
  unfold hubWrite rHubModuleId rHubModuleCtrl rHubServiceCfg
  rw [if_neg hid, if_neg hctrl, if_neg hsvc, if_neg hfw, if_neg (by omega), storeReg_eq f v m (by omega)]

theorem unitWrite_plain {off : Nat} (h : off ∈ unitPlain) (f v : Nat) (m : Mod) :
    unitWrite f off v m = storeFields f off v m := by
  have hplace : (0x300008 < off ∧ off < 0x500000) ∨ (0x600000 ≤ off ∧ off < 0x800000 ∧ off % 0x80 ≠ 0x50) :=
    (by decide : ∀ o ∈ unitPlain, (0x300008 < o ∧ o < 0x500000) ∨ (0x600000 ≤ o ∧ o < 0x800000 ∧ o % 0x80 ≠ 0x50)) off h
  unfold unitWrite
  rw [if_neg (by omega), if_neg (by omega), if_neg (by omega), if_neg (by omega), storeReg_eq f v m (by omega)]
  rcases hplace with ⟨-, hpower⟩ | ⟨hlogs, -, hclear⟩
  · rw [if_pos hpower]
  · rw [if_neg (by omega), if_neg (by omega), if_neg hclear]

/-- A write that the function may make of a plain register stores its fields. -/
theorem wordWrite_plain {f off v : Nat} {whole : Bool} {c : Clk} {m : Mod} (h : off ∈ hubPlain ++ unitPlain)
    (hw : writable m f off = true) : wordWrite f off v whole c m = (c, storeFields f off v m) := by
  rcases List.mem_append.1 h with hub | unit
  · obtain ⟨hhub, hreset⟩ : off < 0x100000 ∧ off ≠ 0x20 := (by decide : ∀ o ∈ hubPlain, o < 0x100000 ∧ o ≠ 0x20) off hub
    rw [wordWrite_hub hhub hreset, gated_of_writable _ hw, hubWrite_plain hub]
  · obtain ⟨hlo, hhi, htime⟩ : 0x300000 < off ∧ off < 0x800000 ∧ off ∉ [0x400008, 0x400010, 0x400018] :=
      (by decide : ∀ o ∈ unitPlain, 0x300000 < o ∧ o < 0x800000 ∧ o ∉ [0x400008, 0x400010, 0x400018]) off unit
    rw [wordWrite_unit hlo hhi htime, gated_of_writable _ hw, unitWrite_plain unit]

theorem barServes_iff (off size : Nat) : barServes off size = true ↔ (size = 4 ∨ size = 8) ∧ off % size = 0 := by
  simp [barServes]

/-- An aligned access of 8 bytes reaches its register whole. -/
theorem registerWrite_whole {f off v : Nat} {c : Clk} {m : Mod} (hup : hnUp m = true) (hbusy : hnBusy m = false)
    (hlive : vfLive m f = true) (hal : off % 8 = 0) : registerWrite f off 8 v c m = wordWrite f off v true c m := by
  have hserves : barServes off 8 = true := (barServes_iff off 8).2 ⟨Or.inr rfl, hal⟩
  have hbase : off / 8 * 8 = off := Nat.div_mul_cancel (Nat.dvd_of_mod_eq_zero hal)
  simp [registerWrite, hup, hbusy, hlive, hserves, hbase]

/-- An access that BAR0 does not serve is refused, whatever it would write. -/
theorem registerWrite_unserved {f off size v : Nat} {c : Clk} {m : Mod} (hup : hnUp m = true) (hbusy : hnBusy m = false)
    (hlive : vfLive m f = true) (hbad : ¬ ((size = 4 ∨ size = 8) ∧ off % size = 0)) :
    registerWrite f off size v c m = (c, barRefuse c f off m) := by
  have hserves : ¬ barServes off size = true := mt (barServes_iff off size).1 hbad
  simp [registerWrite, hup, hbusy, hlive, hserves]

/-! ## A refused write -/

@[simp] theorem barRefuse_bar0 (t : Clk) (f off : Nat) (m : Mod) : (barRefuse t f off m).bar0 = m.bar0 := rfl

@[simp] theorem barRefuse_out (t : Clk) (f off : Nat) (m : Mod) : (barRefuse t f off m).out = m.out ++ [.aerUR f] := rfl

/-- The last entry of log 272 after a refusal is the one of R618. -/
theorem flog_barRefuse_last (t : Clk) (f off : Nat) (m : Mod) :
    (flog (barRefuse t f off m) logHN).last.typ = fAccess ∧ (flog (barRefuse t f off m) logHN).last.reason = 0x1E := by
  have hlog : flog (barRefuse t f off m) logHN = flog (barLog t f off m) logHN := rfl
  rw [hlog, barLog, hnFault, flog_logFault]
  exact ⟨rfl, rfl⟩

/-! ## The rows -/

/-- A row of the links whose meaning leaves the clock alone answers the module it makes, settled. -/
theorem links_onLink {g : Clk → Mod → Clk × Mod} {s : State} {u : Mod} {P : Mod → Prop} (hg : g s.clk s.m = (s.clk, u)) (hP : P u) :
    Links s (onLink g s) P :=
  ⟨u, by simp [onLink, onBoth, hg], hP⟩

theorem exec_registerWrite (f : Func) (off size : Nat) (v : W64) (s : State) :
    exec (.registerWrite f off size v) s = onLink (registerWrite f.val off size v.toNat) s := rfl

/-- A configuration request with input power and PERST# high is answered, or told to retry while the boot ROM runs (R602). -/
theorem exec_configurationRequest {s : State} (f : Func) (hin : s.m.hub.input = true) (hperst : s.m.hub.perst = false) :
    exec (.configurationRequest f) s
      = .next { s with m := emit (if s.m.hub.booted then .cfgAnswer f.val else .cfgRetry f.val) s.m } := by
  change Host.Outcome.next { s with m := configRequest f.val s.m } = _
  simp [configRequest, hin, hperst]

end Sys2Proof.Machine

namespace Sys2Proof
open Machine

/-- Settles O38: a write routed to a plain register is `storeFields` of that register, a misshapen one is `barRefuse`, and a
configuration request is decided by whether the boot ROM is done. -/
theorem registersWritten : Obligations.RegistersWritten := by
  unfold Obligations.RegistersWritten
  refine ⟨?plain, ?unserved, ?booted, ?booting⟩
  case plain =>
    intro off hoff f v s hw hup hbusy
    have haligned : off % 8 = 0 := (by decide : ∀ o ∈ hubPlain ++ unitPlain, o % 8 = 0) off hoff
    rw [exec_registerWrite]
    have hstores : registerWrite f off 8 v.toNat s.clk s.m = (s.clk, storeFields f off v.toNat s.m) :=
      (registerWrite_whole hup hbusy (vfLive_of_writable hw) haligned).trans (wordWrite_plain hoff hw)
    refine links_onLink hstores ⟨rfl, ?_, ?_⟩
    · rintro rfl
      exact regF_storeFields_bar4Base f.val v.toNat s.m
    · exact fun o ho => reg_storeFields_other f.val v.toNat s.m ho
  case unserved =>
    intro f off size v s hup hbusy hlive hbad
    rw [exec_registerWrite]
    exact links_onLink (registerWrite_unserved hup hbusy hlive hbad)
      ⟨barRefuse_bar0 .., barRefuse_out .., flog_barRefuse_last ..⟩
  case booted =>
    intro f s hin hperst hboot
    rw [exec_configurationRequest f hin hperst, if_pos hboot]
  case booting =>
    intro f s hin hperst hboot
    rw [exec_configurationRequest f hin hperst, if_neg (by simp [hboot])]

end Sys2Proof
end

/-! # Steps and passes of a gang (R62 to R65, R87, R100, R135)

What an update of a gang leaves of its engine, what the accumulation of a step can do to the flags of overflow and
saturation, and what one step, a replay and a retired pass make of the passes of their gang. -/

section
namespace Sys2Proof.Machine

/-! ## Updates of a gang -/

theorem gangs_modGang (m : Mod) (g base : Nat) (f : Gang → Gang) :
    (engine (modGang m g base f) g).gangs = (engine m g).gangs.map fun x => if x.base = base then f x else x := by
  simp [modGang]

@[simp] theorem cells_modGang (m : Mod) (g base : Nat) (f : Gang → Gang) :
    (engine (modGang m g base f) g).cells = (engine m g).cells := by simp [modGang]

@[simp] theorem ctx_modGang (m : Mod) (g base h c : Nat) (f : Gang → Gang) : ctx (modGang m g base f) h c = ctx m h c :=
  ctx_modEngine _ _ _ _ _ fun _ => rfl

/-- A gang of the base stands updated among the gangs. -/
theorem updated_mem_modGang {m : Mod} {g base : Nat} {gg : Gang} (f : Gang → Gang) (h : gg ∈ (engine m g).gangs)
    (hb : gg.base = base) : f gg ∈ (engine (modGang m g base f) g).gangs := by
  rw [gangs_modGang]
  exact List.mem_map.2 ⟨gg, h, if_pos hb⟩

theorem mem_gangs_of_gangAt {e : Engine} {a : Nat} {gg : Gang} (h : gangAt e a = some gg) : gg ∈ e.gangs :=
  List.mem_of_find?_eq_some h

theorem base_of_gangOf {e : Engine} {base : Nat} {gg : Gang} (h : gangOf e base = some gg) : gg.base = base := by
  simpa using List.find?_some h

/-- The gang of the base, after an update that keeps the bases. -/
theorem gangOf_modGang {m : Mod} {g base : Nat} {gg : Gang} {f : Gang → Gang} (hf : ∀ x, (f x).base = x.base)
    (h : gangOf (engine m g) base = some gg) : gangOf (engine (modGang m g base f) g) base = some (f gg) := by
  have hkeep : ((fun x : Gang => x.base == base) ∘ fun x => if x.base = base then f x else x) = fun x => x.base == base := by
    funext x
    simp only [Function.comp]
    split_ifs
    · rw [hf]
    · rfl
  unfold gangOf at h ⊢
  rw [gangs_modGang, List.find?_map, hkeep, h, Option.map_some, if_pos (base_of_gangOf h)]

/-- What leaves the engines undisturbed leaves their gangs as they were. -/
theorem gangs_of_undisturbed {m u : Mod} (h : Undisturbed m u) (g : Nat) : (engine u g).gangs = (engine m g).gangs := by
  have hstill : (stillEng (engine u g)).gangs = (stillEng (engine m g)).gangs := by rw [h.2.1 g]
  exact hstill

theorem gangOf_of_undisturbed {m u : Mod} (h : Undisturbed m u) (g base : Nat) :
    gangOf (engine u g) base = gangOf (engine m g) base := by
  unfold gangOf
  rw [gangs_of_undisturbed h]

/-- An update of the pass of an id that no other pass of the gang has. -/
theorem passes_modPass {gg : Gang} {before after : List Pass} {p : Pass} (f : Pass → Pass) (h : gg.passes = before ++ p :: after)
    (hid : ∀ q ∈ before ++ after, q.id ≠ p.id) : (modPass p.id f gg).passes = before ++ f p :: after := by
  have hkeep : ∀ l : List Pass, (∀ q ∈ l, q ∈ before ++ after) → l.map (fun q => if q.id = p.id then f q else q) = l := by
    intro l hl
    exact (List.map_congr_left fun q hq => if_neg (hid q (hl q hq))).trans (List.map_id' l)
  unfold modPass
  simp only [h, List.map_append, List.map_cons, if_true]
  rw [hkeep before fun q => List.mem_append_left _, hkeep after fun q => List.mem_append_right _]

/-! ## STEP_RETIRE -/

/-- At the last replay a cell does not overflow (R64). -/
theorem accumulate_saturating {saturating : Bool} (h : saturating = true) (m : Int) (c : Cell) (ps : List (Val × Val)) :
    (accumulate saturating m c ps).2.1 = false := by
  subst h
  unfold accumulate
  simp only [if_true]
  split_ifs <;> rfl

/-- At an earlier turn no cell saturates (R62). -/
theorem accumulate_overflowing {saturating : Bool} (h : saturating = false) (m : Int) (c : Cell) (ps : List (Val × Val)) :
    (accumulate saturating m c ps).2.2 = false := by
  subst h
  unfold accumulate
  simp only [Bool.false_eq_true, if_false]
  split_ifs <;> rfl

/-- A step overflows no cell at the last replay, and saturates none before it. -/
theorem retireCells_flags (m : Mod) (g a : Nat) (p : Pass) (n : Nat) (cells : Sparse Cell) :
    (p.replays = 4 → (retireCells m g a p n cells).2.1 = false) ∧ (p.replays ≠ 4 → (retireCells m g a p n cells).2.2 = false) := by
  unfold retireCells
  generalize List.range 1024 = cs
  refine List.foldlRecOn (motive := fun acc : Sparse Cell × Bool × Bool =>
    (p.replays = 4 → acc.2.1 = false) ∧ (p.replays ≠ 4 → acc.2.2 = false)) _ _ ⟨fun _ => rfl, fun _ => rfl⟩ ?_
  rintro acc ⟨hov, hsat⟩ x -
  simp only
  split
  · exact ⟨hov, hsat⟩
  · exact ⟨fun h => Bool.or_eq_false_iff.2 ⟨hov h, accumulate_saturating (beq_iff_eq.2 h) ..⟩,
      fun h => Bool.or_eq_false_iff.2 ⟨hsat h, accumulate_overflowing (beq_false_of_ne h) ..⟩⟩

/-- What a retired step leaves of its pass: the count of the Asterism, and SAT once a cell has saturated. -/
def countStep (a : Nat) (p : Pass) (sat : Bool) (q : Pass) : Pass :=
  if q.slot = p.slot then { q with retired := sset 0 q.retired a (sget 0 p.retired a + 1), sat := q.sat || sat } else q

theorem countStep_self (a : Nat) (p : Pass) (sat : Bool) :
    countStep a p sat p = { p with retired := sset 0 p.retired a (sget 0 p.retired a + 1), sat := p.sat || sat } := if_pos rfl

/-- The gang after a cell of a pass has overflowed. -/
def discardFrom (id : Nat) (x : Gang) : Gang := { x with passes := overflowPass id x.passes }

/-- The cells of a step written, the step counted. -/
def writeStep (g a : Nat) (gg : Gang) (p : Pass) (cells : Sparse Cell) (sat : Bool) (m : Mod) : Mod :=
  modGang (modEngine m g fun e => { e with cells := cells }) g gg.base (modPass p.id (countStep a p sat))

@[simp] theorem cells_writeStep (g a : Nat) (gg : Gang) (p : Pass) (cells : Sparse Cell) (sat : Bool) (m : Mod) :
    (engine (writeStep g a gg p cells sat m) g).cells = cells := by simp [writeStep]

theorem counted_mem_writeStep {m : Mod} {g : Nat} {gg : Gang} (h : gg ∈ (engine m g).gangs) (a : Nat) (p : Pass)
    (cells : Sparse Cell) (sat : Bool) :
    modPass p.id (countStep a p sat) gg ∈ (engine (writeStep g a gg p cells sat m) g).gangs :=
  updated_mem_modGang _ (by simpa using h) rfl

/-- A step writes its cells and is counted; an overflow discards besides. -/
theorem stepRetire_eq {m : Mod} {g a : Nat} {gg : Gang} {p : Pass} {cells : Sparse Cell} {ov sat : Bool} (t : Clk)
    (hg : gangAt (engine m g) a = some gg) (hp : retiring a false gg.passes = some (p, false)) (hf : p.faulted = false)
    (hr : retireCells m g a p (sget 0 p.retired a) (engine m g).cells = (cells, ov, sat)) :
    stepRetire g a t m = if ov then modGang (writeStep g a gg p cells sat m) g gg.base (discardFrom p.id)
      else writeStep g a gg p cells sat m := by
  simp only [stepRetire, hg, hp, hf, hr, Bool.false_eq_true, or_self, if_false]
  rfl

/-- An overflow discards the pass and the later ones begun. -/
theorem overflowPass_split {before after : List Pass} {p : Pass} {id : Nat} (hp : p.id = id) (hid : ∀ q ∈ before, q.id ≠ id) :
    overflowPass id (before ++ p :: after) = before ++ { p with st := .overflowed }
      :: after.map fun q => if q.injected = 0 then q else { q with st := .overflowed } := by
  induction before with
  | nil => simp [overflowPass, hp]
  | cons b r ih =>
    obtain ⟨hb, hr⟩ := List.forall_mem_cons.1 hid
    simp [overflowPass, hb, ih hr]

/-! ## REPLAY_START -/

/-- The passes of a gang that start again. -/
def overflowed (gg : Gang) : List Pass := gg.passes.filter fun p => p.st == .overflowed

/-- The slots of the passes that start again cleared of their cells. -/
def clearOverflowed (g : Nat) (gg : Gang) (m : Mod) : Mod :=
  (overflowed gg).foldl (fun m p => modEngine m g (clearSlot (members gg) p.slot)) m

/-- The gang with the passes started again: M + 6 in their slots, no fence left to wait for a step issued. -/
def restartGang (hit : List Pass) (x : Gang) : Gang :=
  hit.foldl (fun y p => modSlot p.slot (fun i => { i with m := i.m + 6 }) y)
    { x with passes := restart false x.passes, drains := x.drains.map fun d => { d with after := d.after.map fun s => (s.1, s.2.1, 0) } }

theorem replayStart_eq {m : Mod} {g base : Nat} {gg : Gang} {p : Pass} (t : Clk) (hg : gangOf (engine m g) base = some gg)
    (hp : p ∈ gg.passes) (hst : p.st = .overflowed) (hall : gg.passes.all (allRetired (members gg)) = true) :
    replayStart g base t m = countEv (modGang (clearOverflowed g gg m) g base (restartGang (overflowed gg))) g 0x05 1 := by
  have hhit : p ∈ overflowed gg := List.mem_filter.2 ⟨hp, beq_iff_eq.2 hst⟩
  have hready : ¬ ((overflowed gg).isEmpty = true ∨ ¬ gg.passes.all (allRetired (members gg)) = true) :=
    not_or.2 ⟨fun hnone => List.ne_nil_of_mem hhit (List.isEmpty_iff.1 hnone), not_not_intro hall⟩
  unfold replayStart
  rw [hg]
  exact if_neg hready

@[simp] theorem gangs_clearOverflowed (g : Nat) (gg : Gang) (m : Mod) :
    (engine (clearOverflowed g gg m) g).gangs = (engine m g).gangs :=
  List.foldlRecOn (motive := fun u : Mod => (engine u g).gangs = (engine m g).gangs) _ _ rfl
    fun u h p _ => by simpa [clearSlot] using h

@[simp] theorem restartGang_base (hit : List Pass) (x : Gang) : (restartGang hit x).base = x.base :=
  List.foldlRecOn (motive := fun y : Gang => y.base = x.base) _ _ rfl fun _ h _ _ => h

@[simp] theorem restartGang_passes (hit : List Pass) (x : Gang) : (restartGang hit x).passes = restart false x.passes :=
  List.foldlRecOn (motive := fun y : Gang => y.passes = restart false x.passes) _ _ rfl fun _ h _ _ => h

/-- Behind a pass that runs again the overflowed ones start anew. -/
theorem restart_again (ps : List Pass) : restart true ps = ps.map fun q =>
    if q.st = .overflowed then { q with st := .running, injected := 0, retired := [], m := none } else q := by
  induction ps with
  | nil => rfl
  | cons p r ih => by_cases h : p.st = .overflowed <;> simp [restart, h, ih]

/-- The first overflowed pass runs again with M + 6 and one more replay (R63). -/
theorem restart_first {ok rest : List Pass} {p : Pass} (hok : ∀ q ∈ ok, q.st ≠ .overflowed) (hp : p.st = .overflowed) :
    restart false (ok ++ p :: rest) = ok
      ++ { p with st := .running, injected := 0, retired := [], m := p.m.map (· + 6), replays := p.replays + 1 }
      :: restart true rest := by
  induction ok with
  | nil => simp [restart, hp]
  | cons q r ih =>
    obtain ⟨hq, hr⟩ := List.forall_mem_cons.1 hok
    simp [restart, hq, ih hr]

/-! ## PASS_RETIRE -/

section
variable {α : Type} (f : Mod → α) (hf : ∀ m g h, f (modEngine m g h) = f m)
include hf

/-- Events and trace records reach nothing but the engines. -/
theorem countEv_outside (m : Mod) (g code n : Nat) : f (countEv m g code n) = f m := by
  unfold countEv
  split_ifs
  · rfl
  · refine List.foldlRecOn (motive := fun u => f u = f m) _ _ rfl fun u hu c _ => ?_
    split_ifs
    · rw [hf, hu]
    · exact hu

theorem tracePut_outside (t : Clk) (m : Mod) (g : Nat) (r : BitVec 128) : f (tracePut t m g r) = f m := by
  unfold tracePut
  simp only
  split_ifs
  · rw [countEv_outside f hf, hf]
  · exact hf ..

theorem trace_outside (t : Clk) (g task kind arg : Nat) (cls : Option Nat) (m : Mod) : f (trace t g task kind arg cls m) = f m := by
  unfold trace
  simp only
  split_ifs <;> simp only [tracePut_outside f hf, hf]

theorem tracePass_outside (t : Clk) (g : Nat) (p : Pass) (retire : Bool) (m : Mod) : f (tracePass t g p retire m) = f m :=
  trace_outside f hf ..
end

theorem undisturbed_tracePass (t : Clk) (g : Nat) (p : Pass) (retire : Bool) (m : Mod) :
    Undisturbed m (tracePass t g p retire m) := Still.trace ..

/-- The gang once its first pass has left its result. -/
def leaveResult (p : Pass) (rest : List Pass) (x : Gang) : Gang :=
  modSlot p.slot (fun _ => retiredSlot p) { x with passes := rest, drains := raiseDrain p x.drains, lastM := p.m }

@[simp] theorem slotInfo_leaveResult (p : Pass) (rest : List Pass) (x : Gang) :
    slotInfo (leaveResult p rest x) p.slot = retiredSlot p := by
  simp [slotInfo, leaveResult, modSlot]

/-- SAT of a pass marks its program (R64). -/
def markProgram (p : Pass) (k : Nat) (m : Mod) : Mod := if p.sat then modProg m k fun q => { q with sat := true } else m

@[simp] theorem markProgram_pwr (p : Pass) (k : Nat) (m : Mod) : (markProgram p k m).pwr = m.pwr := by
  unfold markProgram
  split_ifs <;> rfl

theorem undisturbed_markProgram (p : Pass) (k : Nat) (m : Mod) : Undisturbed m (markProgram p k m) :=
  Still.ite (Still.of_eng rfl rfl) (Still.refl m)

theorem prog_markProgram {p : Pass} {k : Nat} {m : Mod} {x : Program} (hsat : p.sat = true)
    (h : (partSt (markProgram p k m) k).prog = some x) : x.sat = true := by
  simp only [markProgram, hsat, if_true, modProg, partSt_modPart, Option.map_eq_some_iff] at h
  obtain ⟨y, -, rfl⟩ := h
  rfl

@[simp] theorem grants_returnLeave (m : Mod) (g id : Nat) : sget 0 (gov (returnLeave m g id) g).grants id = 0 := by
  simp [returnLeave]

/-- The last part of a pass: its result, its leave, SAT and the trace record. -/
theorem passRetire_eq {m : Mod} {g base : Nat} {gg : Gang} {p : Pass} {rest : List Pass} (t : Clk)
    (hg : gangOf (engine m g) base = some gg) (hps : gg.passes = p :: rest) (hst : p.st = .running) (hf : p.faulted = false)
    (hinj : p.injected = totalSteps p) (hrest : p.rest = 0) (hall : allRetired (members gg) p = true) :
    passRetire g base t m = tracePass t g p true (markProgram p (ctx m g (p.task % 4)).part
      (returnLeave (modGang m g base (leaveResult p rest)) (g / 16) p.leave)) := by
  have hret : passRetire g base t m = retirePass t g gg p rest m := by simp [passRetire, hg, hps, hst, hf, hinj, hall]
  have hctx : ctx (returnLeave (modGang m g base (leaveResult p rest)) (g / 16) p.leave) g (p.task % 4) = ctx m g (p.task % 4) :=
    ctx_modGang ..
  rw [hret, ← hctx, ← base_of_gangOf hg]
  simp only [retirePass, hrest, if_true]
  rfl

/-! ## The rows -/

theorem settles_onEng {f : Clk → Mod → Mod} {s : State} {P : Mod → Prop} (h : P (f s.clk s.m)) : Settles s (onEng f s) P :=
  ⟨_, rfl, h⟩

theorem settlesAll_onAll {f : Clk → Mod → Mod} {s : State} {P : Mod → Prop} (h : P (f s.clk s.m)) : SettlesAll s (onAll f s) P :=
  ⟨_, rfl, h⟩

theorem exec_stepRetire (e : Eng) (a : Ast) (s : State) : exec (.stepRetire e a) s = onEng (stepRetire e.val a.val) s := rfl

theorem exec_replayStart (e : Eng) (base : Ast) (s : State) :
    exec (.replayStart e base) s = onEng (replayStart e.val base.val) s := rfl

theorem exec_passRetire (e : Eng) (base : Ast) (s : State) :
    exec (.passRetire e base) s = onAll (passRetire e.val base.val) s := rfl

end Sys2Proof.Machine

namespace Sys2Proof
open Machine

/-- Settles O20: the gang of the Asterism counts the step, and on an overflow discards from its pass on. -/
theorem stepsRetire : Obligations.StepsRetire := by
  unfold Obligations.StepsRetire
  intro e a gg p before after s hgang hnext hok hpasses hid
  obtain ⟨hlast, hearlier⟩ := retireCells_flags s.m e a p (sget 0 p.retired a) (engine s.m e).cells
  generalize hr : retireCells s.m e a p (sget 0 p.retired a) (engine s.m e).cells = r at hlast hearlier ⊢
  obtain ⟨cells, ov, sat⟩ := r
  rw [exec_stepRetire]
  refine settles_onEng ?_
  rw [stepRetire_eq s.clk hgang hnext hok hr]
  have hcounted := counted_mem_writeStep (mem_gangs_of_gangAt hgang) a p cells sat
  have hcount := passes_modPass (countStep a p sat) hpasses hid
  rw [countStep_self] at hcount
  cases ov with
  | false => exact ⟨cells_writeStep .., rfl, ⟨_, hcounted, rfl, hcount⟩, hlast, hearlier⟩
  | true =>
    have hbefore : ∀ q ∈ before, q.id ≠ p.id := fun q hq => hid q (List.mem_append_left _ hq)
    refine ⟨(cells_modGang ..).trans (cells_writeStep ..), rfl, ⟨_, updated_mem_modGang (discardFrom p.id) hcounted rfl, rfl, ?_⟩,
      hlast, hearlier⟩
    rw [discardFrom, hcount]
    exact overflowPass_split rfl hbefore

/-- Settles O21: `restart` gives the passes of the gang after a replay, `leaveResult` the gang after a retired pass. -/
theorem passesEnd : Obligations.PassesEnd := by
  unfold Obligations.PassesEnd
  refine ⟨?replay, ?retire⟩
  case replay =>
    intro e base gg ok rest p s hgang hpasses hok hst hall
    rw [exec_replayStart]
    refine settles_onEng ?_
    rw [replayStart_eq s.clk hgang (by simp [hpasses]) hst hall]
    have hcleared : gangOf (engine (clearOverflowed e gg s.m) e) base = some gg := by
      rw [gangOf, gangs_clearOverflowed]
      exact hgang
    refine ⟨restartGang (overflowed gg) gg, ?_, ?_⟩
    · rw [gangOf_of_undisturbed (Still.countEv ..)]
      exact gangOf_modGang (restartGang_base _) hcleared
    · rw [restartGang_passes, hpasses, restart_first hok hst, restart_again]
  case retire =>
    intro e base gg p rest s hgang hpasses hst hok hinj hrest hall
    rw [exec_passRetire]
    refine settlesAll_onAll ?_
    rw [passRetire_eq s.clk hgang hpasses hst hok hinj hrest hall]
    refine ⟨⟨leaveResult p rest gg, ?_, rfl, rfl, slotInfo_leaveResult p rest gg⟩, ?_, fun hsat x hx => ?_⟩
    · rw [gangOf_of_undisturbed (undisturbed_tracePass ..), gangOf_of_undisturbed (undisturbed_markProgram ..),
        gangOf_of_undisturbed (Still.returnLeave ..)]
      exact gangOf_modGang (fun _ => rfl) hgang
    · rw [tracePass_outside (fun m => gov m _) fun _ _ _ => rfl, gov, markProgram_pwr]
      exact grants_returnLeave ..
    · rw [tracePass_outside (fun m => partSt m _) fun _ _ _ => rfl] at hx
      exact prog_markProgram hsat hx

end Sys2Proof
end

/-! # An instruction issues with its leave (R131, R528)

An instruction whose operands are there and whose leave is granted as it asks for it reaches its effect on an undisturbed
state, with its grant; and what the end of an instruction that signals leaves of the module. Then OPX.PASS and DOT.PASS
(R81, R83, R105). -/

section
namespace Sys2Proof.Machine

/-! ## Issue with leave -/

@[simp] theorem ctx_countEv (m : Mod) (g code n h c : Nat) : ctx (countEv m g code n) h c = ctx m h c := by
  unfold countEv
  split_ifs
  · rfl
  · refine List.foldlRecOn (motive := fun u => ctx u h c = ctx m h c) _ _ rfl fun u hu k _ => ?_
    split_ifs
    · exact (ctx_modEngine u g h c (fun e => { e with ecnt := smod {} e.ecnt k fun x => ecntAdd x n }) fun _ => rfl).trans hu
    · exact hu

@[simp] theorem ctx_tracePut (t : Clk) (m : Mod) (g : Nat) (r : BitVec 128) (h c : Nat) :
    ctx (tracePut t m g r) h c = ctx m h c := by
  have hpush := ctx_modEngine m g h c (tracePush r (traceWord t 0x0C g 0 (engine m g).traceLost)) fun e => (Still.tracePush _ _ e).2
  unfold tracePut
  simp only
  split_ifs
  · rw [ctx_countEv, hpush]
  · exact hpush

/-- A trace record leaves the contexts as they are. -/
@[simp] theorem ctx_trace (t : Clk) (g task kind arg : Nat) (cls : Option Nat) (m : Mod) (h c : Nat) :
    ctx (trace t g task kind arg cls m) h c = ctx m h c := by
  have hbase := fun (u : Mod) (v : BitVec 16) => ctx_modEngine u g h c (fun e => { e with timebase := some v }) fun _ => rfl
  unfold trace
  simp only
  split_ifs <;> simp only [ctx_tracePut, hbase]

/-- A trace record touches no governor and nothing that a budget hangs on. -/
@[simp] theorem freeBudget_trace (t : Clk) (g task kind arg : Nat) (cls : Option Nat) (m : Mod) (h : Nat) :
    freeBudget (trace t g task kind arg cls m) h = freeBudget m h :=
  trace_outside (fun m => freeBudget m h) (fun _ _ _ => rfl) ..

@[simp] theorem gov_trace (t : Clk) (g task kind arg : Nat) (cls : Option Nat) (m : Mod) (h : Nat) :
    gov (trace t g task kind arg cls m) h = gov m h :=
  trace_outside (fun m => gov m h) (fun _ _ _ => rfl) ..

@[simp] theorem gov_issuing (g c : Nat) (m : Mod) (h : Nat) : gov (issuing g c m) h = gov m h := rfl

@[simp] theorem gov_traceIssue (t : Clk) (g task idx op : Nat) (m : Mod) (h : Nat) :
    gov (traceIssue t g task idx op m) h = gov m h := by
  unfold traceIssue
  split_ifs
  · exact gov_trace ..
  · rfl

@[simp] theorem freeBudget_modCtx (m : Mod) (g c h : Nat) (f : Ctx → Ctx) : freeBudget (modCtx m g c f) h = freeBudget m h := rfl

@[simp] theorem gov_modCtx (m : Mod) (g c h : Nat) (f : Ctx → Ctx) : gov (modCtx m g c f) h = gov m h := rfl

theorem traceWait_eq (t : Clk) (g c : Nat) (w : LviWord) (m : Mod) {α : Type} (f : Mod → α)
    (hf : ∀ task kind arg cls, f (trace t g task kind arg cls m) = f m) : f (traceWait t m g c w) = f m := by
  unfold traceWait
  simp only
  by_cases hwait : (ctx m g c).st = .missed .wait
  · rw [if_pos hwait, hf]
  · rw [if_neg hwait]

/-- What the grant of an instruction's leave hangs on is the same once its wait is over. -/
theorem granted_pastWait {t : Clk} {g c units : Nat} {w : LviWord} {m : Mod} (h : granted m g c units) :
    granted (pastWait t g c w m) g c units := by
  have hctx : ∀ k d, ctx (traceWait t m g c w) k d = ctx m k d := fun k d => traceWait_eq t g c w m (ctx · k d) fun _ _ _ _ => ctx_trace ..
  have hgov := traceWait_eq t g c w m (gov · (g / 16)) fun _ _ _ _ => gov_trace ..
  have hfree := traceWait_eq t g c w m (freeBudget · (g / 16)) fun _ _ _ _ => freeBudget_trace ..
  obtain ⟨hreq, hunits, hahead⟩ := h
  have hlevel : levelOf (pastWait t g c w m) (taskId g c) = levelOf m (taskId g c) := by
    simp only [levelOf, pastWait, ctx_modCtx, hctx]
    split_ifs with hk
    · rw [hk.1, hk.2]
    · rfl
  refine ⟨?_, ?_, ?_⟩
  · simpa [pastWait, hctx] using hreq
  · simpa [pastWait, hfree] using hunits
  · rw [hlevel]
    simpa [pastWait, hgov] using hahead

/-- The module with an instruction's leave asked for. -/
def leaveAsked (t : Clk) (g task units : Nat) (m : Mod) : Mod := trace t g task 0x06 (units % 65536) (some 3) (fresh m).2

/-- The module with an instruction's leave granted as it is asked for. -/
def leaveGranted (t : Clk) (g task units : Nat) (m : Mod) : Mod :=
  trace t g task 0x06 (units % 65536 + 2 ^ 16) (some 3)
    (modGov (leaveAsked t g task units m) (g / 16) fun x => { x with grants := sset 0 x.grants m.nextId units })

theorem undisturbed_leaveGranted (t : Clk) (g task units : Nat) (m : Mod) : Undisturbed m (leaveGranted t g task units m) :=
  Still.trans (Still.trans (Still.of_eng (m' := (fresh m).2) rfl rfl) (Still.trace ..)) (Still.trans (Still.of_eng rfl rfl) (Still.trace ..))

theorem grants_leaveGranted (t : Clk) (g task units : Nat) (m : Mod) :
    sget 0 (gov (leaveGranted t g task units m) (g / 16)).grants m.nextId = units := by
  simp [leaveGranted]

theorem requestLeave_granted {t : Clk} {g task units : Nat} {m : Mod} (hunits : units ≤ freeBudget m (g / 16))
    (hahead : nothingAhead (gov m (g / 16)).queue (levelOf m task) = true) :
    requestLeave (leaveAsked t g task units m) (g / 16) m.nextId (levelOf m task) units
      = (true, modGov (leaveAsked t g task units m) (g / 16) fun x => { x with grants := sset 0 x.grants m.nextId units }) := by
  have hfree : freeBudget (leaveAsked t g task units m) (g / 16) = freeBudget m (g / 16) := freeBudget_trace ..
  have hgov : gov (leaveAsked t g task units m) (g / 16) = gov m (g / 16) := gov_trace ..
  unfold requestLeave
  rw [hfree, hgov, if_pos ((Bool.and_eq_true _ _).mpr ⟨decide_eq_true hunits, hahead⟩)]

/-- Leave that is granted as it is asked for: the instruction starts with its grant. -/
theorem withLeave_granted {f : Form} {t : Clk} {g c : Nat} {w : LviWord} {m : Mod} (hne : f.leave m g c w ≠ 0)
    (h : granted m g c (f.leave m g c w)) :
    withLeave f t g c w m = startInsn f t g c w m.nextId (leaveGranted t g (taskId g c) (f.leave m g c w) m) := by
  obtain ⟨hreq, hunits, hahead⟩ := h
  have hgrant := requestLeave_granted (t := t) hunits hahead
  unfold leaveAsked at hgrant
  unfold withLeave
  simp only [hne, if_false, hreq]
  rw [show (fresh m).1 = m.nextId from rfl, hgrant]
  rfl

/-- An instruction whose operands and leave are there issues: its effect runs on an undisturbed state, with its grant. -/
theorem attempt_ready {f : Form} {op : Nat} {ext : Option Nat} {g c : Nat} {w : LviWord} {s : State}
    (h : headReady s g c op ext w) (hr : formReady f s g c w) (hport : f.atPort = false) :
    ∃ id u, Undisturbed s.m u ∧ attempt f op ext g c w s.clk s.m = f.eff s.clk g c w id u
      ∧ (f.leave (pastWait s.clk g c w s.m) g c w ≠ 0 →
          sget 0 (gov u (g / 16)).grants id = f.leave (pastWait s.clk g c w s.m) g c w) := by
  obtain ⟨hT, hchk, hmiss, hleave⟩ := hr
  have hpast := pastWait_und s.clk g c w s.m
  have htry : attempt f op ext g c w s.clk s.m = withLeave f s.clk g c w (pastWait s.clk g c w s.m) := by
    rw [attempt_eq f op ext g c w s h, tryIssue_eq f g c w s.clk _ hT hchk hmiss]
  by_cases hne : f.leave (pastWait s.clk g c w s.m) g c w = 0
  · refine ⟨0, _, Still.trans hpast (traceIssue_und s.clk g c w _), ?_, fun hn => absurd hne hn⟩
    rw [htry, withLeave_none f s.clk g c w _ hne, startInsn_here f s.clk g c w 0 _ hport]
  · have hstart := (htry.trans (withLeave_granted hne (granted_pastWait (hleave.resolve_left hne)))).trans
      (startInsn_here f s.clk g c w _ _ hport)
    refine ⟨_, _, Still.trans (Still.trans hpast (undisturbed_leaveGranted ..)) (traceIssue_und s.clk g c w _), hstart, fun _ => ?_⟩
    rw [gov_traceIssue, gov_issuing]
    exact grants_leaveGranted ..

/-! ## The end of an instruction -/

@[simp] theorem gov_putSignal (m : Mod) (task : Nat) (w : LviWord) (count : Nat) (own : Option Nat) (h : Nat) :
    gov (putSignal m task w count own) h = gov m h := by
  unfold putSignal slotSignal
  split
  · rfl
  · rfl
  · rfl
  · simp only
    split
    · rfl
    · split
      · rfl
      · split_ifs <;> rfl

/-- The context of an instruction that ends goes to the next one. -/
theorem pc_advance {m u : Mod} {g c : Nat} (h : stillCtx (ctx u g c) = stillCtx (ctx m g c)) (t : Clk) :
    (ctx (advance t g c u) g c).pc = (moveTo (ctx m g c) ((ctx m g c).pc + 1)).pc := by
  unfold advance
  rw [stillCtx_pc h, stillCtx_pc (advanceTo_moved ..).2.2.2]
  exact stillCtx_pc (moveTo_sees _ _ _ h)

theorem stillEng_advance (t : Clk) (g c : Nat) (m : Mod) (h : Nat) :
    stillEng (engine (advance t g c m) h) = stillEng (engine m h) := (advanceTo_moved ..).2.1 h

theorem gangs_of_stillEng {x y : Engine} (h : stillEng x = stillEng y) : x.gangs = y.gangs := congrArg (·.gangs) h

theorem forming_of_stillEng {x y : Engine} (h : stillEng x = stillEng y) : x.forming = y.forming := congrArg (·.forming) h

/-- Where the stream goes on, the end of an instruction raises no fault. -/
theorem advance_of_next {m u : Mod} {g c : Nat} (h : stillCtx (ctx u g c) = stillCtx (ctx m g c)) (hn : hasNext m g c) (t : Clk) :
    advance t g c u = modCtx u g c fun x => moveTo x ((ctx u g c).pc + 1) := by
  have hmoved : ctx (modCtx u g c fun x => moveTo x ((ctx u g c).pc + 1)) g c = moveTo (ctx u g c) ((ctx u g c).pc + 1) := by simp
  have hpc : (moveTo (ctx u g c) ((ctx u g c).pc + 1)).pc = (moveTo (ctx m g c) ((ctx m g c).pc + 1)).pc := by
    rw [stillCtx_pc h]
    exact stillCtx_pc (moveTo_sees _ _ _ h)
  unfold advance advanceTo
  simp only
  rw [hmoved, if_pos]
  rw [hpc]
  exact Nat.lt_of_lt_of_eq hn (congrArg (·.stream.length) h).symm

/-- The end of an instruction that signals once a work of its own has ended. -/
def signalled (t : Clk) (g c : Nat) (w : LviWord) (id : Nat) (m : Mod) : Mod := advance t g c (putSignal m (taskId g c) w 0 (some id))

theorem pc_signalled {m u : Mod} {g c : Nat} (h : stillCtx (ctx u g c) = stillCtx (ctx m g c)) (t : Clk) (w : LviWord) (id : Nat) :
    (ctx (signalled t g c w id u) g c).pc = (moveTo (ctx m g c) ((ctx m g c).pc + 1)).pc :=
  pc_advance (((Still.putSignal ..).2.2 g c).trans h) t

theorem stillEng_signalled (t : Clk) (g c : Nat) (w : LviWord) (id : Nat) (m : Mod) (h : Nat) :
    stillEng (engine (signalled t g c w id m) h) = stillEng (engine m h) :=
  (stillEng_advance ..).trans ((Still.putSignal ..).2.1 h)

theorem gov_signalled {m u : Mod} {g c : Nat} (h : stillCtx (ctx u g c) = stillCtx (ctx m g c)) (hn : hasNext m g c) (t : Clk)
    (w : LviWord) (id k : Nat) : gov (signalled t g c w id u) k = gov u k := by
  unfold signalled
  rw [advance_of_next (((Still.putSignal ..).2.2 g c).trans h) hn, gov_modCtx, gov_putSignal]

/-! ## Passes enter their gang (R81, R83) -/

/-- A pass enters the forming list, or a gang of its shape and base, with the slot that is its turn there. -/
theorem placePass_enters (p : Pass) (e : Engine) : ∃ n, { p with slot := n } ∈ (placePass p e).forming
    ∨ ∃ gg ∈ (placePass p e).gangs, sameGang gg p.shape p.base = true ∧ { p with slot := n } ∈ gg.passes := by
  have enters : ∀ {gs : List Gang} {gg : Gang}, gg ∈ gs → sameGang gg p.shape p.base = true →
      ∃ hh ∈ gs.map fun gg => if sameGang gg p.shape p.base then enterPass p (partCount (p.k + p.rest)) gg else gg,
        sameGang hh p.shape p.base = true ∧ { p with slot := gg.nextSlot } ∈ hh.passes := fun {_ gg} hgg hsame =>
    ⟨enterPass p (partCount (p.k + p.rest)) gg, List.mem_map.2 ⟨gg, hgg, if_pos hsame⟩, hsame, by simp [enterPass]⟩
  unfold placePass
  simp only
  split_ifs with hforming hgang hform
  · exact ⟨p.slot, Or.inl (by simp)⟩
  · obtain ⟨gg, hgg, hsame⟩ := List.any_eq_true.1 hgang
    exact ⟨gg.nextSlot, Or.inr (enters hgg hsame)⟩
  · exact ⟨0, Or.inr (enters (gg := newGang p.shape p.base []) (by simp [formGang]) (by simp [sameGang, newGang]))⟩
  · exact ⟨p.slot, Or.inl (by simp)⟩

theorem ctx_placePass (p : Pass) (e : Engine) : (placePass p e).ctx = e.ctx := by
  unfold placePass
  simp only
  split_ifs <;> rfl

/-- A pass takes its operands from its word and its context alone. -/
theorem newPass_of_stillCtx {m u : Mod} {g c : Nat} (h : stillCtx (ctx u g c) = stillCtx (ctx m g c)) (w : LviWord) (id grant : Nat) :
    newPass u g c w id grant = newPass m g c w id grant := by
  simp only [newPass, drainDest, cnt, cntPair, counterPair, counter, stillCtx_pc h, stillCtx_ctr h]

/-- A pass that issues takes a number and enters its gang. -/
theorem passForm_eff (t : Clk) (g c : Nat) (w : LviWord) (grant : Nat) (m : Mod) : passForm.eff t g c w grant m =
    signalled t g c w m.nextId (modEngine (fresh m).2 g (placePass (newPass m g c w m.nextId grant))) := rfl

theorem exec_pass {row : (Eng → CtxId → LviWord → Instr) × Nat} (hrow : row ∈ [(Instr.opxPass, 0x40), (Instr.dotPass, 0x60)]) (e : Eng)
    (c : CtxId) (w : LviWord) (s : State) : exec (row.1 e c w) s = onEng (attempt passForm row.2 none e.val c.val w) s := by
  simp only [List.mem_cons, List.not_mem_nil, or_false] at hrow
  obtain rfl | rfl := hrow <;> rfl

end Sys2Proof.Machine

namespace Sys2Proof
open Machine

/-- Settles O17: an instruction with its operands and leave issues, and `placePass` enters the pass it asks for. -/
theorem passEnters : Obligations.PassEnters := by
  unfold Obligations.PassEnters
  intro row hrow e c w s hhead hready hnext
  obtain ⟨grant, u, hund, hattempt, hgrant⟩ := attempt_ready hhead hready rfl
  rw [exec_pass hrow]
  refine settles_onEng ?_
  rw [hattempt, passForm_eff, newPass_of_stillCtx (hund.2.2 e c)]
  generalize hp : newPass s.m e c w u.nextId grant = p
  obtain ⟨n, henters⟩ := placePass_enters p (engine u e)
  have hctx : stillCtx (ctx (modEngine (fresh u).2 e (placePass p)) e c) = stillCtx (ctx s.m e c) := by
    rw [ctx_modEngine _ _ _ _ _ (ctx_placePass p)]
    exact hund.2.2 e c
  have heng : stillEng (engine (signalled s.clk e c w u.nextId (modEngine (fresh u).2 e (placePass p))) e)
      = stillEng (placePass p (engine u e)) := by
    rw [stillEng_signalled, engine_modEngine, if_pos rfl]
    rfl
  refine ⟨pc_signalled hctx .., { p with slot := n }, ?_, ?_⟩ <;> subst hp
  · rw [forming_of_stillEng heng, gangs_of_stillEng heng]
    exact henters
  · refine ⟨rfl, rfl, rfl, rfl, rfl, rfl, rfl, rfl, rfl, rfl, fun hne => ?_⟩
    rw [gov_signalled hctx hnext]
    exact hgrant hne

end Sys2Proof
end

/-! # Drains of a gang (R90, R92, R94)

A drain joins the order of its gang behind the steps issued, and a row of one piece goes to the scratchpad. -/

section
namespace Sys2Proof.Machine

/-! ## Drains join the order of their gang (R90, R92) -/

/-- A drain as an instruction asks for it. -/
def newDrain (m : Mod) (g c : Nat) (w : LviWord) (id : Nat) : Drain where
  id := id
  task := taskId g c
  slot := (drainFields w).slot
  fmt := dfmtCode (drainFields w).dfmt
  sr := (drainFields w).sr
  cols := (drainFields w).cols
  dest := drainDest m g c (drainFields w).cd (drainFields w).ddest
  word := w
  idx := (ctx m g c).pc

/-- A drain takes its operands from its word and its context alone. -/
theorem newDrain_of_stillCtx {m u : Mod} {g c : Nat} (h : stillCtx (ctx u g c) = stillCtx (ctx m g c)) (w : LviWord) (id : Nat) :
    newDrain u g c w id = newDrain m g c w id := by
  simp only [newDrain, drainDest, cnt, cntPair, counterPair, counter, stillCtx_pc h, stillCtx_ctr h]

/-- A drain that issues takes a number and joins the order of its gang. -/
theorem drainForm_eff {t : Clk} {g c : Nat} {w : LviWord} {m : Mod} {gg : Gang} (hg : gangAt (engine m g) (drainFields w).base = some gg)
    (hok : drainOk gg (drainFields w).slot = true) (grant : Nat) : drainForm.eff t g c w grant m =
    signalled t g c w m.nextId (modGang (fresh m).2 g gg.base (askDrain (newDrain m g c w m.nextId))) := by
  simp only [drainForm, deferDrain, hg, hok, not_true, if_false]
  rfl

theorem gangAt_of_undisturbed {m u : Mod} (h : Undisturbed m u) (g a : Nat) : gangAt (engine u g) a = gangAt (engine m g) a := by
  unfold gangAt
  rw [gangs_of_undisturbed h]

/-- The drain stands last in the order, behind the steps the gang has issued. -/
theorem asked_mem_askDrain (d : Drain) (gg : Gang) : ∃ x ∈ (askDrain d gg).drains,
    x = { d with of_ := (drainedPass gg d.slot).map (·.id), after := gg.passes.map fun p => (p.id, p.done, p.injected) } :=
  ⟨_, List.mem_append_right _ (List.mem_singleton.2 rfl), rfl⟩

theorem exec_drain {row : (Eng → CtxId → LviWord → Instr) × Nat} (hrow : row ∈ [(Instr.opxDrain, 0x41), (Instr.dotDrain, 0x61)]) (e : Eng)
    (c : CtxId) (w : LviWord) (s : State) : exec (row.1 e c w) s = onEng (attempt drainForm row.2 none e.val c.val w) s := by
  simp only [List.mem_cons, List.not_mem_nil, or_false] at hrow
  obtain rfl | rfl := hrow <;> rfl

/-! ## DRAIN_ROW_SEND (R94) -/

theorem exec_drainRowSend (e : Eng) (a : Ast) (s : State) : exec (.drainRowSend e a) s = onAll (drainRowSend e.val a.val) s := rfl

/-- A scratchpad write lays down its bytes; beside them it changes the poison of their sectors alone. -/
theorem cells_padWrite (m : Mod) (g off : Nat) (data : List Byte) :
    (padWrite m g off data).mem.cells = (pokes m.mem (padAddr g off) data).cells :=
  List.foldlRecOn (motive := fun u : Mod => u.mem.cells = (pokes m.mem (padAddr g off) data).cells) _ _ rfl fun _ h _ _ => h

theorem eng_padWrite (m : Mod) (g off : Nat) (data : List Byte) : (padWrite m g off data).eng = m.eng :=
  List.foldlRecOn (motive := fun u : Mod => u.eng = m.eng) _ _ rfl fun _ h _ _ => h

theorem peek_of_cells {x y : Mem} (h : x.cells = y.cells) (a : Nat) : peek x a = peek y a := by rw [peek, peek, h]

theorem peeks_of_cells {x y : Mem} (h : x.cells = y.cells) (a n : Nat) : peeks x a n = peeks y a n := by
  induction n generalizing a with
  | zero => rfl
  | succ n ih => rw [peeks, peeks, peek_of_cells h, ih]

theorem peeks_padWrite (m : Mod) (g off : Nat) (data : List Byte) :
    peeks (padWrite m g off data).mem (padAddr g off) data.length = data :=
  (peeks_of_cells (cells_padWrite ..) ..).trans (peeks_pokes ..)

theorem peek_padWrite_outside (m : Mod) (g off : Nat) (data : List Byte) {y : Nat}
    (h : y < padAddr g off ∨ padAddr g off + data.length ≤ y) : peek (padWrite m g off data).mem y = peek m.mem y :=
  (peek_of_cells (cells_padWrite ..) y).trans (peek_pokes_outside _ _ _ _ h)

section
variable {d : Drain} {off : Nat} (hdest : d.dest = .pad off) (hcw : d.cw = none)
include hdest hcw

/-- A drain to the scratchpad without a CW tile sends its rows there, in its own format and rounding. -/
theorem drainTarget_pad : drainTarget d = (.pad off, d.fmt, d.sr) := by
  unfold drainTarget
  rw [hdest, hcw]
  cases d.conv <;> rfl

/-- A row of a format without blocks is one piece. -/
theorem pieces_rowOut_pad (hmx : isMx d.fmt = false) (m : Mod) (g : Nat) (gg : Gang) (a r : Nat) (draw : Option Nat) :
    ∃ p, (rowOut m g gg d a r draw).pieces = [p] := by
  unfold rowOut
  simp only [drainTarget_pad hdest hcw, hmx, Bool.false_eq_true, if_false, plainRow]
  exact ⟨_, rfl⟩

/-- No poison stands in the way of a row that adds to no tile and converts none. -/
theorem rowPoison_pad (m : Mod) (g : Nat) (gg : Gang) (a r : Nat) : rowPoison m g gg d a r = none := by
  unfold rowPoison
  rw [drainTarget_pad hdest hcw, hcw]
  cases d.conv <;> rfl

/-- The row of a drain that is not its last, written and counted. -/
theorem memRow_pad {t : Clk} {g a : Nat} {gg : Gang} {m : Mod} {x : RowOut} {p : Nat × List Byte}
    (hx : rowOut m g gg d a (sget 0 d.rows a) (if d.sr then some m.draw else none) = x) (hp : x.pieces = [p])
    (hmore : ∃ b ∈ members gg, sget 0 (countRow a x d).rows b ≠ 32) (hpin : pinned m g (off + p.1) p.2.length = false) :
    memRow t g gg d a m = modGang (padWrite (if d.sr then { m with draw := m.draw + 32 } else m) g (off + p.1) p.2) g gg.base
      (modDrain d (countRow a x)) := by
  have hlast : ((members gg).all fun b => sget 0 (countRow a x d).rows b == 32) = false := by
    obtain ⟨b, hb, hne⟩ := hmore
    exact List.all_eq_false.2 ⟨b, hb, by simpa using hne⟩
  have haccept : rowAccepted m g gg d (.pad off) [p] false = true := by simp [rowAccepted, accepts, hpin]
  simp only [memRow, drainTarget_pad hdest hcw, rowPoison_pad hdest hcw, hx, hp, hlast, haccept, not_true, if_false, putPieces, putPiece,
    Bool.false_eq_true]

end

/-- A row that may be sent to memory. -/
theorem drainRowSend_eq {t : Clk} {g a off : Nat} {m : Mod} {gg : Gang} {d : Drain} (hg : gangAt (engine m g) a = some gg)
    (hd : nextDrain gg a = some d) (hfence : fenceOpen gg d a = true) (hdest : d.dest = .pad off) :
    drainRowSend g a t m = memRow t g gg d a m := by
  simp only [drainRowSend, hg, hd, hfence, not_true, if_false, hdest]

theorem mem_drains_of_nextDrain {gg : Gang} {a : Nat} {d : Drain} (h : nextDrain gg a = some d) : d ∈ gg.drains := by
  obtain ⟨hfind, -⟩ := Option.filter_eq_some_iff.1 h
  exact List.mem_of_find?_eq_some hfind

theorem updated_mem_modDrain {gg : Gang} {d : Drain} (f : Drain → Drain) (h : d ∈ gg.drains) : f d ∈ (modDrain d f gg).drains :=
  List.mem_map.2 ⟨d, h, if_pos ⟨rfl, rfl⟩⟩

theorem rows_countRow (a : Nat) (x : RowOut) (d : Drain) : sget 0 (countRow a x d).rows a = sget 0 d.rows a + 1 := by
  simp [countRow]

end Sys2Proof.Machine

namespace Sys2Proof
open Machine

/-- Settles O18: `askDrain` puts a drain behind the passes of its gang, and `memRow` writes a row of one piece and counts it. -/
theorem drainsRun : Obligations.DrainsRun := by
  unfold Obligations.DrainsRun
  refine ⟨?ask, ?send⟩
  case ask =>
    intro row hrow e c w gg s hhead hready hgang hok
    obtain ⟨grant, u, hund, hattempt, -⟩ := attempt_ready hhead hready rfl
    have hgangs : gg ∈ (engine (fresh u).2 e).gangs := by
      have := mem_gangs_of_gangAt hgang
      rwa [← gangs_of_undisturbed hund] at this
    rw [exec_drain hrow]
    refine settles_onEng ?_
    rw [hattempt, drainForm_eff ((gangAt_of_undisturbed hund ..).trans hgang) hok, newDrain_of_stillCtx (hund.2.2 e c)]
    obtain ⟨d, hd, hfields⟩ := asked_mem_askDrain (newDrain s.m e c w u.nextId) gg
    have hctx : stillCtx (ctx (modGang (fresh u).2 e gg.base (askDrain (newDrain s.m e c w u.nextId))) e c) = stillCtx (ctx s.m e c) := by
      rw [ctx_modGang]
      exact hund.2.2 e c
    refine ⟨pc_signalled hctx s.clk w u.nextId, askDrain (newDrain s.m e c w u.nextId) gg, ?_, rfl, d, hd, ?_⟩
    · rw [gangs_of_stillEng (stillEng_signalled ..)]
      exact updated_mem_modGang _ hgangs rfl
    · subst hfields
      exact ⟨rfl, rfl, rfl, rfl, rfl, rfl, rfl, rfl⟩
  case send =>
    intro e a gg d off s hgang hd hfence hdest hcw hmx x hmore hpin
    obtain ⟨p, hp⟩ := pieces_rowOut_pad hdest hcw hmx s.m e gg a (sget 0 d.rows a) (if d.sr then some s.m.draw else none)
    rw [exec_drainRowSend]
    refine settlesAll_onAll ?_
    rw [drainRowSend_eq hgang hd hfence hdest, memRow_pad hdest hcw rfl hp hmore (hpin p (by simp [x, hp]))]
    have hdraw : (if d.sr then { s.m with draw := s.m.draw + 32 } else s.m).mem = s.m.mem
        ∧ (if d.sr then { s.m with draw := s.m.draw + 32 } else s.m).eng = s.m.eng := by split_ifs <;> exact ⟨rfl, rfl⟩
    generalize (if d.sr then { s.m with draw := s.m.draw + 32 } else s.m) = m at hdraw ⊢
    obtain ⟨hmem, heng⟩ := hdraw
    have hgangs : gg ∈ (engine (padWrite m e (off + p.1) p.2) e).gangs := by
      rw [engine, eng_padWrite, heng]
      exact mem_gangs_of_gangAt hgang
    refine ⟨⟨p, hp, peeks_padWrite .., fun y hy => ?_⟩, _, updated_mem_modGang _ hgangs rfl, rfl, _,
      updated_mem_modDrain _ (mem_drains_of_nextDrain hd), rfl, rows_countRow ..⟩
    exact (peek_padWrite_outside m e (off + p.1) p.2 hy).trans (congrArg (peek · y) hmem)

end Sys2Proof
end

/-! # Gangs form and steps enter (R82, R88)

What an engine holds once a gang has formed for the passes that waited, and a gang once a further group of steps of a
pass has begun. -/

section
namespace Sys2Proof.Machine

/-! ## GANG_FORM (R82) -/

/-- The first pass that waits for a base heads what a gang of its shape there takes. -/
theorem mem_takeForming {ps : List Pass} {base : Nat} {p : Pass} (hfind : (ps.find? fun q => q.base == base) = some p)
    (hne : takeForming p.shape base ps ≠ []) : p ∈ takeForming p.shape base ps := by
  induction ps with
  | nil => simp at hfind
  | cons q r ih =>
    by_cases hq : q.base = base
    · obtain rfl : q = p := by simpa [hq] using hfind
      simp [takeForming, hq]
    · have hskip : takeForming p.shape base (q :: r) = if overlapMembers (shapeMembers q.shape q.base) (shapeMembers p.shape base) then []
          else takeForming p.shape base r := by
        rw [takeForming, if_neg fun h => hq h.2]
      rw [hskip] at hne ⊢
      split_ifs at hne ⊢ with hover
      · exact absurd rfl hne
      · exact ih (by simpa [hq] using hfind) hne

/-- Passes that enter a gang stand in its order behind the earlier ones, each with the slot that is its turn. -/
theorem enterPasses (ps : List Pass) (gg : Gang) :
    let h := ps.foldl (fun gg q => enterPass q (partCount (q.k + q.rest)) gg) gg
    h.shape = gg.shape ∧ h.base = gg.base ∧ (∀ q ∈ gg.passes, q ∈ h.passes) ∧ ∀ p ∈ ps, ∃ n, { p with slot := n } ∈ h.passes := by
  induction ps generalizing gg with
  | nil => exact ⟨rfl, rfl, fun _ h => h, fun p hp => absurd hp List.not_mem_nil⟩
  | cons p r ih =>
    obtain ⟨hshape, hbase, hkeep, hin⟩ := ih (enterPass p (partCount (p.k + p.rest)) gg)
    refine ⟨hshape, hbase, fun q hq => hkeep q (List.mem_append_left _ hq), fun q hq => ?_⟩
    obtain rfl | hq := List.mem_cons.1 hq
    · exact ⟨gg.nextSlot, hkeep _ (List.mem_append_right _ (List.mem_singleton.2 rfl))⟩
    · exact hin q hq

/-- An engine with the gang of a shape and base formed for the passes given, which wait no more. -/
def formFor (sh : Shape) (base : Nat) (ps : List Pass) (e : Engine) : Engine :=
  let e1 := formGang sh base { e with forming := e.forming.filter fun q => !ps.any fun x => x.id == q.id }
  { e1 with gangs := e1.gangs.map fun gg => if sameGang gg sh base then
      ps.foldl (fun gg q => enterPass q (partCount (q.k + q.rest)) gg) gg else gg }

theorem gangForm_eq {t : Clk} {g base : Nat} {m : Mod} {p : Pass}
    (hfind : ((engine m g).forming.find? fun q => q.base == base) = some p)
    (hne : takeForming p.shape base (engine m g).forming ≠ []) (hform : canForm (engine m g) p.shape base = true) :
    gangForm g base t m = modEngine m g (formFor p.shape base (takeForming p.shape base (engine m g).forming)) := by
  have hgo : ¬ ((takeForming p.shape base (engine m g).forming).isEmpty = true ∨ ¬ canForm (engine m g) p.shape base = true) :=
    not_or.2 ⟨fun h => hne (List.isEmpty_iff.1 h), not_not_intro hform⟩
  unfold gangForm
  simp only [hfind]
  exact if_neg hgo

/-- The new gang holds every pass it formed for. -/
theorem formed_mem_formFor (sh : Shape) (base : Nat) {ps : List Pass} {p : Pass} (hp : p ∈ ps) (e : Engine) :
    ∃ gg ∈ (formFor sh base ps e).gangs, gg.shape = sh ∧ gg.base = base ∧ ∃ n, { p with slot := n } ∈ gg.passes := by
  obtain ⟨hshape, hbase, -, hin⟩ := enterPasses ps (newGang sh base [])
  have hnew : newGang sh base [] ∈ (formGang sh base { e with forming := e.forming.filter fun q => !ps.any fun x => x.id == q.id }).gangs :=
    List.mem_append_right _ (List.mem_singleton.2 rfl)
  exact ⟨_, List.mem_map.2 ⟨_, hnew, if_pos (by simp [sameGang, newGang])⟩, hshape, hbase, hin p hp⟩

theorem forming_formFor (sh : Shape) (base : Nat) {ps : List Pass} {p : Pass} (hp : p ∈ ps) (e : Engine) :
    ∀ q ∈ (formFor sh base ps e).forming, q.id ≠ p.id := by
  intro q hq hid
  have hgone : ∀ x ∈ ps, x.id ≠ q.id := by simpa using (List.mem_filter.1 hq).2
  exact hgone p hp hid.symm

/-- Every gang of another base stood there before. -/
theorem other_mem_formFor {sh : Shape} {base : Nat} {ps : List Pass} {e : Engine} {gg : Gang} (h : gg ∈ (formFor sh base ps e).gangs)
    (hb : gg.base ≠ base) : gg ∈ e.gangs := by
  obtain ⟨x, hx, hgg⟩ := List.mem_map.1 h
  by_cases hsame : sameGang x sh base = true
  · obtain ⟨-, hbase, -⟩ := enterPasses ps x
    have hx : x.base = base := by simpa using ((Bool.and_eq_true _ _).mp hsame).2
    rw [if_pos hsame] at hgg
    exact absurd (hgg ▸ hbase.trans hx) hb
  · rw [if_neg hsame] at hgg
    subst hgg
    obtain hold | hnew := List.mem_append.1 hx
    · exact (List.mem_filter.1 hold).1
    · exact absurd (congrArg (·.base) (List.mem_singleton.1 hnew)) hb

theorem exec_gangForm (e : Eng) (base : Ast) (s : State) : exec (.gangForm e base) s = onEng (gangForm e.val base.val) s := rfl

/-! ## STEP_INJECT (R88) -/

/-- The pass that injects is one of the gang. -/
theorem mem_of_injecting {seen ps before : List Pass} {p : Pass} (h : injecting seen ps = some (before, p)) : p ∈ ps := by
  induction ps generalizing seen with
  | nil => exact absurd h nofun
  | cons q r ih =>
    unfold injecting at h
    split_ifs at h
    · obtain ⟨-, rfl⟩ := Prod.mk.inj (Option.some.inj h)
      exact List.mem_cons_self
    · exact List.mem_cons_of_mem _ (ih h)

/-- The weight registers alone change with the loads of a step. -/
theorem gangs_loadWeights (g : Nat) (p : Pass) (tb : List RunTile) (n : Nat) (m : Mod) :
    (engine (loadWeights g p tb n m) g).gangs = (engine m g).gangs := by
  unfold loadWeights
  split_ifs
  · rfl
  · exact List.foldlRecOn (motive := fun u : Mod => (engine u g).gangs = (engine m g).gangs) _ _ rfl fun u h c _ => by simpa using h

/-- A gang with a further group of n steps of a pass begun, and its attached drain raised behind the last. -/
def begunGang (p : Pass) (mag : Int) (n : Nat) (x : Gang) : Gang :=
  let p' := { p with injected := p.injected + n, read := max p.read (p.injected + n), m := some mag }
  let y := modPass p.id (fun q => if q.slot = p.slot then p' else q) x
  if p.injected + n = totalSteps p then { y with drains := raiseDrain p y.drains } else y

theorem base_begunGang (p : Pass) (mag : Int) (n : Nat) (x : Gang) : (begunGang p mag n x).base = x.base := by
  unfold begunGang
  simp only
  split_ifs <;> rfl

theorem injected_mem_begunGang {gg : Gang} {p : Pass} (h : p ∈ gg.passes) (mag : Int) (n : Nat) :
    ∃ q ∈ (begunGang p mag n gg).passes, q.id = p.id ∧ q.injected = p.injected + n ∧ q.m = some mag := by
  have hpasses : (begunGang p mag n gg).passes = gg.passes.map fun q => if q.id = p.id then (if q.slot = p.slot then
      { p with injected := p.injected + n, read := max p.read (p.injected + n), m := some mag } else q) else q := by
    unfold begunGang
    simp only
    split_ifs <;> rfl
  rw [hpasses]
  exact ⟨_, List.mem_map.2 ⟨p, h, (if_pos rfl).trans (if_pos rfl)⟩, rfl, rfl, rfl⟩

/-- A group of a pass already begun takes its place and is counted; it clears no cell. -/
theorem injectGroup_begun {p : Pass} (hp : 0 < p.injected) (t : Clk) (g : Nat) (gg : Gang) (ta : List RunTile) (mag : Int) (n : Nat)
    (m : Mod) : injectGroup t g gg p ta mag n m = countEv (modGang m g gg.base (begunGang p mag n)) g 0x02 n := by
  have hfirst : ¬ (p.injected = 0 ∧ p.m.isNone = true) := fun h => hp.ne' h.1
  simp only [injectGroup, hfirst, if_false]
  rfl

/-- The steps of a group of a pass whose operands have these formats. -/
def groupSize (p : Pass) (ta tb : List RunTile) : Nat :=
  min (if p.shape = .dot then 1 else max (stepsPerCycle (((ta.head?).map (·.h.fmt)).getD 0)) (stepsPerCycle (((tb.head?).map (·.h.fmt)).getD 0)))
    (totalSteps p - p.injected)

/-- The operands of the next group of a pass already begun are all there. -/
structure GroupReady (m : Mod) (g : Nat) (gg : Gang) (seen : List Pass) (p : Pass) (ta tb : List RunTile) : Prop where
  noneOverflowed : ∀ q ∈ gg.passes, q.st ≠ .overflowed
  noneReplays : ∀ q ∈ seen, q.replays = 0
  begun : 0 < p.injected
  tilesA : runA m g p p.k true = .ok ta
  tilesB : runB m g p p.k true = .ok tb
  pairing : pairingOk p (((ta.head?).map (·.h.fmt)).getD 0) (((tb.head?).map (·.h.fmt)).getD 0) = true
  weights : loadReady (members gg) seen p p.injected = true
  bytes : ∀ r ∈ (List.range (groupSize p ta tb)).flatMap fun i => feedRanges p ta tb (p.injected + i),
    deadRange m g r.1 r.2 = none ∧ notLanded m g r.1 r.2 = false ∧ padPoison m g r.1 r.2 = false

theorem stepInject_ready {m : Mod} {g base : Nat} {gg : Gang} {seen : List Pass} {p : Pass} {ta tb : List RunTile} {mag : Int}
    (hg : gangOf (engine m g) base = some gg) (hnext : injecting [] gg.passes = some (seen, p)) (hmag : p.m = some mag)
    (h : GroupReady m g gg seen p ta tb) (t : Clk) : stepInject g base t m =
      injectGroup t g gg p ta mag (groupSize p ta tb) (loadWeights g p tb p.injected m) := by
  obtain ⟨hover, hreplays, hbegun, hta, htb, hpair, hload, hbytes⟩ := h
  have hstop : ¬ ((gg.passes.any fun q => q.st == .overflowed) = true ∨ (seen.any fun q => q.replays != 0) = true) := by
    simpa using ⟨hover, hreplays⟩
  have hne : p.injected ≠ 0 := hbegun.ne'
  unfold groupSize at hbytes ⊢
  generalize hrs : ((List.range _).flatMap fun i => feedRanges p ta tb (p.injected + i)) = rs at hbytes
  have hdead : (rs.findSome? fun r => deadRange m g r.1 r.2) = none := List.findSome?_eq_none_iff.2 fun r hr => (hbytes r hr).1
  have hlanded : (rs.any fun r => notLanded m g r.1 r.2) = false := List.any_eq_false.2 fun r hr => by simp [(hbytes r hr).2.1]
  have hpoison : (rs.find? fun r => padPoison m g r.1 r.2) = none := List.find?_eq_none.2 fun r hr => by simp [(hbytes r hr).2.2]
  unfold stepInject
  simp only [hg, hnext, hstop, hne, hta, htb, hpair, hmag, hload, hrs, hdead, hlanded, hpoison, false_and, if_false, not_true, or_self,
    List.nil_append, Option.isNone_some, Option.getD_some, Bool.false_eq_true]

theorem exec_stepInject (e : Eng) (base : Ast) (s : State) : exec (.stepInject e base) s = onEng (stepInject e.val base.val) s := rfl

end Sys2Proof.Machine

namespace Sys2Proof
open Machine

/-- Settles O19: `formFor` is the engine with the gang formed, `begunGang` the gang with a further group begun. -/
theorem gangsStep : Obligations.GangsStep := by
  unfold Obligations.GangsStep
  refine ⟨?form, ?inject⟩
  case form =>
    intro e base p s hfind hne hform
    have hp := mem_takeForming hfind hne
    rw [exec_gangForm]
    refine settles_onEng ?_
    rw [gangForm_eq hfind hne hform, engine_modEngine, if_pos rfl]
    obtain ⟨gg, hgg, hshape, hbase, n, hin⟩ := formed_mem_formFor p.shape base.val hp (engine s.m e)
    exact ⟨⟨gg, hgg, hshape, hbase, _, hin, rfl, rfl⟩, forming_formFor _ _ hp _, fun _ => other_mem_formFor⟩
  case inject =>
    intro e base gg p seen ta tb mag s hgang hnext hover hreplays hbegun hmag hta htb fa fb n hpair hload hbytes
    have hready : GroupReady s.m e gg seen p ta tb := ⟨hover, hreplays, hbegun, hta, htb, hpair, hload, hbytes⟩
    have hloaded : gangOf (engine (loadWeights e p tb p.injected s.m) e) base = some gg := by
      rw [gangOf, gangs_loadWeights]
      exact hgang
    obtain ⟨q, hq, hfields⟩ := injected_mem_begunGang (mem_of_injecting hnext) mag n
    rw [exec_stepInject]
    refine settles_onEng ?_
    rw [stepInject_ready hgang hnext hmag hready, injectGroup_begun hbegun, base_of_gangOf hgang, gangOf_of_undisturbed (Still.countEv ..)]
    exact ⟨_, gangOf_modGang (base_begunGang p mag n) hloaded, q, hq, hfields⟩

end Sys2Proof
end

/-! # What waits at the CQ of a ring, and a command with a saturation recorded (R492, R508)

Nothing that follows a command by itself takes an entry back from the CQ of a ring, so the entry of the command says with
which status it completed. -/

section
namespace Sys2Proof.Machine

/-! ## What writes no ring -/

variable {j : Nat}

@[simp] theorem ring_modEngine (m : Mod) (g : Nat) (f : Engine → Engine) : ring (modEngine m g f) j = ring m j := (rfl)

@[simp] theorem ring_modCtx (m : Mod) (g c : Nat) (f : Ctx → Ctx) : ring (modCtx m g c f) j = ring m j := (rfl)

@[simp] theorem ring_modPart (m : Mod) (k : Nat) (f : PartSt → PartSt) : ring (modPart m k f) j = ring m j := (rfl)

@[simp] theorem ring_modExp (m : Mod) (g x : Nat) (f : ExpRound → ExpRound) : ring (modExp m g x f) j = ring m j := (rfl)

@[simp] theorem ring_modXch (m : Mod) (f : Xch → Xch) : ring (modXch m f) j = ring m j := (rfl)

@[simp] theorem ring_modSync (m : Mod) (d i : Nat) (f : SyncObj → SyncObj) : ring (modSync m d i f) j = ring m j := (rfl)

@[simp] theorem ring_logFault (t : Clk) (l : Nat) (e : FEntry) (m : Mod) : ring (logFault t l e m) j = ring m j := (rfl)

@[simp] theorem ring_emit (o : Out) (m : Mod) : ring (emit o m) j = ring m j := (rfl)

@[simp] theorem ring_addCorr (m : Mod) (l : Nat) : ring (addCorr m l) j = ring m j := (rfl)

@[simp] theorem ring_mem (m : Mod) (x : Mem) : ring { m with mem := x } j = ring m j := (rfl)

@[simp] theorem ring_setLine (m : Mod) (line : Nat) (l : Line) : ring (setLine m line l) j = ring m j := (rfl)

theorem ring_foldl {α : Type} {f : Mod → α → Mod} {l : List α} {m : Mod}
    (h : ∀ u x, ring (f u x) j = ring u j) : ring (l.foldl f m) j = ring m j :=
  List.foldlRecOn (motive := fun u : Mod => ring u j = ring m j) _ _ rfl fun u hu x _ => (h u x).trans hu

@[simp] theorem ring_ite (p : Prop) [Decidable p] (a b : Mod) : ring (if p then a else b) j = if p then ring a j else ring b j :=
  apply_ite (ring · j) ..

@[simp] theorem ring_countEv (m : Mod) (g code n : Nat) : ring (countEv m g code n) j = ring m j :=
  countEv_outside (fun m => ring m j) (fun _ _ _ => rfl) ..

@[simp] theorem ring_trace (t : Clk) (g task kind arg : Nat) (cls : Option Nat) (m : Mod) :
    ring (trace t g task kind arg cls m) j = ring m j := trace_outside (fun m => ring m j) (fun _ _ _ => rfl) ..

@[simp] theorem ring_logEngine (t : Clk) (g : Nat) (e : FEntry) (m : Mod) : ring (logEngine t g e m) j = ring m j := ring_trace ..

@[simp] theorem ring_pushSync (m : Mod) (d src obj : Nat) (k : SyncKind) (deps : List Nat) (b : Issuer) :
    ring (pushSync m d src obj k deps b) j = ring m j := (rfl)

@[simp] theorem ring_slotSignal (m : Mod) (k src s : Nat) (deps : List Nat) (b : Issuer) :
    ring (slotSignal m k src s deps b) j = ring m j := by
  fun_cases slotSignal <;> rfl

@[simp] theorem ring_putSignal (m : Mod) (task : Nat) (w : LviWord) (count : Nat) (own : Option Nat) :
    ring (putSignal m task w count own) j = ring m j := by
  fun_cases putSignal <;> simp

@[simp] theorem ring_dropSignals (m : Mod) (id : Nat) : ring (dropSignals m id) j = ring m j := (rfl)

@[simp] theorem ring_returnLeave (m : Mod) (g id : Nat) : ring (returnLeave m g id) j = ring m j := (rfl)

@[simp] theorem ring_returnResv (m : Mod) (g id : Nat) : ring (returnResv m g id) j = ring m j := (rfl)

@[simp] theorem ring_dropPops (e : Engine) (runs : List Nat) (m : Mod) : ring (dropPops e runs m) j = ring m j := (rfl)

@[simp] theorem ring_returnDescs (e : Engine) (g : Nat) (runs : List Nat) (m : Mod) : ring (returnDescs e g runs m) j = ring m j := by
  unfold returnDescs
  exact ring_foldl (fun _ _ => rfl)

@[simp] theorem ring_resetQueues (m : Mod) (task : Nat) : ring (resetQueues m task) j = ring m j := by
  unfold resetQueues
  simp only
  rw [ring_foldl ring_dropSignals]
  simp

@[simp] theorem ring_stopTask (m : Mod) (task : Nat) (st : CtxSt) (fl : Option (BitVec 16 × Byte × W64)) :
    ring (stopTask m task st fl) j = ring m j := by
  unfold stopTask
  simp only
  split <;> split <;> rfl

@[simp] theorem ring_dropCollects (m : Mod) (task : Nat) : ring (dropCollects m task) j = ring m j := by
  unfold dropCollects
  exact ring_foldl (fun _ _ => rfl)

@[simp] theorem ring_stopChain (m : Mod) (k n : Nat) (fl : Option (BitVec 16 × Byte × W64)) : ring (stopChain m k n fl) j = ring m j := (rfl)

@[simp] theorem ring_stopTaskChains (m : Mod) (task : Nat) (fl : Option (BitVec 16 × Byte × W64)) :
    ring (stopTaskChains m task fl) j = ring m j := by
  unfold stopTaskChains
  exact ring_foldl (fun _ _ => rfl)

@[simp] theorem ring_failTask (t : Clk) (task : Nat) (reason : Byte) (log : Nat) (m : Mod) :
    ring (failTask t task reason log m) j = ring m j := by
  simp [failTask]

@[simp] theorem ring_faultTask (t : Clk) (task : Nat) (typ reason : Byte) (addr info : W64) (poison : Bool) (m : Mod) :
    ring (faultTask t task typ reason addr info poison m) j = ring m j := by
  simp [faultTask]

@[simp] theorem ring_faultPoison (t : Clk) (task addr : Nat) (m : Mod) : ring (faultPoison t task addr m) j = ring m j := ring_faultTask ..

@[simp] theorem ring_faultAccess (t : Clk) (task : Nat) (e : XErr) (m : Mod) : ring (faultAccess t task e m) j = ring m j := ring_failTask ..

@[simp] theorem ring_modCmd (m : Mod) (sq tag : Nat) (f : Cmd → Cmd) : ring (modCmd m sq tag f) j = ring m j := (rfl)

@[simp] theorem ring_faultCmd (m : Mod) (sq tag log : Nat) (r : Byte) : ring (faultCmd m sq tag log r) j = ring m j := (rfl)

@[simp] theorem ring_discardRuns (sq tag : Nat) (m : Mod) : ring (discardRuns sq tag m) j = ring m j := by
  unfold discardRuns
  refine ring_foldl (fun _ _ => ?_)
  simp

@[simp] theorem ring_faultIssuer (t : Clk) (b : Issuer) (reason : Byte) (log : Nat) (m : Mod) :
    ring (faultIssuer t b reason log m) j = ring m j := by
  cases b <;> simp [faultIssuer]

@[simp] theorem ring_faultBy (t : Clk) (g : Nat) (b : Issuer) (typ reason : Byte) (addr info : W64) (m : Mod) :
    ring (faultBy t g b typ reason addr info m) j = ring m j := by
  cases b <;> simp [faultBy]

/-! ### Copies and collects -/

@[simp] theorem ring_padWrite (m : Mod) (g off : Nat) (data : List Byte) : ring (padWrite m g off data) j = ring m j := by
  unfold padWrite
  exact ring_foldl (fun _ _ => rfl)

@[simp] theorem ring_zeroBuffer (s : Shard) (m : Mod) : ring (zeroBuffer s m) j = ring m j := by
  unfold zeroBuffer
  exact ring_foldl (fun _ _ => rfl)

@[simp] theorem ring_modProg (m : Mod) (k : Nat) (f : Program → Program) : ring (modProg m k f) j = ring m j := (rfl)

@[simp] theorem ring_runCollect (t : Clk) (c : Collect) (m : Mod) : ring (runCollect t c m) j = ring m j := by
  unfold runCollect
  split <;> simp

@[simp] theorem ring_sectorPoison (m : Mod) (a n : Nat) (b : Bool) : ring (sectorPoison m a n b) j = ring m j := by
  unfold sectorPoison
  exact ring_foldl (fun _ _ => rfl)

@[simp] theorem ring_writePlace (m : Mod) (p : Place) (data : List Byte) (b : Bool) : ring (writePlace m p data b) j = ring m j := by
  unfold writePlace
  cases p <;> simp

@[simp] theorem ring_putCopyAt (p : Place) (bs : List Byte) (b : Bool) (m : Mod) : ring (putCopyAt p bs b m) j = ring m j := by
  unfold putCopyAt
  exact ring_foldl (fun _ _ => ring_writePlace ..)

@[simp] theorem ring_dropVop (g id : Nat) (m : Mod) : ring (dropVop g id m) j = ring m j := (rfl)

@[simp] theorem ring_logCopyDrop (t : Clk) (task part : Nat) (d : Nat × Bool × Nat) (off : Nat) (m : Mod) :
    ring (logCopyDrop t task part d off m) j = ring m j := (rfl)

/-- The module of a pair that a function answers. -/
theorem ring_of_fst {β : Type} {r : Mod × β} {m u : Mod} {b : β} (h : r = (u, b)) (hr : ring r.1 j = ring m j) : ring u j = ring m j := by
  rw [← hr, h]

/-- A fold over a module and what it gathers beside it. -/
theorem ring_foldl_fst {α β : Type} {f : Mod × β → α → Mod × β} {l : List α} {acc : Mod × β}
    (h : ∀ acc x, ring (f acc x).1 j = ring acc.1 j) : ring (l.foldl f acc).1 j = ring acc.1 j :=
  List.foldlRecOn (motive := fun u : Mod × β => ring u.1 j = ring acc.1 j) _ _ rfl fun u hu x _ => (h u x).trans hu

@[simp] theorem ring_runMcast (t : Clk) (g : Nat) (v : VOp) (m : Mod) : ring (runMcast t g v m) j = ring m j := by
  unfold runMcast
  simp only
  generalize hr : List.foldl _ (m, ([] : List Nat), ([] : List ((Nat × Bool × Nat) × Nat))) _ = r
  have hcopies : ring r.1 j = ring m j := by
    rw [← hr]
    refine ring_foldl_fst fun acc i => ?_
    split
    · rfl
    · split_ifs
      · rfl
      · exact ring_foldl fun _ _ => ring_putCopyAt ..
  split
  · simp [hcopies]
  · rw [ring_failTask, ring_foldl fun _ _ => ring_logCopyDrop .., ring_dropSignals]
    simp [hcopies]

/-! ### Writes of a requester -/

@[simp] theorem ring_ctlFault (t : Clk) (p : Place) (typ reason : Byte) (addr : Nat) (info : W64) (m : Mod) :
    ring (ctlFault t p typ reason addr info m) j = ring m j := by
  simp [ctlFault]

@[simp] theorem ring_integrityEvent (t : Clk) (p : Place) (m : Mod) : ring (integrityEvent t p m) j = ring m j := by
  unfold integrityEvent
  simp only
  split <;> simp

@[simp] theorem ring_checkLine (t : Clk) (m : Mod) (p : Place) (ecc : Ecc) : ring (checkLine t m p ecc).1 j = ring m j := by
  fun_cases checkLine <;> simp +zetaDelta

@[simp] theorem ring_partialCheck (t : Clk) (m : Mod) (p : Place) (n : Nat) (ecc : Ecc) : ring (partialCheck t m p n ecc).1 j = ring m j := by
  unfold partialCheck
  split
  · split_ifs <;> simp
  · split_ifs <;> simp
  · rfl

@[simp] theorem ring_logErr (t : Clk) (rq : Req) (e : XErr) (m : Mod) : ring (logErr t rq e m) j = ring m j := by
  simp [logErr]

@[simp] theorem ring_applySignal (t : Clk) (die idx count : Nat) (m : Mod) : ring (applySignal t die idx count m) j = ring m j := by
  simp [applySignal]

theorem ring_writeSpans (t : Clk) (rq : Req) (ecc : Ecc) (m : Mod) (l : List (Nat × Nat)) :
    ring (writeSpans t rq ecc m l).1 j = ring m j := by
  fun_induction writeSpans t rq ecc m l
  case case7 hcheck => exact ring_of_fst hcheck (ring_partialCheck ..)
  case case8 hcheck _ _ hrest ih => exact (ring_of_fst hrest ih).trans (ring_of_fst hcheck (ring_partialCheck ..))
  case case9 hcheck _ _ hrest ih => exact (ring_of_fst hrest ih).trans (ring_of_fst hcheck (ring_partialCheck ..))
  all_goals rfl

theorem ring_applySpans (t : Clk) (poisoned : Bool) (m : Mod) (data : List Byte) (l : List (Place × Nat)) :
    ring (applySpans t poisoned m data l) j = ring m j := by
  induction l generalizing m data with
  | nil => rfl
  | cons x r ih =>
    obtain ⟨p, n⟩ := x
    unfold applySpans
    rw [ih]
    cases p <;> simp

@[simp] theorem ring_writeMem (t : Clk) (m : Mod) (rq : Req) (a : Nat) (data : List Byte) (poisoned : Bool) (ecc : Ecc) :
    ring (writeMem t m rq a data poisoned ecc).1 j = ring m j := by
  have hspans := ring_writeSpans (j := j) t rq ecc m (spans a data.length)
  unfold writeMem
  split
  next heq => exact (ring_logErr ..).trans (ring_of_fst heq hspans)
  next heq => exact (ring_applySpans ..).trans (ring_of_fst heq hspans)

@[simp] theorem ring_paramWrite (t : Clk) (r : Requester) (part : Nat) (peerOk : Bool) (s : Shard) (off : Nat) (first : Bool)
    (bs : List Byte) (m : Mod) : ring (paramWrite t r part peerOk s off first bs m).1 j = ring m j := by
  unfold paramWrite
  simp only
  split_ifs <;> simp

@[simp] theorem ring_arrivalSignal (t : Clk) (part : Nat) (s : Shard) (m : Mod) : ring (arrivalSignal t part s m) j = ring m j := by
  unfold arrivalSignal
  split <;> simp

@[simp] theorem ring_runReplica (t : Clk) (g : Nat) (v : VOp) (m : Mod) : ring (runReplica t g v m) j = ring m j := by
  unfold runReplica
  simp only
  split
  · rfl
  · split_ifs
    · rfl
    · split
      next hwrite =>
        rw [ring_faultAccess, ring_dropSignals]
        exact (ring_of_fst hwrite (ring_paramWrite ..)).trans (ring_dropVop ..)
      next hwrite =>
        rw [ring_arrivalSignal]
        exact (ring_of_fst hwrite (ring_paramWrite ..)).trans (ring_dropVop ..)

/-! ### Tokens -/

@[simp] theorem ring_gridPut (m : Mod) (g base row fmt t off : Nat) (bs : List Byte) : ring (gridPut m g base row fmt t off bs) j = ring m j := by
  unfold gridPut
  refine ring_foldl fun _ _ => ?_
  simp

@[simp] theorem ring_putToken (g : Nat) (b : Bank) (x : Expert) (slot : Nat) (k : Packet) (m : Mod) :
    ring (putToken g b x slot k m) j = ring m j := ring_gridPut ..

@[simp] theorem ring_countTokenDrop (part : Nat) (m : Mod) : ring (countTokenDrop part m) j = ring m j := (rfl)

@[simp] theorem ring_setTicket (m : Mod) (g n : Nat) (x : Option Ticket) : ring (setTicket m g n x) j = ring m j := (rfl)

@[simp] theorem ring_setCnt (g c i : Nat) (v : W32) (m : Mod) : ring (setCnt g c i v m) j = ring m j := (rfl)

@[simp] theorem ring_completeRound (t : Clk) (g n : Nat) (b : Bank) (x : Expert) (m : Mod) : ring (completeRound t g n b x m) j = ring m j := by
  unfold completeRound
  simp only [ring_applySignal, ring_modExp]
  rw [ring_foldl fun _ _ => ring_padWrite .., ring_padWrite, ring_padWrite, ring_foldl fun _ _ => ring_gridPut ..]

@[simp] theorem ring_finishTicket (g n : Nat) (m : Mod) : ring (finishTicket g n m) j = ring m j := by
  unfold finishTicket
  split
  · rfl
  · simp only
    split_ifs
    · rfl
    · split <;> simp
    · split <;> simp

@[simp] theorem ring_dropToken (t : Clk) (port part : Nat) (k : Packet) (m : Mod) : ring (dropToken t port part k m) j = ring m j := (rfl)

/-- What a packet does at its engine writes no ring. -/
def KeepsRing (j : Nat) (m : Mod) : Vc2 → Prop
  | .done u => ring u j = ring m j
  | .reply _ u => ring u j = ring m j
  | .held => True
  | .pinned => True

theorem keepsRing_tokenAt (part g n : Nat) (x : Expert) (k : Packet) (m : Mod) : KeepsRing j m (tokenAt part g n x k m) := by
  fun_cases tokenAt <;> simp +zetaDelta [KeepsRing]

theorem keepsRing_tokenRetAt (g : Nat) (k : Packet) (m : Mod) : KeepsRing j m (tokenRetAt g k m) := by
  fun_cases tokenRetAt <;> simp +zetaDelta [KeepsRing]

theorem keepsRing_tokenDropAt (g : Nat) (k : Packet) (m : Mod) : KeepsRing j m (tokenDropAt g k m) := by
  fun_cases tokenDropAt <;> simp [KeepsRing]

theorem keepsRing_tokenEndAt (t : Clk) (g : Nat) (k : Packet) (m : Mod) : KeepsRing j m (tokenEndAt t g k m) := by
  unfold tokenEndAt
  simp only
  split_ifs
  · trivial
  · trivial
  · refine ring_foldl fun _ _ => ?_
    simp

theorem keepsRing_vc2At (t : Clk) (port part : Nat) (k : Packet) (m : Mod) : KeepsRing j m (vc2At t port part k m) := by
  unfold vc2At
  simp only
  split_ifs
  · rfl
  · split
    · split
      · split_ifs
        · exact keepsRing_tokenAt ..
        · rfl
      · rfl
    · exact keepsRing_tokenRetAt ..
    · exact keepsRing_tokenDropAt ..
    · exact keepsRing_tokenEndAt ..

@[simp] theorem ring_sendOn (m : Mod) (p : Nat) (x : TxPkt) : ring (sendOn m p x) j = ring m j := (rfl)

@[simp] theorem ring_sendReply (part : Nat) (k : Packet) (m : Mod) : ring (sendReply part k m) j = ring m j := by
  unfold sendReply
  split <;> simp

theorem ring_vc2Arrive (t : Clk) (port part fuel : Nat) (k : Packet) (w : Option (Nat × Nat)) (m : Mod) :
    ring (vc2Arrive t port part fuel k w m) j = ring m j := by
  induction fuel generalizing k w m with
  | zero => rfl
  | succ fuel ih =>
    have hat := keepsRing_vc2At (j := j) t port part k m
    unfold vc2Arrive
    simp only
    split
    · rfl
    · rfl
    · generalize vc2At t port part k m = v at hat
      cases v with
      | done u => exact hat
      | held => rfl
      | pinned => rfl
      | reply a u =>
        simp only [ring_ite, ih, ring_sendReply, ite_self]
        exact hat

@[simp] theorem ring_arriveAt (t : Clk) (port part : Nat) (k : Packet) (w : Option (Nat × Nat)) (m : Mod) :
    ring (arriveAt t port part k w m) j = ring m j := ring_vc2Arrive ..

@[simp] theorem ring_releaseHeld (t : Clk) (g n : Nat) (m : Mod) : ring (releaseHeld t g n m) j = ring m j := by
  unfold releaseHeld
  exact ring_foldl fun _ _ => ring_arriveAt ..

@[simp] theorem ring_releasePins (t : Clk) (g n : Nat) (m : Mod) : ring (releasePins t g n m) j = ring m j := by
  unfold releasePins
  exact ring_foldl fun _ _ => ring_arriveAt ..

theorem ring_releaseAll (t : Clk) (m : Mod) : ring (releaseAll t m) j = ring m j := by
  unfold releaseAll
  simp only
  rw [ring_foldl fun _ _ => ring_releaseHeld .., ring_foldl fun _ _ => ring_releasePins ..]

/-! ### DISPATCH -/

theorem ring_sendToken {t : Clk} {part task id : Nat} {k : Packet} {m u : Mod} {b : Bool} (h : sendToken t part task id k m = .ok (u, b)) :
    ring u j = ring m j := by
  unfold sendToken at h
  by_cases hdst : k.dst.toNat = moduleNum m
  · rw [if_pos hdst] at h
    obtain ⟨rfl, -⟩ := Prod.mk.inj (Except.ok.inj h)
    exact ring_arriveAt ..
  · rw [if_neg hdst] at h
    split at h
    · cases h
    · split_ifs at h <;> cases h <;> rfl

@[simp] theorem ring_sendAll (t : Clk) (part task id g tk : Nat) (ks : List Packet) (acc : Mod × Option Byte) :
    ring (sendAll t part task id g tk ks acc).1 j = ring acc.1 j := by
  unfold sendAll
  refine ring_foldl_fst fun acc k => ?_
  split_ifs
  · rfl
  · split
    · rfl
    next hsent =>
      rw [← ring_sendToken hsent]
      split_ifs
      · simp only
        split <;> rfl
      · rfl

@[simp] theorem ring_sendEntry (t : Clk) (part task id g tk : Nat) (b : Bank) (d : DispOp) (me row i : Nat) (acc : Mod × Option Byte) :
    ring (sendEntry t part task id g tk b d me row i acc).1 j = ring acc.1 j := by
  unfold sendEntry
  simp only
  split
  · rfl
  · split
    · split_ifs
      · split <;> simp
      · rw [ring_sendAll]
        split <;> simp
    · split <;> simp

@[simp] theorem ring_zeroRun (m : Mod) (g base row rows : Nat) : ring (zeroRun m g base row rows) j = ring m j := by
  unfold zeroRun
  exact ring_foldl fun _ _ => ring_padWrite ..

@[simp] theorem ring_beginDispatch (t : Clk) (g : Nat) (v : VOp) (m : Mod) : ring (beginDispatch t g v m) j = ring m j := by
  unfold beginDispatch
  simp only
  split_ifs
  · rfl
  · generalize hr : sendAll t _ _ _ _ _ _ _ = r
    have hsent : ring r.1 j = ring m j := by
      rw [← hr, ring_sendAll, ring_foldl_fst fun acc row => ring_foldl_fst fun acc i => ring_sendEntry .., ring_modEngine, ring_zeroRun]
    split
    · rw [ring_faultTask, ring_dropSignals]
      split <;> simp [hsent]
    · split <;> simp [hsent]

theorem ring_runHeld (t : Clk) (m : Mod) : ring (runHeld t m) j = ring m j := by
  unfold runHeld
  simp only
  rw [ring_foldl fun _ _ => ring_beginDispatch .., ring_foldl fun _ _ => ring_runReplica ..]

theorem ring_runMcasts (t : Clk) (m : Mod) : ring (runMcasts t m) j = ring m j := by
  unfold runMcasts
  exact ring_foldl fun _ _ => ring_runMcast ..

theorem ring_runCollects (t : Clk) (m : Mod) : ring (runCollects t m) j = ring m j := by
  unfold runCollects
  exact ring_foldl fun _ _ => ring_runCollect ..

/-! ## What waits at a ring stays there -/

/-- Nothing that waits at the CQ of ring j is lost or overtaken. -/
def KeepsWaiting (j : Nat) (m u : Mod) : Prop := (ring m j).waiting <+: (ring u j).waiting

theorem keepsWaiting_of_ring {m u : Mod} (h : ring u j = ring m j) : KeepsWaiting j m u := by
  rw [KeepsWaiting, h]

theorem KeepsWaiting.trans {a b c : Mod} (h : KeepsWaiting j a b) (k : KeepsWaiting j b c) : KeepsWaiting j a c :=
  List.IsPrefix.trans h k

theorem keepsWaiting_foldl {α : Type} {f : Mod → α → Mod} {l : List α} {m : Mod} (h : ∀ u x, KeepsWaiting j u (f u x)) :
    KeepsWaiting j m (l.foldl f m) :=
  List.foldlRecOn (motive := KeepsWaiting j m) _ _ (List.prefix_refl _) fun u hu x _ => hu.trans (h u x)

/-- The retire point of a command puts its entry behind what waits. -/
theorem waiting_retireAt (time : W64) (sq tag status : Nat) (reason : Byte) (fl : BitVec 16) (m : Mod) :
    (ring (retireAt time sq tag status reason fl m) j).waiting
      = (ring m j).waiting ++ if j = sq then [cmdEntry true tag status reason fl time] else [] := by
  rw [retireAt, putEntry, ring_modRing]
  split_ifs with h
  · rw [h]
    rfl
  · exact (List.append_nil _).symm

theorem keepsWaiting_retireAt (time : W64) (sq tag status : Nat) (reason : Byte) (fl : BitVec 16) (m : Mod) :
    KeepsWaiting j m (retireAt time sq tag status reason fl m) := by
  rw [KeepsWaiting, waiting_retireAt]
  exact List.prefix_append ..

theorem keepsWaiting_endCmd (t : Clk) (sq tag status : Nat) (m : Mod) : KeepsWaiting j m (endCmd t sq tag status m) := by
  unfold endCmd
  split
  · exact List.prefix_refl _
  · split
    · exact List.prefix_refl _
    · exact keepsWaiting_retireAt ..
    · split
      · exact keepsWaiting_retireAt ..
      · exact keepsWaiting_retireAt ..

@[simp] theorem ring_sendRemote (t : Clk) (o : SyncOp) (m : Mod) : ring (sendRemote t o m) j = ring m j := by
  unfold sendRemote
  simp only
  split
  · rfl
  · exact ring_faultBy ..

theorem ring_sendRemotes (t : Clk) (m : Mod) : ring (sendRemotes t m) j = ring m j := by
  unfold sendRemotes
  exact ring_foldl fun _ _ => ring_sendRemote ..

@[simp] theorem ring_finishTask (m : Mod) (g c : Nat) : ring (finishTask m g c) j = ring m j := by
  simp [finishTask]

theorem ring_finishTasks (m : Mod) : ring (finishTasks m) j = ring m j := by
  unfold finishTasks
  refine ring_foldl fun u ge => ring_foldl fun u c => ?_
  simp

theorem ring_settleWaits (t : Clk) (m : Mod) : ring (settleWaits t m) j = ring m j := by
  unfold settleWaits
  refine ring_foldl fun u ge => ring_foldl fun u c => ?_
  unfold settleWait
  simp only
  split <;> simp

theorem keepsWaiting_finishCmds (t : Clk) (m : Mod) : KeepsWaiting j m (finishCmds t m) :=
  keepsWaiting_foldl fun _ _ => keepsWaiting_endCmd ..

theorem keepsWaiting_endStart (t : Clk) (k : Nat) (p : Program) (m : Mod) : KeepsWaiting j m (endStart t k p m) := by
  unfold endStart
  split
  · exact List.prefix_refl _
  · simp only
    split
    · exact (keepsWaiting_of_ring (ring_modCmd ..)).trans (keepsWaiting_endCmd ..)
    · exact keepsWaiting_endCmd ..

theorem keepsWaiting_finishProgram (t : Clk) (m : Mod) (k : Nat) : KeepsWaiting j m (finishProgram t m k) := by
  unfold finishProgram
  split
  · exact List.prefix_refl _
  · split_ifs
    · exact (keepsWaiting_of_ring (ring_modProg ..)).trans (keepsWaiting_endStart ..)
    · exact List.prefix_refl _

theorem ring_purgeRuns (m : Mod) : ring (purgeRuns m) j = ring m j := rfl

theorem keepsWaiting_settle (t : Clk) (m : Mod) : KeepsWaiting j m (settle t m) := by
  have hcmds : KeepsWaiting j m (finishCmds t (purgeRuns m)) := (keepsWaiting_of_ring (ring_purgeRuns m)).trans (keepsWaiting_finishCmds ..)
  have htasks : KeepsWaiting j m (sendRemotes t (finishTasks (sendRemotes t (finishCmds t (purgeRuns m))))) :=
    hcmds.trans (keepsWaiting_of_ring (by rw [ring_sendRemotes, ring_finishTasks, ring_sendRemotes]))
  exact (htasks.trans (keepsWaiting_foldl fun _ _ => keepsWaiting_finishProgram ..)).trans (keepsWaiting_of_ring (ring_settleWaits ..))

/-- What follows a command by itself takes no completion back. -/
theorem keepsWaiting_settleAll (t : Clk) (m : Mod) : KeepsWaiting j m (settleAll t m) := by
  have hring : ring (releaseAll t (runHeld t (runMcasts t (runCollects t m)))) j = ring m j := by
    rw [ring_releaseAll, ring_runHeld, ring_runMcasts, ring_runCollects]
  exact (keepsWaiting_of_ring hring).trans (keepsWaiting_settle ..)

/-- Where both of two states settle into one, the first entry of either's ring is the same. -/
theorem first_waiting_eq {a b : CqEntry} {m u v : Mod} (hm : (ring m j).waiting = [a]) (hu : (ring u j).waiting = [b])
    (hmv : KeepsWaiting j m v) (huv : KeepsWaiting j u v) : a = b := by
  rw [KeepsWaiting, hm] at hmv
  rw [KeepsWaiting, hu] at huv
  obtain ⟨x, hx⟩ := hmv
  obtain ⟨y, hy⟩ := huv
  exact (List.cons.inj (hx.trans hy.symm)).1

theorem settled_eq_of_onAll {f : Clk → Mod → Mod} {s : State} {v : Mod} (h : onAll f s = .next { s with m := v }) :
    settleAll s.clk (f s.clk s.m) = v := by
  rw [onAll, onMod] at h
  exact (State.mk.inj (Host.Outcome.next.inj h)).2.2

/-- A command answered with an entry, in a ring where nothing waited, has put that entry and no other. -/
theorem entry_of_answered {f : Clk → Mod → Mod} {s : State} {P : Mod → Prop} {sq : RingId} {tag : BitVec 16} {status : Nat}
    {reason : Byte} {time : W64} {a : CqEntry} (h : SettlesAll s (onAll f s) P)
    (hP : ∀ u, P u → answered s.m u sq tag status reason time) (hnone : (ring s.m sq.val).waiting = [])
    (ha : (ring (f s.clk s.m) sq.val).waiting = [a]) : a = cmdEntry true tag.toNat status reason 0 time := by
  obtain ⟨u, hu, hp⟩ := h
  have hkept := keepsWaiting_settleAll (j := sq.val) s.clk (f s.clk s.m)
  rw [settled_eq_of_onAll hu] at hkept
  have hput : (ring u sq.val).waiting = [cmdEntry true tag.toNat status reason 0 time] := by
    rw [(hP u hp).1, hnone, List.nil_append]
  exact first_waiting_eq ha hput hkept (keepsWaiting_settleAll s.clk u)

/-! ## A RESUME that a saturation is recorded for -/

/-- A RESUME of engine 0 that waits at its turn, with a saturation recorded (R508). -/
def saturatedResume : Cmd where
  sq := 0
  tag := 9
  seq := 0
  op := 0x44
  fence := false
  entry := List.replicate 64 0
  part := some 0
  func := 0
  st := .waiting
  works := []
  fallback := false
  fault := none
  sat := true

/-- Engine 0 halted under an unlock of every partition, and the command alone in its ring. -/
def resumeState : State :=
  { State.reset with m := { modReset with
      eng := [(0, { halt := .halted })]
      sec := { secReset with unlocks := [{ part := none, ends := 1, func := 0 }] }
      cmds := [saturatedResume] } }

theorem cmdReady_saturatedResume : cmdReady resumeState 0 9 0x44 saturatedResume :=
  ⟨rfl, rfl, rfl, rfl, Or.inl ⟨rfl, rfl⟩⟩

theorem unlocked_resumeState : unlocked resumeState.clk resumeState.m (cpart saturatedResume) = true := by decide

theorem waiting_resumeState : (ring resumeState.m 0).waiting = [] := rfl

/-- The command completes with status 6 (SAT). -/
theorem waiting_saturatedResume : (ring (startCmd 0x44 resumeBody 0 9 resumeState.clk resumeState.m) 0).waiting
    = [cmdEntry true 9 6 0 0 0] := by
  decide

end Sys2Proof.Machine

namespace Sys2Proof
open Machine

/-- Refutes O34: a RESUME with a saturation recorded completes with status 6 (SAT), not 0 as its clause says (R508). -/
theorem not_debugCommands : ¬ Obligations.DebugCommands := by
  unfold Obligations.DebugCommands
  rintro ⟨-, hcmds, -⟩
  obtain ⟨-, -, -, hresume, -⟩ := hcmds 0 9 saturatedResume resumeState unlocked_resumeState
  have hentry := entry_of_answered (hresume cmdReady_saturatedResume (by decide) (by decide)) (fun _ hu => hu.2.2)
    waiting_resumeState waiting_saturatedResume
  exact absurd hentry (by decide)

end Sys2Proof
end

/-! # Scalar results and the flow of a context (R128 to R130, R275, R304, R315)

What an instruction without operands to wait for makes of its context: the scalar ones update it and move on, LOOP and BR
choose where it goes, END ends it. -/

section
namespace Sys2Proof.Machine

/-! ## Updates that see a context -/

/-- An update that reads none of what settling may change, nor writes it. -/
theorem sees_of_blank {f : Ctx → Ctx} (h : ∀ x, stillCtx (f (stillCtx x)) = stillCtx (f x)) : Sees f :=
  fun x y hxy => by rw [← h x, ← h y, hxy]

theorem sees_id : Sees id := fun _ _ h => h

/-- What an update makes of its context is all that counts. -/
theorem modCtx_congr {m : Mod} {g c : Nat} {f r : Ctx → Ctx} (h : f (ctx m g c) = r (ctx m g c)) : modCtx m g c f = modCtx m g c r := by
  have hsmod : smod {} (engine m g).ctx c f = smod {} (engine m g).ctx c r := congrArg (sset ({} : Ctx) (engine m g).ctx c) h
  rw [modCtx, modEngine, hsmod]
  rfl

/-- A second update of the same context, then a move. -/
theorem moved_modCtx {m v : Mod} {g c : Nat} {f r : Ctx → Ctx} {pc : Nat} (h : Moved (modCtx m g c f) v g c r pc) :
    Moved m v g c (r ∘ f) pc := by
  obtain ⟨hstill, heng, hothers, hown⟩ := h
  refine ⟨hstill, fun k => (heng k).trans ?_, fun k d hkd => (hothers k d hkd).trans ?_, hown.trans ?_⟩
  · rw [engine_modCtx]
    split_ifs with hk
    · subst hk
      rfl
    · rfl
  · rw [ctx_modCtx, if_neg hkd]
  · rw [ctx_modCtx, if_pos ⟨rfl, rfl⟩]
    rfl

/-- A signal at issue, then a move. -/
theorem moved_signal_advanceTo (t : Clk) (g c : Nat) (w : LviWord) (pc : Nat) (m : Mod) :
    Moved m (advanceTo t g c pc (putSignal m (taskId g c) w 0 none)) g c id pc :=
  und_moved sees_id (Still.putSignal ..) (advanceTo_moved ..)

theorem counter_of_stillCtx {x y : Ctx} (h : stillCtx x = stillCtx y) (i : Nat) : counter x i = counter y i := by
  rw [counter, counter, stillCtx_ctr h]

theorem pred_of_stillCtx {x y : Ctx} (h : stillCtx x = stillCtx y) : x.pred = y.pred := congrArg (·.pred) h

/-! ## Forms that issue by themselves -/

section
variable {eff : Clk → Nat → Nat → LviWord → Nat → Mod → Mod} {op : Nat} {e : Eng} {c : CtxId} {w : LviWord} {s : State} {r : Ctx → Ctx}
  (h : headReady s e c op none w) (hT : wT w = false)
include h hT

/-- A form of an effect alone reaches it on an undisturbed state. -/
theorem attempt_plain : ∃ u, Undisturbed s.m u ∧ attempt { eff := eff } op none e c w s.clk s.m = eff s.clk e c w 0 u :=
  plain_attempt { eff := eff } op none e c w s h hT (fun _ _ => rfl) (fun _ _ => rfl) (fun _ => rfl) rfl

/-- Where the effect moves the context from any undisturbed state, the row does. -/
theorem issueRow_moved {pc : Nat} (hr : Sees r) (heff : ∀ u, Undisturbed s.m u → Moved u (eff s.clk e c w 0 u) e c r pc) :
    ∃ t, issueRow { eff := eff } op none e c w s = .next t ∧ t.clk = s.clk ∧ Moved s.m t.m e c r pc := by
  obtain ⟨u, hu, hattempt⟩ := attempt_plain (eff := eff) h hT
  refine ⟨_, rfl, rfl, ?_⟩
  simp only
  rw [hattempt]
  exact moved_und (und_moved hr hu (heff u hu)) (Still.settle ..)

/-- Where the effect updates the context as r does and is done, the row does. -/
theorem issueRow_updates {q : Mod → Ctx → Ctx} (hr : Sees r) (hpc : ∀ x, (r x).pc = x.pc)
    (heff : ∀ u, eff s.clk e c w 0 u = done s.clk e c w (modCtx u e c (q u))) (hq : ∀ u, q u (ctx u e c) = r (ctx u e c)) :
    ∃ t, issueRow { eff := eff } op none e c w s = .next t ∧ t.clk = s.clk ∧ Moved s.m t.m e c r ((ctx s.m e c).pc + 1) :=
  ctx_form h hT (fun _ _ => rfl) (fun _ _ => rfl) (fun _ => rfl) rfl (fun u => (heff u).trans (congrArg _ (modCtx_congr (hq u)))) hr hpc

end

/-! ## TIME -/

/-- TIME writes the low word, then the high word of the count. -/
theorem moved_timeForm (t : Clk) (g c : Nat) (w : LviWord) (grant : Nat) (m : Mod) : Moved m (timeForm.eff t g c w grant m) g c
    ((fun x => setCounter x (wf w 60 4 + 1) (BitVec.ofNat 32 (t.sid.toNat / 2 ^ 32)))
      ∘ fun x => setCounter x (wf w 60 4) (BitVec.ofNat 32 t.sid.toNat)) ((ctx m g c).pc + 1) := by
  have hdone := done_moved t g c w (setCnt g c (wf w 60 4 + 1) (BitVec.ofNat 32 (t.sid.toNat / 2 ^ 32))
    (setCnt g c (wf w 60 4) (BitVec.ofNat 32 t.sid.toNat) m))
  have hpc : (ctx (setCnt g c (wf w 60 4 + 1) (BitVec.ofNat 32 (t.sid.toNat / 2 ^ 32))
      (setCnt g c (wf w 60 4) (BitVec.ofNat 32 t.sid.toNat) m)) g c).pc = (ctx m g c).pc := by simp [setCnt, setCounter]
  rw [hpc] at hdone
  exact moved_modCtx (mod_moved hdone)

end Sys2Proof.Machine

namespace Sys2Proof
open Machine

/-- Settles O6: each form updates its own context alone and is done. -/
theorem scalarResults : Obligations.ScalarResults := by
  unfold Obligations.ScalarResults
  refine ⟨?add, ?cmp, ?sel, fun e c w s hT => ⟨fun h => ?setlt, fun h => ?time⟩⟩
  case add => exact fun e c w s h hT => issueRow_updates h hT (sees_of_blank fun _ => rfl) (fun _ => rfl) (fun _ => rfl) fun _ => rfl
  case cmp => exact fun e c w s h hT => issueRow_updates h hT (sees_of_blank fun _ => rfl) (fun _ => rfl) (fun _ => rfl) fun _ => rfl
  case sel => exact fun e c w s h hT => issueRow_updates h hT (sees_of_blank fun _ => rfl) (fun _ => rfl) (fun _ => rfl) fun _ => rfl
  case setlt => exact issueRow_updates h hT (sees_of_blank fun _ => rfl) (fun _ => rfl) (fun _ => rfl) fun _ => rfl
  case time =>
    refine issueRow_moved h hT (sees_of_blank fun _ => rfl) fun u hu => ?_
    rw [← und_pc hu e c]
    exact moved_timeForm s.clk e c w 0 u

end Sys2Proof
end

/-! # Contexts that issue nothing more (R129, R275, R304, R315)

A task fault writes the state of its own context alone, and nothing that follows by itself starts a context that has ended,
finished or faulted. Then where NOP, LOOP, BR and END take a context. -/

section
namespace Sys2Proof.Machine

/-! ## What leaves the contexts as they are -/

section
variable {h k : Nat}

theorem ctx_foldl {α : Type} {f : Mod → α → Mod} {l : List α} {m : Mod} (hf : ∀ u x, ctx (f u x) h k = ctx u h k) :
    ctx (l.foldl f m) h k = ctx m h k :=
  List.foldlRecOn (motive := fun u : Mod => ctx u h k = ctx m h k) _ _ rfl fun u hu x _ => (hf u x).trans hu

@[simp] theorem ctx_pushSync (m : Mod) (d src obj : Nat) (kind : SyncKind) (deps : List Nat) (b : Issuer) :
    ctx (pushSync m d src obj kind deps b) h k = ctx m h k := (rfl)

@[simp] theorem ctx_slotSignal (m : Mod) (part src s : Nat) (deps : List Nat) (b : Issuer) :
    ctx (slotSignal m part src s deps b) h k = ctx m h k := by
  fun_cases slotSignal <;> rfl

@[simp] theorem ctx_putSignal (m : Mod) (task : Nat) (w : LviWord) (count : Nat) (own : Option Nat) :
    ctx (putSignal m task w count own) h k = ctx m h k := by
  fun_cases putSignal <;> simp

@[simp] theorem ctx_dropSignals (m : Mod) (id : Nat) : ctx (dropSignals m id) h k = ctx m h k := (rfl)

@[simp] theorem ctx_dropPops (e : Engine) (runs : List Nat) (m : Mod) : ctx (dropPops e runs m) h k = ctx m h k := (rfl)

@[simp] theorem ctx_returnDescs (e : Engine) (g : Nat) (runs : List Nat) (m : Mod) : ctx (returnDescs e g runs m) h k = ctx m h k :=
  ctx_foldl fun _ _ => rfl

@[simp] theorem ctx_resetQueues (m : Mod) (task : Nat) : ctx (resetQueues m task) h k = ctx m h k := by
  unfold resetQueues
  simp only
  rw [ctx_foldl fun _ _ => ctx_dropSignals .., ctx_returnDescs, ctx_modEngine, ctx_dropPops]
  exact fun _ => rfl

@[simp] theorem ctx_dropCollects (m : Mod) (task : Nat) : ctx (dropCollects m task) h k = ctx m h k :=
  ctx_foldl fun _ _ => rfl

@[simp] theorem ctx_stopChain (m : Mod) (part n : Nat) (fl : Option (BitVec 16 × Byte × W64)) :
    ctx (stopChain m part n fl) h k = ctx m h k := (rfl)

@[simp] theorem ctx_stopTaskChains (m : Mod) (task : Nat) (fl : Option (BitVec 16 × Byte × W64)) :
    ctx (stopTaskChains m task fl) h k = ctx m h k :=
  ctx_foldl fun _ _ => rfl

@[simp] theorem ctx_faultCmd (m : Mod) (sq tag log : Nat) (r : Byte) : ctx (faultCmd m sq tag log r) h k = ctx m h k := (rfl)

@[simp] theorem ctx_setSyncQueue (m : Mod) (d : Nat) (q : List SyncOp) : ctx (setSyncQueue m d q) h k = ctx m h k := (rfl)

@[simp] theorem ctx_sendOn (m : Mod) (p : Nat) (x : TxPkt) : ctx (sendOn m p x) h k = ctx m h k := (rfl)

@[simp] theorem ctx_logEngine (t : Clk) (g : Nat) (e : FEntry) (m : Mod) : ctx (logEngine t g e m) h k = ctx m h k := ctx_trace ..

@[simp] theorem ctx_endCmd (t : Clk) (sq tag status : Nat) (m : Mod) : ctx (endCmd t sq tag status m) h k = ctx m h k := by
  fun_cases endCmd <;> rfl

theorem ctx_finishCmds (t : Clk) (m : Mod) : ctx (finishCmds t m) h k = ctx m h k := ctx_foldl fun _ _ => ctx_endCmd ..

theorem ctx_endStart (t : Clk) (part : Nat) (p : Program) (m : Mod) : ctx (endStart t part p m) h k = ctx m h k := by
  unfold endStart
  split
  · rfl
  · simp only
    split
    · exact ctx_endCmd ..
    · exact ctx_endCmd ..

theorem ctx_finishProgram (t : Clk) (m : Mod) (part : Nat) : ctx (finishProgram t m part) h k = ctx m h k := by
  unfold finishProgram
  split
  · rfl
  · split_ifs
    · exact ctx_endStart ..
    · rfl

/-- An update that every engine makes and that keeps the contexts. -/
theorem ctx_mapEng {m : Mod} {f : Nat → Engine → Engine} (hf : ∀ g e, (f g e).ctx = e.ctx) :
    ctx { m with eng := m.eng.map fun ge => (ge.1, f ge.1 ge.2) } h k = ctx m h k :=
  Still.sget_map_keep (fun e => ctxOf e k) {} f (fun g e => by rw [ctxOf, ctxOf, hf]) m.eng h

theorem ctx_purgeRuns (m : Mod) : ctx (purgeRuns m) h k = ctx m h k := ctx_mapEng fun _ _ => rfl

theorem ctx_discardRuns (sq tag : Nat) (m : Mod) : ctx (discardRuns sq tag m) h k = ctx m h k := by
  refine (ctx_mapEng (f := fun _ => endRuns _) fun _ _ => rfl).trans (ctx_foldl fun _ _ => ?_)
  rw [ctx_dropPops, ctx_returnDescs]

/-! ## A task fault -/

/-- The state of a stopped task is written, and of no other. -/
theorem st_stopTask (m : Mod) (task : Nat) (st : CtxSt) (fl : Option (BitVec 16 × Byte × W64)) :
    (ctx (stopTask m task st fl) h k).st = if h = task / 4 ∧ k = task % 4 then st else (ctx m h k).st := by
  unfold stopTask
  simp only [ctx_modCtx]
  split_ifs
  · rfl
  · split <;> split <;> rfl

theorem st_failTask (t : Clk) (task : Nat) (reason : Byte) (log : Nat) (m : Mod) :
    (ctx (failTask t task reason log m) h k).st = if h = task / 4 ∧ k = task % 4 then .faulted else (ctx m h k).st := by
  simp [failTask, st_stopTask]

end

/-! ## A context that is over stays so -/

/-- The states in which a context issues nothing more. -/
def isOver (st : CtxSt) : Prop := st = .ended ∨ st = .finished ∨ st = .faulted

/-- A context that is over in m is so in u. -/
structure StaysOver (g c : Nat) (m u : Mod) : Prop where
  stays : isOver (ctx m g c).st → isOver (ctx u g c).st

section
variable {g c : Nat}

theorem StaysOver.refl (m : Mod) : StaysOver g c m m := ⟨id⟩

theorem staysOver_of_ctx {m u : Mod} (h : ctx u g c = ctx m g c) : StaysOver g c m u := ⟨fun hover => by rwa [h]⟩

theorem StaysOver.trans {a b d : Mod} (h : StaysOver g c a b) (k : StaysOver g c b d) : StaysOver g c a d :=
  ⟨k.stays ∘ h.stays⟩

theorem staysOver_foldl {α : Type} {f : Mod → α → Mod} {l : List α} {m : Mod} (h : ∀ u x, StaysOver g c u (f u x)) :
    StaysOver g c m (l.foldl f m) :=
  List.foldlRecOn (motive := StaysOver g c m) _ _ (.refl m) fun u hu x _ => hu.trans (h u x)

/-- An update of a context that keeps its state, or ends it. -/
theorem staysOver_modCtx {m : Mod} {j d : Nat} {f : Ctx → Ctx} (h : ∀ x, isOver x.st → isOver (f x).st) : StaysOver g c m (modCtx m j d f) := by
  refine ⟨fun hover => ?_⟩
  rw [ctx_modCtx]
  split_ifs with hjd
  · obtain ⟨rfl, rfl⟩ := hjd
    exact h _ hover
  · exact hover

theorem staysOver_failTask (t : Clk) (task : Nat) (reason : Byte) (log : Nat) (m : Mod) :
    StaysOver g c m (failTask t task reason log m) := by
  refine ⟨fun hover => ?_⟩
  rw [st_failTask]
  split_ifs
  · exact Or.inr (Or.inr rfl)
  · exact hover

theorem staysOver_faultTask (t : Clk) (task : Nat) (typ reason : Byte) (addr info : W64) (poison : Bool) (m : Mod) :
    StaysOver g c m (faultTask t task typ reason addr info poison m) := by
  unfold faultTask
  simp only
  split_ifs
  · exact .refl _
  · exact (staysOver_of_ctx (ctx_logEngine ..)).trans (staysOver_failTask ..)

theorem staysOver_faultIssuer (t : Clk) (b : Issuer) (reason : Byte) (log : Nat) (m : Mod) :
    StaysOver g c m (faultIssuer t b reason log m) := by
  unfold faultIssuer
  cases b with
  | nobody => exact .refl _
  | task tk => exact staysOver_failTask ..
  | cmd sq tag => exact staysOver_of_ctx ((ctx_discardRuns ..).trans (ctx_faultCmd ..))
  | stage k n => exact staysOver_of_ctx (ctx_stopChain ..)

theorem staysOver_faultBy (t : Clk) (j : Nat) (b : Issuer) (typ reason : Byte) (addr info : W64) (m : Mod) :
    StaysOver g c m (faultBy t j b typ reason addr info m) := by
  fun_cases faultBy
  · exact staysOver_faultTask ..
  · exact (staysOver_of_ctx (ctx_logEngine ..)).trans (staysOver_faultIssuer ..)

theorem staysOver_sendRemotes (t : Clk) (m : Mod) : StaysOver g c m (sendRemotes t m) := by
  refine staysOver_foldl fun u o => ?_
  unfold sendRemote
  simp only
  split
  · exact staysOver_of_ctx ((ctx_sendOn ..).trans (ctx_setSyncQueue ..))
  · exact (staysOver_of_ctx (ctx_setSyncQueue ..)).trans (staysOver_faultBy ..)

/-- A task that finishes is over. -/
theorem staysOver_finishTask (m : Mod) (j d : Nat) : StaysOver g c m (finishTask m j d) := by
  have hqueues : ∀ u task, StaysOver g c u (resetQueues u task) := fun _ _ => staysOver_of_ctx (ctx_resetQueues ..)
  have hsignal : ∀ u task w, StaysOver g c u (putSignal u task w 0 none) := fun _ _ _ => staysOver_of_ctx (ctx_putSignal ..)
  exact ((hsignal ..).trans (hqueues ..)).trans (staysOver_modCtx fun _ _ => Or.inr (Or.inl rfl))

theorem staysOver_finishTasks (m : Mod) : StaysOver g c m (finishTasks m) := by
  refine staysOver_foldl fun u ge => staysOver_foldl fun u d => ?_
  split_ifs
  · exact staysOver_finishTask ..
  · exact .refl _

theorem staysOver_settleWaits (t : Clk) (m : Mod) : StaysOver g c m (settleWaits t m) := by
  refine staysOver_foldl fun u ge => staysOver_foldl fun u d => ?_
  unfold settleWait
  simp only
  split
  · split_ifs
    · exact staysOver_modCtx fun _ => id
    · exact staysOver_modCtx fun _ => id
    · exact .refl _
  · exact .refl _

/-- What follows a command by itself starts no context that is over. -/
theorem staysOver_settle (t : Clk) (m : Mod) : StaysOver g c m (settle t m) := by
  have hcmds : StaysOver g c m (finishCmds t (purgeRuns m)) := staysOver_of_ctx ((ctx_finishCmds ..).trans (ctx_purgeRuns m))
  have htasks := ((hcmds.trans (staysOver_sendRemotes t _)).trans (staysOver_finishTasks _)).trans (staysOver_sendRemotes t _)
  have hprograms := htasks.trans (staysOver_foldl (l := List.range 8) fun u j => staysOver_of_ctx (ctx_finishProgram t u j))
  exact hprograms.trans (staysOver_settleWaits t _)

end

/-! ## LOOP, BR and END -/

/-- The count of a LOOP. -/
def loopCount (m : Mod) (g c : Nat) (w : LviWord) : W32 := if wExt w = 0 then imm w else counter (ctx m g c) (wf w 52 4)

theorem loopCount_of_undisturbed {m u : Mod} (h : Undisturbed m u) (g c : Nat) (w : LviWord) : loopCount u g c w = loopCount m g c w := by
  unfold loopCount
  rw [counter_of_stillCtx (h.2.2 g c)]

/-- A LOOP of count 0 goes past its body. -/
theorem moved_loopForm_zero {m : Mod} {g c : Nat} {w : LviWord} (h : loopCount m g c w = 0) (t : Clk) (grant : Nat) :
    Moved m (loopForm.eff t g c w grant m) g c id ((ctx m g c).pc + 1 + wf w 32 20) := by
  have heff : loopForm.eff t g c w grant m = advanceTo t g c ((ctx m g c).pc + 1 + wf w 32 20) (putSignal m (taskId g c) w 0 none) :=
    if_pos h
  rw [heff]
  exact moved_signal_advanceTo ..

/-- The loop that a LOOP opens, with the count it starts from. -/
def openLoop (w : LviWord) (n : W32) (x : Ctx) : Ctx :=
  { x with
    lcnt := sset 0 x.lcnt (wf w 62 2) n
    loops := { n := wf w 62 2, start := x.pc + 1, stop := x.pc + 1 + wf w 32 20 } :: x.loops }

/-- Any other LOOP opens its loop and goes on into the body. -/
theorem moved_loopForm_opens {m : Mod} {g c : Nat} {w : LviWord} (h : loopCount m g c w ≠ 0) (t : Clk) (grant : Nat) :
    Moved m (loopForm.eff t g c w grant m) g c (openLoop w (loopCount m g c w)) ((ctx m g c).pc + 1) := by
  have heff : loopForm.eff t g c w grant m
      = advance t g c (modCtx (putSignal m (taskId g c) w 0 none) g c (openLoop w (loopCount m g c w))) := by
    refine (if_neg h).trans (congrArg (advance t g c) (modCtx_congr ?_))
    rw [ctx_putSignal]
    rfl
  have hpc : (ctx (modCtx (putSignal m (taskId g c) w 0 none) g c (openLoop w (loopCount m g c w))) g c).pc = (ctx m g c).pc := by
    simp [openLoop]
  rw [heff, advance, hpc]
  exact und_moved (sees_of_blank fun _ => rfl) (Still.putSignal ..) (mod_moved (advanceTo_moved ..))

theorem brTaken_of_undisturbed {m u : Mod} (h : Undisturbed m u) (g c : Nat) (w : LviWord) : brTaken u g c w = brTaken m g c w := by
  simp only [brTaken, pred, pred_of_stillCtx (h.2.2 g c)]

/-- A BR goes to its offset where its condition holds, else on. -/
theorem moved_brForm (t : Clk) (g c : Nat) (w : LviWord) (grant : Nat) (m : Mod) : Moved m (brForm.eff t g c w grant m) g c id
    (if brTaken m g c w then branchTo (ctx m g c).pc (imm w) else (ctx m g c).pc + 1) := by
  have heff : brForm.eff t g c w grant m = advanceTo t g c (if brTaken m g c w then branchTo (ctx m g c).pc (imm w) else (ctx m g c).pc + 1)
      (putSignal m (taskId g c) w 0 none) := by
    simp only [brForm, advance, ctx_putSignal]
    split_ifs <;> rfl
  rw [heff]
  exact moved_signal_advanceTo ..

/-- At its end a loop with more than one turn left takes another. -/
theorem loopEnd_again {l : Sparse W32} {f : LoopFrame} (h : 1 < (sget 0 l f.n).toNat) (r : List LoopFrame) :
    loopEnd l (f :: r) f.stop = (sset 0 l f.n (sget 0 l f.n - 1), f :: r, f.start) := by
  rw [loopEnd, if_pos rfl]
  exact if_pos h

/-- At its last turn a loop closes, and the loops around it may end there too. -/
theorem loopEnd_closes {l : Sparse W32} {f : LoopFrame} (h : (sget 0 l f.n).toNat ≤ 1) (r : List LoopFrame) :
    loopEnd l (f :: r) f.stop = loopEnd (sset 0 l f.n 0) r f.stop := by
  rw [loopEnd, if_pos rfl]
  exact if_neg (Nat.not_lt.2 h)

theorem loopEnd_elsewhere {f : LoopFrame} {pc : Nat} (h : pc ≠ f.stop) (l : Sparse W32) (r : List LoopFrame) :
    loopEnd l (f :: r) pc = (l, f :: r, pc) := by
  rw [loopEnd, if_neg h]

/-- END leaves its context ended. -/
theorem undisturbed_endForm (t : Clk) (g c : Nat) (w : LviWord) (grant : Nat) (m : Mod) :
    Undisturbed m (endForm.eff t g c w grant m) ∧ isOver (ctx (endForm.eff t g c w grant m) g c).st := by
  refine ⟨Still.modCtx m g c _ fun _ => rfl, Or.inl ?_⟩
  simp [endForm]

end Sys2Proof.Machine

namespace Sys2Proof
open Machine

/-- Settles O7: each form takes its context to its place, and nothing that follows END starts the context again. -/
theorem flowResults : Obligations.FlowResults := by
  unfold Obligations.FlowResults
  refine ⟨?moves, ⟨fun l f r h => loopEnd_again h r, fun l f r h => loopEnd_closes h r, fun l f r pc h => loopEnd_elsewhere h l r⟩, ?ends⟩
  case moves =>
    intro e c w s hT x n
    refine ⟨fun h => ?nop, fun h hn => ?skip, fun h hn => ?opens, fun h => ?br⟩
    case nop =>
      refine issueRow_moved h hT sees_id fun u hu => ?_
      rw [← und_pc hu e c]
      exact done_moved ..
    case skip =>
      refine issueRow_moved h hT sees_id fun u hu => ?_
      rw [← und_pc hu e c]
      exact moved_loopForm_zero ((loopCount_of_undisturbed hu e c w).trans hn) s.clk 0
    case opens =>
      refine issueRow_moved h hT (sees_of_blank fun _ => rfl) fun u hu => ?_
      have hcount : loopCount u e c w = n := loopCount_of_undisturbed hu e c w
      have hmoved := moved_loopForm_opens (hcount.trans_ne hn) s.clk 0
      rw [hcount, und_pc hu e c] at hmoved
      exact hmoved
    case br =>
      refine issueRow_moved h hT sees_id fun u hu => ?_
      have hmoved := moved_brForm s.clk e c w 0 u
      rw [brTaken_of_undisturbed hu e c w, und_pc hu e c] at hmoved
      exact hmoved
  case ends =>
    intro e c w s h hT
    obtain ⟨u, hu, hattempt⟩ := attempt_plain (eff := endForm.eff) h hT
    obtain ⟨hend, hover⟩ := undisturbed_endForm s.clk e c w 0 u
    refine ⟨_, rfl, rfl, ?_⟩
    have hrow : attempt endForm 0x01 none e c w s.clk s.m = endForm.eff s.clk e c w 0 u := hattempt
    simp only
    rw [hrow]
    exact ⟨Still.trans (Still.trans hu hend) (Still.settle ..), (staysOver_settle ..).stays hover⟩

end Sys2Proof
end

/-! # Context switches, leave grants and the wait watchdog (R133, R295, R297, R528)

CONTEXT_SWITCH and LEAVE_GRANT write one field and a trace record; the watchdog logs one entry, and a task fault logs none. -/

section
namespace Sys2Proof.Machine

/-! ## CONTEXT_SWITCH (R133) -/

/-- The context selected. -/
def selectCtx (g k : Nat) (m : Mod) : Mod := modEngine m g fun e => { e with active := k, sel := true }

theorem ctx_selectCtx (g k : Nat) (m : Mod) (h c : Nat) : ctx (selectCtx g k m) h c = ctx m h c := ctx_modEngine _ _ _ _ _ fun _ => rfl

/-- A switch selects the next ready context; beside that it counts and traces. -/
theorem contextSwitch_selects {t : Clk} {g k : Nat} {m : Mod} (hruns : engineRuns m g = true) (hhalt : (engine m g).halt = .running)
    (hgoes : goesOn m g = false) (hnext : nextReady t m g (engine m g).active = some k) :
    Undisturbed (selectCtx g k m) (contextSwitch g t m) ∧ ∀ c, ctx (contextSwitch g t m) g c = ctx m g c := by
  have hgo : ¬ (¬ engineRuns m g = true ∨ (engine m g).halt ≠ .running ∨ goesOn m g = true) := by simp [hruns, hhalt, hgoes]
  unfold contextSwitch
  simp only [if_neg hgo, hnext]
  split
  · exact ⟨Still.refl _, fun c => ctx_selectCtx ..⟩
  · split_ifs
    · exact ⟨Still.refl _, fun c => ctx_selectCtx ..⟩
    · refine ⟨Still.trans (Still.countEv ..) (Still.trace ..), fun c => ?_⟩
      rw [ctx_trace, ctx_countEv]
      exact ctx_selectCtx ..

theorem selection_of_undisturbed {m u : Mod} (h : Undisturbed m u) (g : Nat) :
    (engine u g).active = (engine m g).active ∧ (engine u g).sel = (engine m g).sel :=
  ⟨congrArg (·.active) (h.2.1 g), congrArg (·.sel) (h.2.1 g)⟩

/-! ## LEAVE_GRANT (R528) -/

/-- A governor once it has granted a request. -/
def grantRequest (r : LeaveReq) (x : Gov) : Gov :=
  { x with grants := sset 0 x.grants r.id r.units, queue := x.queue.filter fun y => y.id != r.id }

/-- The oldest request of the highest level that fits is granted; beside that the grant is traced. -/
theorem gov_leaveGrant {g : Nat} {m : Mod} {r : LeaveReq} (hhead : headOf (gov m g).queue = some r) (hfits : r.units ≤ freeBudget m g)
    (t : Clk) (h : Nat) : gov (leaveGrant g t m) h = gov (modGov m g (grantRequest r)) h := by
  unfold leaveGrant
  simp only [hhead, if_neg (Nat.not_lt.2 hfits)]
  split
  · exact gov_trace ..
  · exact gov_trace ..
  · rfl

/-! ## A task fault logs nothing of its own -/

theorem logs_foldl {α : Type} {f : Mod → α → Mod} {l : List α} {m : Mod} (hf : ∀ u x, (f u x).logs = u.logs) :
    (l.foldl f m).logs = m.logs :=
  List.foldlRecOn (motive := fun u : Mod => u.logs = m.logs) _ _ rfl fun u hu x _ => (hf u x).trans hu

@[simp] theorem logs_trace (t : Clk) (g task kind arg : Nat) (cls : Option Nat) (m : Mod) : (trace t g task kind arg cls m).logs = m.logs :=
  trace_outside (·.logs) (fun _ _ _ => rfl) ..

@[simp] theorem logs_stopTaskChains (m : Mod) (task : Nat) (fl : Option (BitVec 16 × Byte × W64)) : (stopTaskChains m task fl).logs = m.logs :=
  logs_foldl fun _ _ => rfl

@[simp] theorem logs_stopTask (m : Mod) (task : Nat) (st : CtxSt) (fl : Option (BitVec 16 × Byte × W64)) :
    (stopTask m task st fl).logs = m.logs := by
  unfold stopTask
  simp only [modCtx_logs]
  split <;> split <;> rfl

@[simp] theorem logs_returnDescs (e : Engine) (g : Nat) (runs : List Nat) (m : Mod) : (returnDescs e g runs m).logs = m.logs :=
  logs_foldl fun _ _ => rfl

theorem logs_dropSignals (m : Mod) (id : Nat) : (dropSignals m id).logs = m.logs := rfl

@[simp] theorem logs_resetQueues (m : Mod) (task : Nat) : (resetQueues m task).logs = m.logs :=
  (logs_foldl logs_dropSignals).trans (logs_returnDescs ..)

@[simp] theorem logs_dropCollects (m : Mod) (task : Nat) : (dropCollects m task).logs = m.logs :=
  logs_foldl logs_dropSignals

@[simp] theorem flog_failTask (t : Clk) (task : Nat) (reason : Byte) (log : Nat) (m : Mod) (l : Nat) :
    flog (failTask t task reason log m) l = flog m l := by
  simp [flog, failTask]

@[simp] theorem flog_trace (t : Clk) (g task kind arg : Nat) (cls : Option Nat) (m : Mod) (l : Nat) :
    flog (trace t g task kind arg cls m) l = flog m l := by
  simp [flog]

/-! ## The wait watchdog (R295, R297, R298) -/

/-- The entry of a wait that has lasted too long, of a task or of a pair that wait for each other. -/
def wdogEntry (m : Mod) (g c obj : Nat) (p : Option (Nat × Nat)) : FEntry where
  kind := 2
  index := BitVec.ofNat 8 (g / 16)
  typ := if p.isSome then fWaitCycle else fWaitTimeout
  part := some (ctx m g c).part
  task := some (taskId g c)
  addr := wdogAddr (taskId g c) obj p

/-- The module with the entry logged and the task that waited failed. -/
def failWaiting (t : Clk) (g c obj : Nat) (p : Option (Nat × Nat)) (m : Mod) : Mod :=
  failTask t (taskId g c) 0 (logCD (g / 16))
    (trace t g (taskId g c) 0x0A (logCD (g / 16) + 512 * (if p.isSome then fWaitCycle else fWaitTimeout).toNat) none
      (logFault t (logCD (g / 16)) (wdogEntry m g c obj p) m))

/-- A wait past the watchdog's time fails its task and its partner. -/
theorem watchdog_expired {t : Clk} {g c since obj : Nat} {m : Mod} (hsince : (ctx m g c).waitSince = some since)
    (hwait : taskWait m (taskId g c) = some obj) (hhalt : (engine m g).halt = .running) (hlate : since + wdogTicks m g ≤ t.now) :
    watchdog g c t m = match partner m (taskId g c) obj with
      | some (b, _) => failTask t b 0 (logCD (g / 16)) (failWaiting t g c obj (partner m (taskId g c) obj) m)
      | none => failWaiting t g c obj (partner m (taskId g c) obj) m := by
  have hgo : ¬ ((engine m g).halt ≠ .running ∨ t.now < since + wdogTicks m g) := by simp [hhalt, hlate]
  simp only [watchdog, hsince, hwait, if_neg hgo]
  cases partner m (taskId g c) obj <;> rfl

theorem st_failWaiting (t : Clk) {g c : Nat} (hc : c < 4) (obj : Nat) (p : Option (Nat × Nat)) (m : Mod) :
    (ctx (failWaiting t g c obj p m) g c).st = .faulted := by
  have htask : g = taskId g c / 4 ∧ c = taskId g c % 4 := by unfold taskId; omega
  rw [failWaiting, st_failTask, if_pos htask]

/-- The compute die's log has one entry more. -/
theorem flog_failWaiting (t : Clk) (g c obj : Nat) (p : Option (Nat × Nat)) (m : Mod) :
    flog (failWaiting t g c obj p m) (logCD (g / 16))
      = logApply (flog m (logCD (g / 16))) { wdogEntry m g c obj p with time := t.sid } := by
  simp [failWaiting]

/-- A failed task stays failed when another fails. -/
theorem faulted_failTask {m : Mod} {g c : Nat} (h : (ctx m g c).st = .faulted) (t : Clk) (task : Nat) (reason : Byte) (log : Nat) :
    (ctx (failTask t task reason log m) g c).st = .faulted := by
  rw [st_failTask, h, ite_self]

/-- What the watchdog leaves of the tasks and of the compute die's log. -/
theorem watchdog_outcome {t : Clk} {g c since obj : Nat} {m : Mod} (hc : c < 4) (hsince : (ctx m g c).waitSince = some since)
    (hwait : taskWait m (taskId g c) = some obj) (hhalt : (engine m g).halt = .running) (hlate : since + wdogTicks m g ≤ t.now) :
    (ctx (watchdog g c t m) g c).st = .faulted
      ∧ (∀ b o, partner m (taskId g c) obj = some (b, o) → (ctx (watchdog g c t m) (b / 4) (b % 4)).st = .faulted)
      ∧ flog (watchdog g c t m) (logCD (g / 16)) = logApply (flog m (logCD (g / 16)))
          { wdogEntry m g c obj (partner m (taskId g c) obj) with time := t.sid } := by
  rw [watchdog_expired hsince hwait hhalt hlate]
  cases partner m (taskId g c) obj with
  | none => exact ⟨st_failWaiting t hc .., nofun, flog_failWaiting ..⟩
  | some p =>
    refine ⟨faulted_failTask (st_failWaiting t hc ..) .., ?_, (flog_failTask ..).trans (flog_failWaiting ..)⟩
    rintro b o ⟨⟩
    rw [st_failTask, if_pos ⟨rfl, rfl⟩]

/-! ## The rows -/

theorem exec_contextSwitch (e : Eng) (s : State) : exec (.contextSwitch e) s = onAll (contextSwitch e.val) s := rfl

theorem exec_leaveGrant (g : Fin 22) (s : State) : exec (.leaveGrant g) s = onAll (leaveGrant g.val) s := rfl

theorem exec_waitWatchdogExpiry (e : Eng) (c : CtxId) (s : State) :
    exec (.waitWatchdogExpiry e c) s = onAll (watchdog e.val c.val) s := rfl

end Sys2Proof.Machine

namespace Sys2Proof
open Machine

/-- Settles O10: a switch selects the next ready context, a grant moves the request from the queue to the grants, and an
expired wait logs one entry and fails its tasks. -/
theorem issueControl : Obligations.IssueControl := by
  unfold Obligations.IssueControl
  refine ⟨⟨?switch, ?grant⟩, ?watchdog⟩
  case switch =>
    intro e k s hruns hhalt hgoes hnext
    rw [exec_contextSwitch]
    refine settlesAll_onAll ?_
    obtain ⟨hund, hctx⟩ := contextSwitch_selects hruns hhalt hgoes hnext
    obtain ⟨hactive, hsel⟩ := selection_of_undisturbed hund e
    rw [hactive, hsel]
    refine ⟨?_, ?_, hctx⟩ <;> simp [selectCtx]
  case grant =>
    intro g r s hhead hfits
    rw [exec_leaveGrant]
    refine settlesAll_onAll ?_
    simp only [gov_leaveGrant hhead hfits, gov_modGov, if_true]
    exact ⟨sget_sset_same .., fun x hx => by simpa using (List.mem_filter.1 hx).2, fun h hne => if_neg (Fin.val_ne_of_ne hne)⟩
  case watchdog =>
    intro e c since obj s hsince hwait hhalt hlate
    rw [exec_waitWatchdogExpiry]
    refine settlesAll_onAll ?_
    obtain ⟨hself, hpartner, hlog⟩ := watchdog_outcome c.isLt hsince hwait hhalt hlate
    have htask : taskId e c = 4 * e.val + c.val := rfl
    rw [htask] at hpartner hlog
    generalize partner s.m (4 * e.val + c.val) obj = p at hpartner hlog ⊢
    rw [hlog]
    exact ⟨hself, hpartner, rfl, rfl, rfl, rfl⟩

end Sys2Proof
end

/-! # Vector instructions go to the vector unit (R113 to R116, R328) -/

section
namespace Sys2Proof.Machine

/-! ## Issue -/

/-- A vector instruction as the vector unit holds it. -/
def newVop (m : Mod) (g c : Nat) (w : LviWord) (id grant : Nat) : VOp where
  id := id
  task := taskId g c
  word := w
  args := vectorArgs m g c w
  leave := grant

/-- The vector unit with an instruction behind those it holds. -/
def addVop (v : VOp) (e : Engine) : Engine := { e with vops := e.vops ++ [v] }

theorem ctx_addVop (v : VOp) (e : Engine) : (addVop v e).ctx = e.ctx := rfl

/-- A vector instruction takes its operands from its word and the counters of its context. -/
theorem vectorArgs_of_stillCtx {m u : Mod} {g c : Nat} (h : stillCtx (ctx u g c) = stillCtx (ctx m g c)) (w : LviWord) :
    vectorArgs u g c w = vectorArgs m g c w := by
  have hcnt : cnt u g c = cnt m g c := funext (counter_of_stillCtx h)
  simp only [vectorArgs, hcnt]

/-- A vector instruction that issues takes a number and goes to the vector unit. -/
theorem vectorForm_eff (t : Clk) (g c : Nat) (w : LviWord) (grant : Nat) (m : Mod) : vectorForm.eff t g c w grant m =
    signalled t g c w m.nextId (modEngine (fresh m).2 g (addVop (newVop m g c w m.nextId grant))) := rfl

theorem vops_of_stillEng {x y : Engine} (h : stillEng x = stillEng y) : x.vops = y.vops := congrArg (·.vops) h

/-- The rows of the vector class with their opcodes. -/
def vectorRows : List ((Eng → CtxId → LviWord → Instr) × Nat) :=
  [(Instr.vld, 0x80), (Instr.vst, 0x81), (Instr.varith, 0x82), (Instr.vcvt, 0x83), (Instr.vtrans, 0x84), (Instr.vred, 0x85),
    (Instr.vact, 0x86), (Instr.actBwd, 0x87), (Instr.update, 0x88), (Instr.topkHist, 0x89), (Instr.topkSelect, 0x8A), (Instr.sign, 0x8B)]

theorem exec_vector {row : (Eng → CtxId → LviWord → Instr) × Nat} (hrow : row ∈ vectorRows) (e : Eng) (c : CtxId) (w : LviWord)
    (s : State) : exec (row.1 e c w) s = onEng (attempt vectorForm row.2 none e.val c.val w) s := by
  simp only [vectorRows, List.mem_cons, List.not_mem_nil, or_false] at hrow
  obtain rfl | rfl | rfl | rfl | rfl | rfl | rfl | rfl | rfl | rfl | rfl | rfl := hrow <;> rfl

end Sys2Proof.Machine

namespace Sys2Proof
open Machine

/-- Settles O22: an instruction with its operands and leave issues, and `addVop` puts it behind those of the vector unit. -/
theorem vectorIssues : Obligations.VectorIssues := by
  unfold Obligations.VectorIssues
  intro row hrow e c w s hhead hready hnext
  obtain ⟨grant, u, hund, hattempt, hgrant⟩ := attempt_ready hhead hready rfl
  rw [exec_vector hrow]
  refine settles_onEng ?_
  rw [hattempt, vectorForm_eff]
  have hctx : stillCtx (ctx (modEngine (fresh u).2 e (addVop (newVop u e c w u.nextId grant))) e c) = stillCtx (ctx s.m e c) := by
    rw [ctx_modEngine _ _ _ _ _ (ctx_addVop _)]
    exact hund.2.2 e c
  have heng : stillEng (engine (signalled s.clk e c w u.nextId (modEngine (fresh u).2 e (addVop (newVop u e c w u.nextId grant)))) e)
      = stillEng (addVop (newVop u e c w u.nextId grant) (engine u e)) := by
    rw [stillEng_signalled, engine_modEngine, if_pos rfl]
    rfl
  refine ⟨pc_signalled hctx .., newVop u e c w u.nextId grant, ?_, rfl, rfl, vectorArgs_of_stillCtx (hund.2.2 e c) w, fun hne => ?_⟩
  · rw [vops_of_stillEng heng, addVop, vops_of_stillEng (hund.2.1 e)]
  · rw [gov_signalled hctx hnext]
    exact hgrant hne

end Sys2Proof
end

/-! # The vector unit writes its results (R111, R113 to R115)

What a register, a lane and a packed half read after a write, what a store lays down, and the end of the oldest instruction
of the vector unit. -/

section
namespace Sys2Proof.Machine

/-! ## Registers: a read after a write -/

theorem lane_setLane {r s i j : Nat} (hi : i < 256) (hj : j < 256) (v : W32) (e : Engine) :
    lane (setLane r i v e) s j = if s = r ∧ j = i then v else lane e s j := by
  have hkey : 256 * s + j = 256 * r + i ↔ s = r ∧ j = i := by omega
  simp only [lane, setLane, sget_sset, hkey]

/-- A word with its half i replaced by v: that half reads as written, the other as before. -/
theorem half_of_word {i j : Nat} (hij : j / 2 = i / 2) (old : W32) (v : Nat) :
    (BitVec.ofNat 32 ((if i % 2 = 0 then old.toNat / 65536 * 65536 else old.toNat % 65536) + v % 65536 * 65536 ^ (i % 2))).toNat
        / 65536 ^ (j % 2) % 65536
      = if j = i then v % 65536 else old.toNat / 65536 ^ (j % 2) % 65536 := by
  have hold := old.isLt
  rw [BitVec.toNat_ofNat]
  rcases Nat.mod_two_eq_zero_or_one i with hi | hi <;> rcases Nat.mod_two_eq_zero_or_one j with hj | hj
  · rw [if_pos (by omega : j = i)]
    simp only [hi, hj, if_true, pow_zero]
    omega
  · rw [if_neg (by omega : ¬ j = i)]
    simp only [hi, hj, if_true, pow_zero, pow_one]
    omega
  · rw [if_neg (by omega : ¬ j = i)]
    simp only [hi, hj, one_ne_zero, if_false, pow_zero, pow_one]
    omega
  · rw [if_pos (by omega : j = i)]
    simp only [hi, hj, one_ne_zero, if_false, pow_one]
    omega

theorem half_setHalf {r s i j : Nat} (hi : i < 512) (hj : j < 512) (v : Nat) (e : Engine) :
    half (setHalf r i v e) s j = if s = r ∧ j = i then v % 65536 else half e s j := by
  unfold half setHalf
  simp only [lane_setLane (show i / 2 < 256 by omega) (show j / 2 < 256 by omega)]
  by_cases hword : s = r ∧ j / 2 = i / 2
  · obtain ⟨rfl, hij⟩ := hword
    rw [if_pos ⟨rfl, hij⟩, half_of_word hij, hij]
    simp only [true_and]
  · rw [if_neg hword, if_neg fun h => hword ⟨h.1, by rw [h.2]⟩]

/-- Elements 0 to n − 1 of a register written in turn: each reads as written, and no other element changes. -/
theorem get_foldl_put {β : Type} {bound d : Nat} {get : Engine → Nat → Nat → β} {put : Nat → Engine → Engine} {v : Nat → β}
    (hput : ∀ e i r j, i < bound → j < bound → get (put i e) r j = if r = d ∧ j = i then v i else get e r j)
    {n r j : Nat} (hn : n ≤ bound) (hj : j < bound) (e : Engine) :
    get ((List.range n).foldl (fun x i => put i x) e) r j = if r = d ∧ j < n then v j else get e r j := by
  induction n with
  | zero => simp
  | succ n ih =>
    rw [List.range_succ, List.foldl_append, List.foldl_cons, List.foldl_nil, hput _ _ _ _ (by omega) hj, ih (by omega)]
    by_cases hr : r = d
    · obtain h | rfl | h := Nat.lt_trichotomy j n
      · simp [hr, h, h.ne, Nat.lt_succ_of_lt h]
      · simp [hr]
      · simp [hr, h.ne', Nat.not_lt.2 h.le, Nat.not_lt.2 (Nat.succ_le_of_lt h)]
    · simp [hr]

/-- The first n elements of register d read as written, and beside them every element reads as before. -/
theorem written_and_kept {β : Type} {bound n d : Nat} {new old : Nat → Nat → β} {v : Nat → β} (hn : n ≤ bound)
    (h : ∀ r i, i < bound → new r i = if r = d ∧ i < n then v i else old r i) :
    (∀ i < n, new d i = v i) ∧ ∀ r i, i < bound → (r ≠ d ∨ n ≤ i) → new r i = old r i := by
  refine ⟨fun i hi => ?_, fun r i hi hbeside => ?_⟩
  · rw [h d i (by omega), if_pos ⟨rfl, hi⟩]
  · rw [h r i hi, if_neg (by omega)]

theorem lane_foldl_setLane {d n r j : Nat} (hn : n ≤ 256) (hj : j < 256) (v : Nat → W32) (e : Engine) :
    lane ((List.range n).foldl (fun x i => setLane d i (v i) x) e) r j = if r = d ∧ j < n then v j else lane e r j :=
  get_foldl_put (fun x i _ _ hi hj => lane_setLane hi hj (v i) x) hn hj e

theorem half_foldl_setHalf {d n r j : Nat} (hn : n ≤ 512) (hj : j < 512) (v : Nat → Nat) (e : Engine) :
    half ((List.range n).foldl (fun x i => setHalf d i (v i) x) e) r j = if r = d ∧ j < n then v j % 65536 else half e r j :=
  get_foldl_put (v := fun i => v i % 65536) (fun x i _ _ hi hj => half_setHalf hi hj (v i) x) hn hj e

/-! ## Words of the scratchpad -/

theorem peeks_add (m : Mem) (a n k : Nat) : peeks m a (n + k) = peeks m a n ++ peeks m (a + n) k := by
  induction n generalizing a with
  | zero => simp [peeks]
  | succ n ih => rw [Nat.succ_add, peeks, peeks, ih, List.cons_append, Nat.add_assoc, Nat.add_comm 1 n]

theorem length_peeks (m : Mem) (a n : Nat) : (peeks m a n).length = n := by
  induction n generalizing a with
  | zero => rfl
  | succ n ih => rw [peeks, List.length_cons, ih]

theorem length_toLe (n v : Nat) : (toLe n v).length = n := by
  induction n generalizing v with
  | zero => rfl
  | succ n ih => rw [toLe, List.length_cons, ih]

theorem leNat_toLe (n v : Nat) : leNat (toLe n v) = v % 256 ^ n := by
  induction n generalizing v with
  | zero => rw [toLe, leNat, pow_zero, Nat.mod_one]
  | succ n ih => rw [toLe, leNat, ih, pow_succ', Nat.mod_mul, BitVec.toNat_ofNat]

/-- Pieces of k bytes laid down in turn: each stands at its place. -/
theorem peeks_piece {f : Nat → List Byte} {k : Nat} (hf : ∀ i, (f i).length = k) {n : Nat} {m : Mem} {a : Nat}
    (h : peeks m a (n * k) = (List.range n).flatMap f) {i : Nat} (hi : i < n) : peeks m (a + i * k) k = f i := by
  induction n with
  | zero => exact absurd hi (Nat.not_lt_zero i)
  | succ n ih =>
    rw [Nat.succ_mul, peeks_add, List.range_succ, List.flatMap_append, List.flatMap_singleton] at h
    obtain ⟨hinit, hlast⟩ := List.append_inj' h (by rw [length_peeks, hf])
    obtain hlt | rfl := Nat.lt_succ_iff_lt_or_eq.1 hi
    · exact ih hinit hlt
    · exact hlast

/-- The bytes of 256 lanes. -/
def laneBytes (f : Nat → W32) : List Byte := (List.range 256).flatMap fun i => toLe 4 (f i).toNat

theorem length_laneBytes (f : Nat → W32) : (laneBytes f).length = 1024 := by
  simp only [laneBytes, List.length_flatMap, length_toLe, List.map_const', List.length_range, List.sum_replicate_nat]

/-- Each lane stored reads as a word of the scratchpad. -/
theorem word32_padWrite_lanes (m : Mod) (g off : Nat) (f : Nat → W32) {i : Nat} (hi : i < 256) :
    word32 (padWrite m g off (laneBytes f)) g off i = f i := by
  have hbytes := peeks_padWrite m g off (laneBytes f)
  rw [length_laneBytes, show 1024 = 256 * 4 from rfl] at hbytes
  have hplace : padAddr g (off + 4 * i) = padAddr g off + i * 4 := by unfold padAddr; omega
  rw [word32, padRead, hplace, peeks_piece (fun i => length_toLe 4 _) hbytes hi, leNat_toLe,
    Nat.mod_eq_of_lt (show (f i).toNat < 256 ^ 4 from (f i).isLt), BitVec.ofNat_toNat, BitVec.setWidth_eq]

theorem word32_of_mem {m u : Mod} (h : u.mem = m.mem) (g off i : Nat) : word32 u g off i = word32 m g off i := by
  rw [word32, word32, padRead, padRead, h]

/-! ## No result touches a governor -/

@[simp] theorem pwr_padWrite (m : Mod) (g off : Nat) (data : List Byte) : (padWrite m g off data).pwr = m.pwr :=
  List.foldlRecOn (motive := fun u : Mod => u.pwr = m.pwr) _ _ rfl fun _ h _ _ => h

theorem pwr_foldl {α : Type} {f : Mod → α → Mod} {l : List α} {m : Mod} (hf : ∀ u x, (f u x).pwr = u.pwr) : (l.foldl f m).pwr = m.pwr :=
  List.foldlRecOn (motive := fun u : Mod => u.pwr = m.pwr) _ _ rfl fun u hu x _ => (hf u x).trans hu

@[simp] theorem pwr_writeVals (g off : Nat) (src : Hdr) (fmt : Nat) (sr : Bool) (vs : List Val) (m : Mod) :
    (writeVals g off src fmt sr vs m).pwr = m.pwr := by
  unfold writeVals
  cases sr <;> exact pwr_padWrite ..

@[simp] theorem pwr_writePlane (g off : Nat) (src : Hdr) (bs : List Bool) (nf : Nat) (m : Mod) :
    (writePlane g off src bs nf m).pwr = m.pwr := pwr_padWrite ..

@[simp] theorem pwr_putMoment (g : Nat) (u : UpdRec) (off i : Nat) (v : W32) (m : Mod) : (putMoment g u off i v m).pwr = m.pwr := by
  unfold putMoment
  split_ifs <;> exact pwr_padWrite ..

@[simp] theorem pwr_putCopy (g : Nat) (u : UpdRec) (m : Mod) : (putCopy g u m).pwr = m.pwr := by
  unfold putCopy
  rw [pwr_padWrite]
  split_ifs <;> rfl

theorem pwr_runUpdate (g : Nat) (as : List Nat) (m : Mod) : (runUpdate g as m).pwr = m.pwr := by
  unfold runUpdate
  simp only
  split_ifs
  · exact pwr_padWrite ..
  · rw [pwr_padWrite, pwr_putCopy]
    refine List.foldlRecOn (motive := fun a : Mod × Nat => a.1.pwr = m.pwr) _ _ rfl fun a ha i _ => ?_
    split_ifs <;> simp [ha]
  · rw [pwr_padWrite]
    refine List.foldlRecOn (motive := fun a : Mod × Nat => a.1.pwr = m.pwr) _ _ rfl fun a ha i _ => ?_
    split_ifs <;> simp [ha]

theorem pwr_runHist (g : Nat) (w : LviWord) (as : List Nat) (m : Mod) : (runHist g w as m).pwr = m.pwr := by
  refine (pwr_foldl fun _ _ => pwr_padWrite ..).trans ?_
  split_ifs
  · exact pwr_padWrite ..
  · rfl

/-- Results go to registers, to the scratchpad and to a counter. -/
theorem pwr_vectorRun (g : Nat) (v : VOp) (m : Mod) : (vectorRun g v m).pwr = m.pwr := by
  unfold vectorRun
  simp only
  split
  · rfl
  · exact pwr_padWrite ..
  · rfl
  · exact pwr_writeVals ..
  · rfl
  · rfl
  · unfold runAct
    split_ifs <;> simp
  · exact pwr_writeVals ..
  · exact pwr_runUpdate ..
  · exact pwr_runHist ..
  · unfold runSelect
    split_ifs <;> simp
  · unfold runSign setCnt
    split_ifs <;> simp

/-! ## The end of the oldest instruction -/

/-- The module in which the results of a vector instruction are written: its leave returned, its cycles counted. -/
def leaveReturned (g : Nat) (v : VOp) (m : Mod) : Mod := countEv (returnLeave m (g / 16) v.leave) g 0x0F (laneCycles v)

theorem undisturbed_leaveReturned (g : Nat) (v : VOp) (m : Mod) : Undisturbed m (leaveReturned g v m) :=
  Still.trans (Still.returnLeave ..) (Still.countEv ..)

theorem grants_leaveReturned (g : Nat) (v : VOp) (m : Mod) : sget 0 (gov (leaveReturned g v m) (g / 16)).grants v.leave = 0 := by
  rw [leaveReturned, countEv_outside (fun m => gov m _) fun _ _ _ => rfl]
  exact grants_returnLeave ..

/-- The oldest instruction, with no pin and no poison in its way, writes its results and is gone. -/
theorem vectorComplete_eq {g : Nat} {v : VOp} {m : Mod} (hv : (engine m g).vops.find? isVector = some v)
    (hpin : ((vectorWrites m g v.word v.args).any fun r => pinned m g r.1 r.2) = false)
    (hpoison : ((vectorReads m g v.word v.args).find? fun r => padPoison m g r.1 r.2) = none) (t : Clk) :
    vectorComplete g v.id t m = dropVop g v.id (vectorRun g v (leaveReturned g v m)) := by
  simp only [vectorComplete, hv, hpin, hpoison, ne_eq, not_true, if_false, Bool.false_eq_true]
  rfl

theorem vreg_dropVop (g id : Nat) (m : Mod) : (engine (dropVop g id m) g).vreg = (engine m g).vreg := by
  simp [dropVop]

theorem mem_dropVop (g id : Nat) (m : Mod) : (dropVop g id m).mem = m.mem := rfl

/-- A register form leaves the registers it makes of those it found. -/
theorem vreg_dropVop_modEngine (g id : Nat) (f : Engine → Engine) (m : Mod) :
    (engine (dropVop g id (modEngine m g f)) g).vreg = (f (engine m g)).vreg := by
  simp [dropVop]

theorem id_ne_of_mem_dropVop {g id : Nat} {m : Mod} {y : VOp} (h : y ∈ (engine (dropVop g id m) g).vops) : y.id ≠ id := by
  simp only [dropVop, engine_modEngine, if_true] at h
  simpa using (List.mem_filter.1 h).2

theorem lane_of_vreg {x y : Engine} (h : x.vreg = y.vreg) (r i : Nat) : lane x r i = lane y r i := by rw [lane, lane, h]

theorem half_of_vreg {x y : Engine} (h : x.vreg = y.vreg) (r i : Nat) : half x r i = half y r i := by rw [half, half, lane_of_vreg h]

/-- What leaves the engines undisturbed leaves their registers as they were. -/
theorem vreg_of_undisturbed {m u : Mod} (h : Undisturbed m u) (g : Nat) : (engine u g).vreg = (engine m g).vreg :=
  congrArg (·.vreg) (h.2.1 g)

theorem mem_of_undisturbed {m u : Mod} (h : Undisturbed m u) : u.mem = m.mem := congrArg (·.mem) h.1

/-! ## VLD, VST, VARITH and VTRANS -/

section
variable {g : Nat} {v : VOp} {m : Mod}

theorem vectorRun_vld (h : wOp v.word = 0x80) : vectorRun g v m = runLoad g v.word v.args m := by
  simp only [vectorRun, h]

theorem vectorRun_vst (h : wOp v.word = 0x81) : vectorRun g v m = runStore g v.word v.args m := by
  simp only [vectorRun, h]

theorem vectorRun_varith (h : wOp v.word = 0x82) :
    vectorRun g v m = modEngine m g (runArith v.word (BitVec.ofNat 32 (arg v.args 0))) := by
  simp only [vectorRun, h]

theorem vectorRun_vtrans (h : wOp v.word = 0x84) : vectorRun g v m = modEngine m g (runTrans v.word) := by
  simp only [vectorRun, h]

end

theorem lane_runLoad (m : Mod) (g : Nat) (w : LviWord) (as : List Nat) {i : Nat} (hi : i < 256) :
    lane (engine (runLoad g w as m) g) (wf w 59 5) i = word32 m g (arg as 0) i := by
  rw [runLoad, engine_modEngine, if_pos rfl, lane_foldl_setLane (Nat.le_refl 256) hi, if_pos ⟨rfl, hi⟩]

theorem runStore_eq (m : Mod) (g : Nat) (w : LviWord) (as : List Nat) :
    runStore g w as m = padWrite m g (arg as 0) (laneBytes (lane (engine m g) (wf w 59 5))) := rfl

theorem lane_runArith {w : LviWord} (hfp32 : wb w 42 = false) (bc : W32) (e : Engine) {r i : Nat} (hi : i < 256) :
    lane (runArith w bc e) r i = if r = wf w 59 5 ∧ i < min (wf w 33 9 + 1) 256
      then arith32 (wExt w) (lane e (wf w 54 5) i) (if wb w 43 then bc else lane e (wf w 49 5) i) (lane e (wf w 44 5) i)
      else lane e r i := by
  simp only [runArith, hfp32, Bool.false_eq_true, if_false]
  exact lane_foldl_setLane (Nat.min_le_right ..) hi _ e

theorem half_runArith {w : LviWord} (hbf16 : wb w 42 = true) (bc : W32) (e : Engine) {r i : Nat} (hi : i < 512) :
    half (runArith w bc e) r i = if r = wf w 59 5 ∧ i < wf w 33 9 + 1
      then arith16 (wExt w) (half e (wf w 54 5) i) (if wb w 43 then bc.toNat % 65536 else half e (wf w 49 5) i)
        (half e (wf w 44 5) i) % 65536
      else half e r i := by
  have hn : wf w 33 9 + 1 ≤ 512 := Nat.mod_lt _ (by decide)
  simp only [runArith, hbf16, if_true]
  exact half_foldl_setHalf hn hi _ e

theorem lane_runTrans (w : LviWord) (e : Engine) {r i : Nat} (hi : i < 256) :
    lane (runTrans w e) r i = if r = wf w 59 5 ∧ i < min (wf w 33 9 + 1) 256 then trans32 (wExt w) (lane e (wf w 54 5) i)
      else lane e r i :=
  lane_foldl_setLane (Nat.min_le_right ..) hi _ e

theorem exec_vectorComplete (e : Eng) (id : Nat) (s : State) : exec (.vectorComplete e id) s = onEng (vectorComplete e.val id) s := rfl

end Sys2Proof.Machine

namespace Sys2Proof
open Machine

/-- Settles O23: the registers and the scratchpad read back what each form writes, and as before beside it. -/
theorem vectorCompletes : Obligations.VectorCompletes := by
  unfold Obligations.VectorCompletes
  intro e v s hv hpin hpoison w x d
  rw [exec_vectorComplete]
  refine settles_onEng ?_
  rw [vectorComplete_eq hv hpin hpoison]
  have hund := undisturbed_leaveReturned e v s.m
  have hmem := mem_of_undisturbed hund
  have hreg := vreg_of_undisturbed hund e
  have hgrants := grants_leaveReturned e v s.m
  generalize leaveReturned e v s.m = m at hmem hreg hgrants ⊢
  refine ⟨fun y => id_ne_of_mem_dropVop, ?grants, fun h => ?load, fun h => ?store, fun h hfp32 => ?fp32, fun h hbf16 => ?bf16,
    fun h => ?trans⟩
  case grants =>
    have hgov : gov (dropVop e v.id (vectorRun e v m)) (e / 16) = gov m (e / 16) := by
      rw [gov, gov, ← pwr_vectorRun e v m]
      rfl
    rw [hgov]
    exact hgrants
  case load =>
    rw [vectorRun_vld h]
    refine ⟨hmem, fun i hi => ?_⟩
    rw [lane_of_vreg (vreg_dropVop ..), lane_runLoad m e v.word v.args hi, word32_of_mem hmem]
  case store =>
    have hlanes : lane (engine m e) d = lane x d := funext (lane_of_vreg hreg d)
    have hrun : vectorRun e v m = padWrite m e (arg v.args 0) (laneBytes (lane x d)) := by
      rw [vectorRun_vst h, runStore_eq, hlanes]
    rw [hrun]
    refine ⟨?_, fun i hi => ?_, fun y hy => ?_⟩
    · rw [vreg_dropVop, engine, eng_padWrite]
      exact hreg
    · rw [word32_of_mem (mem_dropVop ..), word32_padWrite_lanes m e _ _ hi]
    · rw [mem_dropVop, peek_padWrite_outside, hmem]
      rwa [length_laneBytes]
  case fp32 =>
    rw [vectorRun_varith h]
    obtain ⟨hwritten, hkept⟩ := written_and_kept (Nat.min_le_right (wf w 33 9 + 1) 256) fun r i hi =>
      lane_runArith hfp32 (BitVec.ofNat 32 (arg v.args 0)) (engine m e) (r := r) hi
    simp only [lane_of_vreg (vreg_dropVop_modEngine ..), lane_of_vreg hreg] at hwritten hkept ⊢
    exact ⟨hmem, hwritten, fun r i hi hbeside => hkept r i hi (hbeside.imp_right (Nat.min_le_left ..).trans)⟩
  case bf16 =>
    rw [vectorRun_varith h]
    obtain ⟨hwritten, hkept⟩ := written_and_kept (Nat.mod_lt _ (by decide) : wf w 33 9 + 1 ≤ 512) fun r i hi =>
      half_runArith hbf16 (BitVec.ofNat 32 (arg v.args 0)) (engine m e) (r := r) hi
    simp only [half_of_vreg (vreg_dropVop_modEngine ..), half_of_vreg hreg] at hwritten hkept ⊢
    exact ⟨hmem, hwritten, hkept⟩
  case trans =>
    rw [vectorRun_vtrans h]
    obtain ⟨hwritten, hkept⟩ := written_and_kept (Nat.min_le_right (wf w 33 9 + 1) 256) fun r i hi =>
      lane_runTrans w (engine m e) (r := r) hi
    simp only [lane_of_vreg (vreg_dropVop_modEngine ..), lane_of_vreg hreg] at hwritten hkept ⊢
    exact ⟨hmem, hwritten, fun r i hi hbeside => hkept r i hi (hbeside.imp_right (Nat.min_le_left ..).trans)⟩

end Sys2Proof
end

/-! # Region operations (R189, R191)

Faults, refusals and the checks of a write disturb nothing, and neither a write nor the end of a command touches a
region's entry; so the entry after REGION_OP_ARRIVAL is the one that the table of R189 gives. -/

section
namespace Sys2Proof.Machine

/-! ## Checks and faults of an access disturb nothing -/

theorem undisturbed_modPart (m : Mod) (k : Nat) (f : PartSt → PartSt) : Undisturbed m (modPart m k f) := Still.of_eng rfl rfl

theorem undisturbed_logErr (t : Clk) (rq : Req) (e : XErr) (m : Mod) : Undisturbed m (logErr t rq e m) :=
  Still.ite (Still.logEngine ..) (Still.logFault ..)

theorem undisturbed_ctlFault (t : Clk) (p : Place) (typ reason : Byte) (addr : Nat) (info : W64) (m : Mod) :
    Undisturbed m (ctlFault t p typ reason addr info m) :=
  Still.ite (Still.logEngine ..) (Still.logFault ..)

theorem undisturbed_integrityEvent (t : Clk) (p : Place) (m : Mod) : Undisturbed m (integrityEvent t p m) := by
  unfold integrityEvent
  simp only
  split
  · exact Still.trans (undisturbed_ctlFault ..) (undisturbed_modPart ..)
  · exact undisturbed_ctlFault ..

theorem undisturbed_addCorr (m : Mod) (l : Nat) : Undisturbed m (addCorr m l) := Still.of_eng rfl rfl

theorem undisturbed_checkLine (t : Clk) (m : Mod) (p : Place) (ecc : Ecc) : Undisturbed m (checkLine t m p ecc).1 := by
  fun_cases checkLine t m p ecc
  case case1 => exact Still.refl m
  case case2 => exact undisturbed_ctlFault ..
  case case3 => exact undisturbed_integrityEvent ..
  case case4 => exact undisturbed_addCorr ..
  case case5 => exact Still.trans (undisturbed_addCorr ..) (undisturbed_integrityEvent ..)
  case case6 => exact Still.refl m
  case case7 => exact undisturbed_integrityEvent ..

theorem undisturbed_partialCheck (t : Clk) (m : Mod) (p : Place) (n : Nat) (ecc : Ecc) :
    Undisturbed m (partialCheck t m p n ecc).1 := by
  unfold partialCheck
  split
  · split_ifs
    · exact Still.refl m
    · exact undisturbed_checkLine ..
  · split_ifs
    · exact Still.refl m
    · exact undisturbed_checkLine ..
  · exact Still.refl m

/-- The module of a pair that a function answers. -/
theorem undisturbed_of_fst {β : Type} {r : Mod × β} {m u : Mod} {b : β} (h : r = (u, b)) (hr : Undisturbed m r.1) : Undisturbed m u := by
  rwa [h] at hr

theorem undisturbed_writeSpans (t : Clk) (rq : Req) (ecc : Ecc) (m : Mod) (l : List (Nat × Nat)) :
    Undisturbed m (writeSpans t rq ecc m l).1 := by
  fun_induction writeSpans t rq ecc m l
  case case7 hcheck => exact undisturbed_of_fst hcheck (undisturbed_partialCheck ..)
  case case8 hcheck _ _ hrest ih =>
    exact Still.trans (undisturbed_of_fst hcheck (undisturbed_partialCheck ..)) (undisturbed_of_fst hrest ih)
  case case9 hcheck _ _ hrest ih =>
    exact Still.trans (undisturbed_of_fst hcheck (undisturbed_partialCheck ..)) (undisturbed_of_fst hrest ih)
  all_goals exact Still.refl _

/-! ## What leaves the region tables as they are -/

theorem regions_of_undisturbed {m u : Mod} (h : Undisturbed m u) : u.regions = m.regions := congrArg (·.regions) h.1

theorem regions_foldl {α : Type} {f : Mod → α → Mod} {l : List α} {m : Mod} (hf : ∀ u x, (f u x).regions = u.regions) :
    (l.foldl f m).regions = m.regions :=
  List.foldlRecOn (motive := fun u : Mod => u.regions = m.regions) _ _ rfl fun u hu x _ => (hf u x).trans hu

@[simp] theorem regions_sectorPoison (m : Mod) (a n : Nat) (b : Bool) : (sectorPoison m a n b).regions = m.regions :=
  regions_foldl fun _ _ => rfl

@[simp] theorem regions_writePlace (m : Mod) (p : Place) (data : List Byte) (b : Bool) : (writePlace m p data b).regions = m.regions := by
  unfold writePlace
  cases p with
  | pool n off => exact regions_sectorPoison ..
  | pad g off => exact regions_sectorPoison ..
  | host a => cases b <;> rfl
  | _ => rfl

@[simp] theorem regions_applySignal (t : Clk) (die idx count : Nat) (m : Mod) : (applySignal t die idx count m).regions = m.regions := by
  unfold applySignal
  simp only
  split_ifs <;> rfl

theorem regions_applySpans (t : Clk) (poisoned : Bool) (m : Mod) (data : List Byte) (l : List (Place × Nat)) :
    (applySpans t poisoned m data l).regions = m.regions := by
  induction l generalizing m data with
  | nil => rfl
  | cons x r ih =>
    obtain ⟨p, n⟩ := x
    unfold applySpans
    rw [ih]
    cases p <;> simp

theorem regions_writeMem (t : Clk) (m : Mod) (rq : Req) (a : Nat) (data : List Byte) (poisoned : Bool) (ecc : Ecc) :
    (writeMem t m rq a data poisoned ecc).1.regions = m.regions := by
  have hspans := undisturbed_writeSpans t rq ecc m (spans a data.length)
  unfold writeMem
  split
  next heq => exact regions_of_undisturbed (Still.trans (undisturbed_of_fst heq hspans) (undisturbed_logErr ..))
  next heq => exact (regions_applySpans ..).trans (regions_of_undisturbed (undisturbed_of_fst heq hspans))

@[simp] theorem regions_regionResult (m : Mod) (td entry : Nat) (q : RegReq) : (regionResult m td entry q).regions = m.regions := by
  unfold regionResult
  split <;> rfl

/-- The command of an operation ends, its result written or faulted. -/
theorem regions_regionCmd (t : Clk) (m : Mod) (td entry : Nat) (q : RegReq) : (regionCmd t m td entry q).regions = m.regions := by
  unfold regionCmd
  split
  next => rfl
  next sq tag _ =>
    split
    next c _ _ _ _ =>
      have hwrite := regions_writeMem t m
        { who := .cmd (Fin.ofNat 1024 sq) (BitVec.ofNat 16 tag), part := c.part, phys := c.part.isNone, owner := none }
        (fld c.entry 0x28 8) (toLe 8 (8192 * td + entry)) false .clean
      simp only
      split
      next heq =>
        rw [heq] at hwrite
        exact (regions_of_undisturbed (Still.trans (Still.faultCmd ..) (Still.endCmd ..))).trans hwrite
      next heq =>
        rw [heq] at hwrite
        exact (regions_of_undisturbed (Still.endCmd ..)).trans hwrite
    next => exact regions_of_undisturbed (Still.endCmd ..)

/-- A refusal faults the task, the command or the unit that asked. -/
theorem undisturbed_regionRefused (t : Clk) (m : Mod) (td : Nat) (q : RegReq) (r : Byte) : Undisturbed m (regionRefused t m td q r) := by
  refine Still.trans (Still.dropSignals m q.id) ?_
  unfold regionRefused
  split
  · exact Still.retireAt ..
  · split
    · exact Still.faultTask ..
    · exact Still.logFault ..
    · exact Still.logFault ..
    · exact Still.logFault ..

@[simp] theorem regions_dropAllFreed (m : Mod) : (dropAllFreed m).regions = m.regions :=
  regions_foldl fun _ _ => regions_foldl fun _ _ => rfl

/-! ## REGION_OP_ARRIVAL -/

section
variable {t : Clk} {d i : Nat} {q : RegReq} {m : Mod} (hsvc : svcRuns m 1 6 d = false) (hq : (sget [] m.regQ d)[i]? = some q)
  (hdeps : depsDone m q.deps = true)
include hsvc hq hdeps

theorem regionArrival_eq : regionArrival d i t m = dropAllFreed (regionApply d q t m) := by
  have harrive : regionArrive m d i = some q := by simp [regionArrive, hq, hdeps]
  simp [regionArrival, hsvc, harrive]

/-- An operation that the table grants leaves its entry as the table says. -/
theorem region_regionArrival {entry : Nat} {r : Region} (hstep : regionStep t m d q = .ok (entry, r)) :
    region (regionArrival d i t m) d entry = r := by
  have hregions : (regionArrival d i t m).regions = (setRegion (dropRegion m d q.id) d entry r).regions := by
    simp only [regionArrival_eq hsvc hq hdeps, regions_dropAllFreed, regionApply, hstep, regions_regionCmd, regions_regionResult]
  rw [region, hregions]
  exact region_setRegion ..

/-- One that the table refuses changes no entry. -/
theorem regions_regionArrival_refused {x : Byte} (hstep : regionStep t m d q = .error x) :
    (regionArrival d i t m).regions = m.regions := by
  simp only [regionArrival_eq hsvc hq hdeps, regions_dropAllFreed, regionApply, hstep]
  exact (regions_of_undisturbed (undisturbed_regionRefused ..)).trans (rfl : (dropRegion m d q.id).regions = m.regions)

end

theorem exec_regionOpArrival (d : Tier) (i : Nat) (s : State) : exec (.regionOpArrival d i) s = onAll (regionArrival d.val i) s := rfl

/-! ## The table of R189 -/

section
variable {t : Clk} {m : Mod} {d : Nat} {q : RegReq}

theorem regionStep_opn {base size n : Nat} (hop : q.op = .opn base size) (hok : openErr m d q.part base size (isLanding q.result) = none)
    (hfree : freeEntry m d = some n) : regionStep t m d q
      = .ok (n, { st := .filling, base := base / 0x200000, size := size, part := q.part, owner := q.who }) := by
  simp [regionStep, hop, hok, hfree, unit2M]

theorem regionStep_reclaim (hop : q.op = .reclaim) (hdriver : isDriver q.who = true)
    (hpart : (region m d q.entry).part = q.part ∨ (region m d q.entry).st = .free) :
    regionStep t m d q = .ok (q.entry, if (region m d q.entry).st = .free then region m d q.entry else {}) := by
  simp [regionStep, hop, hdriver, hpart]

variable (hpart : (region m d q.entry).part = q.part)
include hpart

theorem regionStep_seal {k : Nat} (hop : q.op = .seal k) (hst : (region m d q.entry).st = .filling)
    (howner : (region m d q.entry).owner = q.who) (hk : k ≠ 0) :
    regionStep t m d q = .ok (q.entry, { region m d q.entry with st := .sealed, d := k, done := 0, sealTime := t.sid }) := by
  simp [regionStep, hop, hpart, hst, howner, hk]

theorem regionStep_abandon (hop : q.op = .abandon) (hst : (region m d q.entry).st = .filling)
    (howner : (region m d q.entry).owner = q.who ∨ isDriver q.who = true) : regionStep t m d q = .ok (q.entry, {}) := by
  simp [regionStep, hop, hpart, hst, howner]

theorem regionStep_done (hop : q.op = .done) (hst : (region m d q.entry).st = .sealed ∨ (region m d q.entry).st = .released)
    (hleft : (region m d q.entry).done < (region m d q.entry).d) :
    regionStep t m d q = .ok (q.entry, doneRegion (region m d q.entry)) := by
  simp [regionStep, hop, hpart, hst, hleft]

theorem regionStep_release (hop : q.op = .release) (hst : (region m d q.entry).st = .sealed)
    (howner : (region m d q.entry).owner = q.who ∨ isDriver q.who = true) : regionStep t m d q
      = .ok (q.entry, if (region m d q.entry).done = (region m d q.entry).d then {} else { region m d q.entry with st := .released }) := by
  simp [regionStep, hop, hpart, hst, howner]

end

/-- A read that is not the last of a RELEASED region is counted. -/
theorem doneRegion_counts {r : Region} (h : r.st = .sealed ∨ (r.st = .released ∧ r.done + 1 ≠ r.d)) :
    doneRegion r = { r with done := r.done + 1 } :=
  if_neg fun ⟨hst, hlast⟩ => h.elim (fun hsealed => by simp [hsealed] at hst) fun hmore => hmore.2 hlast

/-- The last read of a RELEASED region frees it. -/
theorem doneRegion_frees {r : Region} (hst : r.st = .released) (hlast : r.done + 1 = r.d) : doneRegion r = {} := if_pos ⟨hst, hlast⟩

end Sys2Proof.Machine

namespace Sys2Proof
open Machine

/-- Settles O16: the entry after the arrival is the one that `regionStep`, the table of R189, gives. -/
theorem regionOpsApply : Obligations.RegionOpsApply := by
  unfold Obligations.RegionOpsApply
  intro d i q s hsvc hq hdeps r gives
  have applies : ∀ {entry : Nat} {r' : Region}, regionStep s.clk s.m d q = .ok (entry, r') → gives entry r' := fun hstep =>
    settlesAll_onAll (region_regionArrival hsvc hq hdeps hstep)
  refine ⟨?opens, ?seals, ?abandons, ?counts, ?frees, ?releases, ?reclaims, ?refused⟩
  case opens => exact fun base size n hop hok hfree => applies (regionStep_opn hop hok hfree)
  case seals => exact fun k hop hpart hst howner hk => applies (regionStep_seal hpart hop hst howner hk)
  case abandons => exact fun hop hpart hst howner => applies (regionStep_abandon hpart hop hst howner)
  case counts =>
    intro hop hpart hst hleft
    rw [← doneRegion_counts hst]
    exact applies (regionStep_done hpart hop (hst.imp_right And.left) hleft)
  case frees =>
    intro hop hpart hst hlast
    rw [← doneRegion_frees hst hlast]
    exact applies (regionStep_done hpart hop (Or.inr hst) (hlast ▸ Nat.lt_succ_self _))
  case releases => exact fun hop hpart hst howner => applies (regionStep_release hpart hop hst howner)
  case reclaims => exact fun hop hdriver hpart => applies (regionStep_reclaim hop hdriver hpart)
  case refused => exact fun x hstep => settlesAll_onAll (regions_regionArrival_refused hsvc hq hdeps hstep)

end Sys2Proof
end

/-! # Memory reads, writes and reduce writes (R156 to R160, R175, R176)

What a read leaves of the bytes, the one place that a write within a line reaches, and the bytes that each kind of reduce
write changes at the slice. -/

section
namespace Sys2Proof.Machine

/-! ## What an access leaves of memory -/

theorem out_of_undisturbed {m u : Mod} (h : Undisturbed m u) : u.out = m.out := congrArg (·.out) h.1

theorem router_of_undisturbed {m u : Mod} (h : Undisturbed m u) : u.router = m.router := congrArg (·.router) h.1

theorem draw_of_undisturbed {m u : Mod} (h : Undisturbed m u) : u.draw = m.draw := congrArg (·.draw) h.1

theorem undisturbed_fillPages (m : Mod) (rq : Req) (wr : Bool) (a len : Nat) : Undisturbed m (fillPages m rq wr a len) := by
  unfold fillPages
  split
  · refine Still.foldl _ (fun u c => ?_) _ m
    split
    · exact undisturbed_modPart ..
    · exact Still.refl u
  · exact Still.refl m

/-- The bytes and lines of memory and what has been sent out are the same; sectors may be poisoned. -/
structure BytesKept (m u : Mod) : Prop where
  cells : u.mem.cells = m.mem.cells
  lines : u.mem.lines = m.mem.lines
  out : u.out = m.out

theorem BytesKept.refl (m : Mod) : BytesKept m m := ⟨rfl, rfl, rfl⟩

theorem BytesKept.trans {a b c : Mod} (h : BytesKept a b) (k : BytesKept b c) : BytesKept a c :=
  ⟨k.cells.trans h.cells, k.lines.trans h.lines, k.out.trans h.out⟩

theorem bytesKept_of_undisturbed {m u : Mod} (h : Undisturbed m u) : BytesKept m u :=
  ⟨congrArg (·.cells) (mem_of_undisturbed h), congrArg (·.lines) (mem_of_undisturbed h), out_of_undisturbed h⟩

theorem bytesKept_of_fst {β : Type} {r : Mod × β} {m u : Mod} {b : β} (h : r = (u, b)) (hr : BytesKept m r.1) : BytesKept m u := by
  rwa [h] at hr

/-! ## Reads -/

theorem bytesKept_syncEcc (m : Mod) (d i : Nat) (ecc : Ecc) : BytesKept m (syncEcc m d i ecc) := by
  cases ecc <;> exact ⟨rfl, rfl, rfl⟩

theorem bytesKept_poison (m : Mod) (poison : Sparse Bool) : BytesKept m { m with mem := { m.mem with poison := poison } } := ⟨rfl, rfl, rfl⟩

/-- What ECC cannot correct in a die pool or a scratchpad poisons its sector. -/
theorem bytesKept_readPlace (t : Clk) (m : Mod) (p : Place) (n : Nat) (ecc : Ecc) : BytesKept m (readPlace t m p n ecc).1 := by
  cases p with
  | hbm => exact bytesKept_of_undisturbed (undisturbed_checkLine ..)
  | tier => exact bytesKept_of_undisturbed (undisturbed_checkLine ..)
  | pool =>
    cases ecc with
    | clean => exact .refl m
    | corrected => exact bytesKept_of_undisturbed (undisturbed_addCorr ..)
    | uncorrectable => exact (bytesKept_poison m _).trans (bytesKept_of_undisturbed (undisturbed_ctlFault ..))
    | tampered => exact .refl m
  | pad =>
    cases ecc with
    | clean => exact .refl m
    | corrected => exact bytesKept_of_undisturbed (Still.trans (undisturbed_addCorr ..) (Still.countEv ..))
    | uncorrectable => exact (bytesKept_poison m _).trans (bytesKept_of_undisturbed (undisturbed_ctlFault ..))
    | tampered => exact .refl m
  | sync => exact .refl m
  | host => exact .refl m
  | nowhere => exact .refl m

theorem bytesKept_readSpans (t : Clk) (rq : Req) (ecc : Ecc) (m : Mod) (l : List (Nat × Nat)) :
    BytesKept m (readSpans t rq ecc m l).1 := by
  fun_induction readSpans t rq ecc m l
  case case3 => exact bytesKept_syncEcc ..
  case case4 => exact bytesKept_syncEcc ..
  case case6 hplace _ _ hrest ih => exact (bytesKept_of_fst hplace (bytesKept_readPlace ..)).trans (bytesKept_of_fst hrest ih)
  case case7 hplace _ _ _ hrest ih => exact (bytesKept_of_fst hplace (bytesKept_readPlace ..)).trans (bytesKept_of_fst hrest ih)
  all_goals exact .refl _

theorem bytesKept_readMem (t : Clk) (m : Mod) (rq : Req) (a len : Nat) (ecc : Ecc) : BytesKept m (readMem t m rq a len ecc).1 := by
  have hspans := bytesKept_readSpans t rq ecc m (spans a len)
  unfold readMem
  split
  next heq => exact (bytesKept_of_fst heq hspans).trans (bytesKept_of_undisturbed (undisturbed_logErr ..))
  next => exact hspans

/-- A read that its checks let through changes no byte, and a host is sent what it read. -/
theorem memoryRead_ok {r : Requester} {a n : Nat} {ecc : Ecc} {t : Clk} {m m1 : Mod} {bs : List Byte} {bad : Bool}
    (hgo : accessWaits m (reqOf m r) false a n = false) (hread : readMem t m (reqOf m r) a n ecc = (m1, .ok (bs, bad))) :
    (memoryRead r a n ecc t m).mem.cells = m.mem.cells ∧ (memoryRead r a n ecc t m).mem.lines = m.mem.lines
      ∧ ∀ f, r = .host f → (memoryRead r a n ecc t m).out = m.out ++ [.readData f.val bs bad] := by
  have hkept : BytesKept m (fillPages m1 (reqOf m r) false a n) :=
    (bytesKept_of_fst hread (bytesKept_readMem ..)).trans (bytesKept_of_undisturbed (undisturbed_fillPages ..))
  simp only [memoryRead, hgo, hread, Bool.false_eq_true, if_false]
  cases r with
  | host f =>
    refine ⟨hkept.cells, hkept.lines, fun f' hf => ?_⟩
    cases hf
    exact congrArg (· ++ _) hkept.out
  | gather d =>
    simp only [reduceCtorEq, false_implies, implies_true, and_true]
    split_ifs <;> exact ⟨hkept.cells, hkept.lines⟩
  | _ => exact ⟨hkept.cells, hkept.lines, nofun⟩

/-- A read that is refused to a host answers an error, and the fault log has its entry. -/
theorem memoryRead_refused_host {f : Func} {a n : Nat} {ecc : Ecc} {t : Clk} {m m1 : Mod} {x : XErr}
    (hgo : accessWaits m (reqOf m (.host f)) false a n = false) (hread : readMem t m (reqOf m (.host f)) a n ecc = (m1, .error x)) :
    memoryRead (.host f) a n ecc t m = emit (.readUR f.val) m1 := by
  simp only [memoryRead, hgo, hread, Bool.false_eq_true, if_false, errorResponse]

/-- A read that is refused leaves its entry last in the log of its requester's unit. -/
theorem logErr_of_readMem {t : Clk} {m m1 : Mod} {rq : Req} {a n : Nat} {ecc : Ecc} {x : XErr}
    (h : readMem t m rq a n ecc = (m1, .error x)) : ∃ u, m1 = logErr t rq x u := by
  unfold readMem at h
  split at h
  · cases h
    exact ⟨_, rfl⟩
  next hne => exact absurd h (hne _ _)

theorem flog_logErr_host (t : Clk) {rq : Req} {f : Func} (h : rq.who = .host f) (x : XErr) (m : Mod) :
    (flog (logErr t rq x m) logHN).last = { errEntry rq x with time := t.sid } := by
  have hlog : logErr t rq x m = logFault t logHN (errEntry rq x) m := by simp [logErr, h, reqLog, logHN]
  rw [hlog, flog_logFault]
  rfl

/-! ## Writes -/

theorem spans_within_line {a n : Nat} (hn : n ≠ 0) (h : a % 256 + n ≤ 256) : spans a n = [(a, n)] := by
  have hmin : min n (256 - a % 256) = n := Nat.min_eq_left (by omega)
  simp [spans, chunks, hn, hmin]

theorem cells_foldl {α : Type} {f : Mod → α → Mod} {l : List α} {m : Mod} (hf : ∀ u x, (f u x).mem.cells = u.mem.cells) :
    (l.foldl f m).mem.cells = m.mem.cells :=
  List.foldlRecOn (motive := fun u : Mod => u.mem.cells = m.mem.cells) _ _ rfl fun u hu x _ => (hf u x).trans hu

/-- A write at a place lays down its bytes there; beside them it changes lines and poison alone. -/
theorem cells_writePlace (m : Mod) (p : Place) (data : List Byte) (b : Bool) :
    (writePlace m p data b).mem.cells = (pokes m.mem (cellAddr p) data).cells := by
  unfold writePlace
  cases p with
  | pool n off => exact cells_foldl fun _ _ => rfl
  | pad g off => exact cells_foldl fun _ _ => rfl
  | host a => cases b <;> rfl
  | _ => rfl

/-- Memory whose bytes are those that a store of n bytes leaves. -/
theorem stored_of_cells {x y : Mem} {a n : Nat} {bs : List Byte} (hlen : bs.length = n) (h : x.cells = (pokes y a bs).cells) :
    peeks x a n = bs ∧ ∀ b, (b < a ∨ a + n ≤ b) → peek x b = peek y b := by
  subst hlen
  exact ⟨(peeks_of_cells h ..).trans (peeks_pokes ..), fun b hb => (peek_of_cells h b).trans (peek_pokes_outside _ _ _ _ hb)⟩

theorem applySpans_place {p : Place} (hsync : ∀ i o, p ≠ .sync i o) (t : Clk) (poisoned : Bool) (m : Mod) (data : List Byte) :
    applySpans t poisoned m data [(p, data.length)] = writePlace m p data poisoned := by
  cases p with
  | sync i o => exact absurd rfl (hsync i o)
  | _ => simp [applySpans]

section
variable {t : Clk} {m m1 : Mod} {rq : Req} {a : Nat} {data : List Byte} {poisoned b : Bool} {ecc : Ecc} {p : Place}

/-- A write within one line that its checks let through writes at its place. -/
theorem writeMem_within_line (hne : data ≠ []) (hline : a % 256 + data.length ≤ 256) (hspan : spanCheck m rq true a = .ok (p, b))
    (hsync : ∀ i o, p ≠ .sync i o) (hwrite : writeMem t m rq a data poisoned ecc = (m1, none)) :
    ∃ u, Undisturbed m u ∧ m1 = writePlace u p data poisoned := by
  have hund := undisturbed_partialCheck t m p data.length ecc
  rw [writeMem, spans_within_line (mt List.length_eq_zero_iff.1 hne) hline] at hwrite
  simp only [writeSpans, hspan] at hwrite
  generalize partialCheck t m p data.length ecc = checked at hund hwrite
  obtain ⟨u, passed⟩ := checked
  by_cases hheld : loaderHolds m rq p data.length = true
  · simp [hheld] at hwrite
  · cases passed with
    | false => simp [hheld] at hwrite
    | true =>
      simp only [hheld, Bool.false_eq_true, if_false, applySpans_place hsync] at hwrite
      exact ⟨u, hund, (congrArg Prod.fst hwrite).symm⟩

/-- MEMORY_WRITE of such bytes stores them where the address leads. -/
theorem memoryWrite_within_line {r : Requester} (hne : data ≠ []) (hline : a % 256 + data.length ≤ 256)
    (hheld : writeHeld m (reqOf m r) a data.length = false) (hgo : accessWaits m (reqOf m r) true a data.length = false)
    (hspan : spanCheck m (reqOf m r) true a = .ok (p, b)) (hsync : ∀ i o, p ≠ .sync i o)
    (hwrite : writeMem t m (reqOf m r) a data poisoned ecc = (m1, none)) :
    (memoryWrite r a data poisoned ecc t m).mem.cells = (pokes m.mem (cellAddr p) data).cells := by
  obtain ⟨u, hund, rfl⟩ := writeMem_within_line hne hline hspan hsync hwrite
  simp only [memoryWrite, hheld, hgo, hwrite, Bool.false_eq_true, or_self, if_false]
  rw [mem_of_undisturbed (undisturbed_fillPages ..), cells_writePlace, mem_of_undisturbed hund]

end

/-! ## Sums at a slice of the die pool (R156 to R158, R583) -/

/-- The poison of lines hangs on memory alone. -/
theorem mem_poisonLines {m u : Mod} (h : u.mem = m.mem) (a n : Nat) : (poisonLines u a n).mem = (poisonLines m a n).mem := by
  unfold poisonLines
  refine List.foldl_rel (r := fun x y : Mod => x.mem = y.mem) h fun c _ x y hxy => ?_
  simp only [hxy]

theorem cells_poisonLines (m : Mod) (a n : Nat) : (poisonLines m a n).mem.cells = m.mem.cells := cells_foldl fun _ _ => rfl

theorem router_poisonLines (m : Mod) (a n : Nat) : (poisonLines m a n).router = m.router :=
  List.foldlRecOn (motive := fun u : Mod => u.router = m.router) _ _ rfl fun _ hu _ _ => hu

/-- A sum replaces its bytes; beside them it poisons sectors alone. -/
theorem cells_putSum (a : Nat) (bs : List Byte) (poisoned : Bool) (m : Mod) :
    (putSum a bs poisoned m).mem.cells = (pokes m.mem a bs).cells := by
  unfold putSum
  simp only
  split_ifs
  · exact cells_poisonLines ..
  · rfl

theorem router_putSum (a : Nat) (bs : List Byte) (poisoned : Bool) (m : Mod) : (putSum a bs poisoned m).router = m.router := by
  unfold putSum
  simp only
  split_ifs
  · exact router_poisonLines ..
  · rfl

theorem mem_putSum {m u : Mod} (h : u.mem = m.mem) (a : Nat) (bs : List Byte) (poisoned : Bool) :
    (putSum a bs poisoned u).mem = (putSum a bs poisoned m).mem := by
  have hbad : sectorsBad u (a / 256 * 256) (roundUp bs.length 256) = sectorsBad m (a / 256 * 256) (roundUp bs.length 256) := by
    simp only [sectorsBad, h]
  unfold putSum
  simp only [hbad]
  split_ifs
  · exact mem_poisonLines (by simp only [h]) ..
  · simp only [h]

/-- One pair of a MERGE added to its element. -/
def mergePair (ps : List (Nat × Nat × Nat)) (n : Nat) (poisoned : Bool) (acc : Mod × ReduceOut) (p : Nat × W32) : Mod × ReduceOut :=
  if p.1 < n then
    (putSum (pieceAddr ps (4 * p.1)) (toLe 4 (fadd (BitVec.ofNat 32 (leNat (peeks acc.1.mem (pieceAddr ps (4 * p.1)) 4))) p.2).toNat)
      poisoned acc.1, acc.2)
  else (acc.1, { acc.2 with past := acc.2.past ++ [p.1] })

/-- The counters of two lines after SIGNCNT (R158). -/
def countedBytes (old : List Byte) (add : Nat → Nat) (first : Nat) : List Byte :=
  (List.range 128).flatMap fun i => toLe 2 (min 65535 (fld old (2 * (first + i)) 2 + add (first + i)))

theorem length_flatMap_range {f : Nat → List Byte} {k : Nat} (hf : ∀ i, (f i).length = k) (n : Nat) :
    ((List.range n).flatMap f).length = n * k := by
  simp [List.length_flatMap, hf]

theorem length_countedBytes (old : List Byte) (add : Nat → Nat) (first : Nat) : (countedBytes old add first).length = 256 :=
  length_flatMap_range (fun _ => length_toLe ..) 128

theorem length_addF32 (old new : List Byte) : (addF32 old new).length = 256 := length_flatMap_range (fun _ => length_toLe ..) 64

theorem length_addB16 (old new : List Byte) : (addB16 old new).length = 256 := length_flatMap_range (fun _ => length_toLe ..) 128

theorem addCounters_bytes (old : List Byte) (add : Nat → Nat) :
    (addCounters old add).1 = countedBytes old add 0 ++ countedBytes old add 128 := by
  have hhalves : List.range 256 = List.range 128 ++ (List.range 128).map (128 + ·) := List.range_add (n := 128) (m := 128)
  simp only [addCounters, List.flatMap_map]
  rw [hhalves, List.flatMap_append, List.flatMap_map]
  simp [countedBytes]

section
variable (ps : List (Nat × Nat × Nat)) (n : Nat) (payload : List Byte) (poisoned : Bool) (m : Mod)

theorem reduceAt_addF32 : (reduceAt ps 1 n payload poisoned m).1
    = putSum (pieceAddr ps 0) (addF32 (peeks m.mem (pieceAddr ps 0) 256) payload) poisoned m := rfl

theorem reduceAt_addB16 : (reduceAt ps 2 n payload poisoned m).1
    = putSum (pieceAddr ps 0) (addB16 (peeks m.mem (pieceAddr ps 0) 256) payload) poisoned m := rfl

theorem reduceAt_merge : reduceAt ps 3 n payload poisoned m = (pairsOf payload).foldl (mergePair ps n poisoned) (m, ⟨false, []⟩) := rfl

theorem reduceAt_counts {op : Nat} (hop : op ≠ 1 ∧ op ≠ 2 ∧ op ≠ 3) :
    let old := peeks m.mem (pieceAddr ps 0) 256 ++ peeks m.mem (pieceAddr ps 256) 256
    let add := signAddend (op == 5) payload
    (reduceAt ps op n payload poisoned m).1
      = putSum (pieceAddr ps 256) (countedBytes old add 128) poisoned (putSum (pieceAddr ps 0) (countedBytes old add 0) poisoned m) := by
  intro old add
  obtain ⟨h1, h2, h3⟩ := hop
  have hlow := List.take_left' (l₂ := countedBytes old add 128) (length_countedBytes old add 0)
  have hhigh := List.drop_left' (l₂ := countedBytes old add 128) (length_countedBytes old add 0)
  simp only [reduceAt, addCounters_bytes, hlow, hhigh, old, add]

theorem reduceOp_cases (op : Nat) : op = 1 ∨ op = 2 ∨ op = 3 ∨ (op ≠ 1 ∧ op ≠ 2 ∧ op ≠ 3) := by omega

/-- What a reduce write leaves in memory hangs on memory alone. -/
theorem mem_reduceAt {m u : Mod} (h : u.mem = m.mem) (op : Nat) :
    (reduceAt ps op n payload poisoned u).1.mem = (reduceAt ps op n payload poisoned m).1.mem := by
  obtain rfl | rfl | rfl | hop := reduceOp_cases op
  · rw [reduceAt_addF32, reduceAt_addF32, h]
    exact mem_putSum h ..
  · rw [reduceAt_addB16, reduceAt_addB16, h]
    exact mem_putSum h ..
  · rw [reduceAt_merge, reduceAt_merge]
    refine List.foldl_rel (r := fun x y : Mod × ReduceOut => x.1.mem = y.1.mem) h fun p _ x y hxy => ?_
    unfold mergePair
    split_ifs
    · rw [hxy]
      exact mem_putSum hxy ..
    · exact hxy
  · rw [reduceAt_counts _ _ _ _ _ hop, reduceAt_counts _ _ _ _ _ hop, h]
    exact mem_putSum (mem_putSum h ..) ..

theorem router_reduceAt (op : Nat) : (reduceAt ps op n payload poisoned m).1.router = m.router := by
  obtain rfl | rfl | rfl | hop := reduceOp_cases op
  · exact router_putSum ..
  · exact router_putSum ..
  · rw [reduceAt_merge]
    refine List.foldlRecOn (motive := fun acc : Mod × ReduceOut => acc.1.router = m.router) _ _ rfl fun acc hacc p _ => ?_
    unfold mergePair
    split_ifs
    · exact (router_putSum ..).trans hacc
    · exact hacc
  · rw [reduceAt_counts _ _ _ _ _ hop, router_putSum, router_putSum]

end

/-! ## What follows the sums leaves memory and the routers -/

/-- Memory and what waits in a router are the same. -/
structure SlicesKept (m u : Mod) : Prop where
  mem : u.mem = m.mem
  router : u.router = m.router

theorem SlicesKept.refl (m : Mod) : SlicesKept m m := ⟨rfl, rfl⟩

theorem SlicesKept.trans {a b c : Mod} (h : SlicesKept a b) (k : SlicesKept b c) : SlicesKept a c :=
  ⟨k.mem.trans h.mem, k.router.trans h.router⟩

theorem slicesKept_of_undisturbed {m u : Mod} (h : Undisturbed m u) : SlicesKept m u :=
  ⟨mem_of_undisturbed h, router_of_undisturbed h⟩

theorem slicesKept_foldl {α : Type} {f : Mod → α → Mod} {l : List α} {m : Mod} (hf : ∀ u x, SlicesKept u (f u x)) :
    SlicesKept m (l.foldl f m) :=
  List.foldlRecOn (motive := SlicesKept m) _ _ (.refl m) fun u hu x _ => hu.trans (hf u x)

theorem slicesKept_errorResponse (t : Clk) (r : Requester) (wr : Bool) (n : Nat) (e : XErr) (m : Mod) :
    SlicesKept m (errorResponse t r wr n e m) := by
  unfold errorResponse faultAccess
  cases r with
  | host => cases wr <;> exact ⟨rfl, rfl⟩
  | task => exact slicesKept_of_undisturbed (Still.failTask ..)
  | dmaq => exact slicesKept_of_undisturbed (Still.faultIssuer ..)
  | cmd => exact slicesKept_of_undisturbed (Still.faultCmd ..)
  | _ => exact ⟨rfl, rfl⟩

theorem undisturbed_markSat (r : Requester) (m : Mod) : Undisturbed m (markSat r m) := by
  unfold markSat
  cases r with
  | task => exact undisturbed_modPart ..
  | cmd => exact Still.modCmd ..
  | dmaq e q =>
    simp only
    split
    · exact undisturbed_modPart ..
    · exact Still.modCmd ..
    · exact Still.refl m
  | _ => exact Still.refl m

theorem slicesKept_discardPairs (t : Clk) (n : Nat) (w : Requester × Nat × List Byte) (m : Mod) : SlicesKept m (discardPairs t n w m) := by
  unfold discardPairs
  simp only
  split
  · exact .refl m
  · exact (slicesKept_of_undisturbed (Still.foldl _ (fun u _ => undisturbed_logErr _ _ _ u) _ m)).trans (slicesKept_errorResponse ..)

/-- The slice's sums are all that a reduce write changes of memory. -/
theorem slicesKept_applyReduce (t : Clk) (w : RWrite) (m : Mod) :
    SlicesKept (reduceAt w.pieces w.op w.n w.payload w.poisoned m).1 (applyReduce t w m) := by
  have hsat : ∀ u, SlicesKept u (w.who.foldl (fun m x => markSat x.1 m) u) := fun u =>
    slicesKept_foldl fun u x => slicesKept_of_undisturbed (undisturbed_markSat x.1 u)
  have hpast : ∀ u, SlicesKept u (w.who.foldl (fun m x => discardPairs t w.n x m) u) := fun u =>
    slicesKept_foldl fun u x => slicesKept_discardPairs t w.n x u
  unfold applyReduce
  simp only
  split_ifs
  · exact (hsat _).trans (hpast _)
  · exact hpast _
  · exact hsat _
  · exact .refl _

theorem mem_applyReduce {m u : Mod} (h : u.mem = m.mem) (t : Clk) (w : RWrite) :
    (applyReduce t w u).mem = (reduceAt w.pieces w.op w.n w.payload w.poisoned m).1.mem :=
  (slicesKept_applyReduce t w u).mem.trans (mem_reduceAt _ _ _ _ h _)

theorem router_applyReduce (t : Clk) (w : RWrite) (m : Mod) : (applyReduce t w m).router = m.router :=
  (slicesKept_applyReduce t w m).router.trans (router_reduceAt ..)

/-! ## Routers (R159) -/

/-- A reduce write as it enters the routers. -/
def entering (r : Requester) (op a n : Nat) (payload : List Byte) (poisoned : Bool) (ps : List (Nat × Nat × Nat)) : RWrite where
  op := op
  pieces := ps
  n := n
  payload := payload
  poisoned := poisoned
  who := [(r, a, payload)]

theorem reduceWrite_enters {t : Clk} {r : Requester} {op a n : Nat} {ps : List (Nat × Nat × Nat)} {m : Mod} (payload : List Byte)
    (poisoned : Bool) (next : Option Instr) (hplace : reducePlace m (reqOf m r) op a n = .ok ps) (hlo : 1 ≤ op) (hhi : op ≤ 5) :
    reduceWrite r op a n payload poisoned next t m
      = routeWrite t (entering r op a n payload poisoned ps) next (fillPages m (reqOf m r) true a 1) := by
  have hop : ¬ (op = 0 ∨ op > 5) := by omega
  simp only [reduceWrite, hop, if_false, hplace, entering]

section
variable {t : Clk} {w : RWrite} {next : Option Instr} {m : Mod}

theorem routeWrite_applies (hempty : m.router = none) (halone : partnerNext m w next = false) : routeWrite t w next m = applyReduce t w m := by
  simp [routeWrite, hempty, flushRouter, halone]

/-- One that its next meets waits for it. -/
theorem routeWrite_waits (hempty : m.router = none) (hnext : partnerNext m w next = true) (hmeet : Config.routersMeet m.draw = true) :
    routeWrite t w next m = { m with router := some w, draw := m.draw + 1 } := by
  simp [routeWrite, hempty, flushRouter, hnext, hmeet]

/-- One that meets the write that waits goes on with it as one. -/
theorem routeWrite_combines {old both : RWrite} (hwait : m.router = some old) (hboth : combineWrites old w = some both)
    (halone : partnerNext { m with router := none } both next = false) :
    routeWrite t w next m = applyReduce t both { m with router := none } := by
  simp [routeWrite, hwait, hboth, halone]

end

theorem exec_memoryRead (r : Requester) (a n : Nat) (hint : Fin 4) (ecc : Ecc) (s : State) :
    exec (.memoryRead r a n hint ecc) s = onEng (memoryRead r a n ecc) s := rfl

theorem exec_memoryWrite (r : Requester) (a : Nat) (data : List Byte) (poisoned : Bool) (ecc : Ecc) (s : State) :
    exec (.memoryWrite r a data poisoned ecc) s = onEng (memoryWrite r a data poisoned ecc) s := rfl

theorem exec_reduceWriteApply (r : Requester) (op : Byte) (a n : Nat) (payload : List Byte) (poisoned : Bool) (s : State) :
    exec (.reduceWriteApply r op a n payload poisoned) s = onEng (reduceWrite r op.toNat a n payload poisoned s.pending.head?) s := rfl

/-! ## The bytes of each kind of reduce write -/

/-- Bytes of memory as a field of a record that begins with them. -/
theorem fld_peeks_append {o k n : Nat} (h : o + k ≤ n) (m : Mem) (a : Nat) (bs : List Byte) :
    fld (peeks m a n ++ bs) o k = leNat (peeks m (a + o) k) := by
  obtain ⟨r, rfl⟩ := Nat.exists_eq_add_of_le h
  have hdrop : (peeks m a (o + k + r) ++ bs).drop o = peeks m (a + o) k ++ (peeks m (a + (o + k)) r ++ bs) := by
    rw [peeks_add, peeks_add, List.append_assoc, List.append_assoc, List.drop_left' (length_peeks ..)]
  have htake := List.take_left' (l₂ := peeks m (a + (o + k)) r ++ bs) (length_peeks m (a + o) k)
  simp [fld, slice, hdrop, htake, length_peeks]

theorem fld_append_right (x y : List Byte) (o k : Nat) : fld (x ++ y) (x.length + o) k = fld y o k := by
  simp [fld, slice, List.drop_append, List.drop_eq_nil_of_le]

theorem peeks_congr {u v : Mem} {n a : Nat} (h : ∀ i < n, peek u (a + i) = peek v (a + i)) : peeks u a n = peeks v a n := by
  induction n generalizing a with
  | zero => rfl
  | succ n ih =>
    have hfirst : peek u a = peek v a := h 0 n.succ_pos
    rw [peeks, peeks, hfirst, ih fun i hi => ?_]
    rw [Nat.add_assoc, Nat.add_comm 1]
    exact h (i + 1) (Nat.succ_lt_succ hi)

/-- Two stores apart from each other: each stands, and no other byte has changed. -/
theorem stored_twice {u v y : Mem} {a b n k : Nat} {as bs : List Byte} (has : as.length = n) (hbs : bs.length = k)
    (hv : v.cells = (pokes y a as).cells) (hu : u.cells = (pokes v b bs).cells) (hapart : a + n ≤ b ∨ b + k ≤ a) :
    peeks u a n = as ∧ peeks u b k = bs ∧ ∀ x, (x < a ∨ a + n ≤ x) → (x < b ∨ b + k ≤ x) → peek u x = peek y x := by
  obtain ⟨hfirst, hbeside⟩ := stored_of_cells has hv
  obtain ⟨hsecond, hkept⟩ := stored_of_cells hbs hu
  have hstands : peeks u a n = peeks v a n := peeks_congr fun i hi => hkept _ (by omega)
  exact ⟨hstands.trans hfirst, hsecond, fun x ha hb => (hkept x hb).trans (hbeside x ha)⟩

/-- A counter of two lines as SIGNCNT leaves it. -/
theorem countedBytes_piece {u : Mem} {a first : Nat} {old : List Byte} {add : Nat → Nat}
    (h : peeks u a 256 = countedBytes old add first) {i : Nat} (hi : i < 128) :
    leNat (peeks u (a + 2 * i) 2) = min 65535 (fld old (2 * (first + i)) 2 + add (first + i)) := by
  rw [Nat.mul_comm 2 i, peeks_piece (fun _ => length_toLe ..) (n := 128) h hi, leNat_toLe]
  exact Nat.mod_eq_of_lt (by omega)

/-- A payload of one pair. -/
theorem pairsOf_single {payload : List Byte} (h : payload.length = 8) :
    pairsOf payload = [(fld payload 0 4, BitVec.ofNat 32 (fld payload 4 4))] := by
  simp [pairsOf, h, word32At]

section
variable (ps : List (Nat × Nat × Nat)) (n : Nat) (payload : List Byte) (poisoned : Bool) (m : Mod)

/-- MERGE of one pair adds to its element and changes no other byte. -/
theorem merged_single (hlen : payload.length = 8) (hin : fld payload 0 4 < n) :
    let i := pieceAddr ps (4 * fld payload 0 4)
    let u := (reduceAt ps 3 n payload poisoned m).1
    leNat (peeks u.mem i 4) = (fadd (BitVec.ofNat 32 (leNat (peeks m.mem i 4))) (BitVec.ofNat 32 (fld payload 4 4))).toNat
      ∧ ∀ y, (y < i ∨ i + 4 ≤ y) → peek u.mem y = peek m.mem y := by
  intro i u
  obtain ⟨hsum, hbeside⟩ : peeks u.mem i 4 = _ ∧ _ := stored_of_cells (length_toLe ..) (by
    simp only [u, reduceAt_merge, pairsOf_single hlen, List.foldl_cons, List.foldl_nil, mergePair, if_pos hin]
    exact cells_putSum ..)
  rw [hsum, leNat_toLe]
  exact ⟨Nat.mod_eq_of_lt (BitVec.isLt _), hbeside⟩

/-- SIGNCNT at two lines apart from each other counts in each of their counters and changes no other byte. -/
theorem counted_lines {op : Nat} (hop : op ≠ 1 ∧ op ≠ 2 ∧ op ≠ 3) :
    let x := pieceAddr ps 0
    let z := pieceAddr ps 256
    let u := (reduceAt ps op n payload poisoned m).1
    (x + 256 ≤ z ∨ z + 256 ≤ x) →
    (∀ j < 256, let y := if j < 128 then x + 2 * j else z + 2 * (j - 128)
      leNat (peeks u.mem y 2) = min 65535 (leNat (peeks m.mem y 2) + signAddend (op == 5) payload j))
    ∧ ∀ y, (y < x ∨ x + 256 ≤ y) → (y < z ∨ z + 256 ≤ y) → peek u.mem y = peek m.mem y := by
  intro x z u hapart
  have hu : u = _ := reduceAt_counts ps n payload poisoned m hop
  rw [hu]
  obtain ⟨hlow, hhigh, hbeside⟩ := stored_twice (length_countedBytes ..) (length_countedBytes ..) (cells_putSum ..) (cells_putSum ..) hapart
  refine ⟨fun j hj => ?_, hbeside⟩
  by_cases hhalf : j < 128
  · simp only [hhalf, if_true]
    rw [countedBytes_piece hlow hhalf, Nat.zero_add, fld_peeks_append (by omega)]
  · obtain ⟨i, rfl⟩ := Nat.exists_eq_add_of_le (Nat.not_lt.1 hhalf)
    have hi : i < 128 := by omega
    have hold : fld (peeks m.mem x 256 ++ peeks m.mem z 256) (2 * (128 + i)) 2 = leNat (peeks m.mem (z + 2 * i) 2) := by
      have hright := fld_append_right (peeks m.mem x 256) (peeks m.mem z 256) (2 * i) 2
      rw [length_peeks] at hright
      have hleft := fld_peeks_append (show 2 * i + 2 ≤ 256 by omega) m.mem z []
      rw [List.append_nil] at hleft
      rw [Nat.mul_add, hright, hleft]
    simp only [hhalf, if_false, Nat.add_sub_cancel_left]
    rw [countedBytes_piece hhigh hi, hold]

end

end Sys2Proof.Machine

namespace Sys2Proof
open Machine

/-- Settles O26: reads keep the bytes (`BytesKept`), a write within a line is `writePlace` at its place, and a reduce write
leaves in memory what `reduceAt` does. -/
theorem memoryServes : Obligations.MemoryServes := by
  unfold Obligations.MemoryServes
  refine ⟨⟨?read, ?refused, ?write⟩, ?reduce⟩
  case read =>
    intro r a n hint ecc m1 bs bad s hgo hread
    obtain ⟨hcells, hlines, hout⟩ := memoryRead_ok hgo hread
    exact settles_onEng ⟨peek_of_cells hcells, hlines, hout⟩
  case refused =>
    intro f a n hint ecc m1 x s hgo hread
    have hkept := bytesKept_of_fst hread (bytesKept_readMem ..)
    obtain ⟨u, rfl⟩ := logErr_of_readMem hread
    have hlast := flog_logErr_host s.clk (rq := reqOf s.m (.host f)) rfl x u
    rw [exec_memoryRead]
    refine settles_onEng ?_
    rw [memoryRead_refused_host hgo hread]
    exact ⟨peek_of_cells hkept.cells, congrArg (· ++ _) hkept.out, congrArg (·.reason) hlast, congrArg (·.typ) hlast⟩
  case write =>
    intro r a data poisoned b ecc p m1 s hne hline hheld hgo hspan hsync hwrite
    exact settles_onEng (stored_of_cells rfl (memoryWrite_within_line hne hline hheld hgo hspan hsync hwrite))
  case reduce =>
    intro r op a n ps payload poisoned s hplace hlo hhi run w m1 x z i only
    have hrun : ∀ {P : Mod → Prop}, P (routeWrite s.clk w s.pending.head? m1) → Settles s run P := fun h =>
      settles_onEng (by rwa [reduceWrite_enters payload poisoned s.pending.head? hplace hlo hhi])
    have hm1 : Undisturbed s.m m1 := undisturbed_fillPages ..
    have hmem : m1.mem = s.m.mem := mem_of_undisturbed hm1
    refine ⟨fun hempty halone => ?alone, fun hempty hnext hmeet => ?meets, fun old both hwait hboth halone => ?combined⟩
    case alone =>
      have hroute := routeWrite_applies (t := s.clk) ((router_of_undisturbed hm1).trans hempty) halone
      have happly : (routeWrite s.clk w s.pending.head? m1).mem = (reduceAt ps op.toNat n payload poisoned s.m).1.mem := by
        rw [hroute]
        exact mem_applyReduce hmem ..
      refine ⟨?addF32, ?addB16, ?merge, ?counts⟩
      case addF32 =>
        rintro rfl
        refine hrun ?_
        simp only [only, happly]
        exact stored_of_cells (length_addF32 ..) (cells_putSum ..)
      case addB16 =>
        rintro rfl
        refine hrun ?_
        simp only [only, happly]
        exact stored_of_cells (length_addB16 ..) (cells_putSum ..)
      case merge =>
        rintro rfl hlen hin
        refine hrun ?_
        simp only [only, happly]
        exact merged_single ps n payload poisoned s.m hlen hin
      case counts =>
        intro hop hapart
        refine hrun ?_
        rw [happly]
        obtain rfl | rfl := hop <;> exact counted_lines ps n payload poisoned s.m (by decide) hapart
    case meets =>
      refine hrun ?_
      rw [routeWrite_waits ((router_of_undisturbed hm1).trans hempty) hnext (by rwa [draw_of_undisturbed hm1])]
      exact ⟨rfl, hmem⟩
    case combined =>
      refine hrun ?_
      rw [routeWrite_combines ((router_of_undisturbed hm1).trans hwait) hboth halone]
      refine ⟨router_applyReduce .., fun y => congrArg (peek · y) ?_⟩
      exact mem_applyReduce (u := { m1 with router := none }) hmem ..

end Sys2Proof
end

/-! # HQ.PUSH and HQ.POP (R226, R228, R652)

What a signal and a trace record leave of the module, and the push or pop that an instruction sends to the port of a die. -/

section
namespace Sys2Proof.Machine

/-! ## What a signal, an event and a trace record leave -/

/-- A signal at issue takes a number and waits among the sync operations. -/
theorem putSignal_outside {α : Type} (f : Mod → α) (hf : ∀ m d src obj kind deps b, f (pushSync m d src obj kind deps b) = f m)
    (m : Mod) (task : Nat) (w : LviWord) (count : Nat) (own : Option Nat) : f (putSignal m task w count own) = f m := by
  unfold putSignal slotSignal
  split
  · rfl
  · exact hf ..
  · exact hf ..
  · simp only
    split
    · rfl
    · split
      · rfl
      · split_ifs <;> exact hf ..

section
variable {α : Type} {p : Engine → α}
  (hp : ∀ e ecnt records lost base, p { e with ecnt := ecnt, trace := records, traceLost := lost, timebase := base } = p e)
include hp

/-- Events and trace records reach nothing of an engine but its counters and its trace. -/
theorem countEv_engine (m : Mod) (g code n h : Nat) : p (engine (countEv m g code n) h) = p (engine m h) := by
  unfold countEv
  split_ifs
  · rfl
  · refine List.foldlRecOn (motive := fun u => p (engine u h) = p (engine m h)) _ _ rfl fun u hu c _ => ?_
    split_ifs
    · rw [← hu, engine_modEngine]
      split_ifs with hg
      · subst hg
        exact hp (engine u h) _ _ _ _
      · rfl
    · exact hu

theorem tracePut_engine (t : Clk) (m : Mod) (g : Nat) (r : BitVec 128) (h : Nat) : p (engine (tracePut t m g r) h) = p (engine m h) := by
  have hrecord : p (engine (modEngine m g (tracePush r (traceWord t 0x0C g 0 (engine m g).traceLost))) h) = p (engine m h) := by
    rw [engine_modEngine]
    split_ifs with hg
    · subst hg
      unfold tracePush
      split_ifs <;> exact hp (engine m h) _ _ _ _
    · rfl
  unfold tracePut
  simp only
  split_ifs
  · rw [countEv_engine hp, hrecord]
  · exact hrecord

theorem trace_engine (t : Clk) (g task kind arg : Nat) (cls : Option Nat) (m : Mod) (h : Nat) :
    p (engine (trace t g task kind arg cls m) h) = p (engine m h) := by
  have hbase : ∀ u b, p (engine (modEngine u g fun e => { e with timebase := b }) h) = p (engine u h) := by
    intro u b
    rw [engine_modEngine]
    split_ifs with hg
    · subst hg
      exact hp (engine u h) _ _ _ _
    · rfl
  unfold trace
  simp only
  split_ifs <;> simp only [tracePut_engine hp, hbase]

end

/-! ## HQ.PUSH and HQ.POP go to the port (R226, R652) -/

theorem wf_lt (w : LviWord) (lo n : Nat) : wf w lo n < 2 ^ n := Nat.mod_lt _ (Nat.two_pow_pos n)

theorem hqKey_die {die q : Nat} (hq : q < 512) : hqKey die q / 512 = die := by unfold hqKey; omega

/-- A push on its way. -/
def pushOnWay (m : Mod) (key src : Nat) (h : Handle) (deps : List Nat) (holds : Bool) (desc : Option Nat) (word : Option LviWord)
    (b : Issuer) : HqOp where
  id := m.nextId
  src := src
  queue := key
  push := some h
  deps := deps
  holds := holds
  desc := desc
  word := word
  idx := srcPc m src
  by_ := b

theorem hqQueue_queuePush (m : Mod) (key src : Nat) (h : Handle) (deps : List Nat) (holds : Bool) (desc : Option Nat)
    (word : Option LviWord) (b : Issuer) : hqQueue (queuePush m key src h deps holds desc word b).2 (key / 512)
      = hqQueue m (key / 512) ++ [pushOnWay m key src h deps holds desc word b] :=
  sget_smod_same [] m.hqQ (key / 512) fun q => q ++ [pushOnWay m key src h deps holds desc word b]

/-- HQ.PUSH takes its handle from the counters of its context. -/
theorem pushOperand_of_stillCtx {m u : Mod} {g c : Nat} (h : stillCtx (ctx u g c) = stillCtx (ctx m g c)) (w : LviWord) :
    pushOperand u g c w = readHandle (counter (ctx m g c) (4 * wf w 62 2)) (counter (ctx m g c) (4 * wf w 62 2 + 1))
      (counter (ctx m g c) (4 * wf w 62 2 + 2)) (counter (ctx m g c) (4 * wf w 62 2 + 3)) := by
  simp only [pushOperand, cnt, counter_of_stillCtx h]

theorem partDies_of_undisturbed {m u : Mod} (h : Undisturbed m u) (k : Nat) : partDies u k = partDies m k := by
  have hbar : u.bar0 = m.bar0 := congrArg (·.bar0) h.1
  simp only [partDies, partPairs, regF, regN, reg, hbar]

/-- The module with the push of an HQ.PUSH on its way. -/
def pushSent (g c die : Nat) (w : LviWord) (m : Mod) : Mod :=
  (queuePush m (hqKey die (wf w 32 9)) (taskId g c) (pushOperand m g c w) (depsOf m (taskId g c)) false none (some w) (.task (taskId g c))).2

theorem undisturbed_pushSent (g c die : Nat) (w : LviWord) (m : Mod) : Undisturbed m (pushSent g c die w m) := Still.of_eng rfl rfl

/-- An HQ.PUSH to a die of its partition sends its push and is done. -/
theorem hqPushForm_eff {m : Mod} {g c die : Nat} {w : LviWord} (hdie : (partDies m (ctx m g c).part)[wf w 52 4]? = some die)
    (t : Clk) (grant : Nat) : hqPushForm.eff t g c w grant m = signalled t g c w m.nextId (pushSent g c die w m) := by
  simp only [hqPushForm, relDie, hdie]
  rfl

theorem moved_signalled (t : Clk) (g c : Nat) (w : LviWord) (own : Nat) (m : Mod) :
    Moved m (signalled t g c w own m) g c id ((ctx m g c).pc + 1) := by
  have hsignal := Still.putSignal m (taskId g c) w 0 (some own)
  unfold signalled advance
  rw [und_pc hsignal]
  exact und_moved sees_id hsignal (advanceTo_moved ..)

theorem hqQ_signalled {m u : Mod} {g c : Nat} (h : stillCtx (ctx u g c) = stillCtx (ctx m g c)) (hn : hasNext m g c) (t : Clk)
    (w : LviWord) (id : Nat) : (signalled t g c w id u).hqQ = u.hqQ := by
  unfold signalled
  rw [advance_of_next (((Still.putSignal ..).2.2 g c).trans h) hn, modCtx_hqQ]
  exact putSignal_outside (·.hqQ) (fun _ _ _ _ _ _ _ => rfl) ..

/-- The pop of an HQ.POP on its way. -/
def popOnWay (m : Mod) (g c : Nat) (w : LviWord) : HqOp where
  id := m.nextId
  src := taskId g c
  queue := popKey g w
  push := none
  deps := []
  holds := false
  desc := none
  word := some w
  idx := (ctx m g c).pc
  by_ := .task (taskId g c)

/-- HQ.POP sends its pop to the port of its die, and its context waits for what it finds there. -/
theorem sendPop_spec (g c : Nat) (w : LviWord) (m : Mod) :
    hqQueue (sendPop g c w m) (g / 16) = hqQueue m (g / 16) ++ [popOnWay m g c w]
      ∧ (ctx (sendPop g c w m) g c).pop = some (m.nextId, (ctx m g c).accepted.isSome)
      ∧ (ctx (sendPop g c w m) g c).pc = (ctx m g c).pc := by
  have hctx : ctx (sendPop g c w m) g c = _ := (ctx_modCtx ..).trans (if_pos ⟨rfl, rfl⟩)
  rw [hctx]
  exact ⟨sget_smod_same [] m.hqQ (g / 16) fun q => q ++ [popOnWay m g c w], rfl, rfl⟩

/-- A ready HQ.POP sends its pop once its wait is over. -/
theorem attempt_hqPop {g c : Nat} {w : LviWord} {s : State} (h : headReady s g c 0x22 none w) (hT : wT w = false) :
    attempt hqPopForm 0x22 none g c w s.clk s.m = sendPop g c w (pastWait s.clk g c w s.m) := by
  rw [attempt_eq hqPopForm 0x22 none g c w s h, tryIssue_eq hqPopForm g c w s.clk _ hT rfl rfl, withLeave_none hqPopForm s.clk g c w _ rfl]
  rfl

/-- The end of a wait touches no port, and of its context the timer alone. -/
theorem pastWait_spec (t : Clk) (g c : Nat) (w : LviWord) (m : Mod) :
    (pastWait t g c w m).hqQ = m.hqQ ∧ ctx (pastWait t g c w m) g c = { ctx m g c with waitSince := none } := by
  have hctx := traceWait_eq t g c w m (ctx · g c) fun _ _ _ _ => ctx_trace ..
  have hqueues := traceWait_eq t g c w m (·.hqQ) fun _ _ _ _ => trace_outside (·.hqQ) (fun _ _ _ => rfl) ..
  refine ⟨hqueues, ?_⟩
  rw [pastWait, ctx_modCtx, if_pos ⟨rfl, rfl⟩, hctx]

theorem accepted_of_headReady {s : State} {g c op : Nat} {ext : Option Nat} {w : LviWord} (h : headReady s g c op ext w) :
    (ctx s.m g c).accepted = none := by
  have hhead := h.1
  simp only [headIs, atHead, Bool.and_eq_true, Option.isNone_iff_eq_none] at hhead
  exact hhead.2.1.1.1.1.1.2

theorem exec_hqPush (e : Eng) (c : CtxId) (w : LviWord) (s : State) :
    exec (.hqPush e c w) s = onEng (attempt hqPushForm 0x21 none e.val c.val w) s := rfl

theorem exec_hqPop (e : Eng) (c : CtxId) (w : LviWord) (s : State) :
    exec (.hqPop e c w) s = onEng (attempt hqPopForm 0x22 none e.val c.val w) s := rfl

end Sys2Proof.Machine

namespace Sys2Proof
open Machine

/-- Settles O12: `pushSent` puts the push of the counters' handle on its way, `sendPop` the pop of the word. -/
theorem handleInstructions : Obligations.HandleInstructions := by
  unfold Obligations.HandleInstructions
  intro e c w s hT x d
  refine ⟨fun die hhead hnext hdie => ?push, fun hhead => ?pop⟩
  case push =>
    obtain ⟨u, hund, hattempt⟩ := plain_attempt hqPushForm 0x21 none e c w s hhead hT (fun _ _ => rfl) (fun _ _ => rfl) (fun _ => rfl) rfl
    have hpart : (ctx u e c).part = x.part := congrArg (·.part) (hund.2.2 e c)
    have hdie' : (partDies u (ctx u e c).part)[wf w 52 4]? = some die := by rw [hpart, partDies_of_undisturbed hund, hdie]
    have hsent := Still.trans hund (undisturbed_pushSent e c die w u)
    have hkey : hqKey die (wf w 32 9) / 512 = die := hqKey_die (wf_lt w 32 9)
    have hqueue := hqQueue_queuePush u (hqKey die (wf w 32 9)) (taskId e c) (pushOperand u e c w) (depsOf u (taskId e c)) false none (some w)
      (.task (taskId e c))
    have hmoved := moved_signalled s.clk e c w u.nextId (pushSent e c die w u)
    rw [hkey] at hqueue
    rw [und_pc hsent] at hmoved
    rw [exec_hqPush]
    refine settles_onEng ?_
    rw [hattempt, hqPushForm_eff hdie', hqQueue, hqQ_signalled (hsent.2.2 e c) hnext]
    refine ⟨und_moved sees_id hsent hmoved, _, hqueue ▸ List.mem_append_right _ (List.mem_singleton.2 rfl), rfl, rfl, ?_⟩
    exact congrArg some (pushOperand_of_stillCtx (hund.2.2 e c) w)
  case pop =>
    obtain ⟨hqQ, hctx⟩ := pastWait_spec s.clk e c w s.m
    obtain ⟨hqueue, hpop, hpc⟩ := sendPop_spec e c w (pastWait s.clk e c w s.m)
    rw [exec_hqPop]
    refine settles_onEng ?_
    rw [attempt_hqPop hhead hT]
    rw [hctx] at hpop hpc
    rw [accepted_of_headReady hhead] at hpop
    refine ⟨popOnWay (pastWait s.clk e c w s.m) e c w, ?_, rfl, rfl, rfl, rfl, hpop, hpc⟩
    rw [hqueue, hqQueue, hqQueue, hqQ]

end Sys2Proof
end

/-! # Arrivals at a handle queue (R224 to R229, R132)

What a pop, a push and the end of an instruction leave of the queues, the draws and the contexts; then pushes with and without
room, a descriptor's pop, and the pop of an HQ.POP past the SKIP handles. -/

section
namespace Sys2Proof.Machine

/-! ## What a port leaves as it was -/

/-- The queues, what is on its way to them, the partitions, the draws, the contexts and the queues of the DMA engines are the same. -/
structure PortKept (m u : Mod) : Prop where
  hqs : u.hqs = m.hqs
  hqQ : u.hqQ = m.hqQ
  parts : u.parts = m.parts
  draw : u.draw = m.draw
  ctx : ∀ g c, ctx u g c = ctx m g c
  dq : ∀ g, (engine u g).dq = (engine m g).dq

theorem PortKept.refl (m : Mod) : PortKept m m := ⟨rfl, rfl, rfl, rfl, fun _ _ => rfl, fun _ => rfl⟩

theorem PortKept.trans {a b c : Mod} (h : PortKept a b) (k : PortKept b c) : PortKept a c :=
  ⟨k.hqs.trans h.hqs, k.hqQ.trans h.hqQ, k.parts.trans h.parts, k.draw.trans h.draw, fun g d => (k.ctx g d).trans (h.ctx g d),
    fun g => (k.dq g).trans (h.dq g)⟩

theorem portKept_foldl {α : Type} {f : Mod → α → Mod} {l : List α} {m : Mod} (hf : ∀ u x, PortKept u (f u x)) : PortKept m (l.foldl f m) :=
  List.foldlRecOn (motive := PortKept m) _ _ (.refl m) fun u hu x _ => hu.trans (hf u x)

theorem PortKept.modCtx {m u : Mod} (h : PortKept m u) (g c : Nat) (f : Ctx → Ctx) : PortKept (modCtx m g c f) (modCtx u g c f) := by
  refine ⟨h.hqs, h.hqQ, h.parts, h.draw, fun k d => ?_, fun k => ?_⟩
  · simp only [ctx_modCtx, h.ctx]
  · simp only [engine_modCtx]
    split_ifs
    · exact h.dq g
    · exact h.dq k

theorem portKept_trace (t : Clk) (g task kind arg : Nat) (cls : Option Nat) (m : Mod) : PortKept m (trace t g task kind arg cls m) :=
  ⟨trace_outside (·.hqs) (fun _ _ _ => rfl) .., trace_outside (·.hqQ) (fun _ _ _ => rfl) .., trace_outside (·.parts) (fun _ _ _ => rfl) ..,
    trace_outside (·.draw) (fun _ _ _ => rfl) .., fun _ _ => ctx_trace .., trace_engine (p := (·.dq)) (fun _ _ _ _ _ => rfl) _ _ _ _ _ _ _⟩

theorem portKept_traceHandle (t : Clk) (key : Nat) (push skip : Bool) (g task : Nat) (m : Mod) :
    PortKept m (traceHandle t key push skip g task m) := portKept_trace ..

theorem portKept_traceIssue (t : Clk) (g task idx op : Nat) (m : Mod) : PortKept m (traceIssue t g task idx op m) := by
  unfold traceIssue
  split_ifs
  · exact portKept_trace ..
  · exact .refl m

theorem portKept_applySignal (t : Clk) (die idx count : Nat) (m : Mod) : PortKept m (applySignal t die idx count m) := by
  unfold applySignal
  simp only
  split_ifs <;> exact ⟨rfl, rfl, rfl, rfl, fun _ _ => rfl, fun _ => rfl⟩

theorem portKept_popCount (t : Clk) (key n : Nat) (m : Mod) : PortKept m (popCount t key n m) := by
  unfold popCount
  split
  · exact .refl m
  · split_ifs
    · exact .refl m
    · exact portKept_applySignal ..

theorem portKept_doneOf (m : Mod) (g : Nat) (h : Handle) (who : Owner) (part : Nat) (own : Option Nat) :
    PortKept m (doneOf m g h who part own) := by
  unfold doneOf
  split_ifs
  · exact ⟨rfl, rfl, rfl, rfl, fun _ _ => rfl, fun _ => rfl⟩
  · exact .refl m

/-! ## The handles of a queue -/

theorem hqAt_modHqAt (m : Mod) (key j : Nat) (f : HQueue → HQueue) :
    hqAt (modHqAt m key f) j = if j = key then f (hqAt m key) else hqAt m j := sget_smod ..

theorem PortKept.hqAt {m u : Mod} (h : PortKept m u) (key : Nat) : hqAt u key = hqAt m key := by rw [Machine.hqAt, Machine.hqAt, h.hqs]

theorem PortKept.hqQueue {m u : Mod} (h : PortKept m u) (d : Nat) : hqQueue u d = hqQueue m d := by
  rw [Machine.hqQueue, Machine.hqQueue, h.hqQ]

/-- The module with the first n handles of a queue gone. -/
def handlesGone (key n : Nat) (m : Mod) : Mod := modHqAt m key fun q => { q with items := q.items.drop n }

theorem items_handlesGone (key n : Nat) (m : Mod) : (hqAt (handlesGone key n m) key).items = (hqAt m key).items.drop n := by
  rw [handlesGone, hqAt_modHqAt, if_pos rfl]

/-- Beside the handles removed, a removal counts and sends DONEs. -/
theorem portKept_removeHandles (t : Clk) (g key : Nat) (gone : List Handle) (who : Owner) (part : Nat) (m : Mod) :
    PortKept (handlesGone key gone.length m) (removeHandles t g key gone who part m) :=
  (portKept_popCount ..).trans (portKept_foldl fun _ _ => portKept_doneOf ..)

/-- The module with the head of a queue read, found good and taken. -/
def headTaken (t : Clk) (key : Nat) (m : Mod) : Mod := popCount t key 1 (handlesGone key 1 (drawId m).2)

theorem portKept_headTaken (t : Clk) (key : Nat) (m : Mod) : PortKept (handlesGone key 1 (drawId m).2) (headTaken t key m) :=
  portKept_popCount ..

theorem items_headTaken {key : Nat} {h : Handle} {rest : List Handle} {m : Mod} (hitems : (hqAt m key).items = h :: rest) (t : Clk) :
    (hqAt (headTaken t key m) key).items = rest := by
  have hdraw : (hqAt (drawId m).2 key).items = h :: rest := hitems
  rw [(portKept_headTaken ..).hqAt, items_handlesGone, hdraw]
  rfl

/-- A pop takes a good head in which ECC finds nothing. -/
theorem popHead_clean {key : Nat} {h : Handle} {rest : List Handle} {m : Mod} (hitems : (hqAt m key).items = h :: rest)
    (hbad : h.bad = none) (hecc : Config.handleEcc m.draw = .clean) (t : Clk) : popHead t key m = (some h, headTaken t key m) := by
  have hhead : headEcc key m = (drawId m).2 := by simp [headEcc, hitems, hbad, drawId, hecc]
  have hdraw : (hqAt (drawId m).2 key).items = h :: rest := hitems
  have htail : (modHqAt (drawId m).2 key fun q => { q with items := rest }) = handlesGone key 1 (drawId m).2 := by
    have hqueue : { hqAt (drawId m).2 key with items := rest }
        = { hqAt (drawId m).2 key with items := (hqAt (drawId m).2 key).items.drop 1 } := by rw [hdraw]; rfl
    exact congrArg (fun q => { (drawId m).2 with hqs := sset {} (drawId m).2.hqs key q }) hqueue
  simp only [popHead, hhead, hdraw, hbad, Option.isSome_none, Bool.false_eq_true, if_false, htail]
  rfl

theorem popHead_empty {key : Nat} {m : Mod} (hitems : (hqAt m key).items = []) (t : Clk) : popHead t key m = (none, m) := by
  have hhead : headEcc key m = m := by simp [headEcc, hitems]
  simp only [popHead, hhead, hitems]

/-! ## An operation that arrives alone -/

theorem hqArrive_alone {m : Mod} {d src : Nat} {o : HqOp} (h : firstHq m d src = some o) (t : Clk) :
    hqArrive d [src] t m = applyQueue t d [o] o.queue m := by
  simp [hqArrive, h]

section
variable {o : HqOp} (t : Clk) (d : Nat) (m : Mod)

theorem applyQueue_push {h : Handle} (hpush : o.push = some h) : applyQueue t d [o] o.queue m = applyPush t d o h m := by
  simp [applyQueue, insertByEngine, applyPushes, applyPops, hpush]

theorem applyQueue_descPop (hpush : o.push = none) (hdesc : o.desc.isSome = true) : applyQueue t d [o] o.queue m = descPop t d o m := by
  obtain ⟨x, hdesc⟩ := Option.isSome_iff_exists.1 hdesc
  simp [applyQueue, insertByEngine, applyPushes, applyPops, hpush, hdesc]

theorem applyQueue_taskPop {w : LviWord} (hpush : o.push = none) (hdesc : o.desc = none) (hword : o.word = some w) :
    applyQueue t d [o] o.queue m = taskPop t d o w m := by
  simp [applyQueue, insertByEngine, applyPushes, applyPops, hpush, hdesc, hword]

end

theorem id_ne_of_mem_dropHqOp {m : Mod} {d id : Nat} {p : HqOp} (h : p ∈ hqQueue (dropHqOp m d id) d) : p.id ≠ id := by
  have hkept : hqQueue (dropHqOp m d id) d = (hqQueue m d).filter fun o => o.id != id := sget_smod_same [] m.hqQ d _
  rw [hkept] at h
  simpa using (List.mem_filter.1 h).2

/-! ## Pushes -/

section
variable {o : HqOp} {m : Mod} (halloc : (hqAt m o.queue).alloc = true)
  (hpart : (hqAt m o.queue).part = if o.src < 1024 then (ctx m (o.src / 4) (o.src % 4)).part else (dieOwner m (srcEngine o.src / 16)).getD 8)
include halloc hpart

/-- A push of the queue's partition: it stands last in the queue while there is room. -/
theorem applyPush_room (hroom : (hqAt m o.queue).items.length < 64) (t : Clk) (d : Nat) (h : Handle) :
    applyPush t d o h m = traceHandle t o.queue true h.skip (srcEngine o.src % 256) (issuerTask o.by_)
      (pushHandle o.queue h (dropHqOp m d o.id)) := by
  have hfull : hqFull (hqAt m o.queue) = false := decide_eq_false (Nat.not_le.2 hroom)
  simp [applyPush, halloc, ← hpart, hfull]

variable (hfull : 64 ≤ (hqAt m o.queue).items.length)
include hfull

theorem applyPush_held (hholds : o.holds = true) (t : Clk) (d : Nat) (h : Handle) : applyPush t d o h m = m := by
  have hfull : hqFull (hqAt m o.queue) = true := decide_eq_true hfull
  simp [applyPush, halloc, ← hpart, hfull, hholds]

theorem applyPush_full (hholds : o.holds = false) (t : Clk) (d : Nat) (h : Handle) :
    applyPush t d o h m = faultTask t o.src fTask 0x86 0 (BitVec.ofNat 64 o.idx) false (dropSignals (dropHqOp m d o.id) o.id) := by
  have hfull : hqFull (hqAt m o.queue) = true := decide_eq_true hfull
  simp [applyPush, halloc, ← hpart, hfull, hholds]

end

theorem hqAt_of_undisturbed {m u : Mod} (h : Undisturbed m u) (key : Nat) : hqAt u key = hqAt m key := by
  have hhqs : u.hqs = m.hqs := congrArg (·.hqs) h.1
  rw [hqAt, hqAt, hhqs]

/-- A task fault leaves its task FAULTED and its entry last in the engine's log. -/
theorem faultTask_spec {m : Mod} {task : Nat} (hst : (ctx m (task / 4) (task % 4)).st ≠ .empty) (t : Clk) (typ reason : Byte)
    (addr info : W64) (poison : Bool) :
    let u := faultTask t task typ reason addr info poison m
    (ctx u (task / 4) (task % 4)).st = .faulted ∧ (flog u (task / 4)).last.reason = reason ∧ (flog u (task / 4)).last.typ = typ := by
  have hlogged := flog_logFault m t (task / 4)
  simp only [faultTask, hst, if_false, flog_failTask, logEngine, flog_trace, hlogged]
  exact ⟨(st_failTask ..).trans (if_pos ⟨rfl, rfl⟩), rfl, rfl⟩

/-! ## A descriptor's pop -/

/-- A descriptor's pop takes the head of its queue, no SKIP handle. -/
theorem descPop_takes {o : HqOp} {h : Handle} {rest : List Handle} {m : Mod} (hitems : (hqAt m o.queue).items = h :: rest)
    (hskip : h.skip = false) (hbad : h.bad = none) (hecc : Config.handleEcc m.draw = .clean) (t : Clk) (d : Nat) :
    (hqAt (descPop t d o m) o.queue).items = rest ∧ ∀ p ∈ hqQueue (descPop t d o m) d, p.id ≠ o.id := by
  have hgone : headSkips (hqAt m o.queue) = [] := by simp [headSkips, hitems, hskip]
  unfold descPop
  simp only [hgone]
  generalize hu : modDmaq _ _ _ _ = u
  have hkept : (hqAt u o.queue).items = h :: rest ∧ u.draw = m.draw := by
    subst hu
    have hremoved := portKept_removeHandles t ((o.src - 1024) / 9) o.queue []
    refine ⟨?_, (hremoved ..).draw⟩
    exact (congrArg (·.items) ((hremoved ..).hqAt _)).trans ((items_handlesGone ..).trans (congrArg (List.drop 0) hitems))
  rw [popHead_clean hkept.1 hbad (hkept.2 ▸ hecc)]
  simp only [hbad, Option.isSome_none, Bool.false_eq_true, if_false]
  refine ⟨?_, fun p hp => ?_⟩
  · rw [(portKept_traceHandle ..).hqAt]
    exact items_headTaken hkept.1 t
  · rw [(portKept_traceHandle ..).hqQueue] at hp
    exact id_ne_of_mem_dropHqOp hp

/-! ## The pop of an HQ.POP (R227, R132) -/

theorem taskSide_of_parts {m u : Mod} (h : u.parts = m.parts) (k task key : Nat) : taskSide u k task key = taskSide m k task key := by
  cases m
  cases u
  cases h
  rfl

theorem stageAt_of_parts {m u : Mod} (h : u.parts = m.parts) (k n i : Nat) : stageAt u k n i = stageAt m k n i := by
  simp only [stageAt, chainRt, partSt, h]

/-- The module with the pop of a task arrived: its context waits for it no longer. -/
def popArrived (d : Nat) (o : HqOp) (m : Mod) : Mod :=
  modCtx (dropHqOp m d o.id) (o.src / 4) (o.src % 4) fun x => { x with pop := none }

theorem ctx_popArrived (d : Nat) (o : HqOp) (m : Mod) :
    ctx (popArrived d o m) (o.src / 4) (o.src % 4) = { ctx m (o.src / 4) (o.src % 4) with pop := none } :=
  (ctx_modCtx ..).trans (if_pos ⟨rfl, rfl⟩)

/-- The SKIP handles at the head discarded where the pop asks for it. -/
def skipsGone (t : Clk) (g c : Nat) (w : LviWord) (m : Mod) : Mod := if wExt w = 1 then discardSkips t g c (popKey g w) m else m

/-- The engine's last issue is that of a context. -/
def lastIssued (g c : Nat) (m : Mod) : Mod := modEngine m g fun e => { e with last := some c }

/-- An HQ.POP issues with the handle that its pop has taken. -/
def popIssues (t : Clk) (g c : Nat) (w : LviWord) (h : Handle) (m : Mod) : Mod :=
  done t g c w (popWrite g c w h (traceHandle t (popKey g w) false h.skip g (taskId g c)
    (takeSide (traceIssue t g (taskId g c) (ctx (lastIssued g c m) g c).pc (wOp w) (lastIssued g c m)) (ctx (lastIssued g c m) g c).part
      (taskId g c) (popKey g w) h)))

/-- What a pop makes of what it finds at the head of its queue: it misses, it faults its task, or its instruction issues. -/
def popAnswers (t : Clk) (o : HqOp) (w : LviWord) : Option Handle × Mod → Mod
  | (none, m) => missCtx t (o.src / 4) (o.src % 4) .emptyQueue m
  | (some h, m) => if h.bad.isSome then badHandle t (o.src / 4) o.by_ h m else popIssues t (o.src / 4) (o.src % 4) w h m

theorem taskId_src (src : Nat) : taskId (src / 4) (src % 4) = src := by unfold taskId; omega

/-- A pop that its stage does not hold reads its queue, past the SKIP handles it discards. -/
theorem taskPop_eq {m : Mod} {o : HqOp} {w : LviWord} (hpop : (ctx m (o.src / 4) (o.src % 4)).pop = some (o.id, false))
    (hheld : sideHeld m (ctx m (o.src / 4) (o.src % 4)).part o.src (popKey (o.src / 4) w) = false) (t : Clk) (d : Nat) :
    taskPop t d o w m = popAnswers t o w
      (popHead t (popKey (o.src / 4) w) (skipsGone t (o.src / 4) (o.src % 4) w (popArrived d o m))) := by
  have hpart := congrArg (·.part) (ctx_popArrived d o m)
  have hside : sideHeld (popArrived d o m) (ctx m (o.src / 4) (o.src % 4)).part o.src (popKey (o.src / 4) w) = false := hheld
  unfold popArrived at hpart hside
  simp only at hpart
  simp only [taskPop, hpop, ne_eq, not_true, if_false, hpart, taskId_src, hside, Bool.false_eq_true]
  unfold skipsGone popArrived
  generalize popHead _ _ _ = found
  obtain ⟨_ | h, u⟩ := found
  · rfl
  · simp only [popAnswers, popIssues, lastIssued, taskId_src]

/-- SKIP handles discarded from a queue that is no side of a stage of the task: they are gone, counted and traced. -/
theorem portKept_discardSkips {m : Mod} {g c key : Nat} (hside : taskSide m (ctx m g c).part (taskId g c) key = none) (t : Clk) :
    let n := (headSkips (hqAt m key)).length
    PortKept (modCtx (handlesGone key n m) g c fun x => { x with skip := satAdd 0xFFFF x.skip n }) (discardSkips t g c key m) := by
  have hremoved := portKept_removeHandles t g key (headSkips (hqAt m key)) (.task (taskId g c)) (ctx m g c).part m
  have hreturn : returnSkips (removeHandles t g key (headSkips (hqAt m key)) (.task (taskId g c)) (ctx m g c).part m) (ctx m g c).part
      (taskId g c) key (headSkips (hqAt m key)) = removeHandles t g key (headSkips (hqAt m key)) (.task (taskId g c)) (ctx m g c).part m := by
    rw [returnSkips, taskSide_of_parts hremoved.parts, show taskSide (handlesGone key _ m) _ _ _ = none from hside]
  unfold discardSkips
  simp only [hreturn]
  exact (hremoved.modCtx ..).trans (portKept_foldl fun _ _ => portKept_traceHandle ..)

/-- What the handles that a pop discards first leave of its queue and of its context. -/
theorem skipsGone_spec {m : Mod} {g c : Nat} {w : LviWord} {skips rest : List Handle}
    (hside : taskSide m (ctx m g c).part (taskId g c) (popKey g w) = none) (hitems : (hqAt m (popKey g w)).items = skips ++ rest)
    (hskips : wExt w = 1 → headSkips (hqAt m (popKey g w)) = skips) (hnone : wExt w ≠ 1 → skips = []) (t : Clk) :
    let u := skipsGone t g c w m
    (hqAt u (popKey g w)).items = rest ∧ u.draw = m.draw
      ∧ ctx u g c = { ctx m g c with skip := if wExt w = 1 then satAdd 0xFFFF (ctx m g c).skip skips.length else (ctx m g c).skip } := by
  unfold skipsGone
  split_ifs with hext
  · have hkept := portKept_discardSkips hside t
    simp only [hskips hext] at hkept
    refine ⟨?_, hkept.draw, (hkept.ctx g c).trans ((ctx_modCtx ..).trans (if_pos ⟨rfl, rfl⟩))⟩
    rw [hkept.hqAt]
    refine (items_handlesGone ..).trans ?_
    rw [hitems, List.drop_left]
  · rw [hnone hext] at hitems
    exact ⟨hitems, rfl, rfl⟩

/-- The SKIP handles at a head end where another handle follows. -/
theorem headSkips_eq {q : HQueue} {skips rest : List Handle} {h : Handle} (hitems : q.items = skips ++ h :: rest)
    (hskips : ∀ k ∈ skips, k.skip = true ∧ k.bad = none) (hskip : h.skip = false) : headSkips q = skips := by
  unfold headSkips
  rw [hitems, List.takeWhile_append_of_pos fun k hk => by simp [hskips k hk], List.takeWhile_cons_of_neg (by simp [hskip]), List.append_nil]

/-! ## What an HQ.POP that issues leaves -/

theorem bit_toNat {n : Nat} (x : BitVec n) (i : Nat) : bit x.toNat i = x.getLsbD i := by
  rw [BitVec.getLsbD, Nat.testBit_eq_decide_div_mod_eq, bit]

theorem bit_setPred {i j : Nat} (hi : i < 8) (p : BitVec 8) (b : Bool) :
    bit (setPred p i b).toNat j = if j = i then b else bit p.toNat j := by
  have hmask : (BitVec.ofNat 8 (2 ^ i)).getLsbD j = decide (j = i) := by
    rw [BitVec.getLsbD_ofNat, Nat.testBit_two_pow]
    grind
  rw [bit_toNat, bit_toNat]
  unfold setPred
  generalize BitVec.ofNat 8 (2 ^ i) = mask at hmask ⊢
  have hbound := BitVec.lt_of_getLsbD (x := p) (i := j)
  cases b <;> simp only [BitVec.getLsbD_and, BitVec.getLsbD_or, BitVec.getLsbD_not, hmask, if_true, Bool.false_eq_true, if_false] <;> grind

/-- The context of an HQ.POP with its handle in its counters and comparators. -/
def popResult (w : LviWord) (h : Handle) (x : Ctx) : Ctx :=
  let d := 4 * wf w 62 2
  let p := 2 * wf w 60 2
  let x1 := setCounter (setCounter x d (BitVec.ofNat 32 h.addr.toNat)) (d + 1) (BitVec.ofNat 32 (h.addr.toNat / 2 ^ 32))
  let x2 := setCounter (setCounter x1 (d + 2) h.len) (d + 3) (handleTail h)
  { x2 with pred := setPred (setPred x2.pred p h.fin) (p + 1) h.skip }

theorem popResult_counters (w : LviWord) (h : Handle) (x : Ctx) :
    let d := 4 * wf w 62 2
    counter (popResult w h x) d = BitVec.ofNat 32 h.addr.toNat
      ∧ counter (popResult w h x) (d + 1) = BitVec.ofNat 32 (h.addr.toNat / 2 ^ 32)
      ∧ counter (popResult w h x) (d + 2) = h.len ∧ counter (popResult w h x) (d + 3) = handleTail h := by
  have hcounter : ∀ (y : Ctx) (p : BitVec 8) i, counter { y with pred := p } i = counter y i := fun _ _ _ => rfl
  simp [popResult, hcounter]

theorem popResult_pred (w : LviWord) (h : Handle) (x : Ctx) :
    bit (popResult w h x).pred.toNat (2 * wf w 60 2) = h.fin ∧ bit (popResult w h x).pred.toNat (2 * wf w 60 2 + 1) = h.skip := by
  have hlt : wf w 60 2 < 4 := wf_lt w 60 2
  simp only [popResult]
  rw [bit_setPred (by omega), bit_setPred (by omega), bit_setPred (by omega)]
  simp

theorem ctx_takeSide (m : Mod) (k task key : Nat) (h : Handle) (g c : Nat) : ctx (takeSide m k task key h) g c = ctx m g c := by
  unfold takeSide
  split <;> rfl

theorem hqs_takeSide (m : Mod) (k task key : Nat) (h : Handle) : (takeSide m k task key h).hqs = m.hqs := by
  unfold takeSide
  split <;> rfl

theorem parts_takeSide {m u : Mod} (hparts : u.parts = m.parts) (k task key : Nat) (h : Handle) :
    (takeSide u k task key h).parts = (takeSide m k task key h).parts := by
  unfold takeSide
  rw [taskSide_of_parts hparts]
  split <;> simp only [modStage, modChain, modPart, hparts]

/-- An HQ.POP that issues gives the handle to its stage, writes it into its context and is done. -/
theorem popIssues_eq (t : Clk) (g c : Nat) (w : LviWord) (h : Handle) (m : Mod) :
    ∃ v, popIssues t g c w h m = done t g c w (modCtx v g c (popResult w h)) ∧ v.hqs = m.hqs ∧ (∀ k d, ctx v k d = ctx m k d)
      ∧ v.parts = (takeSide m (ctx m g c).part (taskId g c) (popKey g w) h).parts := by
  have hlast : ∀ k d, ctx (lastIssued g c m) k d = ctx m k d := fun k d => ctx_modEngine m g k d (fun e => { e with last := some c }) fun _ => rfl
  have hissued := fun idx => portKept_traceIssue t g (taskId g c) idx (wOp w) (lastIssued g c m)
  refine ⟨_, rfl, ?_, fun k d => ?_, ?_⟩
  · rw [(portKept_traceHandle ..).hqs, hqs_takeSide, (hissued _).hqs]
    rfl
  · rw [(portKept_traceHandle ..).ctx, ctx_takeSide, (hissued _).ctx, hlast]
  · rw [(portKept_traceHandle ..).parts, hlast]
    exact parts_takeSide (show _ = m.parts from (hissued _).parts) ..

/-! ## The end of an instruction that no pop waits for -/

theorem pop_stopTask {m : Mod} {g c : Nat} (h : (ctx m g c).pop = none) (task : Nat) (st : CtxSt) (fl : Option (BitVec 16 × Byte × W64)) :
    (ctx (stopTask m task st fl) g c).pop = none := by
  unfold stopTask
  simp only [ctx_modCtx]
  split_ifs
  · rfl
  · split <;> split <;> exact h

theorem pop_faultTask {m : Mod} {g c : Nat} (h : (ctx m g c).pop = none) (t : Clk) (task : Nat) (typ reason : Byte) (addr info : W64)
    (poison : Bool) : (ctx (faultTask t task typ reason addr info poison m) g c).pop = none := by
  unfold faultTask
  simp only
  split_ifs
  · exact h
  · simp only [failTask, ctx_dropCollects, ctx_resetQueues]
    refine pop_stopTask ?_ ..
    rwa [ctx_stopTaskChains, ctx_logEngine]

theorem pop_advanceTo (t : Clk) (g c pc : Nat) (m : Mod) : (ctx (advanceTo t g c pc m) g c).pop = none := by
  have hmoved : (ctx (modCtx m g c fun x => moveTo x pc) g c).pop = none := by
    rw [ctx_modCtx, if_pos ⟨rfl, rfl⟩]
    rfl
  unfold advanceTo
  simp only
  split_ifs
  · exact hmoved
  · exact pop_faultTask hmoved ..

theorem hqs_of_stillMod {m u : Mod} (h : stillMod u = stillMod m) : u.hqs = m.hqs := congrArg (·.hqs) h

/-- An instruction that is done moves its context on, which waits for no pop; it touches no queue. -/
theorem done_spec (t : Clk) (g c : Nat) (w : LviWord) (m : Mod) :
    (done t g c w m).hqs = m.hqs ∧ stillCtx (ctx (done t g c w m) g c) = stillCtx (moveTo (ctx m g c) ((ctx m g c).pc + 1))
      ∧ (ctx (done t g c w m) g c).pop = none := by
  obtain ⟨hstill, -, -, hctx⟩ := done_moved t g c w m
  refine ⟨hqs_of_stillMod hstill, hctx, ?_⟩
  unfold done advance
  exact pop_advanceTo ..

theorem ctx_unselect (g c : Nat) (m : Mod) (h k : Nat) : ctx (unselect g c m) h k = ctx m h k := by
  refine ctx_modEngine m g h k (fun e => if e.active = c then { e with sel := false } else e) fun e => ?_
  split_ifs <;> rfl

/-- A context that misses keeps all but its state. -/
theorem ctx_missCtx (t : Clk) (g c : Nat) (k : Miss) (m : Mod) :
    ctx (missCtx t g c k m) g c = { ctx m g c with st := .missed k } := by
  unfold missCtx
  simp only
  split_ifs with hst
  · rw [ctx_unselect, ← hst]
  · rw [ctx_trace, ctx_countEv, ctx_modCtx, if_pos ⟨rfl, rfl⟩, ctx_unselect]

/-! ## What a task finds at its queue -/

theorem sideHeld_of_none {m : Mod} {k task key : Nat} (h : taskSide m k task key = none) : sideHeld m k task key = false := by
  simp [sideHeld, h]

theorem hqAt_pushHandle (key : Nat) (h : Handle) (m : Mod) :
    hqAt (pushHandle key h m) key = { hqAt m key with items := (hqAt m key).items ++ [h] } :=
  sget_smod_same ({} : HQueue) m.hqs key fun q => { q with items := q.items ++ [h] }

section
variable {m : Mod} {o : HqOp} {w : LviWord} (hpop : (ctx m (o.src / 4) (o.src % 4)).pop = some (o.id, false))
  (hside : taskSide m (ctx m (o.src / 4) (o.src % 4)).part o.src (popKey (o.src / 4) w) = none)
include hside

/-- The state in which the pop of an HQ.POP reads the head of its queue. -/
theorem popSearch_spec {skips rest : List Handle} (hitems : (hqAt m (popKey (o.src / 4) w)).items = skips ++ rest)
    (hskips : wExt w = 1 → headSkips (hqAt m (popKey (o.src / 4) w)) = skips) (hnone : wExt w ≠ 1 → skips = []) (t : Clk) (d : Nat) :
    let u := skipsGone t (o.src / 4) (o.src % 4) w (popArrived d o m)
    let x := ctx m (o.src / 4) (o.src % 4)
    (hqAt u (popKey (o.src / 4) w)).items = rest ∧ u.draw = m.draw
      ∧ ctx u (o.src / 4) (o.src % 4)
          = { x with pop := none, skip := if wExt w = 1 then satAdd 0xFFFF x.skip skips.length else x.skip } := by
  have hctx := ctx_popArrived d o m
  have hside' : taskSide (popArrived d o m) (ctx (popArrived d o m) (o.src / 4) (o.src % 4)).part (taskId (o.src / 4) (o.src % 4))
      (popKey (o.src / 4) w) = none := by
    rw [hctx, taskId_src]
    exact hside
  have hspec := skipsGone_spec hside' hitems hskips hnone t
  rw [hctx] at hspec
  exact hspec

include hpop

/-- At an empty queue the instruction misses, and waits for no pop. -/
theorem taskPop_empty (hitems : (hqAt m (popKey (o.src / 4) w)).items = []) (t : Clk) (d : Nat) :
    let y := ctx (taskPop t d o w m) (o.src / 4) (o.src % 4)
    y.st = .missed .emptyQueue ∧ y.pc = (ctx m (o.src / 4) (o.src % 4)).pc ∧ y.pop = none := by
  obtain ⟨hnone, -, hctx⟩ := popSearch_spec hside (skips := []) hitems (fun _ => by simp [headSkips, hitems]) (fun _ => rfl) t d
  rw [taskPop_eq hpop (sideHeld_of_none hside), popHead_empty hnone]
  simp only [popAnswers, ctx_missCtx, hctx, and_self]

/-- The first handle, past the SKIP handles under SKIPSUB, goes into the counters and comparators of the context. -/
theorem taskPop_takes {skips rest : List Handle} {h : Handle} (hitems : (hqAt m (popKey (o.src / 4) w)).items = skips ++ h :: rest)
    (hbad : h.bad = none) (hskips : wExt w = 1 → (∀ k ∈ skips, k.skip = true ∧ k.bad = none) ∧ h.skip = false)
    (hnone : wExt w ≠ 1 → skips = []) (hecc : Config.handleEcc m.draw = .clean) (t : Clk) (d : Nat) :
    let x := ctx m (o.src / 4) (o.src % 4)
    let y := ctx (taskPop t d o w m) (o.src / 4) (o.src % 4)
    (hqAt (taskPop t d o w m) (popKey (o.src / 4) w)).items = rest
      ∧ stillCtx y = stillCtx (moveTo (popResult w h
          { x with pop := none, skip := if wExt w = 1 then satAdd 0xFFFF x.skip skips.length else x.skip }) (x.pc + 1))
      ∧ y.pop = none := by
  have hhead := fun hext => headSkips_eq hitems (hskips hext).1 (hskips hext).2
  obtain ⟨hrest, hdraw, hctx⟩ := popSearch_spec hside hitems hhead hnone t d
  rw [taskPop_eq hpop (sideHeld_of_none hside), popHead_clean hrest hbad (hdraw ▸ hecc)]
  simp only [popAnswers, hbad, Option.isSome_none, Bool.false_eq_true, if_false]
  generalize skipsGone t (o.src / 4) (o.src % 4) w (popArrived d o m) = u at hrest hctx ⊢
  have htaken := portKept_headTaken t (popKey (o.src / 4) w) u
  obtain ⟨v, hissues, hhqs, hkept, -⟩ := popIssues_eq t (o.src / 4) (o.src % 4) w h (headTaken t (popKey (o.src / 4) w) u)
  have hv : ctx v (o.src / 4) (o.src % 4) = ctx u (o.src / 4) (o.src % 4) := (hkept ..).trans (htaken.ctx ..)
  obtain ⟨hqs, hmoved, hpop⟩ := done_spec t (o.src / 4) (o.src % 4) w (modCtx v (o.src / 4) (o.src % 4) (popResult w h))
  rw [ctx_modCtx, if_pos ⟨rfl, rfl⟩, hv, hctx] at hmoved
  rw [hissues]
  refine ⟨?_, hmoved, hpop⟩
  rw [hqAt, hqs, modCtx_hqs, hhqs]
  exact items_headTaken hrest t

end

/-- A move leaves the counters, the comparators and the count of SKIP handles. -/
theorem kept_of_moveTo {x y : Ctx} {pc : Nat} (h : stillCtx y = stillCtx (moveTo x pc)) : y.ctr = x.ctr ∧ y.pred = x.pred ∧ y.skip = x.skip :=
  ⟨congrArg (·.ctr) h, congrArg (·.pred) h, congrArg (·.skip) h⟩

/-- The counters and comparators of a context that has moved on with the handle it popped. -/
theorem popped_of_moveTo {x y : Ctx} {pc : Nat} {w : LviWord} {h : Handle} (hstill : stillCtx y = stillCtx (moveTo (popResult w h x) pc)) :
    let d := 4 * wf w 62 2
    let p := 2 * wf w 60 2
    counter y d = BitVec.ofNat 32 h.addr.toNat ∧ counter y (d + 1) = BitVec.ofNat 32 (h.addr.toNat / 2 ^ 32)
      ∧ counter y (d + 2) = h.len ∧ counter y (d + 3) = handleTail h ∧ bit y.pred.toNat p = h.fin ∧ bit y.pred.toNat (p + 1) = h.skip
      ∧ y.skip = x.skip := by
  obtain ⟨hctr, hpred, hskip⟩ := kept_of_moveTo hstill
  have hcounter : ∀ i, counter y i = counter (popResult w h x) i := fun i => by rw [counter, counter, hctr]
  obtain ⟨hlo, hhi, hlen, htail⟩ := popResult_counters w h x
  obtain ⟨hfin, hmark⟩ := popResult_pred w h x
  simp only [hcounter, hpred, hskip]
  exact ⟨hlo, hhi, hlen, htail, hfin, hmark, rfl⟩

theorem exec_hqOpArrival (d : Die) (srcs : List Nat) (s : State) : exec (.hqOpArrival d srcs) s = onEng (hqArrive d.val srcs) s := rfl

end Sys2Proof.Machine

namespace Sys2Proof
open Machine

/-- Settles O13: `applyPush` for the pushes, `descPop` and `taskPop` for the pops, each alone in its cycle. -/
theorem queueArrivals : Obligations.QueueArrivals := by
  unfold Obligations.QueueArrivals
  intro d src o s hfirst q part
  have arrives : ∀ {P : Mod → Prop}, P (applyQueue s.clk d [o] o.queue s.m) → Settles s (exec (.hqOpArrival d [src]) s) P := by
    intro P hP
    rw [exec_hqOpArrival]
    refine settles_onEng ?_
    rwa [hqArrive_alone hfirst]
  refine ⟨fun h hpush halloc hpart => ⟨fun hroom => ?room, fun hfull hholds htask hst => ?full, fun hfull hholds => ?held⟩,
    fun hpush hecc => ⟨fun h rest hdesc hitems hskip hbad => ?descriptor, fun w hdesc hword hqueue hpop hside => ⟨?takes, fun hitems => ?misses⟩⟩⟩
  case room =>
    refine arrives ?_
    rw [applyQueue_push _ _ _ hpush, applyPush_room halloc hpart hroom]
    refine ⟨?_, fun p hp => ?_⟩
    · rw [(portKept_traceHandle ..).hqAt, hqAt_pushHandle]
      rfl
    · rw [(portKept_traceHandle ..).hqQueue] at hp
      exact id_ne_of_mem_dropHqOp hp
  case full =>
    refine arrives ?_
    rw [applyQueue_push _ _ _ hpush, applyPush_full halloc hpart hfull hholds]
    have hdropped : (ctx (dropSignals (dropHqOp s.m d o.id) o.id) (o.src / 4) (o.src % 4)).st ≠ .empty := hst
    refine ⟨?_, faultTask_spec hdropped ..⟩
    rw [hqAt_of_undisturbed (Still.faultTask ..)]
    rfl
  case held =>
    refine arrives ?_
    rw [applyQueue_push _ _ _ hpush, applyPush_held halloc hpart hfull hholds]
  case descriptor =>
    refine arrives ?_
    rw [applyQueue_descPop _ _ _ hpush hdesc]
    exact descPop_takes hitems hskip hbad hecc ..
  case takes =>
    intro skips h rest hitems hbad hskips hnone
    refine arrives ?_
    rw [applyQueue_taskPop _ _ _ hpush hdesc hword]
    rw [hqueue] at hside
    have hitems : (hqAt s.m (popKey (o.src / 4) w)).items = skips ++ h :: rest := hqueue ▸ hitems
    obtain ⟨hrest, hstill, hnopop⟩ := taskPop_takes hpop hside hitems hbad hskips hnone hecc s.clk d
    obtain ⟨hlo, hhi, hlen, htail, hfin, hmark, hskip⟩ := popped_of_moveTo hstill
    exact ⟨hqueue ▸ hrest, hlo, hhi, hlen, htail, hfin, hmark, hskip, hnopop⟩
  case misses =>
    refine arrives ?_
    rw [applyQueue_taskPop _ _ _ hpush hdesc hword]
    rw [hqueue] at hside
    have hitems : (hqAt s.m (popKey (o.src / 4) w)).items = [] := hqueue ▸ hitems
    exact taskPop_empty hpop hside hitems ..

end Sys2Proof
end

/-! # CHAINs start, and their stages take buffers (R233, R235)

The state of a stage after an update, the fields of a patched descriptor, and what CHAIN.START, a DMA stage and the task of a
TASK stage leave of the CHAINs of a partition. -/

section
namespace Sys2Proof.Machine

/-! ## Bytes of a slice -/

theorem slice_eq_map (bs : List Byte) (o n : Nat) : slice bs o n = (List.range n).map fun i => bs.getD (o + i) 0 := by
  refine List.ext_getElem (by simp [slice]) fun i h1 h2 => ?_
  have hi : i < n := by simpa using h2
  rw [List.getElem_map, List.getElem_range]
  unfold slice
  simp only [List.getElem_append, List.length_take, List.length_drop, List.getElem_take, List.getElem_drop, List.getElem_replicate]
  split_ifs with hin
  · exact (List.getD_eq_getElem _ _ (by omega)).symm
  · exact (List.getD_eq_default _ _ (by omega)).symm

theorem length_slice (bs : List Byte) (o n : Nat) : (slice bs o n).length = n := by simp [slice_eq_map]

/-- A slice of a slice. -/
theorem slice_slice (bs : List Byte) (o n : Nat) {i k : Nat} (h : i + k ≤ n) : slice (slice bs o n) i k = slice bs (o + i) k := by
  simp only [slice_eq_map bs, slice_eq_map _ i k]
  refine List.map_congr_left fun j hj => ?_
  have hj : j < k := by simpa using hj
  have hin : i + j < n := by omega
  simp [List.getD, hin, Nat.add_assoc]

theorem slice_append_left (x y : List Byte) {o k : Nat} (h : o + k ≤ x.length) : slice (x ++ y) o k = slice x o k := by
  simp only [slice_eq_map]
  refine List.map_congr_left fun j hj => ?_
  have hj : j < k := by simpa using hj
  simp [List.getD, List.getElem?_append_left (show o + j < x.length by omega)]

/-- A patched field reads as its new bytes. -/
theorem fld_patch (bs : List Byte) (o n v : Nat) : fld (patch bs o (toLe n v)) o n = v % 256 ^ n := by
  have hsplit : patch bs o (toLe n v) = slice bs 0 o ++ (toLe n v ++ bs.drop (o + n)) := by simp [patch, length_toLe]
  have hwhole : slice (toLe n v) 0 n = toLe n v := by simp [slice, length_toLe, List.take_of_length_le]
  have hskip := fld_append_right (slice bs 0 o) (toLe n v ++ bs.drop (o + n)) 0 n
  rw [length_slice, Nat.add_zero] at hskip
  rw [hsplit, hskip, fld, slice_append_left _ _ (by rw [length_toLe, Nat.zero_add]), hwhole, leNat_toLe]

/-- A field before a patch reads as before. -/
theorem fld_patch_before (bs : List Byte) {o i n : Nat} (new : List Byte) (h : i + n ≤ o) : fld (patch bs o new) i n = fld bs i n := by
  rw [fld, patch, List.append_assoc, slice_append_left _ _ (by rwa [length_slice]), slice_slice _ _ _ h, Nat.zero_add, fld]

/-- The source and the destination of the descriptor that a DMA stage issues. -/
theorem fld_stageDesc (tmpl : List Byte) {src dst : Nat} (hsrc : src < 2 ^ 64) (hdst : dst < 2 ^ 64) :
    fld (stageDesc tmpl src dst) 8 8 = src ∧ fld (stageDesc tmpl src dst) 16 8 = dst := by
  unfold stageDesc
  rw [fld_patch_before _ _ (by decide), fld_patch, fld_patch]
  exact ⟨Nat.mod_eq_of_lt hsrc, Nat.mod_eq_of_lt hdst⟩

/-! ## The stages of a CHAIN -/

theorem stages_modStage {m : Mod} {k n i : Nat} {r : ChainRt} {st : StageSt} (hrt : chainRt m k n = some r) (hst : r.stages[i]? = some st)
    (f : StageSt → StageSt) :
    ∃ r', chainRt (modStage m k n i f) k n = some r' ∧ r'.stages[i]? = some (f st) ∧ r'.stopped = r.stopped := by
  have hrec : r.rec_ = n := by simpa using List.find?_some hrt
  refine ⟨{ r with stages := r.stages.mapIdx fun j s => if j = i then f s else s }, ?_, by simp [List.getElem?_mapIdx, hst], rfl⟩
  unfold chainRt at hrt ⊢
  simp only [modStage, modChain, partSt_modPart, if_true, List.find?_map]
  have hsame : ((fun x : ChainRt => x.rec_ == n) ∘ fun x => if x.rec_ = n then
      { x with stages := x.stages.mapIdx fun j s => if j = i then f s else s } else x) = fun x => x.rec_ == n := by
    funext x
    simp only [Function.comp]
    split_ifs <;> rfl
  rw [hsame, hrt, Option.map_some, if_pos hrec]

theorem chainRt_of_parts {m u : Mod} (h : u.parts = m.parts) (k n : Nat) : chainRt u k n = chainRt m k n := by
  simp only [chainRt, partSt, h]

theorem chainRec_of_parts {m u : Mod} (h : u.parts = m.parts) (k n : Nat) : chainRec u k n = chainRec m k n := by
  simp only [chainRec, partSt, h]

theorem chainRunning_of_parts {m u : Mod} (h : u.parts = m.parts) (k n : Nat) : chainRunning u k n = chainRunning m k n := by
  simp only [chainRunning, partSt, h]

/-! ## CHAIN.START -/

theorem parts_foldl {α : Type} {f : Mod → α → Mod} {l : List α} {m : Mod} (hf : ∀ u x, (f u x).parts = u.parts) :
    (l.foldl f m).parts = m.parts :=
  List.foldlRecOn (motive := fun u : Mod => u.parts = m.parts) _ _ rfl fun u hu x _ => (hf u x).trans hu

theorem parts_stopTask (m : Mod) (task : Nat) (st : CtxSt) (fl : Option (BitVec 16 × Byte × W64)) :
    (stopTask m task st fl).parts = m.parts := by
  unfold stopTask
  simp only [modCtx_parts]
  split <;> split <;> rfl

theorem parts_dropSignals (m : Mod) (id : Nat) : (dropSignals m id).parts = m.parts := rfl

theorem parts_returnDescs (e : Engine) (g : Nat) (runs : List Nat) (m : Mod) : (returnDescs e g runs m).parts = m.parts :=
  parts_foldl fun _ _ => rfl

theorem parts_resetQueues (m : Mod) (task : Nat) : (resetQueues m task).parts = m.parts :=
  (parts_foldl parts_dropSignals).trans (parts_returnDescs ..)

theorem parts_dropCollects (m : Mod) (task : Nat) : (dropCollects m task).parts = m.parts := parts_foldl parts_dropSignals

theorem chainRunning_stopChain (m : Mod) (j i : Nat) (fl : Option (BitVec 16 × Byte × W64)) (k n : Nat) :
    chainRunning (stopChain m j i fl) k n = chainRunning m k n := by
  unfold chainRunning
  simp only [stopChain, modChain, partSt_modPart]
  split_ifs with hk
  · subst hk
    rw [List.any_map]
    congr 1
    funext r
    simp only [Function.comp]
    split_ifs <;> rfl
  · rfl

/-- A task fault ends no CHAIN. -/
theorem chainRunning_faultTask (t : Clk) (task : Nat) (typ reason : Byte) (addr info : W64) (poison : Bool) (m : Mod) (k n : Nat) :
    chainRunning (faultTask t task typ reason addr info poison m) k n = chainRunning m k n := by
  have hchains : ∀ u fl, chainRunning (stopTaskChains u task fl) k n = chainRunning u k n := fun u fl =>
    List.foldlRecOn (motive := fun v => chainRunning v k n = chainRunning u k n) _ _ rfl fun v hv r _ => (chainRunning_stopChain ..).trans hv
  unfold faultTask
  simp only
  split_ifs
  · rfl
  · rw [failTask, chainRunning_of_parts (parts_dropCollects ..), chainRunning_of_parts (parts_resetQueues ..),
      chainRunning_of_parts (parts_stopTask ..), hchains, logEngine, chainRunning_of_parts (portKept_trace ..).parts]
    rfl

/-- An instruction that is done ends no CHAIN. -/
theorem chainRunning_done (t : Clk) (g c : Nat) (w : LviWord) (m : Mod) (k n : Nat) :
    chainRunning (done t g c w m) k n = chainRunning m k n := by
  have hsignal := putSignal_outside (fun u => chainRunning u k n) (fun _ _ _ _ _ _ _ => rfl) m (taskId g c) w 0 none
  rw [← hsignal]
  unfold done advance advanceTo
  generalize putSignal m (taskId g c) w 0 none = u
  simp only
  split_ifs
  · rfl
  · exact chainRunning_faultTask ..

theorem chainRunning_startChain {m : Mod} {k n : Nat} {r : ChainRec} (hrec : chainRec m k n = some r) (cmd : Option (Nat × Nat)) :
    chainRunning (startChain m k n cmd) k n = true := by
  simp [chainRunning, startChain, hrec]

theorem ctx_startChain (m : Mod) (k n : Nat) (cmd : Option (Nat × Nat)) (g c : Nat) : ctx (startChain m k n cmd) g c = ctx m g c := by
  unfold startChain
  split
  · rfl
  · refine ctx_foldl fun u x => ?_
    split_ifs <;> rfl

/-- A form of an effect alone reaches it with the partitions as they were. -/
theorem attempt_plain_parts {eff : Clk → Nat → Nat → LviWord → Nat → Mod → Mod} {op g c : Nat} {w : LviWord} {s : State}
    (h : headReady s g c op none w) (hT : wT w = false) :
    ∃ u, Undisturbed s.m u ∧ u.parts = s.m.parts ∧ attempt { eff := eff } op none g c w s.clk s.m = eff s.clk g c w 0 u := by
  have hwait : (pastWait s.clk g c w s.m).parts = s.m.parts := traceWait_eq s.clk g c w s.m (·.parts) fun _ _ _ _ => (portKept_trace ..).parts
  have hissue := fun u => (portKept_traceIssue s.clk g (taskId g c) (ctx u g c).pc (wOp w) (issuing g c u)).parts
  refine ⟨_, Still.trans (pastWait_und s.clk g c w s.m) (traceIssue_und s.clk g c w _), (hissue _).trans hwait, ?_⟩
  rw [attempt_eq _ op none g c w s h, tryIssue_eq _ g c w s.clk _ hT rfl rfl, withLeave_none _ s.clk g c w _ rfl,
    startInsn_here _ s.clk g c w 0 _ rfl]

/-- CHAIN.START of a CHAIN of the program that does not run starts it and is done. -/
theorem chainStartForm_eff {m : Mod} {g c : Nat} {w : LviWord} {r : ChainRec} (hrec : chainRec m (ctx m g c).part (wf w 0 16) = some r)
    (hidle : chainRunning m (ctx m g c).part (wf w 0 16) = false) (t : Clk) (grant : Nat) :
    chainStartForm.eff t g c w grant m = done t g c w (startChain m (ctx m g c).part (wf w 0 16) none) := by
  simp [chainStartForm, hrec, hidle]

/-- CHAIN.START of a CHAIN that does not run leaves it running, and its task past the instruction. -/
theorem chainStart_spec {e : Eng} {c : CtxId} {w : LviWord} {r : ChainRec} {s : State} (hhead : headReady s e c 0x24 none w)
    (hT : wT w = false) (hrec : chainRec s.m (ctx s.m e c).part (wf w 0 16) = some r)
    (hidle : chainRunning s.m (ctx s.m e c).part (wf w 0 16) = false) :
    let u := attempt chainStartForm 0x24 none e c w s.clk s.m
    chainRunning u (ctx s.m e c).part (wf w 0 16) = true ∧ (ctx u e c).pc = (moveTo (ctx s.m e c) ((ctx s.m e c).pc + 1)).pc := by
  obtain ⟨u, hund, hparts, hattempt⟩ := attempt_plain_parts (eff := chainStartForm.eff) hhead hT
  have hpart : (ctx u e c).part = (ctx s.m e c).part := congrArg (·.part) (hund.2.2 e c)
  rw [← hpart, ← chainRec_of_parts hparts] at hrec
  rw [← hpart, ← chainRunning_of_parts hparts] at hidle
  have heff := chainStartForm_eff hrec hidle s.clk 0
  obtain ⟨-, hmoved, -⟩ := done_spec s.clk e c w (startChain u (ctx u e c).part (wf w 0 16) none)
  rw [ctx_startChain] at hmoved
  have hform : attempt chainStartForm 0x24 none e c w s.clk s.m = done s.clk e c w (startChain u (ctx u e c).part (wf w 0 16) none) :=
    hattempt.trans heff
  simp only [hform]
  refine ⟨?_, ?_⟩
  · rw [chainRunning_done, ← hpart]
    exact chainRunning_startChain hrec none
  · rw [stillCtx_pc hmoved, und_pc hund]
    exact stillCtx_pc (moveTo_sees _ _ _ (hund.2.2 e c))

theorem exec_chainStartInsn (e : Eng) (c : CtxId) (w : LviWord) (s : State) :
    exec (.chainStartInsn e c w) s = onEng (attempt chainStartForm 0x24 none e.val c.val w) s := rfl

/-! ## A DMA stage takes its buffers -/

/-- The heads of both queues taken. -/
def buffersTaken (t : Clk) (inKey outKey : Nat) (m : Mod) : Mod := headTaken t outKey (headTaken t inKey m)

/-- A stage at work on its buffers. -/
def atWork (hi ho : Handle) (st : StageSt) : StageSt := { st with inp := some hi, out := some ho, busy := true, fin := hi.fin }

/-- A run and its descriptor put into a queue of an engine. -/
def descQueued (g q : Nat) (r : Run) (d : Desc) (m : Mod) : Mod :=
  modDmaq (fresh (fresh m).2).2 g q fun x => { x with runs := x.runs ++ [r], fetched := x.fetched ++ [d] }

theorem kept_headTaken (t : Clk) (key : Nat) (m : Mod) : (headTaken t key m).parts = m.parts ∧ (headTaken t key m).draw = m.draw + 1
    ∧ (∀ g, (engine (headTaken t key m) g).dq = (engine m g).dq) ∧ ∀ j, j ≠ key → hqAt (headTaken t key m) j = hqAt m j := by
  have hkept := portKept_headTaken t key m
  refine ⟨hkept.parts, hkept.draw, hkept.dq, fun j hj => ?_⟩
  rw [hkept.hqAt, handlesGone, hqAt_modHqAt, if_neg hj]
  rfl

theorem inQueue_of_full {c : ChainRec} {i key : Nat} (hi : 0 < i) (h : c.full[i - 1]? = some key) : inQueue c i = key := by
  simp [inQueue, h, Nat.ne_of_gt hi]

theorem outQueue_of_free {c : ChainRec} {i key : Nat} (hi : i + 1 < c.stages.length) (h : c.free[i]? = some key) : outQueue c i = key := by
  simp [outQueue, h, Nat.not_le.2 hi]

theorem fetched_descQueued (g q : Nat) (r : Run) (d : Desc) (m : Mod) :
    (dmaq (engine (descQueued g q r d m) g) q).fetched = (dmaq (engine m g) q).fetched ++ [d] := by
  have hqueue : dmaq (engine (descQueued g q r d m) g) q
      = { dmaq (engine m g) q with runs := (dmaq (engine m g) q).runs ++ [r], fetched := (dmaq (engine m g) q).fetched ++ [d] } := by
    unfold descQueued modDmaq
    rw [engine_modEngine, if_pos rfl]
    exact sget_smod_same ({} : DmaQ) (engine (fresh (fresh m).2).2 g).dq q fun x => { x with runs := x.runs ++ [r], fetched := x.fetched ++ [d] }
  rw [hqueue]

/-- Taking both heads leaves the rest of both queues, and no partition and no DMA queue changes. -/
theorem buffersTaken_spec {m : Mod} {inKey outKey : Nat} {hi ho : Handle} {ri ro : List Handle} (hne : inKey ≠ outKey)
    (hi1 : (hqAt m inKey).items = hi :: ri) (ho1 : (hqAt m outKey).items = ho :: ro) (t : Clk) :
    let u := buffersTaken t inKey outKey m
    (hqAt u inKey).items = ri ∧ (hqAt u outKey).items = ro ∧ u.parts = m.parts ∧ ∀ g, (engine u g).dq = (engine m g).dq := by
  obtain ⟨hparts, -, hdq, hother⟩ := kept_headTaken t inKey m
  obtain ⟨hparts2, -, hdq2, hother2⟩ := kept_headTaken t outKey (headTaken t inKey m)
  refine ⟨?_, items_headTaken ((congrArg (·.items) (hother outKey (Ne.symm hne))).trans ho1) t, hparts2.trans hparts,
    fun g => (hdq2 g).trans (hdq g)⟩
  exact (congrArg (·.items) (hother2 inKey hne)).trans (items_headTaken hi1 t)

theorem hqs_descQueued (g q : Nat) (r : Run) (d : Desc) (m : Mod) : (descQueued g q r d m).hqs = m.hqs := rfl

theorem parts_descQueued (g q : Nat) (r : Run) (d : Desc) (m : Mod) : (descQueued g q r d m).parts = m.parts := rfl

theorem dmaq_modStage (m : Mod) (k n i : Nat) (f : StageSt → StageSt) (g q : Nat) :
    dmaq (engine (modStage m k n i f) g) q = dmaq (engine m g) q := rfl

theorem hqAt_modStage (m : Mod) (k n i : Nat) (f : StageSt → StageSt) (key : Nat) : hqAt (modStage m k n i f) key = hqAt m key := rfl

section
variable {t : Clk} {m : Mod} {k n i inKey outKey : Nat} {r : ChainRt} {c : ChainRec} {g : StageRec} {st : StageSt} {hi ho : Handle}
  {ri ro : List Handle} (hrt : chainRt m k n = some r) (hrec : chainRec m k n = some c) (hg : c.stages[i]? = some g)
  (hst : r.stages[i]? = some st) (hkind : g.kind = 0) (hbusy : st.busy = false) (hst0 : st.stopped = false) (hr0 : r.stopped = false)
  (hin : inQueue c i = inKey) (hout : outQueue c i = outKey) (hin0 : inKey ≠ noQueue) (hout0 : outKey ≠ noQueue) (hne : inKey ≠ outKey)
  (hi1 : (hqAt m inKey).items = hi :: ri) (ho1 : (hqAt m outKey).items = ho :: ro) (hbad : hi.bad = none) (hobad : ho.bad = none)
  (hecc : Config.handleEcc m.draw = .clean) (hecc1 : Config.handleEcc (m.draw + 1) = .clean)

include hrt hrec hg hst hkind hbusy hst0 hr0 hin hout hin0 hout0 hne hi1 ho1 hbad hobad hecc hecc1

/-- A DMA stage that has both its buffers takes them, and puts its template with their addresses into its queue. -/
theorem chainStep_takes : ∃ x d tmpl, chainStep k n i t m
      = descQueued g.place 8 x d (modStage (buffersTaken t inKey outKey m) k n i (atWork hi ho))
    ∧ d.popped = some hi ∧ d.bytes = stageDesc tmpl hi.addr.toNat ho.addr.toNat := by
  obtain ⟨p, hprog⟩ : ∃ p, (partSt m k).prog = some p := by
    unfold chainRec at hrec
    split at hrec
    · cases hrec
    · exact ⟨_, ‹_›⟩
  obtain ⟨-, hdraw, -, hother⟩ := kept_headTaken t inKey m
  have hpopIn := popHead_clean hi1 hbad hecc t
  have hpopOut := popHead_clean ((congrArg (·.items) (hother outKey (Ne.symm hne))).trans ho1) hobad (hdraw.symm ▸ hecc1) t
  have hhasIn : hasHandle m inKey = true := by simp [hasHandle, hi1]
  have hhasOut : hasHandle m outKey = true := by simp [hasHandle, ho1]
  have htakes : chainStep k n i t m = stageTake t k n i c g m := by simp [chainStep, hrt, hrec, hg, hst, hkind, hbusy, hst0, hr0]
  rw [htakes]
  unfold stageTake
  simp only [hin, hout, hkind, hhasIn, hhasOut, hin0, hout0, hpopIn, hpopOut, hprog, if_false, ne_eq, not_true, or_self]
  simp only [Option.toList_some, List.singleton_append, List.find?_cons, hbad, hobad, Option.isSome_none, List.find?_nil]
  exact ⟨_, _, _, rfl, rfl, rfl⟩

/-- A DMA stage that has taken its buffers is at work on them, and its descriptor names their addresses. -/
theorem chainStep_spec :
    let u := chainStep k n i t m
    (hqAt u inKey).items = ri ∧ (hqAt u outKey).items = ro
      ∧ ((chainRt u k n).bind fun x => x.stages[i]?)
          = some { inp := some hi, out := some ho, busy := true, fin := hi.fin, stopped := false }
      ∧ ∃ d, (dmaq (engine u g.place) 8).fetched = (dmaq (engine m g.place) 8).fetched ++ [d]
          ∧ fld d.bytes 8 8 = hi.addr.toNat ∧ fld d.bytes 16 8 = ho.addr.toNat ∧ d.popped = some hi := by
  obtain ⟨x, d, tmpl, hstep, hpopped, hbytes⟩ :=
    chainStep_takes (t := t) hrt hrec hg hst hkind hbusy hst0 hr0 hin hout hin0 hout0 hne hi1 ho1 hbad hobad hecc hecc1
  obtain ⟨hinItems, houtItems, hparts, hdq⟩ := buffersTaken_spec hne hi1 ho1 t
  obtain ⟨r', hrt', hst', -⟩ := stages_modStage ((chainRt_of_parts hparts k n).trans hrt) hst (atWork hi ho)
  have hlt := fun h : Handle => Nat.lt_of_lt_of_le h.addr.isLt (show 2 ^ 57 ≤ 2 ^ 64 by decide)
  obtain ⟨hsrc, hdst⟩ := fld_stageDesc tmpl (hlt hi) (hlt ho)
  simp only [hstep]
  generalize buffersTaken t inKey outKey m = v at hinItems houtItems hdq hrt' ⊢
  have hqueues : ∀ key, hqAt (descQueued g.place 8 x d (modStage v k n i (atWork hi ho))) key = hqAt v key := fun key => by
    rw [hqAt, hqs_descQueued, ← hqAt, hqAt_modStage]
  have hqueue : dmaq (engine v g.place) 8 = dmaq (engine m g.place) 8 := by rw [dmaq, hdq, dmaq]
  refine ⟨(congrArg (·.items) (hqueues inKey)).trans hinItems, (congrArg (·.items) (hqueues outKey)).trans houtItems, ?_, d, ?_, ?_, ?_,
    hpopped⟩
  · rw [chainRt_of_parts (parts_descQueued ..), hrt', Option.bind_some, hst', atWork, hst0]
  · rw [fetched_descQueued, dmaq_modStage, hqueue]
  · rw [hbytes, hsrc]
  · rw [hbytes, hdst]

end

theorem exec_chainStageStep (p : Part) (n i : Nat) (s : State) : exec (.chainStageStep p n i) s = onEng (chainStep p.val n i) s := rfl

/-! ## A TASK stage takes the buffer of its task -/

theorem parts_advance {m u : Mod} {g c : Nat} (h : stillCtx (ctx u g c) = stillCtx (ctx m g c)) (hn : hasNext m g c) (t : Clk) :
    (advance t g c u).parts = u.parts := by
  rw [advance_of_next h hn, modCtx_parts]

/-- An instruction with one after it leaves the partitions as they were. -/
theorem parts_done {m u : Mod} {g c : Nat} (h : stillCtx (ctx u g c) = stillCtx (ctx m g c)) (hn : hasNext m g c) (t : Clk) (w : LviWord) :
    (done t g c w u).parts = u.parts := by
  have hsignal := (Still.putSignal u (taskId g c) w 0 none).2.2 g c
  rw [done, parts_advance (hsignal.trans h) hn]
  exact putSignal_outside (·.parts) (fun _ _ _ _ _ _ _ => rfl) ..

/-- What a stage is once its task holds a buffer for its side. -/
def sideTaken (inp : Bool) (h : Handle) (st : StageSt) : StageSt :=
  if inp then { st with inp := some h, busy := true, fin := h.fin } else { st with out := some h, busy := true }

theorem stageAt_takeSide {m : Mod} {k task key n i : Nat} {inp : Bool} {st : StageSt} (hside : taskSide m k task key = some (n, i, inp))
    (hst : stageAt m k n i = some (st, false)) (hfree : if inp then st.inp = none ∧ st.fin = false else st.out = none) (h : Handle) :
    stageAt (takeSide m k task key h) k n i = some (sideTaken inp h st, false) := by
  unfold stageAt at hst
  split at hst
  · cases hst
  next r hrt =>
    obtain ⟨st', hget, hpair⟩ := Option.map_eq_some_iff.1 hst
    obtain ⟨rfl, hstopped⟩ := Prod.mk.inj hpair
    have after : ∀ f : StageSt → StageSt, (f st').stopped = st'.stopped → stageAt (modStage m k n i f) k n i = some (f st', false) := by
      intro f hf
      obtain ⟨r', hrt', hget', hstop'⟩ := stages_modStage hrt hget f
      simp [stageAt, hrt', hget', hstop', hf, hstopped]
    cases inp with
    | true =>
      simp only [if_true] at hfree
      simp only [takeSide, hside, sideTaken, if_true]
      rw [after _ rfl, hfree.2, Bool.false_or]
    | false =>
      simp only [takeSide, hside, sideTaken]
      exact after _ rfl

theorem sideHeld_of_free {m : Mod} {k task key n i : Nat} {inp : Bool} {st : StageSt} (hside : taskSide m k task key = some (n, i, inp))
    (hst : stageAt m k n i = some (st, false)) (hfree : if inp then st.inp = none ∧ st.fin = false else st.out = none) :
    sideHeld m k task key = false := by
  cases inp <;> simp_all [sideHeld]

theorem popResult_place (w : LviWord) (h : Handle) (x : Ctx) : (popResult w h x).pc = x.pc ∧ (popResult w h x).stream = x.stream
    ∧ (popResult w h x).lcnt = x.lcnt ∧ (popResult w h x).loops = x.loops := by
  simp only [popResult, setCounter, and_self]

/-- A pop's result leaves its context where it stands in its stream. -/
theorem hasNext_popResult {v : Mod} {g c : Nat} {x : Ctx} (hctx : ctx v g c = { x with pop := none })
    (hnext : (moveTo x (x.pc + 1)).pc < x.stream.length) (w : LviWord) (h : Handle) : hasNext (modCtx v g c (popResult w h)) g c := by
  obtain ⟨hpc, hstream, hlcnt, hloops⟩ := popResult_place w h { x with pop := none }
  rw [hasNext, ctx_modCtx, if_pos ⟨rfl, rfl⟩, hctx]
  simp only [moveTo, hpc, hstream, hlcnt, hloops] at hnext ⊢
  exact hnext

theorem hqAt_popArrived (d : Nat) (o : HqOp) (m : Mod) (key : Nat) : hqAt (popArrived d o m) key = hqAt m key := rfl

theorem popArrived_kept (d : Nat) (o : HqOp) (m : Mod) : (popArrived d o m).draw = m.draw ∧ (popArrived d o m).parts = m.parts := ⟨rfl, rfl⟩

theorem parts_headTaken (t : Clk) (key : Nat) (m : Mod) : (headTaken t key m).parts = m.parts := (kept_headTaken t key m).1

theorem ctx_headTaken (t : Clk) (key : Nat) (m : Mod) (g c : Nat) : ctx (headTaken t key m) g c = ctx m g c :=
  (portKept_headTaken t key m).ctx g c

/-- The pop of a task that is a side of its stage takes the head for the stage. -/
theorem taskPop_side {m : Mod} {o : HqOp} {w : LviWord} {n i : Nat} {inp : Bool} {st : StageSt} {h : Handle} {rest : List Handle}
    (hpop : (ctx m (o.src / 4) (o.src % 4)).pop = some (o.id, false)) (hnext : hasNext m (o.src / 4) (o.src % 4)) (hext : wExt w ≠ 1)
    (hside : taskSide m (ctx m (o.src / 4) (o.src % 4)).part o.src (popKey (o.src / 4) w) = some (n, i, inp))
    (hst : stageAt m (ctx m (o.src / 4) (o.src % 4)).part n i = some (st, false))
    (hfree : if inp then st.inp = none ∧ st.fin = false else st.out = none)
    (hitems : (hqAt m (popKey (o.src / 4) w)).items = h :: rest) (hbad : h.bad = none) (hecc : Config.handleEcc m.draw = .clean)
    (t : Clk) (d : Nat) :
    (hqAt (taskPop t d o w m) (popKey (o.src / 4) w)).items = rest
      ∧ stageAt (taskPop t d o w m) (ctx m (o.src / 4) (o.src % 4)).part n i = some (sideTaken inp h st, false) := by
  have harrived : (hqAt (popArrived d o m) (popKey (o.src / 4) w)).items = h :: rest := by rw [hqAt_popArrived, hitems]
  have hparts : (headTaken t (popKey (o.src / 4) w) (popArrived d o m)).parts = m.parts :=
    (parts_headTaken ..).trans (popArrived_kept d o m).2
  have hctx : ctx (headTaken t (popKey (o.src / 4) w) (popArrived d o m)) (o.src / 4) (o.src % 4)
      = { ctx m (o.src / 4) (o.src % 4) with pop := none } := by rw [ctx_headTaken, ctx_popArrived]
  rw [taskPop_eq hpop (sideHeld_of_free hside hst hfree), skipsGone, if_neg hext, popHead_clean harrived hbad ((popArrived_kept d o m).1 ▸ hecc)]
  simp only [popAnswers, hbad, Option.isSome_none, Bool.false_eq_true, if_false]
  have hrest := items_headTaken harrived t
  generalize headTaken t (popKey (o.src / 4) w) (popArrived d o m) = u at hparts hctx hrest ⊢
  obtain ⟨v, hissues, hhqs, hkept, hvparts⟩ := popIssues_eq t (o.src / 4) (o.src % 4) w h u
  rw [hctx, taskId_src] at hvparts
  rw [hissues]
  refine ⟨?_, ?_⟩
  · rw [hqAt, (done_spec ..).1, modCtx_hqs, hhqs]
    exact hrest
  · have hnext' : hasNext (modCtx v (o.src / 4) (o.src % 4) (popResult w h)) (o.src / 4) (o.src % 4) := by
      exact hasNext_popResult ((hkept ..).trans hctx) hnext w h
    rw [stageAt_of_parts (parts_done rfl hnext' t w), stageAt_of_parts (modCtx_parts ..), stageAt_of_parts hvparts]
    exact stageAt_takeSide ((taskSide_of_parts hparts ..).trans hside) ((stageAt_of_parts hparts ..).trans hst) hfree h

end Sys2Proof.Machine

namespace Sys2Proof
open Machine

/-- Settles O14: `chainStart_spec` for CHAIN.START, `chainStep_spec` for a DMA stage, `taskPop_side` for a TASK stage. -/
theorem chainsRun : Obligations.ChainsRun := by
  unfold Obligations.ChainsRun
  refine ⟨fun e c w r s hhead hT hrec hidle => ?start, ?dma, ?task⟩
  case start =>
    rw [exec_chainStartInsn]
    exact settles_onEng (chainStart_spec hhead hT hrec hidle)
  case dma =>
    intro p n i inKey outKey r c g st hi ho ri ro s hrt hrec hg hst hkind hbusy hst0 hr0 hpos hlast hfull hfree hin0 hout0 hne hi1 ho1
      hbad hobad hecc hecc1
    rw [exec_chainStageStep]
    exact settles_onEng (chainStep_spec hrt hrec hg hst hkind hbusy hst0 hr0 (inQueue_of_full hpos hfull) (outQueue_of_free hlast hfree)
      hin0 hout0 hne hi1 ho1 hbad hobad hecc hecc1)
  case task =>
    intro d o w n i inp st h rest s hfirst hpush hdesc hword hext g c key k hqueue hpop hnext hside hst hfree hitems hbad hecc
    rw [exec_hqOpArrival]
    refine settles_onEng ?_
    rw [hqArrive_alone hfirst, applyQueue_taskPop _ _ _ hpush hdesc hword]
    exact taskPop_side hpop hnext hext hside hst hfree hitems hbad hecc ..

end Sys2Proof
end

/-! # Transfers and translations that other work leaves (R35, R205)

What an access, a fault log and a trace record leave of the transfers and the DMA queues of every engine; what a translation
hangs on. -/

section
namespace Sys2Proof.Machine

/-! ## The transfers and queues of the DMA engines -/

/-- The transfers and the DMA queues of every engine are the same. -/
structure TransfersKept (m u : Mod) : Prop where
  xfers : ∀ g, (engine u g).xfers = (engine m g).xfers
  dq : ∀ g, (engine u g).dq = (engine m g).dq

theorem TransfersKept.refl (m : Mod) : TransfersKept m m := ⟨fun _ => rfl, fun _ => rfl⟩

theorem TransfersKept.trans {a b c : Mod} (h : TransfersKept a b) (k : TransfersKept b c) : TransfersKept a c :=
  ⟨fun g => (k.xfers g).trans (h.xfers g), fun g => (k.dq g).trans (h.dq g)⟩

theorem TransfersKept.of_eng {m u : Mod} (h : u.eng = m.eng) : TransfersKept m u :=
  ⟨fun g => congrArg (fun e => (sget ({} : Engine) e g).xfers) h, fun g => congrArg (fun e => (sget ({} : Engine) e g).dq) h⟩

theorem transfersKept_of_fst {β : Type} {r : Mod × β} {m u : Mod} {b : β} (h : r = (u, b)) (hr : TransfersKept m r.1) : TransfersKept m u := by
  rwa [h] at hr

theorem transfersKept_foldl {α : Type} {f : Mod → α → Mod} {l : List α} {m : Mod} (hf : ∀ u x, TransfersKept u (f u x)) :
    TransfersKept m (l.foldl f m) :=
  List.foldlRecOn (motive := TransfersKept m) _ _ (.refl m) fun u hu x _ => hu.trans (hf u x)

theorem TransfersKept.findXfer {m u : Mod} (h : TransfersKept m u) (g id : Nat) : findXfer u g id = findXfer m g id := by
  rw [Machine.findXfer, h.xfers, Machine.findXfer]

theorem TransfersKept.dmaq {m u : Mod} (h : TransfersKept m u) (g q : Nat) : dmaq (engine u g) q = dmaq (engine m g) q := by
  rw [Machine.dmaq, h.dq, Machine.dmaq]

theorem transfersKept_trace (t : Clk) (g task kind arg : Nat) (cls : Option Nat) (m : Mod) : TransfersKept m (trace t g task kind arg cls m) :=
  ⟨trace_engine (p := (·.xfers)) (fun _ _ _ _ _ => rfl) _ _ _ _ _ _ _, trace_engine (p := (·.dq)) (fun _ _ _ _ _ => rfl) _ _ _ _ _ _ _⟩

theorem transfersKept_countEv (m : Mod) (g code n : Nat) : TransfersKept m (countEv m g code n) :=
  ⟨countEv_engine (p := (·.xfers)) (fun _ _ _ _ _ => rfl) _ _ _ _, countEv_engine (p := (·.dq)) (fun _ _ _ _ _ => rfl) _ _ _ _⟩

/-! ## Faults and checks of an access -/

theorem transfersKept_logFault (t : Clk) (l : Nat) (e : FEntry) (m : Mod) : TransfersKept m (logFault t l e m) := .of_eng rfl

theorem transfersKept_logEngine (t : Clk) (g : Nat) (e : FEntry) (m : Mod) : TransfersKept m (logEngine t g e m) :=
  (transfersKept_logFault ..).trans (transfersKept_trace ..)

theorem transfersKept_logErr (t : Clk) (rq : Req) (e : XErr) (m : Mod) : TransfersKept m (logErr t rq e m) := by
  unfold logErr
  simp only
  split_ifs
  · exact transfersKept_logEngine ..
  · exact transfersKept_logFault ..

theorem transfersKept_ctlFault (t : Clk) (p : Place) (typ reason : Byte) (addr : Nat) (info : W64) (m : Mod) :
    TransfersKept m (ctlFault t p typ reason addr info m) := by
  unfold ctlFault
  simp only
  split_ifs
  · exact transfersKept_logEngine ..
  · exact transfersKept_logFault ..

theorem transfersKept_integrityEvent (t : Clk) (p : Place) (m : Mod) : TransfersKept m (integrityEvent t p m) := by
  unfold integrityEvent
  simp only
  split
  · exact (transfersKept_ctlFault ..).trans (.of_eng rfl)
  · exact transfersKept_ctlFault ..

theorem transfersKept_addCorr (m : Mod) (l : Nat) : TransfersKept m (addCorr m l) := .of_eng rfl

theorem transfersKept_checkLine (t : Clk) (m : Mod) (p : Place) (ecc : Ecc) : TransfersKept m (checkLine t m p ecc).1 := by
  fun_cases checkLine t m p ecc
  case case1 => exact .refl m
  case case2 => exact transfersKept_ctlFault ..
  case case3 => exact transfersKept_integrityEvent ..
  case case4 => exact transfersKept_addCorr ..
  case case5 => exact (transfersKept_addCorr ..).trans (transfersKept_integrityEvent ..)
  case case6 => exact .refl m
  case case7 => exact transfersKept_integrityEvent ..

theorem transfersKept_partialCheck (t : Clk) (m : Mod) (p : Place) (n : Nat) (ecc : Ecc) :
    TransfersKept m (partialCheck t m p n ecc).1 := by
  unfold partialCheck
  split
  · split_ifs
    · exact .refl m
    · exact transfersKept_checkLine ..
  · split_ifs
    · exact .refl m
    · exact transfersKept_checkLine ..
  · exact .refl m

/-! ## Reads and writes -/

theorem transfersKept_syncEcc (m : Mod) (d i : Nat) (ecc : Ecc) : TransfersKept m (syncEcc m d i ecc) := by
  cases ecc <;> exact .of_eng rfl

theorem transfersKept_poison (m : Mod) (poison : Sparse Bool) : TransfersKept m { m with mem := { m.mem with poison := poison } } :=
  .of_eng rfl

theorem transfersKept_readPlace (t : Clk) (m : Mod) (p : Place) (n : Nat) (ecc : Ecc) : TransfersKept m (readPlace t m p n ecc).1 := by
  cases p with
  | hbm => exact transfersKept_checkLine ..
  | tier => exact transfersKept_checkLine ..
  | pool =>
    cases ecc with
    | uncorrectable => exact (transfersKept_poison m _).trans (transfersKept_ctlFault ..)
    | _ => exact .of_eng rfl
  | pad g off =>
    cases ecc with
    | corrected => exact (transfersKept_addCorr m g).trans (transfersKept_countEv _ g 0x10 1)
    | uncorrectable => exact (transfersKept_poison m _).trans (transfersKept_ctlFault ..)
    | _ => exact .of_eng rfl
  | _ => exact .refl m

theorem transfersKept_readSpans (t : Clk) (rq : Req) (ecc : Ecc) (m : Mod) (l : List (Nat × Nat)) :
    TransfersKept m (readSpans t rq ecc m l).1 := by
  fun_induction readSpans t rq ecc m l
  case case3 => exact transfersKept_syncEcc ..
  case case4 => exact transfersKept_syncEcc ..
  case case6 hplace _ _ hrest ih => exact (transfersKept_of_fst hplace (transfersKept_readPlace ..)).trans (transfersKept_of_fst hrest ih)
  case case7 hplace _ _ _ hrest ih => exact (transfersKept_of_fst hplace (transfersKept_readPlace ..)).trans (transfersKept_of_fst hrest ih)
  all_goals exact .refl _

theorem transfersKept_readMem (t : Clk) (m : Mod) (rq : Req) (a len : Nat) (ecc : Ecc) : TransfersKept m (readMem t m rq a len ecc).1 := by
  have hspans := transfersKept_readSpans t rq ecc m (spans a len)
  unfold readMem
  split
  next heq => exact (transfersKept_of_fst heq hspans).trans (transfersKept_logErr ..)
  next => exact hspans

theorem transfersKept_fillPages (m : Mod) (rq : Req) (wr : Bool) (a len : Nat) : TransfersKept m (fillPages m rq wr a len) := by
  unfold fillPages
  split
  · refine transfersKept_foldl fun u c => ?_
    split
    · exact .of_eng rfl
    · exact .refl u
  · exact .refl m

theorem transfersKept_writeSpans (t : Clk) (rq : Req) (ecc : Ecc) (m : Mod) (l : List (Nat × Nat)) :
    TransfersKept m (writeSpans t rq ecc m l).1 := by
  fun_induction writeSpans t rq ecc m l
  case case7 hcheck => exact transfersKept_of_fst hcheck (transfersKept_partialCheck ..)
  case case8 hcheck _ _ hrest ih =>
    exact (transfersKept_of_fst hcheck (transfersKept_partialCheck ..)).trans (transfersKept_of_fst hrest ih)
  case case9 hcheck _ _ hrest ih =>
    exact (transfersKept_of_fst hcheck (transfersKept_partialCheck ..)).trans (transfersKept_of_fst hrest ih)
  all_goals exact .refl _

theorem transfersKept_sectorPoison (m : Mod) (a n : Nat) (b : Bool) : TransfersKept m (sectorPoison m a n b) :=
  transfersKept_foldl fun _ _ => .of_eng rfl

theorem transfersKept_stored (m : Mod) (x : Mem) : TransfersKept m { m with mem := x } := .of_eng rfl

theorem transfersKept_writePlace (m : Mod) (p : Place) (data : List Byte) (b : Bool) : TransfersKept m (writePlace m p data b) := by
  unfold writePlace
  cases p with
  | pool n off => exact (transfersKept_stored m _).trans (transfersKept_sectorPoison ..)
  | pad g off => exact (transfersKept_stored m _).trans (transfersKept_sectorPoison ..)
  | host a => cases b <;> exact .of_eng rfl
  | _ => exact .of_eng rfl

theorem transfersKept_applySignal (t : Clk) (die idx count : Nat) (m : Mod) : TransfersKept m (applySignal t die idx count m) := by
  unfold applySignal
  simp only
  split_ifs <;> exact .of_eng rfl

theorem transfersKept_applySpans (t : Clk) (poisoned : Bool) (m : Mod) (data : List Byte) (l : List (Place × Nat)) :
    TransfersKept m (applySpans t poisoned m data l) := by
  induction l generalizing m data with
  | nil => exact .refl m
  | cons x r ih =>
    obtain ⟨p, n⟩ := x
    unfold applySpans
    refine TransfersKept.trans ?_ (ih ..)
    cases p with
    | sync d off => exact transfersKept_applySignal ..
    | _ => exact transfersKept_writePlace ..

theorem transfersKept_writeMem (t : Clk) (m : Mod) (rq : Req) (a : Nat) (data : List Byte) (poisoned : Bool) (ecc : Ecc) :
    TransfersKept m (writeMem t m rq a data poisoned ecc).1 := by
  have hspans := transfersKept_writeSpans t rq ecc m (spans a data.length)
  unfold writeMem
  split
  next heq => exact (transfersKept_of_fst heq hspans).trans (transfersKept_logErr ..)
  next heq => exact (transfersKept_of_fst heq hspans).trans (transfersKept_applySpans ..)

theorem transfersKept_keepTile (t : Clk) (m : Mod) (rq : Req) (va line : Nat) (fp8 : Bool) :
    TransfersKept m (keepTile t m rq va line fp8).1 := by
  unfold keepTile
  split
  next => exact transfersKept_logErr ..
  next p _ _ =>
    have hline := transfersKept_checkLine t m p .clean
    simp only
    split
    · exact hline
    · split
      · exact hline.trans (transfersKept_logErr ..)
      · exact hline

theorem transfersKept_readHead (t : Clk) (m : Mod) (rq : Req) (g va : Nat) : TransfersKept m (readHead t m rq g va).1 := by
  have hread := transfersKept_readMem t m rq va 64 .clean
  unfold readHead
  split
  next heq => exact transfersKept_of_fst heq hread
  next heq =>
    simp only
    split_ifs <;> exact transfersKept_of_fst heq hread

theorem transfersKept_readTile (t : Clk) (m : Mod) (rq : Req) (g va : Nat) : TransfersKept m (readTile t m rq g va).1 := by
  have hhead := transfersKept_readHead t m { rq with tile := false } g va
  unfold readTile
  simp only
  split
  next => exact transfersKept_keepTile ..
  next =>
    split
    next heq => exact transfersKept_of_fst heq hhead
    next m1 h heq =>
      have hrest := transfersKept_readMem t m1 { rq with tile := false } (va + 64) (tileEnd h - 64) .clean
      split_ifs
      · exact transfersKept_of_fst heq hhead
      · split
        next hread => exact (transfersKept_of_fst heq hhead).trans (transfersKept_of_fst hread hrest)
        next hread => exact (transfersKept_of_fst heq hhead).trans (transfersKept_of_fst hread hrest)

/-! ## One transfer of an engine -/

theorem id_of_findXfer {m : Mod} {g id : Nat} {x : Xfer} (h : findXfer m g id = some x) : x.id = id := by
  have hfound := List.find?_some h
  simp only [Bool.and_eq_true, beq_iff_eq] at hfound
  exact hfound.1

/-- An update of a transfer that leaves its number and its running is found in its place. -/
theorem findXfer_modXfer {m : Mod} {g id : Nat} {x : Xfer} (h : findXfer m g id = some x) (f : Xfer → Xfer) (hid : ∀ y, (f y).id = y.id)
    (hended : ∀ y, (f y).ended = y.ended) : findXfer (modXfer m g id f) g id = some (f x) := by
  have hsame : ((fun x : Xfer => x.id == id && x.ended.isNone) ∘ fun x => if x.id = id then f x else x)
      = fun x => x.id == id && x.ended.isNone := by
    funext y
    simp only [Function.comp]
    split_ifs
    · rw [hid, hended]
    · rfl
  rw [findXfer] at h
  rw [findXfer, modXfer, engine_modEngine, if_pos rfl, List.find?_map, hsame, h, Option.map_some, if_pos (id_of_findXfer h)]

theorem dq_modXfer (m : Mod) (g id : Nat) (f : Xfer → Xfer) (h : Nat) : (engine (modXfer m g id f) h).dq = (engine m h).dq := by
  rw [modXfer, engine_modEngine]
  split_ifs with hg
  · rw [hg]
  · rfl

/-! ## What a translation hangs on -/

/-- The module without what no translation and no check of an access reads. -/
def mapsOf (m : Mod) : Mod := { m with eng := [], cmds := [], nextId := 0, pwr := { m.pwr with govs := [] } }

/-- Modules that translate and check alike; a number gone by counts only where translations are cached. -/
structure SameMaps (m u : Mod) : Prop where
  maps : mapsOf u = mapsOf m
  cached : u.nextId = m.nextId ∨ ∀ k, (partSt m k).xlat = []

theorem walk_mapsOf (m : Mod) (k va : Nat) (wr : Bool) (table : Nat) (l : List (Nat × Nat × Nat × Nat × Option Nat)) :
    walk (mapsOf m) k va wr table l = walk m k va wr table l := by
  induction l generalizing table with
  | nil => rfl
  | cons x rest ih =>
    obtain ⟨lv, sh, nb, align, leafBits⟩ := x
    unfold walk
    simp only [ih]
    rfl

section
variable {m u : Mod} (h : SameMaps m u)
include h

/-- What reads nothing of the rest is the same. -/
theorem SameMaps.reads {α : Type} (f : Mod → α) (hf : ∀ v, f (mapsOf v) = f v) : f u = f m := by rw [← hf u, h.maps, hf]

theorem SameMaps.xlate (k va : Nat) (wr : Bool) : xlate u k va wr = xlate m k va wr := by
  have hwalk : ∀ table l, walk u k va wr table l = walk m k va wr table l := fun table l =>
    h.reads (fun v => walk v k va wr table l) fun v => walk_mapsOf v k va wr table l
  have hroot : xlatRoot u k = xlatRoot m k := h.reads (fun v => xlatRoot v k) fun _ => rfl
  have hpart : partSt u k = partSt m k := h.reads (fun v => partSt v k) fun _ => rfl
  unfold Machine.xlate
  rw [hwalk, hroot, hpart]
  obtain hnum | hnone := h.cached
  · rw [hnum]
  · have hold : sget 0 (partSt m k).xlat (va / 65536) = 0 := by rw [hnone]; rfl
    simp only [hold, ne_eq, not_true, false_and, if_false]

theorem SameMaps.dieOwner (d : Nat) : dieOwner u d = dieOwner m d := h.reads (fun v => Machine.dieOwner v d) fun _ => rfl

theorem SameMaps.linkWin (k va : Nat) : linkWin u k va = linkWin m k va := h.reads (fun v => Machine.linkWin v k va) fun _ => rfl

theorem SameMaps.vaPlace (g va : Nat) (wr : Bool) : vaPlace u g va wr = vaPlace m g va wr := by
  simp only [Machine.vaPlace, h.dieOwner, h.xlate]

theorem SameMaps.destPlace (g va : Nat) : destPlace u g va = destPlace m g va := by
  have hnum : moduleNum u = moduleNum m := h.reads moduleNum fun _ => rfl
  simp only [Machine.destPlace, h.dieOwner, h.linkWin, h.vaPlace, hnum]

theorem SameMaps.ownPad (g va n : Nat) : ownPad u g va n = ownPad m g va n := by
  simp only [Machine.ownPad, h.destPlace]

theorem SameMaps.destHdr (g : Nat) (x : Xfer) (y : Hdr) : destHdr u g x y = destHdr m g x y := by
  simp only [Machine.destHdr, destTag, h.destPlace]

theorem SameMaps.spanCheck (rq : Req) (wr : Bool) (a : Nat) : spanCheck u rq wr a = spanCheck m rq wr a := by
  have hphys : ∀ y, spanPhys u rq wr y = spanPhys m rq wr y := fun y => h.reads (fun v => spanPhys v rq wr y) fun _ => rfl
  simp only [Machine.spanCheck, h.xlate, h.linkWin, hphys]

theorem SameMaps.boundRefused (g q : Nat) (r : Option Run) (src dst n : Nat) (tile : Bool) :
    boundRefused u g q r src dst n tile = boundRefused m g q r src dst n tile := by
  have hreq : dmaReq u g q r tile = dmaReq m g q r tile := h.reads (fun v => dmaReq v g q r tile) fun _ => rfl
  simp only [Machine.boundRefused, boundHost, boundRange, hostRange, h.spanCheck, hreq]

end

end Sys2Proof.Machine
end

/-! # Descriptors fetched, and what waits too long (R213, R238, R195) -/

section
namespace Sys2Proof.Machine

/-! ## A burst of descriptors -/

theorem dmaq_modDmaq (m : Mod) (g q : Nat) (f : DmaQ → DmaQ) : dmaq (engine (modDmaq m g q f) g) q = f (dmaq (engine m g) q) := by
  rw [modDmaq, engine_modEngine, if_pos rfl]
  exact sget_smod_same ({} : DmaQ) (engine m g).dq q f

/-- A descriptor of a burst of a run: fetched now, popped for by nothing. -/
def ofBurst (t : Clk) (r : Run) (d : Desc) : Prop := d.run = r.id ∧ d.at_ = t.now ∧ d.popped = none

/-- The descriptor that the bytes b of a run give as number id of a burst; the first carries the run's leave. -/
def burstDesc (t : Clk) (r : Run) (id : Nat) (b : List Byte) (first : Bool) : Desc where
  id := id
  run := r.id
  bytes := issueDesc r b
  at_ := t.now
  popped := none
  popSent := false
  forced := false
  leaveId := if first = true ∧ r.grant ≠ 0 then some r.grant else none

theorem takeDescs_concat (t : Clk) (r : Run) (bs : List (List Byte)) (b : List Byte) (m : Mod) :
    takeDescs t r (bs ++ [b]) m = ((takeDescs t r bs m).1 ++ [burstDesc t r (takeDescs t r bs m).2.nextId b (takeDescs t r bs m).1.isEmpty],
      (fresh (takeDescs t r bs m).2).2) := by
  unfold takeDescs
  rw [List.foldl_concat]
  rfl

/-- The descriptors of a burst take their bytes in order, each with the offsets of its run; numbering them touches nothing but the
count of numbers. -/
theorem takeDescs_spec (t : Clk) (r : Run) (bs : List (List Byte)) (m : Mod) :
    ((takeDescs t r bs m).1.map fun d => d.bytes) = bs.map (issueDesc r) ∧ (∀ d ∈ (takeDescs t r bs m).1, ofBurst t r d)
      ∧ ∃ n, (takeDescs t r bs m).2 = { m with nextId := n } := by
  induction bs using List.reverseRecOn with
  | nil => exact ⟨rfl, fun _ hd => absurd hd List.not_mem_nil, m.nextId, rfl⟩
  | append_singleton bs b ih =>
    obtain ⟨hbytes, hof, n, hmod⟩ := ih
    rw [takeDescs_concat]
    refine ⟨by simp [hbytes, burstDesc], fun d hd => ?_, n + 1, by simp only [fresh, hmod]⟩
    obtain hd | hd := List.mem_append.1 hd
    · exact hof d hd
    · obtain rfl := List.mem_singleton.1 hd
      exact ⟨rfl, rfl, rfl⟩

theorem fetchingRun_of_before {x : DmaQ} {before after : List Run} {r : Run} (hruns : x.runs = before ++ r :: after)
    (hbefore : ∀ y ∈ before, y.left = 0) (hleft : r.left ≠ 0) : fetchingRun x = some r := by
  have hnone : before.find? (fun y => y.left != 0) = none := List.find?_eq_none.2 fun y hy => by simp [hbefore y hy]
  rw [fetchingRun, hruns, List.find?_append, hnone, Option.none_or, List.find?_cons_of_pos (by simpa using hleft)]

/-- An update by number of the one run of its number. -/
theorem map_of_unique {before after : List Run} {r : Run} (hid : ∀ y ∈ before ++ after, y.id ≠ r.id) (f : Run → Run) :
    ((before ++ r :: after).map fun y => if y.id = r.id then f y else y) = before ++ f r :: after := by
  have hkept : ∀ l : List Run, (∀ y ∈ l, y.id ≠ r.id) → (l.map fun y => if y.id = r.id then f y else y) = l := fun l hl =>
    (List.map_congr_left fun y hy => if_neg (hl y hy)).trans (List.map_id l)
  rw [List.map_append, List.map_cons, if_pos rfl, hkept _ fun y hy => hid y (List.mem_append_left _ hy),
    hkept _ fun y hy => hid y (List.mem_append_right _ hy)]

/-- A run with a burst of its descriptors fetched. -/
def burstTaken (n : Nat) (r : Run) : Run := { r with next := r.next + n, left := r.left - n, grant := 0 }

/-- The pieces of a burst lie in the section where the run stands. -/
theorem pieces_of_section (bytes : List Byte) (next n : Nat) : ((List.range n).map fun i => slice (slice bytes (64 * next) (64 * n)) (64 * i) 64)
    = (List.range n).map fun i => slice bytes (64 * (next + i)) 64 := by
  refine List.map_congr_left fun i hi => ?_
  have hi : i < n := by simpa using hi
  rw [slice_slice _ _ _ (by omega), Nat.mul_add]

/-- DESCRIPTOR_BURST_FETCH takes the next descriptors of the oldest run that has some left (R213). -/
theorem burstFetch_spec {m : Mod} {g q k sec : Nat} {r : Run} {before after : List Run} {p : Program} (hruns : engineRuns m g = true)
    (hq : (dmaq (engine m g) q).runs = before ++ r :: after) (hbefore : ∀ x ∈ before, x.left = 0) (hleft : r.left ≠ 0)
    (hid : ∀ x ∈ before ++ after, x.id ≠ r.id) (hroom : (dmaq (engine m g) q).fetched.length ≤ 8) (hsec : r.section_ = some sec)
    (howner : dieOwner m (g / 16) = some k) (hprog : (partSt m k).prog = some p) (t : Clk) :
    let n := min 32 r.left
    let u := burstFetch g q t m
    ∃ ds, (dmaq (engine u g) q).fetched = (dmaq (engine m g) q).fetched ++ ds
      ∧ (ds.map fun d => d.bytes) = ((List.range n).map fun i => issueDesc r (slice (sget [] p.descs sec) (64 * (r.next + i)) 64))
      ∧ (∀ d ∈ ds, ofBurst t r d) ∧ (dmaq (engine u g) q).runs = before ++ burstTaken n r :: after ∧ u.mem = m.mem := by
  intro n u
  have hbytes : burstBytes t g q r n m = (m, .ok (slice (sget [] p.descs sec) (64 * r.next) (64 * n))) := by
    simp [burstBytes, hsec, howner, hprog]
  obtain ⟨hds, hof, k, hnum⟩ :=
    takeDescs_spec t r ((List.range n).map fun i => slice (slice (sget [] p.descs sec) (64 * r.next) (64 * n)) (64 * i) 64) m
  rw [pieces_of_section, List.map_map] at hds
  simp only [pieces_of_section] at hof hnum hds
  have hstep : u = modDmaq { m with nextId := k } g q fun y => { y with
      runs := y.runs.map fun z => if z.id = r.id then burstTaken n z else z
      fetched := y.fetched ++ (takeDescs t r ((List.range n).map fun i => slice (sget [] p.descs sec) (64 * (r.next + i)) 64) m).1 } := by
    simp only [u, burstFetch, hruns, Nat.not_lt.2 hroom, fetchingRun_of_before hq hbefore hleft, not_true, or_self, if_false, hbytes,
      pieces_of_section, n, hnum]
    rfl
  refine ⟨(takeDescs t r ((List.range n).map fun i => slice (sget [] p.descs sec) (64 * (r.next + i)) 64) m).1, ?_, hds, hof, ?_, ?_⟩
  · rw [hstep, dmaq_modDmaq]
    rfl
  · rw [hstep, dmaq_modDmaq]
    exact (congrArg (List.map _) hq).trans (map_of_unique hid (burstTaken n))
  · rw [hstep]
    rfl

/-! ## A PREFETCH descriptor that has waited -/

theorem find?_of_unique {α : Type} {p : α → Bool} {l : List α} {d : α} (hmem : d ∈ l) (hd : p d = true) (hother : ∀ x ∈ l, x ≠ d → p x = false) :
    l.find? p = some d := by
  obtain ⟨x, hx⟩ := Option.isSome_iff_exists.1 (List.find?_isSome.2 ⟨d, hmem, hd⟩)
  have hmark := List.find?_some hx
  by_contra hne
  have hxd : x ≠ d := fun h => hne (h ▸ hx)
  simp [hother x (List.mem_of_find?_eq_some hx) hxd] at hmark

/-- PREFETCH_WAIT_EXPIRY marks the one PREFETCH descriptor that has waited its time, which then starts next (R238). -/
theorem prefetchExpiry_spec {m : Mod} {g q : Nat} {d : Desc} {t : Clk} (hd : d ∈ (dmaq (engine m g) q).fetched)
    (hpre : (readDesc d.bytes).prefetch = true) (hforced : d.forced = false) (hwaited : d.at_ + 4096 ≤ t.now)
    (hother : ∀ x ∈ (dmaq (engine m g) q).fetched, x ≠ d → x.id ≠ d.id ∧ x.forced = false
      ∧ ((readDesc x.bytes).prefetch = false ∨ t.now < x.at_ + 4096)) :
    let u := prefetchExpiry g q t m
    (dmaq (engine u g) q).fetched = ((dmaq (engine m g) q).fetched.map fun x => if x = d then { x with forced := true } else x)
      ∧ nextDesc (dmaq (engine u g) q) = some { d with forced := true } := by
  have hfound : ((dmaq (engine m g) q).fetched.find? fun d => (readDesc d.bytes).prefetch && !d.forced && decide (d.at_ + 4096 ≤ t.now))
      = some d := by
    refine find?_of_unique hd (by simp [hpre, hforced, hwaited]) fun x hx hxd => ?_
    obtain ⟨-, -, hpre | hsoon⟩ := hother x hx hxd
    · simp [hpre]
    · simp [Nat.not_le.2 hsoon]
  have hmap : ((dmaq (engine m g) q).fetched.map fun z => if z.id = d.id then { z with forced := true } else z)
      = (dmaq (engine m g) q).fetched.map fun x => if x = d then { x with forced := true } else x := by
    refine List.map_congr_left fun x hx => ?_
    by_cases hxd : x = d
    · rw [if_pos (congrArg (·.id) hxd), if_pos hxd]
    · rw [if_neg (hother x hx hxd).1, if_neg hxd]
  have hqueue : (dmaq (engine (prefetchExpiry g q t m) g) q).fetched
      = (dmaq (engine m g) q).fetched.map fun x => if x = d then { x with forced := true } else x := by
    simp only [prefetchExpiry, hfound]
    rw [dmaq_modDmaq]
    exact hmap
  refine ⟨hqueue, ?_⟩
  have hnext : ((dmaq (engine (prefetchExpiry g q t m) g) q).fetched.find? fun d => d.forced && (readDesc d.bytes).prefetch)
      = some { d with forced := true } := by
    rw [hqueue]
    refine find?_of_unique (List.mem_map.2 ⟨d, hd, if_pos rfl⟩) (by simp [hpre]) fun y hy hyd => ?_
    obtain ⟨x, hx, rfl⟩ := List.mem_map.1 hy
    by_cases hxd : x = d
    · exact absurd (by rw [if_pos hxd, hxd]) hyd
    · simp [if_neg hxd, (hother x hx hxd).2.1]
  simp only [nextDesc, hnext]

/-! ## A fetch late for its tick (R195) -/

/-- The queue of a transfer with one fall-back more. -/
def fallbackCounted (y : DmaQ) : DmaQ := { y with fallback := satAdd 0xFFFF y.fallback 1 }

/-- A path taken is counted at its queue, and marked on the command it serves. -/
theorem countFallback_eq (g : Nat) (x : Xfer) (m : Mod) :
    ∃ cmds, countFallback g x m = { modDmaq m g x.q fallbackCounted with cmds := cmds } := by
  unfold countFallback
  simp only
  split <;> exact ⟨_, rfl⟩

theorem xfers_modDmaq (m : Mod) (g q : Nat) (f : DmaQ → DmaQ) (h : Nat) : (engine (modDmaq m g q f) h).xfers = (engine m h).xfers := by
  rw [modDmaq, engine_modEngine]
  split_ifs with hg
  · rw [hg]
  · rfl

theorem countFallback_spec (g : Nat) (x : Xfer) (m : Mod) :
    (∀ id, findXfer (countFallback g x m) g id = findXfer m g id) ∧ SameMaps m (countFallback g x m)
      ∧ dmaq (engine (countFallback g x m) g) x.q = fallbackCounted (dmaq (engine m g) x.q) ∧ (countFallback g x m).mem = m.mem := by
  obtain ⟨cmds, heq⟩ := countFallback_eq g x m
  rw [heq]
  refine ⟨fun id => ?_, ⟨rfl, Or.inl rfl⟩, dmaq_modDmaq .., rfl⟩
  exact congrArg (List.find? fun y => y.id == id && y.ended.isNone) (xfers_modDmaq m g x.q fallbackCounted g)

/-- A transfer with the bytes of another path than its own source. -/
def filledAs (mode : XMode) (m : Mod) (g : Nat) (h : Hdr) (bytes : List Byte) (poison : Bool) (x : Xfer) : Xfer :=
  { fillXfer m g h bytes poison x with mode := mode }

theorem findXfer_filledAs {m : Mod} {g id : Nat} {x : Xfer} (h : findXfer m g id = some x) (mode : XMode) (u : Mod) (y : Hdr)
    (bytes : List Byte) (poison : Bool) :
    findXfer (modXfer m g id (filledAs mode u g y bytes poison)) g id = some (filledAs mode u g y bytes poison x) :=
  findXfer_modXfer h (filledAs mode u g y bytes poison) (fun _ => rfl) fun _ => rfl

/-- SKIP: the destination takes a skip marker (R195). -/
def skipTaken (m : Mod) (g : Nat) (x : Xfer) : Xfer :=
  let d := xferDesc x
  { x with
    mode := .skip, landed := 0, total := 0, head := [], headBad := false, buf := [], poisoned := false
    hdr := destHdr m g x (skipHdr d.fmt d.rows32 d.cols32 0), pad := ownPad m g x.dst.toNat 64 }

theorem fillXfer_skip {m u : Mod} (h : SameMaps m u) (g : Nat) (x : Xfer) :
    filledAs .skip u g (skipHdr (xferDesc x).fmt (xferDesc x).rows32 (xferDesc x).cols32 0) [] false x = skipTaken m g x := by
  have hskip : ∀ a b c, (skipHdr a b c 0).skip = true := fun _ _ _ => rfl
  simp only [filledAs, fillXfer, skipTaken, h.destHdr, h.ownPad, hskip, if_true, headLen, Nat.zero_min, List.take_nil, List.drop_nil, List.length_nil]

section
variable {m : Mod} {g id : Nat} {x : Xfer} (hx : findXfer m g id = some x)
include hx

/-- SKIP: a late fetch becomes a skip marker, and is counted (R195). -/
theorem takePath_skip (hpath : (xferDesc x).path = 2) (hok : pathRefused (xferDesc x) (keepAt m g (xferDesc x).dst true).isSome = none)
    (t : Clk) :
    let u := takePath t g x m
    findXfer u g id = some (skipTaken m g x) ∧ dmaq (engine u g) x.q = fallbackCounted (dmaq (engine m g) x.q) ∧ u.mem = m.mem := by
  obtain ⟨hfind, hmaps, hqueue, hmem⟩ := countFallback_spec g x m
  have hstep : takePath t g x m = modXfer (countFallback g x m) g id
      (filledAs .skip (countFallback g x m) g (skipHdr (xferDesc x).fmt (xferDesc x).rows32 (xferDesc x).cols32 0) [] false) := by
    simp [takePath, hpath, hok, id_of_findXfer hx]
    rfl
  rw [← hfind] at hx
  simp only [hstep]
  generalize countFallback g x m = v at hx hmaps hqueue hmem ⊢
  refine ⟨?_, ?_, hmem⟩
  · rw [findXfer_filledAs hx, fillXfer_skip hmaps]
  · rw [dmaq, dq_modXfer]
    exact hqueue

/-- The queue of a transfer with one late fetch more. -/
def lateCounted (y : DmaQ) : DmaQ := { y with late := satAdd 0xFFFF y.late 1 }

/-- A late fetch on no path only counts (R195). -/
theorem takePath_late (hpath : (xferDesc x).path = 3) (t : Clk) :
    let u := takePath t g x m
    findXfer u g id = some { x with late := true } ∧ dmaq (engine u g) x.q = lateCounted (dmaq (engine m g) x.q) ∧ u.mem = m.mem := by
  have hstep : takePath t g x m = modXfer (modDmaq m g x.q lateCounted) g id fun z => { z with late := true } := by
    simp [takePath, hpath, id_of_findXfer hx]
    rfl
  have hfind : findXfer (modDmaq m g x.q lateCounted) g id = some x := by rw [findXfer, xfers_modDmaq, ← findXfer, hx]
  simp only [hstep]
  refine ⟨findXfer_modXfer hfind (fun z => { z with late := true }) (fun _ => rfl) fun _ => rfl, ?_, rfl⟩
  rw [dmaq, dq_modXfer]
  exact dmaq_modDmaq ..

/-- SHADOW: a late fetch takes the bytes of its shadow tile, and is counted (R195). -/
theorem takePath_shadow {m1 : Mod} {r y : TileRead} (hpath : (xferDesc x).path = 1)
    (hok : pathRefused (xferDesc x) (keepAt m g (xferDesc x).dst true).isSome = none)
    (hgo : tileWaits m g x.q x.id (xferRun m g x) (xferDesc x).shadow true = false) {t : Clk}
    (hread : readTile t (countFallback g x m) (dmaReq (countFallback g x m) g x.q (xferRun (countFallback g x m) g x) true) g
      (xferDesc x).shadow = (m1, .ok r))
    (hbar : tileBarred m1 g x (xferDesc x).shadow (64 + r.bytes.length) = false) (hshadow : shadowTile (xferDesc x) r = .ok y) :
    let u := takePath t g x m
    (∃ z, findXfer u g id = some z ∧ z.mode = .shadow ∧ z.landed = z.head.length
        ∧ z.head ++ z.buf = (recodeTile (xferDesc x) ((keepAt m1 g (xferDesc x).dst true).any (·.2)) y).bytes)
      ∧ dmaq (engine u g) x.q = fallbackCounted (dmaq (engine m g) x.q) := by
  obtain ⟨hfind, -, hqueue, -⟩ := countFallback_spec g x m
  have hkept : TransfersKept (countFallback g x m) m1 := transfersKept_of_fst hread (transfersKept_readTile ..)
  generalize hz : recodeTile (xferDesc x) ((keepAt m1 g (xferDesc x).dst true).any (·.2)) y = z
  have hstep : takePath t g x m = modXfer m1 g id (filledAs .shadow m1 g z.h z.bytes z.poison) := by
    rw [← id_of_findXfer hx]
    simp [takePath, hpath, hok, hgo, takeShadow, hread, hbar, hshadow, hz]
    rfl
  have hx1 : findXfer m1 g id = some x := by rw [hkept.findXfer, hfind, hx]
  simp only [hstep]
  refine ⟨⟨_, findXfer_filledAs hx1 .., rfl, ?_, ?_⟩, ?_⟩
  · exact (List.length_take ..).symm
  · exact List.take_append_drop ..
  · rw [dmaq, dq_modXfer, ← dmaq, hkept.dmaq]
    exact hqueue

end

/-- A fetch overdue on neither path is one that only counts. -/
theorem path_of_overdue {t : Clk} {x : Xfer} (h : overdue t x = true) (h1 : (xferDesc x).path ≠ 1) (h2 : (xferDesc x).path ≠ 2) :
    (xferDesc x).path = 3 := by
  simp only [overdue, Bool.and_eq_true, bne_iff_ne] at h
  have hlt : (xferDesc x).path < 4 := Nat.mod_lt _ (by decide)
  have h0 := h.1.1.1
  omega

theorem deadlineExpiry_overdue {t : Clk} {m : Mod} {g id : Nat} {x : Xfer} (hx : findXfer m g id = some x) (h : overdue t x = true) :
    deadlineExpiry g id t m = takePath t g x m := by
  simp [deadlineExpiry, hx, h]

theorem exec_descriptorBurstFetch (e : Eng) (q : Fin 9) (s : State) :
    exec (.descriptorBurstFetch e q) s = onEng (burstFetch e.val q.val) s := rfl

theorem exec_prefetchWaitExpiry (e : Eng) (q : Fin 9) (s : State) :
    exec (.prefetchWaitExpiry e q) s = onEng (prefetchExpiry e.val q.val) s := rfl

theorem exec_fetchDeadlineExpiry (e : Eng) (id : Nat) (s : State) : exec (.fetchDeadlineExpiry e id) s = onEng (deadlineExpiry e.val id) s := rfl

end Sys2Proof.Machine

namespace Sys2Proof
open Machine

/-- Settles O24: `burstFetch_spec` and `prefetchExpiry_spec` for the queue, a lemma about `takePath` for each path of a late fetch. -/
theorem descriptorsFetched : Obligations.DescriptorsFetched := by
  unfold Obligations.DescriptorsFetched
  refine ⟨⟨?burst, ?prefetch⟩, ?late⟩
  case burst =>
    intro e q r before after p k sec s hruns hq hbefore hleft hid hroom hsec howner hprog
    rw [exec_descriptorBurstFetch]
    exact settles_onEng (burstFetch_spec hruns hq hbefore hleft hid hroom hsec howner hprog s.clk)
  case prefetch =>
    intro e q d s hd hpre hforced hwaited hother
    rw [exec_prefetchWaitExpiry]
    exact settles_onEng (prefetchExpiry_spec hd hpre hforced hwaited hother)
  case late =>
    intro e id x s hx hover d q refused
    have expires : ∀ {P : Mod → Prop}, P (takePath s.clk e x s.m) → Settles s (exec (.fetchDeadlineExpiry e id) s) P := by
      intro P hP
      rw [exec_fetchDeadlineExpiry]
      exact settles_onEng (by rwa [deadlineExpiry_overdue hx hover])
    refine ⟨fun hpath hok => expires ?skip, fun h1 h2 => expires ?counts, fun hpath hwaits => expires ?waits,
      fun m1 r y hpath hok hgo hread hbar hshadow => expires ?shadow⟩
    case skip =>
      obtain ⟨hfind, hqueue, hmem⟩ := takePath_skip hx hpath hok s.clk
      exact ⟨hfind, congrArg (·.fallback) hqueue, hmem⟩
    case counts =>
      obtain ⟨hfind, hqueue, hmem⟩ := takePath_late hx (path_of_overdue hover h1 h2) s.clk
      exact ⟨hfind, congrArg (·.late) hqueue, congrArg (·.fallback) hqueue, hmem⟩
    case waits =>
      have hstays : takePath s.clk e x s.m = s.m := if_pos ⟨hpath, hwaits⟩
      rw [hstays]
      exact ⟨hx, rfl, rfl⟩
    case shadow =>
      obtain ⟨⟨z, hfind, hmode, hlanded, hbytes⟩, hqueue⟩ := takePath_shadow hx hpath hok hgo hread hbar hshadow
      exact ⟨z, hfind, hmode, hlanded, hbytes, congrArg (·.fallback) hqueue⟩

end Sys2Proof
end

/-! # A COPY starts, lands and ends (R205, R206, R214 to R216) -/

section
namespace Sys2Proof.Machine

/-! ## The descriptors of a transfer (R214) -/

/-- The bytes of descriptors that go as one transfer. -/
def lenSum (ds : List Desc) (n : Nat) : Nat := (ds.map fun y => (readDesc y.bytes).len).foldl (· + ·) n

theorem mergeTail_within (m : Mod) (g q : Nat) (pf : Bool) (a : DescF) (sum : Nat) (l : List Desc) (h : sum ≤ 65536) :
    lenSum (mergeTail m g q pf a sum l) sum ≤ 65536 := by
  induction l generalizing a sum with
  | nil => exact h
  | cons d r ih =>
    unfold mergeTail
    simp only
    split_ifs with hmerges
    · simp only [mergesWith, Bool.and_eq_true, decide_eq_true_eq] at hmerges
      exact ih (readDesc d.bytes) (sum + (readDesc d.bytes).len) hmerges.1.1.2
    · exact h

theorem head?_merged (m : Mod) (g q : Nat) (d : Desc) (l : List Desc) : (merged m g q d l).head? = some d := by
  unfold merged
  simp only
  split_ifs <;> rfl

/-- A transfer of no more than 256 KiB stays so with the descriptors that merge with it. -/
theorem merged_within {d : Desc} (h : (readDesc d.bytes).len ≤ 0x40000) (m : Mod) (g q : Nat) (l : List Desc) :
    lenSum (merged m g q d l) 0 ≤ 0x40000 := by
  unfold merged
  simp only
  split_ifs with hmerges
  · have htail := mergeTail_within m g q (readDesc d.bytes).prefetch (readDesc d.bytes) (readDesc d.bytes).len l (by omega)
    simp only [lenSum, List.map_cons, List.foldl_cons, Nat.zero_add] at htail ⊢
    omega
  · simpa [lenSum] using h

/-! ## DMA_TRANSFER_START -/

/-- The module with a transfer at work, and its descriptors out of their queue. -/
def xferBegun (g q : Nat) (x : Xfer) (ds : List Desc) (m : Mod) : Mod :=
  dropDescs g q ds (modEngine (fresh m).2 g fun e => { e with xfers := e.xfers ++ [x] })

theorem xferBegun_spec (g q : Nat) (x : Xfer) (ds : List Desc) (m : Mod) :
    (engine (xferBegun g q x ds m) g).xfers = (engine m g).xfers ++ [x]
      ∧ (dmaq (engine (xferBegun g q x ds m) g) q).fetched = (dmaq (engine m g) q).fetched.filter (fun y => !ds.any fun z => z.id == y.id)
      ∧ mapsOf (xferBegun g q x ds m) = mapsOf m ∧ (xferBegun g q x ds m).mem = m.mem := by
  have hadded : engine (modEngine (fresh m).2 g fun e => { e with xfers := e.xfers ++ [x] }) g
      = { engine m g with xfers := (engine m g).xfers ++ [x] } := by
    rw [engine_modEngine, if_pos rfl]
    rfl
  refine ⟨?_, ?_, rfl, rfl⟩
  · rw [xferBegun, dropDescs, xfers_modDmaq, hadded]
  · rw [xferBegun, dropDescs, dmaq_modDmaq, hadded]
    rfl

theorem mapsOf_traceDma (t : Clk) (g : Nat) (x : Xfer) (r : Option Run) (complete : Bool) (m : Mod) :
    mapsOf (traceDma t g x r complete m) = mapsOf m := trace_outside mapsOf (fun _ _ _ => rfl) ..

theorem mem_traceDma (t : Clk) (g : Nat) (x : Xfer) (r : Option Run) (complete : Bool) (m : Mod) :
    (traceDma t g x r complete m).mem = m.mem := trace_outside (·.mem) (fun _ _ _ => rfl) ..

theorem transfersKept_traceDma (t : Clk) (g : Nat) (x : Xfer) (r : Option Run) (complete : Bool) (m : Mod) :
    TransfersKept m (traceDma t g x r complete m) := transfersKept_trace ..

/-- A COPY that the bound-content rule does not refuse begins as a transfer of its descriptors. -/
theorem beginXfer_copy {m : Mod} {g q : Nat} {ds : List Desc} {d : Desc} {src total : Nat} (hhead : ds.head? = some d)
    (hop : (readDesc d.bytes).op = 1) (hxlat : ∀ k, (partSt m k).xlat = [])
    (hbound : boundRefused m g q (findRun m g q d.run) src (readDesc d.bytes).dst total false = false) (t : Clk) (leave : Nat) :
    ∃ task, let x := newXfer q m.nextId ds task src (readDesc d.bytes).dst total false (ownPad m g (readDesc d.bytes).dst total) leave
      beginXfer t g q ds src total leave m = traceDma t g x (findRun m g q d.run) false (xferBegun g q x ds m) := by
  refine ⟨(match findRun m g q d.run with | some y => y.task | none => none), ?_⟩
  intro x
  have hmaps : SameMaps m (traceDma t g x (findRun m g q d.run) false (xferBegun g q x ds m)) :=
    ⟨(mapsOf_traceDma ..).trans (xferBegun_spec ..).2.2.1, Or.inr hxlat⟩
  have hnot := hmaps.boundRefused g q (findRun m g q d.run) src (readDesc d.bytes).dst total false
  rw [hbound] at hnot
  have htile : ((1 : Nat) == 2) = false := rfl
  simp only [beginXfer, hhead, hop, htile, Bool.false_eq_true, if_false, not_false_eq_true, if_true]
  exact if_neg (Bool.eq_false_iff.1 hnot)

/-- A transfer of at most 256 KiB needs no leave (R217). -/
theorem dmaLeave_small {t : Clk} {m : Mod} {g q : Nat} {d : Desc} {total : Nat} (h : total ≤ 0x40000) :
    ∃ u, dmaLeave t g q d total m = (some 0, u) ∧ mapsOf u = mapsOf m ∧ u.eng = m.eng ∧ u.mem = m.mem := by
  unfold dmaLeave
  rw [if_pos h]
  split <;> exact ⟨_, rfl, rfl, rfl, rfl⟩

/-- What the start of a transfer checks before the transfer itself. -/
theorem dmaStart_copy {t : Clk} {m u : Mod} {g q leave : Nat} {d : Desc} (hruns : engineRuns m g = true)
    (hhalt : (engine m g).halt = .running) (hheld : pushHeld m g q = false) (hfull : engineFull m g q = false)
    (hnext : nextDesc (dmaq (engine m g) q) = some d) (hok : descOk (g / 16) (readDesc d.bytes) = true) (hop : (readDesc d.bytes).op = 1)
    (hpop : (readDesc d.bytes).popSrc = false) :
    let ds := merged m g q d (((dmaq (engine m g) q).fetched.dropWhile fun y => y.id != d.id).drop 1)
    (ownPad m g (readDesc d.bytes).dst (lenSum ds 0) ≠ [] → entriesUsed m g < 256) →
    dmaLeave t g q d (lenSum ds 0) m = (some leave, u) →
    dmaStart g q t m = beginXfer t g q ds (readDesc d.bytes).src (lenSum ds 0) leave u := by
  intro ds hroom hleave
  have hdesc : descRuns m g q d = true := by simp [descRuns, hok]
  have hcopy : ¬ (1 : Nat) = 2 := by decide
  have hboard : ¬ ((¬ (ownPad m g (readDesc d.bytes).dst (lenSum ds 0)).isEmpty = true) ∧ entriesUsed m g ≥ 256) := by
    rintro ⟨hpad, hused⟩
    exact Nat.not_lt.2 hused (hroom fun hnil => hpad (by rw [hnil]; rfl))
  unfold lenSum ds at hboard hleave
  simp only [dmaStart, hruns, hhalt, hheld, hfull, hnext, hdesc, hpop, hop, hcopy, hboard, hleave, not_true, ne_eq, Bool.false_eq_true, or_self,
    if_false, if_true, false_and]
  rfl

/-- DMA_TRANSFER_START of a COPY of no more than 256 KiB. -/
theorem dmaStart_spec {m : Mod} {g q : Nat} {d : Desc} (hruns : engineRuns m g = true)
    (hhalt : (engine m g).halt = .running) (hheld : pushHeld m g q = false) (hfull : engineFull m g q = false)
    (hnext : nextDesc (dmaq (engine m g) q) = some d) (hok : descOk (g / 16) (readDesc d.bytes) = true) (hop : (readDesc d.bytes).op = 1)
    (hpop : (readDesc d.bytes).popSrc = false) (hlen : (readDesc d.bytes).len ≤ 0x40000) (hxlat : ∀ k, (partSt m k).xlat = []) (t : Clk) :
    let f := readDesc d.bytes
    let ds := merged m g q d (((dmaq (engine m g) q).fetched.dropWhile fun y => y.id != d.id).drop 1)
    let total := lenSum ds 0
    let u := dmaStart g q t m
    (ownPad m g f.dst total ≠ [] → entriesUsed m g < 256) →
    boundRefused m g q (findRun m g q d.run) f.src f.dst total false = false →
    (∃ id task, (engine u g).xfers = (engine m g).xfers ++ [newXfer q id ds task f.src f.dst total false (ownPad m g f.dst total) 0])
      ∧ (dmaq (engine u g) q).fetched = (dmaq (engine m g) q).fetched.filter (fun y => !ds.any fun z => z.id == y.id)
      ∧ u.mem = m.mem := by
  intro f ds total u hroom hbound
  obtain ⟨v, hleave, hmapsEq, heng, hmem⟩ := dmaLeave_small (t := t) (m := m) (g := g) (q := q) (d := d) (merged_within hlen m g q _)
  have hmaps : SameMaps m v := ⟨hmapsEq, Or.inr hxlat⟩
  have hengine : engine v g = engine m g := by rw [engine, heng, engine]
  have hrun : findRun v g q d.run = findRun m g q d.run := by rw [findRun, hengine, findRun]
  have hxlat' : ∀ k, (partSt v k).xlat = [] := fun k => by rw [hmaps.reads (fun w => partSt w k) fun _ => rfl, hxlat]
  have hbound' : boundRefused v g q (findRun v g q d.run) f.src f.dst total false = false := by rw [hmaps.boundRefused, hrun, hbound]
  obtain ⟨task, hbegin⟩ := beginXfer_copy (head?_merged m g q d _) hop hxlat' hbound' t 0
  have hstart : u = _ := (dmaStart_copy hruns hhalt hheld hfull hnext hok hop hpop hroom hleave).trans hbegin
  rw [hmaps.ownPad] at hstart
  obtain ⟨hxfers, hfetched, -, hbegun⟩ :=
    xferBegun_spec g q (newXfer q v.nextId ds task f.src f.dst total false (ownPad m g f.dst total) 0) ds v
  rw [hengine] at hxfers hfetched
  rw [hstart]
  refine ⟨⟨v.nextId, task, ?_⟩, ?_, ?_⟩
  · rw [(transfersKept_traceDma ..).xfers, hxfers]
  · rw [(transfersKept_traceDma ..).dmaq, hfetched]
  · rw [mem_traceDma, hbegun, hmem]

/-! ## DMA_LINE_LAND -/

theorem overdue_of_path {x : Xfer} (h : (xferDesc x).path = 0) (t : Clk) : overdue t x = false := by simp [overdue, h]

/-- What every read and every cached page leaves, the lines read ahead leave. -/
theorem readAhead_keeps {R : Mod → Mod → Prop} (hrefl : ∀ m, R m m) (htrans : ∀ {a b c}, R a b → R b c → R a c) {t : Clk} {rq : Req}
    {ecc : Ecc} (hread : ∀ m a n, R m (readMem t m rq a n ecc).1) (hfill : ∀ m a n, R m (fillPages m rq false a n))
    (src total n fuel : Nat) (buf : List Byte) (bad : Bool) (m : Mod) :
    R m (readAhead t rq ecc src total n fuel buf bad m).1 := by
  induction fuel generalizing buf bad m with
  | zero => exact hrefl m
  | succ fuel ih =>
    have hfirst := hread m (src + buf.length) (min (256 - (src + buf.length) % 256) (total - buf.length))
    unfold readAhead
    simp only
    split_ifs
    · exact hrefl m
    · split
      next heq =>
        rw [heq] at hfirst
        exact hfirst
      next m1 bs b heq =>
        rw [heq] at hfirst
        have hrest := htrans hfirst (htrans (hfill m1 (src + buf.length) bs.length) (ih (buf ++ bs) b _))
        split
        next hnext =>
          rw [hnext] at hrest
          exact hrest
        next => exact hrest

theorem transfersKept_readAhead (t : Clk) (rq : Req) (ecc : Ecc) (src total n fuel : Nat) (buf : List Byte) (bad : Bool) (m : Mod) :
    TransfersKept m (readAhead t rq ecc src total n fuel buf bad m).1 :=
  readAhead_keeps TransfersKept.refl TransfersKept.trans (fun _ _ _ => transfersKept_readMem ..) (fun _ _ _ => transfersKept_fillPages ..) ..

theorem bytesKept_readAhead (t : Clk) (rq : Req) (ecc : Ecc) (src total n fuel : Nat) (buf : List Byte) (bad : Bool) (m : Mod) :
    BytesKept m (readAhead t rq ecc src total n fuel buf bad m).1 :=
  readAhead_keeps BytesKept.refl BytesKept.trans (fun _ _ _ => bytesKept_readMem ..)
    (fun _ _ _ => bytesKept_of_undisturbed (undisturbed_fillPages ..)) ..

theorem windowLeft_pos {m : Mod} {k va r : Nat} (h : windowLeft m k va = some r) : 0 < r := by
  obtain ⟨i, -, hi⟩ := List.exists_of_findSome?_eq_some h
  simp only at hi
  split_ifs at hi with hin
  obtain ⟨-, -, hlt⟩ := hin
  obtain rfl := Option.some.inj hi
  omega

/-- The next chunk of a transfer with bytes to land is not empty. -/
theorem nextChunk_pos {m : Mod} {x : Xfer} (h : x.landed < x.total) (k : Nat) : 0 < (nextChunk m k x).2 := by
  unfold nextChunk
  simp only
  split
  next r hwin =>
    have hpos := windowLeft_pos hwin
    omega
  next => omega

theorem mem_modXfer (m : Mod) (g id : Nat) (f : Xfer → Xfer) : (modXfer m g id f).mem = m.mem := rfl

theorem mem_countEv (m : Mod) (g code n : Nat) : (countEv m g code n).mem = m.mem := countEv_outside (·.mem) (fun _ _ _ => rfl) ..

theorem mem_fillPages (m : Mod) (rq : Req) (wr : Bool) (a n : Nat) : (fillPages m rq wr a n).mem = m.mem :=
  mem_of_undisturbed (undisturbed_fillPages ..)

/-- The module with n bytes of a transfer counted as landed. -/
def landMarked (g id n : Nat) (m : Mod) : Mod := countEv (modXfer m g id fun y => { y with landed := y.landed + n }) g 0x0E n

theorem mem_landMarked (g id n : Nat) (m : Mod) : (landMarked g id n m).mem = m.mem := by
  rw [landMarked, mem_countEv, mem_modXfer]

theorem findXfer_landMarked {m : Mod} {g id : Nat} {x : Xfer} (h : findXfer m g id = some x) (n : Nat) :
    findXfer (landMarked g id n m) g id = some { x with landed := x.landed + n } := by
  rw [landMarked, (transfersKept_countEv ..).findXfer]
  exact findXfer_modXfer h (fun y => { y with landed := y.landed + n }) (fun _ => rfl) fun _ => rfl

/-- DMA_LINE_LAND of a COPY that nothing holds writes its next bytes and counts them (R205, R206). -/
theorem landLine_copy {t : Clk} {m m1 m3 : Mod} {g id : Nat} {ecc : Ecc} {x : Xfer} {bs : List Byte} {bad last : Bool}
    (hx : findXfer m g id = some x) (htile : x.tile = false) (hpath : (xferDesc x).path = 0) (hleft : x.landed < x.total) :
    let c := nextChunk m ((dieOwner m (g / 16)).getD 0) x
    let m2 := modXfer m1 g id fun y => { y with buf := bs.drop c.2, poisoned := last }
    let rq := dmaReq m2 g x.q (xferRun m2 g x) false
    destPinned m g x c.1 c.2 = false → behind m g x c.1 c.2 = false → chunkWaits m g x c.1 c.2 = false →
    readAhead t (dmaReq m g x.q (xferRun m g x) false) ecc (x.src.toNat + c.1) (x.total - x.landed) c.2 (c.2 / 256 + 2) x.buf x.poisoned m
      = (m1, .ok (bs, bad, last)) →
    linkWin m2 ((dieOwner m2 (g / 16)).getD 0) (x.dst.toNat + c.1) = none →
    writeMem t m2 rq (x.dst.toNat + c.1) (bs.take c.2) bad .clean = (m3, none) →
    landLine g id ecc t m = landMarked g id c.2 (fillPages m3 rq true (x.dst.toNat + c.1) (bs.take c.2).length) := by
  intro c m2 rq hpin hbehind hwaits hread hwin hwrite
  have hput : putChunk t g x c.1 c.2 (bs.take c.2) bad m2
      = .ok (fillPages m3 rq true (x.dst.toNat + c.1) (bs.take c.2).length) := by
    simp only [putChunk, padLast, htile, Bool.false_eq_true, false_and, if_false, putDest, hwin]
    simp only [rq] at hwrite ⊢
    rw [hwrite]
  simp only [landLine, hx, overdue_of_path hpath, Bool.false_eq_true, if_false, Nat.not_le.2 hleft, htile, false_and]
  simp only [c] at hpin hbehind hwaits hread hput
  simp only [hpin, hbehind, hwaits, hread, Bool.false_eq_true, or_self, if_false]
  simp only [m2] at hput
  rw [hput]
  rfl

/-- A write within a line whose place is no sync object lays its bytes down at the place, and changes no other byte. -/
theorem peek_writeMem_within_line {t : Clk} {m m3 : Mod} {rq : Req} {va : Nat} {data : List Byte} {bad b : Bool} {p : Place}
    (hne : data ≠ []) (hline : va % 256 + data.length ≤ 256) (hsync : ∀ i o, p ≠ .sync i o) (hspan : spanCheck m rq true va = .ok (p, b))
    (hwrite : writeMem t m rq va data bad .clean = (m3, none)) :
    peeks m3.mem (cellAddr p) data.length = data
      ∧ ∀ y, (y < cellAddr p ∨ cellAddr p + data.length ≤ y) → peek m3.mem y = peek m.mem y := by
  obtain ⟨v, hund, rfl⟩ := writeMem_within_line hne hline hspan hsync hwrite
  obtain ⟨hdata, houtside⟩ := stored_of_cells rfl (cells_writePlace v p data bad)
  exact ⟨hdata, fun y hy => (houtside y hy).trans (peek_of_cells (congrArg (·.cells) (mem_of_undisturbed hund)) y)⟩

/-- The bytes of a chunk that has landed stand at its place, and no other byte has changed. -/
theorem landed_spec {t : Clk} {m m1 m3 : Mod} {g id n : Nat} {x : Xfer} {rq : Req} {va : Nat} {bs data : List Byte} {bad last b : Bool}
    {p : Place} (hx : findXfer m g id = some x) (htransfers : TransfersKept m m1) (hbytes : BytesKept m m1) (hn : 0 < n)
    (hlen : data.length = n) (hline : va % 256 + n ≤ 256) (hsync : ∀ i o, p ≠ .sync i o)
    (hspan : spanCheck (modXfer m1 g id fun y => { y with buf := bs, poisoned := last }) rq true va = .ok (p, b))
    (hwrite : writeMem t (modXfer m1 g id fun y => { y with buf := bs, poisoned := last }) rq va data bad .clean = (m3, none)) :
    findXfer (landMarked g id n (fillPages m3 rq true va n)) g id = some { x with landed := x.landed + n, buf := bs, poisoned := last }
      ∧ peeks (landMarked g id n (fillPages m3 rq true va n)).mem (cellAddr p) n = data
      ∧ ∀ y, (y < cellAddr p ∨ cellAddr p + n ≤ y) → peek (landMarked g id n (fillPages m3 rq true va n)).mem y = peek m.mem y := by
  subst hlen
  have hbuffered : findXfer (modXfer m1 g id fun y => { y with buf := bs, poisoned := last }) g id
      = some { x with buf := bs, poisoned := last } :=
    findXfer_modXfer ((htransfers.findXfer g id).trans hx) (fun y => { y with buf := bs, poisoned := last }) (fun _ => rfl) fun _ => rfl
  have hfilled := (transfersKept_of_fst hwrite (transfersKept_writeMem ..)).trans (transfersKept_fillPages m3 rq true va data.length)
  obtain ⟨hdata, houtside⟩ := peek_writeMem_within_line (List.length_pos_iff.1 hn) hline hsync hspan hwrite
  rw [mem_modXfer] at houtside
  rw [mem_landMarked, mem_fillPages]
  exact ⟨findXfer_landMarked ((hfilled.findXfer g id).trans hbuffered) data.length, hdata,
    fun y hy => (houtside y hy).trans (peek_of_cells hbytes.cells y)⟩

/-! ## DMA_TRANSFER_COMPLETE -/

/-- A COPY all of whose bytes are written ends. -/
theorem dmaComplete_closes {t : Clk} {m : Mod} {g id : Nat} {x : Xfer} (hx : findXfer m g id = some x) (htile : x.tile = false)
    (hpath : (xferDesc x).path = 0) (hlanded : x.total ≤ x.landed) (hacks : x.acks = 0) (hpush : (xferDesc x).pushDst = false) :
    dmaComplete g id t m = closeXfer t g x m := by
  have hend : endXfer t g x m = closeXfer t g x m := by simp [endXfer, hpush]
  have hwritten : writeEnd t g x m = .ok m := by simp [writeEnd, htile]
  simp only [dmaComplete, hx, overdue_of_path hpath, Nat.not_lt.2 hlanded, hacks, htile, hwritten, hend, Bool.false_eq_true, false_and,
    ne_eq, not_true, or_self, if_false, if_true, ite_self]

section
variable {α : Type} (f : Mod → α)

/-- What a partition's stages, a DONE and a signal leave: all but partitions, region requests, signals and numbers. -/
def ReadsNoQueue : Prop := ∀ m parts regQ syncQ n, f { m with parts := parts, regQ := regQ, syncQ := syncQ, nextId := n } = f m

variable (hf : ReadsNoQueue f)
include hf

theorem markOutput_outside (x : Xfer) (r : Option Run) (m : Mod) : f (markOutput x r m) = f m := by
  unfold markOutput
  split
  · exact hf m _ m.regQ m.syncQ m.nextId
  · rfl

theorem doneOf_outside (m : Mod) (g : Nat) (h : Handle) (who : Owner) (part : Nat) (own : Option Nat) : f (doneOf m g h who part own) = f m := by
  unfold doneOf
  split_ifs
  · exact hf m m.parts _ m.syncQ _
  · rfl

theorem xferDones_outside (g part : Nat) (x : Xfer) (m : Mod) : f (xferDones g part x m) = f m :=
  List.foldlRecOn (motive := fun u => f u = f m) _ _ rfl fun _ hu _ _ => (doneOf_outside f hf ..).trans hu

theorem pushSync_outside (m : Mod) (d src obj : Nat) (kind : SyncKind) (deps : List Nat) (b : Issuer) :
    f (pushSync m d src obj kind deps b) = f m := hf m m.parts m.regQ _ _

theorem descSignal_outside (g q : Nat) (d : Desc) (deps : List Nat) (m : Mod) : f (descSignal g q d deps m) = f m := by
  unfold descSignal
  simp only
  split
  · exact pushSync_outside f hf ..
  · unfold slotSignal
    split
    · rfl
    · split
      · rfl
      · simp only
        split_ifs <;> exact pushSync_outside f hf ..
  · rfl

end

/-! ## The signals of a transfer (R215, R216) -/

/-- The operations on their way with the signals in l in front of the one numbered id. -/
def behindSet (id : Nat) (l : List Nat) (m : Mod) : Mod :=
  { m with syncQ := m.syncQ.map fun s => (s.1, s.2.map fun o => if o.id = id then { o with behind := l } else o) }

/-- The next descriptor's signal joins those sent, behind them. -/
def signalStep (g q : Nat) (deps : List Nat) (acc : Mod × List Nat) (d : Desc) : Mod × List Nat :=
  if (descSignal g q d deps acc.1).nextId = acc.1.nextId then acc
  else (behindSet acc.1.nextId acc.2 (descSignal g q d deps acc.1), acc.2 ++ [acc.1.nextId])

theorem descSignals_eq (g q : Nat) (ds : List Desc) (deps : List Nat) (m : Mod) :
    descSignals g q ds deps m = (ds.foldl (signalStep g q deps) (m, [])).1 := rfl

theorem descSignals_outside {α : Type} (f : Mod → α) (hf : ReadsNoQueue f) (g q : Nat) (ds : List Desc) (deps : List Nat) (m : Mod) :
    f (descSignals g q ds deps m) = f m := by
  rw [descSignals_eq]
  refine List.foldlRecOn (motive := fun acc : Mod × List Nat => f acc.1 = f m) _ _ rfl fun acc hacc d _ => ?_
  unfold signalStep
  split_ifs
  · exact hacc
  · exact ((hf (descSignal g q d deps acc.1) _ _ _ _).trans (descSignal_outside f hf ..)).trans hacc

/-- The signal of a DMA queue to an object of its die is on its way. -/
def signalSent (g q obj : Nat) (deps : List Nat) (m : Mod) : Prop :=
  ∃ o ∈ syncQueue m (g / 16), o.src = srcQueue g q ∧ o.obj = obj ∧ o.kind = .sig 1 ∧ o.deps = deps

theorem sget_map {α : Type} (h : α → α) (l : Sparse (List α)) (d : Nat) :
    sget [] (l.map fun s => (s.1, s.2.map h)) d = (sget [] l d).map h := by
  induction l with
  | nil => rfl
  | cons s r ih =>
    obtain ⟨k, v⟩ := s
    simp only [List.map_cons, sget]
    split_ifs
    · rfl
    · exact ih

theorem syncQueue_pushSync (m : Mod) (d src obj : Nat) (kind : SyncKind) (deps : List Nat) (b : Issuer) (e : Nat) :
    syncQueue (pushSync m d src obj kind deps b) e = if e = d then syncQueue m d
      ++ [{ id := m.nextId, src := src, obj := obj, kind := kind, deps := deps, idx := srcPc m src, by_ := b }] else syncQueue m e :=
  sget_sset ..

section
variable {g q obj : Nat} {deps : List Nat} {m : Mod}

theorem signalSent_pushSync (h : signalSent g q obj deps m) (d src obj' : Nat) (kind : SyncKind) (deps' : List Nat) (b : Issuer) :
    signalSent g q obj deps (pushSync m d src obj' kind deps' b) := by
  obtain ⟨o, ho, hsrc, hobj, hkind, hdeps⟩ := h
  refine ⟨o, ?_, hsrc, hobj, hkind, hdeps⟩
  rw [syncQueue_pushSync]
  split_ifs with hd
  · exact List.mem_append_left _ (hd ▸ ho)
  · exact ho

theorem signalSent_descSignal (h : signalSent g q obj deps m) (d : Desc) : signalSent g q obj deps (descSignal g q d deps m) := by
  unfold descSignal
  simp only
  split
  · exact signalSent_pushSync h ..
  · unfold slotSignal
    split
    · exact h
    · split
      · exact h
      · simp only
        split_ifs <;> exact signalSent_pushSync h ..
  · exact h

theorem signalSent_behindSet (h : signalSent g q obj deps m) (id : Nat) (l : List Nat) : signalSent g q obj deps (behindSet id l m) := by
  obtain ⟨o, ho, hsrc, hobj, hkind, hdeps⟩ := h
  have hqueue : syncQueue (behindSet id l m) (g / 16) = (syncQueue m (g / 16)).map fun o => if o.id = id then { o with behind := l } else o :=
    sget_map ..
  refine ⟨_, hqueue ▸ List.mem_map.2 ⟨o, ho, rfl⟩, ?_⟩
  split_ifs <;> exact ⟨hsrc, hobj, hkind, hdeps⟩

theorem signalSent_signalStep {acc : Mod × List Nat} (h : signalSent g q obj deps acc.1) (d : Desc) :
    signalSent g q obj deps (signalStep g q deps acc d).1 := by
  unfold signalStep
  split_ifs
  · exact h
  · exact signalSent_behindSet (signalSent_descSignal h d) ..

/-- A descriptor with a signal to its die sends it. -/
theorem signalSent_of_smode (acc : Mod × List Nat) {d : Desc} (hmode : (readDesc d.bytes).smode = 1) :
    signalSent g q (readDesc d.bytes).s deps (signalStep g q deps acc d).1 := by
  have hsignal : descSignal g q d deps acc.1
      = pushSync acc.1 (g / 16) (srcQueue g q) (readDesc d.bytes).s (.sig 1) deps (runIssuer (findRun acc.1 g q d.run)) := by
    simp [descSignal, hmode]
  have hnew : (descSignal g q d deps acc.1).nextId ≠ acc.1.nextId := by
    rw [hsignal]
    exact Nat.succ_ne_self _
  unfold signalStep
  rw [if_neg hnew, hsignal]
  have hqueue := syncQueue_pushSync acc.1 (g / 16) (srcQueue g q) (readDesc d.bytes).s (.sig 1) deps (runIssuer (findRun acc.1 g q d.run)) (g / 16)
  rw [if_pos rfl] at hqueue
  exact signalSent_behindSet ⟨_, hqueue ▸ List.mem_append_right _ (List.mem_singleton.2 rfl), rfl, rfl, rfl, rfl⟩ ..

theorem signalSent_descSignals {ds : List Desc} {d : Desc} (hd : d ∈ ds) (hmode : (readDesc d.bytes).smode = 1) (m : Mod) :
    signalSent g q (readDesc d.bytes).s deps (descSignals g q ds deps m) := by
  obtain ⟨before, after, rfl⟩ := List.append_of_mem hd
  rw [descSignals_eq, List.foldl_append, List.foldl_cons]
  exact List.foldlRecOn (motive := fun acc : Mod × List Nat => signalSent g q (readDesc d.bytes).s deps acc.1) _ _
    (signalSent_of_smode _ hmode) fun _ hacc d _ => signalSent_signalStep hacc d

end

/-- The end of a transfer: it is gone, its leave is back, and its signals are on their way behind the earlier transfers. -/
theorem closeXfer_spec (t : Clk) (g : Nat) {x : Xfer} {m : Mod} (hpush : (xferDesc x).pushDst = false) :
    let u := closeXfer t g x m
    findXfer u g x.id = none ∧ sget 0 (gov u (g / 16)).grants x.leave = 0 ∧ u.mem = m.mem
      ∧ ∀ d ∈ x.descs, (readDesc d.bytes).smode = 1 → signalSent g x.q (readDesc d.bytes).s (earlierXfers m g x) u := by
  have houtside : ∀ {α : Type} (f : Mod → α), ReadsNoQueue f → (∀ u h k, f (modEngine u h k) = f u) →
      f (closeXfer t g x m) = f (returnLeave m (g / 16) x.leave) := by
    intro α f hf heng
    simp only [closeXfer, hpush, Bool.false_eq_true, not_false_eq_true, if_true]
    rw [heng, descSignals_outside f hf, xferDones_outside f hf, markOutput_outside f hf]
    exact trace_outside f heng ..
  refine ⟨?_, ?_, houtside (·.mem) (fun _ _ _ _ _ => rfl) fun _ _ _ => rfl, fun d hd hmode => ?_⟩
  · simp only [closeXfer, findXfer]
    rw [engine_modEngine, if_pos rfl]
    refine List.find?_eq_none.2 fun y hy => ?_
    have hne := (List.mem_filter.1 hy).2
    simp only [bne_iff_ne] at hne
    simp [hne]
  · rw [gov, houtside (·.pwr) (fun _ _ _ _ _ => rfl) fun _ _ _ => rfl]
    exact grants_returnLeave ..
  · simp only [closeXfer, hpush, Bool.false_eq_true, not_false_eq_true, if_true]
    exact signalSent_descSignals hd hmode _

theorem exec_dmaTransferStart (e : Eng) (q : Fin 9) (s : State) : exec (.dmaTransferStart e q) s = onEng (dmaStart e.val q.val) s := rfl

theorem exec_dmaLineLand (e : Eng) (id : Nat) (ecc : Ecc) (s : State) :
    exec (.dmaLineLand e id ecc) s = onEng (landLine e.val id ecc) s := rfl

theorem exec_dmaTransferComplete (e : Eng) (id : Nat) (s : State) :
    exec (.dmaTransferComplete e id) s = onEng (dmaComplete e.val id) s := rfl

end Sys2Proof.Machine

namespace Sys2Proof
open Machine

/-- Settles O25: `dmaStart_spec` for the start, `landLine_copy` with `landed_spec` for a line, `closeXfer_spec` for the end. -/
theorem copyRuns : Obligations.CopyRuns := by
  unfold Obligations.CopyRuns
  refine ⟨?starts, ?lands, ?ends⟩
  case starts =>
    intro e q d s hruns hhalt hheld hfull hnext f r ds total hok hop hpop hlen hroom hxlat hbound
    obtain ⟨⟨id, task, hxfers⟩, hfetched, hmem⟩ :=
      dmaStart_spec hruns hhalt hheld hfull hnext hok hop hpop hlen hxlat s.clk hroom hbound
    rw [exec_dmaTransferStart]
    exact settles_onEng ⟨⟨_, hxfers, rfl, rfl, rfl, rfl, rfl, rfl, rfl, rfl, rfl⟩, hfetched, hmem⟩
  case lands =>
    intro e id ecc x m1 m3 bs bad last b p s hx htile hpath hleft k c m2 rq hpin hbehind hwaits hread hwin hspan hsync hwrite hlen hline
    rw [exec_dmaLineLand]
    refine settles_onEng ?_
    rw [landLine_copy hx htile hpath hleft hpin hbehind hwaits hread hwin hwrite, hlen]
    exact landed_spec hx (transfersKept_of_fst hread (transfersKept_readAhead ..)) (bytesKept_of_fst hread (bytesKept_readAhead ..))
      (nextChunk_pos hleft k) hlen hline hsync hspan hwrite
  case ends =>
    intro e id x s hx htile hpath hlanded hacks hpush
    rw [exec_dmaTransferComplete]
    refine settles_onEng ?_
    rw [dmaComplete_closes hx htile hpath hlanded hacks hpush, ← id_of_findXfer hx]
    exact closeXfer_spec s.clk e hpush

end Sys2Proof
end

/-! # The time base over every step (R247, R249, R250)

An even count and an increment of 0, 2 or 4 are kept by the edge, by each function of the time base and by each row of
the model that changes it; every other row leaves the time base as it is. -/

section
namespace Sys2Proof.Machine

/-! ## An idle step is an edge (R247, R249; log 4) -/

theorem step_idle {s : State} (h : s.pending = []) : step s = .next (tick s) := by
  rw [step, h]

theorem settleLoad_none (m : Mod) {c : Clk} (h : c.load = none) : settleLoad m c = c := by
  rw [settleLoad, h]
  rfl

theorem edge_stopped {c : Clk} (h : c.running = false) : edge c = { c with now := c.now + 2 } := by
  rw [edge, h]
  rfl

/-- The edge that applies a load. -/
theorem edge_load {c : Clk} {v : W64} (hrun : c.running = true) (h : c.load = some v) :
    (edge c).sid = v &&& ~~~1 ∧ (edge c).load = none ∧ (edge c).incr = 2 := by
  simp only [edge, hrun, h]
  exact ⟨rfl, rfl, rfl⟩

/-- Any other edge adds the increment. -/
theorem edge_count {c : Clk} (hrun : c.running = true) (h : c.load = none) :
    (edge c).sid = c.sid + BitVec.ofNat 64 c.incr ∧ (edge c).load = none ∧ (edge c).incr = 2 := by
  simp only [edge, hrun, h]
  exact ⟨rfl, rfl, rfl⟩

/-- A load dropped before its edge changes nothing of the count. -/
theorem settleLoad_count (m : Mod) (c : Clk) : (settleLoad m c).running = c.running ∧ (settleLoad m c).sid = c.sid ∧ (settleLoad m c).incr = c.incr := by
  unfold settleLoad
  split_ifs <;> exact ⟨rfl, rfl, rfl⟩

/-! ## What a change of the time base keeps -/

/-- A change of time base and module that keeps the count even and the increment 0, 2 or 4. -/
def TimeKept (f : Clk → Mod → Clk × Mod) : Prop := ∀ c m, clkOk c → clkOk (f c m).1

theorem clkOk_reset (n : Nat) : clkOk { clkReset with now := n } := ⟨rfl, .inr (.inl rfl)⟩

theorem toNat_clearBit0_even (v : W64) : (v &&& ~~~1).toNat % 2 = 0 := by
  have h : (v &&& ~~~1).getLsbD 0 = false := by rw [BitVec.getLsbD_and, BitVec.getLsbD_not]; simp
  rw [BitVec.getLsbD, Nat.testBit_zero] at h
  simpa only [decide_eq_false_iff_not, Nat.mod_two_not_eq_one] using h

theorem toNat_add_even {a : W64} (ha : a.toNat % 2 = 0) {n : Nat} (hn : n = 0 ∨ n = 2 ∨ n = 4) :
    (a + BitVec.ofNat 64 n).toNat % 2 = 0 := by
  rw [BitVec.toNat_add, BitVec.toNat_ofNat]
  omega

/-- An edge takes the load with bit 0 cleared or adds the increment, which is 2 again (R247, R249, R250). -/
theorem clkOk_edge {c : Clk} (h : clkOk c) : clkOk (edge c) := by
  obtain ⟨heven, hincr⟩ := h
  cases hrun : c.running with
  | false =>
    rw [edge_stopped hrun]
    exact ⟨heven, hincr⟩
  | true =>
    cases hload : c.load with
    | none =>
      obtain ⟨hsid, -, hnext⟩ := edge_count hrun hload
      exact ⟨hsid ▸ toNat_add_even heven hincr, .inr (.inl hnext)⟩
    | some v =>
      obtain ⟨hsid, -, hnext⟩ := edge_load hrun hload
      exact ⟨hsid ▸ toNat_clearBit0_even v, .inr (.inl hnext)⟩

theorem clkOk_settleLoad (m : Mod) {c : Clk} (h : clkOk c) : clkOk (settleLoad m c) := by
  obtain ⟨-, hsid, hincr⟩ := settleLoad_count m c
  rwa [clkOk, hsid, hincr]

/-- A steering step makes the increment 4 or 0 and leaves the count (R250). -/
theorem clkOk_steerStep {c : Clk} (h : clkOk c) : clkOk (steerStep c) := by
  obtain ⟨heven, hincr⟩ := h
  simp only [steerStep]
  split_ifs
  · exact ⟨heven, hincr⟩
  · exact ⟨heven, .inr (.inr rfl)⟩
  · exact ⟨heven, .inl rfl⟩
  · exact ⟨heven, .inr (.inr rfl)⟩
  · exact ⟨heven, .inl rfl⟩

/-! ## Synchronisation and measurement -/

theorem clkOk_timeLoad (v : W64) (m : Mod) {c : Clk} (h : clkOk c) : clkOk (timeLoad v c m) := by
  unfold timeLoad
  split_ifs <;> exact h

theorem clkOk_extChange (before after : Mod) {c : Clk} (h : clkOk c) : clkOk (extChange before after c) := by
  simp only [extChange]
  split_ifs <;> exact h

theorem timeKept_timeCtrl (f v : Nat) : TimeKept (timeCtrl f v) := by
  intro c m h
  simp only [timeCtrl]
  split_ifs
  · exact clkOk_extChange _ _ h
  all_goals exact h

theorem clkOk_measFailed {c : Clk} (h : clkOk c) : clkOk (measFailed c) := by
  simp only [measFailed]
  split_ifs <;> exact h

theorem timeKept_measure : TimeKept measure := by
  intro c m h
  simp only [measure]
  split_ifs
  · exact h
  · exact clkOk_measFailed (clkOk_measFailed h)
  · exact clkOk_measFailed h
  · exact clkOk_measFailed h
  · exact h

theorem clkOk_offsetDone (offset : Int) (pending : Bool) {c : Clk} (h : clkOk c) : clkOk (offsetDone offset pending c) := by
  simp only [offsetDone, measState]
  split_ifs <;> exact h

theorem clkOk_timeFollow (p num : Nat) (t3 : W64) (m : Mod) {c : Clk} (h : clkOk c) : clkOk (timeFollow p num t3 c m) := by
  unfold timeFollow
  split
  · split_ifs
    · exact h
    · exact clkOk_offsetDone _ _ h
  · exact h

theorem clkOk_timeResp (p num : Nat) (t2 t4 : W64) (m : Mod) {c : Clk} (h : clkOk c) : clkOk (timeResp p num t2 t4 c m) := by
  unfold timeResp
  split
  · split_ifs <;> exact h
  · exact h

/-! ## The pod time root -/

theorem clkOk_extValid (m : Mod) {c : Clk} (h : clkOk c) : clkOk (extValid c m) := by
  unfold extValid
  split_ifs <;> exact h

theorem clkOk_extCheck (m : Mod) {c : Clk} (h : clkOk c) : clkOk (extCheck c m) := by
  unfold extCheck
  split_ifs <;> exact h

theorem clkOk_ppsIn (valid : Bool) (m : Mod) {c : Clk} (h : clkOk c) : clkOk (ppsIn valid c m) := by
  unfold ppsIn
  split_ifs
  · exact h
  · exact clkOk_extValid m h
  · exact clkOk_extCheck m h

theorem clkOk_ref10m (valid : Bool) (cycles : Nat) (m : Mod) {c : Clk} (h : clkOk c) : clkOk (ref10m valid cycles c m) := by
  simp only [ref10m]
  split_ifs
  · exact h
  · refine clkOk_extValid m ?_
    split <;> exact h
  · exact clkOk_extCheck m h

theorem clkOk_extLoss (m : Mod) {c : Clk} (h : clkOk c) : clkOk (extLoss c m) := by
  simp only [extLoss]
  split_ifs
  · exact h
  all_goals exact clkOk_extCheck m h

theorem timeKept_ppsOut : TimeKept ppsOut := by
  intro c m h
  unfold ppsOut
  split_ifs <;> exact h

/-! ## Links -/

theorem clkOk_upstreamLost (before after : Mod) {c : Clk} (h : clkOk c) : clkOk (upstreamLost before after c) := by
  unfold upstreamLost
  split_ifs <;> exact h

theorem clkOk_stampT1 (f : Flit) {c : Clk} (h : clkOk c) : clkOk (stampT1 f c) := by
  unfold stampT1
  split
  · split_ifs <;> exact h
  · exact h

theorem timeKept_sendSegment (p : Nat) (s : FlitTx) : TimeKept (sendSegment p s) := by
  intro c m h
  unfold sendSegment
  by_cases hidx : s.idx = 0
  · simpa only [hidx, if_true] using clkOk_stampT1 _ h
  · simpa only [hidx, if_false] using h

theorem timeKept_segmentSlot (p : Nat) : TimeKept (segmentSlot p) := by
  intro c m h
  simp only [segmentSlot]
  split_ifs
  · exact h
  · exact h
  · exact h
  · split
    · exact h
    · split
      · exact h
      · exact timeKept_sendSegment p _ c _ h

theorem timeKept_onTimePacket (typ p : Nat) (k : Packet) {act : Clk → Mod → Clk} (hact : ∀ c m, clkOk c → clkOk (act c m)) :
    TimeKept (onTimePacket typ p k act) := by
  intro c m h
  unfold onTimePacket
  split
  · exact h
  · exact hact c _ h

/-! ## Resets, halts and power -/

theorem timeKept_moduleReset : TimeKept moduleReset := fun c _ _ => clkOk_reset c.now

theorem timeKept_powerOn : TimeKept powerOn := by
  intro c m h
  unfold powerOn
  split_ifs
  · exact h
  · exact timeKept_moduleReset c _ h

theorem timeKept_powerLoss : TimeKept powerLoss := by
  intro c m h
  unfold powerLoss
  split_ifs
  · exact timeKept_moduleReset c _ h
  · exact h

theorem timeKept_perstLow : TimeKept perstLow := by
  intro c m h
  unfold perstLow
  split_ifs
  · exact h
  · exact timeKept_moduleReset c _ h

theorem timeKept_tripped (e : FEntry) : TimeKept (tripped e) := by
  intro c m h
  unfold tripped
  split_ifs
  · exact h
  · exact clkOk_reset c.now

theorem timeKept_tripIf (b : Bool) (e : FEntry) : TimeKept (tripIf b e) := by
  intro c m h
  unfold tripIf
  split_ifs
  · exact timeKept_tripped e c m h
  · exact h

theorem clkOk_clkEffects (before after : Mod) {c : Clk} (h : clkOk c) : clkOk (clkEffects before after c) := by
  simp only [clkEffects]
  split_ifs
  · exact clkOk_reset c.now
  · exact clkOk_reset c.now
  all_goals exact h

theorem timeKept_walkStep (fail : Option (Fin 32 × Byte)) (watts : Nat) : TimeKept (walkStep fail watts) := by
  intro c m h
  unfold walkStep
  split
  · exact h
  · split
    · split_ifs <;> exact h
    · exact clkOk_clkEffects _ _ h

/-! ## Writes of registers -/

theorem timeKept_gatedBoth (f off : Nat) {act : Clk → Mod → Clk × Mod} (hact : TimeKept act) : TimeKept (gatedBoth f off act) := by
  intro c m h
  unfold gatedBoth
  split_ifs
  · exact hact c m h
  · exact h

theorem timeKept_timeLoad (v : W64) : TimeKept fun c m => (timeLoad v c m, m) := fun _ m h => clkOk_timeLoad v m h

theorem timeKept_powerWrite (scope f v : Nat) (tripHolds : Bool) : TimeKept (powerWrite scope f v tripHolds) := by
  intro c m h
  simp only [powerWrite]
  split_ifs
  · exact h
  · split
    · exact h
    · exact timeKept_moduleReset c _ h
  · split
    · exact h
    · exact h

theorem timeKept_powerCmd (scope f v : Nat) (tripHolds : Bool) : TimeKept (powerCmd scope f v tripHolds) := by
  intro c m h
  unfold powerCmd
  split_ifs
  · exact h
  · exact h
  · exact timeKept_gatedBoth f _ (timeKept_powerWrite scope f v tripHolds) c m h

theorem timeKept_powerAny (f v : Nat) : TimeKept (powerAny f v) := by
  intro c m h
  unfold powerAny
  split_ifs <;> exact timeKept_powerCmd _ _ _ _ c _ h

theorem timeKept_wordWrite (f off v : Nat) (whole : Bool) : TimeKept (wordWrite f off v whole) := by
  intro c m h
  unfold wordWrite
  split_ifs
  · exact timeKept_powerAny f v c m h
  · exact timeKept_gatedBoth f off timeKept_moduleReset c m h
  · exact h
  · exact timeKept_gatedBoth f off (timeKept_timeLoad _) c m h
  · exact timeKept_gatedBoth f off (timeKept_timeCtrl f v) c m h
  · exact timeKept_gatedBoth f off (fun _ _ hc => hc) c m h
  · exact timeKept_gatedBoth f off (fun _ _ hc => hc) c m h
  all_goals exact h

theorem timeKept_registerWrite (f off size v : Nat) : TimeKept (registerWrite f off size v) := by
  intro c m h
  simp only [registerWrite]
  split_ifs
  · exact h
  · exact timeKept_wordWrite _ _ _ _ c m h
  · exact h
  · exact h
  · exact timeKept_wordWrite _ _ _ _ c m h
  · exact timeKept_wordWrite _ _ _ _ c m h
  · exact h
  · exact h

/-! ## Commands -/

/-- Whatever state an outcome goes on with, its time base is kept. -/
def NextOk (r : Host.Outcome State Fault Refusal) : Prop := ∀ t, r = .next t → clkOk t.clk

theorem nextOk_next {t : State} (h : clkOk t.clk) : NextOk (.next t) := by
  rintro _ ⟨⟩
  exact h

section
variable {s : State} (h : clkOk s.clk) {r : Host.Outcome State Fault Refusal}
include h

/-- A row of the module alone. -/
theorem nextOk_module {m : Mod} (hr : r = .next { s with m := m }) : NextOk r := hr ▸ nextOk_next h

/-- A row of the time base and the module. -/
theorem nextOk_both {f : Clk → Mod → Clk × Mod} (hf : TimeKept f) (hr : r = onBoth f s) : NextOk r :=
  hr ▸ nextOk_next (hf s.clk s.m h)

/-- A row of the time base alone. -/
theorem nextOk_clk {f : Clk → Mod → Clk} (hf : ∀ m {c}, clkOk c → clkOk (f c m)) (hr : r = onClk f s) : NextOk r :=
  hr ▸ nextOk_next (hf s.m h)

/-- A row of the links that changes the time base. -/
theorem nextOk_link {f : Clk → Mod → Clk × Mod} (hf : TimeKept f) (hr : r = onLink f s) : NextOk r :=
  hr ▸ nextOk_next (clkOk_upstreamLost _ _ (hf s.clk s.m h))

/-- A row of the links that does not. -/
theorem nextOk_port {u m : Mod} (hr : r = .next { s with clk := upstreamLost s.m u s.clk, m := m }) : NextOk r :=
  hr ▸ nextOk_next (clkOk_upstreamLost _ _ h)

end

/-- Each row keeps the time base: those of the module leave it as it is, those of the links but for a lock lost with the
upstream port, and each other row changes it by a function that keeps it. -/
theorem nextOk_exec (i : Instr) {s : State} (h : clkOk s.clk) : NextOk (exec i s) := by
  cases i with
  | nop | endTask | add | cmp | sel | loop | br | setlt | time | move | hqPush | hqPop | tierOpen | tierSeal |
  tierAbandon | tierDone | tierRelease | chainStartInsn | opxPass | opxDrain | dotPass | dotDrain | vld | vst | varith
  | vcvt | vtrans | vred | vact | actBwd | update | topkHist | topkSelect | sign | xchDrain | xchNorm | xchCollect |
  xchMcast | dispatch | combine | xchPhase | syncArm | syncClear | syncSignal | transitDispatch | contextSwitch |
  leaveGrant | stepInject | stepRetire | replayStart | passRetire | drainRowSend | gangForm | descriptorBurstFetch |
  dmaTransferStart | dmaLineLand | dmaTransferComplete | fetchDeadlineExpiry | prefetchWaitExpiry | syncOpArrival |
  hqOpArrival | chainStageStep | waitWatchdogExpiry | reduceWriteApply | memoryRead | memoryWrite | regionOpArrival |
  sqDoorbell | cqDoorbell | sqEntryFetch | cqEntryWrite | cqInterruptDelay | nopCommand | abort | xlatInvalidate |
  programLoad | programStart | programUnload | chainStart | dma | gatherRun | gatherRunEnd | tierRegionOpen |
  tierRegionSeal | tierRegionAbandon | tierRegionRelease | tierRegionReclaim | layoutLoad | epochAdvance | phaseLoad |
  phaseLoadRelease | slotDump | breakCmd | bpClear | halt | haltComplete | resume | scrub | scrubQuiesceEnd |
  scrubStreamsEnd | scrubStreamIdleTimeout | bar4Read | bar4Write | configurationRequest | moduleEnable |
  moduleDisable | partEnable | sqEnable | cqEnable | stage | commit | fwActivate | recal | regSet |
  serviceOperationEnd | serviceCfgWrite | vfReset | inputMeasurement | thermalWarn | almanacSample | emergencySample |
  decodeCoreIdle | ethernetFrame | neighborSolicitation | echoRequest | data | offer | pauseRepeat | resumeRepeat |
  close | closeRepeat | reorderTimeout | rateWindowEnd | decodePicture | samplePlace | sampleDraw | streamEnable |
  streamDisable | hold | enrollKey | attest | bindLoad | bindExport | debugChallenge | debugUnlock | debugLock |
  debugNonceExpiry | debugUnlockExpiry | getVersion | getCapabilities | negotiateAlgorithms | getDigests |
  getCertificate | challenge | getMeasurements | mldsaSignatureRequest | fltClear | eccStorm | traceEnable |
  traceRecordTransfer | ecntSnap | ecntRead | ecntSelWrite | timeNowLowRead | perstDeassert | vectorComplete |
  expertRoundReopen | overwriteEnd | hbmRefreshRateChange =>
    exact nextOk_module h rfl
  | scrubOverwriteEnd | retrain | lportEnable | trainingComplete | portStateTimeout | hello | keyx | rekey |
  rekeyRequest | ctlSegment | ctlSegmentSend | segmentReceive | scrubSegment | laneLoss | signal | timeReq | norm |
  normResult | writeAck | reduce | report | param | token | tokenRet | tokenDrop | tokenEnd | bulk |
  epochFutureTimeout | bulkPause =>
    exact nextOk_port h rfl
  | segmentSlot => exact nextOk_link h (timeKept_segmentSlot _) rfl
  | timeResp =>
    refine nextOk_link h ?_ rfl
    exact fun c m => timeKept_onTimePacket _ _ _ (fun _ m1 => clkOk_timeResp _ _ _ _ m1) c m
  | timeFollow => exact nextOk_link h (timeKept_onTimePacket _ _ _ fun _ _ => clkOk_timeFollow _ _ _ _) rfl
  | powerWalkStepDone => exact nextOk_link h (timeKept_walkStep _ _) rfl
  | registerWrite => exact nextOk_link h (timeKept_registerWrite _ _ _ _) rfl
  | timeLoad => exact nextOk_both h (timeKept_gatedBoth _ _ (timeKept_timeLoad _)) rfl
  | syncEnable | syncDisable => exact nextOk_both h (timeKept_gatedBoth _ _ (timeKept_timeCtrl _ _)) rfl
  | timeMeasurement => exact nextOk_both h timeKept_measure rfl
  | ppsOutEdge => exact nextOk_both h timeKept_ppsOut rfl
  | powerOn => exact nextOk_both h timeKept_powerOn rfl
  | inputPowerLoss => exact nextOk_both h timeKept_powerLoss rfl
  | perstAssert => exact nextOk_both h timeKept_perstLow rfl
  | pcieHotReset | pf0Flr => exact nextOk_both h timeKept_moduleReset rfl
  | moduleResetWrite => exact nextOk_both h (timeKept_gatedBoth _ _ timeKept_moduleReset) rfl
  | powerCmdModule | powerCmdDie | powerCmdPort | powerCmdLimits => exact nextOk_both h (timeKept_powerCmd _ _ _ _) rfl
  | inputUndervoltage | inputOvervoltage | inputOverpower | dieOvertemperature | hbmOvertemperature =>
    exact nextOk_both h (timeKept_tripIf _ _) rfl
  | referenceLoss | pllUnlock => exact nextOk_both h (fun _ _ => timeKept_tripIf _ _ _ _) rfl
  | regulatorFault | entropyFailure => exact nextOk_both h (timeKept_tripped _) rfl
  | steeringStep => exact nextOk_clk h (fun _ => clkOk_steerStep) rfl
  | ppsInEdge => exact nextOk_clk h (clkOk_ppsIn _) rfl
  | ref10mCompare => exact nextOk_clk h (clkOk_ref10m _ _) rfl
  | externalInputLoss => exact nextOk_clk h clkOk_extLoss rfl

end Sys2Proof.Machine

namespace Sys2Proof
open Machine

/-- Settles O4: an idle step is an edge (`clkOk_edge`), any other a command (`nextOk_exec`). -/
theorem timeBaseKept : Obligations.TimeBaseKept := by
  unfold Obligations.TimeBaseKept
  intro s t h
  cases hpending : s.pending with
  | nil =>
    rw [step_idle hpending]
    exact nextOk_next (clkOk_edge (clkOk_settleLoad _ h)) t
  | cons i rest =>
    rw [step, hpending]
    exact nextOk_exec i (s := { s with pending := rest }) h t

/-- Settles O5: `clkOk_reset` for the count, the rest as `State.reset` spells it. -/
theorem timeBaseAtReset : Obligations.TimeBaseAtReset := by
  unfold Obligations.TimeBaseAtReset
  exact ⟨clkOk_reset 0, rfl, rfl, rfl, rfl⟩

end Sys2Proof
end

/-! # Sidereal time: steering, synchronisation and the pod time root (R249, R250, R261, R264, R266 to R268, R618)

What each function of the time base makes of it, by the case it is in, and the rows of these commands. -/

section
namespace Sys2Proof.Machine

/-! ## STEERING_STEP (R250) -/

section
variable {c : Clk} (hrun : c.running = true) (hload : c.load = none) (hold : ∀ n, c.lastStep = some n → n + 4096 ≤ c.now)
include hrun hload hold

/-- A step that may be made now takes its direction from the steps left, those towards the 10 MHz input last. -/
theorem steerStep_due (hleft : ¬ (c.steer = 0 ∧ c.steerRef = 0)) : steerStep c =
    if 0 < c.steer then { (shiftRef 2 c) with incr := 4, steer := c.steer - 1, lastStep := some c.now }
    else if c.steer < 0 then { (shiftRef (-2) c) with incr := 0, steer := c.steer + 1, lastStep := some c.now }
    else if 0 < c.steerRef then { c with incr := 4, steerRef := c.steerRef - 1, lastStep := some c.now }
    else { c with incr := 0, steerRef := c.steerRef + 1, lastStep := some c.now } := by
  refine if_neg ?_
  rintro (h | h | h | h)
  · exact h hrun
  · exact hleft h
  · refine h ?_
    split
    · rfl
    next n hn => exact decide_eq_true (hold n hn)
  · rw [hload] at h
    exact absurd h (by simp)

theorem steerStep_forward (h : 0 < c.steer) :
    steerStep c = { (shiftRef 2 c) with incr := 4, steer := c.steer - 1, lastStep := some c.now } := by
  rw [steerStep_due hrun hload hold (by omega), if_pos h]

theorem steerStep_back (h : c.steer < 0) :
    steerStep c = { (shiftRef (-2) c) with incr := 0, steer := c.steer + 1, lastStep := some c.now } := by
  rw [steerStep_due hrun hload hold (by omega), if_neg (by omega), if_pos h]

theorem steerStep_forwardRef (h : c.steer = 0) (href : 0 < c.steerRef) :
    steerStep c = { c with incr := 4, steerRef := c.steerRef - 1, lastStep := some c.now } := by
  rw [steerStep_due hrun hload hold (by omega), if_neg (by omega), if_neg (by omega), if_pos href]

theorem steerStep_backRef (h : c.steer = 0) (href : c.steerRef < 0) :
    steerStep c = { c with incr := 0, steerRef := c.steerRef + 1, lastStep := some c.now } := by
  rw [steerStep_due hrun hload hold (by omega), if_neg (by omega), if_neg (by omega), if_neg (by omega)]

end

/-- With no step left nothing changes. -/
theorem steerStep_none {c : Clk} (h : c.steer = 0) (href : c.steerRef = 0) : steerStep c = c :=
  if_pos (.inr (.inl ⟨h, href⟩))

/-- Within 4,096 ticks of the last step nothing changes. -/
theorem steerStep_early {c : Clk} {n : Nat} (hn : c.lastStep = some n) (h : c.now < n + 4096) : steerStep c = c := by
  refine if_pos (.inr (.inr (.inl ?_)))
  simp only [hn, decide_eq_true_eq]
  omega

theorem exec_steeringStep (s : State) : exec .steeringStep s = .next { s with clk := steerStep s.clk } := rfl

/-! ## TIME_CTRL -/

/-- A bit that the module itself sets or clears reads so. -/
theorem regB_setBit_same (m : Mod) (off : Nat) {i : Nat} (hi : i < 64) (b : Bool) : regB (setBit m off i b) off i = b := by
  have hbit : ∀ x, bit x i = decide (bits x i 1 = 1) := fun _ => rfl
  have hbits : ∀ x, (if bit x i then 2 ^ i else 0) = bits x i 1 * 2 ^ i := by
    intro x
    have hlt : bits x i 1 < 2 := Nat.mod_lt _ (by decide)
    rw [hbit]
    obtain h | h : bits x i 1 = 0 ∨ bits x i 1 = 1 := by omega
    all_goals simp [h]
  have hnew : bits (b2n b * 2 ^ i) i 1 = b2n b := by
    rw [bits, Nat.mul_div_cancel _ (Nat.two_pow_pos i)]
    cases b <;> rfl
  have hset : setBit m off i b = setReg m off (BitVec.ofNat 64
      (regN m off - bits (regN m off) i 1 * 2 ^ i + bits (b2n b * 2 ^ i) i 1 * 2 ^ i)) := by
    rw [setBit, hbits, hnew]
    cases b <;> simp [b2n]
  rw [regB, hbit, hset, regN, reg_setReg_same, bits_ofNat64 _ (by omega), bits_setField, hnew]
  cases b <;> rfl

/-- SYNC_EN set by a write of TIME_CTRL. -/
theorem timeCtrl_starts {f v : Nat} {c : Clk} {m : Mod} (hv : bit v 0 = true) (hen : syncEn m = false) :
    timeCtrl f v c m = (startSync (timeRoot (storeFields f rTimeCtrl v m)) c, setBit (storeFields f rTimeCtrl v m) rTimeCtrl 0 true) := by
  simp [timeCtrl, hv, hen]

/-- SYNC_EN cleared by a write of TIME_CTRL. -/
theorem timeCtrl_stops {f v : Nat} {c : Clk} {m : Mod} (hv : bit v 0 = false) (hen : syncEn m = true) :
    timeCtrl f v c m = (stopSync c, setBit (storeFields f rTimeCtrl v m) rTimeCtrl 0 false) := by
  simp [timeCtrl, hv, hen]

theorem gatedBoth_of_writable {m : Mod} {f off : Nat} (act : Clk → Mod → Clk × Mod) (c : Clk) (h : writable m f off = true) :
    gatedBoth f off act c m = act c m := if_pos h

theorem exec_syncEnable {f : Func} {s : State} (v : W64) (h : writable s.m f rTimeCtrl = true) :
    exec (.syncEnable f v) s = onBoth (timeCtrl f.val v.toNat) s := by
  change onBoth (gatedBoth f.val rTimeCtrl (timeCtrl f.val v.toNat)) s = _
  simp only [onBoth, gatedBoth_of_writable _ _ h]

theorem exec_syncDisable {f : Func} {s : State} (v : W64) (h : writable s.m f rTimeCtrl = true) :
    exec (.syncDisable f v) s = onBoth (timeCtrl f.val v.toNat) s := by
  change onBoth (gatedBoth f.val rTimeCtrl (timeCtrl f.val v.toNat)) s = _
  simp only [onBoth, gatedBoth_of_writable _ _ h]

/-! ## TIME_LOAD and TIME_MEASUREMENT -/

theorem exec_timeLoad {f : Func} {s : State} (v : W64) (h : writable s.m f 0x400008 = true) :
    exec (.timeLoad f v) s = .next { s with clk := timeLoad v s.clk s.m } := by
  change onBoth (gatedBoth f.val 0x400008 fun c m => (timeLoad v c m, m)) s = _
  simp only [onBoth, gatedBoth_of_writable _ _ h]

theorem timeLoad_running {c : Clk} (hrun : c.running = true) (v : W64) (m : Mod) : timeLoad v c m =
    if syncEn m ∨ transitPending m then { c with refused := true } else { c with load := some v, loadAcq := false } := by
  rw [timeLoad, if_neg (not_not.2 hrun)]

/-- The TIME_REQ of a measurement, on its way to the upstream partner. -/
def measureReq (m : Mod) (n : W32) : TxPkt where
  pkt := packet m (portPart m (upstream m)) 0x02 0 (port m (upstream m)).partner.toNat 0 0 n.toNat 0 [] []
  deps := []
  task := none
  works := []

theorem measureReq_typ (m : Mod) (n : W32) : (measureReq m n).pkt.typ = 0x02 := rfl

theorem measureReq_arg (m : Mod) (n : W32) : (measureReq m n).pkt.arg = n := by
  simp [measureReq, packet]

/-- A measurement that is due, the last one answered: a TIME_REQ joins the packets of the upstream port (R261). -/
theorem measure_asks {c : Clk} {m : Mod} (hen : syncEn m = true) (hroot : timeRoot m = false) (hrun : c.running = true)
    (hdue : c.lastMeas + 65536 ≤ c.now) (hmeas : c.meas = none) (hup : (port m (upstream m)).st = .up) : measure c m =
    ({ c with measNum := c.measNum + 1, meas := some { num := c.measNum + 1, t1 := c.sid, t2 := none, t4 := 0 }, lastMeas := c.now },
      sendOn m (upstream m) (measureReq m (c.measNum + 1))) := by
  have hdue' : ¬ c.now < c.lastMeas + 65536 := by omega
  simp [measure, measureReq, hen, hroot, hrun, hdue', hmeas, hup]

theorem port_sendOn_same (m : Mod) (p : Nat) (x : TxPkt) : (port (sendOn m p x) p).txq = (port m p).txq ++ [x] := by
  rw [sendOn, port_modPort, if_pos rfl]

theorem exec_timeMeasurement (s : State) : exec .timeMeasurement s = onBoth measure s := rfl

/-! ## The external inputs of the pod time root (R266, R267) -/

/-- An input that has become valid is so since a moment other than 0. -/
theorem sinceGood_ne_zero (since now : Nat) : sinceGood since now ≠ 0 := by
  unfold sinceGood
  split_ifs <;> omega

/-- The end of a HOLDOVER changes nothing but the state. -/
theorem extValid_eq (c : Clk) (m : Mod) : extValid c m = { c with sync := (extValid c m).sync } := by
  unfold extValid
  split_ifs <;> rfl

theorem goodFor16_iff (enabled : Bool) (since now : Nat) :
    goodFor16 enabled since now = true ↔ (enabled = true → since ≠ 0 ∧ since + 16 * second ≤ now) := by
  cases enabled <;> simp [goodFor16]

/-- An edge of an enabled 1PPS input steers towards the nearest whole second; with 16 seconds of every enabled input a
HOLDOVER ends. -/
theorem ppsIn_valid {c : Clk} {m : Mod} (hin : rootWith m 3 = true) (hrun : c.running = true) :
    (ppsIn true c m).steer = stepsFor (toSecond c.sid)
    ∧ (ppsIn true c m).sync = (if c.sync = .holdover ∧ (if c.extGood = 0 then max 1 c.now else c.extGood) + 16 * second ≤ c.now
        ∧ (rootWith m 2 = true → c.refGood ≠ 0 ∧ c.refGood + 16 * second ≤ c.now) then .locked else c.sync) := by
  have hpps : ppsIn true c m = extValid { c with steer := stepsFor (toSecond c.sid), extGood := sinceGood c.extGood c.now, ppsLast := c.now } m := by
    simp [ppsIn, hin, hrun]
  have hgood : goodFor16 (rootWith m 3) (sinceGood c.extGood c.now) c.now = true
      ↔ (if c.extGood = 0 then max 1 c.now else c.extGood) + 16 * second ≤ c.now := by
    rw [goodFor16_iff, hin]
    exact ⟨fun h => (h rfl).2, fun h _ => ⟨sinceGood_ne_zero _ _, h⟩⟩
  rw [hpps]
  refine ⟨by rw [extValid_eq], ?_⟩
  simp only [extValid, hgood, goodFor16_iff]
  split_ifs <;> rfl

/-- A comparison with an enabled 10 MHz input: the first takes the count, each other gives the steps towards 160 ticks a
cycle. -/
theorem ref10m_valid {n : Nat} {c : Clk} {m : Mod} (hin : rootWith m 2 = true) (hrun : c.running = true) :
    (ref10m true n c m).sid = c.sid ∧ (ref10m true n c m).steer = c.steer
    ∧ (c.ref10m = none → (ref10m true n c m).ref10m = some (c.sid, 0) ∧ (ref10m true n c m).steerRef = 0)
    ∧ ∀ base k, c.ref10m = some (base, k) → (ref10m true n c m).ref10m = some (base, k + n)
        ∧ (ref10m true n c m).steerRef = stepsFor (160 * ((k + n : Nat) : Int) - (c.sid - base).toInt) := by
  simp only [ref10m, hin, hrun, not_true_eq_false, or_self, if_false]
  rw [extValid_eq]
  cases href : c.ref10m with
  | none => exact ⟨rfl, rfl, fun _ => ⟨rfl, rfl⟩, nofun⟩
  | some x =>
    refine ⟨rfl, rfl, nofun, ?_⟩
    rintro base k ⟨⟩
    exact ⟨rfl, rfl⟩

/-- An input lost takes LOCKED to HOLDOVER with no steps left, and leaves any other state. -/
theorem extCheck_out {c : Clk} {m : Mod} (h : extOut c m = true) :
    (c.sync = .locked → (extCheck c m).sync = .holdover ∧ (extCheck c m).steer = 0 ∧ (extCheck c m).steerRef = 0)
    ∧ (c.sync ≠ .locked → (extCheck c m).sync = c.sync ∧ (extCheck c m).steer = c.steer) := by
  refine ⟨fun hl => ?_, fun hl => ?_⟩
  · rw [extCheck, if_pos ⟨h, hl⟩]
    exact ⟨rfl, rfl, rfl⟩
  · rw [extCheck, if_neg fun hc => hl hc.2]
    exact ⟨rfl, rfl⟩

/-- What a loss of an input leaves of when the inputs became valid. -/
theorem extCheck_good (c : Clk) (m : Mod) : (extCheck c m).refGood = c.refGood ∧ (extCheck c m).extGood = c.extGood := by
  unfold extCheck
  split_ifs <;> exact ⟨rfl, rfl⟩

/-- An enabled input has not been valid for 2 seconds: input 3 is 1PPS, input 2 the 10 MHz one. -/
def inputOut (c : Clk) (m : Mod) (input : Nat) (last : Nat) : Bool := rootWith m input && decide (last + 2 * second ≤ c.now)

/-- The inputs lost are no longer valid. -/
def dropInputs (c : Clk) (m : Mod) : Clk :=
  let c1 := if inputOut c m 3 c.ppsLast then { c with extGood := 0 } else c
  if inputOut c m 2 c.refLast then { c1 with refGood := 0, ref10m := none } else c1

theorem extOut_eq (c : Clk) (m : Mod) : extOut c m = (inputOut c m 3 c.ppsLast || inputOut c m 2 c.refLast) := rfl

theorem extLoss_out {c : Clk} {m : Mod} (hrun : c.running = true) (h : extOut c m = true) :
    extLoss c m = extCheck (dropInputs c m) m :=
  if_neg (by simp [hrun, h])

theorem dropInputs_same (c : Clk) (m : Mod) : (dropInputs c m).sync = c.sync ∧ (dropInputs c m).steer = c.steer
    ∧ extOut (dropInputs c m) m = extOut c m := by
  simp only [dropInputs]
  split_ifs <;> exact ⟨rfl, rfl, rfl⟩

theorem extOut_of_pps {c : Clk} {m : Mod} (h : inputOut c m 3 c.ppsLast = true) : extOut c m = true := by
  rw [extOut_eq, h, Bool.true_or]

theorem extOut_of_ref {c : Clk} {m : Mod} (h : inputOut c m 2 c.refLast = true) : extOut c m = true := by
  rw [extOut_eq, h, Bool.or_true]

/-- The 1PPS input lost is no longer valid. -/
theorem extLoss_pps {c : Clk} {m : Mod} (hrun : c.running = true) (h : inputOut c m 3 c.ppsLast = true) : (extLoss c m).extGood = 0 := by
  obtain ⟨-, hext⟩ := extCheck_good (dropInputs c m) m
  rw [extLoss_out hrun (extOut_of_pps h), hext]
  simp only [dropInputs, h, if_true]
  split_ifs <;> rfl

/-- The 10 MHz input lost is no longer valid. -/
theorem extLoss_ref {c : Clk} {m : Mod} (hrun : c.running = true) (h : inputOut c m 2 c.refLast = true) : (extLoss c m).refGood = 0 := by
  obtain ⟨href, -⟩ := extCheck_good (dropInputs c m) m
  rw [extLoss_out hrun (extOut_of_ref h), href]
  simp only [dropInputs, h, if_true]

/-- EXTERNAL_INPUT_LOSS with an input lost. -/
theorem extLoss_sync {c : Clk} {m : Mod} (hrun : c.running = true) (h : extOut c m = true) :
    (c.sync = .locked → (extLoss c m).sync = .holdover ∧ (extLoss c m).steer = 0 ∧ (extLoss c m).steerRef = 0)
    ∧ (c.sync ≠ .locked → (extLoss c m).sync = c.sync ∧ (extLoss c m).steer = c.steer) := by
  obtain ⟨hsync, hsteer, hout⟩ := dropInputs_same c m
  rw [extLoss_out hrun h, ← hsync, ← hsteer]
  exact extCheck_out (hout.trans h)

theorem exec_ppsInEdge (valid : Bool) (s : State) : exec (.ppsInEdge valid) s = .next { s with clk := ppsIn valid s.clk s.m } := rfl

theorem exec_ref10mCompare (valid : Bool) (n : Nat) (s : State) :
    exec (.ref10mCompare valid n) s = .next { s with clk := ref10m valid n s.clk s.m } := rfl

theorem exec_externalInputLoss (s : State) : exec .externalInputLoss s = .next { s with clk := extLoss s.clk s.m } := rfl

/-! ## PPS_OUT_EDGE and a read of TIME_NOW (R268, R618) -/

theorem exec_ppsOutEdge_due {s : State} (hrun : s.clk.running = true) (hwhole : s.clk.sid.toNat % second = 0)
    (hsent : s.clk.ppsSent = false) :
    exec .ppsOutEdge s = .next { s with clk := { s.clk with ppsSent := true }, m := emit (.ppsEdge s.clk.sid) s.m } := by
  change onBoth ppsOut s = _
  simp [onBoth, ppsOut, hrun, hwhole, hsent]

/-- The low half of TIME_NOW for PF0; the high half is latched for it. -/
theorem barRead_timeNow {t : Clk} {m : Mod} (hup : hnUp m = true) (hbusy : hnBusy m = false) :
    (barRead t 0 0x400000 4 m).out
      = m.out ++ [.regRead 0 (BitVec.ofNat 64 ((readReg t m 0 0x400000).toNat % 2 ^ 32))]
    ∧ sget none (barRead t 0 0x400000 4 m).hub.nowHigh 0 = some (BitVec.ofNat 32 ((readReg t m 0 0x400000).toNat / 2 ^ 32)) := by
  have hlive : vfLive m 0 = true := rfl
  have hserves : barServes 0x400000 4 = true := by decide
  constructor
  all_goals simp [barRead, hup, hbusy, hlive, hserves, emit, modHub]

theorem exec_timeNowLowRead (f : Func) (s : State) :
    exec (.timeNowLowRead f) s = .next { s with m := barRead s.clk f.val 0x400000 4 s.m } := rfl

end Sys2Proof.Machine

namespace Sys2Proof
open Machine

/-- Settles O45: `steerStep` by the direction of the step, none where none is left or the last is young, and the edge adds. -/
theorem steeringRate : Obligations.SteeringRate := by
  unfold Obligations.SteeringRate
  refine ⟨?steps, ?early, ?edge⟩
  case steps =>
    intro s hrun hload hold c
    rw [exec_steeringStep]
    refine ⟨fun h => ?_, fun h => ?_, fun h href => ?_, fun h href => ?_, fun h href => ?_⟩
    · rw [steerStep_forward hrun hload hold h]
    · rw [steerStep_back hrun hload hold h]
    · rw [steerStep_forwardRef hrun hload hold h href]
    · rw [steerStep_backRef hrun hload hold h href]
    · rw [steerStep_none h href]
  case early =>
    intro s n hn h
    rw [exec_steeringStep, steerStep_early hn h]
  case edge =>
    intro s hidle hrun hload
    have hclk : (tick s).clk = edge s.clk := congrArg edge (settleLoad_none s.m hload)
    obtain ⟨hsid, -, hincr⟩ := edge_count hrun hload
    exact ⟨tick s, step_idle hidle, by rw [hclk, hsid], by rw [hclk, hincr]⟩

/-- Settles O46: each command by the function of the time base that its row runs. -/
theorem timeCommands : Obligations.TimeCommands := by
  unfold Obligations.TimeCommands
  intro s
  refine ⟨?load, ?sync, ?measure, ?pps, ?ref, ?loss, ?ppsOut, ?now⟩
  case load =>
    intro f v hw hrun
    rw [exec_timeLoad v hw, timeLoad_running hrun]
  case sync =>
    intro f v hw
    refine ⟨fun hv hen => ?_, fun hv hen => ?_⟩
    · rw [exec_syncEnable v hw, onBoth, timeCtrl_starts hv hen]
      exact ⟨_, rfl, regB_setBit_same _ _ (by decide) true, rfl, rfl⟩
    · rw [exec_syncDisable v hw, onBoth, timeCtrl_stops hv hen]
      exact ⟨_, rfl, regB_setBit_same _ _ (by decide) false, rfl, rfl⟩
  case measure =>
    intro hen hroot hrun hdue hmeas hup
    rw [exec_timeMeasurement, onBoth, measure_asks hen hroot hrun hdue hmeas hup]
    exact ⟨_, rfl, rfl, rfl, _, port_sendOn_same .., measureReq_typ .., measureReq_arg ..⟩
  case pps =>
    intro hin hrun
    obtain ⟨hsteer, hsync⟩ := ppsIn_valid hin hrun
    exact ⟨_, exec_ppsInEdge true s, rfl, hsteer, hsync⟩
  case ref =>
    intro n hin hrun
    exact ⟨_, exec_ref10mCompare true n s, rfl, ref10m_valid hin hrun⟩
  case loss =>
    intro row hrow hin hrun hold
    have hlost : inputOut s.clk s.m row.1 row.2 = true := by simp [inputOut, hin, hold]
    simp only [List.mem_cons, List.not_mem_nil, or_false] at hrow
    refine ⟨_, exec_externalInputLoss s, rfl, ?_⟩
    obtain rfl | rfl := hrow
    · exact ⟨fun _ => extLoss_ref hrun hlost, nofun, extLoss_sync hrun (extOut_of_ref hlost)⟩
    · exact ⟨nofun, fun _ => extLoss_pps hrun hlost, extLoss_sync hrun (extOut_of_pps hlost)⟩
  case ppsOut => exact exec_ppsOutEdge_due
  case now =>
    intro hup hbusy
    exact ⟨_, exec_timeNowLowRead 0 s, rfl, barRead_timeNow hup hbusy⟩

end Sys2Proof
end

/-! # One coincidence edge (R245, R247, R249, R590, R649)

What an edge leaves of the module where nothing of `quietEdge` can happen: the counters of cycles, and the coolant. -/

section
namespace Sys2Proof.Machine

/-! ## Tables of engines -/

theorem mem_of_mem_sput {α : Type} {t : Sparse α} {x : Nat} {v : α} {p : Nat × α} (h : p ∈ sput t x v) : p = (x, v) ∨ p ∈ t := by
  induction t with
  | nil => exact .inl (List.mem_singleton.1 h)
  | cons e r ih =>
    simp only [sput] at h
    split_ifs at h
    · exact List.mem_cons.1 h
    · exact (List.mem_cons.1 h).imp id (List.mem_cons_of_mem _)
    · obtain rfl | hr := List.mem_cons.1 h
      · exact .inr List.mem_cons_self
      · exact (ih hr).imp id (List.mem_cons_of_mem _)

/-- What a table holds after a write is what was written or what it held. -/
theorem mem_of_mem_sset {α : Type} [DecidableEq α] {d : α} {t : Sparse α} {x : Nat} {v : α} {p : Nat × α} (h : p ∈ sset d t x v) :
    p = (x, v) ∨ p ∈ t := by
  unfold sset at h
  split_ifs at h
  · exact .inr (List.mem_filter.1 h).1
  · exact mem_of_mem_sput h

/-- What holds of every entry of a table, and of its default, holds of what it reads. -/
theorem sget_of_forall {α : Type} {P : α → Prop} {d : α} {t : Sparse α} (hd : P d) (ht : ∀ p ∈ t, P p.2) (x : Nat) : P (sget d t x) := by
  induction t with
  | nil => exact hd
  | cons e r ih =>
    rw [sget]
    split_ifs
    · exact ht _ List.mem_cons_self
    · exact ih fun p hp => ht p (List.mem_cons_of_mem _ hp)

/-! ## The counters of cycles (R590) -/

/-- No engine has opened a trace. -/
def NoTimebase (m : Mod) : Prop := ∀ e ∈ m.eng, e.2.timebase = none

/-- Only the engines change, and none of them opens a trace. -/
structure CyclesOnly (m u : Mod) : Prop where
  rest : u = { m with eng := u.eng }
  timebase : NoTimebase m → NoTimebase u

theorem CyclesOnly.refl (m : Mod) : CyclesOnly m m := ⟨rfl, id⟩

theorem CyclesOnly.trans {a b c : Mod} (h : CyclesOnly a b) (k : CyclesOnly b c) : CyclesOnly a c :=
  ⟨k.rest.trans (by rw [h.rest]), k.timebase ∘ h.timebase⟩

theorem cyclesOnly_modEngine (m : Mod) (g : Nat) {f : Engine → Engine} (hf : ∀ e, (f e).timebase = e.timebase) :
    CyclesOnly m (modEngine m g f) := by
  refine ⟨rfl, fun h e he => ?_⟩
  obtain rfl | hold := mem_of_mem_sset he
  · exact (hf _).trans (sget_of_forall (P := fun e : Engine => e.timebase = none) rfl h g)
  · exact h e hold

theorem cyclesOnly_countCycles (t : Clk) (m : Mod) : CyclesOnly m (countCycles t m) := by
  refine List.foldlRecOn (motive := CyclesOnly m) _ _ (.refl m) fun u hu r _ => hu.trans ?_
  split
  · split_ifs
    · exact cyclesOnly_modEngine u _ fun _ => rfl
    · exact .refl u
  · exact .refl u

theorem countCycles_none {t : Clk} {m : Mod} (h : ∀ r ∈ m.bar0, selOf r.1 = none) : countCycles t m = m :=
  List.foldlRecOn (motive := fun u => u = m) _ _ rfl fun u hu r hr => by rw [h r hr]; exact hu

/-- Where one counter selects an event, it counts the 3 array cycles under it. -/
theorem countCycles_one {t : Clk} {m : Mod} {off : Nat} {v : W64} {g c : Nat} (hbar : m.bar0 = [(off, v)]) (hsel : selOf off = some (g, c)) :
    sget {} (engine (countCycles t m) g).ecnt c = if cycleCounts t m g (bits v.toNat 0 5) then ecntAdd (sget {} (engine m g).ecnt c) 3
      else sget {} (engine m g).ecnt c := by
  simp only [countCycles, hbar, List.foldl_cons, List.foldl_nil, hsel]
  split_ifs
  · rw [engine_modEngine, if_pos rfl, sget_smod_same]
  · rfl

/-! ## The rest of an edge -/

theorem bootEnd_idle {t : Clk} {m : Mod} (h : (m.hub.booted || !m.hub.input) = true) : bootEnd t m = m := by
  refine if_neg fun ⟨hin, hboot, _⟩ => ?_
  simp [hin, hboot] at h

theorem coreSteps_none {t : Clk} {m : Mod} (h : m.coreBreaks = []) : coreSteps t m = m := by
  rw [coreSteps, h, List.foldl_nil]

theorem storms_idle {t : Clk} {m : Mod} (h : t.now % second ≠ 0 ∨ m.logs = []) : storms t m = m := by
  unfold storms
  split_ifs with hnow
  · rfl
  · rw [h.resolve_left hnow]
    rfl

theorem counterRecords_none {t : Clk} {m : Mod} (h : ∀ r ∈ m.bar0, ctrlOf r.1 = none) : counterRecords t m = m :=
  List.foldlRecOn (motive := fun u => u = m) _ _ rfl fun u hu r hr => by rw [h r hr]; exact hu

theorem timebases_none {t : Clk} {m : Mod} (h : NoTimebase m) : timebases t m = m :=
  List.foldlRecOn (motive := fun u => u = m) _ _ rfl fun u hu e he => by simp [h e he, hu]

theorem grantAborts_none {t : Clk} {m : Mod} (h : ∀ a ∈ m.cmds, awaitedAbort m a = none) : grantAborts t m = m := by
  rw [grantAborts, List.filterMap_eq_nil_iff.2 h]

/-- At a quiet edge the counters of cycles count, and the coolant is measured. -/
theorem tick_quiet {s : State} (h : quietEdge s = true) :
    (tick s).m = measureCoolant (edge (settleLoad s.m s.clk)).now (countCycles s.clk s.m) := by
  simp only [quietEdge, Bool.and_eq_true, List.all_eq_true, List.isEmpty_iff, Option.isNone_iff_eq_none, Bool.or_eq_true (_ != _), bne_iff_ne] at h
  obtain ⟨⟨⟨⟨⟨hboot, hbreaks⟩, hsecond⟩, htime⟩, haborts⟩, hctrl⟩ := h
  have hcount := cyclesOnly_countCycles s.clk s.m
  have hrest := hcount.rest
  generalize hu : countCycles s.clk s.m = u at hcount hrest
  have hstorms : storms s.clk u = u := storms_idle (by rw [hrest]; exact hsecond)
  have hrecords : counterRecords s.clk u = u := counterRecords_none (by rw [hrest]; exact hctrl)
  have hcores : coreSteps s.clk u = u := coreSteps_none (by rw [hrest]; exact hbreaks)
  have hgrants : grantAborts s.clk u = u := grantAborts_none (by rw [hrest]; exact haborts)
  simp only [tick]
  rw [bootEnd_idle hboot, hu, hstorms, hrecords, hcores, hgrants, timebases_none (hcount.timebase htime)]

theorem measureCoolant_early {now : Nat} {m : Mod} (h : now < m.coolAt + 1600000000) : measureCoolant now m = m := if_pos h

/-- Every second the coolant is measured and reported (R649). -/
theorem measureCoolant_due {now : Nat} {m : Mod} (h : m.coolAt + 1600000000 ≤ now) :
    ((measureCoolant now m).coolIn, (measureCoolant now m).coolOut) = Config.coolant m.draw ∧ (measureCoolant now m).coolAt = now
    ∧ (measureCoolant now m).out = m.out ++ [.sensors (measureCoolant now m).coolIn (measureCoolant now m).coolOut] := by
  rw [measureCoolant, if_neg (Nat.not_lt.2 h)]
  exact ⟨rfl, rfl, rfl⟩

theorem engine_measureCoolant (now : Nat) (m : Mod) (g : Nat) : engine (measureCoolant now m) g = engine m g := by
  unfold measureCoolant
  split_ifs <;> rfl

/-! ## The count -/

theorem now_edge_settleLoad (m : Mod) (c : Clk) : (edge (settleLoad m c)).now = c.now + 2 := by
  have hnow : (settleLoad m c).now = c.now := by
    unfold settleLoad
    split_ifs <;> rfl
  have hedge : ∀ x : Clk, (edge x).now = x.now + 2 := by
    intro x
    unfold edge
    split_ifs
    · split <;> rfl
    · rfl
  rw [hedge, hnow]

/-- A load that no Transit waits for, and, for a TIME_LOAD, no SYNC_EN, comes to its edge. -/
theorem settleLoad_kept {m : Mod} {c : Clk} (ht : transitPending m = false) (hs : c.loadAcq = true ∨ syncEn m = false) : settleLoad m c = c := by
  obtain hacq | hen := hs
  · simp [settleLoad, ht, hacq]
  · simp [settleLoad, ht, hen]

/-- Any other load is dropped. -/
theorem settleLoad_dropped {m : Mod} {c : Clk} (h : c.load = none ∨ transitPending m = true ∨ (c.loadAcq = false ∧ syncEn m = true)) :
    (settleLoad m c).load = none := by
  cases hload : c.load with
  | none => rw [settleLoad_none m hload, hload]
  | some v =>
    obtain h | h | ⟨hacq, hen⟩ := h
    · exact absurd (hload.symm.trans h) (by simp)
    · simp only [settleLoad, hload, Option.isNone_some, Bool.false_eq_true, if_false, h, or_true, if_true]
      split_ifs <;> rfl
    · simp [settleLoad, hload, hacq, hen]

end Sys2Proof.Machine

namespace Sys2Proof
open Machine

/-- Settles O2: the count by what `settleLoad` leaves of the load, the module at a quiet edge by `tick_quiet`. -/
theorem idleStepIsOneEdge : Obligations.IdleStepIsOneEdge := by
  unfold Obligations.IdleStepIsOneEdge
  intro s hidle
  obtain ⟨hrunning, hsid, hincr⟩ := settleLoad_count s.m s.clk
  have hnow : (tick s).clk.now = s.clk.now + 2 := now_edge_settleLoad s.m s.clk
  refine ⟨tick s, step_idle hidle, hidle, hnow, ?stopped, ?loads, ?counts, ?still, ?coolant, ?cycles⟩
  case stopped =>
    intro hrun
    change (edge (settleLoad s.m s.clk)).sid = s.clk.sid
    rw [edge_stopped (hrunning.trans hrun), hsid]
  case loads =>
    intro hrun v hload ht hs
    change (edge (settleLoad s.m s.clk)).sid = _ ∧ (edge (settleLoad s.m s.clk)).load = _ ∧ (edge (settleLoad s.m s.clk)).incr = _
    rw [settleLoad_kept ht hs]
    exact edge_load hrun hload
  case counts =>
    intro hrun hnone
    rw [← hsid, ← hincr]
    exact edge_count (hrunning.trans hrun) (settleLoad_dropped hnone)
  case still =>
    intro hquiet hsel hcool
    rw [tick_quiet hquiet, countCycles_none hsel, now_edge_settleLoad, measureCoolant_early hcool]
  case coolant =>
    intro hquiet hcool
    have hrest := (cyclesOnly_countCycles s.clk s.m).rest
    rw [tick_quiet hquiet, now_edge_settleLoad, hrest]
    exact measureCoolant_due hcool
  case cycles =>
    intro hquiet off v g c hbar hsel
    rw [tick_quiet hquiet, engine_measureCoolant, countCycles_one hbar hsel]

end Sys2Proof
end

/-! # A word with T = 1 whose Transit has been dispatched already (R133, R251)

`launched` says that the Transit at the head of a context has had its dispatch, so that its instruction is not accepted
again. The model sets it for an HQ.POP alone, and nothing in the clauses of `Obligations.Transits` excludes it. -/

section
namespace Sys2Proof.Machine

theorem settled_eq_of_onEng {f : Clk → Mod → Mod} {s : State} {v : Mod} (h : onEng f s = .next { s with m := v }) :
    settle s.clk (f s.clk s.m) = v := by
  rw [onEng, onMod] at h
  exact (State.mk.inj (Host.Outcome.next.inj h)).2.2

theorem exec_nop (e : Eng) (c : CtxId) (w : LviWord) (s : State) :
    exec (.nop e c w) s = onEng (attempt nopForm 0x00 none e.val c.val w) s := rfl

/-- A NOP that settles at a place has come to it by its attempt: settling moves no context. -/
theorem pc_of_settles_nop {e : Eng} {c : CtxId} {w : LviWord} {s : State} {P : Mod → Prop} {pc : Nat}
    (h : Settles s (exec (.nop e c w) s) P) (hP : ∀ u, P u → (ctx u e c).pc = pc) :
    (ctx (attempt nopForm 0x00 none e c w s.clk s.m) e c).pc = pc := by
  obtain ⟨u, hu, hp⟩ := h
  rw [exec_nop] at hu
  have hattempt := und_pc (Still.settle s.clk (attempt nopForm 0x00 none e c w s.clk s.m)) e c
  have hsettled := und_pc (Still.settle s.clk u) e c
  rw [← hattempt, settled_eq_of_onEng hu, hsettled, hP u hp]

/-- A NOP with T = 1. -/
def transitNop : LviWord := BitVec.ofNat 128 (2 ^ 73)

/-- Task 0 of engine 0 at a NOP with T = 1, its launch at 100 and its dispatch recorded, another NOP behind it. -/
def launchedState : State :=
  { State.reset with
    clk := { clkReset with running := true }
    m := { modReset with
      pwr := { pwrReset with state := .ms0 }
      eng := [(0, { ctx := [(0, { st := .ready, stream := [transitNop, 0], lt := 100, launched := true })] })] } }

theorem headReady_launchedState : headReady launchedState 0 0 0x00 none transitNop := by
  unfold headReady noBreak
  decide

/-- The instruction issues and its context moves on. -/
theorem pc_launchedState : (ctx (attempt nopForm 0x00 none 0 0 transitNop launchedState.clk launchedState.m) 0 0).pc = 1 := by
  decide

end Sys2Proof.Machine

namespace Sys2Proof
open Machine

/-- Refutes O29: its first clause takes contexts with `launched` set too, whose NOP with T = 1 issues and moves on instead of
being accepted where it stands. Only `sendPop` sets it, for an HQ.POP; the clause does not say so. -/
theorem not_transits : ¬ Obligations.Transits := by
  unfold Obligations.Transits
  rintro ⟨haccept, -⟩
  obtain ⟨haccepted, -⟩ := haccept (Instr.nop, 0x00) List.mem_cons_self 0 0 transitNop launchedState headReady_launchedState (by decide)
  have hstays := pc_of_settles_nop (haccepted (by decide)) fun _ hu => hu.2
  exact absurd (pc_launchedState.symm.trans hstays) (by decide)

end Sys2Proof
end

/-! # Operations on sync objects (R279, R280, R282, R285, R652)

What SYNC.ARM, SYNC.CLEAR and SYNC.SIGNAL put on its way to a sync file, and what an operation that arrives alone makes of its
object. -/

section
namespace Sys2Proof.Machine

/-! ## An operation on its way -/

/-- An operation of a source is on its way to an object. -/
def opSent (m : Mod) (d src obj : Nat) (k : SyncKind) : Prop := ∃ o ∈ syncQueue m d, o.src = src ∧ o.obj = obj ∧ o.kind = k

theorem opSent_pushSync (m : Mod) (d src obj : Nat) (k : SyncKind) (deps : List Nat) (b : Issuer) :
    opSent (pushSync m d src obj k deps b) d src obj k := by
  have hqueue := syncQueue_pushSync m d src obj k deps b d
  rw [if_pos rfl] at hqueue
  exact ⟨_, hqueue ▸ List.mem_append_right _ (List.mem_singleton.2 rfl), rfl, rfl, rfl⟩

section
variable {m : Mod} {e src obj : Nat} {k : SyncKind} (h : opSent m e src obj k)
include h

/-- A later operation takes none away. -/
theorem opSent.pushSync (d src' obj' : Nat) (k' : SyncKind) (deps : List Nat) (b : Issuer) :
    opSent (pushSync m d src' obj' k' deps b) e src obj k := by
  obtain ⟨o, ho, hop⟩ := h
  refine ⟨o, ?_, hop⟩
  rw [syncQueue_pushSync]
  split_ifs with hd
  · exact List.mem_append_left _ (hd ▸ ho)
  · exact ho

theorem opSent.putSignal (task : Nat) (w : LviWord) (count : Nat) (own : Option Nat) :
    opSent (putSignal m task w count own) e src obj k := by
  unfold Machine.putSignal slotSignal
  split
  · exact h
  · exact h.pushSync ..
  · exact h.pushSync ..
  · simp only
    split
    · exact h
    · split
      · exact h
      · split_ifs <;> exact h.pushSync ..

end

/-! ## The signal of an instruction (R285, R286) -/

section
variable {w : LviWord} (m : Mod) (task count : Nat)

theorem opSent_putSignal_flag (h : wSmode w = 1) : opSent (putSignal m task w count none) (task / 4 / 16) task (wS w) (.sig 1) := by
  simp only [putSignal, h]
  exact opSent_pushSync ..

theorem opSent_putSignal_count (h : wSmode w = 2) :
    opSent (putSignal m task w count none) (task / 4 / 16) task (wS w) (.sig (BitVec.ofNat 32 count)) := by
  simp only [putSignal, h]
  exact opSent_pushSync ..

/-- A signal through a slot goes to the object that the slot names, by the sync file of its die or by the port to its module. -/
theorem opSent_putSignal_slot {p : Program} {sl : RSlot} (h : wSmode w = 3)
    (hprog : (partSt m (ctx m (task / 4) (task % 4)).part).prog = some p) (hslot : p.slots[wS w]? = some sl) :
    opSent (putSignal m task w count none) (if sl.pod.toNat / 2 ^ 18 = moduleNum m then sl.pod.toNat / 2 ^ 14 % 16 else remoteQ)
      (8192 + task) (if sl.pod.toNat / 2 ^ 18 = moduleNum m then sl.pod.toNat % 2 ^ 14 else sl.pod.toNat) (.sig (BitVec.ofNat 32 sl.count)) := by
  simp only [putSignal, h, slotSignal, hprog, hslot]
  split_ifs <;> exact opSent_pushSync ..

end

/-! ## SYNC.ARM, SYNC.CLEAR and SYNC.SIGNAL issue (R280) -/

theorem taskId_div (g : Nat) (c : CtxId) : taskId g c / 4 = g := by unfold taskId; omega

theorem taskId_mod (g : Nat) (c : CtxId) : taskId g c % 4 = c := by unfold taskId; omega

section
variable {m u : Mod} {g c : Nat} (h : Undisturbed m u)
include h

/-- The end of an instruction moves its context on. -/
theorem moved_advance (t : Clk) : Moved m (advance t g c u) g c id ((ctx m g c).pc + 1) := by
  rw [advance, und_pc h]
  exact und_moved sees_id h (advanceTo_moved ..)

theorem moved_done (t : Clk) (w : LviWord) : Moved m (done t g c w u) g c id ((ctx m g c).pc + 1) :=
  moved_advance (Still.trans h (Still.putSignal ..)) t

theorem undisturbed_putSyncOp (obj : Nat) (k : SyncKind) : Undisturbed m (putSyncOp u g c obj k) := Still.trans h (Still.pushSync ..)

variable (hn : hasNext m g c)
include hn

/-- It takes back no operation on its way, where it raises no fault. -/
theorem opSent_advance {d src obj : Nat} {k : SyncKind} (hsent : opSent u d src obj k) (t : Clk) :
    opSent (advance t g c u) d src obj k := by
  rw [advance_of_next (h.2.2 g c) hn]
  exact hsent

/-- An ARM or a CLEAR is on its way to its object once its instruction is done. -/
theorem opSent_syncDone (t : Clk) (w : LviWord) (obj : Nat) (k : SyncKind) :
    opSent (done t g c w (putSyncOp u g c obj k)) (g / 16) (taskId g c) obj k :=
  opSent_advance (Still.trans (undisturbed_putSyncOp h obj k) (Still.putSignal ..)) hn ((opSent_pushSync ..).putSignal ..) t

end

theorem armTarget_of_undisturbed {m u : Mod} (h : Undisturbed m u) (g c : Nat) (w : LviWord) :
    armTarget u g c w = if wExt w ≥ 2 then counter (ctx m g c) (wf w 46 4) else imm w := by
  rw [armTarget, cnt, counter_of_stillCtx (h.2.2 g c)]

/-- The count of a SYNC.SIGNAL: a counter of its context or its immediate. -/
theorem signalCount_of_undisturbed {m u : Mod} (h : Undisturbed m u) (g c : Nat) (w : LviWord) :
    BitVec.ofNat 32 (signalCount u g c w) = if wExt w = 1 then counter (ctx m g c) (wf w 46 4) else imm w := by
  rw [signalCount, cnt, counter_of_stillCtx (h.2.2 g c)]
  split_ifs <;> exact BitVec.ofNat_toNat ..

theorem moduleNum_of_undisturbed {m u : Mod} (h : Undisturbed m u) : moduleNum u = moduleNum m := by
  have hbar : u.bar0 = m.bar0 := congrArg (·.bar0) h.1
  simp only [moduleNum, regF, regN, reg, hbar]

theorem exec_syncArm (e : Eng) (c : CtxId) (w : LviWord) (s : State) :
    exec (.syncArm e c w) s = onEng (attempt { eff := syncArmForm.eff } 0xE0 none e.val c.val w) s := rfl

theorem exec_syncClear (e : Eng) (c : CtxId) (w : LviWord) (s : State) :
    exec (.syncClear e c w) s = onEng (attempt { eff := syncClearForm.eff } 0xE1 none e.val c.val w) s := rfl

theorem exec_syncSignal (e : Eng) (c : CtxId) (w : LviWord) (s : State) :
    exec (.syncSignal e c w) s = onEng (attempt { eff := syncSignalForm.eff } 0xE2 none e.val c.val w) s := rfl

/-! ## An operation that arrives alone (R282) -/

/-- The operation has left its queue. -/
def opTaken (d : Nat) (o : SyncOp) (m : Mod) : Mod := setSyncQueue m d ((syncQueue m d).filter fun x => !(o.id == x.id))

theorem syncArrive_alone {m : Mod} {d src : Nat} {o : SyncOp} (h : firstReady m d (syncQueue m d) src = some o) (t : Clk) :
    syncArrive d [src] t m = applySync t d o (opTaken d o m) := by
  cases hsig : isSig o <;> simp [syncArrive, h, hsig, opTaken]

theorem placePowered_sync (m : Mod) (d n : Nat) : placePowered m (.sync d n) = decide (dieState m d ≤ 1) := rfl

/-- A task's signal is traced. -/
def signalTraced (t : Clk) (o : SyncOp) (m : Mod) : Mod :=
  match srcTask o.src with
  | some tk => trace t (tk / 4) tk 0x09 (o.obj + 16384) (some 6) m
  | none => m

section
variable {t : Clk} {d : Nat} {o : SyncOp} {m : Mod} (hpow : dieState m d ≤ 1) (hbad : (syncObj m d o.obj).bad = none)
include hpow hbad

theorem applySync_arm {target : W32} {reset : Bool} (hk : o.kind = .arm target reset) :
    applySync t d o m = modSync m d o.obj fun x => armObj x target reset := by
  simp [applySync, placePowered_sync, hpow, hbad, hk]

theorem applySync_clear (hk : o.kind = .clear) : applySync t d o m = modSync m d o.obj fun x => { x with value := 0 } := by
  simp [applySync, placePowered_sync, hpow, hbad, hk]

/-- A signal that comes through no slot acts on its object, and a task's is traced. -/
theorem applySync_sig {n : W32} (hk : o.kind = .sig n) (hsrc : o.src < 8192) :
    applySync t d o m = signalTraced t o (applySignal t d o.obj n.toNat m) := by
  simp only [applySync, placePowered_sync, hpow, decide_true, not_true, if_false, hbad, hk]
  exact if_neg fun hslot => Nat.not_le.2 hsrc hslot.1

end

section
variable (t : Clk) (o : SyncOp) (m : Mod)

theorem signalTraced_outside {α : Type} (f : Mod → α) (hf : ∀ t g task kind arg cls m, f (trace t g task kind arg cls m) = f m) :
    f (signalTraced t o m) = f m := by
  unfold signalTraced
  split
  · exact hf ..
  · rfl

@[simp] theorem sync_signalTraced : (signalTraced t o m).sync = m.sync :=
  signalTraced_outside t o m (·.sync) fun _ _ _ _ _ _ _ => trace_outside (·.sync) (fun _ _ _ => rfl) ..

@[simp] theorem flog_signalTraced (l : Nat) : flog (signalTraced t o m) l = flog m l :=
  signalTraced_outside t o m (flog · l) fun _ _ _ _ _ _ _ => flog_trace ..

@[simp] theorem ctx_signalTraced (g c : Nat) : ctx (signalTraced t o m) g c = ctx m g c :=
  signalTraced_outside t o m (ctx · g c) fun _ _ _ _ _ _ _ => ctx_trace ..

end

/-! ## A signal at its object (R279) -/

section
variable (t : Clk) (d i n : Nat) (m : Mod)

/-- A signal changes its object alone; a counter that it takes past its top is logged at the sync file. -/
theorem sync_applySignal : (applySignal t d i n m).sync = (modSync m d i fun o => signalObj o n).sync := by
  unfold applySignal
  simp only
  split_ifs <;> rfl

theorem syncObj_applySignal : syncObj (applySignal t d i n m) d i = signalObj (syncObj m d i) n := by
  rw [syncObj, sync_applySignal, ← syncObj, syncObj_modSync]

theorem sget_sync_applySignal {j : Nat} (h : j ≠ syncKey d i) : sget {} (applySignal t d i n m).sync j = sget {} m.sync j := by
  rw [sync_applySignal, modSync, sget_smod, if_neg h]

end

/-- The SYNC_SAT entry of a counter past its top. -/
theorem flog_applySignal {t : Clk} {d i n : Nat} {m : Mod} (hc : (syncObj m d i).counter = true)
    (htop : 0xFFFFFFFF < (syncObj m d i).value.toNat + n) :
    let l := flog (applySignal t d i n m) (logCD d)
    l.last.typ = fSyncSat ∧ l.last.addr = BitVec.ofNat 64 (podAddr m d i) ∧ l.count = min 0xFFFFFFFF ((flog m (logCD d)).count + 1) := by
  simp only [applySignal, hc, htop, decide_true, Bool.and_self, if_true, flog_logFault]
  exact ⟨rfl, rfl, rfl⟩

section
variable {x : SyncObj} (n : Nat)

theorem signalObj_flag (h : x.counter = false) : signalObj x n = if n = 0 then x else { x with value := 1 } := by simp [signalObj, h]

theorem signalObj_counter (h : x.counter = true) :
    signalObj x n = { x with value := BitVec.ofNat 32 (min 0xFFFFFFFF (x.value.toNat + n)) } := by simp [signalObj, h]

theorem target_signalObj (x : SyncObj) : (signalObj x n).target = x.target := by
  unfold signalObj
  split_ifs <;> rfl

end

theorem exec_syncOpArrival (d : Die) (srcs : List Nat) (s : State) : exec (.syncOpArrival d srcs) s = onEng (syncArrive d.val srcs) s := rfl

end Sys2Proof.Machine

namespace Sys2Proof
open Machine

/-- Settles O8: `opSent` follows the operation from its issue to its queue, `syncArrive_alone` takes it from there to its object. -/
theorem syncOpsSent : Obligations.SyncOpsSent := by
  unfold Obligations.SyncOpsSent
  refine ⟨fun e c w s hT hnext => ⟨?arm, ?clear, ?signal⟩, fun d src o s hfirst hpow hbad => ⟨?armed, ?cleared⟩⟩
  case arm =>
    intro hhead
    obtain ⟨u, hund, -, hattempt⟩ := attempt_plain_parts (eff := syncArmForm.eff) hhead hT
    have heff : syncArmForm.eff s.clk e c w 0 u
      = done s.clk e c w (putSyncOp u e c (wf w 50 14) (.arm (armTarget u e c w) (wExt w % 2 == 1))) := rfl
    rw [exec_syncArm]
    refine settles_onEng ?_
    rw [hattempt, heff, armTarget_of_undisturbed hund]
    exact ⟨moved_done (undisturbed_putSyncOp hund ..) .., opSent_syncDone hund hnext ..⟩
  case clear =>
    intro hhead
    obtain ⟨u, hund, -, hattempt⟩ := attempt_plain_parts (eff := syncClearForm.eff) hhead hT
    have heff : syncClearForm.eff s.clk e c w 0 u = done s.clk e c w (putSyncOp u e c (wf w 50 14) .clear) := rfl
    rw [exec_syncClear]
    refine settles_onEng ?_
    rw [hattempt, heff]
    exact ⟨moved_done (undisturbed_putSyncOp hund ..) .., opSent_syncDone hund hnext ..⟩
  case signal =>
    intro hhead
    obtain ⟨u, hund, hparts, hattempt⟩ := attempt_plain_parts (eff := syncSignalForm.eff) hhead hT
    have heff : syncSignalForm.eff s.clk e c w 0 u
      = advance s.clk e c (putSignal u (taskId e c) w (signalCount u e c w) none) := rfl
    have hsignal := Still.trans hund (Still.putSignal u (taskId e c) w (signalCount u e c w) none)
    have hctx : ctx u (taskId e c / 4) (taskId e c % 4) = ctx u e c := by rw [taskId_div, taskId_mod]
    have hpart : (ctx u e c).part = (ctx s.m e c).part := congrArg (·.part) (hund.2.2 e c)
    rw [exec_syncSignal]
    refine settles_onEng ?_
    rw [hattempt, heff]
    refine ⟨moved_advance hsignal _, fun hmode => ?_, fun hmode => ?_, fun hmode p sl hprog hslot => ?_⟩
    · have hsent := opSent_putSignal_flag u (taskId e c) (signalCount u e c w) hmode
      rw [taskId_div] at hsent
      exact opSent_advance hsignal hnext hsent _
    · have hsent := opSent_putSignal_count u (taskId e c) (signalCount u e c w) hmode
      rw [taskId_div, signalCount_of_undisturbed hund] at hsent
      exact opSent_advance hsignal hnext hsent _
    · have hprog' : (partSt u (ctx u (taskId e c / 4) (taskId e c % 4)).part).prog = some p := by
        rw [hctx, hpart, partSt, hparts, ← partSt, hprog]
      have hsent := opSent_putSignal_slot u (taskId e c) (signalCount u e c w) hmode hprog' hslot
      rw [moduleNum_of_undisturbed hund] at hsent
      obtain ⟨o, ho, hsrc, hobj, hkind⟩ := opSent_advance hsignal hnext hsent _
      exact ⟨o, ho, hsrc, hkind, hobj⟩
  case armed =>
    intro target reset hk
    rw [exec_syncOpArrival]
    refine settles_onEng ?_
    rw [syncArrive_alone hfirst, applySync_arm (m := opTaken d o s.m) hpow hbad hk, syncObj_modSync]
    rfl
  case cleared =>
    intro hk
    rw [exec_syncOpArrival]
    refine settles_onEng ?_
    rw [syncArrive_alone hfirst, applySync_clear (m := opTaken d o s.m) hpow hbad hk, syncObj_modSync]
    rfl

/-- Settles O9: the signal is `applySignal` at its object, and the trace record of its task reaches no object, log or context. -/
theorem signalArrives : Obligations.SignalArrives := by
  unfold Obligations.SignalArrives
  intro d src o n s hfirst hk hlocal hsrc hpow hbad x
  have happly := applySync_sig (t := s.clk) (m := opTaken d o s.m) hpow hbad hk (hsrc ▸ hlocal)
  have hobj : syncObj (applySync s.clk d o (opTaken d o s.m)) d o.obj = signalObj x n.toNat := by
    rw [happly, syncObj, sync_signalTraced, ← syncObj, syncObj_applySignal]
    rfl
  rw [exec_syncOpArrival]
  refine settles_onEng ?_
  rw [syncArrive_alone hfirst, hobj, happly, flog_signalTraced, sync_signalTraced]
  refine ⟨fun hflag => ?flag, fun hcounter => ?counter, fun hcounter htop => ?top, target_signalObj _ _, fun j hj => ?others,
    fun g c => ?still⟩
  case flag =>
    have hzero : n.toNat = 0 ↔ n = 0 := BitVec.toNat_inj (y := 0)
    rw [signalObj_flag _ hflag]
    simp only [hzero]
    split_ifs <;> rfl
  case counter => rw [signalObj_counter _ hcounter]
  case top => exact flog_applySignal (m := opTaken d o s.m) hcounter htop
  case others =>
    rw [sget_sync_applySignal _ _ _ _ _ hj]
    rfl
  case still =>
    rw [ctx_signalTraced, (portKept_applySignal ..).ctx]
    rfl

end Sys2Proof
end

/-! # Packets of VC0 that arrive (R261, R263, R288, R403, R413 to R415)

The oldest packet of its VC is the next one at its port and leaves the buffers; then what SIGNAL does at its sync file, the time
packets at the time base, and WRITE_ACK at the transfers. -/

section
namespace Sys2Proof.Machine

/-! ## A packet leaves the buffers (R403) -/

section
variable {m : Mod} {p typ : Nat} {k : Packet}

/-- No packet of its VC stands before the oldest. -/
theorem nextOfVc_of_oldest (h : oldest m p k typ) : nextOfVc m p k = true := by
  obtain ⟨-, hfind⟩ := h
  obtain ⟨-, before, after, hqueue, hbefore⟩ := List.find?_eq_some_iff_append.1 hfind
  have hother : ∀ x ∈ before, (x != k) = true := fun x hx => by
    rw [bne_iff_ne]
    rintro rfl
    simpa using hbefore x hx
  have htake : ((port m p).rxq.takeWhile fun x => x != k) = before := by
    rw [hqueue, List.takeWhile_append_of_pos hother]
    simp
  rw [nextOfVc, htake, hqueue]
  simp only [Bool.and_eq_true, List.all_eq_true, Bool.or_eq_true]
  exact ⟨by simp, fun x hx => Or.inl (hbefore x hx)⟩

theorem arrived_of_oldest (h : oldest m p k typ) : arrived typ p k m = some (takenIn m p k) := if_pos ⟨h.1, nextOfVc_of_oldest h⟩

/-- A packet row acts on the module without its packet. -/
theorem onPacket_of_oldest (h : oldest m p k typ) (act : Clk → Mod → Mod) (t : Clk) :
    onPacket typ p k act t m = act t (takenIn m p k) := by
  rw [onPacket, arrived_of_oldest h]

theorem onTimePacket_of_oldest (h : oldest m p k typ) (act : Clk → Mod → Clk) (t : Clk) :
    onTimePacket typ p k act t m = (act t (takenIn m p k), takenIn m p k) := by
  rw [onTimePacket, arrived_of_oldest h]

end

theorem st_takenIn (m : Mod) (p : Nat) (k : Packet) (q : Nat) : (port (takenIn m p k) q).st = (port m q).st := by
  rw [takenIn, port_modPort]
  split_ifs with hq
  · rw [hq]
    rfl
  · rfl

/-- A packet taken takes no port down. -/
theorem upstreamLost_takenIn (m : Mod) (p : Nat) (k : Packet) (c : Clk) : upstreamLost m (takenIn m p k) c = c := by
  refine if_neg ?_
  rintro ⟨-, -, -, hup, hdown⟩
  exact hdown ((st_takenIn ..).trans hup)

theorem links_onPort {f : Clk → Mod → Mod} {s : State} {P : Mod → Prop} (h : P (f s.clk s.m)) : Links s (onPort f s) P :=
  links_onLink rfl h

/-- A time packet taken leaves the time base that its row makes of it. -/
theorem clk_onTimePacket {s : State} {p typ : Nat} {k : Packet} (h : oldest s.m p k typ) (act : Clk → Mod → Clk) :
    ∃ t, onLink (onTimePacket typ p k act) s = .next t ∧ t.clk = act s.clk (takenIn s.m p k) := by
  refine ⟨_, rfl, ?_⟩
  simp only [onTimePacket_of_oldest h, upstreamLost_takenIn]

/-! ## SIGNAL (R288, R516) -/

theorem applySignal_outside {α : Type} (f : Mod → α) (hf : ∀ m sync logs, f { m with sync := sync, logs := logs } = f m) (t : Clk)
    (d i n : Nat) (m : Mod) : f (applySignal t d i n m) = f m := by
  unfold applySignal
  simp only
  split_ifs
  · exact hf m _ _
  · exact hf m _ m.logs

/-- A refused access of a link port stands in the log of its die. -/
theorem logErr_link {rq : Req} {p : Port} (h : rq.who = .link p) (t : Clk) (x : XErr) (m : Mod) :
    logErr t rq x m = logFault t (logLD (portDie p)) (errEntry rq x) m := by
  have hlog : (reqLog rq.who).1 = logLD (portDie p) := by rw [h]; rfl
  have hfar : ¬ logLD (portDie p) < 256 := by unfold logLD; omega
  rw [logErr, hlog]
  exact if_neg hfar

section
variable {m : Mod} {p d i : Nat} {k : Packet} (hmod : k.addr.toNat / 2 ^ 18 = moduleNum m) (hd : k.addr.toNat / 2 ^ 14 % 16 = d)
  (hi : k.addr.toNat % 2 ^ 14 = i) (t : Clk)
include hmod hd hi

section
variable (hpow : dieState m d ≤ 1)
include hpow

theorem signalIn_applied (hok : remoteOk (syncObj m d i) (portPart m p) k.arg.toNat = true) (hbad : (syncObj m d i).bad = none) :
    signalIn p k t m = applySignal t d i k.arg.toNat m := by
  simp only [signalIn, hmod, hd, hi, placePowered_sync, hpow, hok, hbad, decide_true, ne_eq, not_true_eq_false, if_false,
    Option.isSome_none, Bool.false_eq_true]

theorem signalIn_refused (hno : remoteOk (syncObj m d i) (portPart m p) k.arg.toNat = false) :
    signalIn p k t m = syncRefused t d i k.src.toNat (some (portPart m p)) m := by
  simp only [signalIn, hmod, hd, hi, placePowered_sync, hpow, hno, decide_true, ne_eq, not_true_eq_false, if_false, Bool.false_eq_true,
    not_false_eq_true, if_true]

end

theorem signalIn_unpowered (hoff : 2 ≤ dieState m d) :
    signalIn p k t m = logErr t { reqOf m (.link (Fin.ofNat 18 p)) with part := some (portPart m p) }
      { typ := fAccess, reason := 0x37, addr := syncCell d i } m := by
  have hdark : ¬ dieState m d ≤ 1 := Nat.not_le.2 hoff
  simp only [signalIn, hmod, hd, hi, placePowered_sync, hdark, decide_false, ne_eq, not_true_eq_false, if_false, Bool.false_eq_true,
    not_false_eq_true, if_true]

end

theorem exec_signal (p : Port) (k : Packet) (s : State) : exec (.signal p k) s = onPort (onPacket 0x01 p.val k (signalIn p.val k)) s := rfl

/-! ## The time packets (R261, R263, R415) -/

theorem exec_timeReq (p : Port) (k : Packet) (s : State) : exec (.timeReq p k) s
    = onPort (fun t m => onPacket 0x02 p.val k (fun _ m1 => timeReqIn p.val k (enteredAt p.val k t m) m1) t m) s := rfl

theorem exec_timeResp (p : Port) (k : Packet) (s : State) : exec (.timeResp p k) s
    = onLink (onTimePacket 0x03 p.val k fun c m1 => timeResp p.val k.arg.toNat (inl64 k) (enteredAt p.val k s.clk s.m) c m1) s := rfl

theorem exec_timeFollow (p : Port) (k : Packet) (s : State) : exec (.timeFollow p k) s
    = onLink (onTimePacket 0x04 p.val k fun c m => timeFollow p.val k.arg.toNat (inl64 k) c m) s := rfl

/-- The answer to a TIME_REQ whose first segment entered at t2. -/
def timeAnswer (m : Mod) (p : Nat) (k : Packet) (t2 : W64) : TxPkt where
  pkt := packet m (portPart m p) 0x03 0 k.src.toNat 0 0 k.arg.toNat 0 (inlineOf [(0x20, toBe 8 t2.toNat)]) []
  deps := []
  task := none
  works := []

theorem port_timeReqIn (p : Nat) (k : Packet) (t2 : W64) (m : Mod) :
    port (timeReqIn p k t2 m) p = { port m p with txq := (port m p).txq ++ [timeAnswer m p k t2] } :=
  (port_modPort ..).trans (if_pos rfl)

theorem timeResp_awaited {c : Clk} {y : Meas} {p num : Nat} {m : Mod} (hmeas : c.meas = some y) (hnum : y.num.toNat = num)
    (hup : p = upstream m) (hfirst : y.t2 = none) (t2 t4 : W64) :
    timeResp p num t2 t4 c m = { c with meas := some { y with t2 := some t2, t4 := t4 } } := by
  simp [timeResp, hmeas, hnum, hup, hfirst]

theorem timeFollow_awaited {c : Clk} {n : BitVec 32} {t1 t2 t4 : W64} {p num : Nat} {m : Mod}
    (hmeas : c.meas = some { num := n, t1 := t1, t2 := some t2, t4 := t4 }) (hnum : n.toNat = num) (hup : p = upstream m) (t3 : W64) :
    timeFollow p num t3 c m = offsetDone (halfTicks (diff t2 t1 - diff t4 t3) - asym m p) (transitPending m)
      { c with delay := halfTicks (diff t2 t1 + diff t4 t3) } := by
  simp [timeFollow, hmeas, hnum, hup]

theorem within_iff (offset : Int) : within offset = true ↔ -4 ≤ offset ∧ offset ≤ 4 := by simp [within]

section
variable (offset : Int) (pending : Bool) (c : Clk)

/-- 16 good measurements in a row lock the time base (R264). -/
theorem measState_eq :
    let inRow := if -4 ≤ offset ∧ offset ≤ 4 then c.good + 1 else 0
    measState offset c = { c with
      good := inRow
      bad := 0
      sync := if 16 ≤ inRow ∧ (c.sync = .acquire ∨ c.sync = .holdover) then .locked else c.sync } := by
  simp only [measState, within_iff, ge_iff_le]

/-- A whole measurement is over and its offset noted; it leaves a load or steps. -/
theorem offsetDone_eq : ∃ load acq steer, offsetDone offset pending c = { measState offset c with
    meas := none, offset := offset, acqDone := true, load := load, loadAcq := acq, steer := steer } := by
  unfold offsetDone
  simp only
  by_cases hfirst : c.sync = .acquire ∧ ¬ c.acqDone = true ∧ ¬ pending = true
  · rw [if_pos hfirst]
    exact ⟨_, _, _, rfl⟩
  · rw [if_neg hfirst]
    exact ⟨_, _, _, rfl⟩

variable {offset pending c}

/-- The first measurement of ACQUIRE loads its offset away (R249, R263). -/
theorem offsetDone_loads (h : c.sync = .acquire ∧ c.acqDone = false ∧ pending = false) :
    (offsetDone offset pending c).load = some (c.sid + 2 + BitVec.ofInt 64 offset) ∧ (offsetDone offset pending c).steer = 0 := by
  simp [offsetDone, h]

/-- Any other one steers (R262). -/
theorem offsetDone_steers (h : ¬ (c.sync = .acquire ∧ c.acqDone = false ∧ pending = false)) :
    (offsetDone offset pending c).load = c.load ∧ (offsetDone offset pending c).steer = stepsFor offset := by
  have hsteer : ¬ (c.sync = .acquire ∧ ¬ c.acqDone = true ∧ ¬ pending = true) := by simpa using h
  simp only [offsetDone, if_neg hsteer, measState, and_self]

end

/-! ## WRITE_ACK (R412 to R414) -/

section
variable {m : Mod} {b : BulkOut} {rest : List BulkOut} {x : Xfer} (hout : m.bulkOut = b :: rest) (t : Clk)
include hout

/-- One acknowledgement is that of the oldest packet sent to its module. -/
theorem ackBulk_one : ackBulk t b.part b.dst 1 m = ackOne t m b := by simp [ackBulk, hout]

/-- A packet that its destination took counts one off its transfer. -/
theorem ackOne_taken (hx : findXfer m b.eng b.xfer = some x) (htaken : Config.farRefused m.draw = false) :
    findXfer (ackOne t m b) b.eng b.xfer = some { x with acks := x.acks - 1 } ∧ (ackOne t m b).bulkOut = rest
      ∧ (ackOne t m b).mem = m.mem ∧ (ackOne t m b).sync = m.sync := by
  have hfound : findXfer { m with draw := m.draw + 1, bulkOut := rest } b.eng b.xfer = some x := hx
  have hcounts : ackOne t m b
      = modXfer { m with draw := m.draw + 1, bulkOut := rest } b.eng b.xfer fun x => { x with acks := x.acks - 1 } := by
    simp [ackOne, hout, hfound, htaken]
  rw [hcounts]
  exact ⟨findXfer_modXfer hfound _ (fun _ => rfl) fun _ => rfl, rfl, rfl, rfl⟩

end

theorem exec_writeAck (p : Port) (k : Packet) (s : State) : exec (.writeAck p k) s
    = onPort (onPacket 0x07 p.val k fun t m => ackBulk t (portPart m p.val) k.src.toNat k.arg.toNat m) s := rfl

end Sys2Proof.Machine

namespace Sys2Proof
open Machine

/-- Settles O49: `onPacket_of_oldest` takes the packet; a SIGNAL is `applySignal` or a fault entry, TIME_REQ sends `timeAnswer`,
`offsetDone` ends a measurement, `ackOne` counts an acknowledgement. -/
theorem packetsArrive : Obligations.PacketsArrive := by
  unfold Obligations.PacketsArrive
  intro p k s m1 part
  refine ⟨fun hold hmod => ⟨?applied, ?refused, ?unpowered⟩, fun hold => ?req, fun y hold hmeas hnum hup hfirst => ?resp,
    fun n t1 t2 t4 hold hmeas hnum hup => ?follow, fun hold => ?ack⟩
  case applied =>
    intro hpow hok hbad
    rw [exec_signal]
    refine links_onPort ?_
    rw [onPacket_of_oldest hold, signalIn_applied (m := takenIn s.m p k) hmod rfl rfl s.clk hpow hok hbad]
    exact ⟨syncObj_applySignal .., fun j hj => sget_sync_applySignal _ _ _ _ _ hj, applySignal_outside (·.mem) (fun _ _ _ => rfl) ..,
      applySignal_outside (port · p) (fun _ _ _ => rfl) ..⟩
  case refused =>
    intro hpow hno
    rw [exec_signal]
    refine links_onPort ?_
    rw [onPacket_of_oldest hold, signalIn_refused (m := takenIn s.m p k) hmod rfl rfl s.clk hpow hno, syncRefused, flog_logFault]
    exact ⟨rfl, rfl, rfl, rfl, rfl⟩
  case unpowered =>
    intro hoff
    rw [exec_signal]
    refine links_onPort ?_
    rw [onPacket_of_oldest hold, signalIn_unpowered (m := takenIn s.m p k) hmod rfl rfl s.clk hoff,
      logErr_link (p := p) (congrArg Requester.link (Fin.ofNat_val_eq_self p)), flog_logFault]
    exact ⟨rfl, rfl, rfl, rfl, rfl⟩
  case req =>
    rw [exec_timeReq]
    refine links_onPort ?_
    have hport : port (takenIn s.m p k) p = _ := (port_modPort ..).trans (if_pos rfl)
    rw [onPacket_of_oldest hold, port_timeReqIn]
    refine ⟨timeAnswer (takenIn s.m p k) p k (enteredAt p k s.clk s.m), ?_, rfl, BitVec.ofNat_toNat .., BitVec.ofNat_toNat .., rfl, rfl⟩
    rw [hport]
    rfl
  case resp =>
    obtain ⟨t, ht, hclk⟩ := clk_onTimePacket hold fun c m1 => timeResp p.val k.arg.toNat (inl64 k) (enteredAt p.val k s.clk s.m) c m1
    rw [exec_timeResp]
    exact ⟨t, ht, hclk.trans (timeResp_awaited hmeas hnum hup hfirst ..)⟩
  case follow =>
    intro off acquires inRow
    obtain ⟨t, ht, hclk⟩ := clk_onTimePacket hold fun c m => timeFollow p.val k.arg.toNat (inl64 k) c m
    replace hclk := hclk.trans (timeFollow_awaited (m := takenIn s.m p k) hmeas hnum hup _)
    obtain ⟨_, _, _, hdone⟩ := offsetDone_eq off (transitPending s.m) { s.clk with delay := halfTicks (diff t2 t1 + diff t4 (inl64 k)) }
    have hover := hclk.trans hdone
    rw [measState_eq] at hover
    rw [exec_timeFollow]
    refine ⟨t, ht, ?_, ?_, ?_, ?_, ?_, fun h => ?loads, fun h => ?steers, ?_⟩
    case loads => exact hclk ▸ offsetDone_loads h
    case steers => exact hclk ▸ offsetDone_steers h
    all_goals rw [hover]
  case ack =>
    rw [exec_writeAck]
    refine links_onPort ?_
    rw [onPacket_of_oldest hold]
    refine ⟨rfl, fun b rest x hout hpart hdst harg hx htaken => ?_⟩
    have hone : k.arg.toNat = 1 := by rw [harg]; rfl
    have hport : portPart (takenIn s.m p k) p = b.part := hpart.symm
    rw [hone, ← hdst, hport, ackBulk_one (m := takenIn s.m p k) hout]
    exact ackOne_taken (m := takenIn s.m p k) hout s.clk hx htaken

end Sys2Proof
end

/-! # A PROGRAM_UNLOAD that a saturation is recorded for (R498, R508)

`cmdReady` leaves free whether a saturation is recorded for the command, which its completion then reports in place of success. -/

section
namespace Sys2Proof.Machine

/-- A program without tasks, sections or CHAINs, not started. -/
def emptyProgram : Program where
  bytes := []
  major := 2
  minor := 0
  id := 0
  tasks := []
  taskIds := []
  descs := []
  consts := []
  slots := []
  chains := []
  mcast := []
  keepQuota := 0
  placed := []
  started := false
  finished := false
  cmd := none
  partial_ := false
  sat := false
  flog := none

/-- A PROGRAM_UNLOAD that waits at its turn, with a saturation recorded. -/
def saturatedUnload : Cmd := { saturatedResume with op := 0x12 }

/-- The program loaded in partition 0, and the command alone in its ring. -/
def unloadState : State :=
  { State.reset with m := { modReset with parts := [(0, { prog := some emptyProgram })], cmds := [saturatedUnload] } }

theorem cmdReady_saturatedUnload : cmdReady unloadState 0 9 0x12 saturatedUnload :=
  ⟨rfl, rfl, rfl, rfl, Or.inl ⟨rfl, rfl⟩⟩

theorem prog_unloadState : (partSt unloadState.m 0).prog = some emptyProgram := rfl

theorem waiting_unloadState : (ring unloadState.m 0).waiting = [] := rfl

/-- The command completes with status 6 (SAT). -/
theorem waiting_saturatedUnload : (ring (startCmd 0x12 unloadBody 0 9 unloadState.clk unloadState.m) 0).waiting
    = [cmdEntry true 9 6 0 0 0] := by
  decide

end Sys2Proof.Machine

namespace Sys2Proof
open Machine

/-- Refutes O32: a PROGRAM_UNLOAD with a saturation recorded completes with status 6 (SAT), not 0 as its clause says (R508);
`cmdReady` asks that no fault and no fallback is recorded, and says nothing of a saturation. -/
theorem not_programCommands : ¬ Obligations.ProgramCommands := by
  unfold Obligations.ProgramCommands
  intro h
  obtain ⟨-, -, -, hunload, -⟩ := h 0 9 saturatedUnload 0 unloadState rfl
  have hentry := entry_of_answered (hunload emptyProgram cmdReady_saturatedUnload prog_unloadState rfl rfl) (fun _ hu => hu.1)
    waiting_unloadState waiting_saturatedUnload
  exact absurd hentry (by decide)

end Sys2Proof
end

/-! # MOVE puts a run in its DMA queue (R316, R317)

What an instruction without leave finds of the DMA queues when it issues, what its end leaves of them, and the run between. -/

section
namespace Sys2Proof.Machine

/-! ## The DMA queues while an instruction issues -/

theorem transfersKept_modEngine (m : Mod) (g : Nat) {f : Engine → Engine} (hf : ∀ e, (f e).xfers = e.xfers ∧ (f e).dq = e.dq) :
    TransfersKept m (modEngine m g f) := by
  have hfield : ∀ {α : Type} (p : Engine → α), (∀ e, p (f e) = p e) → ∀ h, p (engine (modEngine m g f) h) = p (engine m h) := by
    intro α p hp h
    rw [engine_modEngine]
    split_ifs with hg
    · rw [hp, hg]
    · rfl
  exact ⟨hfield (·.xfers) fun e => (hf e).1, hfield (·.dq) fun e => (hf e).2⟩

theorem transfersKept_modCtx (m : Mod) (g c : Nat) (f : Ctx → Ctx) : TransfersKept m (modCtx m g c f) :=
  transfersKept_modEngine m g fun _ => ⟨rfl, rfl⟩

theorem transfersKept_pastWait (t : Clk) (g c : Nat) (w : LviWord) (m : Mod) : TransfersKept m (pastWait t g c w m) := by
  have hwait : TransfersKept m (traceWait t m g c w) :=
    ⟨fun h => traceWait_eq t g c w m (fun u => (engine u h).xfers) fun _ _ _ _ => (transfersKept_trace ..).xfers h,
      fun h => traceWait_eq t g c w m (fun u => (engine u h).dq) fun _ _ _ _ => (transfersKept_trace ..).dq h⟩
  exact hwait.trans (transfersKept_modCtx ..)

theorem transfersKept_issuing (g c : Nat) (m : Mod) : TransfersKept m (issuing g c m) :=
  (transfersKept_modCtx m g c fun x => { x with waitSince := none, leaveReq := none, accepted := none }).trans
    (transfersKept_modEngine _ g (f := fun e => { e with last := if (ctx m g c).accepted.isSome then e.last else some c }) fun _ => ⟨rfl, rfl⟩)

theorem transfersKept_traceIssue (t : Clk) (g task idx op : Nat) (m : Mod) : TransfersKept m (traceIssue t g task idx op m) := by
  unfold traceIssue
  split_ifs
  · exact transfersKept_trace ..
  · exact .refl m

theorem transfersKept_putSignal (m : Mod) (task : Nat) (w : LviWord) (count : Nat) (own : Option Nat) :
    TransfersKept m (putSignal m task w count own) :=
  .of_eng (putSignal_outside (·.eng) (fun _ _ _ _ _ _ _ => rfl) ..)

/-- A form without check, miss and leave reaches its effect on an undisturbed state, with the DMA queues as they were. -/
theorem plain_attempt_transfers (f : Form) {op : Nat} {ext : Option Nat} {g c : Nat} {w : LviWord} {s : State}
    (h : headReady s g c op ext w) (hT : wT w = false) (hchk : ∀ t m, f.chk t m g c w = none)
    (hmiss : ∀ t m, f.miss t m g c w = none) (hleave : ∀ m, f.leave m g c w = 0) (hport : f.atPort = false) :
    ∃ u, Undisturbed s.m u ∧ TransfersKept s.m u ∧ attempt f op ext g c w s.clk s.m = f.eff s.clk g c w 0 u := by
  refine ⟨_, Still.trans (pastWait_und s.clk g c w s.m) (traceIssue_und s.clk g c w _), ?_, ?_⟩
  · exact (transfersKept_pastWait ..).trans ((transfersKept_issuing ..).trans (transfersKept_traceIssue ..))
  · rw [attempt_eq f op ext g c w s h, tryIssue_eq f g c w s.clk _ hT (hchk _ _) (hmiss _ _), withLeave_none f s.clk g c w _ (hleave _),
      startInsn_here f s.clk g c w 0 _ hport]

/-! ## The end of an instruction that signals a count -/

theorem moved_advance_putSignal (t : Clk) (g c : Nat) (w : LviWord) (count : Nat) (own : Option Nat) (m : Mod) :
    Moved m (advance t g c (putSignal m (taskId g c) w count own)) g c id ((ctx m g c).pc + 1) := by
  have hsignal := Still.putSignal m (taskId g c) w count own
  unfold advance
  rw [und_pc hsignal]
  exact und_moved sees_id hsignal (advanceTo_moved ..)

/-- Where the stream goes on, the end of an instruction leaves the DMA queues as they are. -/
theorem transfersKept_advance_putSignal {m u : Mod} {g c : Nat} (h : stillCtx (ctx u g c) = stillCtx (ctx m g c)) (hn : hasNext m g c)
    (t : Clk) (w : LviWord) (count : Nat) (own : Option Nat) :
    TransfersKept u (advance t g c (putSignal u (taskId g c) w count own)) := by
  rw [advance_of_next (((Still.putSignal ..).2.2 g c).trans h) hn]
  exact (transfersKept_putSignal ..).trans (transfersKept_modCtx ..)

/-! ## The run of a MOVE -/

/-- An offset that a MOVE takes from a counter of its context; fields from 16 on give 0. -/
def moveOffset (x : Ctx) (i : Nat) : W32 := if i < 16 then counter x i else 0

/-- The run that a MOVE without leave puts in its queue. -/
def moveRun (m : Mod) (g c : Nat) (w : LviWord) : Run where
  id := m.nextId
  task := some (taskId g c)
  cmd := none
  section_ := some (wf w 48 16)
  base := 0
  next := wf w 32 16
  left := wf w 16 16
  soff := moveOffset (ctx m g c) (wf w 5 5)
  doff := moveOffset (ctx m g c) (wf w 0 5)
  hint := wf w 11 2
  prefetch := wb w 10
  word := some w
  stage := none
  grant := 0
  idx := (ctx m g c).pc

/-- The module with the run of a MOVE in its queue. -/
def moveQueued (g c : Nat) (w : LviWord) (m : Mod) : Mod :=
  modDmaq (fresh m).2 g (wf w 13 3) fun x => { x with runs := x.runs ++ [moveRun m g c w] }

theorem undisturbed_moveQueued (g c : Nat) (w : LviWord) (m : Mod) : Undisturbed m (moveQueued g c w m) :=
  Still.trans (Still.of_eng (m' := (fresh m).2) rfl rfl) (Still.modEngine' _ g _ (fun _ => rfl) fun _ => rfl)

theorem runs_moveQueued (g c : Nat) (w : LviWord) (m : Mod) :
    (dmaq (engine (moveQueued g c w m) g) (wf w 13 3)).runs = (dmaq (engine m g) (wf w 13 3)).runs ++ [moveRun m g c w] := by
  rw [moveQueued, dmaq_modDmaq]
  rfl

/-- A MOVE whose queue has room for its run puts it there and is done; it signals the number of its descriptors. -/
theorem moveForm_eff {m : Mod} {g c : Nat} {w : LviWord} (hroom : (dmaq (engine m g) (wf w 13 3)).runs.length < 256) (t : Clk) :
    moveForm.eff t g c w 0 m = advance t g c (putSignal (moveQueued g c w m) (taskId g c) w (wf w 16 16) (some m.nextId)) := by
  simp only [moveForm, if_neg (Nat.not_le.2 hroom)]
  rfl

theorem moveForm_leave {w : LviWord} (hT : wT w = false) (m : Mod) (g c : Nat) : moveForm.leave m g c w = 0 := by
  simp [moveForm, hT]

/-- The offsets of a run are those of the context before the instruction. -/
theorem moveOffset_of_stillCtx {x y : Ctx} (h : stillCtx x = stillCtx y) (i : Nat) : moveOffset x i = moveOffset y i := by
  rw [moveOffset, moveOffset, counter_of_stillCtx h]

theorem exec_move (e : Eng) (c : CtxId) (w : LviWord) (s : State) :
    exec (.move e c w) s = onEng (attempt moveForm 0x20 none e.val c.val w) s := rfl

end Sys2Proof.Machine

namespace Sys2Proof
open Machine

/-- Settles O11: `moveQueued` puts the run behind those of its queue, and the end of the instruction leaves the queues alone. -/
theorem moveIssues : Obligations.MoveIssues := by
  unfold Obligations.MoveIssues
  intro e c w s hhead hT hnext hroom off
  obtain ⟨u, hund, hkept, hattempt⟩ := plain_attempt_transfers moveForm hhead hT (fun _ _ => rfl) (fun _ _ => rfl)
    (fun m => moveForm_leave hT m e c) rfl
  have hqueued := Still.trans hund (undisturbed_moveQueued e c w u)
  have hmoved := moved_advance_putSignal s.clk e c w (wf w 16 16) (some u.nextId) (moveQueued e c w u)
  have hend := transfersKept_advance_putSignal (hqueued.2.2 e c) hnext s.clk w (wf w 16 16) (some u.nextId)
  have hoffset := moveOffset_of_stillCtx (hund.2.2 e c)
  rw [und_pc hqueued] at hmoved
  rw [exec_move]
  refine settles_onEng ?_
  rw [hattempt, moveForm_eff (by rwa [hkept.dmaq])]
  refine ⟨und_moved sees_id hqueued hmoved, moveRun u e c w, ?_, rfl, rfl, rfl, rfl, hoffset _, hoffset _, rfl⟩
  rw [hend.dmaq, runs_moveQueued, hkept.dmaq]

end Sys2Proof
end

/-! # What `Moved` says of a TIER instruction (R189, R318)

A TIER instruction puts its operation on its way to a region controller. That queue is part of what `Moved` says has not
changed, so no region operation that issues is `Moved`. -/

section
namespace Sys2Proof.Machine

theorem regQ_of_stillMod {m u : Mod} (h : stillMod u = stillMod m) : u.regQ = m.regQ := congrArg (·.regQ) h

/-- An operation on its way stands last in the queue of its die. -/
theorem regQ_pushRegion (m : Mod) (td : Nat) (op : RegOp) (who : Owner) (part entry : Nat) (deps : List Nat)
    (result : Option (Nat × Nat)) (word : Option LviWord) (cmd : Option (Nat × Nat)) :
    ∃ q, sget [] (pushRegion m td op who part entry deps result word cmd).2.regQ td = sget [] m.regQ td ++ [q] :=
  ⟨_, sget_smod_same [] m.regQ td fun l => l ++ [_]⟩

/-- SEAL, ABANDON, DONE and RELEASE put an operation on its way and are done. -/
theorem tierOpForm_eff (op : LviWord → RegOp) (t : Clk) (g c : Nat) (w : LviWord) (grant : Nat) (m : Mod) :
    (tierOpForm op).eff t g c w grant m = signalled t g c w m.nextId
      (pushRegion m (crFields (cnt m g c (wf w 60 4))).1 (op w) (.task (taskId g c)) (ctx m g c).part
        (crFields (cnt m g c (wf w 60 4))).2 (depsOf m (taskId g c)) none (some w) none).2 := rfl

/-- A SEAL, ABANDON, DONE or RELEASE that issues changes the queue of a region controller. -/
theorem regQ_tierOp_ne {op : LviWord → RegOp} {ext : Option Nat} {g c : Nat} {w : LviWord} {s : State}
    (h : headReady s g c 0x23 ext w) (hT : wT w = false) :
    (attempt (tierOpForm op) 0x23 ext g c w s.clk s.m).regQ ≠ s.m.regQ := by
  obtain ⟨u, hund, hattempt⟩ := plain_attempt (tierOpForm op) 0x23 ext g c w s h hT (fun _ _ => rfl) (fun _ _ => rfl) (fun _ => rfl) rfl
  rw [hattempt, tierOpForm_eff, regQ_of_stillMod (moved_signalled ..).1, ← regQ_of_stillMod hund.1]
  obtain ⟨q, hq⟩ := regQ_pushRegion u (crFields (cnt u g c (wf w 60 4))).1 (op w) (.task (taskId g c)) (ctx u g c).part
    (crFields (cnt u g c (wf w 60 4))).2 (depsOf u (taskId g c)) none (some w) none
  intro hsame
  rw [hsame] at hq
  exact List.cons_ne_nil q [] (List.self_eq_append_right.1 hq)

/-- Settling touches no region queue, so that of a row that settles as `Moved` says is as before. -/
theorem regQ_of_settles_moved {f : Clk → Mod → Mod} {s : State} {P : Mod → Prop} {g c pc : Nat} {r : Ctx → Ctx}
    (h : Settles s (onEng f s) P) (hP : ∀ u, P u → Moved s.m u g c r pc) : (f s.clk s.m).regQ = s.m.regQ := by
  obtain ⟨u, hu, hp⟩ := h
  rw [← regQ_of_stillMod (Still.settle s.clk (f s.clk s.m)).1, settled_eq_of_onEng hu, regQ_of_stillMod (Still.settle s.clk u).1,
    regQ_of_stillMod (hP u hp).1]

theorem exec_tierSeal (e : Eng) (c : CtxId) (w : LviWord) (s : State) :
    exec (.tierSeal e c w) s = onEng (attempt tierSealForm 0x23 (some 1) e.val c.val w) s := rfl

/-- A TIER SEAL of the region that counter 0 names. -/
def sealWord : LviWord := BitVec.ofNat 128 (0x23 * 2 ^ 120 + 2 ^ 64)

/-- Task 0 of engine 0 at a SEAL, a NOP behind it. -/
def sealState : State :=
  { State.reset with m := { modReset with
      pwr := { pwrReset with state := .ms0 }
      eng := [(0, { ctx := [(0, { st := .ready, stream := [sealWord, 0] })] })] } }

theorem headReady_sealState : headReady sealState 0 0 0x23 (some 1) sealWord := by
  unfold headReady noBreak
  decide

theorem hasNext_sealState : hasNext sealState.m 0 0 := by
  unfold hasNext
  decide

end Sys2Proof.Machine

namespace Sys2Proof
open Machine

/-- Refutes O15: its clauses for the TIER instructions ask for `Moved`, by which the queues of the region controllers are as
before, and for the operation in one of these queues; a SEAL adds its operation there. -/
theorem not_tierInstructions : ¬ Obligations.TierInstructions := by
  unfold Obligations.TierInstructions
  rintro ⟨hinsn, -⟩
  obtain ⟨-, hseal, -⟩ := hinsn 0 0 sealWord sealState (by decide) hasNext_sealState
  have hsettles := hseal headReady_sealState
  rw [exec_tierSeal] at hsettles
  exact regQ_tierOp_ne headReady_sealState (by decide) (regQ_of_settles_moved hsettles fun _ hu => hu.1)

end Sys2Proof
end

/-! # An EPOCH_ADVANCE that a saturation is recorded for (R386, R508)

`cmdReady` leaves free whether a saturation is recorded for the command, which its completion then reports in place of success. -/

section
namespace Sys2Proof.Machine

/-- An EPOCH_ADVANCE that waits at its turn, with a saturation recorded. -/
def saturatedAdvance : Cmd := { saturatedResume with op := 0x31 }

/-- The command alone in its ring, and no packet held for the next epoch. -/
def advanceState : State := { State.reset with m := { modReset with cmds := [saturatedAdvance] } }

theorem cmdReady_saturatedAdvance : cmdReady advanceState 0 9 0x31 saturatedAdvance :=
  ⟨rfl, rfl, rfl, rfl, Or.inl ⟨rfl, rfl⟩⟩

theorem future_advanceState : advanceState.m.xch.future = [] := rfl

theorem waiting_advanceState : (ring advanceState.m 0).waiting = [] := rfl

/-- The command completes with status 6 (SAT). -/
theorem waiting_saturatedAdvance : (ring (startCmd 0x31 epochBody 0 9 advanceState.clk advanceState.m) 0).waiting
    = [cmdEntry true 9 6 0 0 0] := by
  decide

end Sys2Proof.Machine

namespace Sys2Proof
open Machine

/-- Refutes O33: an EPOCH_ADVANCE with a saturation recorded completes with status 6 (SAT), not 0 as its clause says (R508);
`cmdReady` asks that no fault and no fallback is recorded, and says nothing of a saturation. -/
theorem not_imageCommands : ¬ Obligations.ImageCommands := by
  unfold Obligations.ImageCommands
  intro h
  obtain ⟨-, hadvance, -⟩ := h 0 9 saturatedAdvance advanceState
  have hentry := entry_of_answered (hadvance cmdReady_saturatedAdvance future_advanceState)
    (fun _ ⟨_, _, _, _, _, hanswered⟩ => hanswered) waiting_advanceState waiting_saturatedAdvance
  exact absurd hentry (by decide)

end Sys2Proof
end

/-! # What an access and a packet sent leave (R156, R417)

A value that reads none of what an access writes is the same after one, stated once for every such value; and a packet that is sent
leaves the routes of those after it. -/

section
namespace Sys2Proof.Machine

/-! ## What an access leaves -/

/-- A value of the module that reads none of what an access writes: engines, logs, memory, sync objects, what is sent out, and
the integrity count and cached translations of a partition. -/
structure OutsideAccess {α : Type} (f : Mod → α) : Prop where
  engine : ∀ m g h, f (modEngine m g h) = f m
  logs : ∀ m x, f { m with logs := x } = f m
  mem : ∀ m x, f { m with mem := x } = f m
  sync : ∀ m x, f { m with sync := x } = f m
  out : ∀ m x, f { m with out := x } = f m
  part : ∀ m k (h : PartSt → PartSt), (∀ p, h p = { p with integrity := (h p).integrity, xlat := (h p).xlat }) → f (modPart m k h) = f m

theorem outsideAccess_links : OutsideAccess (·.links) where
  engine _ _ _ := rfl
  logs _ _ := rfl
  mem _ _ := rfl
  sync _ _ := rfl
  out _ _ := rfl
  part _ _ _ _ := rfl

theorem outsideAccess_banks : OutsideAccess (·.banks) where
  engine _ _ _ := rfl
  logs _ _ := rfl
  mem _ _ := rfl
  sync _ _ := rfl
  out _ _ := rfl
  part _ _ _ _ := rfl

theorem outsideAccess_bar0 : OutsideAccess (·.bar0) where
  engine _ _ _ := rfl
  logs _ _ := rfl
  mem _ _ := rfl
  sync _ _ := rfl
  out _ _ := rfl
  part _ _ _ _ := rfl

theorem outsideAccess_xch : OutsideAccess (·.xch) where
  engine _ _ _ := rfl
  logs _ _ := rfl
  mem _ _ := rfl
  sync _ _ := rfl
  out _ _ := rfl
  part _ _ _ _ := rfl

theorem activeMap_modPart_kept {h : PartSt → PartSt} (hh : ∀ p, (h p).activeMap = p.activeMap) (m : Mod) (j k : Nat) :
    activeMap (modPart m j h) k = activeMap m k := by
  unfold activeMap
  rw [partSt_modPart]
  split_ifs with heq
  · rw [hh, heq]
  · rfl

theorem outsideAccess_activeMap (k : Nat) : OutsideAccess (activeMap · k) where
  engine _ _ _ := rfl
  logs _ _ := rfl
  mem _ _ := rfl
  sync _ _ := rfl
  out _ _ := rfl
  part m j h hh := activeMap_modPart_kept (fun p => by rw [hh p]) m j k

namespace OutsideAccess
variable {α : Type} {f : Mod → α} (hf : OutsideAccess f)
include hf

theorem logFault (t : Clk) (l : Nat) (e : FEntry) (m : Mod) : f (logFault t l e m) = f m := hf.logs m _

theorem logEngine (t : Clk) (g : Nat) (e : FEntry) (m : Mod) : f (logEngine t g e m) = f m :=
  (trace_outside f hf.engine ..).trans (hf.logFault ..)

theorem logErr (t : Clk) (rq : Req) (e : XErr) (m : Mod) : f (logErr t rq e m) = f m := by
  unfold Machine.logErr
  simp only
  split_ifs
  · exact hf.logEngine ..
  · exact hf.logFault ..

theorem ctlFault (t : Clk) (p : Place) (typ reason : Byte) (addr : Nat) (info : W64) (m : Mod) :
    f (ctlFault t p typ reason addr info m) = f m := by
  unfold Machine.ctlFault
  simp only
  split_ifs
  · exact hf.logEngine ..
  · exact hf.logFault ..

theorem integrityEvent (t : Clk) (p : Place) (m : Mod) : f (integrityEvent t p m) = f m := by
  unfold Machine.integrityEvent
  simp only
  split
  · exact (hf.part _ _ _ fun _ => rfl).trans (hf.ctlFault ..)
  · exact hf.ctlFault ..

theorem addCorr (m : Mod) (l : Nat) : f (addCorr m l) = f m := hf.logs m _

theorem checkLine (t : Clk) (m : Mod) (p : Place) (ecc : Ecc) : f (checkLine t m p ecc).1 = f m := by
  fun_cases Machine.checkLine t m p ecc
  case case1 => rfl
  case case2 => exact hf.ctlFault ..
  case case3 => exact hf.integrityEvent ..
  case case4 => exact hf.addCorr ..
  case case5 => exact (hf.integrityEvent ..).trans (hf.addCorr ..)
  case case6 => rfl
  case case7 => exact hf.integrityEvent ..

theorem partialCheck (t : Clk) (m : Mod) (p : Place) (n : Nat) (ecc : Ecc) : f (partialCheck t m p n ecc).1 = f m := by
  unfold Machine.partialCheck
  split
  · split_ifs
    · rfl
    · exact hf.checkLine ..
  · split_ifs
    · rfl
    · exact hf.checkLine ..
  · rfl

omit hf in
/-- The module of a pair that a function answers. -/
theorem of_fst {β : Type} {r : Mod × β} {m u : Mod} {b : β} (h : r = (u, b)) (hr : f r.1 = f m) : f u = f m := by
  rwa [h] at hr

theorem writeSpans (t : Clk) (rq : Req) (ecc : Ecc) (m : Mod) (l : List (Nat × Nat)) : f (writeSpans t rq ecc m l).1 = f m := by
  fun_induction Machine.writeSpans t rq ecc m l
  case case7 hcheck => exact of_fst hcheck (hf.partialCheck ..)
  case case8 hcheck _ _ hrest ih => exact (of_fst hrest ih).trans (of_fst hcheck (hf.partialCheck ..))
  case case9 hcheck _ _ hrest ih => exact (of_fst hrest ih).trans (of_fst hcheck (hf.partialCheck ..))
  all_goals rfl

theorem readPlace (t : Clk) (m : Mod) (p : Place) (n : Nat) (ecc : Ecc) : f (readPlace t m p n ecc).1 = f m := by
  cases p with
  | hbm => exact hf.checkLine ..
  | tier => exact hf.checkLine ..
  | pool =>
    cases ecc with
    | clean => rfl
    | corrected => exact hf.addCorr ..
    | uncorrectable => exact (hf.ctlFault ..).trans (hf.mem ..)
    | tampered => rfl
  | pad g =>
    cases ecc with
    | clean => rfl
    | corrected => exact (countEv_outside f hf.engine _ g 0x10 1).trans (hf.addCorr m g)
    | uncorrectable => exact (hf.ctlFault ..).trans (hf.mem ..)
    | tampered => rfl
  | _ => rfl

theorem syncEcc (m : Mod) (d i : Nat) (ecc : Ecc) : f (syncEcc m d i ecc) = f m := by
  cases ecc with
  | corrected => exact hf.addCorr ..
  | uncorrectable => exact hf.sync m _
  | _ => rfl

theorem readSpans (t : Clk) (rq : Req) (ecc : Ecc) (m : Mod) (l : List (Nat × Nat)) : f (readSpans t rq ecc m l).1 = f m := by
  fun_induction Machine.readSpans t rq ecc m l
  case case3 => exact hf.syncEcc ..
  case case4 => exact hf.syncEcc ..
  case case6 hplace _ _ hrest ih => exact (of_fst hrest ih).trans (of_fst hplace (hf.readPlace ..))
  case case7 hplace _ _ _ hrest ih => exact (of_fst hrest ih).trans (of_fst hplace (hf.readPlace ..))
  all_goals rfl

theorem readMem (t : Clk) (m : Mod) (rq : Req) (a len : Nat) (ecc : Ecc) : f (readMem t m rq a len ecc).1 = f m := by
  have hspans := hf.readSpans t rq ecc m (spans a len)
  unfold Machine.readMem
  split
  next heq => exact (hf.logErr ..).trans (of_fst heq hspans)
  next => exact hspans

theorem applySignal (t : Clk) (d i n : Nat) (m : Mod) : f (applySignal t d i n m) = f m :=
  applySignal_outside f (fun m sync logs => (hf.logs { m with sync := sync } logs).trans (hf.sync m sync)) ..

omit hf in
theorem foldl {β : Type} {h : Mod → β → Mod} (hh : ∀ u x, f (h u x) = f u) (l : List β) (m : Mod) : f (l.foldl h m) = f m :=
  List.foldlRecOn (motive := fun u => f u = f m) _ _ rfl fun u hu x _ => (hh u x).trans hu

theorem sectorPoison (m : Mod) (a n : Nat) (b : Bool) : f (sectorPoison m a n b) = f m :=
  foldl (fun u _ => hf.mem u _) _ m

theorem writePlace (m : Mod) (p : Place) (data : List Byte) (b : Bool) : f (writePlace m p data b) = f m := by
  cases p with
  | hbm => exact (hf.mem ..).trans (hf.mem ..)
  | tier => exact (hf.mem ..).trans (hf.mem ..)
  | pool => exact (hf.sectorPoison ..).trans (hf.mem ..)
  | pad => exact (hf.sectorPoison ..).trans (hf.mem ..)
  | host =>
    cases b with
    | true => exact (hf.out ..).trans (hf.mem ..)
    | false => exact hf.mem ..
  | sync => exact hf.mem ..
  | nowhere => exact hf.mem ..

theorem applySpans (t : Clk) (b : Bool) (m : Mod) (data : List Byte) (l : List (Place × Nat)) : f (applySpans t b m data l) = f m := by
  induction l generalizing m data with
  | nil => rfl
  | cons x r ih =>
    obtain ⟨p, n⟩ := x
    refine (ih ..).trans ?_
    cases p with
    | sync => exact hf.applySignal ..
    | _ => exact hf.writePlace ..

theorem writeMem (t : Clk) (m : Mod) (rq : Req) (a : Nat) (data : List Byte) (poisoned : Bool) (ecc : Ecc) :
    f (writeMem t m rq a data poisoned ecc).1 = f m := by
  have hspans := hf.writeSpans t rq ecc m (spans a data.length)
  unfold Machine.writeMem
  split
  next heq => exact (hf.logErr ..).trans (of_fst heq hspans)
  next heq => exact (hf.applySpans ..).trans (of_fst heq hspans)

theorem fillXlat (m : Mod) (k va : Nat) (x : Xl) : f (fillXlat m k va x) = f m :=
  hf.part _ _ _ fun p => by split_ifs <;> rfl

theorem fillPages (m : Mod) (rq : Req) (wr : Bool) (a len : Nat) : f (fillPages m rq wr a len) = f m := by
  unfold Machine.fillPages
  split
  · refine foldl (fun u c => ?_) _ m
    split
    · exact hf.fillXlat ..
    · rfl
  · rfl

theorem paramWrite (t : Clk) (r : Requester) (part : Nat) (peerOk : Bool) (s : Shard) (off : Nat) (first : Bool) (bs : List Byte) (m : Mod) :
    f (paramWrite t r part peerOk s off first bs m).1 = f m := by
  unfold Machine.paramWrite
  simp only
  split_ifs
  · exact hf.logErr ..
  · exact hf.writeMem ..

theorem bulkWrite (p : Nat) (k : Packet) (t : Clk) (m : Mod) : f (bulkWrite p k t m) = f m := by
  unfold Machine.bulkWrite
  simp only
  split_ifs
  · exact hf.logErr ..
  · split
    next heq => exact of_fst heq (hf.writeMem ..)
    next heq => exact (hf.fillPages ..).trans (of_fst heq (hf.writeMem ..))

end OutsideAccess

/-! ## Routes -/

/-- What the routes of packets are found by is the same. -/
structure RoutesKept (m u : Mod) : Prop where
  bar0 : u.bar0 = m.bar0
  banks : u.banks = m.banks
  activeMap : ∀ k, activeMap u k = activeMap m k
  st : ∀ q, (port u q).st = (port m q).st
  quiesced : ∀ q, (port u q).quiesced = (port m q).quiesced
  version : ∀ q, (port u q).version = (port m q).version

namespace RoutesKept

theorem refl (m : Mod) : RoutesKept m m := ⟨rfl, rfl, fun _ => rfl, fun _ => rfl, fun _ => rfl, fun _ => rfl⟩

theorem trans {a b c : Mod} (h : RoutesKept a b) (k : RoutesKept b c) : RoutesKept a c :=
  ⟨k.bar0.trans h.bar0, k.banks.trans h.banks, fun j => (k.activeMap j).trans (h.activeMap j), fun q => (k.st q).trans (h.st q),
    fun q => (k.quiesced q).trans (h.quiesced q), fun q => (k.version q).trans (h.version q)⟩

theorem foldl {β : Type} {f : Mod → β → Mod} (hf : ∀ u x, RoutesKept u (f u x)) (l : List β) (m : Mod) : RoutesKept m (l.foldl f m) :=
  List.foldlRecOn (motive := RoutesKept m) _ _ (refl m) fun u hu x _ => hu.trans (hf u x)

/-- Links and partitions are the same, and so is all that a register holds. -/
theorem of_links {m u : Mod} (hbar0 : u.bar0 = m.bar0) (hbanks : u.banks = m.banks) (hmap : ∀ k, Machine.activeMap u k = Machine.activeMap m k)
    (hlinks : u.links = m.links) : RoutesKept m u := by
  have hport : ∀ q, port u q = port m q := fun q => by rw [port, port, hlinks]
  exact ⟨hbar0, hbanks, hmap, fun q => by rw [hport], fun q => by rw [hport], fun q => by rw [hport]⟩

/-- What a value outside of accesses keeps. -/
theorem of_access {m u : Mod} (h : ∀ {α : Type} {f : Mod → α}, OutsideAccess f → f u = f m) : RoutesKept m u :=
  of_links (h outsideAccess_bar0) (h outsideAccess_banks) (fun k => h (outsideAccess_activeMap k)) (h outsideAccess_links)

theorem modPort {f : LPort → LPort} (hf : ∀ l, (f l).st = l.st ∧ (f l).quiesced = l.quiesced ∧ (f l).version = l.version) (m : Mod) (p : Nat) :
    RoutesKept m (modPort m p f) := by
  have hport : ∀ q, (port (Machine.modPort m p f) q).st = (port m q).st ∧ (port (Machine.modPort m p f) q).quiesced = (port m q).quiesced
      ∧ (port (Machine.modPort m p f) q).version = (port m q).version := fun q => by
    rw [port_modPort]
    split_ifs with heq
    · rw [heq]
      exact hf _
    · exact ⟨rfl, rfl, rfl⟩
  exact ⟨rfl, rfl, fun _ => rfl, fun q => (hport q).1, fun q => (hport q).2.1, fun q => (hport q).2.2⟩

theorem sendOn (m : Mod) (p : Nat) (x : TxPkt) : RoutesKept m (sendOn m p x) :=
  modPort (f := fun l => { l with txq := l.txq ++ [x] }) (fun _ => ⟨rfl, rfl, rfl⟩) m p

theorem modPart {f : PartSt → PartSt} (hf : ∀ p, (f p).activeMap = p.activeMap) (m : Mod) (k : Nat) : RoutesKept m (modPart m k f) :=
  of_links rfl rfl (activeMap_modPart_kept hf m k) rfl

variable {m u : Mod} (h : RoutesKept m u)
include h

theorem portPart (q : Nat) : portPart u q = portPart m q := by
  simp only [Machine.portPart, regF, regN, reg, h.bar0]

theorem moduleNum : moduleNum u = moduleNum m := by
  simp only [Machine.moduleNum, regF, regN, reg, h.bar0]

theorem route (k dst : Nat) : route u k dst = route m k dst := by
  have hbank : bank u (Machine.activeMap u k) = bank m (Machine.activeMap m k) := by
    rw [h.activeMap, bank, bank, h.banks]
  unfold Machine.route
  simp only [hbank, h.portPart, h.quiesced, h.st]

end RoutesKept

/-! ## Packets sent -/

theorem routesKept_countTokenDrop (part : Nat) (m : Mod) : RoutesKept m (countTokenDrop part m) :=
  .modPart (f := fun p => { p with tokenDrop := sat32 (p.tokenDrop + 1) }) (fun _ => rfl) m part

theorem routesKept_sendReply (part : Nat) (k : Packet) (m : Mod) : RoutesKept m (sendReply part k m) := by
  unfold sendReply
  split
  · split_ifs
    · exact routesKept_countTokenDrop ..
    · exact .sendOn ..
  · exact .refl m

theorem txq_sendOn (m : Mod) (p q : Nat) (x : TxPkt) :
    (port (sendOn m p x) q).txq = if q = p then (port m p).txq ++ [x] else (port m q).txq := by
  rw [sendOn, port_modPort]
  split_ifs <;> rfl

/-- What waits to be sent goes on waiting. -/
theorem txq_sendOn_subset (m : Mod) (p q : Nat) (x : TxPkt) : (port m q).txq ⊆ (port (sendOn m p x) q).txq := by
  rw [txq_sendOn]
  split_ifs with heq
  · rw [heq]
    exact List.subset_append_left ..
  · exact List.Subset.refl _

theorem mem_txq_sendOn (m : Mod) (p : Nat) (x : TxPkt) : x ∈ (port (sendOn m p x) p).txq := by
  simp [txq_sendOn]

theorem txq_sendReply_subset (part q : Nat) (k : Packet) (m : Mod) : (port m q).txq ⊆ (port (sendReply part k m) q).txq := by
  unfold sendReply
  split
  · split_ifs
    · exact List.Subset.refl _
    · exact txq_sendOn_subset ..
  · exact List.Subset.refl _

/-- A packet of VC0 or VC1 whose destination has a route waits at its port. -/
theorem mem_txq_sendReply {part q : Nat} {k : Packet} {m : Mod} (hroute : route m part k.dst.toNat = .ok q) (hvc : k.vc ≠ 2) :
    ∃ x ∈ (port (sendReply part k m) q).txq, x.pkt = k :=
  ⟨{ pkt := k, deps := [], task := none, works := [] }, by simp [sendReply, hroute, hvc, mem_txq_sendOn], rfl⟩

end Sys2Proof.Machine
end

/-! # PARAM and BULK (R383, R384, R413, R414)

Both write through the checks of an access, which leave ports and routes as they are; so what is counted and acknowledged is read from
the module before the write. -/

section
namespace Sys2Proof.Machine

theorem exec_param (p : Port) (k : Packet) (s : State) : exec (.param p k) s
    = onPort (fun t m => if packetHeld m p.val k then m else onPacket 0x12 p.val k (paramIn p.val k) t m) s := rfl

theorem exec_bulk (p : Port) (k : Packet) (s : State) : exec (.bulk p k) s
    = onPort (fun t m => if packetHeld m p.val k then m else onPacket 0x30 p.val k (bulkIn p.val k) t m) s := rfl

theorem exec_bulkPause (p : Port) (s : State) : exec (.bulkPause p) s = onPort (fun _ m => bulkPause p.val m) s := rfl

/-- A packet whose write is not held is taken in. -/
theorem onPacket_of_free {m : Mod} {p typ : Nat} {k : Packet} (hold : oldest m p k typ) (hfree : packetHeld m p k = false)
    (act : Clk → Mod → Mod) (t : Clk) : (if packetHeld m p k then m else onPacket typ p k act t m) = act t (takenIn m p k) := by
  rw [hfree, if_neg Bool.false_ne_true, onPacket_of_oldest hold]

theorem routesKept_takenIn (m : Mod) (p : Nat) (k : Packet) : RoutesKept m (takenIn m p k) :=
  .modPort (f := fun l => creditBack k.vc.val (1 + bodyFlits k) { l with rxq := l.rxq.erase k, stamps := l.stamps.filter fun x => x.1 != k.pseq })
    (fun _ => ⟨rfl, rfl, rfl⟩) m p

theorem port_takenIn (m : Mod) (p : Nat) (k : Packet) : port (takenIn m p k) p = creditBack k.vc.val (1 + bodyFlits k)
    { port m p with rxq := (port m p).rxq.erase k, stamps := (port m p).stamps.filter fun x => x.1 != k.pseq } :=
  (port_modPort ..).trans (if_pos rfl)

theorem ofNat_port (p : Port) : Fin.ofNat 18 p.val = p := Fin.ofNat_val_eq_self p

/-! ## PARAM -/

section
variable (src sid : Nat)

/-- A source's tile for a shard is as it was set. -/
theorem paramState_setParam (v : Option Bool) (m : Mod) : paramState (setParam src sid v m) src sid = v := by
  have hgone : ∀ x ∈ m.xch.params.filter (fun y => !(y.1 / 2 == src && y.2 == sid)), ¬ (x.1 / 2 == src && x.2 == sid) = true := fun x hx =>
    (Bool.not_eq_true' _ ▸ (List.mem_filter.1 hx).2 : (x.1 / 2 == src && x.2 == sid) = false) ▸ Bool.false_ne_true
  have hnone := List.find?_eq_none.2 hgone
  cases v with
  | none => simp only [paramState, setParam, modXch, List.append_nil, hnone, Option.map_none]
  | some b =>
    have hkey : (2 * src + b2n b) / 2 = src ∧ ((2 * src + b2n b) % 2 == 1) = b := by
      cases b <;> simp [b2n]; omega
    simp only [paramState, setParam, modXch, List.find?_append, hnone, Option.none_or, List.find?_singleton, hkey.1, beq_self_eq_true,
      Bool.and_self, if_true, Option.map_some, hkey.2]

/-- What the module makes of a packet of a tile once it is written: the tile goes on, or ends, and the arrival counter rises after
the last packet of one that nothing was refused of. -/
def paramTaken (t : Clk) (part : Nat) (s : Shard) (last refused : Bool) (m : Mod) : Mod :=
  if last then (if refused then setParam src sid none m else arrivalSignal t part s (setParam src sid none m))
  else setParam src sid (some refused) m

variable {t : Clk} {part : Nat} {s : Shard} {last refused : Bool} {m : Mod}

theorem mem_arrivalSignal : (arrivalSignal t part s m).mem = m.mem := by
  unfold arrivalSignal
  split
  · exact applySignal_outside (·.mem) (fun _ _ _ => rfl) ..
  · rfl

theorem xch_arrivalSignal : (arrivalSignal t part s m).xch = m.xch := by
  unfold arrivalSignal
  split
  · exact applySignal_outside (·.xch) (fun _ _ _ => rfl) ..
  · rfl

theorem mem_paramTaken : (paramTaken src sid t part s last refused m).mem = m.mem := by
  unfold paramTaken
  split_ifs
  · rfl
  · exact mem_arrivalSignal
  · rfl

theorem paramState_paramTaken :
    paramState (paramTaken src sid t part s last refused m) src sid = if last then none else some refused := by
  unfold paramTaken
  split_ifs
  · exact paramState_setParam ..
  · rw [paramState, xch_arrivalSignal]
    exact paramState_setParam ..
  · exact paramState_setParam ..

theorem syncObj_paramTaken (hlast : last = true) (hok : refused = false) (hen : s.arriveEn = true) {d : Nat}
    (hd : (partDies m part)[s.arriveDie]? = some d) :
    syncObj (paramTaken src sid t part s last refused m) d s.arriveObj = signalObj (syncObj m d s.arriveObj) 1 := by
  have hdies : (partDies (setParam src sid none m) part)[s.arriveDie]? = some d := hd
  simp only [paramTaken, hlast, hok, if_true, Bool.false_eq_true, if_false, arrivalSignal, hen, hdies]
  exact syncObj_applySignal ..

theorem sync_paramTaken (h : last = false ∨ refused = true ∨ s.arriveEn = false) :
    (paramTaken src sid t part s last refused m).sync = m.sync := by
  unfold paramTaken
  split_ifs with hlast hrefused
  · rfl
  · have hen : s.arriveEn = false := by simpa [hlast, hrefused] using h
    simp only [arrivalSignal, hen]
    rfl
  · rfl

end

/-- A packet of a tile of the port's partition: its write, and what the module makes of it. -/
theorem paramIn_eq {p : Port} {k : Packet} {t : Clk} {m : Mod} {l : Layout} {sh : Shard} (hshard : lookShard m k.arg.toNat = .ok (l, sh))
    (hpart : l.part = portPart m p) :
    let was := paramState m k.src.toNat k.arg.toNat
    let r := paramWrite t (.link p) (portPart m p) (inDeviceSet m (portPart m p) (port m p).peer) sh k.addr.toNat was.isNone
      (slice k.body 0 (min 4096 (ifld k 0x20 4))) m
    paramIn p k t m = paramTaken k.src.toNat k.arg.toNat t (portPart m p) sh (bit (ifld k 0x24 1) 0) (r.2.isSome || was == some true) r.1 := by
  simp only [paramIn, hshard, hpart, ne_eq, not_true_eq_false, if_false, ofNat_port]
  rfl

/-! ## WRITE_ACK -/

theorem mem_sendReply (part : Nat) (k : Packet) (m : Mod) : (sendReply part k m).mem = m.mem := by
  unfold sendReply
  split
  · split_ifs <;> rfl
  · rfl

theorem bulkSince_sendReply (part : Nat) (k : Packet) (m : Mod) (q : Nat) : (port (sendReply part k m) q).bulkSince = (port m q).bulkSince := by
  unfold sendReply
  split
  · split_ifs
    · rfl
    · rw [sendOn, port_modPort]
      split_ifs with heq
      · rw [heq]
      · rfl
  · rfl

/-- A WRITE_ACK for n packets of a module, as it waits to be sent. -/
def IsAck (src n : Nat) (x : TxPkt) : Prop := x.pkt.typ = 0x07 ∧ x.pkt.dst = BitVec.ofNat 14 src ∧ x.pkt.arg = BitVec.ofNat 32 n

theorem ack_mem_sendAck {p src n q : Nat} {m : Mod} (hsrc : src < 2 ^ 14) (hroute : route m (portPart m p) src = .ok q) :
    ∃ x ∈ (port (sendAck p src n m) q).txq, IsAck src n x := by
  have hdst : (BitVec.ofNat 14 src).toNat = src := BitVec.toNat_ofNat .. ▸ Nat.mod_eq_of_lt hsrc
  obtain ⟨x, hx, hpkt⟩ := mem_txq_sendReply (part := portPart m p)
    (k := packet m (portPart m p) 0x07 0 src 0 0 n 0 [] []) (by simpa only [packet, hdst] using hroute) (by simp [packet])
  exact ⟨x, hx, by rw [IsAck, hpkt]; exact ⟨rfl, rfl, rfl⟩⟩

theorem mem_acks (p : Nat) (l : List (Nat × Nat)) (m : Mod) : (l.foldl (fun m x => sendAck p x.1 x.2 m) m).mem = m.mem :=
  List.foldlRecOn (motive := fun u : Mod => u.mem = m.mem) _ _ rfl fun _ hu _ _ => (mem_sendReply ..).trans hu

theorem bulkSince_acks (p q : Nat) (l : List (Nat × Nat)) (m : Mod) :
    (port (l.foldl (fun m x => sendAck p x.1 x.2 m) m) q).bulkSince = (port m q).bulkSince :=
  List.foldlRecOn (motive := fun u : Mod => (port u q).bulkSince = (port m q).bulkSince) _ _ rfl fun _ hu _ _ =>
    (bulkSince_sendReply ..).trans hu

theorem txq_acks_subset (p q : Nat) (l : List (Nat × Nat)) (m : Mod) :
    (port m q).txq ⊆ (port (l.foldl (fun m x => sendAck p x.1 x.2 m) m) q).txq :=
  List.foldlRecOn (motive := fun u : Mod => (port m q).txq ⊆ (port u q).txq) _ _ (List.Subset.refl _) fun _ hu _ _ =>
    List.Subset.trans hu (txq_sendReply_subset ..)

/-- Every source of a list is sent what it is owed. -/
theorem ack_mem_acks {p src n q : Nat} {l : List (Nat × Nat)} {m : Mod} (hx : (src, n) ∈ l) (hsrc : src < 2 ^ 14)
    (hroute : route m (portPart m p) src = .ok q) : ∃ x ∈ (port (l.foldl (fun m x => sendAck p x.1 x.2 m) m) q).txq, IsAck src n x := by
  induction l generalizing m with
  | nil => exact absurd hx List.not_mem_nil
  | cons y r ih =>
    rcases List.mem_cons.1 hx with rfl | hrest
    · obtain ⟨x, hmem, hack⟩ := ack_mem_sendAck (n := n) hsrc hroute
      exact ⟨x, txq_acks_subset p q r _ hmem, hack⟩
    · have hkept : RoutesKept m (sendAck p y.1 y.2 m) := routesKept_sendReply ..
      exact ih hrest (by rw [hkept.portPart, hkept.route, hroute])

/-! ## BULK -/

theorem bulkIn_counts {p : Nat} {k : Packet} {t : Clk} {m : Mod} {n : Nat} (hn : sget 0 (port m p).bulkSince k.src.toNat + 1 = n) :
    bulkIn p k t m = if n < 16 then modPort (bulkWrite p k t m) p fun l => { l with bulkSince := sset 0 l.bulkSince k.src.toNat n }
      else sendAck p k.src.toNat 16 (modPort (bulkWrite p k t m) p fun l => { l with bulkSince := sset 0 l.bulkSince k.src.toNat 0 }) := by
  have hport : port (bulkWrite p k t m) p = port m p := by rw [port, port, outsideAccess_links.bulkWrite]
  simp only [bulkIn, hport, hn]

theorem bulkSince_setBulk (m : Mod) (p src n : Nat) :
    sget 0 (port (modPort m p fun l => { l with bulkSince := sset 0 l.bulkSince src n }) p).bulkSince src = n := by
  rw [port_modPort, if_pos rfl]
  exact sget_sset_same ..

theorem routesKept_setBulk (m : Mod) (p src n : Nat) : RoutesKept m (modPort m p fun l => { l with bulkSince := sset 0 l.bulkSince src n }) :=
  .modPort (f := fun l => { l with bulkSince := sset 0 l.bulkSince src n }) (fun _ => ⟨rfl, rfl, rfl⟩) m p

theorem mem_bulkIn (p : Nat) (k : Packet) (t : Clk) (m : Mod) : (bulkIn p k t m).mem = (bulkWrite p k t m).mem := by
  rw [bulkIn_counts rfl]
  split_ifs
  · rfl
  · exact mem_sendReply ..

theorem bulkSince_bulkIn {p : Nat} {k : Packet} {t : Clk} {m : Mod} {n : Nat} (hn : sget 0 (port m p).bulkSince k.src.toNat + 1 = n) :
    sget 0 (port (bulkIn p k t m) p).bulkSince k.src.toNat = if n < 16 then n else 0 := by
  rw [bulkIn_counts hn]
  split_ifs
  · exact bulkSince_setBulk ..
  · rw [sendAck, bulkSince_sendReply]
    exact bulkSince_setBulk ..

/-- The sixteenth packet of a source since its last WRITE_ACK is answered by one. -/
theorem ack_mem_bulkIn {p : Nat} {k : Packet} {t : Clk} {m : Mod} {n q : Nat} (hn : sget 0 (port m p).bulkSince k.src.toNat + 1 = n)
    (hmany : 16 ≤ n) (hroute : route m (portPart m p) k.src.toNat = .ok q) :
    ∃ x ∈ (port (bulkIn p k t m) q).txq, IsAck k.src.toNat 16 x := by
  have hkept : RoutesKept m (modPort (bulkWrite p k t m) p fun l => { l with bulkSince := sset 0 l.bulkSince k.src.toNat 0 }) :=
    (RoutesKept.of_access fun hf => hf.bulkWrite p k t m).trans (routesKept_setBulk ..)
  rw [bulkIn_counts hn, if_neg (Nat.not_lt.2 hmany)]
  exact ack_mem_sendAck k.src.isLt (by rw [hkept.portPart, hkept.route, hroute])

/-! ## BULK_PAUSE -/

section
variable (p : Nat) (m : Mod)

theorem mem_bulkPause : (bulkPause p m).mem = m.mem := mem_acks ..

theorem bulkSince_bulkPause : (port (bulkPause p m) p).bulkSince = [] :=
  (bulkSince_acks ..).trans (by rw [port_modPort, if_pos rfl])

variable {p m}

theorem ack_mem_bulkPause {src n q : Nat} (hx : (src, n) ∈ (port m p).bulkSince) (hsrc : src < 2 ^ 14)
    (hroute : route m (portPart m p) src = .ok q) : ∃ x ∈ (port (bulkPause p m) q).txq, IsAck src n x := by
  have hkept : RoutesKept m (modPort m p fun l => { l with bulkSince := [] }) :=
    .modPort (f := fun l => { l with bulkSince := [] }) (fun _ => ⟨rfl, rfl, rfl⟩) m p
  exact ack_mem_acks hx hsrc (by rw [hkept.portPart, hkept.route, hroute])

end

end Sys2Proof.Machine

namespace Sys2Proof
open Machine

/-- Settles O51: a packet of a tile is `paramTaken` once it is written (R383, R384), a BULK packet counts toward the sixteenth of its
source, which `sendAck` answers (R414), and a pause answers every source for what is left. -/
theorem bulkData : Obligations.BulkData := by
  unfold Obligations.BulkData
  intro p k s m1 part
  have hpeer : (port m1 p).peer = (port s.m p).peer := by rw [port_takenIn]; rfl
  have hsince : (port m1 p).bulkSince = (port s.m p).bulkSince := by rw [port_takenIn]; rfl
  have hroute : ∀ dst, route m1 (portPart m1 p) dst = route s.m part dst := (routesKept_takenIn s.m p k).route part
  refine ⟨?param, ?held, ?bulk, ?pause⟩
  case param =>
    intro l sh hold hfree hshard hpart src sid was last r refused
    have hin : paramIn p k s.clk m1 = paramTaken src sid s.clk part sh last refused r.1 := by
      have heq := paramIn_eq (t := s.clk) (m := m1) hshard hpart
      rw [hpeer] at heq
      exact heq
    have hdies : ∀ n, partDies r.1 n = partDies s.m n := fun n => by
      have hbar : r.1.bar0 = s.m.bar0 := outsideAccess_bar0.paramWrite ..
      simp only [partDies, partPairs, regF, regN, reg, hbar]
    rw [exec_param]
    refine links_onPort ?_
    rw [onPacket_of_free hold hfree, hin]
    exact ⟨mem_paramTaken .., paramState_paramTaken .., fun hlast hok hen d hd =>
      syncObj_paramTaken _ _ hlast hok hen ((hdies part).symm ▸ hd), sync_paramTaken _ _⟩
  case held =>
    intro _ hheld
    refine ⟨_, rfl, ?_⟩
    dsimp only
    rw [hheld, if_pos rfl]
  case bulk =>
    intro hold hfree src n
    have hn : sget 0 (port m1 p).bulkSince src + 1 = n := by rw [hsince]
    rw [exec_bulk]
    refine links_onPort ?_
    rw [onPacket_of_free hold hfree]
    refine ⟨mem_bulkIn .., bulkSince_bulkIn hn, fun hmany q hq => ?_⟩
    obtain ⟨x, hx, htyp, hdst, harg⟩ := ack_mem_bulkIn hn hmany ((hroute src).trans hq)
    exact ⟨x, hx, htyp, hdst.trans (BitVec.ofNat_toNat ..), harg⟩
  case pause =>
    rw [exec_bulkPause]
    exact links_onPort ⟨bulkSince_bulkPause .., mem_bulkPause .., fun _ _ hx hsrc _ hq => ack_mem_bulkPause hx hsrc hq⟩

end Sys2Proof
end

/-! # Packets of a layout's epoch (R372 to R374, R380 to R382, R388)

A packet is held, dropped or given to its layout by `byEpoch` alone, whatever its row. The packets that NORM and REDUCE meet are taken
out of their ports, which no round is read from; and what follows in a complete pre-round leaves the list of pre-rounds as it is. -/

section
namespace Sys2Proof.Machine

/-! ## Applied, held or dropped -/

theorem exec_norm (p : Port) (k : Packet) (s : State) : exec (.norm p k) s = onPort (onPacket 0x05 p.val k (normIn p.val k)) s := rfl

theorem exec_normResult (p : Port) (k : Packet) (s : State) :
    exec (.normResult p k) s = onPort (onPacket 0x06 p.val k (normResultIn p.val k)) s := rfl

theorem exec_reduce (p : Port) (k : Packet) (s : State) : exec (.reduce p k) s = onPort (onPacket 0x10 p.val k (reduceIn p.val k)) s := rfl

theorem exec_report (p : Port) (k : Packet) (s : State) : exec (.report p k) s = onPort (onPacket 0x11 p.val k (reportIn p.val k)) s := rfl

theorem exec_epochFutureTimeout (i : Nat) (s : State) : exec (.epochFutureTimeout i) s = onPort (futureTimeout i) s := rfl

/-- Every packet of an epoch is taken in and given to its layout. -/
theorem exec_epochRow {p : Port} {k : Packet} {row : Instr × Nat}
    (hrow : row ∈ [(Instr.norm p k, 0x05), (Instr.normResult p k, 0x06), (Instr.reduce p k, 0x10), (Instr.report p k, 0x11)]) (s : State) :
    ∃ act : Clk → Layout → Bool → Mod → Mod,
      exec row.1 s = onPort (onPacket row.2 p.val k fun t m => byEpoch t p.val k (act t) m) s := by
  simp only [List.mem_cons, List.not_mem_nil, or_false] at hrow
  obtain rfl | rfl | rfl | rfl := hrow <;> exact ⟨_, rfl⟩

section
variable {t : Clk} {p : Nat} {k : Packet} {act : Layout → Bool → Mod → Mod} {m : Mod}

theorem byEpoch_future (h : epochAt m k.epoch.toNat = .future) :
    byEpoch t p k act m = modXch m fun x => { x with future := x.future ++ [(p, k, t.now)] } := by simp only [byEpoch, h]

theorem byEpoch_other (h : epochAt m k.epoch.toNat = .other) : byEpoch t p k act m = epochDropAt t p fEpochStale k m := by
  simp only [byEpoch, h]

theorem byEpoch_current {l : Layout} (h : epochAt m k.epoch.toNat = .current l) (hpart : l.part = portPart m p) :
    byEpoch t p k act m = act l false m := by simp only [byEpoch, h, hpart, if_true]

theorem partSt_logFault (t : Clk) (g : Nat) (e : FEntry) (m : Mod) (k : Nat) : partSt (logFault t g e m) k = partSt m k := rfl

theorem epochDrop_epochDropAt (typ : Byte) : (partSt (epochDropAt t p typ k m) (portPart m p)).epochDrop
    = sat32 ((partSt m (portPart m p)).epochDrop + 1) := by
  rw [epochDropAt, linkLog, partSt_logFault, countEpochDrop, partSt_modPart, if_pos rfl]

theorem flog_epochDropAt (typ : Byte) : (flog (epochDropAt t p typ k m) (logLD (portDie p))).last.typ = typ
    ∧ (flog (epochDropAt t p typ k m) (logLD (portDie p))).last.addr = BitVec.ofNat 64 k.arg.toNat := by
  simp only [epochDropAt, linkLog, flog_logFault]
  exact ⟨rfl, rfl⟩

end

theorem futureTimeout_due {i p at_ : Nat} {k : Packet} {t : Clk} {m : Mod} (h : m.xch.future[i]? = some (p, k, at_)) (hdue : at_ + 65536 ≤ t.now) :
    futureTimeout i t m = epochDropAt t p fEpochFuture k (modXch m fun x => { x with future := x.future.eraseIdx i }) := by
  simp only [futureTimeout, h, Nat.not_lt.2 hdue, if_false]

/-! ## What a packet meets at other ports leaves all but the ports -/

section
variable {α : Type} (f : Mod → α) (hf : ∀ m q g, f (modPort m q g) = f m)
include hf

theorem takenIn_outside (m : Mod) (p : Nat) (k : Packet) : f (takenIn m p k) = f m := hf ..

theorem meetNorm_outside (p : Nat) (k : Packet) (m : Mod) : f (meetNorm p k m).2 = f m :=
  List.foldlRecOn (motive := fun acc : Packet × Mod => f acc.2 = f m) _ _ rfl fun _ hacc _ _ => (hf ..).trans hacc

theorem meetReduce_outside (p : Nat) (k : Packet) (m : Mod) : f (meetReduce p k m).2 = f m := by
  refine List.foldlRecOn (motive := fun acc : Bundle × Mod => f acc.2 = f m) _ _ rfl fun acc hacc x _ => ?_
  split
  · exact (hf ..).trans hacc
  · exact hacc

end

/-! ## Drops at the owner's die -/

theorem conflict_dropConflict (t : Clk) (die part shard : Nat) (d : W64) (m : Mod) :
    (partSt (dropConflict t die part shard d m) part).conflict = sat32 ((partSt m part).conflict + 1) := by
  rw [dropConflict, ownerLog, partSt_logFault, partSt_modPart, if_pos rfl]

theorem staleRound_dropStaleRound (t : Clk) (die part shard : Nat) (d : W64) (m : Mod) :
    (partSt (dropStaleRound t die part shard d m) part).staleRound = sat32 ((partSt m part).staleRound + 1) := by
  rw [dropStaleRound, ownerLog, partSt_logFault, partSt_modPart, if_pos rfl]

/-! ## NORM (R381) -/

/-- A pre-round with one more contribution. -/
def addNorm (y : PreRound) (v : W32) (count occ : Nat) : PreRound :=
  { y with sum := fadd y.sum v, count := y.count + count, occ := y.occ + occ }

/-- What the root makes of a pre-round that has a contribution more: it is kept, or complete and its result sent. -/
def joinPre (t : Clk) (l : Layout) (set : Nat) (s : NormSet) (y : PreRound) (m : Mod) : Mod :=
  let m1 := modXch m fun x => { x with pre := (x.pre.filter fun z => z.set != set) ++ [y] }
  if y.count + y.occ ≥ s.nexpect then sendResult t l s y (modXch m1 fun x => { x with pre := x.pre.filter fun z => z.set != set }) else m1

theorem xch_normDests (t : Clk) (l : Layout) (s : NormSet) (m : Mod) : (normDests t l s m).1.xch = m.xch := by
  have hspans := outsideAccess_xch.readSpans t
    { who := .core (Fin.ofNat 64 (4 * s.rootDie)), part := some l.part, phys := false, owner := none } .clean m (spans s.destVa.toNat (2 * s.destCount))
  unfold normDests
  simp only
  split
  · next heq => rwa [heq] at hspans
  · next heq => rwa [heq] at hspans
  · next heq => rwa [heq] at hspans

/-- A result that goes out opens and closes no pre-round. -/
theorem pre_sendResult (t : Clk) (l : Layout) (s : NormSet) (y : PreRound) (m : Mod) : (sendResult t l s y m).xch.pre = m.xch.pre := by
  unfold sendResult
  simp only
  have hdests : (normDests t l s m).1.xch.pre = m.xch.pre := by rw [xch_normDests]
  refine List.foldlRecOn (motive := fun u : Mod => u.xch.pre = m.xch.pre) _ _ hdests fun u hu d _ => ?_
  split_ifs
  · exact hu
  · split <;> exact hu

theorem find?_preFiltered (l : List PreRound) (set : Nat) : (l.filter fun z => z.set != set).find? (fun z => z.set == set) = none :=
  List.find?_eq_none.2 fun z hz => by simpa using (List.mem_filter.1 hz).2

theorem find?_joinPre {t : Clk} {l : Layout} {s : NormSet} {y : PreRound} (m : Mod) :
    (joinPre t l y.set s y m).xch.pre.find? (fun z => z.set == y.set) = if s.nexpect ≤ y.count + y.occ then none else some y := by
  unfold joinPre
  simp only [ge_iff_le]
  split_ifs
  · rw [pre_sendResult]
    exact find?_preFiltered ..
  · simp only [modXch, List.find?_append, find?_preFiltered, Option.none_or, List.find?_singleton, beq_self_eq_true, if_true]

section
variable {t : Clk} {l : Layout} {set : Nat} {s : NormSet} {dn : W64} {v : W32} {count occ : Nat} {m : Mod}

/-- The pre-round of a set that has none open. -/
def newPre (l : Layout) (set : Nat) (dn : W64) : PreRound := { set := set, d := dn, epoch := l.epoch, sum := 0, count := 0, occ := 0 }

theorem normArrive_opens (h : m.xch.pre.find? (fun z => z.set == set) = none) :
    normArrive t l false set s dn v count occ m = joinPre t l set s (addNorm (newPre l set dn) v count occ) m := by
  simp only [normArrive, h, Bool.false_and, Bool.false_eq_true, if_false]
  rfl

variable {y : PreRound} (h : m.xch.pre.find? (fun z => z.set == set) = some y)
include h

theorem normArrive_joins (hd : y.d = dn) : normArrive t l false set s dn v count occ m = joinPre t l set s (addNorm y v count occ) m := by
  subst hd
  simp only [normArrive, h, if_true]
  rfl

theorem normArrive_conflict (hd : y.d.toNat < dn.toNat) :
    normArrive t l false set s dn v count occ m = dropConflict t s.rootDie l.part set dn m := by
  have hne : y.d ≠ dn := fun heq => absurd (heq ▸ hd) (Nat.lt_irrefl _)
  simp only [normArrive, h, hne, hd, if_true, if_false]

theorem normArrive_stale (hd : dn.toNat < y.d.toNat) :
    normArrive t l false set s dn v count occ m = dropStaleRound t s.rootDie l.part set dn m := by
  have hne : y.d ≠ dn := fun heq => absurd (heq ▸ hd) (Nat.lt_irrefl _)
  simp only [normArrive, h, hne, Nat.not_lt.2 hd.le, if_false]

end

/-- A NORM of this layout at the root of its set arrives with what it met. -/
theorem normIn_current {t : Clk} {p : Nat} {k : Packet} {m : Mod} {l : Layout} {n : NormSet} (h : epochAt m k.epoch.toNat = .current l)
    (hpart : l.part = portPart m p) (hset : normSetOf l k.arg.toNat = some n) (hroot : n.rootModule = moduleNum m) :
    let met := meetNorm p k m
    normIn p k t m = normArrive t l false k.arg.toNat n (inl64 k) (BitVec.ofNat 32 (ifld met.1 0x28 4)) (ifld met.1 0x2C 4)
      (ifld met.1 0x30 4) met.2 := by
  simp only [normIn, byEpoch_current h hpart, hset, hroot, ne_eq, not_true_eq_false, if_false]

/-- Of the results of a set, the two latest are kept (R382). -/
theorem results_keepResult (set : Nat) (r : NormRes) (m : Mod) : sget [] (keepResult set r m).xch.results set
    = (sget [] m.xch.results set ++ [r]).drop ((sget [] m.xch.results set).length - 1) := by
  rw [keepResult, modXch, sget_smod_same]

/-! ## REDUCE and REPORT (R372 to R374) -/

section
variable {α : Type} {f : Mod → α} (hf : OutsideAccess f)
include hf

theorem poisonLines_outside (m : Mod) (a n : Nat) : f (poisonLines m a n) = f m := OutsideAccess.foldl (fun u _ => hf.mem u _) _ m

theorem putSum_outside (a : Nat) (bs : List Byte) (b : Bool) (m : Mod) : f (putSum a bs b m) = f m := by
  unfold putSum
  simp only
  split_ifs
  · exact (poisonLines_outside hf ..).trans (hf.mem ..)
  · exact hf.mem ..

theorem reduceAt_outside (ps : List (Nat × Nat × Nat)) (op n : Nat) (payload : List Byte) (b : Bool) (m : Mod) :
    f (reduceAt ps op n payload b m).1 = f m := by
  obtain rfl | rfl | rfl | hop := reduceOp_cases op
  · exact putSum_outside hf ..
  · exact putSum_outside hf ..
  · rw [reduceAt_merge]
    refine List.foldlRecOn (motive := fun acc : Mod × ReduceOut => f acc.1 = f m) _ _ rfl fun acc hacc p _ => ?_
    unfold mergePair
    split_ifs
    · exact (putSum_outside hf ..).trans hacc
    · exact hacc
  · rw [reduceAt_counts _ _ _ _ _ hop, putSum_outside hf, putSum_outside hf]

end

theorem outsideAccess_conflict (k : Nat) : OutsideAccess fun m => (partSt m k).conflict where
  engine _ _ _ := rfl
  logs _ _ := rfl
  mem _ _ := rfl
  sync _ _ := rfl
  out _ _ := rfl
  part m j h hh := by
    rw [partSt_modPart]
    split_ifs with heq
    · rw [hh, heq]
    · rfl

section
variable {t : Clk} {l : Layout} {sid : Nat} {s : Shard} {d : W64} {m : Mod}

/-- The round of a shard that has none open. -/
def newRound (l : Layout) (sid : Nat) (d : W64) : Round := { shard := sid, d := d, epoch := l.epoch, parts := [] }

theorem enterRound_opens (h : roundOf m sid = none) :
    enterRound t l false sid s d m = (true, modXch m fun x => { x with rounds := x.rounds ++ [newRound l sid d] }) := by
  simp only [enterRound, h, Bool.false_and, Bool.false_eq_true, if_false]
  rfl

theorem roundOf_opened (h : roundOf m sid = none) :
    roundOf (modXch m fun x => { x with rounds := x.rounds ++ [newRound l sid d] }) sid = some (newRound l sid d) := by
  have hnone : m.xch.rounds.find? (fun r => r.shard == sid) = none := h
  simp only [roundOf, modXch, List.find?_append, hnone, Option.none_or, newRound, List.find?_singleton, beq_self_eq_true, if_true]

theorem roundOf_modRound {f : Round → Round} (hf : ∀ r, (f r).shard = r.shard) (m : Mod) (sid : Nat) :
    roundOf (modRound m sid f) sid = (roundOf m sid).map f := by
  simp only [roundOf, modRound, modXch]
  induction m.xch.rounds with
  | nil => rfl
  | cons r rest ih =>
    rw [List.map_cons]
    by_cases h : r.shard = sid
    · rw [if_pos h, List.find?_cons_of_pos (by simp [hf, h]), List.find?_cons_of_pos (by simp [h])]
      rfl
    · rw [if_neg h, List.find?_cons_of_neg (by simpa using h), List.find?_cons_of_neg (by simpa using h), ih]

variable {r : Round} (h : roundOf m sid = some r)
include h

theorem enterRound_same (hd : r.d = d) (old : Bool) : enterRound t l old sid s d m = (true, m) := by
  simp only [enterRound, h, hd, if_true]

theorem enterRound_conflict (hd : r.d.toNat < d.toNat) (old : Bool) :
    enterRound t l old sid s d m = (false, dropConflict t (ownerDie s) l.part sid d m) := by
  have hne : r.d ≠ d := fun heq => absurd (heq ▸ hd) (Nat.lt_irrefl _)
  simp only [enterRound, h, hne, hd, if_true, if_false]

theorem enterRound_stale (hd : d.toNat < r.d.toNat) (old : Bool) :
    enterRound t l old sid s d m = (false, dropStaleRound t (ownerDie s) l.part sid d m) := by
  have hne : r.d ≠ d := fun heq => absurd (heq ▸ hd) (Nat.lt_irrefl _)
  simp only [enterRound, h, hne, Nat.not_lt.2 hd.le, if_false]

end

/-- Data of another module, applied to the buffer line by line. -/
def ownerSums (t : Clk) (l : Layout) (s : Shard) (op : Nat) (recs : List RRec) (m : Mod) : Mod :=
  let base := poolAddr (ownerDie s) s.buf
  recs.foldl (fun m r =>
    let a := if op = 3 then base else base + 256 * r.line
    let (m', o) := reduceAt (onePiece a (max 512 (bufBytes s))) op (elems s) r.bytes false m
    let m2 := o.past.foldl (fun m i => ownerLog t (ownerDie s) fAccess l.part (a + 4 * i) 0 m) m'
    if o.sat then (none : Option Nat).elim m2 (fun tk => modProg m2 (ctx m2 (tk / 4) (tk % 4)).part fun p => { p with sat := true }) else m2) m

theorem ownerSums_outside {α : Type} {f : Mod → α} (hf : OutsideAccess f) (t : Clk) (l : Layout) (s : Shard) (op : Nat) (recs : List RRec)
    (m : Mod) : f (ownerSums t l s op recs m) = f m := by
  refine OutsideAccess.foldl (fun u r => ?_) _ m
  simp only [Option.elim_none, ite_self]
  exact (OutsideAccess.foldl (fun v i => hf.logFault ..) _ _).trans (reduceAt_outside hf ..)

/-- One part of a round counts what has been applied to it. -/
def countApplied (recs : List RRec) (q : RPart) : RPart := { q with applied := q.applied + (recs.map (·.count)).foldl (· + ·) 0 }

/-- One part of a round counts a report. -/
def countReport (packets : Nat) (occ : Bool) (q : RPart) : RPart :=
  { q with reports := q.reports + 1, occulted := q.occulted + b2n occ, named := q.named + packets }

section
variable {t : Clk} {l : Layout} {sid : Nat} {s : Shard} {d : W64} {m m1 : Mod} {old : Bool} (part : Nat)

theorem ownerData_enters (h : enterRound t l old sid s d m = (true, m1)) (op : Nat) (recs : List RRec) :
    ownerData t none l old sid s d part op recs m
      = modRound (ownerSums t l s op recs m1) sid (modRPart part (countApplied recs)) := by
  simp only [ownerData, h]
  rfl

theorem ownerData_drops (h : enterRound t l old sid s d m = (false, m1)) (op : Nat) (recs : List RRec) :
    ownerData t none l old sid s d part op recs m = m1 := by
  simp only [ownerData, h]

theorem ownerReport_enters (h : enterRound t l old sid s d m = (true, m1)) (packets : Nat) (occ : Bool) :
    ownerReport t l old sid s d part packets occ m = modRound m1 sid (modRPart part (countReport packets occ)) := by
  simp only [ownerReport, h]
  rfl

theorem ownerReport_drops (h : enterRound t l old sid s d m = (false, m1)) (packets : Nat) (occ : Bool) :
    ownerReport t l old sid s d part packets occ m = m1 := by
  simp only [ownerReport, h]

/-- Data that enters a round is counted by its part there. -/
theorem roundOf_ownerData {r : Round} (h : enterRound t l old sid s d m = (true, m1)) (hround : roundOf m1 sid = some r) (op : Nat)
    (recs : List RRec) : roundOf (ownerData t none l old sid s d part op recs m) sid = some (modRPart part (countApplied recs) r) := by
  have hxch := ownerSums_outside outsideAccess_xch t l s op recs m1
  rw [ownerData_enters part h, roundOf_modRound (f := modRPart part (countApplied recs)) (fun _ => rfl), roundOf, hxch, ← roundOf, hround]
  rfl

theorem conflict_ownerData (h : enterRound t l old sid s d m = (true, m1)) (op : Nat) (recs : List RRec) (k : Nat) :
    (partSt (ownerData t none l old sid s d part op recs m) k).conflict = (partSt m1 k).conflict := by
  rw [ownerData_enters part h]
  exact ownerSums_outside (outsideAccess_conflict k) t l s op recs m1

theorem roundOf_ownerReport {r : Round} (h : enterRound t l old sid s d m = (true, m1)) (hround : roundOf m1 sid = some r) (packets : Nat)
    (occ : Bool) : roundOf (ownerReport t l old sid s d part packets occ m) sid = some (modRPart part (countReport packets occ) r) := by
  rw [ownerReport_enters part h, roundOf_modRound (f := modRPart part (countReport packets occ)) (fun _ => rfl), hround]
  rfl

end

section
variable {t : Clk} {p : Nat} {k : Packet} {m : Mod} {l : Layout} {sh : Shard} (h : epochAt m k.epoch.toNat = .current l)
  (hpart : l.part = portPart m p) (hshard : ownedShard m l k = some sh)
include h hpart hshard

theorem reduceIn_current :
    let met := meetReduce p k m
    reduceIn p k t m = ownerData t none l false k.arg.toNat sh (BitVec.ofNat 64 (ifld k 0x28 8)) (ifld k 0x22 2) met.1.1 met.1.2 met.2 := by
  simp only [reduceIn, byEpoch_current h hpart, hshard]

theorem reportIn_current : reportIn p k t m = ownerReport t l false k.arg.toNat sh (BitVec.ofNat 64 (ifld k 0x28 8)) (ifld k 0x22 2)
    (ifld k 0x30 4) (bit (ifld k 0x24 1) 0) m := by
  simp only [reportIn, byEpoch_current h hpart, hshard]

end

end Sys2Proof.Machine

namespace Sys2Proof
open Machine

/-- Settles O50: `byEpoch` holds, drops or applies a packet (R388); at its layout a NORM is `joinPre` or a drop by the round that is
open (R381), and REDUCE and REPORT enter their round by `enterRound` (R372). -/
theorem epochPackets : Obligations.EpochPackets := by
  unfold Obligations.EpochPackets
  intro p k s part log
  refine ⟨fun row hrow hold => ⟨?held, ?dropped⟩, fun l hepoch hpart => ⟨?norm, ?result, ?owner⟩, ?timeout⟩
  case held =>
    intro hfuture
    obtain ⟨act, hexec⟩ := exec_epochRow hrow s
    rw [hexec]
    refine links_onPort ?_
    rw [onPacket_of_oldest hold, byEpoch_future (m := takenIn s.m p k) hfuture]
    exact ⟨rfl, rfl, rfl⟩
  case dropped =>
    intro hother
    obtain ⟨act, hexec⟩ := exec_epochRow hrow s
    rw [hexec]
    refine links_onPort ?_
    rw [onPacket_of_oldest hold, byEpoch_other (m := takenIn s.m p k) hother]
    exact ⟨epochDrop_epochDropAt .., rfl, rfl, flog_epochDropAt ..⟩
  case norm =>
    intro n hold hset hroot dn met v count occ round joins
    have hxch : (meetNorm p k (takenIn s.m p k)).2.xch = s.m.xch := meetNorm_outside (·.xch) (fun _ _ _ => rfl) ..
    have hparts : (meetNorm p k (takenIn s.m p k)).2.parts = s.m.parts := meetNorm_outside (·.parts) (fun _ _ _ => rfl) ..
    have hmet : ∀ k', partSt (meetNorm p k (takenIn s.m p k)).2 k' = partSt s.m k' := fun k' => by
      rw [partSt, hparts, partSt]
    have harrives : ∀ {P : Mod → Prop}, P (normArrive s.clk l false k.arg.toNat n dn v count occ (meetNorm p k (takenIn s.m p k)).2) →
        Links s (exec (.norm p k) s) P := fun hP => by
      rw [exec_norm]
      refine links_onPort ?_
      rw [onPacket_of_oldest hold, normIn_current (m := takenIn s.m p k) hepoch hpart hset hroot]
      exact hP
    have hpre : round = (meetNorm p k (takenIn s.m p k)).2.xch.pre.find? fun y => y.set == k.arg.toNat := by rw [hxch]
    refine ⟨fun hnone => harrives ?_, fun y hy hd => harrives ?_, fun y hy hd => harrives ?_, fun y hy hd => harrives ?_⟩
    · rw [normArrive_opens (hpre ▸ hnone)]
      exact find?_joinPre (y := addNorm (newPre l k.arg.toNat dn) v count occ) ..
    · have hyset : y.set = k.arg.toNat := by simpa using List.find?_some hy
      rw [normArrive_joins (hpre ▸ hy) hd, ← hyset]
      exact find?_joinPre (y := addNorm y v count occ) ..
    · rw [normArrive_conflict (hpre ▸ hy) hd, ← hmet, ← hpart]
      exact ⟨hxch, conflict_dropConflict ..⟩
    · rw [normArrive_stale (hpre ▸ hy) hd, ← hmet, ← hpart]
      exact ⟨hxch, staleRound_dropStaleRound ..⟩
  case result =>
    intro hold
    rw [exec_normResult]
    refine links_onPort ?_
    rw [onPacket_of_oldest hold, normResultIn, byEpoch_current (m := takenIn s.m p k) hepoch hpart]
    exact ⟨results_keepResult .., rfl⟩
  case owner =>
    intro sh hshard d sid pt joins
    refine ⟨fun hold => ?reduce, fun hold => ?report⟩
    case reduce =>
      have hxch : (meetReduce p k (takenIn s.m p k)).2.xch = s.m.xch := meetReduce_outside (·.xch) (fun _ _ _ => rfl) ..
      have hmem : (meetReduce p k (takenIn s.m p k)).2.mem = s.m.mem := meetReduce_outside (·.mem) (fun _ _ _ => rfl) ..
      have hparts : (meetReduce p k (takenIn s.m p k)).2.parts = s.m.parts := meetReduce_outside (·.parts) (fun _ _ _ => rfl) ..
      have hmet : ∀ k', partSt (meetReduce p k (takenIn s.m p k)).2 k' = partSt s.m k' := fun k' => by
        rw [partSt, hparts, partSt]
      have hround : roundOf (meetReduce p k (takenIn s.m p k)).2 sid = roundOf s.m sid := by rw [roundOf, hxch, roundOf]
      have harrives : ∀ {P : Mod → Prop}, P (ownerData s.clk none l false sid sh d pt (meetReduce p k (takenIn s.m p k)).1.1
          (meetReduce p k (takenIn s.m p k)).1.2 (meetReduce p k (takenIn s.m p k)).2) → Links s (exec (.reduce p k) s) P := fun hP => by
        rw [exec_reduce]
        refine links_onPort ?_
        rw [onPacket_of_oldest hold, reduceIn_current (m := takenIn s.m p k) hepoch hpart hshard]
        exact hP
      simp only [joins, ← hround, ← hxch, ← hmem, ← hmet]
      refine ⟨fun hnone => harrives ?_, fun r hr hd => harrives ?_, fun r hr hd => harrives ?_, fun r hr hd => harrives ?_⟩
      · exact ⟨roundOf_ownerData pt (enterRound_opens hnone) (roundOf_opened hnone) .., conflict_ownerData pt (enterRound_opens hnone) ..⟩
      · exact ⟨roundOf_ownerData pt (enterRound_same hr hd _) hr .., conflict_ownerData pt (enterRound_same hr hd _) ..⟩
      · rw [ownerData_drops pt (enterRound_conflict hr hd _), ← hpart]
        exact ⟨rfl, rfl, conflict_dropConflict ..⟩
      · rw [ownerData_drops pt (enterRound_stale hr hd _), ← hpart]
        exact ⟨rfl, rfl, staleRound_dropStaleRound ..⟩
    case report =>
      have harrives : ∀ {P : Mod → Prop}, P (ownerReport s.clk l false sid sh d pt (ifld k 0x30 4) (bit (ifld k 0x24 1) 0) (takenIn s.m p k)) →
          Links s (exec (.report p k) s) P := fun hP => by
        rw [exec_report]
        refine links_onPort ?_
        rw [onPacket_of_oldest hold, reportIn_current (m := takenIn s.m p k) hepoch hpart hshard]
        exact hP
      have hround : roundOf (takenIn s.m p k) sid = roundOf s.m sid := rfl
      have hxch : (takenIn s.m p k).xch = s.m.xch := rfl
      have hmem : (takenIn s.m p k).mem = s.m.mem := rfl
      have hparts : ∀ k', partSt (takenIn s.m p k) k' = partSt s.m k' := fun _ => rfl
      simp only [joins, ← hround, ← hxch, ← hmem, ← hparts]
      refine ⟨fun hnone => harrives ?_, fun r hr hd => harrives ?_, fun r hr hd => harrives ?_, fun r hr hd => harrives ?_⟩
      · refine ⟨roundOf_ownerReport pt (enterRound_opens hnone) (roundOf_opened hnone) .., ?_⟩
        rw [ownerReport_enters pt (enterRound_opens hnone)]
        rfl
      · refine ⟨roundOf_ownerReport pt (enterRound_same hr hd _) hr .., ?_⟩
        rw [ownerReport_enters pt (enterRound_same hr hd _)]
        rfl
      · rw [ownerReport_drops pt (enterRound_conflict hr hd _), ← hpart]
        exact ⟨rfl, rfl, conflict_dropConflict ..⟩
      · rw [ownerReport_drops pt (enterRound_stale hr hd _), ← hpart]
        exact ⟨rfl, rfl, staleRound_dropStaleRound ..⟩
  case timeout =>
    intro i at_ hheld hdue
    rw [exec_epochFutureTimeout]
    refine links_onPort ?_
    rw [futureTimeout_due hheld hdue]
    exact ⟨rfl, epochDrop_epochDropAt .., (flog_epochDropAt ..).1⟩

end Sys2Proof
end

/-! # Instructions that issue without leave (R133, R138)

The issue of one reaches its effect on a module that is the same beside the engines; and the end of one whose stream goes on leaves all
but its context, its signals and the numbers they take. -/

section
namespace Sys2Proof.Machine

/-- What the issue of an instruction without leave keeps: everything beside the engines, what `Undisturbed` names of them, and their
DMA queues and transfers. -/
structure Issued (m u : Mod) : Prop where
  still : Undisturbed m u
  transfers : TransfersKept m u
  beside : { u with eng := [] } = { m with eng := [] }

/-- A value that reads no engine is the same. -/
theorem Issued.same {m u : Mod} (h : Issued m u) {α : Type} (f : Mod → α) (hf : ∀ x : Mod, f { x with eng := [] } = f x) : f u = f m := by
  rw [← hf, h.beside, hf]

theorem beside_trace (t : Clk) (g task kind arg : Nat) (cls : Option Nat) (m : Mod) :
    { trace t g task kind arg cls m with eng := [] } = { m with eng := [] } :=
  trace_outside (fun u : Mod => { u with eng := [] }) (fun _ _ _ => rfl) ..

theorem beside_pastWait (t : Clk) (g c : Nat) (w : LviWord) (m : Mod) : { pastWait t g c w m with eng := [] } = { m with eng := [] } :=
  traceWait_eq t g c w m (fun u : Mod => { u with eng := [] }) fun _ _ _ _ => beside_trace ..

theorem issued_pastWait (t : Clk) (g c : Nat) (w : LviWord) (m : Mod) : Issued m (pastWait t g c w m) :=
  ⟨pastWait_und .., transfersKept_pastWait .., beside_pastWait ..⟩

theorem beside_traceIssue (t : Clk) (g task idx op : Nat) (m : Mod) : { traceIssue t g task idx op m with eng := [] } = { m with eng := [] } := by
  unfold traceIssue
  split_ifs
  · exact beside_trace ..
  · rfl

theorem Issued.trans {a b c : Mod} (h : Issued a b) (k : Issued b c) : Issued a c :=
  ⟨Still.trans h.still k.still, h.transfers.trans k.transfers, k.beside.trans h.beside⟩

theorem issued_traceIssue (t : Clk) (g c : Nat) (w : LviWord) (m : Mod) :
    Issued m (traceIssue t g (taskId g c) (ctx m g c).pc (wOp w) (issuing g c m)) :=
  ⟨traceIssue_und .., (transfersKept_issuing ..).trans (transfersKept_traceIssue ..), (beside_traceIssue ..).trans rfl⟩

/-- An instruction without leave whose operands are there reaches its effect. -/
theorem attempt_leaveless {f : Form} {op : Nat} {ext : Option Nat} {g c : Nat} {w : LviWord} {s : State} (h : headReady s g c op ext w)
    (hr : formReady f s g c w) (hleave : ∀ m, f.leave m g c w = 0) (hport : f.atPort = false) :
    ∃ u, Issued s.m u ∧ attempt f op ext g c w s.clk s.m = f.eff s.clk g c w 0 u := by
  obtain ⟨hT, hchk, hmiss, -⟩ := hr
  refine ⟨_, (issued_pastWait s.clk g c w s.m).trans (issued_traceIssue s.clk g c w _), ?_⟩
  rw [attempt_eq f op ext g c w s h, tryIssue_eq f g c w s.clk _ hT hchk hmiss, withLeave_none f s.clk g c w _ (hleave _),
    startInsn_here f s.clk g c w 0 _ hport]

/-- A form of an effect alone is ready where its word is no Transit. -/
theorem formReady_plain {eff : Clk → Nat → Nat → LviWord → Nat → Mod → Mod} {g c : Nat} {w : LviWord} (s : State) (hT : wT w = false) :
    formReady { eff := eff } s g c w := ⟨hT, rfl, rfl, Or.inl rfl⟩

section
variable {m u : Mod} (h : Issued m u)
include h

theorem Issued.mem : u.mem = m.mem := mem_of_undisturbed h.still

theorem Issued.xch : u.xch = m.xch := h.same (·.xch) fun _ => rfl

theorem Issued.cnt (g c i : Nat) : cnt u g c i = counter (ctx m g c) i := counter_of_stillCtx (h.still.2.2 g c) i

theorem Issued.cntPair (g c i : Nat) : cntPair u g c i = counterPair (ctx m g c) i := by
  rw [Machine.cntPair, counterPair, counterPair, counter_of_stillCtx (h.still.2.2 g c), counter_of_stillCtx (h.still.2.2 g c)]

theorem Issued.part (g c : Nat) : (ctx u g c).part = (ctx m g c).part := congrArg (·.part) (h.still.2.2 g c)

theorem Issued.pc (g c : Nat) : (ctx u g c).pc = (ctx m g c).pc := und_pc h.still g c

end

/-! ## The end of an instruction whose stream goes on -/

section
variable {m u : Mod} {g c : Nat} (h : stillCtx (ctx u g c) = stillCtx (ctx m g c)) (hn : hasNext m g c)
include h hn

/-- A value that reads neither engines, sync queues nor the next number is the same once an instruction has ended. -/
theorem signalled_outside {α : Type} (f : Mod → α) (hf : ∀ (x : Mod) eng q n, f { x with eng := eng, syncQ := q, nextId := n } = f x) (t : Clk)
    (w : LviWord) (id : Nat) : f (signalled t g c w id u) = f u := by
  have hput : f (putSignal u (taskId g c) w 0 (some id)) = f u :=
    putSignal_outside f (fun m _ _ _ _ _ _ => hf m m.eng _ _) ..
  rw [signalled, advance_of_next (((Still.putSignal ..).2.2 g c).trans h) hn]
  exact (hf (putSignal u (taskId g c) w 0 (some id)) _ _ _).trans hput

end

end Sys2Proof.Machine
end

/-! # XCH.DRAIN, XCH.NORM and XCH.COLLECT (R366, R375, R376, R380)

Each reads its operands from what its issue leaves as it was; and a collect whose round is complete writes its tile and record to the
scratchpad, which no byte of the reduction buffer lies in. -/

section
namespace Sys2Proof.Machine

theorem exec_xchDrain (e : Eng) (c : CtxId) (w : LviWord) (s : State) :
    exec (.xchDrain e c w) s = onAll (attempt xchDrainForm 0xC0 none e.val c.val w) s := rfl

theorem exec_xchNorm (e : Eng) (c : CtxId) (w : LviWord) (s : State) :
    exec (.xchNorm e c w) s = onAll (attempt normForm 0xC1 none e.val c.val w) s := rfl

theorem exec_xchCollect (e : Eng) (c : CtxId) (w : LviWord) (s : State) :
    exec (.xchCollect e c w) s = onAll (attempt collectForm 0xC2 none e.val c.val w) s := rfl

/-! ## XCH.DRAIN -/

/-- A drain to the exchange as XCH.DRAIN asks for it. -/
def exchDrain (m : Mod) (g c : Nat) (w : LviWord) (sh : Shard) (id : Nat) : Drain where
  id := id
  task := taskId g c
  slot := wf w 52 1
  fmt := dfmtCode (wf w 48 2)
  sr := wb w 51
  cols := wb w 50
  dest := .exch
  word := w
  idx := (ctx m g c).pc
  exchRec := padRead m g (cnt m g c (wf w 60 4)).toNat 64
  deadline := cntPair m g c (wf w 56 4)
  shard := some sh

theorem xchDrainForm_eff {t : Clk} {g c : Nat} {w : LviWord} {m : Mod} {gg : Gang} {sh : Shard}
    (hclean : padPoison m g (cnt m g c (wf w 60 4)).toNat 64 = false) (hg : gangAt (engine m g) (wf w 53 3) = some gg)
    (hsh : xchErr m (ctx m g c).part (gangElems gg.shape) w (readXRec (padRead m g (cnt m g c (wf w 60 4)).toNat 64)) = .ok sh)
    (hok : drainOk gg (wf w 52 1) = true) (grant : Nat) : xchDrainForm.eff t g c w grant m
      = signalled t g c w m.nextId (modGang (fresh m).2 g gg.base (askDrain (exchDrain m g c w sh m.nextId))) := by
  simp only [xchDrainForm, hclean, Bool.false_eq_true, if_false, hg, hsh, deferDrain, hok, not_true]
  rfl

section
variable (x : Mod)

/-- Translation reads no engine. -/
theorem walk_engineless (k va : Nat) (wr : Bool) (table : Nat) (l : List (Nat × Nat × Nat × Nat × Option Nat)) :
    walk { x with eng := [] } k va wr table l = walk x k va wr table l := by
  have hread : ∀ a, tableRead { x with eng := [] } a = tableRead x a := fun _ => rfl
  induction l generalizing table with
  | nil => rfl
  | cons y r ih =>
    obtain ⟨lv, sh, nb, align, leaf⟩ := y
    have hspan : ∀ a n, spanIn { x with eng := [] } k a n = spanIn x k a n := fun _ _ => rfl
    have hranges : ∀ a, inRanges { x with eng := [] } k a = inRanges x k a := fun _ => rfl
    simp only [walk, hread, ih, hspan, hranges]

theorem xlate_engineless (k va : Nat) (wr : Bool) : xlate { x with eng := [] } k va wr = xlate x k va wr := by
  have hpart : partSt { x with eng := [] } k = partSt x k := rfl
  have hroot : xlatRoot { x with eng := [] } k = xlatRoot x k := rfl
  simp only [xlate, walk_engineless, hpart, hroot]

theorem residOk_engineless (part va n : Nat) : residOk { x with eng := [] } part va n = residOk x part va n := by
  have hranges : ∀ a, inRanges { x with eng := [] } part a = inRanges x part a := fun _ => rfl
  simp only [residOk, xlate_engineless, hranges]

/-- The checks of an exchange record read no engine. -/
theorem xchErr_engineless (part n : Nat) (w : LviWord) (r : XRec) : xchErr { x with eng := [] } part n w r = xchErr x part n w r := by
  have hlayout : usableLayout { x with eng := [] } r.epoch = usableLayout x r.epoch := rfl
  simp only [xchErr, residOk_engineless, hlayout]

end

/-! ## XCH.NORM at its root (R381) -/

/-- The first contribution of a set that expects more opens its pre-round. -/
theorem normArrive_first {l : Layout} {set : Nat} {n : NormSet} {count occ : Nat} {m : Mod} (hnew : ∀ p ∈ m.xch.pre, p.set ≠ set)
    (hmore : count + occ < n.nexpect) (t : Clk) (dn : W64) (v : W32) : normArrive t l false set n dn v count occ m
      = modXch m fun x => { x with pre := (x.pre.filter fun z => z.set != set) ++ [addNorm (newPre l set dn) v count occ] } := by
  have hnone : m.xch.pre.find? (fun z => z.set == set) = none := List.find?_eq_none.2 fun p hp => by simpa using hnew p hp
  have hopen : ¬ (addNorm (newPre l set dn) v count occ).count + (addNorm (newPre l set dn) v count occ).occ ≥ n.nexpect := by
    simpa [addNorm, newPre] using hmore
  rw [normArrive_opens hnone, joinPre]
  exact if_neg hopen

/-- The pre-round that the XCH.NORM of a context opens: with its value, or past its deadline with an occulted one. -/
def firstNorm (t : Clk) (m : Mod) (g c : Nat) (w : LviWord) (l : Layout) : PreRound :=
  let dn := cntPair m g c (wf w 56 4)
  let inTime := decide (t.sid.toNat ≤ dn.toNat)
  addNorm (newPre l (cnt m g c (wf w 52 4)).toNat dn) (if inTime then cnt m g c (wf w 60 4) else 0) (b2n inTime) (b2n (!inTime))

section
variable {t : Clk} {g c : Nat} {w : LviWord} {m : Mod} {l : Layout}

theorem firstNorm_inTime (h : t.sid.toNat ≤ (cntPair m g c (wf w 56 4)).toNat) : (firstNorm t m g c w l).sum = fadd 0 (cnt m g c (wf w 60 4))
    ∧ (firstNorm t m g c w l).count = 1 ∧ (firstNorm t m g c w l).occ = 0 := by
  simp only [firstNorm, h, decide_true, if_true]
  exact ⟨rfl, rfl, rfl⟩

theorem firstNorm_late (h : (cntPair m g c (wf w 56 4)).toNat < t.sid.toNat) :
    (firstNorm t m g c w l).count = 0 ∧ (firstNorm t m g c w l).occ = 1 := by
  simp only [firstNorm, Nat.not_le.2 h, decide_false]
  exact ⟨rfl, rfl⟩

/-- XCH.NORM of a set's root opens its pre-round where the set expects more. -/
theorem normForm_opens {n : NormSet} (hl : m.xch.current = some l) (hset : normSetOf l (cnt m g c (wf w 52 4)).toNat = some n)
    (hroot : n.rootModule = moduleNum m) (hmore : 1 < n.nexpect) (hnew : ∀ p ∈ m.xch.pre, p.set ≠ (cnt m g c (wf w 52 4)).toNat) (grant : Nat) :
    normForm.eff t g c w grant m = signalled t g c w m.nextId (modXch (fresh m).2 fun x => { x with
      pre := (x.pre.filter fun z => z.set != (cnt m g c (wf w 52 4)).toNat) ++ [firstNorm t m g c w l] }) := by
  have hone : ∀ inTime : Bool, b2n inTime + b2n (!inTime) < n.nexpect := fun inTime => by cases inTime <;> exact hmore
  have hfirst := normArrive_first (m := (fresh m).2) hnew (hone (decide (t.sid.toNat ≤ (cntPair m g c (wf w 56 4)).toNat))) t (l := l)
  simp only [normForm, hl, hset, hroot, if_true]
  exact congrArg (fun u => signalled t g c w m.nextId u) (hfirst ..)

end

/-! ## XCH.COLLECT -/

/-- A collect as XCH.COLLECT asks for it. -/
def newCollect (m : Mod) (g c : Nat) (w : LviWord) (id : Nat) : Collect where
  id := id
  task := taskId g c
  word := w
  shard := (cnt m g c (wf w 56 4)).toNat
  cd := (cnt m g c (wf w 60 4)).toNat
  cc := (cnt m g c (wf w 52 4)).toNat

theorem collectForm_eff {t : Clk} {g c : Nat} {w : LviWord} {m : Mod} (hok : collectErr m g (cnt m g c (wf w 56 4)).toNat = none) (grant : Nat) :
    collectForm.eff t g c w grant m = signalled t g c w m.nextId
      (modXch (fresh m).2 fun x => { x with collects := x.collects ++ [newCollect m g c w m.nextId] }) := by
  simp only [collectForm, hok]
  rfl

/-- Zeros in the buffer of a shard; beside them its sectors are clean. -/
theorem cells_zeroBuffer (s : Shard) (m : Mod) : (zeroBuffer s m).mem.cells
    = (pokes m.mem (poolAddr (ownerDie s) s.buf) (List.replicate (roundUp (bufBytes s) 256) 0)).cells :=
  List.foldlRecOn (motive := fun u : Mod => u.mem.cells
    = (pokes m.mem (poolAddr (ownerDie s) s.buf) (List.replicate (roundUp (bufBytes s) 256) 0)).cells) _ _ rfl fun _ h _ _ => h

theorem xch_zeroBuffer (s : Shard) (m : Mod) : (zeroBuffer s m).xch = m.xch :=
  List.foldlRecOn (motive := fun u : Mod => u.xch = m.xch) _ _ rfl fun _ h _ _ => h

theorem le_roundUp (x : Nat) {n : Nat} (hn : 0 < n) : x ≤ roundUp x n := by
  have h := Nat.div_add_mod (x + n - 1) n
  have hlt := Nat.mod_lt (x + n - 1) hn
  rw [roundUp, Nat.mul_comm]
  omega

section
variable {s : Shard} {m : Mod}

theorem peek_zeroBuffer {i : Nat} (hi : i < bufBytes s) : peek (zeroBuffer s m).mem (poolAddr (ownerDie s) s.buf + i) = 0 := by
  have hin : i < (List.replicate (roundUp (bufBytes s) 256) (0 : Byte)).length := by
    rw [List.length_replicate]
    exact Nat.lt_of_lt_of_le hi (le_roundUp _ (by decide))
  rw [peek_of_cells (cells_zeroBuffer s m), peek_pokes_inside _ _ _ _ hin, List.getElem_replicate]

/-- No scratchpad holds a byte of the buffer. -/
theorem peeks_zeroBuffer (hroom : poolAddr (ownerDie s) s.buf + roundUp (bufBytes s) 256 ≤ 0x90000000000) (g off n : Nat) :
    peeks (zeroBuffer s m).mem (padAddr g off) n = peeks m.mem (padAddr g off) n := by
  refine peeks_congr fun i _ => ?_
  rw [peek_of_cells (cells_zeroBuffer s m)]
  refine peek_pokes_outside _ _ _ _ (Or.inr ?_)
  rw [List.length_replicate, padAddr]
  omega

end

theorem length_collectRecord (m : Mod) (s : Shard) (r : Round) : (collectRecord m s r).length = 16 := by
  simp [collectRecord, length_toLe]

/-- The tile and record of a collect, laid down in the scratchpad. -/
def collectWritten (g : Nat) (c : Collect) (tile record : List Byte) (m : Mod) : Mod := padWrite (padWrite m g c.cd tile) g c.cc record

section
variable (g : Nat) (c : Collect) (tile record : List Byte) (m : Mod)

theorem xch_padWrite (off : Nat) (data : List Byte) : (padWrite m g off data).xch = m.xch :=
  List.foldlRecOn (motive := fun u : Mod => u.xch = m.xch) _ _ rfl fun _ h _ _ => h

theorem xch_collectWritten : (collectWritten g c tile record m).xch = m.xch := (xch_padWrite ..).trans (xch_padWrite ..)

theorem peeks_collectWritten_record : peeks (collectWritten g c tile record m).mem (padAddr g c.cc) record.length = record := peeks_padWrite ..

/-- The record lies beside the tile. -/
theorem peeks_collectWritten_tile (hapart : c.cc + record.length ≤ c.cd ∨ c.cd + tile.length ≤ c.cc) :
    peeks (collectWritten g c tile record m).mem (padAddr g c.cd) tile.length = tile := by
  refine Eq.trans (peeks_congr fun i hi => peek_padWrite_outside _ _ _ _ ?_) (peeks_padWrite m g c.cd tile)
  unfold padAddr
  omega

end

/-- A round with an occulted report marks its program (R379). -/
def markPartial (c : Collect) (s : Shard) (r : Round) (m : Mod) : Mod :=
  if occultedOf s r = 0 then m else modProg m (ctx m (c.task / 4) (c.task % 4)).part fun p => { p with partial_ := true }

theorem mem_markPartial (c : Collect) (s : Shard) (r : Round) (m : Mod) : (markPartial c s r m).mem = m.mem := by
  unfold markPartial
  split_ifs <;> rfl

theorem xch_markPartial (c : Collect) (s : Shard) (r : Round) (m : Mod) : (markPartial c s r m).xch = m.xch := by
  unfold markPartial
  split_ifs <;> rfl

/-- The module before the buffer of a complete round is zeroed. -/
def collectLaid (c : Collect) (s : Shard) (r : Round) (m : Mod) : Mod :=
  markPartial c s r (collectWritten (c.task / 4) c (collectTile m c s r) (collectRecord m s r)
    (modXch m fun x => { x with collects := x.collects.filter fun y => y.id != c.id }))

/-- What a collect whose round is complete leaves: tile and record written, the buffer zero, its round closed. -/
def collected (c : Collect) (s : Shard) (r : Round) (m : Mod) : Mod :=
  modXch (zeroBuffer s (collectLaid c s r m)) fun x => { x with rounds := x.rounds.filter fun y => y.shard != c.shard }

section
variable {t : Clk} {c : Collect} {r : Round} {s : Shard} {m : Mod} (hr : roundOf m c.shard = some r) (hs : roundShard m r = some s)
include hr hs

theorem runCollect_waits (hopen : roundComplete m s r = false) : runCollect t c m = m := by
  simp only [runCollect, hr, Option.bind_some, hs, hopen, Bool.false_eq_true, not_false_eq_true, if_true]

theorem runCollect_complete (hcomplete : roundComplete m s r = true)
    (hpins : (pinned m (c.task / 4) c.cd (roundUp (64 + 4 * elems s) 256) || pinned m (c.task / 4) c.cc 16) = false)
    (hclean : sectorsBad m (poolAddr (ownerDie s) s.buf) (bufBytes s) = false) : runCollect t c m = collected c s r m := by
  simp only [runCollect, hr, Option.bind_some, hs, hcomplete, hpins, hclean, not_true_eq_false, Bool.false_eq_true, if_false]
  rfl

end

section
variable {c : Collect} {s : Shard} {r : Round} {m : Mod}

theorem roundOf_collected : roundOf (collected c s r m) c.shard = none :=
  List.find?_eq_none.2 fun y hy => by simpa using (List.mem_filter.1 hy).2

theorem collects_collected : (collected c s r m).xch.collects = m.xch.collects.filter fun y => y.id != c.id := by
  simp only [collected, modXch, xch_zeroBuffer, collectLaid, xch_markPartial, xch_collectWritten]

variable (hroom : poolAddr (ownerDie s) s.buf + roundUp (bufBytes s) 256 ≤ 0x90000000000)
include hroom

/-- Every scratchpad reads as it was laid down. -/
theorem padRead_collected (g off n : Nat) : padRead (collected c s r m) g off n = padRead (collectLaid c s r m) g off n :=
  peeks_zeroBuffer hroom ..

theorem record_collected : padRead (collected c s r m) (c.task / 4) c.cc 16 = collectRecord m s r := by
  rw [padRead_collected hroom, padRead, collectLaid, mem_markPartial, ← length_collectRecord m s r]
  exact peeks_collectWritten_record ..

theorem tile_collected (hapart : c.cc + 16 ≤ c.cd ∨ c.cd + (collectTile m c s r).length ≤ c.cc) :
    padRead (collected c s r m) (c.task / 4) c.cd (collectTile m c s r).length = collectTile m c s r := by
  rw [padRead_collected hroom, padRead, collectLaid, mem_markPartial]
  exact peeks_collectWritten_tile _ _ _ _ _ (by rwa [length_collectRecord])

end

end Sys2Proof.Machine

namespace Sys2Proof
open Machine

/-- Settles O27: an XCH.DRAIN is `askDrain` of `exchDrain`, an XCH.NORM at the root opens its pre-round by `normArrive_first`, and a
collect waits as `newCollect` until its round is complete and `collected` (R375 to R380). -/
theorem exchangeInstructions : Obligations.ExchangeInstructions := by
  unfold Obligations.ExchangeInstructions
  refine ⟨?issued, ?run⟩
  case' issued =>
    intro e c w s hnext x pc
    refine ⟨?drain, ?norm, ?collect⟩
  case' run =>
    intro t c r sh m hr hs u g tile
    refine ⟨?waits, ?complete⟩
  case drain =>
    intro gg sh hhead hready off hclean hgang hsh hok
    obtain ⟨u, hu, hattempt⟩ := attempt_leaveless hhead hready (fun _ => rfl) rfl
    have hoff : (cnt u e c (wf w 60 4)).toNat = off := by rw [hu.cnt]
    have hpad : padRead u e off 64 = padRead s.m e off 64 := by rw [padRead, hu.mem, padRead]
    have hpoison : padPoison u e off 64 = false := by rw [← hclean, padPoison, padPoison, hu.mem]
    have hcheck : xchErr u (ctx u e c).part (gangElems gg.shape) w (readXRec (padRead u e off 64)) = .ok sh := by
      rw [hu.part, hpad, hu.same (xchErr · _ _ _ _) (fun y => xchErr_engineless y ..), hsh]
    have hgangs : gg ∈ (engine (fresh u).2 e).gangs := by
      have := mem_gangs_of_gangAt hgang
      rwa [← gangs_of_undisturbed hu.still] at this
    rw [exec_xchDrain]
    refine settlesAll_onAll ?_
    rw [hattempt, xchDrainForm_eff (hoff ▸ hpoison) ((gangAt_of_undisturbed hu.still ..).trans hgang) (hoff ▸ hcheck) hok]
    obtain ⟨d, hd, hfields⟩ := asked_mem_askDrain (exchDrain u e c w sh u.nextId) gg
    have hctx : stillCtx (ctx (modGang (fresh u).2 e gg.base (askDrain (exchDrain u e c w sh u.nextId))) e c) = stillCtx (ctx s.m e c) := by
      rw [ctx_modGang]
      exact hu.still.2.2 e c
    refine ⟨pc_signalled hctx s.clk w u.nextId, askDrain (exchDrain u e c w sh u.nextId) gg, ?_, rfl, d, hd, ?_⟩
    · rw [gangs_of_stillEng (stillEng_signalled ..)]
      exact updated_mem_modGang _ hgangs rfl
    · subst hfields
      exact ⟨rfl, rfl, rfl, rfl, rfl, (congrArg (padRead u e · 64) hoff).trans hpad, hu.cntPair ..⟩
  case norm =>
    intro l n hhead hT hl set dn hset hroot hmore hnew
    obtain ⟨u, hu, hattempt⟩ := attempt_leaveless hhead (formReady_plain (eff := normForm.eff) s hT) (fun _ => rfl) rfl
    have hsetu : (cnt u e c (wf w 52 4)).toNat = set := by rw [hu.cnt]
    have hdn : cntPair u e c (wf w 56 4) = dn := hu.cntPair ..
    have heff := normForm_opens (t := s.clk) (l := l) (hu.xch ▸ hl) (hsetu.symm ▸ hset) (hroot.trans (moduleNum_of_undisturbed hu.still).symm) hmore
      (by rw [hsetu, hu.xch]; exact hnew) 0
    rw [exec_xchNorm]
    refine settlesAll_onAll ?_
    rw [show attempt normForm 0xC1 none e.val c.val w s.clk s.m = _ from hattempt.trans heff]
    have hctx : ∀ f, stillCtx (ctx (modXch (fresh u).2 f) e c) = stillCtx (ctx s.m e c) := fun _ => hu.still.2.2 e c
    refine ⟨pc_signalled (hctx _) s.clk w u.nextId, firstNorm s.clk u e c w l, ?_, hsetu, hdn, rfl, fun hin => ?_, fun hlate => ?_⟩
    · rw [signalled_outside (hctx _) hnext (·.xch) (fun _ _ _ _ => rfl)]
      exact List.mem_append_right _ (List.mem_singleton.2 rfl)
    · rw [← hu.cnt]
      exact firstNorm_inTime (hdn.symm ▸ hin)
    · exact firstNorm_late (hdn.symm ▸ hlate)
  case collect =>
    intro hhead hready hok
    obtain ⟨u, hu, hattempt⟩ := attempt_leaveless hhead hready (fun _ => rfl) rfl
    have hoku : collectErr u e (cnt u e c (wf w 56 4)).toNat = none := by
      rw [hu.cnt, hu.same (collectErr · _ _) (fun _ => rfl), hok]
    rw [exec_xchCollect]
    refine settlesAll_onAll ?_
    rw [hattempt, collectForm_eff hoku]
    have hctx : ∀ f, stillCtx (ctx (modXch (fresh u).2 f) e c) = stillCtx (ctx s.m e c) := fun _ => hu.still.2.2 e c
    refine ⟨pc_signalled (hctx _) s.clk w u.nextId, newCollect u e c w u.nextId, ?_, rfl, rfl, ?_, ?_, ?_⟩
    · rw [signalled_outside (hctx _) hnext (·.xch) (fun _ _ _ _ => rfl), ← hu.xch]
      rfl
    · rw [← hu.cnt]
      rfl
    · rw [← hu.cnt]
      rfl
    · rw [← hu.cnt]
      rfl
  case waits => exact fun hopen => runCollect_waits hr hs hopen
  case complete =>
    intro hcomplete hpins hclean hroom
    have hu : u = collected c sh r m := runCollect_complete hr hs hcomplete hpins hclean
    rw [hu]
    refine ⟨roundOf_collected, fun k hk => ?_, record_collected hroom, tile_collected hroom, fun i hi => peek_zeroBuffer hi⟩
    rw [collects_collected] at hk
    simpa using (List.mem_filter.1 hk).2

end Sys2Proof
end

/-! # What the token exchange reads once an instruction has issued (R136, R209, R305)

Pins hang on the passes of an engine, its transfers and memory; the operands of DISPATCH and COMBINE on counters, maps and memory. The
issue of an instruction leaves them all, and so does its end. -/

section
namespace Sys2Proof.Machine

/-! ## Pins -/

section
variable {m u : Mod} {g : Nat} (hxfers : (engine u g).xfers = (engine m g).xfers) (hmem : u.mem = m.mem)
include hxfers hmem

theorem hdrAt_congr (off : Nat) : hdrAt u g off = hdrAt m g off := by
  simp only [hdrAt, hxfers, padRead, hmem]

theorem walkRun_congr (dot act : Bool) (lanes need fuel off first : Nat) (like : Option (Nat × Bool)) :
    walkRun u g dot act lanes need false fuel off first like = walkRun m g dot act lanes need false fuel off first like := by
  induction fuel generalizing off first like with
  | zero => rfl
  | succ fuel ih => simp only [walkRun, Bool.false_eq_true, false_and, if_false, hdrAt_congr hxfers hmem, ih]

/-- Pins hang on the passes of an engine, its transfers and memory alone. -/
theorem pinned_congr (hgangs : (engine u g).gangs = (engine m g).gangs) (off n : Nat) : pinned u g off n = pinned m g off n := by
  have hranges : ∀ p, pinRanges u g p = pinRanges m g p := fun p => by
    simp only [pinRanges, runA, runB, walkRun_congr hxfers hmem]
  simp only [pinned, hgangs, hranges]

end

/-- An update of an engine that touches neither its gangs nor its transfers leaves pins as they are. -/
theorem pinned_modEngine {f : Engine → Engine} (hgangs : ∀ e, (f e).gangs = e.gangs) (hxfers : ∀ e, (f e).xfers = e.xfers) (m : Mod)
    (g k off n : Nat) : pinned (modEngine m g f) k off n = pinned m k off n := by
  have hfield : ∀ {β : Type} (p : Engine → β), (∀ e, p (f e) = p e) → p (engine (modEngine m g f) k) = p (engine m k) := fun p hp => by
    rw [engine_modEngine]
    split_ifs with hk
    · rw [hp, hk]
    · rfl
  exact pinned_congr (hfield (·.xfers) hxfers) rfl (hfield (·.gangs) hgangs) off n

theorem Issued.pinned {m u : Mod} (h : Issued m u) (g off n : Nat) : pinned u g off n = pinned m g off n :=
  pinned_congr (h.transfers.xfers g) h.mem (gangs_of_undisturbed h.still g) off n

/-- The end of an instruction leaves pins as they are. -/
theorem pinned_signalled {m u : Mod} {g c : Nat} (h : stillCtx (ctx u g c) = stillCtx (ctx m g c)) (hn : hasNext m g c) (t : Clk)
    (w : LviWord) (id k off n : Nat) : pinned (signalled t g c w id u) k off n = pinned u k off n :=
  pinned_congr ((transfersKept_advance_putSignal h hn t w 0 (some id)).xfers k) (signalled_outside h hn (·.mem) (fun _ _ _ _ => rfl) t w id)
    (gangs_of_stillEng (stillEng_signalled ..)) off n

/-! ## Operands of the token exchange -/

section
variable {m u : Mod} (h : Issued m u)
include h

theorem Issued.cnt_eq (g c i : Nat) : Machine.cnt u g c i = Machine.cnt m g c i := h.cnt g c i

theorem Issued.padRead (g off n : Nat) : Machine.padRead u g off n = Machine.padRead m g off n := by
  rw [Machine.padRead, h.mem, Machine.padRead]

theorem Issued.headAt (g off : Nat) : Machine.headAt u g off = Machine.headAt m g off := by rw [Machine.headAt, h.padRead, Machine.headAt]

theorem Issued.outFmt (g cs : Nat) : Machine.outFmt u g cs = Machine.outFmt m g cs := by rw [Machine.outFmt, h.headAt, Machine.outFmt]

theorem Issued.actBank (g c : Nat) : Machine.actBank u g c = Machine.actBank m g c := by
  have hmap : ∀ k, activeMap u k = activeMap m k := fun k => h.same (activeMap · k) fun _ => rfl
  have hbank : ∀ k, bank u k = bank m k := fun k => h.same (bank · k) fun _ => rfl
  simp only [Machine.actBank, h.part, hmap, hbank]

theorem Issued.dispOp (g c : Nat) (w : LviWord) : Machine.dispOp u g c w = Machine.dispOp m g c w := by
  simp only [Machine.dispOp, h.cnt_eq, h.headAt]

theorem Issued.dispRanges (g c : Nat) (w : LviWord) : Machine.dispRanges u g c w = Machine.dispRanges m g c w := by
  simp only [Machine.dispRanges, h.dispOp, h.actBank]

theorem Issued.gridOk (g base row fmt rows : Nat) : Machine.gridOk u g base row fmt rows = Machine.gridOk m g base row fmt rows :=
  h.same (Machine.gridOk · g base row fmt rows) fun _ => rfl

theorem Issued.poisonIn (g : Nat) (rs : List (Nat × Nat)) : Machine.poisonIn u g rs = Machine.poisonIn m g rs :=
  h.same (Machine.poisonIn · g rs) fun _ => rfl

omit h in
theorem tickets_of_stillEng {x y : Engine} (hxy : stillEng x = stillEng y) : x.tickets = y.tickets := congrArg (·.tickets) hxy

theorem Issued.freeTicket (g : Nat) : Machine.freeTicket u g = Machine.freeTicket m g := by
  have htickets : (engine u g).tickets = (engine m g).tickets := tickets_of_stillEng (h.still.2.1 g)
  simp only [Machine.freeTicket, ticketAt, htickets]

theorem Issued.deadRange (g off n : Nat) : Machine.deadRange u g off n = Machine.deadRange m g off n := by
  simp only [Machine.deadRange, h.transfers.xfers]

theorem Issued.combineExpert (g c : Nat) (w : LviWord) : Machine.combineExpert u g c w = Machine.combineExpert m g c w := by
  have hexperts : ∀ k, expertsOn u k g = expertsOn m k g := fun k => h.same (expertsOn · k g) fun _ => rfl
  have hround : ∀ n, expRound u g n = expRound m g n := fun n => h.same (expRound · g n) fun _ => rfl
  simp only [Machine.combineExpert, h.actBank, h.cnt_eq, hexperts, hround]

theorem Issued.combineRanges (g c : Nat) (w : LviWord) (x : Expert) : Machine.combineRanges u g c w x = Machine.combineRanges m g c w x := by
  simp only [Machine.combineRanges, h.outFmt, h.cnt_eq, h.actBank]

theorem Issued.combineErr (g c : Nat) (w : LviWord) : Machine.combineErr u g c w = Machine.combineErr m g c w := by
  have htiles : ∀ k x, expertTilesOk u k x = expertTilesOk m k x := fun k x => h.same (expertTilesOk · k x) fun _ => rfl
  simp only [Machine.combineErr, h.combineExpert, h.actBank, h.cnt_eq, htiles, h.deadRange, h.outFmt, h.gridOk, h.combineRanges]

theorem Issued.retPackets (part g c : Nat) (w : LviWord) (x : Expert) (i : Nat) :
    Machine.retPackets u part g c w x i = Machine.retPackets m part g c w x i := by
  have hpacket : ∀ typ vc dst dstEng epoch arg addr inl body,
      packet u part typ vc dst dstEng epoch arg addr inl body = packet m part typ vc dst dstEng epoch arg addr inl body :=
    fun typ vc dst dstEng epoch arg addr inl body => h.same (packet · part typ vc dst dstEng epoch arg addr inl body) fun _ => rfl
  have hrow : ∀ base row fmt t, gridRowBytes u g base row fmt t = gridRowBytes m g base row fmt t :=
    fun base row fmt t => h.same (gridRowBytes · g base row fmt t) fun _ => rfl
  simp only [Machine.retPackets, h.cnt_eq, h.actBank, h.padRead, h.outFmt, hrow, hpacket]

/-- Routes are as they were. -/
theorem Issued.routes : RoutesKept m u :=
  .of_links (h.same (·.bar0) fun _ => rfl) (h.same (·.banks) fun _ => rfl) (fun k => h.same (activeMap · k) fun _ => rfl)
    (h.same (·.links) fun _ => rfl)

end

/-- The end of an instruction leaves routes as they are. -/
theorem routesKept_signalled {m u : Mod} {g c : Nat} (h : stillCtx (ctx u g c) = stillCtx (ctx m g c)) (hn : hasNext m g c) (t : Clk)
    (w : LviWord) (id : Nat) : RoutesKept u (signalled t g c w id u) :=
  .of_links (signalled_outside h hn (·.bar0) (fun _ _ _ _ => rfl) t w id) (signalled_outside h hn (·.banks) (fun _ _ _ _ => rfl) t w id)
    (fun k => signalled_outside h hn (activeMap · k) (fun _ _ _ _ => rfl) t w id)
    (signalled_outside h hn (·.links) (fun _ _ _ _ => rfl) t w id)

/-- The context of an instruction that ends, its stream going on, is at its next place. -/
theorem ctx_signalled {m u : Mod} {g c : Nat} (h : stillCtx (ctx u g c) = stillCtx (ctx m g c)) (hn : hasNext m g c) (t : Clk) (w : LviWord)
    (id : Nat) : ctx (signalled t g c w id u) g c = moveTo (ctx u g c) ((ctx u g c).pc + 1) := by
  rw [signalled, advance_of_next (((Still.putSignal ..).2.2 g c).trans h) hn, ctx_modCtx, if_pos ⟨rfl, rfl⟩, ctx_putSignal]

/-- An operation has been placed in its engine; memory, partitions, routes, pins and its context are as before. -/
structure Placed (m u : Mod) (g c : Nat) : Prop where
  mem : u.mem = m.mem
  parts : u.parts = m.parts
  routes : RoutesKept m u
  pins : ∀ k off n, pinned u k off n = pinned m k off n
  ctx : stillCtx (ctx u g c) = stillCtx (ctx m g c)

theorem placed_of_issued {m u : Mod} (h : Issued m u) (g c : Nat) : Placed m (fresh u).2 g c :=
  ⟨h.mem, h.same (·.parts) fun _ => rfl, h.routes.trans (b := u) (.of_links rfl rfl (fun _ => rfl) rfl),
    fun k off n => (pinned_congr (m := u) (u := (fresh u).2) rfl rfl rfl off n).trans (h.pinned k off n), h.still.2.2 g c⟩

/-- Operations, tickets and such of an engine may change. -/
theorem Placed.modEngine {m u : Mod} {g c : Nat} (h : Placed m u g c) {f : Engine → Engine} (hctx : ∀ e, (f e).ctx = e.ctx)
    (hgangs : ∀ e, (f e).gangs = e.gangs) (hxfers : ∀ e, (f e).xfers = e.xfers) (k : Nat) : Placed m (modEngine u k f) g c :=
  ⟨h.mem, h.parts, h.routes.trans (b := u) (.of_links rfl rfl (fun _ => rfl) rfl),
    fun _ _ _ => (pinned_modEngine hgangs hxfers ..).trans (h.pins ..), by rw [ctx_modEngine _ _ _ _ _ hctx, h.ctx]⟩

/-- The context of a placed operation has gone past its instruction. -/
structure GonePast (m u : Mod) (g c : Nat) : Prop where
  mem : u.mem = m.mem
  parts : u.parts = m.parts
  routes : RoutesKept m u
  pins : ∀ k off n, pinned u k off n = pinned m k off n
  pc : (ctx u g c).pc = (moveTo (ctx m g c) ((ctx m g c).pc + 1)).pc
  part : (ctx u g c).part = (ctx m g c).part
  st : (ctx u g c).st = .ready

theorem Placed.signalled {m u : Mod} {g c : Nat} (h : Placed m u g c) (hn : hasNext m g c) (t : Clk) (w : LviWord) (id : Nat) :
    GonePast m (signalled t g c w id u) g c where
  mem := (signalled_outside h.ctx hn (·.mem) (fun _ _ _ _ => rfl) t w id).trans h.mem
  parts := (signalled_outside h.ctx hn (·.parts) (fun _ _ _ _ => rfl) t w id).trans h.parts
  routes := h.routes.trans (routesKept_signalled h.ctx hn t w id)
  pins k off n := (pinned_signalled h.ctx hn t w id k off n).trans (h.pins k off n)
  pc := pc_signalled h.ctx t w id
  part := by
    have hpart : (Machine.ctx u g c).part = (Machine.ctx m g c).part := congrArg (·.part) h.ctx
    rw [ctx_signalled h.ctx hn]
    exact hpart
  st := by
    rw [ctx_signalled h.ctx hn]
    rfl

/-! ## Packets that all leave -/

/-- What is left once packets have been sent: each waits at its port, and all else but ports and partitions is the same. -/
structure Sent (part : Nat) (ks : List Packet) (m u : Mod) : Prop where
  routes : RoutesKept m u
  outside : ∀ {α : Type} (f : Mod → α), (∀ x p g, f (modPort x p g) = f x) → (∀ x k g, f (modPart x k g) = f x) → f u = f m
  stays : ∀ q, (port m q).txq ⊆ (port u q).txq
  waits : ∀ k ∈ ks, ∀ q, route m part k.dst.toNat = .ok q → 1 ≤ (port m q).version → ∃ z ∈ (port u q).txq, z.pkt = k

theorem Sent.nil (part : Nat) (m : Mod) : Sent part [] m m :=
  ⟨.refl m, fun _ _ _ => rfl, fun _ => List.Subset.refl _, fun _ hk => absurd hk List.not_mem_nil⟩

theorem Sent.cons {part : Nat} {k : Packet} {ks : List Packet} {a b c : Mod} (h : Sent part [k] a b) (r : Sent part ks b c) :
    Sent part (k :: ks) a c where
  routes := h.routes.trans r.routes
  outside f hport hpart := (r.outside f hport hpart).trans (h.outside f hport hpart)
  stays q := List.Subset.trans (h.stays q) (r.stays q)
  waits x hx q hq hv := by
    rcases List.mem_cons.1 hx with rfl | hrest
    · obtain ⟨z, hz, hpkt⟩ := h.waits x (List.mem_singleton.2 rfl) q hq hv
      exact ⟨z, r.stays q hz, hpkt⟩
    · exact r.waits x hrest q (by rw [h.routes.route, hq]) (by rwa [h.routes.version])

/-- A packet to another module with a route: sent, or dropped and counted at a port that takes no token. -/
theorem sent_sendToken {t : Clk} {part task id q : Nat} {k : Packet} {m : Mod} (hfar : k.dst.toNat ≠ moduleNum m)
    (hroute : route m part k.dst.toNat = .ok q) : ∃ u b, sendToken t part task id k m = .ok (u, b) ∧ Sent part [k] m u := by
  simp only [sendToken, hfar, if_false, hroute]
  split_ifs with hold
  · refine ⟨_, _, rfl, routesKept_countTokenDrop .., fun f _ hpart => hpart .., fun _ => List.Subset.refl _, fun x hx q' hq' hv => ?_⟩
    rw [List.mem_singleton.1 hx, hroute] at hq'
    cases hq'
    exact absurd hold (Nat.not_lt.2 hv)
  · refine ⟨_, _, rfl, .sendOn .., fun f hport _ => hport .., fun _ => txq_sendOn_subset .., fun x hx q' hq' _ => ?_⟩
    rw [List.mem_singleton.1 hx, hroute] at hq'
    cases hq'
    exact ⟨_, mem_txq_sendOn .., (List.mem_singleton.1 hx).symm⟩

/-- Packets that are no tokens and all have a route are all sent. -/
theorem sent_sendAll {t : Clk} {part task id g tk : Nat} {ks : List Packet} {m : Mod} (hkind : ∀ k ∈ ks, k.typ ≠ 0x20)
    (hgo : ∀ k ∈ ks, k.dst.toNat ≠ moduleNum m ∧ ∃ q, route m part k.dst.toNat = .ok q) :
    ∃ u, sendAll t part task id g tk ks (m, none) = (u, none) ∧ Sent part ks m u := by
  induction ks generalizing m with
  | nil => exact ⟨m, rfl, .nil part m⟩
  | cons k ks ih =>
    obtain ⟨⟨hfar, q, hroute⟩, hrest⟩ := List.forall_mem_cons.1 hgo
    obtain ⟨htyp, hkinds⟩ := List.forall_mem_cons.1 hkind
    obtain ⟨u, b, hsend, hsent⟩ := sent_sendToken (t := t) (task := task) (id := id) hfar hroute
    obtain ⟨v, hall, hsents⟩ := ih (m := u) hkinds fun x hx => by
      rw [hsent.routes.moduleNum, hsent.routes.route]
      exact hrest x hx
    refine ⟨v, ?_, hsent.cons hsents⟩
    rw [← hall]
    have htok : (k.typ == 0x20) = false := by simpa using htyp
    simp only [sendAll, List.foldl_cons, Option.isSome_none, Bool.false_eq_true, if_false, hsend, htok, Bool.and_false, Bool.false_and]

end Sys2Proof.Machine
end

/-! # DISPATCH, COMBINE and the reopening of a round (R421, R426, R427)

With every expert off a DISPATCH drops each of its entries, counted by its ticket, and ends once its notices are sent; a COMBINE sends its
packets from a module that its round is CLOSING in. -/

section
namespace Sys2Proof.Machine

theorem exec_dispatch (e : Eng) (c : CtxId) (w : LviWord) (s : State) :
    exec (.dispatch e c w) s = onAll (attempt dispatchForm 0xC4 (some 0) e.val c.val w) s := rfl

theorem exec_combine (e : Eng) (c : CtxId) (w : LviWord) (s : State) :
    exec (.combine e c w) s = onAll (attempt combineForm 0xC4 (some 1) e.val c.val w) s := rfl

theorem exec_expertRoundReopen (e : Eng) (n : Nat) (s : State) : exec (.expertRoundReopen e n) s = onAll (reopen e.val n) s := rfl

/-! ## EXPERT_ROUND_REOPEN -/

/-- A CLOSING round that nothing waits for opens again, empty. -/
theorem reopen_empty {g n : Nat} {m : Mod} (hst : (expRound m g n).st = .closing) (hheld : (expRound m g n).held = []) (t : Clk) :
    reopen g n t m = modExp (modExp m g n fun r => { held := r.held, pinHeld := r.pinHeld }) g n fun r => { r with held := [] } := by
  have hnone : (expRound (modExp m g n fun r => { held := r.held, pinHeld := r.pinHeld }) g n).held = [] := by
    rw [expRound_modExp]
    exact hheld
  simp only [reopen, hst, ne_eq, not_true_eq_false, if_false, releaseHeld, hnone, List.foldl_nil]

/-! ## COMBINE -/

/-- The round of the expert that a COMBINE names is CLOSING. -/
def combineMarked (m : Mod) (g c : Nat) (w : LviWord) (n : Nat) : Mod :=
  modExp (fresh m).2 g n fun r => { r with st := .closing, combine := some (taskId g c, m.nextId, w, (actBank m g c).1) }

/-- The module that a COMBINE sends its packets from: its context is past it. -/
def combineClosed (t : Clk) (m : Mod) (g c : Nat) (w : LviWord) (n : Nat) : Mod := signalled t g c w m.nextId (combineMarked m g c w n)

section
variable {m u : Mod} {g c : Nat} (h : stillCtx (ctx u g c) = stillCtx (ctx m g c)) (hn : hasNext m g c) (t : Clk) (w : LviWord) (n : Nat)
include h

theorem pc_combineClosed : (ctx (combineClosed t u g c w n) g c).pc = (moveTo (ctx m g c) ((ctx m g c).pc + 1)).pc :=
  pc_signalled (u := combineMarked u g c w n) h ..

include hn

theorem combineClosed_outside {α : Type} (f : Mod → α) (hf : ∀ (x : Mod) eng q k, f { x with eng := eng, syncQ := q, nextId := k } = f x) :
    f (combineClosed t u g c w n) = f (combineMarked u g c w n) := signalled_outside (u := combineMarked u g c w n) h hn f hf ..

theorem expRound_combineClosed : (expRound (combineClosed t u g c w n) g n).st = .closing
    ∧ (expRound (combineClosed t u g c w n) g n).fill = (expRound u g n).fill := by
  rw [combineClosed_outside h hn t w n (expRound · g n) fun _ _ _ _ => rfl, combineMarked, expRound_modExp]
  exact ⟨rfl, rfl⟩

theorem routesKept_combineClosed : RoutesKept u (combineClosed t u g c w n) :=
  RoutesKept.trans (b := combineMarked u g c w n) (.of_links rfl rfl (fun _ => rfl) rfl) (routesKept_signalled (u := combineMarked u g c w n) h hn ..)

end

theorem combineForm_eff {t : Clk} {g c n : Nat} {w : LviWord} {m u : Mod} {y : Expert} (hok : combineErr m g c w = none)
    (hexpert : combineExpert m g c w = some (n, y)) (hclean : poisonIn m g (combineRanges m g c w y) = none)
    (hall : sendAll t (ctx m g c).part (taskId g c) m.nextId g 16 ((List.range y.capacity).flatMap fun i => retPackets m (ctx m g c).part g c w y i)
      (combineClosed t m g c w n, none) = (u, none)) (grant : Nat) : combineForm.eff t g c w grant m = u := by
  unfold combineClosed signalled combineMarked at hall
  unfold combineForm
  dsimp only
  rw [hok, hexpert]
  dsimp only
  rw [hclean]
  dsimp only [fresh] at hall ⊢
  rw [hall]

theorem typ_of_mem_retPackets {m : Mod} {part g c i : Nat} {w : LviWord} {y : Expert} {k : Packet} (hk : k ∈ retPackets m part g c w y i) :
    k.typ = 0x21 := by
  unfold retPackets at hk
  simp only at hk
  split at hk
  · exact absurd hk List.not_mem_nil
  · obtain ⟨j, -, rfl⟩ := List.mem_map.1 hk
    rfl

/-! ## The run that a DISPATCH zeroes -/

section
variable {α : Type} (f : Mod → α) (hf : ∀ x y, f { x with mem := y } = f x)
include hf

theorem padWrite_outside (m : Mod) (g off : Nat) (data : List Byte) : f (padWrite m g off data) = f m :=
  (OutsideAccess.foldl (fun u _ => hf u _) _ _).trans (hf ..)

theorem zeroRun_outside (m : Mod) (g base row rows : Nat) : f (zeroRun m g base row rows) = f m :=
  OutsideAccess.foldl (fun u _ => padWrite_outside f hf u ..) _ m

end

theorem mem_padWrite_congr {m u : Mod} (h : u.mem = m.mem) (g off : Nat) (data : List Byte) :
    (padWrite u g off data).mem = (padWrite m g off data).mem :=
  List.foldl_rel (r := fun x y : Mod => x.mem = y.mem) (by simp only [h]) fun _ _ x y hxy => by simp only [hxy]

theorem mem_foldl_padWrite_congr {m u : Mod} (h : u.mem = m.mem) (off : Nat → Nat) (data : Nat → List Byte) (g : Nat) (l : List Nat) :
    (l.foldl (fun x o => padWrite x g (off o) (data o)) u).mem = (l.foldl (fun x o => padWrite x g (off o) (data o)) m).mem :=
  List.foldl_rel (r := fun x y : Mod => x.mem = y.mem) h fun _ _ _ _ hxy => mem_padWrite_congr hxy ..

/-- What the zeroing leaves in memory hangs on memory alone. -/
theorem mem_zeroRun_congr {m u : Mod} (h : u.mem = m.mem) (g base row rows : Nat) :
    (zeroRun u g base row rows).mem = (zeroRun m g base row rows).mem := by
  unfold zeroRun
  exact mem_foldl_padWrite_congr h ..

theorem routeEntry_congr {m u : Mod} (h : u.mem = m.mem) (g ce t j : Nat) : routeEntry u g ce t j = routeEntry m g ce t j := by
  have hread : padRead u g (ce + 64 + 32 * t + 8 * j) 8 = padRead m g (ce + 64 + 32 * t + 8 * j) 8 := by rw [padRead, h, padRead]
  unfold routeEntry
  rw [hread]

/-! ## Tickets -/

theorem ticketAt_setTicket (m : Mod) (g n : Nat) (x : Option Ticket) : ticketAt (setTicket m g n x) g n = x := by
  have hgone : ((engine m g).tickets.filter fun p => p.1 != n).find? (fun p => p.1 == n) = none :=
    List.find?_eq_none.2 fun p hp => by simpa using (List.mem_filter.1 hp).2
  rw [ticketAt, setTicket, engine_modEngine, if_pos rfl]
  cases x with
  | none => simp only [hgone, Option.map_none]
  | some y => simp only [List.find?_append, hgone, Option.none_or, List.find?_singleton, beq_self_eq_true, if_true, Option.map_some]

theorem ctx_setTicket (m : Mod) (g n : Nat) (x : Option Ticket) (h c : Nat) : ctx (setTicket m g n x) h c = ctx m h c :=
  ctx_modEngine _ _ _ _ _ fun _ => rfl

theorem ctx_dropVop (g id : Nat) (m : Mod) (h c : Nat) : ctx (dropVop g id m) h c = ctx m h c := ctx_modEngine _ _ _ _ _ fun _ => rfl

theorem ticketAt_modEngine (m : Mod) (g n : Nat) {f : Engine → Engine} (hf : ∀ e, (f e).tickets = e.tickets) :
    ticketAt (modEngine m g f) g n = ticketAt m g n := by
  rw [ticketAt, engine_modEngine, if_pos rfl, hf, ticketAt]

theorem ticketAt_dropVop (m : Mod) (g n id : Nat) : ticketAt (dropVop g id m) g n = ticketAt m g n :=
  ticketAt_modEngine m g n (f := fun e => { e with vops := e.vops.filter fun v => v.id != id }) fun _ => rfl

theorem ticketAt_setCnt (m : Mod) (g n c i : Nat) (v : W32) : ticketAt (setCnt g c i v m) g n = ticketAt m g n :=
  ticketAt_modEngine m g n (f := fun e => { e with ctx := smod {} e.ctx c fun x => setCounter x i v }) fun _ => rfl

/-- A ticket with nothing outstanding ends its DISPATCH: its count goes to the counter and the ticket is free (R427). -/
theorem finishTicket_spec {g n : Nat} {m : Mod} {x : Ticket} (hx : ticketAt m g n = some x) (hleft : x.left = 0)
    (hst : (ctx m g (x.task % 4)).st ≠ .empty) :
    (finishTicket g n m).mem = m.mem ∧ ticketAt (finishTicket g n m) g n = none
      ∧ ctx (finishTicket g n m) g (x.task % 4) = setCounter (ctx m g (x.task % 4)) (wf x.word 60 4) (BitVec.ofNat 32 x.dropped) := by
  have hbusy : ¬ (ctx (setTicket m g n none) g (x.task % 4)).st = .empty := by rwa [ctx_setTicket]
  have hmem : (setCnt g (x.task % 4) (wf x.word 60 4) (BitVec.ofNat 32 x.dropped) (setTicket m g n none)).mem = m.mem := rfl
  have hfree : ticketAt (setCnt g (x.task % 4) (wf x.word 60 4) (BitVec.ofNat 32 x.dropped) (setTicket m g n none)) g n = none :=
    (ticketAt_setCnt ..).trans (ticketAt_setTicket ..)
  have hctx : ctx (setCnt g (x.task % 4) (wf x.word 60 4) (BitVec.ofNat 32 x.dropped) (setTicket m g n none)) g (x.task % 4)
      = setCounter (ctx m g (x.task % 4)) (wf x.word 60 4) (BitVec.ofNat 32 x.dropped) := by
    rw [setCnt, ctx_modCtx, if_pos ⟨rfl, rfl⟩, ctx_setTicket]
  simp only [finishTicket, hx, hleft, ne_eq, not_true_eq_false, if_false, hbusy]
  split
  · exact ⟨hmem, (ticketAt_dropVop ..).trans hfree, (ctx_dropVop ..).trans hctx⟩
  · exact ⟨hmem, hfree, hctx⟩

/-! ## Entries of experts that are off -/

/-- A module after k entries were dropped by a ticket: all that reads no ticket is as it was. -/
structure EntriesDropped (g tk : Nat) (x : Ticket) (m : Mod) (k : Nat) (u : Mod) : Prop where
  ticket : ticketAt u g tk = some { x with dropped := x.dropped + k }
  outside : ∀ {α : Type} (f : Mod → α), (∀ v y, f (setTicket v g tk y) = f v) → f u = f m

section
variable {t : Clk} {part task id g tk : Nat} {b : Bank} {d : DispOp} {me : Nat} {x : Ticket} {m z : Mod} (hz : m.mem = z.mem)
include hz

/-- An entry whose expert is off is counted and sends nothing. -/
theorem sendEntry_off {row j k : Nat} {u : Mod} (hu : EntriesDropped g tk x m k u)
    (hoff : ∀ n ∈ (routeEntry z g d.ce row j).toList, ∀ y, b.experts[n.1]? = some y → y.capacity = 0) :
    ∃ v, sendEntry t part task id g tk b d me row j (u, none) = (v, none)
      ∧ EntriesDropped g tk x m (k + (routeEntry z g d.ce row j).toList.length) v := by
  have hentry : routeEntry u g d.ce row j = routeEntry z g d.ce row j :=
    routeEntry_congr ((hu.outside (·.mem) fun _ _ => rfl).trans hz) ..
  have hcounted : EntriesDropped g tk x m (k + 1) (setTicket u g tk (some { x with left := x.left + 0, dropped := x.dropped + k + 1 })) :=
    ⟨ticketAt_setTicket .., fun f hf => (hf ..).trans (hu.outside f hf)⟩
  cases hr : routeEntry z g d.ce row j with
  | none => exact ⟨u, by simp only [sendEntry, hentry, hr], by simpa using hu⟩
  | some n =>
    refine ⟨_, ?_, hcounted⟩
    cases hexpert : b.experts[n.1]? with
    | none => simp only [sendEntry, hentry, hr, hexpert, hu.ticket]
    | some y =>
      have hzero : y.capacity = 0 := hoff n (by simp [hr]) y hexpert
      simp only [sendEntry, hentry, hr, hexpert, hzero, if_true, hu.ticket]

theorem sendRow_off {row k : Nat} {u : Mod} (js : List Nat) (hu : EntriesDropped g tk x m k u)
    (hoff : ∀ n ∈ js.filterMap fun j => routeEntry z g d.ce row j, ∀ y, b.experts[n.1]? = some y → y.capacity = 0) :
    ∃ v, js.foldl (fun acc j => sendEntry t part task id g tk b d me row j acc) (u, none) = (v, none)
      ∧ EntriesDropped g tk x m (k + (js.filterMap fun j => routeEntry z g d.ce row j).length) v := by
  induction js generalizing k u with
  | nil => exact ⟨u, rfl, hu⟩
  | cons j js ih =>
    have hsplit : ((j :: js).filterMap fun j => routeEntry z g d.ce row j)
        = (routeEntry z g d.ce row j).toList ++ js.filterMap fun j => routeEntry z g d.ce row j := by
      rw [List.filterMap_cons]
      cases routeEntry z g d.ce row j <;> rfl
    rw [hsplit] at hoff ⊢
    obtain ⟨v, hv, hdropped⟩ := sendEntry_off hz hu fun n hn => hoff n (List.mem_append_left _ hn)
    obtain ⟨v', hv', hdropped'⟩ := ih hdropped fun n hn => hoff n (List.mem_append_right _ hn)
    refine ⟨v', ?_, by rwa [List.length_append, ← Nat.add_assoc]⟩
    rw [List.foldl_cons, hv, hv']

theorem sendRows_off {k : Nat} {u : Mod} (rows : List Nat) (hu : EntriesDropped g tk x m k u)
    (hoff : ∀ n ∈ rows.flatMap fun row => (List.range 4).filterMap fun j => routeEntry z g d.ce row j,
      ∀ y, b.experts[n.1]? = some y → y.capacity = 0) :
    ∃ v, rows.foldl (fun acc row => (List.range 4).foldl (fun acc j => sendEntry t part task id g tk b d me row j acc) acc) (u, none) = (v, none)
      ∧ EntriesDropped g tk x m (k + (rows.flatMap fun row => (List.range 4).filterMap fun j => routeEntry z g d.ce row j).length) v := by
  induction rows generalizing k u with
  | nil => exact ⟨u, rfl, hu⟩
  | cons row rows ih =>
    rw [List.flatMap_cons] at hoff ⊢
    obtain ⟨v, hv, hdropped⟩ := sendRow_off hz (List.range 4) hu fun n hn => hoff n (List.mem_append_left _ hn)
    obtain ⟨v', hv', hdropped'⟩ := ih hdropped fun n hn => hoff n (List.mem_append_right _ hn)
    refine ⟨v', ?_, by rwa [List.length_append, ← Nat.add_assoc]⟩
    rw [List.foldl_cons, hv, hv']

end

/-! ## DISPATCH -/

/-- The DISPATCH of a context in flight, with the ticket it has taken. -/
def dispatchOp (m : Mod) (g c : Nat) (w : LviWord) (id tk : Nat) : VOp where
  id := id
  task := taskId g c
  word := w
  args := [tk, (actBank m g c).1, (dispOp m g c w).cs, (dispOp m g c w).ce, (dispOp m g c w).cd, (dispOp m g c w).rows, (ctx m g c).pc]
  leave := 0

/-- Its ticket, before anything of it is sent. -/
def dispatchTicket (m : Mod) (g c : Nat) (w : LviWord) : Ticket where
  task := taskId g c
  word := w
  dest := (dispOp m g c w).cd
  rows := (dispOp m g c w).rows
  cols := (actBank m g c).2.rowElems
  left := 1
  dropped := 0

/-- The module with its ticket taken and the DISPATCH among the operations of its engine. -/
def dispatchTaken (m : Mod) (g c : Nat) (w : LviWord) (id tk : Nat) : Mod :=
  setTicket (modEngine m g fun e => { e with vops := e.vops ++ [dispatchOp m g c w id tk] }) g tk (some (dispatchTicket m g c w))

theorem dispatchRun_eq (t : Clk) (g c : Nat) (w : LviWord) (id tk : Nat) (m : Mod) : dispatchRun t g c w id tk m
    = beginDispatch t g (dispatchOp m g c w id tk) (signalled t g c w id (dispatchTaken m g c w id tk)) := rfl

theorem dispatchForm_eff {t : Clk} {g c tk : Nat} {w : LviWord} {m : Mod}
    (hgrid : gridOk m g (dispOp m g c w).cs (actBank m g c).2.rowElems (actBank m g c).2.fmt (dispOp m g c w).rows = true)
    (hclean : poisonIn m g (dispRanges m g c w).1 = none) (hticket : freeTicket m g = some tk) (grant : Nat) :
    dispatchForm.eff t g c w grant m = dispatchRun t g c w m.nextId tk (fresh m).2 := by
  simp only [dispatchForm, hgrid, not_true_eq_false, if_false, hclean, hticket]
  rfl

/-- The module that a DISPATCH sends its rows from: its destination zeroed, and the operation begun. -/
def dispatchBegun (g : Nat) (v : VOp) (base row rows : Nat) (m : Mod) : Mod :=
  modEngine (zeroRun m g base row rows) g fun e => { e with vops := e.vops.map fun x => if x.id = v.id then { x with args := x.args.take 2 } else x }

/-- A DISPATCH that no pin holds, all its packets sent, has one thing less outstanding. -/
theorem beginDispatch_sent {t : Clk} {g : Nat} {v : VOp} {m r u : Mod} {tk n cs ce cd rows pc : Nat} {x : Ticket}
    (hargs : v.args = [tk, n, cs, ce, cd, rows, pc]) (hpin : pinned m g cd (gridBytes (bank m n).rowElems 0x10 rows) = false)
    (hrows : (List.range rows).foldl (fun acc row => (List.range 4).foldl (fun acc j =>
      sendEntry t (ctx m g (v.task % 4)).part v.task v.id g tk (bank m n) { cs := cs, ce := ce, cd := cd, rows := rows }
        (runExp m g cs (bank m n).rowElems (bank m n).fmt rows) row j acc) acc)
      (dispatchBegun g v cd (bank m n).rowElems rows m, none) = (r, none))
    (hends : sendAll t (ctx m g (v.task % 4)).part v.task v.id g tk (endPackets m (ctx m g (v.task % 4)).part g tk (bank m n)) (r, none) = (u, none))
    (hx : ticketAt u g tk = some x) : beginDispatch t g v m = finishTicket g tk (setTicket u g tk (some { x with left := x.left - 1 })) := by
  unfold dispatchBegun at hrows
  simp only [beginDispatch, hargs, arg, List.getElem?_cons_zero, List.getElem?_cons_succ, Option.getD_some, hpin, Bool.false_eq_true, if_false,
    hrows, hends, hx]

theorem ticketAt_signalled (t : Clk) (g c : Nat) (w : LviWord) (id n : Nat) (m : Mod) : ticketAt (signalled t g c w id m) g n = ticketAt m g n := by
  have htickets : (engine (signalled t g c w id m) g).tickets = (engine m g).tickets := tickets_of_stillEng (stillEng_signalled ..)
  rw [ticketAt, htickets, ticketAt]

theorem placed_dispatchTaken {m u : Mod} {g c : Nat} (h : Placed m u g c) (w : LviWord) (id tk : Nat) :
    Placed m (dispatchTaken u g c w id tk) g c := by
  unfold dispatchTaken setTicket
  refine Placed.modEngine (Placed.modEngine h ?_ ?_ ?_ g) ?_ ?_ ?_ g <;> exact fun _ => rfl

/-! ### What a DISPATCH begins with -/

section
variable {m : Mod} {g c : Nat} {w : LviWord}

/-- A DISPATCH that misses nothing meets no pin at its destination. -/
theorem pinned_of_tokenMiss (h : tokenMiss m g c w = none) :
    pinned m g (dispOp m g c w).cd (gridBytes (actBank m g c).2.rowElems 0x10 (dispOp m g c w).rows) = false := by
  unfold tokenMiss at h
  simp only at h
  split_ifs at h with _ hpins
  simpa [dispRanges] using (Bool.or_eq_false_iff.1 (Bool.eq_false_iff.2 hpins)).2

end

section
variable (g : Nat) (v : VOp) (base row rows : Nat) (m : Mod)

theorem ctx_dispatchBegun (h c : Nat) : ctx (dispatchBegun g v base row rows m) h c = ctx m h c := by
  rw [dispatchBegun, ctx_modEngine _ _ _ _ _ fun _ => ?_]
  · exact zeroRun_outside (ctx · h c) (fun _ _ => rfl) ..
  · rfl

theorem ticketAt_dispatchBegun (n : Nat) : ticketAt (dispatchBegun g v base row rows m) g n = ticketAt m g n := by
  rw [dispatchBegun, ticketAt_modEngine _ _ _ fun _ => ?_]
  · exact zeroRun_outside (ticketAt · g n) (fun _ _ => rfl) ..
  · rfl

theorem routesKept_dispatchBegun : RoutesKept m (dispatchBegun g v base row rows m) :=
  .of_links (zeroRun_outside (·.bar0) (fun _ _ => rfl) ..) (zeroRun_outside (·.banks) (fun _ _ => rfl) ..)
    (fun k => zeroRun_outside (activeMap · k) (fun _ _ => rfl) ..) (zeroRun_outside (·.links) (fun _ _ => rfl) ..)

end

theorem EntriesDropped.routes {g tk k : Nat} {x : Ticket} {m u : Mod} (h : EntriesDropped g tk x m k u) : RoutesKept m u :=
  .of_links (h.outside (·.bar0) fun _ _ => rfl) (h.outside (·.banks) fun _ _ => rfl) (fun j => h.outside (activeMap · j) fun _ _ => rfl)
    (h.outside (·.links) fun _ _ => rfl)

/-- The notices of a DISPATCH go to the modules of its table. -/
theorem dst_of_mem_endPackets {m : Mod} {part g tk : Nat} {b : Bank} {k : Packet} (hk : k ∈ endPackets m part g tk b) :
    k.typ = 0x23 ∧ ∃ y ∈ b.experts, k.dst.toNat = y.module % 2 ^ 14 := by
  obtain ⟨z, hz, rfl⟩ := List.mem_map.1 hk
  obtain ⟨y, hy, rfl⟩ := List.mem_map.1 (List.mem_dedup.1 hz)
  exact ⟨rfl, y, hy, BitVec.toNat_ofNat ..⟩

/-! ### A DISPATCH of experts that are all off -/

/-- The entries of a route tile. -/
def routeEntries (m : Mod) (g ce rows : Nat) : List (Nat × Nat) :=
  (List.range rows).flatMap fun row => (List.range 4).filterMap fun j => routeEntry m g ce row j

/-- It ends as soon as it has begun: its entries are all dropped, and its notices all sent (R421, R427). -/
theorem beginDispatch_off {t : Clk} {g tk n cs ce cd rows pc : Nat} {c : CtxId} {v : VOp} {m z : Mod} {x : Ticket}
    (hargs : v.args = [tk, n, cs, ce, cd, rows, pc]) (htask : v.task = taskId g c)
    (hpin : pinned m g cd (gridBytes (bank m n).rowElems 0x10 rows) = false) (hst : (ctx m g c).st ≠ .empty)
    (hticket : ticketAt m g tk = some x) (hx : x.task = taskId g c ∧ x.left = 1 ∧ x.dropped = 0)
    (hz : (zeroRun m g cd (bank m n).rowElems rows).mem = z.mem)
    (hgo : ∀ y ∈ (bank m n).experts, y.module % 2 ^ 14 ≠ moduleNum m ∧ ∃ q, route m (ctx m g c).part (y.module % 2 ^ 14) = .ok q)
    (hoff : ∀ k ∈ routeEntries z g ce rows, ∀ y, (bank m n).experts[k.1]? = some y → y.capacity = 0) :
    (beginDispatch t g v m).mem = z.mem ∧ ticketAt (beginDispatch t g v m) g tk = none
      ∧ ctx (beginDispatch t g v m) g c
        = setCounter (ctx m g c) (wf x.word 60 4) (BitVec.ofNat 32 (routeEntries z g ce rows).length) := by
  obtain ⟨hxtask, hleft, hnone⟩ := hx
  have hc : v.task % 4 = c := by rw [htask, taskId_mod]
  have hxc : x.task % 4 = c := by rw [hxtask, taskId_mod]
  have hbegun : EntriesDropped g tk x (dispatchBegun g v cd (bank m n).rowElems rows m) 0 (dispatchBegun g v cd (bank m n).rowElems rows m) :=
    ⟨(ticketAt_dispatchBegun ..).trans hticket, fun _ _ => rfl⟩
  obtain ⟨r, hrows, hr⟩ := sendRows_off (t := t) (part := (ctx m g (v.task % 4)).part) (task := v.task) (id := v.id) (b := bank m n)
    (d := { cs := cs, ce := ce, cd := cd, rows := rows }) (me := runExp m g cs (bank m n).rowElems (bank m n).fmt rows)
    (m := dispatchBegun g v cd (bank m n).rowElems rows m) hz (List.range rows) hbegun hoff
  have hroutes := (routesKept_dispatchBegun g v cd (bank m n).rowElems rows m).trans hr.routes
  obtain ⟨u, hends, hsent⟩ := sent_sendAll (t := t) (task := v.task) (id := v.id) (g := g) (tk := tk) (part := (ctx m g (v.task % 4)).part)
    (ks := endPackets m (ctx m g (v.task % 4)).part g tk (bank m n)) (m := r)
    (fun k hk => (dst_of_mem_endPackets hk).1 ▸ by decide) (fun k hk => by
      obtain ⟨-, y, hy, hdst⟩ := dst_of_mem_endPackets hk
      rw [hdst, hroutes.moduleNum, hroutes.route, hc]
      exact hgo y hy)
  obtain ⟨y, hy, hytask, hyword, hyleft, hydropped⟩ : ∃ y, ticketAt u g tk = some y ∧ y.task % 4 = c ∧ y.word = x.word ∧ y.left - 1 = 0
      ∧ y.dropped = (routeEntries z g ce rows).length :=
    ⟨_, (hsent.outside (ticketAt · g tk) (fun _ _ _ => rfl) fun _ _ _ => rfl).trans hr.ticket, hxc, rfl, by rw [hleft],
      by rw [hnone, Nat.zero_add, Nat.zero_add]; rfl⟩
  have hkept : ∀ {β : Type} (f : Mod → β), (∀ a p k, f (modPort a p k) = f a) → (∀ a p k, f (modPart a p k) = f a) →
      (∀ a y, f (setTicket a g tk y) = f a) → f u = f (dispatchBegun g v cd (bank m n).rowElems rows m) :=
    fun f hport hpart hset => (hsent.outside f hport hpart).trans (hr.outside f hset)
  have hctx : ctx u g c = ctx m g c :=
    (hkept (ctx · g c) (fun _ _ _ => rfl) (fun _ _ _ => rfl) fun _ _ => ctx_setTicket ..).trans (ctx_dispatchBegun ..)
  obtain ⟨hmem, hfree, hend⟩ := finishTicket_spec (ticketAt_setTicket u g tk (some { y with left := y.left - 1 })) hyleft
    (by rwa [ctx_setTicket, hytask, hctx])
  rw [hytask] at hend
  rw [beginDispatch_sent hargs hpin hrows hends hy]
  refine ⟨hmem.trans ((hkept (·.mem) (fun _ _ _ => rfl) (fun _ _ _ => rfl) fun _ _ => rfl).trans hz), hfree, hend.trans ?_⟩
  rw [ctx_setTicket, hctx, ← hyword, ← hydropped]

/-! ## The rows -/

section
variable {e : Eng} {c : CtxId} {w : LviWord} {s : State} (hnext : hasNext s.m e c)
include hnext

/-- COMBINE sends its packets from a module that its round is CLOSING in (R426). -/
theorem combine_spec {n : Nat} {y : Expert} {ks : List Packet} (hhead : headReady s e c 0xC4 (some 1) w) (hready : formReady combineForm s e c w)
    (hok : combineErr s.m e c w = none) (hexpert : combineExpert s.m e c w = some (n, y))
    (hclean : poisonIn s.m e (combineRanges s.m e c w y) = none)
    (hks : ks = (List.range y.capacity).flatMap fun i => retPackets s.m (ctx s.m e c).part e c w y i)
    (hgo : ∀ k ∈ ks, k.dst.toNat ≠ moduleNum s.m ∧ ∃ q, route s.m (ctx s.m e c).part k.dst.toNat = .ok q) :
    ∃ u v, Issued s.m u ∧ attempt combineForm 0xC4 (some 1) e c w s.clk s.m = v
      ∧ Sent (ctx s.m e c).part ks (combineClosed s.clk u e c w n) v := by
  obtain ⟨u, hu, hattempt⟩ := attempt_leaveless hhead hready (fun _ => rfl) rfl
  have hroutes : RoutesKept s.m (combineClosed s.clk u e c w n) :=
    hu.routes.trans (routesKept_combineClosed (hu.still.2.2 e c) hnext ..)
  have hkind : ∀ k ∈ ks, k.typ ≠ 0x20 := fun k hk => by
    obtain ⟨i, -, hi⟩ := List.mem_flatMap.1 (hks ▸ hk)
    rw [typ_of_mem_retPackets hi]
    decide
  obtain ⟨v, hall, hsent⟩ := sent_sendAll (t := s.clk) (task := taskId e c) (id := u.nextId) (g := e) (tk := 16)
    (m := combineClosed s.clk u e c w n) (part := (ctx s.m e c).part) hkind fun k hk => by
      rw [hroutes.moduleNum, hroutes.route]
      exact hgo k hk
  have hksu : ks = (List.range y.capacity).flatMap fun i => retPackets u (ctx u e c).part e c w y i := by
    simp only [hks, hu.part, hu.retPackets]
  refine ⟨u, v, hu, hattempt.trans (combineForm_eff ((hu.combineErr ..).trans hok) ((hu.combineExpert ..).trans hexpert) ?_ ?_ 0), hsent⟩
  · rw [hu.combineRanges, hu.poisonIn, hclean]
  · rw [← hksu, hu.part]
    exact hall

end

theorem dispatchOp_args {m : Mod} {g c n : Nat} {w : LviWord} {b : Bank} {d : DispOp} (hd : dispOp m g c w = d)
    (hb : actBank m g c = (n, b)) (id tk : Nat) :
    (dispatchOp (fresh m).2 g c w id tk).args = [tk, n, d.cs, d.ce, d.cd, d.rows, (ctx (fresh m).2 g c).pc] := by
  subst hd
  have hb' : actBank (fresh m).2 g c = (n, b) := hb
  rw [dispatchOp, hb']
  rfl

theorem dispatchTicket_word (m : Mod) (g c : Nat) (w : LviWord) : (dispatchTicket m g c w).word = w := rfl

/-- A DISPATCH whose experts are all off, from its issue to its end. -/
theorem dispatchRun_off {m u z : Mod} {g n tk : Nat} {c : CtxId} {w : LviWord} {b : Bank} {d : DispOp} (t : Clk) (hu : Issued m u)
    (hnext : hasNext m g c) (hd : dispOp m g c w = d) (hb : actBank m g c = (n, b)) (hbank : bank m n = b)
    (hpin : pinned m g d.cd (gridBytes b.rowElems 0x10 d.rows) = false)
    (hz : (zeroRun m g d.cd b.rowElems d.rows).mem = z.mem)
    (hgo : ∀ y ∈ b.experts, y.module % 2 ^ 14 ≠ moduleNum m ∧ ∃ q, route m (ctx m g c).part (y.module % 2 ^ 14) = .ok q)
    (hoff : ∀ k ∈ routeEntries z g d.ce d.rows, ∀ y, b.experts[k.1]? = some y → y.capacity = 0) {id : Nat} {v : Mod}
    (hv : v = dispatchRun t g c w id tk (fresh u).2) :
    (ctx v g c).pc = (moveTo (ctx m g c) ((ctx m g c).pc + 1)).pc ∧ v.mem = z.mem
      ∧ counter (ctx v g c) (wf w 60 4) = BitVec.ofNat 32 (routeEntries z g d.ce d.rows).length ∧ ticketAt v g tk = none := by
  have hpast := (placed_dispatchTaken (placed_of_issued hu g c) w id tk).signalled hnext t w id
  have hticketed := (ticketAt_signalled t g c w id tk (dispatchTaken (fresh u).2 g c w id tk)).trans (ticketAt_setTicket ..)
  have hargs := dispatchOp_args ((hu.dispOp g c w).trans hd) ((hu.actBank g c).trans hb) id tk
  rw [dispatchRun_eq] at hv
  generalize signalled t g c w id (dispatchTaken (fresh u).2 g c w id tk) = r at hpast hticketed hv
  have htask : (dispatchOp (fresh u).2 g c w id tk).task = taskId g c := rfl
  generalize dispatchOp (fresh u).2 g c w id tk = o at hargs htask hv
  subst hv
  have hx : (dispatchTicket (fresh u).2 g c w).task = taskId g c ∧ (dispatchTicket (fresh u).2 g c w).left = 1
    ∧ (dispatchTicket (fresh u).2 g c w).dropped = 0 := ⟨rfl, rfl, rfl⟩
  have hbank' : bank r n = b := by
    rw [← hbank, bank, hpast.routes.banks, bank]
  obtain ⟨hmem, hfree, hctx⟩ := beginDispatch_off (t := t) (c := c) (z := z) hargs htask
    (by rw [hbank', hpast.pins, hpin]) (by rw [hpast.st]; decide)
    hticketed hx (by rw [hbank', mem_zeroRun_congr hpast.mem, hz]) (by
      rw [hbank', hpast.routes.moduleNum, hpast.part]
      simpa only [hpast.routes.route] using hgo) (by rwa [hbank'])
  rw [hctx, dispatchTicket_word]
  exact ⟨hpast.pc, hmem, by rw [counter_setCounter, if_pos rfl], hfree⟩

/-- A DISPATCH with every expert off ends with the count of its entries, its ticket free (R421, R427). -/
theorem dispatch_spec {e : Eng} {c : CtxId} {w : LviWord} {s : State} {n tk : Nat} {b : Bank} {d : DispOp} {z v : Mod} (hnext : hasNext s.m e c)
    (hhead : headReady s e c 0xC4 (some 0) w) (hready : formReady dispatchForm s e c w)
    (hd : dispOp s.m e c w = d) (hb : actBank s.m e c = (n, b)) (hbank : bank s.m n = b)
    (hgrid : gridOk s.m e d.cs b.rowElems b.fmt d.rows = true)
    (hclean : poisonIn s.m e (dispRanges s.m e c w).1 = none) (hticket : freeTicket s.m e = some tk)
    (hgo : ∀ y ∈ b.experts, y.module % 2 ^ 14 ≠ moduleNum s.m ∧ ∃ q, route s.m (ctx s.m e c).part (y.module % 2 ^ 14) = .ok q)
    (hz : (zeroRun s.m e d.cd b.rowElems d.rows).mem = z.mem)
    (hoff : ∀ k ∈ routeEntries z e d.ce d.rows, ∀ y, b.experts[k.1]? = some y → y.capacity = 0)
    (hv : v = attempt dispatchForm 0xC4 (some 0) e c w s.clk s.m) :
    (ctx v e c).pc = (moveTo (ctx s.m e c) ((ctx s.m e c).pc + 1)).pc ∧ v.mem = z.mem
      ∧ counter (ctx v e c) (wf w 60 4) = BitVec.ofNat 32 (routeEntries z e d.ce d.rows).length ∧ ticketAt v e tk = none := by
  obtain ⟨u, hu, hattempt⟩ := attempt_leaveless hhead hready (fun _ => rfl) rfl
  have hpin : pinned s.m e d.cd (gridBytes b.rowElems 0x10 d.rows) = false := by
    have hissue := issued_pastWait s.clk e c w s.m
    have hmiss := pinned_of_tokenMiss hready.2.2.1
    rwa [hissue.dispOp, hissue.actBank, hissue.pinned, hd, hb] at hmiss
  have heff := dispatchForm_eff (t := s.clk) (by rw [hu.dispOp, hu.actBank, hu.gridOk, hd, hb, hgrid]) (by rw [hu.dispRanges, hu.poisonIn, hclean])
    ((hu.freeTicket e).trans hticket) 0
  exact dispatchRun_off s.clk hu hnext hd hb hbank hpin hz hgo hoff (hv.trans (hattempt.trans heff))

/-! ## The three commands -/

/-- A DISPATCH of experts that are all off moves on, its destination zeros, with the count of its entries. -/
theorem settlesAll_dispatch {e : Eng} {c : CtxId} {w : LviWord} {s : State} {tk : Nat} (hnext : hasNext s.m e c)
    (hhead : headReady s e c 0xC4 (some 0) w) (hready : formReady dispatchForm s e c w) {d : DispOp} {b : Bank} {z : Mod}
    (hd : dispOp s.m e c w = d) (hb : (actBank s.m e c).2 = b) (hz : zeroRun s.m e d.cd b.rowElems d.rows = z)
    (hgrid : gridOk s.m e d.cs b.rowElems b.fmt d.rows = true)
    (hclean : poisonIn s.m e (dispRanges s.m e c w).1 = none) (hticket : freeTicket s.m e = some tk)
    (hgo : ∀ y ∈ b.experts, y.module % 2 ^ 14 ≠ moduleNum s.m ∧ ∃ q, route s.m (ctx s.m e c).part (y.module % 2 ^ 14) = .ok q)
    (hoff : ∀ k ∈ routeEntries z e d.ce d.rows, ∀ y, b.experts[k.1]? = some y → y.capacity = 0) :
    SettlesAll s (exec (.dispatch e c w) s) fun u => (ctx u e c).pc = (moveTo (ctx s.m e c) ((ctx s.m e c).pc + 1)).pc ∧ u.mem = z.mem
      ∧ counter (ctx u e c) (wf w 60 4) = BitVec.ofNat 32 (routeEntries z e d.ce d.rows).length ∧ ticketAt u e tk = none := by
  rw [exec_dispatch]
  exact settlesAll_onAll (dispatch_spec hnext hhead hready hd (n := (actBank s.m e c).1) (by rw [← hb]) (by rw [← hb, actBank]) hgrid hclean
    hticket hgo (congrArg (·.mem) hz) hoff rfl)

/-- A COMBINE moves on, its round CLOSING with the rows that it had, and a packet waits for every record. -/
theorem settlesAll_combine {e : Eng} {c : CtxId} {w : LviWord} {s : State} (hnext : hasNext s.m e c) {n : Nat} {y : Expert} {ks : List Packet}
    (hhead : headReady s e c 0xC4 (some 1) w) (hready : formReady combineForm s e c w)
    (hok : combineErr s.m e c w = none) (hexpert : combineExpert s.m e c w = some (n, y))
    (hclean : poisonIn s.m e (combineRanges s.m e c w y) = none)
    (hks : ks = (List.range y.capacity).flatMap fun i => retPackets s.m (ctx s.m e c).part e c w y i)
    (hgo : ∀ k ∈ ks, k.dst.toNat ≠ moduleNum s.m ∧ ∃ q, route s.m (ctx s.m e c).part k.dst.toNat = .ok q ∧ 1 ≤ (port s.m q).version) :
    SettlesAll s (exec (.combine e c w) s) fun u => (ctx u e c).pc = (moveTo (ctx s.m e c) ((ctx s.m e c).pc + 1)).pc
      ∧ (expRound u e n).st = .closing ∧ (expRound u e n).fill = (expRound s.m e n).fill
      ∧ ∀ k ∈ ks, ∀ q, route s.m (ctx s.m e c).part k.dst.toNat = .ok q → ∃ z ∈ (port u q).txq, z.pkt = k := by
  obtain ⟨u, v, hu, hv, hsent⟩ := combine_spec hnext hhead hready hok hexpert hclean hks fun k hk => by
    obtain ⟨hfar, q, hq, -⟩ := hgo k hk
    exact ⟨hfar, q, hq⟩
  have hstill := hu.still.2.2 e c
  have hroutes := hu.routes.trans (routesKept_combineClosed hstill hnext s.clk w n)
  have hround : expRound v e n = expRound (combineClosed s.clk u e c w n) e n :=
    hsent.outside (expRound · e n) (fun _ _ _ => rfl) fun _ _ _ => rfl
  have hctx : ctx v e c = ctx (combineClosed s.clk u e c w n) e c := hsent.outside (ctx · e c) (fun _ _ _ => rfl) fun _ _ _ => rfl
  obtain ⟨hclosing, hfill⟩ := expRound_combineClosed hstill hnext s.clk w n
  rw [exec_combine]
  refine settlesAll_onAll ?_
  rw [hv, hctx, hround, hfill]
  refine ⟨pc_combineClosed hstill .., hclosing, congrArg (·.fill) (hu.same (expRound · e n) fun _ => rfl), fun k hk q hq => ?_⟩
  obtain ⟨-, q', hq', hversion⟩ := hgo k hk
  obtain rfl : q' = q := by
    rw [hq'] at hq
    exact Except.ok.inj hq
  exact hsent.waits k hk q' (by rw [hroutes.route, hq']) (by rwa [hroutes.version])

/-- EXPERT_ROUND_REOPEN leaves the initial round. -/
theorem settlesAll_reopen {e : Eng} {n : Nat} {s : State} (hst : (expRound s.m e n).st = .closing) (hheld : (expRound s.m e n).held = [])
    (hpins : (expRound s.m e n).pinHeld = []) :
    SettlesAll s (exec (.expertRoundReopen e n) s) fun u => expRound u e n = {} ∧ ∀ y, peek u.mem y = peek s.m.mem y := by
  rw [exec_expertRoundReopen]
  refine settlesAll_onAll ?_
  rw [reopen_empty hst hheld, expRound_modExp, expRound_modExp, hpins]
  exact ⟨rfl, fun _ => rfl⟩

end Sys2Proof.Machine
end

/-! # XCH.MCAST: copies inside a module (R151 to R154, R185, R383)

A copy goes out in packets, each written line by line. Memory that pieces are written to is described by the byte that each address of a
range then holds, so that pieces one after the other are one range. -/

section
namespace Sys2Proof.Machine

/-! ## Ranges written piece by piece -/

/-- The bytes of a range have become those that f gives; no other byte has changed. -/
def Filled (f : Nat → Byte) (a n : Nat) (m u : Mod) : Prop := ∀ y, peek u.mem y = if a ≤ y ∧ y < a + n then f y else peek m.mem y

theorem Filled.nothing (f : Nat → Byte) (a : Nat) (m : Mod) : Filled f a 0 m m := fun y => by rw [if_neg (by omega)]

theorem Filled.append {f : Nat → Byte} {a n k : Nat} {m u v : Mod} (h : Filled f a n m u) (r : Filled f (a + n) k u v) :
    Filled f a (n + k) m v := fun y => by
  rw [r y, h y]
  by_cases hsecond : a + n ≤ y ∧ y < a + n + k
  · rw [if_pos hsecond, if_pos (by omega)]
  · rw [if_neg hsecond]
    exact if_congr (by omega) rfl rfl

theorem Filled.congr {f g : Nat → Byte} {a n : Nat} {m u : Mod} (h : Filled f a n m u) (hfg : ∀ y, a ≤ y → y < a + n → f y = g y) :
    Filled g a n m u := fun y => by
  rw [h y]
  split_ifs with hy
  · exact hfg y hy.1 hy.2
  · rfl

/-- The bytes of a list from an address on, zeros after them. -/
def bytesFrom (bs : List Byte) (a y : Nat) : Byte := bs.getD (y - a) 0

theorem bytesFrom_slice (bs : List Byte) {a k n y : Nat} (hlow : a + k ≤ y) (hhigh : y < a + k + n) :
    bytesFrom (slice bs k n) (a + k) y = bytesFrom bs a y := by
  have hin : y - (a + k) < n := by omega
  simp [bytesFrom, slice_eq_map, List.getD, hin, show k + (y - (a + k)) = y - a by omega]

/-- A range filled with the bytes of a list reads as the list. -/
theorem Filled.peeks {bs : List Byte} {a : Nat} {m u : Mod} (h : Filled (bytesFrom bs a) a bs.length m u) :
    Machine.peeks u.mem a bs.length = bs ∧ ∀ y, (y < a ∨ a + bs.length ≤ y) → peek u.mem y = peek m.mem y := by
  refine ⟨(peeks_congr (v := pokes m.mem a bs) fun i hi => ?_).trans (peeks_pokes ..), fun y hy => by rw [h y, if_neg (by omega)]⟩
  rw [h, if_pos (by omega), peek_pokes_inside _ _ _ _ hi, bytesFrom, Nat.add_sub_cancel_left, List.getD_eq_getElem _ _ hi]

/-- Its pieces cover an access that is no longer than they can be. -/
theorem filled_chunks {f : Nat → Byte} {F : Mod → Nat × Nat → Mod} {n base fuel a len : Nat} {m : Mod} (hn : 0 < n)
    (hroom : len = 0 ∨ a % n + len ≤ n * fuel)
    (hF : ∀ u x, a ≤ x.1 → x.1 + x.2 ≤ a + len → Filled f (base + x.1) x.2 u (F u x)) :
    Filled f (base + a) len m ((chunks n fuel a len).foldl F m) := by
  induction fuel generalizing a len m with
  | zero =>
    obtain rfl : len = 0 := by omega
    exact Filled.nothing f (base + a) m
  | succ fuel ih =>
    unfold chunks
    split_ifs with hlen
    · subst hlen
      exact Filled.nothing f (base + a) m
    · have hmod := Nat.mod_lt a hn
      have hle : min len (n - a % n) ≤ len := Nat.min_le_left ..
      have hrest : Filled f (base + (a + min len (n - a % n))) (len - min len (n - a % n)) (F m (a, min len (n - a % n)))
          ((chunks n fuel (a + min len (n - a % n)) (len - min len (n - a % n))).foldl F (F m (a, min len (n - a % n)))) := by
        refine ih ?_ fun u x hlow hhigh => hF u x (by omega) (by omega)
        rcases Nat.le_total len (n - a % n) with hshort | hlong
        · exact .inl (by omega)
        · right
          have haligned : (a + (n - a % n)) % n = 0 := by
            have hline : a + (n - a % n) = n * (a / n + 1) := by
              have hdiv := Nat.div_add_mod a n
              rw [Nat.mul_succ]
              omega
            rw [hline, Nat.mul_mod_right]
          rw [Nat.min_eq_right hlong, haligned]
          rw [Nat.mul_succ] at hroom
          omega
      have hfirst := hF m (a, min len (n - a % n)) (Nat.le_refl a) (by simp)
      have hboth := hfirst.append (by rwa [Nat.add_assoc])
      rwa [Nat.add_sub_cancel' hle] at hboth

/-- Pieces stay within the access. -/
theorem within_chunks {n fuel a len : Nat} {x : Nat × Nat} (h : x ∈ chunks n fuel a len) : a ≤ x.1 ∧ x.1 + x.2 ≤ a + len := by
  induction fuel generalizing a len with
  | zero => exact absurd h List.not_mem_nil
  | succ fuel ih =>
    unfold chunks at h
    split_ifs at h with hlen
    · exact absurd h List.not_mem_nil
    · have hle : min len (n - a % n) ≤ len := Nat.min_le_left ..
      rcases List.mem_cons.1 h with rfl | hrest
      · exact ⟨Nat.le_refl a, Nat.add_le_add_left hle a⟩
      · have hin := ih hrest
        omega

/-! ## One packet at its place -/

/-- The place at an offset from a place of a pool or a scratchpad. -/
def placeAt (p : Place) (k : Nat) : Place :=
  match p with
  | .pad g off => .pad g (off + k)
  | .pool n off => .pool n (off + k)
  | x => x

/-- A place of a pool or a scratchpad. -/
def onDie : Place → Prop
  | .pad .. | .pool .. => True
  | _ => False

theorem cellAddr_placeAt {p : Place} (h : onDie p) (k : Nat) : cellAddr (placeAt p k) = cellAddr p + k := by
  cases p with
  | pad g off => exact (Nat.add_assoc ..).symm
  | pool n off => exact (Nat.add_assoc ..).symm
  | _ => exact h.elim

theorem onDie_placeAt {p : Place} (h : onDie p) (k : Nat) : onDie (placeAt p k) := by
  cases p <;> exact h

theorem filled_writePlace (m : Mod) (p : Place) (data : List Byte) (b : Bool) :
    Filled (bytesFrom data (cellAddr p)) (cellAddr p) data.length m (writePlace m p data b) := fun y => by
  rw [peek_of_cells (cells_writePlace ..)]
  split_ifs with hy
  · obtain ⟨i, rfl⟩ := Nat.exists_eq_add_of_le hy.1
    have hi : i < data.length := by omega
    rw [peek_pokes_inside _ _ _ _ hi, bytesFrom, Nat.add_sub_cancel_left, List.getD_eq_getElem _ _ hi]
  · exact peek_pokes_outside _ _ _ _ (by omega)

theorem putCopyAt_eq (p : Place) (bs : List Byte) (b : Bool) (m : Mod) : putCopyAt p bs b m = (spans (cellAddr p) bs.length).foldl
    (fun acc s => writePlace acc (placeAt p (s.1 - cellAddr p)) (slice bs (s.1 - cellAddr p) s.2) b) m := by
  cases p <;> rfl

theorem filled_putCopyAt {p : Place} (h : onDie p) (bs : List Byte) (b : Bool) (m : Mod) :
    Filled (bytesFrom bs (cellAddr p)) (cellAddr p) bs.length m (putCopyAt p bs b m) := by
  rw [putCopyAt_eq]
  have hall := filled_chunks (f := bytesFrom bs (cellAddr p)) (n := 256) (base := 0) (fuel := bs.length / 256 + 2) (a := cellAddr p)
    (len := bs.length) (m := m) (F := fun acc s => writePlace acc (placeAt p (s.1 - cellAddr p)) (slice bs (s.1 - cellAddr p) s.2) b)
    (by decide) (by omega) fun u x hlow hhigh => by
      have hwrite := filled_writePlace u (placeAt p (x.1 - cellAddr p)) (slice bs (x.1 - cellAddr p) x.2) b
      rw [cellAddr_placeAt h, length_slice] at hwrite
      have hplace : cellAddr p + (x.1 - cellAddr p) = 0 + x.1 := by omega
      rw [← hplace]
      exact hwrite.congr fun y hy hy' => bytesFrom_slice bs hy hy'
  rwa [Nat.zero_add] at hall

/-! ## A whole copy -/

/-- The packets of a copy, each at its place. -/
def copied (p : Place) (bs : List Byte) (b : Bool) (m : Mod) : Mod :=
  (copyPieces bs.length).foldl (fun acc x => putCopyAt (placeAt p x.1) (slice bs x.1 x.2) b acc) m

theorem filled_copied {p : Place} (h : onDie p) (bs : List Byte) (b : Bool) (m : Mod) :
    Filled (bytesFrom bs (cellAddr p)) (cellAddr p) bs.length m (copied p bs b m) := by
  refine filled_chunks (base := cellAddr p) (a := 0) (by decide) (by omega) fun u x _ _ => ?_
  have hpiece := filled_putCopyAt (onDie_placeAt h x.1) (slice bs x.1 x.2) b u
  rw [cellAddr_placeAt h, length_slice] at hpiece
  exact hpiece.congr fun y hlow hhigh => bytesFrom_slice bs hlow hhigh

theorem eng_foldl {α : Type} {f : Mod → α → Mod} (hf : ∀ u x, (f u x).eng = u.eng) (l : List α) (m : Mod) : (l.foldl f m).eng = m.eng :=
  OutsideAccess.foldl (f := (·.eng)) hf l m

theorem eng_sectorPoison (m : Mod) (a n : Nat) (b : Bool) : (sectorPoison m a n b).eng = m.eng := by
  unfold sectorPoison
  refine eng_foldl (fun _ _ => ?_) ..
  rfl

theorem eng_writePlace (m : Mod) (p : Place) (data : List Byte) (b : Bool) : (writePlace m p data b).eng = m.eng := by
  cases p with
  | pool => exact eng_sectorPoison ..
  | pad => exact eng_sectorPoison ..
  | host => cases b <;> rfl
  | _ => rfl

theorem eng_putCopyAt (p : Place) (bs : List Byte) (b : Bool) (m : Mod) : (putCopyAt p bs b m).eng = m.eng := by
  rw [putCopyAt_eq]
  exact eng_foldl (fun _ _ => eng_writePlace ..) ..

theorem eng_copied (p : Place) (bs : List Byte) (b : Bool) (m : Mod) : (copied p bs b m).eng = m.eng :=
  eng_foldl (fun _ _ => eng_putCopyAt ..) ..

theorem ctx_copied (p : Place) (bs : List Byte) (b : Bool) (m : Mod) (g c : Nat) : ctx (copied p bs b m) g c = ctx m g c := by
  rw [ctx, engine, eng_copied, ctx, engine]

/-- The places of the pieces of a copy that its destination has room for. -/
theorem copyPlace_piece {d : Nat × Bool × Nat} {off n : Nat} {p : Place} (h : copyPlace d off n = some p) {x k : Nat} (hin : x + k ≤ n) :
    copyPlace d (off + x) k = some (placeAt p x) := by
  unfold copyPlace at h ⊢
  split_ifs at h with hpool hroom hroom
  · cases h
    rw [if_pos hpool, if_pos (by omega), placeAt, Nat.add_assoc]
  · cases h
    rw [if_neg hpool, if_pos (by omega), placeAt]

theorem onDie_copyPlace {d : Nat × Bool × Nat} {off n : Nat} {p : Place} (h : copyPlace d off n = some p) : onDie p := by
  unfold copyPlace at h
  split_ifs at h <;> cases h <;> trivial

theorem placeAt_zero (p : Place) : placeAt p 0 = p := by cases p <;> rfl

theorem overlaps_piece {off n x k b j : Nat} (hin : x + k ≤ n) (h : overlaps (off + x) k b j = true) : overlaps off n b j = true := by
  simp only [overlaps, Bool.and_eq_true, decide_eq_true_eq] at h ⊢
  omega

theorem pinned_piece {m : Mod} {g off n x k : Nat} (h : pinned m g off n = false) (hin : x + k ≤ n) : pinned m g (off + x) k = false := by
  refine Bool.eq_false_iff.2 fun hpiece => Bool.eq_false_iff.1 h ?_
  simp only [pinned, List.any_eq_true] at hpiece ⊢
  obtain ⟨gg, hgg, p, hp, r, hr, hover⟩ := hpiece
  exact ⟨gg, hgg, p, hp, r, hr, overlaps_piece hin hover⟩

theorem pinnedAt_piece {m : Mod} {p : Place} {n x k : Nat} (h : pinnedAt m p n = false) (hin : x + k ≤ n) :
    pinnedAt m (placeAt p x) k = false := by
  cases p with
  | pad g off => exact pinned_piece h hin
  | _ => rfl

theorem length_retag {p : Place} {bs : List Byte} (h : 0x18 ≤ bs.length) : (retag p bs).length = bs.length := by
  simp only [retag, patch, List.length_append, length_slice, length_toLe, List.length_drop]
  omega

theorem tileExtent_ge (h : Hdr) : 256 ≤ tileExtent h := by
  have hend : 0 < tileEnd h := by
    unfold tileEnd
    split_ifs <;> omega
  unfold tileExtent roundUp
  omega

/-! ## A multicast to one destination -/

/-- The pieces of a copy are all within its destination. -/
theorem pieces_fit {d : Nat × Bool × Nat} {off n : Nat} {p : Place} (h : copyPlace d off n = some p) :
    ∀ x ∈ copyPieces n, copyPlace d (off + x.1) x.2 = some (placeAt p x.1) ∧ x.1 + x.2 ≤ n := fun x hx => by
  have hin := (within_chunks hx).2
  exact ⟨copyPlace_piece h (by omega), by omega⟩

/-- With nothing ahead of it and no pinned byte where it goes, a multicast to one destination is over. -/
theorem runMcast_one {t : Clk} {g src off : Nat} {v : VOp} {m : Mod} {d : Nat × Bool × Nat} {p : Place} (hargs : v.args = [src, off, 0])
    (hgroup : mcastGroup m (ctx m g (v.task % 4)).part (wf v.word 32 16) = [d]) (hahead : mcastAhead m g v = [])
    (hplace : copyPlace d off v.bytes.length = some p) (hpin : pinnedAt m p v.bytes.length = false) (hlen : 0x18 ≤ v.bytes.length) :
    runMcast t g v m = dropVop g v.id (copied p (retag p v.bytes) v.poisoned m) := by
  have hfit := pieces_fit hplace
  have hfits : ((copyPieces v.bytes.length).filterMap fun x => (copyPlace d (off + x.1) x.2).map fun q => (x, q))
      = (copyPieces v.bytes.length).map fun x => (x, placeAt p x.1) := by
    rw [← List.filterMap_eq_map]
    exact List.filterMap_congr fun x hx => by rw [(hfit x hx).1]; rfl
  have hrest : ((copyPieces v.bytes.length).filter fun x => (copyPlace d (off + x.1) x.2).isNone) = [] :=
    List.filter_eq_nil_iff.2 fun x hx => by simp [(hfit x hx).1]
  have hfree : ((copyPieces v.bytes.length).map fun x => (x, placeAt p x.1)).any (fun x => pinnedAt m x.2 x.1.2) = false :=
    List.any_eq_false.2 fun y hy => by
      obtain ⟨x, hx, rfl⟩ := List.mem_map.1 hy
      simp [pinnedAt_piece hpin (hfit x hx).2]
  have hfirst : copyPlace d off 1 = some p := by
    have h := copyPlace_piece hplace (x := 0) (k := 1) (by omega)
    rwa [placeAt_zero] at h
  have hcopied : (copied p (retag p v.bytes) v.poisoned m)
      = ((copyPieces v.bytes.length).map fun x => (x, placeAt p x.1)).foldl
        (fun m x => putCopyAt x.2 (slice (retag p v.bytes) x.1.1 x.1.2) v.poisoned m) m := by
    rw [copied, length_retag hlen, List.foldl_map]
  unfold runMcast
  simp only [hargs, arg, hgroup, hahead, hfits, hrest, hfree, hfirst, hcopied, List.getElem?_cons_succ, List.getElem?_cons_zero, Option.getD_some,
    List.drop_succ_cons, List.drop_zero, List.foldl_cons, List.foldl_nil, List.contains_nil, Bool.false_eq_true, or_self, if_false,
    List.append_nil, List.map_nil, List.isEmpty_nil, if_true, List.getLast?_nil]

/-! ## The instruction -/

/-- The operation of an XCH.MCAST. -/
def mcastOp (m : Mod) (g c : Nat) (w : LviWord) (id : Nat) : VOp where
  id := id
  task := taskId g c
  word := w
  args := [(cnt m g c (wf w 60 4)).toNat, (cnt m g c (wf w 56 4)).toNat] ++ List.range (mcastGroup m (ctx m g c).part (wf w 32 16)).length
  leave := 0
  bytes := padRead m g (cnt m g c (wf w 60 4)).toNat (tileExtent (headAt m g (cnt m g c (wf w 60 4)).toNat))
  poisoned := padPoison m g (cnt m g c (wf w 60 4)).toNat (tileExtent (headAt m g (cnt m g c (wf w 60 4)).toNat))

/-- The module with the operation among those of its engine. -/
def mcastTaken (m : Mod) (g : Nat) (v : VOp) : Mod := modEngine m g fun e => { e with vops := e.vops ++ [v] }

theorem mcastForm_eff {t : Clk} {g c : Nat} {w : LviWord} {m : Mod} (hclean : padPoison m g (cnt m g c (wf w 60 4)).toNat 64 = false)
    (hext : wExt w = 0) (grant : Nat) : mcastForm.eff t g c w grant m
      = runMcast t g (mcastOp m g c w m.nextId) (signalled t g c w m.nextId (mcastTaken (fresh m).2 g (mcastOp m g c w m.nextId))) := by
  simp only [mcastForm, hclean, hext, Bool.false_eq_true, if_false, if_true]
  rfl

theorem mcastGroup_congr {m u : Mod} (h : u.parts = m.parts) (part n : Nat) : mcastGroup u part n = mcastGroup m part n := by
  rw [mcastGroup, partSt, h, mcastGroup, partSt]

/-- Among operations none of which is a multicast nothing is ahead of a new one. -/
theorem mcastAhead_nil {m : Mod} {g : Nat} {v : VOp} {ops : List VOp} (hops : (engine m g).vops = ops ++ [v])
    (hnone : ∀ x ∈ ops, isMcast x = false) : mcastAhead m g v = [] := by
  have hbefore : ∀ x ∈ (ops ++ [v]).takeWhile (fun x => x.id != v.id), isMcast x = false := fun x hx => by
    have hid := List.mem_takeWhile_imp hx
    rcases List.mem_append.1 (List.takeWhile_subset _ hx) with hold | hnew
    · exact hnone x hold
    · rw [List.mem_singleton.1 hnew] at hid
      simp at hid
  rw [mcastAhead, hops, List.filter_eq_nil_iff.2 fun x hx => by simp [hbefore x hx], List.flatMap_nil]

theorem vops_mcastTaken (m : Mod) (g : Nat) (v : VOp) : (engine (mcastTaken m g v) g).vops = (engine m g).vops ++ [v] := by
  rw [mcastTaken, engine_modEngine, if_pos rfl]

theorem placed_mcastTaken {m u : Mod} {g c : Nat} (h : Placed m u g c) (v : VOp) : Placed m (mcastTaken u g v) g c :=
  h.modEngine (f := fun e => { e with vops := e.vops ++ [v] }) (fun _ => rfl) (fun _ => rfl) (fun _ => rfl) g

/-- The operands of a multicast to one destination. -/
theorem mcastOp_args {m u : Mod} {g c : Nat} {w : LviWord} {d : Nat × Bool × Nat} (hu : Issued m u)
    (hgroup : mcastGroup m (ctx m g c).part (wf w 32 16) = [d]) (id : Nat) :
    (mcastOp u g c w id).args = [(counter (ctx m g c) (wf w 60 4)).toNat, (counter (ctx m g c) (wf w 56 4)).toNat, 0] := by
  have hparts : mcastGroup u (ctx u g c).part (wf w 32 16) = [d] := by
    rw [hu.part, mcastGroup_congr (hu.same (·.parts) fun _ => rfl), hgroup]
  rw [mcastOp, hparts, hu.cnt, hu.cnt]
  rfl

theorem mcastOp_bytes {m u : Mod} {g c : Nat} {w : LviWord} {src : Nat} (hu : Issued m u) (hsrc : (counter (ctx m g c) (wf w 60 4)).toNat = src)
    (id : Nat) : (mcastOp u g c w id).bytes = padRead m g src (tileExtent (headAt m g src)) := by
  rw [mcastOp, hu.cnt, hsrc, hu.headAt, hu.padRead]

/-- XCH.MCAST to one destination moves on, its tile there with the TAG_INDEX of its place, and no other byte has changed. -/
theorem mcast_spec {e : Eng} {c : CtxId} {w : LviWord} {s : State} {d : Nat × Bool × Nat} {p : Place} {src n : Nat} {v : Mod}
    (hnext : hasNext s.m e c) (hhead : headReady s e c 0xC3 none w) (hready : formReady mcastForm s e c w) (hext : wExt w = 0)
    (hsrc : (counter (ctx s.m e c) (wf w 60 4)).toNat = src) (hn : tileExtent (headAt s.m e src) = n) (hclean : padPoison s.m e src 64 = false)
    (hgroup : mcastGroup s.m (ctx s.m e c).part (wf w 32 16) = [d]) (hnone : ∀ v ∈ (engine s.m e).vops, isMcast v = false)
    (hplace : copyPlace d (counter (ctx s.m e c) (wf w 56 4)).toNat n = some p) (hpin : pinnedAt s.m p n = false)
    (hv : v = attempt mcastForm 0xC3 none e c w s.clk s.m) :
    (ctx v e c).pc = (moveTo (ctx s.m e c) ((ctx s.m e c).pc + 1)).pc ∧ peeks v.mem (cellAddr p) n = retag p (padRead s.m e src n)
      ∧ ∀ y, (y < cellAddr p ∨ cellAddr p + n ≤ y) → peek v.mem y = peek s.m.mem y := by
  obtain ⟨u, hu, hattempt⟩ := attempt_leaveless hhead hready (fun _ => rfl) rfl
  have heff := mcastForm_eff (t := s.clk) (g := e) (c := c) (w := w) (m := u)
    (by rw [hu.cnt, hsrc, ← hclean]; exact hu.same (padPoison · e src 64) fun _ => rfl) hext 0
  have hargs := mcastOp_args hu hgroup u.nextId
  have hbytes := mcastOp_bytes hu hsrc u.nextId
  have htask : (mcastOp u e c w u.nextId).task = taskId e c := rfl
  have hword : (mcastOp u e c w u.nextId).word = w := rfl
  have hnew := hv.trans (hattempt.trans heff)
  generalize mcastOp u e c w u.nextId = o at hargs hbytes htask hword hnew
  have hpast := (placed_mcastTaken (placed_of_issued hu e c) o).signalled hnext s.clk w u.nextId
  have hops : (engine (signalled s.clk e c w u.nextId (mcastTaken (fresh u).2 e o)) e).vops = (engine s.m e).vops ++ [o] := by
    rw [vops_of_stillEng (stillEng_signalled ..), vops_mcastTaken]
    exact congrArg (· ++ [o]) (vops_of_stillEng (hu.still.2.1 e))
  generalize signalled s.clk e c w u.nextId (mcastTaken (fresh u).2 e o) = r at hpast hops hnew
  have hlen : o.bytes.length = n := by rw [hbytes, hn, padRead, length_peeks]
  have hlong : 0x18 ≤ o.bytes.length := by
    have := tileExtent_ge (headAt s.m e src)
    omega
  have hpinned : pinnedAt r p n = false := by
    cases p with
    | pad g off => exact (hpast.pins g off n).trans hpin
    | _ => rfl
  rw [runMcast_one hargs (by rw [htask, taskId_mod, hpast.part, mcastGroup_congr hpast.parts, hword, hgroup]) (mcastAhead_nil hops hnone)
    (by rw [hlen, hplace]) (by rw [hlen, hpinned]) hlong] at hnew
  have htag : (retag p o.bytes).length = n := (length_retag hlong).trans hlen
  obtain ⟨hstands, hbeside⟩ := (filled_copied (onDie_copyPlace hplace) (retag p o.bytes) o.poisoned r).peeks
  rw [hnew, ctx_dropVop, ctx_copied, mem_dropVop]
  rw [htag] at hstands hbeside
  rw [hbytes, hn] at hstands hbeside ⊢
  exact ⟨hpast.pc, hstands, fun y hy => (hbeside y hy).trans (by rw [hpast.mem])⟩

theorem exec_xchMcast (e : Eng) (c : CtxId) (w : LviWord) (s : State) :
    exec (.xchMcast e c w) s = onAll (attempt mcastForm 0xC3 none e.val c.val w) s := rfl

end Sys2Proof.Machine

namespace Sys2Proof
open Machine

/-- Settles O28: a multicast is its pieces written one after the other, a DISPATCH drops all its entries, a COMBINE sends all its packets
from a module that its round is CLOSING in, and nothing waits for a round that opens again. -/
theorem tokenInstructions : Obligations.TokenInstructions := by
  refine ⟨?issued, ?reopen⟩
  case' issued =>
    intro e c w s hnext x pc part
    refine ⟨?mcast, ?dispatch, ?combine⟩
  case mcast =>
    intro d p hhead hready hext src n hclean hgroup hnone hplace hpin
    rw [exec_xchMcast]
    exact settlesAll_onAll (mcast_spec hnext hhead hready hext rfl rfl hclean hgroup hnone hplace hpin rfl)
  case dispatch =>
    intro tk hhead hready d b z entries hgrid hclean hticket hgo hoff
    exact settlesAll_dispatch hnext hhead hready rfl rfl rfl hgrid hclean hticket hgo hoff
  case combine =>
    intro n y hhead hready hok hexpert hclean ks hgo
    exact settlesAll_combine hnext hhead hready hok hexpert hclean rfl hgo
  case reopen => exact fun e n s => settlesAll_reopen

end Sys2Proof
end


/-! # Bring-up, loss and rekeying of a link port (R394 to R397, R406, R429, R430)

A port that goes down is `portDown`, under a fault the entry of `linkFault` beside it; every row of the bring-up is that, or one update of
its port. -/

section
namespace Sys2Proof.Machine

theorem port_modPort_same (m : Mod) (p : Nat) (f : LPort → LPort) : port (modPort m p f) p = f (port m p) :=
  (port_modPort ..).trans (if_pos rfl)

/-! ## A port goes down (R394, R406) -/

/-- Signals that will never be made leave the queues of the sync files alone. -/
theorem foldl_dropSignals_outside {α : Type} (f : Mod → α) (hf : ∀ m q, f { m with syncQ := q } = f m) (l : List Nat) (m : Mod) :
    f (l.foldl dropSignals m) = f m :=
  OutsideAccess.foldl (fun u _ => hf u _) l m

section
variable (t : Clk) (p : Nat) (reason : Byte) (m : Mod)

theorem portDown_outside {α : Type} (f : Mod → α)
    (hf : ∀ m bar0 links q b, f { m with bar0 := bar0, links := links, syncQ := q, bulkOut := b } = f m) :
    f (portDown t p reason m) = f m :=
  (foldl_dropSignals_outside f (fun u q => hf u u.bar0 u.links q u.bulkOut) _ _).trans (hf m _ _ m.syncQ _)

theorem mem_portDown : (portDown t p reason m).mem = m.mem := portDown_outside t p reason m (·.mem) fun _ _ _ _ _ => rfl

theorem logs_portDown : (portDown t p reason m).logs = m.logs := portDown_outside t p reason m (·.logs) fun _ _ _ _ _ => rfl

theorem out_portDown : (portDown t p reason m).out = m.out := portDown_outside t p reason m (·.out) fun _ _ _ _ _ => rfl

theorem port_portDown : port (portDown t p reason m) p
    = { st := .down, reason := reason, since := t.now, retries := (port m p).retries, corrected := (port m p).corrected } :=
  (foldl_dropSignals_outside (port · p) (fun _ _ => rfl) _ _).trans (port_modPort_same ..)

theorem portEn_portDown : portEn (portDown t p reason m) p = false :=
  (foldl_dropSignals_outside (portEn · p) (fun _ _ => rfl) _ _).trans (regB_setBit_same _ _ (by decide) false)

theorem wentDown_portDown : wentDown (portDown t p reason m) p reason := by
  rw [wentDown, port_portDown]
  exact ⟨rfl, rfl, portEn_portDown .., rfl, rfl, rfl⟩

/-- A port that a fault takes down leaves its entry in the log of its die (R575). -/
theorem linkEntry_portDown (cause : Nat) {before : Mod} (h : m.logs = before.logs) :
    linkEntry before (portDown t p reason (linkFault t p cause m)) p cause := by
  have hflog : flog (portDown t p reason (linkFault t p cause m)) (logLD (portDie p)) = flog (linkFault t p cause m) (logLD (portDie p)) := by
    rw [flog, logs_portDown, flog]
  have hbefore : flog m (logLD (portDie p)) = flog before (logLD (portDie p)) := by rw [flog, h, flog]
  rw [linkEntry, hflog, linkFault, linkLog, flog_logFault, hbefore]
  exact ⟨rfl, rfl, rfl⟩

end

/-! ## LPORT_CTRL (R21, R394) -/

theorem storeFields_outside {α : Type} (g : Mod → α) (hg : ∀ m bar0, g { m with bar0 := bar0 } = g m) (f off v : Nat) (m : Mod) :
    g (storeFields f off v m) = g m := by
  unfold storeFields
  split
  · rfl
  · exact hg ..

theorem lportErr_storeFields (f off v : Nat) (m : Mod) (p : Nat) : lportErr (storeFields f off v m) p = lportErr m p :=
  storeFields_outside (lportErr · p) (fun _ _ => rfl) ..

section
variable {f p v : Nat} {m : Mod} (t : Clk)

theorem lportWrite_clears (hv : bit v 0 = false) (hen : portEn m p = true) :
    lportWrite f p v t m = portDown t p 0 (storeFields f (rLport p) v m) := by
  simp [lportWrite, hv, hen]

variable (hv : bit v 0 = true) (hen : portEn m p = false)
include hv hen

theorem lportWrite_refused {r : Byte} (herr : lportErr m p = some r) :
    lportWrite f p v t m = modPort (storeFields f (rLport p) v m) p fun l => { l with reason := r } := by
  simp [lportWrite, hv, hen, lportErr_storeFields, herr]

theorem lportWrite_trains (herr : lportErr m p = none) :
    lportWrite f p v t m = modPort (setBit (storeFields f (rLport p) v m) (rLport p) 0 true) p
      fun l => { l with st := .training, reason := 0, since := t.now, quiesced := false } := by
  simp [lportWrite, hv, hen, lportErr_storeFields, herr]

end

theorem links_lportEnable {f : Func} {p : Port} {v : W64} {s : State} {P : Mod → Prop} (hw : writable s.m f (rLport p) = true)
    (h : P (lportWrite f p v.toNat s.clk s.m)) : Links s (exec (.lportEnable f p v) s) P := by
  refine links_onPort (f := fun t m => gated f (rLport p) (lportWrite f p v.toNat t) m) ?_
  rw [gated_of_writable _ hw]
  exact h

/-! ## TRAINING (R395) -/

/-- The best mode that both sides offer on the lanes that lock. -/
def commonMode (m : Mod) (p : Nat) (x : Offering) (ours : Nat) : Option (Nat × Nat × Nat) :=
  bestMode p (ourRates m p &&& x.rates.toNat) (ourWidths m p &&& x.widths.toNat) (ourFec m p &&& x.fec.toNat) (ours &&& x.lanes.toNat)

theorem links_eqClamp (t : Clk) (p want : Nat) (m : Mod) : (eqClamp t p want m).links = m.links := by
  unfold eqClamp
  split_ifs <;> rfl

section
variable {m : Mod} {p : Nat} {x : Offering} {ours : Nat} (t : Clk) (hst : (port m p).st = .training) (hbusy : linkBusy m p = false)
  (hscrub : portScrubs m p = false)
include hst hbusy hscrub

theorem trainingDone_fails (h : commonMode m p x ours = none) :
    trainingDone p x ours t m = portDown t p 0x41 (linkFault t p 3 m) := by
  rw [commonMode] at h
  simp only [trainingDone, hst, hbusy, hscrub, h, ne_eq, not_true_eq_false, Bool.false_eq_true, or_self, if_false]

theorem port_trainingDone {r w c : Nat} (h : commonMode m p x ours = some (r, w, c)) :
    port (trainingDone p x ours t m) p
      = { port m p with st := .hello, since := t.now, rate := r, width := w, fec := c, fragTx := 0, rxMsg := (0, 0, []) } := by
  rw [commonMode] at h
  simp only [trainingDone, hst, hbusy, hscrub, h, ne_eq, not_true_eq_false, Bool.false_eq_true, or_self, if_false]
  rw [port_modPort_same, port, links_eqClamp, ← port]

end

theorem exec_trainingComplete (p : Port) (x : Offering) (ours : BitVec 4) (s : State) :
    exec (.trainingComplete p x ours) s = onPort (trainingDone p x ours.toNat) s := rfl

/-! ## Time limits (R394, R612) -/

section
variable {p : Nat} {t : Clk} {m : Mod}

theorem portTimeout_training (hst : (port m p).st = .training) (hdue : (port m p).since + 160000000 ≤ t.now) :
    portTimeout p t m = portDown t p 0x41 (linkFault t p 3 m) := by
  simp only [portTimeout, hst, msTicks, Nat.not_lt.2 hdue, if_false]

theorem portTimeout_hello (hst : (port m p).st = .hello) (hdue : (port m p).since + 16000000 ≤ t.now) :
    portTimeout p t m = portDown t p 0x42 m := by
  simp only [portTimeout, hst, msTicks, Nat.not_lt.2 hdue, if_false]

theorem portTimeout_keying (hst : (port m p).st = .keying) (hdue : (port m p).since + 16000000 ≤ t.now) :
    portTimeout p t m = portDown t p 0x43 m := by
  simp only [portTimeout, hst, msTicks, Nat.not_lt.2 hdue, if_false]

end

theorem exec_portStateTimeout (p : Port) (s : State) : exec (.portStateTimeout p) s = onPort (portTimeout p) s := rfl

/-! ## HELLO (R21, R396) -/

/-- The highest of the versions that a partner offers. -/
theorem highestVersion (vs : BitVec 3) (h : vs ≠ 0) :
    [2, 1, 0].find? (fun i => bit vs.toNat i) = some (if bit vs.toNat 2 then 2 else if bit vs.toNat 1 then 1 else 0) := by
  revert vs
  decide

section
variable {p n : Nat} {vs : BitVec 3} {m : Mod} (t : Clk) (hst : (port m p).st = .hello) (hbusy : linkBusy m p = false)
  (hscrub : portScrubs m p = false)
include hst hbusy hscrub

theorem helloMsg_self (versions : Nat) (hn : n = moduleNum m) : helloMsg p n versions t m = portDown t p 0x40 m := by
  simp only [helloMsg, hst, hbusy, hscrub, hn, ne_eq, not_true_eq_false, Bool.false_eq_true, or_self, if_false, if_true]

variable (hn : n ≠ moduleNum m)
include hn

theorem helloMsg_noVersion : helloMsg p n 0 t m = portDown t p 0x42 m := by
  have hnone : [2, 1, 0].find? (fun i => bit 0 i) = none := by decide
  simp only [helloMsg, hst, hbusy, hscrub, hn, hnone, ne_eq, not_true_eq_false, Bool.false_eq_true, or_self, if_false]

theorem helloMsg_agrees (hvs : vs ≠ 0) :
    helloMsg p n vs.toNat t m = drawEph p (modPort m p fun l => { l with
      st := .keying, since := t.now, version := if bit vs.toNat 2 then 2 else if bit vs.toNat 1 then 1 else 0, partner := BitVec.ofNat 14 n }) := by
  simp only [helloMsg, hst, hbusy, hscrub, hn, highestVersion vs hvs, ne_eq, not_true_eq_false, Bool.false_eq_true, or_self, if_false]

end

theorem port_drawEph (p : Nat) (m : Mod) :
    port (drawEph p m) p = { port m p with eph := Config.drawBytes m.draw 96, fragTx := 0, rxMsg := (0, 0, []) } :=
  port_modPort_same m p fun l => { l with eph := Config.drawBytes m.draw 96, fragTx := 0, rxMsg := (0, 0, []) }

theorem mem_drawEph (p : Nat) (m : Mod) : (drawEph p m).mem = m.mem := rfl

theorem logs_drawEph (p : Nat) (m : Mod) : (drawEph p m).logs = m.logs := rfl

theorem exec_hello (p : Port) (n : BitVec 14) (vs : BitVec 3) (s : State) :
    exec (.hello p n vs) s = onPort (helloMsg p n.toNat vs.toNat) s := rfl

/-! ## KEYX and REKEY (R429, R430) -/

/-- The port of a session whose keys have been agreed. -/
def keyed (t : Clk) (m : Mod) (l : LPort) (k : PeerKey) : LPort := { l with
  st := .up, since := t.now, peer := k.device, peerSwitch := k.isSwitch, key := sessKeys (initiates m l) l.eph k.kx
  prevKey := none, keyphase := false, pseqTx := 0, pseqHi := 0, seen := [], creditTx := creditsAtUp
  eph := [], fragTx := 0, rxMsg := (0, 0, []) }

/-- The port of a session that goes on under new keys, agreed with the secrets it holds or with fresh ones. -/
def rekeyed (m : Mod) (l : LPort) (k : PeerKey) : LPort := { l with
  rekeying := false, prevKey := some l.key, keyphase := !l.keyphase, pseqTx := 0, eph := [], fragTx := 0, rxMsg := (0, 0, [])
  key := sessKeys (initiates m l) (if l.rekeying then l.eph else Config.drawBytes m.draw 96) k.kx }

/-- The keys agreed with the secrets of a port take the place of its own, which stay until a packet verifies under the new. -/
def newKeys (p : Nat) (k : PeerKey) (m : Mod) : Mod :=
  modPort (agree p k m).2 p fun l => { l with
    rekeying := false, key := (agree p k m).1, prevKey := some l.key, keyphase := !l.keyphase, pseqTx := 0, eph := [], fragTx := 0, rxMsg := (0, 0, []) }

theorem port_newKeys (p : Nat) (k : PeerKey) (m : Mod) : port (newKeys p k m) p = { port m p with
    rekeying := false, key := sessKeys (initiates m (port m p)) (port m p).eph k.kx, prevKey := some (port m p).key
    keyphase := !(port m p).keyphase, pseqTx := 0, eph := [], fragTx := 0, rxMsg := (0, 0, []) } := by
  have hport : port (agree p k m).2 p = port m p := rfl
  rw [newKeys, port_modPort_same, hport, agree]

theorem mem_newKeys (p : Nat) (k : PeerKey) (m : Mod) : (newKeys p k m).mem = m.mem := rfl

theorem logs_newKeys (p : Nat) (k : PeerKey) (m : Mod) : (newKeys p k m).logs = m.logs := rfl

section
variable {p : Nat} {k : PeerKey} {m : Mod} (t : Clk) (hbusy : linkBusy m p = false) (hscrub : portScrubs m p = false)
include hbusy hscrub

section
variable (hst : (port m p).st = .keying)
include hst

theorem keyxMsg_untrusted (h : trusted m p k = false) : keyxMsg p k t m = portDown t p 0x43 m := by
  simp only [keyxMsg, hst, hbusy, hscrub, h, ne_eq, not_true_eq_false, Bool.false_eq_true, or_self, if_false, not_false_eq_true, if_true]

theorem keyxMsg_trusted (h : trusted m p k = true) :
    port (keyxMsg p k t m) p = keyed t m (port m p) k ∧ (keyxMsg p k t m).mem = m.mem ∧ (keyxMsg p k t m).logs = m.logs := by
  simp only [keyxMsg, hst, hbusy, hscrub, h, ne_eq, not_true_eq_false, Bool.false_eq_true, or_self, if_false]
  exact ⟨port_modPort_same .., rfl, rfl⟩

end

variable (hst : (port m p).st = .up) (hver : (port m p).version = 2)
include hst hver

theorem rekeyMsg_untrusted (h : trusted m p k = false) : rekeyMsg p k t m = portDown t p 0x43 m := by
  simp only [rekeyMsg, hst, hver, hbusy, hscrub, h, ne_eq, not_true_eq_false, Bool.false_eq_true, or_self, if_false, not_false_eq_true, if_true]

theorem rekeyMsg_trusted (h : trusted m p k = true) :
    port (rekeyMsg p k t m) p = rekeyed m (port m p) k ∧ (rekeyMsg p k t m).mem = m.mem ∧ (rekeyMsg p k t m).logs = m.logs := by
  have htakes : rekeyMsg p k t m = newKeys p k (if (port m p).rekeying then m else drawEph p m) := by
    simp only [rekeyMsg, hst, hver, hbusy, hscrub, h, ne_eq, not_true_eq_false, Bool.false_eq_true, or_self, if_false]
    rfl
  rw [htakes, port_newKeys, rekeyed]
  split_ifs with hre
  · exact ⟨rfl, mem_newKeys .., logs_newKeys ..⟩
  · rw [mem_newKeys, logs_newKeys, mem_drawEph, logs_drawEph, port_drawEph]
    exact ⟨rfl, rfl, rfl⟩

end

theorem exec_keyx (p : Port) (k : PeerKey) (s : State) : exec (.keyx p k) s = onPort (keyxMsg p k) s := rfl

theorem exec_rekey (p : Port) (k : PeerKey) (s : State) : exec (.rekey p k) s = onPort (rekeyMsg p k) s := rfl

/-- The port that starts to rekey, or goes on. -/
def rekeyAsked (m : Mod) (l : LPort) : LPort :=
  if l.rekeying then l else { l with rekeying := true, eph := Config.drawBytes m.draw 96, fragTx := 0, rxMsg := (0, 0, []) }

/-- What a rekey that starts leaves as it was. -/
theorem startRekey_outside {α : Type} (f : Mod → α) (hf : ∀ m links d, f { m with links := links, draw := d } = f m) (p : Nat) (m : Mod) :
    f (startRekey p m) = f m := by
  unfold startRekey
  split_ifs
  · rfl
  · exact (hf ..).trans (hf m _ m.draw)

theorem port_startRekey (p : Nat) (m : Mod) : port (startRekey p m) p = rekeyAsked m (port m p) := by
  unfold startRekey rekeyAsked
  split_ifs
  · rfl
  · rw [port_drawEph, port_modPort_same]
    rfl

theorem exec_rekeyRequest {f : Func} {p : Port} {s : State} (hw : writable s.m f (rLport p) = true) (hst : (port s.m p).st = .up)
    (hver : (port s.m p).version = 2) : exec (.rekeyRequest f p) s = onPort (fun _ m => startRekey p m) s := by
  change onPort (fun _ m => gated f.val (rLport p.val) (rekeyAsk p.val) m) s = _
  have hasks : rekeyAsk p s.m = startRekey p s.m := if_pos ⟨hst, hver⟩
  simp only [onPort, onLink, onBoth, gated_of_writable _ hw, hasks]

/-! ## A lane lost (R397, R564) -/

section
variable {p : Nat} {m : Mod} (t : Clk)

theorem laneLoss_up (hst : (port m p).st = .up) (hq : (port m p).quiesced = false) :
    laneLoss p t m = portDown t p 0x4B (linkFault t p 1 m) := by
  simp [laneLoss, hst, hq]

theorem laneLoss_quiesced (hst : (port m p).st ≠ .down) (hq : (port m p).quiesced = true) : laneLoss p t m = portDown t p 0x4B m := by
  simp [laneLoss, hst, hq]

end

theorem exec_laneLoss (p : Port) (lane : Fin 4) (s : State) : exec (.laneLoss p lane) s = onPort (laneLoss p) s := rfl

/-! ## The rows -/

section
variable {s : State} {p : Nat} {g : Clk → Mod → Mod} {reason : Byte}

/-- A row that takes its port down on its own. -/
theorem links_goesDown (h : g s.clk s.m = portDown s.clk p reason s.m) :
    Links s (onPort g s) fun u => wentDown u p reason ∧ u.mem = s.m.mem := by
  refine links_onPort ?_
  rw [h]
  exact ⟨wentDown_portDown .., mem_portDown ..⟩

/-- A row that a fault takes its port down in. -/
theorem links_faults {m : Mod} {cause : Nat} (h : g s.clk s.m = portDown s.clk p reason (linkFault s.clk p cause m)) (hlogs : m.logs = s.m.logs) :
    Links s (onPort g s) fun u => wentDown u p reason ∧ linkEntry s.m u p cause := by
  refine links_onPort ?_
  rw [h]
  exact ⟨wentDown_portDown .., linkEntry_portDown _ _ _ _ _ hlogs⟩

end

end Sys2Proof.Machine

namespace Sys2Proof
open Machine

/-- Settles O47: each row of the bring-up is one update of its port or `portDown`, which `links_goesDown` and `links_faults` read. -/
theorem portStates : Obligations.PortStates := by
  unfold Obligations.PortStates
  intro p s
  dsimp only
  refine ⟨fun f v hw => ⟨?clears, ?refused, ?trains⟩, fun x ours hst hbusy hscrub => ⟨?noMode, ?mode⟩, ?limitTraining, ?limitHello,
    ?limitKeying, fun n vs hst hbusy hscrub => ⟨?self, ?noVersion, ?version⟩, fun k hbusy hscrub => ⟨?keyxNo, ?keyx, ?rekeyNo, ?rekey⟩, ?ask,
    fun lane => ⟨?lost, ?quiesced⟩⟩
  case clears =>
    intro hv hen
    refine links_lportEnable hw ?_
    rw [lportWrite_clears _ hv hen]
    exact ⟨wentDown_portDown .., (mem_portDown ..).trans (storeFields_outside (·.mem) (fun _ _ => rfl) ..)⟩
  case refused =>
    intro hv hen r herr
    refine links_lportEnable hw ?_
    rw [lportWrite_refused _ hv hen herr]
    refine ⟨(port_modPort_same ..).trans ?_, storeFields_outside (·.mem) (fun _ _ => rfl) .., storeFields_outside (·.logs) (fun _ _ => rfl) ..⟩
    rw [storeFields_outside (port · p) fun _ _ => rfl]
  case trains =>
    intro hv hen herr
    refine links_lportEnable hw ?_
    rw [lportWrite_trains _ hv hen herr]
    refine ⟨regB_setBit_same _ _ (by decide) true, (port_modPort_same ..).trans ?_⟩
    have hport : port (setBit (storeFields f (rLport p) v.toNat s.m) (rLport p) 0 true) p = port s.m p :=
      storeFields_outside (port · p) (fun _ _ => rfl) ..
    rw [hport]
  case noMode =>
    intro hbest
    rw [exec_trainingComplete]
    exact links_faults (trainingDone_fails s.clk hst hbusy hscrub hbest) rfl
  case mode =>
    intro r w c hbest
    rw [exec_trainingComplete]
    exact links_onPort (port_trainingDone s.clk hst hbusy hscrub hbest)
  case limitTraining =>
    intro hst hdue
    rw [exec_portStateTimeout]
    exact links_faults (portTimeout_training hst hdue) rfl
  case limitHello =>
    intro hst hdue
    rw [exec_portStateTimeout]
    exact links_goesDown (portTimeout_hello hst hdue)
  case limitKeying =>
    intro hst hdue
    rw [exec_portStateTimeout]
    exact links_goesDown (portTimeout_keying hst hdue)
  case self =>
    intro hn
    rw [exec_hello]
    exact links_goesDown (helloMsg_self s.clk hst hbusy hscrub _ hn)
  case noVersion =>
    rintro hn rfl
    rw [exec_hello]
    exact links_goesDown (helloMsg_noVersion s.clk hst hbusy hscrub hn)
  case version =>
    intro hn hvs
    rw [exec_hello]
    refine links_onPort ?_
    rw [helloMsg_agrees s.clk hst hbusy hscrub hn hvs]
    refine ⟨?_, mem_drawEph .., logs_drawEph ..⟩
    rw [port_drawEph, port_modPort_same, BitVec.ofNat_toNat, BitVec.setWidth_eq]
    rfl
  case keyxNo =>
    intro hst hno
    rw [exec_keyx]
    exact links_goesDown (keyxMsg_untrusted s.clk hbusy hscrub hst hno)
  case keyx =>
    intro hst hok
    rw [exec_keyx]
    exact links_onPort (keyxMsg_trusted s.clk hbusy hscrub hst hok)
  case rekeyNo =>
    intro hst hver hno
    rw [exec_rekey]
    exact links_goesDown (rekeyMsg_untrusted s.clk hbusy hscrub hst hver hno)
  case rekey =>
    intro hst hver hok
    rw [exec_rekey]
    exact links_onPort (rekeyMsg_trusted s.clk hbusy hscrub hst hver hok)
  case ask =>
    intro f hw hst hver
    rw [exec_rekeyRequest hw hst hver]
    exact links_onPort ⟨port_startRekey .., startRekey_outside (·.mem) (fun _ _ _ => rfl) .., startRekey_outside (·.logs) (fun _ _ _ => rfl) ..⟩
  case lost =>
    intro hst hq
    rw [exec_laneLoss]
    exact links_faults (laneLoss_up s.clk hst hq) rfl
  case quiesced =>
    intro hst hq
    rw [exec_laneLoss]
    refine links_onPort ?_
    rw [laneLoss_quiesced s.clk hst hq]
    exact ⟨wentDown_portDown .., logs_portDown ..⟩

end Sys2Proof
end


/-! # Segments sent and received (R398, R399, R403 to R405, R407, R415, R563)

A CTL segment that arrives is `takenCtl` at its port, then an acknowledgement or a NAK; a received segment is `segBad`, joins its flit, or
makes it whole; a slot sends a CTL segment or the segment of `turn`. -/

section
namespace Sys2Proof.Machine

theorem port_emit (o : Out) (m : Mod) (p : Nat) : port (emit o m) p = port m p := rfl

/-! ## CTL segments sent (R404, R407, R563) -/

section
variable {p : Nat} {m : Mod}

theorem ctlSend_scrub (hst : (port m p).st ≠ .down) (hscrub : portScrubs m p = true) :
    ctlSend p m = emit (ctlOut p scrubCtl) (modPort m p fun l => { l with slotCount := 0 }) := by
  simp only [ctlSend, hst, hscrub, ne_eq, not_false_eq_true, and_self, if_true]

/-- A port that is UP sends its CTL segment; a NAK that was due is sent with it. -/
theorem ctlSend_up (hst : (port m p).st = .up) (hscrub : portScrubs m p = false) :
    (ctlSend p m).out = m.out ++ [ctlOut p (ctlOf m p (port m p))] ∧ (port (ctlSend p m) p).nak = none ∧ (port (ctlSend p m) p).slotCount = 0 := by
  have hdown : (port m p).st ≠ .down := by rw [hst]; decide
  have htrain : (port m p).st ≠ .training := by rw [hst]; decide
  simp only [ctlSend, hscrub, Bool.false_eq_true, false_and, if_false, if_neg hdown, if_neg htrain]
  rw [port_emit, port_modPort_same]
  exact ⟨rfl, rfl, rfl⟩

theorem ctlAsk_up (hvc0 : (port m p).sending.any (fun x => x.flit.vc == 0) = false) :
    ctlAsk p m = ctlSend p m := by
  simp only [ctlAsk, hvc0, Bool.false_eq_true, and_false, if_false]

theorem ctlAsk_scrub (hscrub : portScrubs m p = true) : ctlAsk p m = ctlSend p m := by
  simp only [ctlAsk, hscrub, not_true_eq_false, false_and, if_false]

end

theorem exec_ctlSegmentSend (p : Port) (s : State) : exec (.ctlSegmentSend p) s = onPort (fun _ m => ctlAsk p m) s := rfl

/-! ## CTL segments received (R403 to R406) -/

/-- Credits granted from VC i on. -/
def grant (cs : List (BitVec 16)) (i : Nat) (c : Sparse Nat) : Sparse Nat :=
  (cs.zipIdx i).foldl (fun c (y : BitVec 16 × Nat) => smod 0 c y.2 (· + y.1.toNat)) c

theorem sget_grant_below (cs : List (BitVec 16)) {i v : Nat} (h : v < i) (c : Sparse Nat) : sget 0 (grant cs i c) v = sget 0 c v := by
  induction cs generalizing i c with
  | nil => rfl
  | cons b rest ih => exact (ih (Nat.lt_succ_of_lt h) _).trans (sget_sset_other _ _ _ h.ne)

theorem sget_grant {cs : List (BitVec 16)} {j : Nat} {b : BitVec 16} (h : cs[j]? = some b) (i : Nat) (c : Sparse Nat) :
    sget 0 (grant cs i c) (i + j) = sget 0 c (i + j) + b.toNat := by
  induction cs generalizing i j c with
  | nil => simp at h
  | cons a rest ih =>
    cases j with
    | zero =>
      obtain rfl : a = b := by simpa using h
      exact (sget_grant_below rest (Nat.lt_succ_self i) _).trans (sget_smod_same ..)
    | succ j =>
      have hrest := ih (by simpa using h) (i + 1) (smod 0 c i (· + a.toNat))
      rw [Nat.add_right_comm, Nat.add_assoc] at hrest
      refine hrest.trans ?_
      rw [sget_smod, if_neg (by omega)]

/-- Each credit of a CTL segment counts for its VC. -/
theorem credit_granted {cs : List (BitVec 16)} {v : Nat} {b : BitVec 16} (h : cs[v]? = some b) (c : Sparse Nat) :
    sget 0 (grant cs 0 c) v = sget 0 c v + b.toNat := by
  simpa using sget_grant h 0 c

/-- A fragment of a message changes nothing else of its port. -/
theorem takeFrag_eq (x : CtlSeg) (l : LPort) : ∃ r, takeFrag x l = { l with rxMsg := r } := by
  unfold takeFrag
  simp only
  split_ifs
  · exact ⟨l.rxMsg, rfl⟩
  · exact ⟨_, rfl⟩
  · exact ⟨_, rfl⟩
  · exact ⟨_, rfl⟩

/-- The port that has taken the credits and the fragment of a CTL segment. -/
def takenCtl (x : CtlSeg) (l : LPort) : LPort := takeFrag x { l with creditTx := grant x.credits 0 l.creditTx }

theorem takenCtl_eq (x : CtlSeg) (l : LPort) : ∃ r, takenCtl x l = { l with creditTx := grant x.credits 0 l.creditTx, rxMsg := r } :=
  takeFrag_eq ..

theorem ctlReceive_up {p : Nat} {x : CtlSeg} {m : Mod} (t : Clk) (hst : (port m p).st = .up) (hscrub : portScrubs m p = false)
    (hx : x.scrub = false) : ctlReceive p x t m
      = if x.nak then nakMsg t p x.ack.toNat (modPort m p (takenCtl x)) else ackMsg t p x.ack.toNat (modPort m p (takenCtl x)) := by
  simp only [ctlReceive, hst, hscrub, hx, reduceCtorEq, Bool.false_eq_true, or_self, if_false, ne_eq, not_true_eq_false]
  rfl

theorem ctlReceive_scrub {p : Nat} {m : Mod} (t : Clk) (hst : (port m p).st = .up) (hscrub : portScrubs m p = false) :
    ctlReceive p scrubCtl t m = quiesce p m := by
  have hx : scrubCtl.scrub = true := rfl
  simp only [ctlReceive, hst, hscrub, hx, reduceCtorEq, Bool.false_eq_true, or_self, if_false, if_true]

/-! ### Acknowledgements -/

theorem links_foldl {α : Type} {f : Mod → α → Mod} {l : List α} {m : Mod} (hf : ∀ u x, (f u x).links = u.links) :
    (l.foldl f m).links = m.links :=
  OutsideAccess.foldl (f := (·.links)) hf l m

/-- A task fault reaches no port. -/
theorem links_failTask (t : Clk) (task : Nat) (reason : Byte) (log : Nat) (m : Mod) : (failTask t task reason log m).links = m.links := by
  have hchains : ∀ u fl, (stopTaskChains u task fl).links = u.links := fun u fl => links_foldl fun _ _ => rfl
  have hstop : ∀ u st fl, (stopTask u task st fl).links = u.links := fun u st fl => by
    unfold stopTask
    simp only [modCtx_links]
    split <;> split <;> rfl
  have hqueues : ∀ u, (resetQueues u task).links = u.links := fun u =>
    (links_foldl (f := dropSignals) fun _ _ => rfl).trans (links_foldl (f := fun v id => returnLeave v (task / 4 / 16) id) fun _ _ => rfl)
  have hcollects : ∀ u, (dropCollects u task).links = u.links := fun u => links_foldl fun _ _ => rfl
  exact (hcollects _).trans ((hqueues _).trans ((hstop ..).trans (hchains ..)))

theorem links_copyAcked (t : Clk) (m : Mod) (f : Flit) : (copyAcked t m f).links = m.links := by
  unfold copyAcked
  split
  · simp only
    split_ifs
    · exact (links_failTask ..).trans ((outsideAccess_links.logErr ..).trans (links_foldl fun _ _ => rfl))
    · rfl
  · rfl

/-- The port whose first n replay copies are acknowledged. -/
def acked (n : Nat) (l : LPort) : LPort := { l with
  unacked := l.unacked.drop n
  resend := l.resend.filter fun x => !(l.unacked.take n).any fun y => y.fseq == x.fseq
  nakCount := if (l.unacked.take n).any fun y => y.fseq == l.nakFseq then 0 else l.nakCount }

theorem port_acknowledge (t : Clk) (p n : Nat) (m : Mod) : port (acknowledge t p n m) p = acked n (port m p) := by
  have hlinks : (acknowledge t p n m).links = (modPort m p (acked n)).links := links_foldl (links_copyAcked t)
  rw [port, hlinks, ← port, port_modPort_same]

theorem port_ackMsg (t : Clk) (p f : Nat) (m : Mod) :
    port (ackMsg t p f m) p = acked (endedBefore (port m p) ((f + 1) % 2048)) (port m p) := port_acknowledge ..

/-! ### NAKs -/

/-- How many NAKs in a row a NAK for a flit makes. -/
def naksInRow (l : LPort) (f : Nat) : Nat := if l.nakFseq = f ∧ l.nakCount ≠ 0 then l.nakCount + 1 else 1

/-- The port that sends again every flit from the one that a NAK names. -/
def resent (f : Nat) (l : LPort) : LPort := { acked (endedBefore l f) l with
  nakFseq := f, nakCount := naksInRow l f, retries := min 0xFFFFFFFF (l.retries + 1), sending := []
  resend := l.unacked.drop (endedBefore l f) }

section
variable {p f : Nat} {m : Mod} (t : Clk)

theorem port_nakMsg (h : naksInRow (port m p) f < 16) : port (nakMsg t p f m) p = resent f (port m p) := by
  have hfew : ¬ naksInRow (port m p) f ≥ 16 := Nat.not_le.2 h
  rw [naksInRow] at hfew
  simp only [nakMsg, hfew, if_false]
  rw [port_modPort_same, port_acknowledge]
  rfl

theorem nakMsg_limit (h : 16 ≤ naksInRow (port m p) f) : nakMsg t p f m = portDown t p 0x4B (linkFault t p 2 m) := by
  rw [naksInRow] at h
  simp only [nakMsg, ge_iff_le, h, if_true]

end

theorem exec_ctlSegment (p : Port) (c : CtlSeg) (s : State) : exec (.ctlSegment p c) s = onPort (ctlReceive p c) s := rfl

theorem exec_scrubSegment (p : Port) (s : State) : exec (.scrubSegment p) s = onPort (ctlReceive p scrubCtl) s := rfl

/-! ## Segments received (R398, R399, R405) -/

/-- The codewords counted as corrected change nothing but the count of their port. -/
theorem fecCount_outside {α : Type} (f : Mod → α) (hf : ∀ m links d, f { m with links := links, draw := d } = f m) (p : Nat) (m : Mod) :
    f (fecCount p m) = f m := by
  unfold fecCount
  split_ifs
  · rfl
  · exact hf m _ _

theorem st_fecCount (p q : Nat) (m : Mod) : (port (fecCount p m) q).st = (port m q).st := by
  unfold fecCount
  split_ifs
  · rfl
  · refine congrArg (·.st) (port_modPort m p q fun l => { l with corrected := _ }) |>.trans ?_
    split_ifs with hq
    · rw [hq]
    · rfl

theorem portScrubs_fecCount (p : Nat) (m : Mod) : portScrubs (fecCount p m) p = portScrubs m p :=
  fecCount_outside (portScrubs · p) (fun _ _ _ => rfl) ..

theorem logs_fecCount (p : Nat) (m : Mod) : (fecCount p m).logs = m.logs := fecCount_outside (·.logs) (fun _ _ _ => rfl) ..

/-- A lock is lost by the states of ports alone. -/
theorem upstreamLost_congr {m u : Mod} (h : ∀ q, (port u q).st = (port m q).st) (after : Mod) (c : Clk) :
    upstreamLost u after c = upstreamLost m after c := by
  simp only [upstreamLost, h]

section
variable {p : Nat} {tag : W32} {body : List Byte} {m : Mod} (t : Clk)

section
variable (hcrc : crc16 (toBe 2 (tag.toNat / 65536) ++ slice body 0 64) = tag.toNat % 65536)
include hcrc

theorem takeSegment_ctl (hctl : bit tag.toNat 27 = true) : takeSegment p tag body t m = ctlReceive p (readCtl body) t m := by
  by_cases hoff : (port m p).st = .down ∨ portScrubs m p = true
  · simp only [takeSegment, ctlReceive, hoff, if_true]
  · simp only [takeSegment, hoff, hcrc, hctl, ne_eq, not_true_eq_false, if_false, if_true]

end

section
variable (hst : (port (fecCount p m) p).st = .up) (hscrub : portScrubs m p = false)
include hst hscrub

theorem segmentReceive_bad (hcrc : ¬ crc16 (toBe 2 (tag.toNat / 65536) ++ slice body 0 64) = tag.toNat % 65536) :
    segmentReceive p tag body t m = segBad p (fecCount p m) := by
  have hfree := (portScrubs_fecCount p m).trans hscrub
  simp only [segmentReceive, takeSegment, hst, hfree, hcrc, reduceCtorEq, Bool.false_eq_true, or_self, if_false, ne_eq, not_false_eq_true,
    if_true]

section
variable (hcrc : crc16 (toBe 2 (tag.toNat / 65536) ++ slice body 0 64) = tag.toNat % 65536) (hctl : bit tag.toNat 27 = false)
  (hwait : (port (fecCount p m) p).nakWait = none) {l : LPort}
include hcrc hctl hwait

/-- A good segment, with no resending awaited, joins its flit. -/
theorem segmentReceive_joins (hadd : addSegment (bits tag.toNat 30 2) (bits tag.toNat 28 2) (bits tag.toNat 16 11) (slice body 0 64)
      (stampFirst t (bits tag.toNat 30 2) (bits tag.toNat 28 2) (port (fecCount p m) p)) = some (l, none)) :
    segmentReceive p tag body t m = modPort (fecCount p m) p fun _ => l := by
  have hfree := (portScrubs_fecCount p m).trans hscrub
  simp only [segmentReceive, takeSegment, hst, hfree, hcrc, hctl, hwait, hadd, reduceCtorEq, Bool.false_eq_true, or_self, if_false, ne_eq,
    not_true_eq_false]

/-- The last of its flit makes it whole. -/
theorem segmentReceive_whole {bs : List Byte}
    (hadd : addSegment (bits tag.toNat 30 2) (bits tag.toNat 28 2) (bits tag.toNat 16 11) (slice body 0 64)
      (stampFirst t (bits tag.toNat 30 2) (bits tag.toNat 28 2) (port (fecCount p m) p)) = some (l, some bs)) :
    segmentReceive p tag body t m = takeFlit t p (bits tag.toNat 30 2) bs (modPort (fecCount p m) p fun _ => l) := by
  have hfree := (portScrubs_fecCount p m).trans hscrub
  simp only [segmentReceive, takeSegment, hst, hfree, hcrc, hctl, hwait, hadd, reduceCtorEq, Bool.false_eq_true, or_self, if_false, ne_eq,
    not_true_eq_false]

end

end

end

/-- The first flit of a packet with a body waits for the others of its VC. -/
theorem takeFlit_head {p vc : Nat} {bs : List Byte} {m : Mod} (t : Clk) (hfirst : sget [] (port m p).rxFlits vc = [])
    (hbody : fld bs 2 1 % 32 ≠ 0) :
    sget [] (port (takeFlit t p vc bs m) p).rxFlits vc = [bs] ∧ (takeFlit t p vc bs m).logs = m.logs := by
  have hmore : 1 < 1 + fld bs 2 1 % 32 := by omega
  simp only [takeFlit, hfirst, List.nil_append, List.headD_cons, List.length_singleton, hmore, if_true, port_modPort_same]
  exact ⟨sget_sset_same [] (port m p).rxFlits vc [bs], rfl⟩

theorem exec_segmentReceive (p : Port) (tag : W32) (body : List Byte) (s : State) :
    exec (.segmentReceive p tag body) s = onPort (segmentReceive p tag body) s := rfl

/-- A good CTL segment on the wire is a CTL segment received. -/
theorem exec_segmentReceive_ctl {p : Port} {tag : W32} {body : List Byte} {s : State}
    (hcrc : crc16 (toBe 2 (tag.toNat / 65536) ++ slice body 0 64) = tag.toNat % 65536) (hctl : bit tag.toNat 27 = true) :
    exec (.segmentReceive p tag body) s = exec (.ctlSegment p (readCtl body)) { s with m := fecCount p s.m } := by
  have hlost := fun after => upstreamLost_congr (fun q => st_fecCount p q s.m) after s.clk
  rw [exec_segmentReceive, exec_ctlSegment]
  simp only [onPort, onLink, onBoth, segmentReceive, takeSegment_ctl s.clk hcrc hctl, hlost]

/-! ## Slots (R404, R407 to R410, R415, R563) -/

/-- The port that has chosen, from what it can form, the flit whose segment goes next. -/
def chosen (m : Mod) (p : Nat) : Option LPort :=
  let m1 := modPort m p slotTick
  chooseFlit m1 (portQuiet m p) p (formAll m1 (portQuiet m p) (port m1 p))

section
variable {p : Nat} {c : Clk} {m : Mod}

theorem segmentSlot_scrub (hst : (port m p).st ≠ .down) (hscrub : portScrubs m p = true) :
    segmentSlot p c m = (c, ctlSend p (modPort m p slotTick)) := by
  simp only [segmentSlot, hst, hscrub, not_true_eq_false, and_false, or_self, if_false, true_or, if_true]

section
variable (hst : (port m p).st = .up)
include hst

theorem segmentSlot_ctl (hdue : ctlDue (port m p) = true) : segmentSlot p c m = (c, ctlSend p (modPort m p slotTick)) := by
  simp only [segmentSlot, hst, hdue, reduceCtorEq, ne_eq, not_true_eq_false, false_and, or_self, if_false, or_true, if_true]

variable (hscrub : portScrubs m p = false) (hdue : ctlDue (port m p) = false) (hq : (port m p).quiesced = false)
include hscrub hdue hq

theorem segmentSlot_idle (hnone : chosen m p = none) : segmentSlot p c m = (c, modPort m p slotTick) := by
  rw [chosen] at hnone
  simp only [segmentSlot, hst, hscrub, hdue, hq, hnone, reduceCtorEq, ne_eq, not_true_eq_false, false_and, or_self, if_false, Bool.false_eq_true]

theorem segmentSlot_sends {l : LPort} {x : FlitTx} (hpick : chosen m p = some l) (hturn : turn l = some x) :
    let r := sendSegment p x c (modPort (modPort m p slotTick) p fun _ => l)
    segmentSlot p c m = (r.1, pseqLimit c p r.2) := by
  rw [chosen] at hpick
  simp only [segmentSlot, hst, hscrub, hdue, hq, hpick, hturn, reduceCtorEq, ne_eq, not_true_eq_false, false_and, or_self, if_false,
    Bool.false_eq_true]

end

end

theorem st_slotTick (p : Nat) (m : Mod) : (port (modPort m p slotTick) p).st = (port m p).st := by
  rw [port_modPort_same]
  rfl

/-- A limit of the sequence numbers sends nothing and writes no memory. -/
theorem pseqLimit_outside {α : Type} (f : Mod → α)
    (hf : ∀ m bar0 links q b d, f { m with bar0 := bar0, links := links, syncQ := q, bulkOut := b, draw := d } = f m) (t : Clk) (p : Nat) (m : Mod) :
    f (pseqLimit t p m) = f m := by
  unfold pseqLimit
  simp only
  split_ifs
  · rfl
  · exact startRekey_outside f (fun m links d => hf m m.bar0 links m.syncQ m.bulkOut d) ..
  · exact portDown_outside t p 0x4B m f fun m bar0 links q b => hf m bar0 links q b m.draw

theorem followOf_outside {α : Type} (f : Mod → α) (hf : ∀ m q g, f (modPort m q g) = f m) (c : Clk) (p : Nat) (x : Flit) (m : Mod) :
    f (followOf c p x m) = f m := by
  unfold followOf
  split_ifs
  · rfl
  · exact hf ..

/-- A segment on the wire: t1 of a TIME_REQ is taken with its first (R415). -/
theorem sendSegment_spec (p : Nat) (x : FlitTx) (c : Clk) (m : Mod) :
    let b := slice x.flit.bytes (64 * x.idx) 64
    let r := sendSegment p x c m
    r.1 = (if x.idx = 0 then stampT1 x.flit c else c)
      ∧ r.2.out = m.out ++ [.segment p (segTag x.flit.vc x.idx x.flit.fseq false b) b] ∧ r.2.mem = m.mem := by
  intro b r
  by_cases hidx : x.idx = 0
  · simp only [r, sendSegment, hidx, if_true]
    exact ⟨trivial, by rw [followOf_outside (·.out) fun _ _ _ => rfl]; simp only [b, hidx]; rfl, followOf_outside (·.mem) (fun _ _ _ => rfl) ..⟩
  · simp only [r, sendSegment, hidx, if_false]
    exact ⟨trivial, rfl, rfl⟩

/-- The row of a slot leaves what its function makes of the time base and the module. -/
theorem exec_segmentSlot_runs {p : Port} {s : State} {P : Clk → Mod → Prop} {c : Clk} {u : Mod} (h : segmentSlot p s.clk s.m = (c, u)) (hP : P c u) :
    ∃ c u, exec (.segmentSlot p) s = .next { s with clk := upstreamLost s.m u c, m := settleAll s.clk u } ∧ P c u := by
  refine ⟨c, u, ?_, hP⟩
  change onLink (segmentSlot p) s = _
  simp only [onLink, onBoth, h]

end Sys2Proof.Machine

namespace Sys2Proof
open Machine

/-- Settles O48: `ctlSend` sends a CTL segment, `takenCtl` with `acked` or `resent` receives one; a received segment is
`segmentReceive_bad`, `_joins` or `_whole`, and a slot `segmentSlot_ctl`, `_idle` or `_sends`. -/
theorem segmentsMove : Obligations.SegmentsMove := by
  unfold Obligations.SegmentsMove
  intro p s
  dsimp only
  refine ⟨?ctlUp, ?ctlScrub, fun c hst hscrub hc => ⟨?ack, ?nak, ?nakLimit⟩, ?quiesces,
    fun tag body => ⟨exec_segmentReceive_ctl, fun hst hscrub => ⟨?bad, fun hcrc hctl hwait => ⟨?joins, ?whole⟩⟩⟩, ?slotScrub,
    fun hst => ⟨?slotCtl, ?slotData⟩⟩
  case ctlUp =>
    intro hst hscrub hvc0
    rw [exec_ctlSegmentSend]
    refine links_onPort ?_
    rw [ctlAsk_up hvc0]
    exact ctlSend_up hst hscrub
  case ctlScrub =>
    intro hst hscrub
    rw [exec_ctlSegmentSend]
    refine links_onPort ?_
    rw [ctlAsk_scrub hscrub, ctlSend_scrub hst hscrub]
    rfl
  case ack =>
    intro hnak
    obtain ⟨r, hr⟩ := takenCtl_eq c (port s.m p)
    rw [exec_ctlSegment]
    refine links_onPort ?_
    rw [ctlReceive_up s.clk hst hscrub hc, hnak, if_neg Bool.false_ne_true, port_ackMsg, port_modPort_same, hr]
    exact ⟨rfl, fun v b hb => credit_granted hb _⟩
  case nak =>
    intro hnak hn
    obtain ⟨r, hr⟩ := takenCtl_eq c (port s.m p)
    have hfew : naksInRow (port (modPort s.m p (takenCtl c)) p) c.ack.toNat < 16 := by
      rw [port_modPort_same, hr]
      exact hn
    rw [exec_ctlSegment]
    refine links_onPort ?_
    rw [ctlReceive_up s.clk hst hscrub hc, hnak, if_pos rfl, port_nakMsg s.clk hfew, port_modPort_same, hr]
    exact ⟨rfl, rfl, rfl, rfl, rfl, rfl, fun v b hb => credit_granted hb _⟩
  case nakLimit =>
    intro hnak hn
    obtain ⟨r, hr⟩ := takenCtl_eq c (port s.m p)
    have hmany : 16 ≤ naksInRow (port (modPort s.m p (takenCtl c)) p) c.ack.toNat := by
      rw [port_modPort_same, hr]
      exact hn
    rw [exec_ctlSegment]
    refine links_faults (m := modPort s.m p (takenCtl c)) ?_ rfl
    rw [ctlReceive_up s.clk hst hscrub hc, hnak, if_pos rfl, nakMsg_limit s.clk hmany]
  case quiesces =>
    intro hst hscrub
    rw [exec_scrubSegment]
    refine links_onPort ?_
    rw [ctlReceive_scrub s.clk hst hscrub]
    exact ⟨port_modPort_same .., rfl⟩
  case bad =>
    intro hcrc
    rw [exec_segmentReceive]
    refine links_onPort ?_
    rw [segmentReceive_bad s.clk hst hscrub hcrc, segBad, port_modPort_same]
    exact ⟨rfl, rfl, rfl, rfl⟩
  case joins =>
    intro l1 hadd
    rw [exec_segmentReceive]
    refine links_onPort ?_
    rw [segmentReceive_joins s.clk hst hscrub hcrc hctl hwait hadd]
    exact ⟨port_modPort_same .., logs_fecCount ..⟩
  case whole =>
    intro l1 bs hadd hfirst hbody
    have hport : port (modPort (fecCount p s.m) p fun _ => l1) p = l1 := port_modPort_same ..
    rw [exec_segmentReceive]
    refine links_onPort ?_
    rw [segmentReceive_whole s.clk hst hscrub hcrc hctl hwait hadd]
    obtain ⟨hflit, hlogs⟩ := takeFlit_head s.clk (hport.symm ▸ hfirst) hbody
    exact ⟨hflit, hlogs.trans (logs_fecCount ..)⟩
  case slotScrub =>
    intro hst hscrub
    have htick : (port (modPort s.m p slotTick) p).st ≠ .down := by rwa [st_slotTick]
    refine exec_segmentSlot_runs (segmentSlot_scrub hst hscrub) ⟨rfl, ?_⟩
    rw [ctlSend_scrub htick hscrub]
    rfl
  case slotCtl =>
    intro hscrub hdue
    obtain ⟨hout, -, hcount⟩ := ctlSend_up ((st_slotTick p s.m).trans hst) hscrub
    exact exec_segmentSlot_runs (segmentSlot_ctl hst hdue) ⟨rfl, hout, hcount⟩
  case slotData =>
    intro hscrub hdue hq
    refine ⟨fun hnone => exec_segmentSlot_runs (segmentSlot_idle hst hscrub hdue hq hnone) ⟨rfl, rfl⟩, fun l2 x hpick hturn => ?_⟩
    obtain ⟨hclk, hout, hmem⟩ := sendSegment_spec p x s.clk (modPort (modPort s.m p slotTick) p fun _ => l2)
    exact exec_segmentSlot_runs (segmentSlot_sends hst hscrub hdue hq hpick hturn) ⟨hclk,
      (pseqLimit_outside (·.out) (fun _ _ _ _ _ _ => rfl) ..).trans hout, (pseqLimit_outside (·.mem) (fun _ _ _ _ _ _ => rfl) ..).trans hmem⟩

end Sys2Proof
end


/-! # Packets of the token exchange at their engine (R136, R423 to R427)

A packet of VC2 waits behind a held one, behind one of its transfer at a pin, or is what `vc2At` makes of it; what it does then is said of a
module once for each kind: `tokenAt`, `tokenRetAt`, `tokenDropAt`, `tokenEndAt`. -/

section
namespace Sys2Proof.Machine

/-! ## An arrival (R136, R425) -/

section
variable {t : Clk} {p part n : Nat} {k : Packet} {w : Option (Nat × Nat)} {m : Mod}

theorem arriveAt_blocked (h : blockedAt m k.dstEng.toNat = some n) : arriveAt t p part k w m = holdRound k.dstEng.toNat n (p, k, w) m := by
  simp only [arriveAt, vc2Arrive, h]

variable (hfree : blockedAt m k.dstEng.toNat = none)
include hfree

theorem arriveAt_behind (h : pinnedBehind m k = some n) : arriveAt t p part k w m = holdPin k.dstEng.toNat n (p, k, w) m := by
  simp only [arriveAt, vc2Arrive, hfree, h]

variable (hfirst : pinnedBehind m k = none)
include hfirst

theorem arriveAt_held (h : vc2At t p part k m = .held) :
    arriveAt t p part k w m = holdRound k.dstEng.toNat (holdKey m k) (p, k, w) m := by
  simp only [arriveAt, vc2Arrive, hfree, hfirst, h]

theorem arriveAt_pinned (h : vc2At t p part k m = .pinned) :
    arriveAt t p part k w m = holdPin k.dstEng.toNat (holdKey m k) (p, k, w) m := by
  simp only [arriveAt, vc2Arrive, hfree, hfirst, h]

theorem arriveAt_done {u : Mod} (h : vc2At t p part k m = .done u) : arriveAt t p part k w m = u := by
  simp only [arriveAt, vc2Arrive, hfree, hfirst, h]

/-- A reply to another module is sent. -/
theorem arriveAt_reply {a : Packet} {u : Mod} (h : vc2At t p part k m = .reply a u) (hdst : a.dst.toNat ≠ moduleNum u) :
    arriveAt t p part k w m = sendReply part a u := by
  simp only [arriveAt, vc2Arrive, hfree, hfirst, h, hdst, if_false]

end

theorem held_holdRound (g n : Nat) (x : Nat × Packet × Option (Nat × Nat)) (m : Mod) :
    (expRound (holdRound g n x m) g n).held = (expRound m g n).held ++ [x] := congrArg (·.held) (expRound_modExp ..)

theorem pinHeld_holdPin (g n : Nat) (x : Nat × Packet × Option (Nat × Nat)) (m : Mod) :
    (expRound (holdPin g n x m) g n).pinHeld = (expRound m g n).pinHeld ++ [x] := congrArg (·.pinHeld) (expRound_modExp ..)

theorem mem_holdRound (g n : Nat) (x : Nat × Packet × Option (Nat × Nat)) (m : Mod) : (holdRound g n x m).mem = m.mem := rfl

theorem mem_holdPin (g n : Nat) (x : Nat × Packet × Option (Nat × Nat)) (m : Mod) : (holdPin g n x m).mem = m.mem := rfl

/-- The rows of the token exchange, each with the type of its packet. -/
def tokenRows (p : Port) (k : Packet) : List (Instr × Nat) :=
  [(Instr.token p k, 0x20), (Instr.tokenRet p k, 0x21), (Instr.tokenDrop p k, 0x22), (Instr.tokenEnd p k, 0x23)]

/-- The four rows give their packet to its engine. -/
theorem links_arrives {p : Port} {k : Packet} {row : Instr × Nat} (hrow : row ∈ tokenRows p k)
    {s : State} (hold : oldest s.m p k row.2) {P : Mod → Prop} (h : P (arriveAt s.clk p (portPart s.m p) k none (takenIn s.m p k))) :
    Links s (exec row.1 s) P := by
  have hexec : exec row.1 s = onPort (onPacket row.2 p.val k fun t m => arriveAt t p.val (portPart m p.val) k none m) s := by
    simp only [tokenRows, List.mem_cons, List.not_mem_nil, or_false] at hrow
    obtain rfl | rfl | rfl | rfl := hrow <;> rfl
  rw [hexec]
  refine links_onPort ?_
  rw [onPacket_of_oldest hold]
  exact h

/-- With nothing before it a packet does what its engine makes of it. -/
theorem links_done {s : State} {p : Port} {k : Packet} {row : Instr × Nat} (hrow : row ∈ tokenRows p k)
    (hold : oldest s.m p k row.2) (hfree : blockedAt s.m k.dstEng.toNat = none) (hfirst : pinnedBehind s.m k = none) {u : Mod}
    (h : vc2At s.clk p (portPart s.m p) k (takenIn s.m p k) = .done u) {P : Mod → Prop} (hP : P u) : Links s (exec row.1 s) P := by
  refine links_arrives hrow hold ?_
  rw [arriveAt_done (m := takenIn s.m p k) hfree hfirst h]
  exact hP

/-! ## The packet at the engine of its partition (R393) -/

section
variable {t : Clk} {p part : Nat} {k : Packet} {m : Mod} (howner : dieOwner m (k.dstEng.toNat / 16) = some part)
include howner

theorem vc2At_token (htyp : k.typ.toNat = 0x20) {x : Expert} (hx : expertAt m k.map.val k.arg.toNat = some x) (hmod : x.module = moduleNum m)
    (heng : x.engine = k.dstEng.toNat) (hcap : x.capacity ≠ 0) :
    vc2At t p part k m = tokenAt part k.dstEng.toNat k.arg.toNat x k m := by
  have hmine : x.module = moduleNum m ∧ x.engine = k.dstEng.toNat ∧ x.capacity ≠ 0 := ⟨hmod, heng, hcap⟩
  simp only [vc2At, howner, htyp, hx, if_pos hmine, ne_eq, not_true_eq_false, if_false]

theorem vc2At_tokenRet (htyp : k.typ.toNat = 0x21) : vc2At t p part k m = tokenRetAt k.dstEng.toNat k m := by
  simp only [vc2At, howner, htyp, ne_eq, not_true_eq_false, if_false]

theorem vc2At_tokenDrop (htyp : k.typ.toNat = 0x22) : vc2At t p part k m = tokenDropAt k.dstEng.toNat k m := by
  simp only [vc2At, howner, htyp, ne_eq, not_true_eq_false, if_false]

theorem vc2At_tokenEnd (htyp : k.typ.toNat = 0x23) : vc2At t p part k m = tokenEndAt t k.dstEng.toNat k m := by
  simp only [vc2At, howner, htyp, ne_eq, not_true_eq_false, if_false]

end

/-! ## Pins and rows of a run -/

section
variable (m : Mod) (p : Nat) (k : Packet) (g : Nat)

/-- A packet that leaves its port touches no pin. -/
theorem pinned_takenIn (off n : Nat) : pinned (takenIn m p k) g off n = pinned m g off n :=
  pinned_congr (m := m) (u := takenIn m p k) rfl rfl rfl off n

theorem mem_takenIn : (takenIn m p k).mem = m.mem := rfl

theorem sync_takenIn : (takenIn m p k).sync = m.sync := rfl

theorem ctx_takenIn (c : Nat) : ctx (takenIn m p k) g c = ctx m g c := rfl

theorem expRound_takenIn (n : Nat) : expRound (takenIn m p k) g n = expRound m g n := rfl

theorem holdKey_takenIn : holdKey (takenIn m p k) k = holdKey m k := rfl

theorem slotPinned_takenIn (b : Bank) (x : Expert) (i : Nat) : slotPinned (takenIn m p k) g b x i = slotPinned m g b x i := by
  simp only [slotPinned, pinned_takenIn]

theorem roundPinned_takenIn (n : Nat) (b : Bank) (x : Expert) : roundPinned (takenIn m p k) g n b x = roundPinned m g n b x := by
  simp only [roundPinned, pinned_takenIn, expRound_takenIn]

end

theorem gridPut_outside {α : Type} (f : Mod → α) (hf : ∀ x y, f { x with mem := y } = f x) (m : Mod) (g base row fmt i off : Nat) (bs : List Byte) :
    f (gridPut m g base row fmt i off bs) = f m := by
  unfold gridPut
  refine OutsideAccess.foldl (fun u y => ?_) _ m
  simp only
  split_ifs
  · exact padWrite_outside f hf ..
  · rfl

/-! ## TOKEN (R423, R424) -/

/-- The later segments of a token refused are dropped. -/
def tokenRefused (g n : Nat) (k : Packet) (m : Mod) : Mod :=
  modExp m g n fun r => if lastSeg k then r else { r with dropping := r.dropping ++ [rowKey k] }

/-- What the first segment of a token lays down in row i: its part of the row, its record and its gate. -/
def tokenLaid (g i : Nat) (x : Expert) (k : Packet) (m : Mod) : Mod :=
  padWrite (padWrite (putToken g (bank m k.map.val) x i k m) g (x.record + 64 + 16 * i) (recordRow k)) g (x.gate + 64 + 4 * i)
    (toLe 4 (ifld k 0x20 4))

/-- A round whose next row a token has taken. -/
def tokenTaken (k : Packet) (r : ExpRound) : ExpRound := { r with
  fill := r.fill + 1
  maxExp := max r.maxExp (ifld k 0x26 1)
  slotOf := if lastSeg k then r.slotOf else
    r.slotOf ++ [((rowKey k).1, (rowKey k).2.1, (rowKey k).2.2.1, (rowKey k).2.2.2, r.fill)] }

section
variable {part g n : Nat} {x : Expert} {k : Packet} {m : Mod} (hst : (expRound m g n).st = .opn) (hseg : ifld k 0x2C 2 = 0)
include hst hseg

theorem tokenAt_full (hfull : x.capacity ≤ (expRound m g n).fill) :
    tokenAt part g n x k m = .reply (tokenDropPacket m part k) (countTokenDrop part (tokenRefused g n k m)) := by
  simp only [tokenAt, hst, hseg, ge_iff_le, hfull, true_or, if_true, ne_eq, not_true_eq_false, if_false]
  rfl

theorem tokenAt_room (hroom : (expRound m g n).fill < x.capacity)
    (htiles : (expRound m g n).fill = 0 → expertTilesOk m k.map.val x = true)
    (hpins : slotPinned m g (bank m k.map.val) x (expRound m g n).fill = false) :
    tokenAt part g n x k m = .done (modExp (tokenLaid g (expRound m g n).fill x k m) g n (tokenTaken k)) := by
  have htaken : ¬ ((expRound m g n).fill ≥ x.capacity ∨ (expRound m g n).fill = 0 ∧ ¬ expertTilesOk m k.map.val x = true) := by
    rintro (hfull | ⟨hzero, hbad⟩)
    · exact absurd hroom (Nat.not_lt.2 hfull)
    · exact hbad (htiles hzero)
  simp only [tokenAt, hst, hseg, if_neg htaken, hpins, Bool.false_eq_true, ne_eq, not_true_eq_false, if_false, if_true]
  rfl

end

theorem tokenLaid_outside {α : Type} (f : Mod → α) (hf : ∀ x y, f { x with mem := y } = f x) (g i : Nat) (x : Expert) (k : Packet) (m : Mod) :
    f (tokenLaid g i x k m) = f m :=
  (padWrite_outside f hf ..).trans ((padWrite_outside f hf ..).trans (gridPut_outside f hf ..))

theorem expRound_tokenLaid (g n i : Nat) (x : Expert) (k : Packet) (m : Mod) :
    expRound (modExp (tokenLaid g i x k m) g n (tokenTaken k)) g n = tokenTaken k (expRound m g n) := by
  rw [expRound_modExp, tokenLaid_outside (expRound · g n) fun _ _ => rfl]

theorem padRead_modExp (m : Mod) (g n : Nat) (f : ExpRound → ExpRound) (h off k : Nat) : padRead (modExp m g n f) h off k = padRead m h off k := rfl

/-- The gate of row i. -/
theorem gate_tokenLaid (g n i : Nat) (x : Expert) (k : Packet) (m : Mod) :
    padRead (modExp (tokenLaid g i x k m) g n (tokenTaken k)) g (x.gate + 64 + 4 * i) 4 = toLe 4 (ifld k 0x20 4) := by
  have h := peeks_padWrite (padWrite (putToken g (bank m k.map.val) x i k m) g (x.record + 64 + 16 * i) (recordRow k)) g (x.gate + 64 + 4 * i)
    (toLe 4 (ifld k 0x20 4))
  rw [length_toLe] at h
  rw [padRead_modExp]
  exact h

theorem length_recordRow (k : Packet) : (recordRow k).length = 16 := by
  simp [recordRow, length_toLe]

/-- The record of row i, where the gate lies beside it. -/
theorem record_tokenLaid {g n i : Nat} {x : Expert} (k : Packet) (m : Mod)
    (hapart : x.record + 80 + 16 * i ≤ x.gate + 64 + 4 * i ∨ x.gate + 68 + 4 * i ≤ x.record + 64 + 16 * i) :
    padRead (modExp (tokenLaid g i x k m) g n (tokenTaken k)) g (x.record + 64 + 16 * i) 16 = recordRow k := by
  have h := peeks_padWrite (putToken g (bank m k.map.val) x i k m) g (x.record + 64 + 16 * i) (recordRow k)
  rw [length_recordRow] at h
  rw [padRead_modExp]
  refine Eq.trans (peeks_congr fun j hj => peek_padWrite_outside _ _ _ _ ?_) h
  rw [length_toLe]
  unfold padAddr
  omega

/-! ### The answer to a token refused -/

section
variable {part : Nat} {k : Packet} {m : Mod}

theorem sendReply_outside {α : Type} (f : Mod → α) (hf : ∀ m q g, f (modPort m q g) = f m)
    (hver : ∀ q, route m part k.dst.toNat = .ok q → 1 ≤ (port m q).version) : f (sendReply part k m) = f m := by
  unfold sendReply
  split
  next q hq =>
    rw [if_neg fun hold => Nat.not_lt.2 (hver q hq) hold.2]
    exact hf ..
  next => rfl

/-- On a port of Cangor 2.1 and later a packet of VC2 waits too. -/
theorem mem_txq_sendReply_version {q : Nat} (hroute : route m part k.dst.toNat = .ok q) (hver : 1 ≤ (port m q).version) :
    ∃ y ∈ (port (sendReply part k m) q).txq, y.pkt = k := by
  have hnew : ¬ (k.vc = 2 ∧ (port m q).version < 1) := fun hold => Nat.not_lt.2 hver hold.2
  exact ⟨{ pkt := k, deps := [], task := none, works := [] }, by simp only [sendReply, hroute, if_neg hnew, mem_txq_sendOn], rfl⟩

end

theorem dst_tokenDropPacket (m : Mod) (part : Nat) (k : Packet) : (tokenDropPacket m part k).dst = k.src := BitVec.ofNat_toNat ..

theorem arg_tokenDropPacket (m : Mod) (part : Nat) (k : Packet) : (tokenDropPacket m part k).arg = k.arg := BitVec.ofNat_toNat ..

theorem routesKept_tokenRefused (part g n : Nat) (k : Packet) (m : Mod) : RoutesKept m (countTokenDrop part (tokenRefused g n k m)) :=
  RoutesKept.trans (b := tokenRefused g n k m) (.of_links rfl rfl (fun _ => rfl) rfl) (routesKept_countTokenDrop ..)

theorem mem_tokenRefused (part g n : Nat) (k : Packet) (m : Mod) : (countTokenDrop part (tokenRefused g n k m)).mem = m.mem := by
  rw [countTokenDrop, modPart_mem, tokenRefused, modExp_mem]

theorem tokenDrop_countTokenDrop (part : Nat) (m : Mod) :
    (partSt (countTokenDrop part m) part).tokenDrop = sat32 ((partSt m part).tokenDrop + 1) := by
  rw [countTokenDrop, partSt_modPart, if_pos rfl]

theorem fill_tokenRefused (g n : Nat) (k : Packet) (m : Mod) : (expRound (tokenRefused g n k m) g n).fill = (expRound m g n).fill := by
  rw [tokenRefused, expRound_modExp]
  split_ifs <;> rfl

/-! ## TOKEN_DROP and TOKEN_RET (R427) -/

section
variable {g n : Nat} {m : Mod}

theorem mem_finishTicket : (finishTicket g n m).mem = m.mem := by
  have hcount : ∀ c i v (b : Prop) [Decidable b], (if b then setTicket m g n none else setCnt g c i v (setTicket m g n none)).mem = m.mem :=
    fun c i v b _ => by split_ifs <;> rfl
  unfold finishTicket
  split
  · rfl
  · split_ifs
    · rfl
    · simp only
      split
      · exact hcount ..
      · exact hcount ..

variable {x : Ticket} (hx : ticketAt m g n = some x)
include hx

theorem finishTicket_left (hleft : x.left ≠ 0) : finishTicket g n m = m := by
  simp only [finishTicket, hx, ne_eq, hleft, not_false_eq_true, if_true]

/-- A ticket with nothing outstanding is free. -/
theorem ticketAt_finishTicket (hleft : x.left = 0) : ticketAt (finishTicket g n m) g n = none := by
  have hfree : ticketAt (setTicket m g n none) g n = none := ticketAt_setTicket ..
  have hcounted : ∀ c i v, ticketAt (setCnt g c i v (setTicket m g n none)) g n = none := fun c i v => (ticketAt_setCnt ..).trans hfree
  simp only [finishTicket, hx, hleft, ne_eq, not_true_eq_false, if_false]
  split
  · rw [ticketAt_dropVop]
    split_ifs
    · exact hfree
    · exact hcounted ..
  · split_ifs
    · exact hfree
    · exact hcounted ..

end

/-- A ticket that one entry less is outstanding of, returned or dropped. -/
def ticketAnswered (g n : Nat) (x : Ticket) (dropped : Nat) (m : Mod) : Mod :=
  finishTicket g n (setTicket m g n (some { x with left := x.left - 1, dropped := x.dropped + dropped }))

section
variable (g n : Nat) {x : Ticket} (dropped : Nat) (m : Mod)

theorem mem_ticketAnswered : (ticketAnswered g n x dropped m).mem = m.mem := mem_finishTicket

theorem ticketAt_ticketAnswered_left (h : 1 < x.left) :
    ticketAt (ticketAnswered g n x dropped m) g n = some { x with left := x.left - 1, dropped := x.dropped + dropped } := by
  rw [ticketAnswered, finishTicket_left (ticketAt_setTicket ..) (by simp only; omega), ticketAt_setTicket]

variable (h : x.left = 1)
include h

theorem ticketAt_ticketAnswered_last : ticketAt (ticketAnswered g n x dropped m) g n = none :=
  ticketAt_finishTicket (ticketAt_setTicket ..) (by simp only [h])

/-- With the last answer the count of entries dropped goes to the counter of the DISPATCH. -/
theorem counter_ticketAnswered_last (hst : (ctx m g (x.task % 4)).st ≠ .empty) :
    counter (ctx (ticketAnswered g n x dropped m) g (x.task % 4)) (wf x.word 60 4) = BitVec.ofNat 32 (x.dropped + dropped) := by
  obtain ⟨-, -, hctx⟩ := finishTicket_spec (g := g) (n := n)
    (m := setTicket m g n (some { x with left := x.left - 1, dropped := x.dropped + dropped })) (ticketAt_setTicket ..)
    (by simp only [h]) (by rwa [ctx_setTicket])
  rw [ticketAnswered, hctx, counter_setCounter, if_pos rfl]

end

theorem tokenDropAt_counted {g : Nat} {k : Packet} {m : Mod} {x : Ticket} (hx : ticketAt m g (ifld k 0x25 1) = some x) :
    tokenDropAt g k m = .done (ticketAnswered g (ifld k 0x25 1) x 1 m) := by
  simp only [tokenDropAt, hx]
  rfl

/-- The values of a segment of a result, each added to that of the row of its ticket with one rounding. -/
def rowSum (g : Nat) (x : Ticket) (k : Packet) (m : Mod) : List Byte :=
  let o := 4096 * ifld k 0x2C 2
  let len := min 4096 (4 * x.cols - o)
  let old := slice (gridRowBytes m g x.dest x.cols 0x10 (ifld k 0x28 4)) o len
  (List.range (len / 4)).flatMap fun i => toLe 4 (fadd (word32At old i) (word32At k.body i)).toNat

/-- The row of a ticket with a segment of a result added. -/
def rowAdded (g : Nat) (x : Ticket) (k : Packet) (m : Mod) : Mod :=
  gridPut m g x.dest x.cols 0x10 (ifld k 0x28 4) (4096 * ifld k 0x2C 2) (rowSum g x k m)

theorem rowSum_takenIn (g : Nat) (x : Ticket) (k y : Packet) (m : Mod) (p : Nat) : rowSum g x k (takenIn m p y) = rowSum g x k m := by
  have hrow : ∀ row, gridRowBytes (takenIn m p y) g x.dest x.cols 0x10 row = gridRowBytes m g x.dest x.cols 0x10 row := fun row => by
    simp only [gridRowBytes, padRead, mem_takenIn]
  simp only [rowSum, hrow]

theorem ticketAt_rowAdded (g : Nat) (x : Ticket) (k : Packet) (m : Mod) (n : Nat) : ticketAt (rowAdded g x k m) g n = ticketAt m g n :=
  gridPut_outside (ticketAt · g n) (fun _ _ => rfl) ..

theorem tokenRetAt_adds {g : Nat} {k : Packet} {m : Mod} {x : Ticket} (hx : ticketAt m g (ifld k 0x25 1) = some x) (hrow : ifld k 0x28 4 < x.rows)
    (hpins : ∀ r ∈ gridRow x.dest x.cols 0x10 (ifld k 0x28 4), pinned m g r.1 r.2 = false) :
    tokenRetAt g k m = .done (if lastSeg k then ticketAnswered g (ifld k 0x25 1) x 0 (rowAdded g x k m) else rowAdded g x k m) := by
  have hfree : (gridRow x.dest x.cols 0x10 (ifld k 0x28 4)).any (fun r => pinned m g r.1 r.2) = false := by
    rw [List.any_eq_false]
    exact fun r hr => by rw [hpins r hr]; exact Bool.false_ne_true
  simp only [tokenRetAt, hx, ge_iff_le, Nat.not_le.2 hrow, hfree, Bool.false_eq_true, if_false]
  split_ifs <;> rfl

/-! ## TOKEN_END (R425) -/

/-- The empty rows of a round zeroed, and the headers of its run given their MAXEXP. -/
def restZeroed (g n : Nat) (b : Bank) (x : Expert) (m : Mod) : Mod :=
  let r := expRound m g n
  let z := b.rowElems * (fmtBits b.fmt / 8)
  let m1 := ((List.range x.capacity).drop r.fill).foldl (fun m i => gridPut m g x.recv b.rowElems b.fmt i 0 (List.replicate z 0)) m
  let m2 := padWrite (padWrite m1 g (x.record + 64 + 16 * r.fill) (List.replicate (16 * (x.capacity - r.fill)) 0))
    g (x.gate + 64 + 4 * r.fill) (List.replicate (4 * (x.capacity - r.fill)) 0)
  (gridTiles x.recv b.rowElems b.fmt x.capacity).foldl (fun m o => padWrite m g (o + 1) (toLe 1 (if r.fill = 0 then 0 else r.maxExp))) m2

theorem restZeroed_outside {α : Type} (f : Mod → α) (hf : ∀ x y, f { x with mem := y } = f x) (g n : Nat) (b : Bank) (x : Expert) (m : Mod) :
    f (restZeroed g n b x m) = f m :=
  (OutsideAccess.foldl (fun u _ => padWrite_outside f hf u ..) _ _).trans ((padWrite_outside f hf ..).trans ((padWrite_outside f hf ..).trans
    (OutsideAccess.foldl (fun u _ => gridPut_outside f hf u ..) _ _)))

theorem completeRound_eq (t : Clk) (g n : Nat) (b : Bank) (x : Expert) (m : Mod) : completeRound t g n b x m
    = applySignal t (g / 16) x.endObj 1 (modExp (restZeroed g n b x m) g n fun r => { r with st := .complete }) := rfl

section
variable (t : Clk) (g n : Nat) (b : Bank) (x : Expert) (m : Mod)

theorem st_completeRound : (expRound (completeRound t g n b x m) g n).st = .complete := by
  rw [completeRound_eq, applySignal_outside (expRound · g n) fun _ _ _ => rfl]
  exact congrArg (·.st) (expRound_modExp ..)

theorem syncObj_completeRound :
    syncObj (completeRound t g n b x m) (g / 16) x.endObj = signalObj (syncObj m (g / 16) x.endObj) 1 := by
  rw [completeRound_eq, syncObj_applySignal]
  exact congrArg (signalObj · 1) (restZeroed_outside (syncObj · (g / 16) x.endObj) (fun _ _ => rfl) ..)

theorem sget_sync_completeRound {j : Nat} (h : j ≠ syncKey (g / 16) x.endObj) :
    sget {} (completeRound t g n b x m).sync j = sget {} m.sync j := by
  rw [completeRound_eq, sget_sync_applySignal _ _ _ _ _ h]
  exact restZeroed_outside (sget {} ·.sync j) (fun _ _ => rfl) ..

end

theorem syncObj_of_sync {m u : Mod} (h : u.sync = m.sync) (d i : Nat) : syncObj u d i = syncObj m d i := by rw [syncObj, h, syncObj]

/-- The round of an expert that one more of its senders has ended. -/
def endCounted (g n : Nat) (m : Mod) : Mod := modExp m g n fun r => { r with ends := r.ends + 1 }

theorem expRound_endCounted (g n : Nat) (m : Mod) :
    expRound (endCounted g n m) g n = { expRound m g n with ends := (expRound m g n).ends + 1 } := expRound_modExp ..

theorem mem_endCounted (g n : Nat) (m : Mod) : (endCounted g n m).mem = m.mem := rfl

theorem sync_endCounted (g n : Nat) (m : Mod) : (endCounted g n m).sync = m.sync := rfl

section
variable {t : Clk} {g n : Nat} {k : Packet} {x : Expert} {m : Mod} (hon : expertsOn m k.map.val g = [(n, x)]) (hst : (expRound m g n).st = .opn)
include hon hst

theorem tokenEndAt_counts (h : (expRound m g n).ends + 1 < x.senders) : tokenEndAt t g k m = .done (endCounted g n m) := by
  have hopen : [(n, x)].any (fun y => (expRound m g y.1).st != .opn) = false := by simp [hst]
  have hnext : [(n, x)].any (fun y => endsNext m g y && roundPinned m g y.1 (bank m k.map.val) y.2) = false := by
    simp [endsNext, h]
  have hmore : ¬ (expRound (modExp m g n fun r => { r with ends := r.ends + 1 }) g n).ends ≥ x.senders := by
    rw [expRound_modExp]
    exact Nat.not_le.2 h
  simp only [tokenEndAt, hon, hopen, hnext, Bool.false_eq_true, if_false, List.foldl_cons, List.foldl_nil, hmore]
  rfl

theorem tokenEndAt_completes (h : x.senders ≤ (expRound m g n).ends + 1) (hpins : roundPinned m g n (bank m k.map.val) x = false) :
    tokenEndAt t g k m = .done (completeRound t g n (bank m k.map.val) x (endCounted g n m)) := by
  have hopen : [(n, x)].any (fun y => (expRound m g y.1).st != .opn) = false := by simp [hst]
  have hnext : [(n, x)].any (fun y => endsNext m g y && roundPinned m g y.1 (bank m k.map.val) y.2) = false := by
    simp [hpins]
  have hlast : (expRound (modExp m g n fun r => { r with ends := r.ends + 1 }) g n).ends ≥ x.senders := by
    rw [expRound_modExp]
    exact h
  simp only [tokenEndAt, hon, hopen, hnext, Bool.false_eq_true, if_false, List.foldl_cons, List.foldl_nil, hlast, if_true]
  rfl

end

/-! ## The rows -/

section
variable {s : State} {p : Port} {k : Packet} (hfree : blockedAt s.m k.dstEng.toNat = none) (hfirst : pinnedBehind s.m k = none)
  (howner : dieOwner s.m (k.dstEng.toNat / 16) = some (portPart s.m p))
include hfree hfirst howner

section
variable {x : Expert} (hold : oldest s.m p k 0x20) (hx : expertAt s.m k.map.val k.arg.toNat = some x) (hmod : x.module = moduleNum s.m)
  (heng : x.engine = k.dstEng.toNat) (hcap : x.capacity ≠ 0) (hst : (expRound s.m k.dstEng.toNat k.arg.toNat).st = .opn)
  (hseg : ifld k 0x2C 2 = 0)
include hold hx hmod heng hcap hst hseg

/-- A token for which its round has no row is answered by a TOKEN_DROP to its source (R424). -/
theorem links_token_full (hfull : x.capacity ≤ (expRound s.m k.dstEng.toNat k.arg.toNat).fill) (hsrc : k.src.toNat ≠ moduleNum s.m)
    (hver : ∀ q, route s.m (portPart s.m p) k.src.toNat = .ok q → 1 ≤ (port s.m q).version) :
    Links s (exec (.token p k) s) fun u =>
      (partSt u (portPart s.m p)).tokenDrop = sat32 ((partSt s.m (portPart s.m p)).tokenDrop + 1)
        ∧ (expRound u k.dstEng.toNat k.arg.toNat).fill = (expRound s.m k.dstEng.toNat k.arg.toNat).fill ∧ u.mem = s.m.mem
        ∧ ∀ q, route s.m (portPart s.m p) k.src.toNat = .ok q →
          ∃ y ∈ (port u q).txq, y.pkt.typ = 0x22 ∧ y.pkt.dst = k.src ∧ y.pkt.arg = k.arg := by
  have hat := (vc2At_token (m := takenIn s.m p k) (t := s.clk) (p := p) howner hold.1 hx hmod heng hcap).trans
    (tokenAt_full (m := takenIn s.m p k) hst hseg hfull)
  have hdst := dst_tokenDropPacket (takenIn s.m p k) (portPart s.m p) k
  have hroutes := (routesKept_takenIn s.m p k).trans
    (routesKept_tokenRefused (portPart s.m p) k.dstEng.toNat k.arg.toNat k (takenIn s.m p k))
  generalize hu : countTokenDrop (portPart s.m p) (tokenRefused k.dstEng.toNat k.arg.toNat k (takenIn s.m p k)) = u at hat hroutes
  have hroute : ∀ q, route u (portPart s.m p) (tokenDropPacket (takenIn s.m p k) (portPart s.m p) k).dst.toNat = .ok q →
      1 ≤ (port u q).version := fun q hq => by
    rw [hroutes.route, hdst] at hq
    rw [hroutes.version]
    exact hver q hq
  have hother : (tokenDropPacket (takenIn s.m p k) (portPart s.m p) k).dst.toNat ≠ moduleNum u := by
    rwa [hdst, hroutes.moduleNum]
  refine links_arrives (List.mem_cons_self ..) hold ?_
  rw [arriveAt_reply (m := takenIn s.m p k) hfree hfirst hat hother]
  refine ⟨?_, ?_, ?_, fun q hq => ?_⟩
  · rw [sendReply_outside (partSt · (portPart s.m p)) (fun _ _ _ => rfl) hroute, ← hu]
    exact tokenDrop_countTokenDrop ..
  · rw [sendReply_outside (expRound · k.dstEng.toNat k.arg.toNat) (fun _ _ _ => rfl) hroute, ← hu]
    exact fill_tokenRefused ..
  · rw [mem_sendReply, ← hu, mem_tokenRefused, mem_takenIn]
  · have hsent : route u (portPart s.m p) (tokenDropPacket (takenIn s.m p k) (portPart s.m p) k).dst.toNat = .ok q := by
      rwa [hroutes.route, hdst]
    obtain ⟨y, hy, hpkt⟩ := mem_txq_sendReply_version hsent (hroute q hsent)
    exact ⟨y, hy, hpkt ▸ rfl, hpkt ▸ hdst, hpkt ▸ arg_tokenDropPacket ..⟩

/-- A token takes the next row of its round (R423). -/
theorem links_token_room (hroom : (expRound s.m k.dstEng.toNat k.arg.toNat).fill < x.capacity)
    (htiles : (expRound s.m k.dstEng.toNat k.arg.toNat).fill = 0 → expertTilesOk s.m k.map.val x = true)
    (hpins : slotPinned s.m k.dstEng.toNat (bank s.m k.map.val) x (expRound s.m k.dstEng.toNat k.arg.toNat).fill = false) {P : Mod → Prop}
    (h : P (modExp (tokenLaid k.dstEng.toNat (expRound s.m k.dstEng.toNat k.arg.toNat).fill x k (takenIn s.m p k)) k.dstEng.toNat k.arg.toNat
      (tokenTaken k))) : Links s (exec (.token p k) s) P := by
  have hat := (vc2At_token (m := takenIn s.m p k) (t := s.clk) (p := p) howner hold.1 hx hmod heng hcap).trans
    (tokenAt_room (m := takenIn s.m p k) hst hseg hroom htiles ((slotPinned_takenIn ..).trans hpins))
  exact links_done (List.mem_cons_self ..) hold hfree hfirst hat h

end

section
variable {x : Ticket} (hx : ticketAt s.m k.dstEng.toNat (ifld k 0x25 1) = some x)
include hx

theorem links_tokenDrop (hold : oldest s.m p k 0x22) {P : Mod → Prop}
    (h : P (ticketAnswered k.dstEng.toNat (ifld k 0x25 1) x 1 (takenIn s.m p k))) : Links s (exec (.tokenDrop p k) s) P := by
  have hat := (vc2At_tokenDrop (m := takenIn s.m p k) (t := s.clk) (p := p) howner hold.1).trans (tokenDropAt_counted hx)
  exact links_done (row := (.tokenDrop p k, 0x22)) (by simp [tokenRows]) hold hfree hfirst hat h

/-- A segment of a result is added to its row; the last of it is an answer to its ticket (R427). -/
theorem links_tokenRet (hold : oldest s.m p k 0x21) (hrow : ifld k 0x28 4 < x.rows)
    (hpins : ∀ r ∈ gridRow x.dest x.cols 0x10 (ifld k 0x28 4), pinned s.m k.dstEng.toNat r.1 r.2 = false) {P : Mod → Prop}
    (h : P (if lastSeg k then ticketAnswered k.dstEng.toNat (ifld k 0x25 1) x 0 (rowAdded k.dstEng.toNat x k (takenIn s.m p k))
      else rowAdded k.dstEng.toNat x k (takenIn s.m p k))) : Links s (exec (.tokenRet p k) s) P := by
  have hat := (vc2At_tokenRet (m := takenIn s.m p k) (t := s.clk) (p := p) howner hold.1).trans
    (tokenRetAt_adds hx hrow fun r hr => (pinned_takenIn ..).trans (hpins r hr))
  exact links_done (row := (.tokenRet p k, 0x21)) (by simp [tokenRows]) hold hfree hfirst hat h

end

section
variable {n : Nat} {x : Expert} (hold : oldest s.m p k 0x23) (hon : expertsOn s.m k.map.val k.dstEng.toNat = [(n, x)])
  (hst : (expRound s.m k.dstEng.toNat n).st = .opn)
include hold hon hst

theorem links_tokenEnd_counts (hmore : (expRound s.m k.dstEng.toNat n).ends + 1 < x.senders) {P : Mod → Prop}
    (h : P (endCounted k.dstEng.toNat n (takenIn s.m p k))) : Links s (exec (.tokenEnd p k) s) P := by
  have hat := (vc2At_tokenEnd (m := takenIn s.m p k) (t := s.clk) (p := p) howner hold.1).trans
    (tokenEndAt_counts (m := takenIn s.m p k) hon hst hmore)
  exact links_done (row := (.tokenEnd p k, 0x23)) (by simp [tokenRows]) hold hfree hfirst hat h

/-- The last TOKEN_END completes the round and signals it (R425). -/
theorem links_tokenEnd_completes (hlast : x.senders ≤ (expRound s.m k.dstEng.toNat n).ends + 1)
    (hpins : roundPinned s.m k.dstEng.toNat n (bank s.m k.map.val) x = false) :
    Links s (exec (.tokenEnd p k) s) fun u => (expRound u k.dstEng.toNat n).st = .complete
      ∧ syncObj u (k.dstEng.toNat / 16) x.endObj = signalObj (syncObj s.m (k.dstEng.toNat / 16) x.endObj) 1
      ∧ ∀ j, j ≠ syncKey (k.dstEng.toNat / 16) x.endObj → sget {} u.sync j = sget {} s.m.sync j := by
  have hat := (vc2At_tokenEnd (m := takenIn s.m p k) (t := s.clk) (p := p) howner hold.1).trans
    (tokenEndAt_completes (m := takenIn s.m p k) hon hst hlast ((roundPinned_takenIn ..).trans hpins))
  have hsync : (endCounted k.dstEng.toNat n (takenIn s.m p k)).sync = s.m.sync := (sync_endCounted ..).trans (sync_takenIn ..)
  refine links_done (row := (.tokenEnd p k, 0x23)) (by simp [tokenRows]) hold hfree hfirst hat ⟨st_completeRound .., ?_, fun j hj => ?_⟩
  · rw [syncObj_completeRound, syncObj_of_sync hsync]
  · rw [sget_sync_completeRound _ _ _ _ _ _ hj, hsync]

end

end

end Sys2Proof.Machine

namespace Sys2Proof
open Machine

/-- Settles O52: a packet waits by `arriveAt_blocked` to `arriveAt_pinned`, or its engine does with it what `tokenLaid`, `ticketAnswered`,
`rowAdded` and `completeRound` say. -/
theorem tokensArrive : Obligations.TokensArrive := by
  unfold Obligations.TokensArrive
  intro p k s
  dsimp only
  refine ⟨fun row hrow hold => ⟨?blocked, ?behind, ?held, ?pinned, ?done⟩, ?token, ?ticket, ?ends⟩
  case blocked =>
    intro n h
    refine links_arrives hrow hold ?_
    rw [arriveAt_blocked (m := takenIn s.m p k) h, held_holdRound, mem_holdRound, expRound_takenIn]
    exact ⟨rfl, mem_takenIn ..⟩
  case behind =>
    intro n hfree h
    refine links_arrives hrow hold ?_
    rw [arriveAt_behind (m := takenIn s.m p k) hfree h, pinHeld_holdPin, mem_holdPin, expRound_takenIn]
    exact ⟨rfl, mem_takenIn ..⟩
  case held =>
    intro hfree hfirst h
    refine links_arrives hrow hold ?_
    rw [arriveAt_held (m := takenIn s.m p k) hfree hfirst h, holdKey_takenIn, held_holdRound, mem_holdRound, expRound_takenIn]
    exact ⟨rfl, mem_takenIn ..⟩
  case pinned =>
    intro hfree hfirst h
    refine links_arrives hrow hold ?_
    rw [arriveAt_pinned (m := takenIn s.m p k) hfree hfirst h, holdKey_takenIn, pinHeld_holdPin, mem_holdPin, expRound_takenIn]
    exact ⟨rfl, mem_takenIn ..⟩
  case done => exact fun hfree hfirst u h => links_done hrow hold hfree hfirst h rfl
  case token =>
    intro x hold hfree hfirst howner hx hmod heng hcap hst hseg
    refine ⟨links_token_full hfree hfirst howner hold hx hmod heng hcap hst hseg, fun hroom htiles hpins => ?room⟩
    case room =>
      refine links_token_room hfree hfirst howner hold hx hmod heng hcap hst hseg hroom htiles hpins ?_
      rw [expRound_tokenLaid, expRound_takenIn]
      exact ⟨rfl, hst, rfl, gate_tokenLaid .., record_tokenLaid k (takenIn s.m p k)⟩
  case ticket =>
    intro x hfree hfirst howner hx
    refine ⟨fun hold hleft => ?dropped, fun hold hleft => ?droppedLast, fun hold hrow hpins => ?returned⟩
    case dropped =>
      refine links_tokenDrop hfree hfirst howner hx hold ?_
      rw [mem_ticketAnswered, mem_takenIn]
      exact ⟨ticketAt_ticketAnswered_left _ _ _ _ hleft, rfl⟩
    case droppedLast =>
      refine links_tokenDrop hfree hfirst howner hx hold ?_
      rw [mem_ticketAnswered, mem_takenIn, ← ctx_takenIn s.m p k]
      exact ⟨ticketAt_ticketAnswered_last _ _ _ _ hleft, rfl, counter_ticketAnswered_last _ _ _ _ hleft⟩
    case returned =>
      refine links_tokenRet hfree hfirst howner hx hold hrow hpins ?_
      have hadded : rowAdded k.dstEng.toNat x k (takenIn s.m p k) = gridPut (takenIn s.m p k) k.dstEng.toNat x.dest x.cols 0x10 (ifld k 0x28 4)
          (4096 * ifld k 0x2C 2) (rowSum k.dstEng.toNat x k s.m) := by rw [rowAdded, rowSum_takenIn]
      cases lastSeg k with
      | true =>
        rw [if_pos rfl, mem_ticketAnswered, hadded]
        exact ⟨rfl, fun _ hleft => ticketAt_ticketAnswered_left _ _ _ _ hleft, nofun⟩
      | false =>
        rw [if_neg Bool.false_ne_true, ticketAt_rowAdded, hadded]
        exact ⟨rfl, nofun, fun _ => hx⟩
  case ends =>
    intro n x hold hfree hfirst howner hon hst
    refine ⟨fun hmore => ?counts, fun hlast hpins => ?completes⟩
    case counts =>
      refine links_tokenEnd_counts hfree hfirst howner hold hon hst hmore ?_
      rw [expRound_endCounted, mem_endCounted, sync_endCounted, mem_takenIn, sync_takenIn]
      exact ⟨rfl, rfl, rfl⟩
    case completes => exact links_tokenEnd_completes hfree hfirst howner hold hon hst hlast hpins

end Sys2Proof
end

/-! # Steps and rows (R568, R570) -/

section
namespace Sys2Proof
open Machine

/-- Settles O1: `step` by its definition at a queue that is not empty. -/
theorem stepRunsFront : Obligations.StepRunsFront := by
  unfold Obligations.StepRunsFront
  intro c rest s h
  rw [step, h]

/-- Settles O3: every row is by its definition a next state that keeps the queue. -/
theorem everyCommandAnswers : Obligations.EveryCommandAnswers := by
  unfold Obligations.EveryCommandAnswers
  intro i s
  cases i <;> exact ⟨_, rfl, rfl⟩

end Sys2Proof
end

/-! # SPDM (R548) -/

section
namespace Sys2Proof.Machine

section
variable {s : State} (hup : spdmUp s.m = true) {code : Nat} {req content : List Byte}
include hup

theorem spdmAnswer_unsigned (hsign : Config.spdmSigns code req = false) :
    spdmAnswer code req content s.m
      = emit (.spdm (Config.spdmReply code req content)) { s.m with sec := { s.m.sec with spdmLast := none } } := by
  simp [spdmAnswer, hup, hsign]

theorem spdmAnswer_signed (hsign : Config.spdmSigns code req = true) :
    spdmAnswer code req content s.m
      = emit (.spdmSigned (Config.spdmReply code req content) (edSig (Config.spdmTranscript req (Config.spdmReply code req content))))
          { s.m with sec := { s.m.sec with spdmLast := some (Config.spdmTranscript req (Config.spdmReply code req content)) } } := by
  simp [spdmAnswer, hup, hsign]

/-- A row of a request answers, and a signed reply leaves its transcript. -/
theorem spdm_row {i : Instr} (hi : exec i s = .next { s with m := spdmAnswer code req content s.m }) :
    let r := Config.spdmReply code req content
    let h := Config.spdmTranscript req r
    ∃ t, exec i s = .next t ∧ t.clk = s.clk ∧ t.m.mem = s.m.mem
      ∧ (Config.spdmSigns code req = false → t.m.out = s.m.out ++ [.spdm r] ∧ t.m.sec = { s.m.sec with spdmLast := none })
      ∧ (Config.spdmSigns code req = true → t.m.out = s.m.out ++ [.spdmSigned r (edSig h)]
        ∧ t.m.sec = { s.m.sec with spdmLast := some h }) := by
  refine ⟨_, hi, rfl, ?_⟩
  cases hsign : Config.spdmSigns code req with
  | false => simp only [spdmAnswer_unsigned hup hsign]; exact ⟨rfl, fun _ => ⟨rfl, rfl⟩, nofun⟩
  | true => simp only [spdmAnswer_signed hup hsign]; exact ⟨rfl, nofun, fun _ => ⟨rfl, rfl⟩⟩

end

end Sys2Proof.Machine

namespace Sys2Proof
open Machine

/-- Settles O59: `spdm_row` for each request, and `spdmSecond` by the transcript that is left. -/
theorem spdmAnswers : Obligations.SpdmAnswers := by
  unfold Obligations.SpdmAnswers
  intro req s hup
  refine ⟨?requests, ?second, ?nothing⟩
  case requests =>
    intro row hrow
    simp only [List.mem_cons, List.not_mem_nil, or_false] at hrow
    obtain rfl | rfl | rfl | rfl | rfl | rfl | rfl := hrow <;> exact spdm_row hup rfl
  case second =>
    intro h hlast
    have hsecond : spdmSecond s.m = emit (.spdm (mlSig h)) { s.m with sec := { s.m.sec with spdmLast := none } } := by
      simp [spdmSecond, hup, hlast]
    exact ⟨_, rfl, congrArg Mod.out hsecond, congrArg Mod.sec hsecond⟩
  case nothing =>
    intro hlast
    have hsecond : spdmSecond s.m = s.m := by simp [spdmSecond, hlast]
    change Host.Outcome.next { s with m := spdmSecond s.m } = _
    rw [hsecond]

end Sys2Proof
end

/-! # Protective trips and what the module measures of itself (R511, R523 to R525, R533 to R535, R538) -/

section
namespace Sys2Proof.Machine

/-! ## Tables cut down to some keys -/

/-- A table cut down to the keys that a test passes reads as before at those keys, and its default elsewhere. -/
theorem sget_filter_keys {α : Type} (d : α) (p : Nat → Bool) (t : Sparse α) (x : Nat) :
    sget d (t.filter fun kv => p kv.1) x = if p x then sget d t x else d := by
  induction t with
  | nil => simp [sget]
  | cons e r ih =>
    obtain ⟨k, v⟩ := e
    rw [List.filter_cons, sget_cons]
    cases hk : p k with
    | true =>
      rw [if_pos rfl, sget_cons, ih]
      by_cases hx : k = x
      · simp [hx, ← hk]
      · simp [hx]
    | false =>
      rw [if_neg (by simp), ih]
      by_cases hx : k = x
      · simp [← hx, hk]
      · simp [hx]

/-- Host memory alone: the bytes of the module read 0. -/
theorem peek_hostCells (m : Mod) (a : Nat) (mem : Mem) (h : mem.cells = hostCells m) :
    peek mem a = if hostBase ≤ a then peek m.mem a else 0 := by
  rw [peek, h, hostCells, sget_filter_keys (p := fun a => decide (hostBase ≤ a))]
  simp [peek]

/-- The log of HN alone. -/
theorem flog_filter_logHN (m u : Mod) (h : u.logs = m.logs.filter fun kv => kv.1 == logHN) : flog u logHN = flog m logHN := by
  rw [flog, h, sget_filter_keys (p := fun k => k == logHN), if_pos (beq_self_eq_true _), flog]

/-! ## Trips (R523, R543) -/

theorem tripped_halted {m : Mod} (h : m.pwr.tripped = true) (e : FEntry) (c : Clk) : tripped e c m = (c, m) := if_pos (.inl h)

theorem tripped_halts {m : Mod} (h : m.pwr.tripped = false) (hin : m.hub.input = true) (e : FEntry) (c : Clk) :
    tripped e c m = (resetClk c, unpowered (logFault c logHN e m)) := if_neg (by simp [h, hin])

/-- A row that halts the module on a condition with an entry: a halted module stays, any other with input power halts. -/
theorem trips_row {s : State} {i : Instr} {b : Bool} {cond : Prop} {e : FEntry} (hi : exec i s = onBoth (tripIf b e) s)
    (hb : cond → b = true) :
    (s.m.pwr.tripped = true → exec i s = .next s)
      ∧ (cond → s.m.pwr.tripped = false → s.m.hub.input = true → ∃ t, exec i s = .next t
        ∧ t.clk = { clkReset with now := s.clk.now } ∧ t.m.pwr.tripped = true ∧ t.m.tripPin = true ∧ t.m.pwr.walk = none ∧ t.m.eng = []
        ∧ (flog t.m logHN).last.typ = e.typ ∧ (flog t.m logHN).last.addr = e.addr ∧ (flog t.m logHN).last.info = e.info
        ∧ (flog t.m logHN).last.time = s.clk.sid ∧ (flog t.m logHN).count = min 0xFFFFFFFF ((flog s.m logHN).count + 1)
        ∧ (∀ c ∈ t.m.cmds, c.st = .retired) ∧ ∀ a, a < hostBase → peek t.m.mem a = 0) := by
  rw [hi]
  constructor
  · intro h
    have hstays : tripIf b e s.clk s.m = (s.clk, s.m) := by
      rw [tripIf, tripped_halted h, ite_self]
    rw [onBoth, hstays]
  · intro hc h hin
    have hhalts : tripIf b e s.clk s.m = (resetClk s.clk, unpowered (logFault s.clk logHN e s.m)) := by
      rw [tripIf, if_pos (hb hc), tripped_halts h hin]
    have hlog : flog (unpowered (logFault s.clk logHN e s.m)) logHN = logApply (flog s.m logHN) { e with time := s.clk.sid } :=
      (flog_filter_logHN _ _ rfl).trans (flog_logFault ..)
    refine ⟨{ s with clk := resetClk s.clk, m := unpowered (logFault s.clk logHN e s.m) }, by rw [onBoth, hhalts], rfl, rfl, rfl, rfl, rfl, ?_⟩
    simp only [hlog]
    refine ⟨rfl, rfl, rfl, rfl, rfl, ?_, ?_⟩
    · intro c hcmd
      obtain ⟨x, -, rfl⟩ := List.mem_map.1 hcmd
      rfl
    · intro a ha
      rw [peek_hostCells _ a _ rfl, if_neg (by omega)]

/-! ## Warnings, samples and the refresh rate (R525, R533 to R535, R538) -/

/-- The entry of a die that a sensor finds at 100 °C or more, none of its sensors there before (R525). -/
theorem thermalWarn_warns {m : Mod} {die : Nat} {t8 : Int} (hhot : 800 ≤ t8) (hnew : die ∉ m.pwr.hot) (sensor : Nat) (t : Clk) :
    thermalWarn die sensor t8 t m = logFault t (dieLog die).1 (dieEntry die sensor t8 fThermalWarn)
      (modPwr m fun p => { p with twarn := true, hot := die :: p.hot }) := by
  rw [thermalWarn, if_neg (by omega), if_neg (by simpa using hnew)]

/-- The rail that a sample of a die asks for (R534). -/
def railWanted (m : Mod) (d : Nat) (x : MonSample) : Nat :=
  if ageEn m then wantedRail d (railOf m d) x.worst (slackHigh m d) else Config.vEol d

/-- What a sample leaves of the power block: its record, and the rail of the next interval. -/
def sampledPwr (d : Nat) (x : MonSample) (em : Bool) (t : Clk) (m : Mod) : Pwr :=
  { m.pwr with
    almanac := smod [] m.pwr.almanac d fun l =>
      (newRecord t m d x (clampRail m d (railWanted m d x)) (railWanted m d x) em :: l).take 8192
    rail := sset 0 m.pwr.rail d (if ageEn m then clampRail m d (railWanted m d x) else 0) }

theorem sampledPwr_spec (d : Nat) (x : MonSample) (em : Bool) (t : Clk) (m : Mod) :
    sget [] (sampledPwr d x em t m).almanac d
        = (newRecord t m d x (clampRail m d (railWanted m d x)) (railWanted m d x) em :: sget [] m.pwr.almanac d).take 8192
      ∧ sget 0 (sampledPwr d x em t m).rail d = if ageEn m then clampRail m d (railWanted m d x) else 0 :=
  ⟨by rw [sampledPwr, sget_smod_same], by rw [sampledPwr, sget_sset_same]⟩

theorem pwr_sampleDie {t : Clk} {m : Mod} {d : Nat} (hpowered : diePowered t m d = true) (x : MonSample) (em : Bool) :
    (sampleDie d x em t m).pwr = sampledPwr d x em t m := by
  simp only [sampleDie, hpowered, not_true_eq_false, if_false]
  split_ifs <;> simp [policyClamp, modPwr, sampledPwr, railWanted, *]

/-- Where the temperature calls for more than the host's bound, the bound stands and the clamp is logged (R538, R539). -/
theorem refreshChange_spec {m : Mod} {h mult4 : Nat} (hon : dieState m h ≠ 3) (t : Clk) :
    refreshOf (refreshChange h mult4 t m) h = min mult4 (sget 8 m.pwr.refMax h)
      ∧ (sget 8 m.pwr.refMax h < mult4 → (flog (refreshChange h mult4 t m) (logCD h)).last.typ = fPolicyClamp)
      ∧ (mult4 ≤ sget 8 m.pwr.refMax h → (refreshChange h mult4 t m).logs = m.logs) := by
  simp only [refreshChange, if_neg hon]
  split_ifs with hover
  · refine ⟨?_, fun _ => ?_, fun hle => absurd hover (by omega)⟩
    · simp [refreshOf, policyClamp, modPwr]
    · rw [policyClamp, flog_logFault]
      rfl
  · exact ⟨by simp [refreshOf, modPwr], fun hlt => absurd hlt hover, fun _ => rfl⟩

/-- A decode core idle for 1 ms returns its leave (R459). -/
theorem coreIdle_returns {m : Mod} {d core : Nat} {t : Clk} (hid : sget 0 (mdie m d).coreLeave core ≠ 0)
    (hheld : hasGrant m (16 + d) (sget 0 (mdie m d).coreLeave core) = true)
    (hidle : sget 0 (mdie m d).coreSince core + 1600000 ≤ t.now) :
    coreIdle d core t m = modMdie (returnLeave m (16 + d) (sget 0 (mdie m d).coreLeave core)) d fun x =>
      { x with coreLeave := sset 0 x.coreLeave core 0, coreSince := sset 0 x.coreSince core 0 } := by
  have hdue : ¬ t.now < sget 0 (mdie m d).coreSince core + usTicks 1000 := by simp only [usTicks]; omega
  simp [coreIdle, hid, hheld, hdue]

end Sys2Proof.Machine

namespace Sys2Proof
open Machine

/-- Settles O43: `trips_row` with the condition and the entry of each row. -/
theorem protectiveTrips : Obligations.ProtectiveTrips := by
  unfold Obligations.ProtectiveTrips
  intro s
  refine ⟨fun mV => ?_, fun mV => ?_, fun w => ?_, fun die sensor t8 => ?_, fun h sensor t8 => ?_, fun rail mA => ?_, ?_, ?_, ?_⟩
  case refine_1 => exact trips_row (e := tripEntry 5 0 fPower (measured 0 mV) 0) rfl decide_eq_true
  case refine_2 => exact trips_row (e := tripEntry 5 0 fPower (measured 0 mV) 0) rfl decide_eq_true
  case refine_3 => exact trips_row (e := tripEntry 5 0 fPower (measured 0 w) 0) rfl decide_eq_true
  case refine_4 => exact trips_row (e := dieEntry die.val sensor.toNat t8 fThermal) rfl decide_eq_true
  case refine_5 => exact trips_row (e := tripEntry 3 (BitVec.ofNat 8 h.val) fThermal (measured sensor.toNat t8) 0) rfl decide_eq_true
  case refine_6 => exact trips_row (b := true) (e := tripEntry 5 0 fPower (measured rail.toNat mA) 0) rfl fun _ => rfl
  case refine_7 => exact trips_row (b := s.clk.running) (e := tripEntry 5 0 fClock 0 1) rfl id
  case refine_8 => exact trips_row (b := s.clk.running) (e := tripEntry 5 0 fClock 0 2) rfl id
  case refine_9 => exact trips_row (b := true) (e := tripEntry 5 0 fSecurity 0 2) rfl fun _ => rfl

/-- Settles O44: each measurement by the equation of its operation. -/
theorem moduleMeasures : Obligations.ModuleMeasures := by
  unfold Obligations.ModuleMeasures
  intro s
  refine ⟨?input, ?warns, ?samples, ?refresh, ?idle⟩
  case input =>
    intro mV cur watts hin
    exact congrArg (fun m => Host.Outcome.next { s with m := m }) (if_pos hin)
  case warns =>
    intro die sensor t8 hhot hnew
    refine ⟨_, rfl, ?_⟩
    simp only [thermalWarn_warns hhot hnew]
    exact ⟨rfl, List.mem_cons_self, by rw [flog_logFault]; exact ⟨rfl, rfl⟩⟩
  case samples =>
    intro die x hpowered
    have hsampled (em : Bool) := pwr_sampleDie hpowered x em
    refine ⟨⟨_, rfl, ?_⟩, fun hlow => ⟨_, rfl, ?_⟩, fun hhigh => ?_⟩
    · simp only [hsampled]
      exact sampledPwr_spec ..
    · simp only [emergency, if_pos hlow, hsampled]
      exact sampledPwr_spec ..
    · exact congrArg (fun m => Host.Outcome.next { s with m := m }) (if_neg hhigh)
  case refresh =>
    intro h mult4 hon
    exact ⟨_, rfl, refreshChange_spec hon s.clk⟩
  case idle =>
    intro d core id hid hheld hidle
    refine ⟨_, rfl, ?_⟩
    simp only [coreIdle_returns hid hheld hidle]
    exact ⟨grants_returnLeave s.m (16 + d.val) id, by simp⟩

end Sys2Proof
end

/-! # Enable bits of the module, the partitions and the rings (R485, R506, R551, R606, R627, R629) -/

section
namespace Sys2Proof.Machine

/-! ## A write of fields leaves an enable bit at bit 0 -/

/-- A field above bit 0 that is set leaves bit 0. -/
theorem setField_mod_two (old v n : Nat) {lo : Nat} (hlo : 1 ≤ lo) :
    (old - bits old lo n * 2 ^ lo + bits v lo n * 2 ^ lo) % 2 = old % 2 := by
  obtain ⟨k, rfl⟩ : ∃ k, lo = k + 1 := ⟨lo - 1, by omega⟩
  have heven : ∀ x, bits x (k + 1) n * 2 ^ (k + 1) = 2 * (bits x (k + 1) n * 2 ^ k) := fun x => by rw [Nat.pow_succ]; ring
  have hle : bits old (k + 1) n * 2 ^ (k + 1) ≤ old :=
    (Nat.mul_le_mul_right _ (Nat.mod_le _ _)).trans (Nat.div_mul_le_self _ _)
  rw [heven] at hle ⊢
  rw [heven]
  omega

theorem writeFields_mod_two (locked : Bool) {skip : Fld → Bool} (v : Nat) {flds : List Fld} (old : Nat)
    (h : ∀ fl ∈ flds, skip fl = true ∨ 1 ≤ fl.lo) : writeFields locked skip old v flds % 2 = old % 2 := by
  induction flds generalizing old with
  | nil => rfl
  | cons fl r ih =>
    simp only [writeFields]
    rw [ih _ fun x hx => h x (List.mem_cons_of_mem _ hx)]
    split_ifs with hsets
    · refine setField_mod_two old v _ ?_
      rcases h fl List.mem_cons_self with hskip | hlo
      · simp [hskip] at hsets
      · exact hlo
    · rfl

theorem bit_zero (x : Nat) : bit x 0 = decide (x % 2 = 1) := by simp [bit]

theorem regB_storeFields_enable {off : Nat} {d : RDef} {i j : Nat} (hreg : lookReg off = some (d, i, j))
    (hfld : ∀ fl ∈ d.flds, enableBit off fl = true ∨ 1 ≤ fl.lo) (f v : Nat) (m : Mod) :
    regB (storeFields f off v m) off 0 = regB m off 0 := by
  have hword : regN (storeFields f off v m) off % 2 = regN m off % 2 := by
    simp only [storeFields, hreg, regN, reg_setReg_same, BitVec.toNat_ofNat]
    rw [Nat.mod_mod_of_dvd _ (by decide), writeFields_mod_two]
    intro fl hfl
    exact (hfld fl hfl).imp_left fun h => by simp [h]
  rw [regB, bit_zero, hword, ← bit_zero, ← regB]

/-! ## The enable registers in the tables -/

/-- A family of one index whose registers stand `s1` apart. -/
theorem rdefMatch_single {d : RDef} {off n y : Nat} (hn1 : 1 < d.n1) (hn2 : d.n2 = 1) (hs2 : d.s2 = 0) (hbase : d.base + d.s1 * n + y = off)
    (hn : n < d.n1) (hy : y < d.s1) : rdefMatch d off = if y = 0 then some (n, 0) else none := by
  have hx : off - d.base = d.s1 * n + y := by omega
  have hdiv : (d.s1 * n + y) / d.s1 = n := by
    rw [Nat.mul_add_div (by omega), Nat.div_eq_of_lt hy, Nat.add_zero]
  have hmin : min (d.n1 - 1) n = n := by omega
  have hrest : d.s1 * n + y - n * d.s1 = y := by rw [Nat.mul_comm]; omega
  have hlow : ¬ off < d.base := by omega
  simp [rdefMatch, hlow, hx, hdiv, hmin, hrest, hn2, hs2, show ¬ d.n1 ≤ 1 by omega]

theorem enableBit_ctrl {off : Nat} (h : 0x100000 ≤ off ∧ off < 0x200000 ∧ off % 0x40 = 0x10) : enableBit off (⟨0, 0, .rw, 0⟩ : Fld) = true := by
  obtain ⟨hlo, hhi, hplace⟩ := h
  simp [enableBit, hlo, hhi, hplace]

/-- SQ_CTRL and CQ_CTRL among the registers of the rings. -/
def sqCtrl : RDef := ⟨0x100010, 1024, 0x40, 1, 0, .sq, .ring,
  [⟨31, 24, .rwl, 1⟩, ⟨18, 16, .rwl, 0⟩, ⟨10, 8, .rwl, 0⟩, ⟨5, 2, .rwl, 0⟩, ⟨1, 1, .rwl, 0⟩, ⟨0, 0, .rw, 0⟩]⟩
def cqCtrl : RDef := ⟨0x180010, 1024, 0x40, 1, 0, .cq, .ring,
  [⟨63, 48, .rw, 0⟩, ⟨47, 32, .rw, 1⟩, ⟨26, 16, .rwl, 0⟩, ⟨10, 8, .rwl, 0⟩, ⟨5, 2, .rwl, 0⟩, ⟨1, 1, .rwl, 0⟩, ⟨0, 0, .rw, 0⟩]⟩

/-- No register before the one that a table finds at an offset is there. -/
theorem findReg_skip {d : RDef} {r : List RDef} {off : Nat} (h : rdefMatch d off = none) : findReg (d :: r) off = findReg r off := by
  rw [findReg, h]

theorem findReg_here {d : RDef} {r : List RDef} {off i j : Nat} (h : rdefMatch d off = some (i, j)) :
    findReg (d :: r) off = some (d, i, j) := by
  rw [findReg, h]

/-- A register of a ring's block, by its place `y` in the block. -/
theorem rdefMatch_ring {d : RDef} {off n y : Nat} (hn1 : d.n1 = 1024) (hs1 : d.s1 = 0x40) (hn2 : d.n2 = 1) (hs2 : d.s2 = 0)
    (hbase : d.base + 0x40 * n + y = off) (hn : n < 1024) (hy : y < 0x40) :
    rdefMatch d off = if y = 0 then some (n, 0) else none :=
  rdefMatch_single (by omega) hn2 hs2 (by rw [hs1]; exact hbase) (by omega) (by omega)

theorem lookReg_sqCtrl (n : RingId) : lookReg (rSq n + 0x10) = some (sqCtrl, n.val, 0) := by
  have hn := n.isLt
  rw [lookReg, blockRegs, rSq, if_neg (by omega), if_pos (by omega), regsRing,
    findReg_skip (rdefMatch_ring (n := n.val) (y := 0x10) rfl rfl rfl rfl (by simp) hn (by decide)),
    findReg_skip (rdefMatch_ring (n := n.val) (y := 8) rfl rfl rfl rfl (by simp; omega) hn (by decide))]
  exact findReg_here (rdefMatch_ring (n := n.val) (y := 0) rfl rfl rfl rfl (by simp; omega) hn (by decide))

theorem lookReg_cqCtrl (n : RingId) : lookReg (rCq n + 0x10) = some (cqCtrl, n.val, 0) := by
  have hn := n.isLt
  have hlow : ∀ d : RDef, d.base ≤ 0x100018 → d.n1 = 1024 → d.s1 = 0x40 → d.n2 = 1 → d.s2 = 0 → rdefMatch d (0x180000 + 0x40 * n.val + 0x10) = none := by
    intro d hbase hn1 hs1 hn2 hs2
    have hdiv : 1023 ≤ (0x180000 + 0x40 * n.val + 0x10 - d.base) / 0x40 := by omega
    have hnot : ¬ 0x180000 + 0x40 * n.val + 0x10 < d.base := by omega
    simp [rdefMatch, hnot, hn1, hs1, hn2, hs2, Nat.min_eq_left hdiv]
    omega
  rw [lookReg, blockRegs, rCq, if_neg (by omega), if_pos (by omega), regsRing]
  iterate 4 rw [findReg_skip (hlow _ (by simp) rfl rfl rfl rfl)]
  rw [findReg_skip (rdefMatch_ring (n := n.val) (y := 0x10) rfl rfl rfl rfl (by simp) hn (by decide)),
    findReg_skip (rdefMatch_ring (n := n.val) (y := 8) rfl rfl rfl rfl (by simp; omega) hn (by decide))]
  exact findReg_here (rdefMatch_ring (n := n.val) (y := 0) rfl rfl rfl rfl (by simp; omega) hn (by decide))

theorem sqEn_storeFields (n : RingId) (f v : Nat) (m : Mod) : sqEn (storeFields f (rSq n + 0x10) v m) n = sqEn m n := by
  refine regB_storeFields_enable (lookReg_sqCtrl n) ?_ f v m
  have hen := enableBit_ctrl (off := rSq n + 0x10) (by have := n.isLt; rw [rSq]; omega)
  simp [sqCtrl, hen]

theorem cqEn_storeFields (n : RingId) (f v : Nat) (m : Mod) : cqEn (storeFields f (rCq n + 0x10) v m) n = cqEn m n := by
  refine regB_storeFields_enable (lookReg_cqCtrl n) ?_ f v m
  have hen := enableBit_ctrl (off := rCq n + 0x10) (by have := n.isLt; rw [rCq]; omega)
  simp [cqCtrl, hen]

/-- PART_CTRL among the registers of the partitions. -/
def partCtrlReg : RDef := ⟨0x200000, 8, 0x10000, 1, 0, .part, .pf0, [⟨21, 16, .rwl, 0⟩, ⟨15, 8, .rwl, 0⟩, ⟨1, 1, .rwl, 0⟩, ⟨0, 0, .rw, 0⟩]⟩

theorem partEn_storeFields (k : Part) (f v : Nat) (m : Mod) : partEn (storeFields f (rPart k) v m) k = partEn m k := by
  have hreg : lookReg (rPart k) = some (partCtrlReg, k.val, 0) := (by decide : ∀ k : Part, lookReg (rPart k) = some (partCtrlReg, k.val, 0)) k
  refine regB_storeFields_enable hreg ?_ f v m
  exact (by decide : ∀ k : Part, ∀ fl ∈ partCtrlReg.flds, enableBit (rPart k) fl = true ∨ 1 ≤ fl.lo) k

/-! ## The enables -/

/-- A row of a register that the function may write. -/
theorem next_of_gated {s : State} {f off : Nat} (act : Mod → Mod) (hw : writable s.m f off = true) :
    onMod (fun _ m => gated f off act m) s = .next { s with m := act s.m } := by
  rw [onMod, gated_of_writable act hw]

section
variable {m : Mod} {v : Nat} (hv : bit v 0 = true)
include hv

theorem moduleOn_passes (hen : moduleEn m = false) (herr : moduleErr m = none) :
    moduleOn v m = modHub (setBit m rHubModuleCtrl 0 true) fun h => { h with reason := 0 } := by
  simp [moduleOn, hv, hen, herr]

theorem moduleOn_refused (hen : moduleEn m = false) {r : Byte} (herr : moduleErr m = some r) :
    moduleOn v m = modHub m fun h => { h with reason := r } := by
  simp [moduleOn, hv, hen, herr]

theorem partWrite_passes {f : Nat} {k : Part} (hen : partEn m k = false) (herr : partErr (storeFields f (rPart k) v m) k = none) :
    partWrite f k v m = modPart { setBit (storeFields f (rPart k) v m) (rPart k) 0 true with
        sec := { m.sec with keys := m.sec.keys + 1 } } k
      fun p => { p with reason := 0, keyGen := some m.sec.keys, integrity := 0 } := by
  have hsec : (storeFields f (rPart k) v m).sec = m.sec := storeFields_outside Mod.sec (fun _ _ => rfl) ..
  simp [partWrite, hv, hen, herr, hsec]

theorem partWrite_refused {f : Nat} {k : Part} (hen : partEn m k = false) {r : Byte}
    (herr : partErr (storeFields f (rPart k) v m) k = some r) :
    partWrite f k v m = modPart (storeFields f (rPart k) v m) k fun p => { p with reason := r } := by
  simp [partWrite, hv, hen, herr]

theorem sqWrite_passes {f : Nat} {n : RingId} (hen : sqEn m n = false) (herr : sqErr (storeReg f (rSq n + 0x10) v m) n = none) :
    sqWrite f n v m = modRing (setBit (storeReg f (rSq n + 0x10) v m) (rSq n + 0x10) 0 true) n
      fun x => { x with reason := 0, head := 0, tail := 0 } := by
  simp [sqWrite, hv, hen, herr]

theorem sqWrite_refused {f : Nat} {n : RingId} (hen : sqEn m n = false) {r : Byte}
    (herr : sqErr (storeReg f (rSq n + 0x10) v m) n = some r) :
    sqWrite f n v m = modRing (storeReg f (rSq n + 0x10) v m) n fun x => { x with reason := r } := by
  simp [sqWrite, hv, hen, herr]

theorem cqWrite_passes {f : Nat} {n : RingId} (hen : cqEn m n = false) (herr : cqErr (storeReg f (rCq n + 0x10) v m) n = none) :
    cqWrite f n v m = modRing (setBit (storeReg f (rCq n + 0x10) v m) (rCq n + 0x10) 0 true) n fun x => { x with
      cqReason := 0, cqHead := 0, cqTail := 0, cqPhase := true, evLost := 0, since := 0, oldest := none, cqBell := none } := by
  simp [cqWrite, hv, hen, herr]

theorem cqWrite_refused {f : Nat} {n : RingId} (hen : cqEn m n = false) {r : Byte}
    (herr : cqErr (storeReg f (rCq n + 0x10) v m) n = some r) :
    cqWrite f n v m = modRing (storeReg f (rCq n + 0x10) v m) n fun x => { x with cqReason := r } := by
  simp [cqWrite, hv, hen, herr]

end

@[simp] theorem sqEn_modRing (m : Mod) (n k : Nat) (f : Ring → Ring) : sqEn (modRing m n f) k = sqEn m k := rfl
@[simp] theorem cqEn_modRing (m : Mod) (n k : Nat) (f : Ring → Ring) : cqEn (modRing m n f) k = cqEn m k := rfl
theorem sqEn_setBit (m : Mod) (n : Nat) (b : Bool) : sqEn (setBit m (rSq n + 0x10) 0 b) n = b := regB_setBit_same m _ (by decide) b
theorem cqEn_setBit (m : Mod) (n : Nat) (b : Bool) : cqEn (setBit m (rCq n + 0x10) 0 b) n = b := regB_setBit_same m _ (by decide) b

theorem exec_partEnable {f : Func} {k : Part} {v : W64} {s : State} (hw : writable s.m f (rPart k) = true)
    (hscrub : (partSt s.m k).scrub = none) : exec (.partEnable f k v) s = .next { s with m := partWrite f k v.toNat s.m } := by
  change Host.Outcome.next { s with m := partCtrl f.val k.val v.toNat s.m } = _
  rw [partCtrl, if_neg (by simp [hscrub]), gated_of_writable _ hw]

theorem partSt_storeFields (f off v : Nat) (m : Mod) (k : Nat) : partSt (storeFields f off v m) k = partSt m k :=
  storeFields_outside (partSt · k) (fun _ _ => rfl) ..

end Sys2Proof.Machine

namespace Sys2Proof
open Machine

/-- Settles O37: each enable by what its write does where the check passes and where it does not. -/
theorem enablesChecked : Obligations.EnablesChecked := by
  unfold Obligations.EnablesChecked
  refine ⟨fun f v s hw => ⟨?on, ?off, ?kept⟩, ?part, fun f n v s hv => ⟨?sq, ?cq⟩⟩
  case on =>
    intro hv hen
    refine ⟨_, next_of_gated (moduleOn v.toNat) hw, rfl, fun herr => ?_, fun r herr => ?_⟩
    · simp only [moduleOn_passes hv hen herr]
      exact ⟨regB_setBit_same _ _ (by decide) true, rfl⟩
    · simp only [moduleOn_refused hv hen herr]
      exact ⟨hen, rfl⟩
  case off =>
    intro hparts
    have hnone : (List.range 8).any (partEn s.m) = false := by simpa using hparts
    refine ⟨_, next_of_gated moduleOff hw, ?_⟩
    simp only [moduleOff, hnone]
    exact regB_setBit_same _ _ (by decide) false
  case kept =>
    intro k hk hen
    have hsome : (List.range 8).any (partEn s.m) = true := List.any_eq_true.2 ⟨k, List.mem_range.2 hk, hen⟩
    exact (next_of_gated moduleOff hw).trans (by rw [moduleOff, if_pos hsome])
  case part =>
    intro f k v s hw hscrub hen hv
    refine ⟨_, exec_partEnable hw hscrub, fun herr => ?_, fun r herr => ?_⟩
    · simp only [partWrite_passes hv hen herr]
      exact ⟨regB_setBit_same _ _ (by decide) true, by simp, by simp, rfl, by simp⟩
    · simp only [partWrite_refused hv hen herr]
      refine ⟨(partEn_storeFields k f v.toNat s.m).trans hen, by simp, ?_⟩
      rw [partSt_modPart, if_pos rfl, partSt_storeFields]
  case sq =>
    intro hw hen
    refine ⟨_, next_of_gated (sqWrite f n v.toNat) hw, fun herr => ?_, fun r herr => ?_⟩
    · simp only [sqWrite_passes hv hen herr]
      exact ⟨(sqEn_modRing ..).trans (sqEn_setBit ..), by simp, by simp, by simp⟩
    · simp only [sqWrite_refused hv hen herr]
      exact ⟨(sqEn_storeFields n f _ s.m).trans hen, by simp⟩
  case cq =>
    intro hw hen
    refine ⟨_, next_of_gated (cqWrite f n v.toNat) hw, fun herr => ?_, fun r herr => ?_⟩
    · simp only [cqWrite_passes hv hen herr]
      exact ⟨(cqEn_modRing ..).trans (cqEn_setBit ..), by simp, by simp, by simp⟩
    · simp only [cqWrite_refused hv hen herr]
      exact ⟨(cqEn_storeFields n f _ s.m).trans hen, by simp⟩

end Sys2Proof
end

/-! # Firmware staging and service operations (R536, R609 to R611, R613, R614) -/

section
namespace Sys2Proof.Machine

/-! ## Messages and service slots -/

/-- A message sent or pending is all that `sendMsix` leaves. -/
theorem sendMsix_outside {α : Type} (g : Mod → α)
    (hg : ∀ m pend out, g { m with hub := { m.hub with msixPend := pend }, out := out } = g m) (f vec : Nat) (m : Mod) :
    g (sendMsix f vec m) = g m := by
  unfold sendMsix
  simp only
  split_ifs
  · exact hg m _ m.out
  · exact hg m m.hub.msixPend _

@[simp] theorem svcOf_modSvc (m : Mod) (s : Nat) (f : Svc → Svc) : svcOf (modSvc s f m) s = f (svcOf m s) := sget_smod_same ..

@[simp] theorem fwKind_modFw (m : Mod) (k : Nat) (f : FwKind → FwKind) : fwKind (modFw m k f) k = f (fwKind m k) := sget_smod_same ..

theorem svcOf_svcDone (s : Nat) (r : Byte) (m : Mod) :
    svcOf (svcDone s r m) s = { svcOf m s with busy := false, done := true, reason := r } :=
  (sendMsix_outside (svcOf · s) (fun _ _ _ => rfl) ..).trans (svcOf_modSvc ..)

theorem fw_svcDone (s : Nat) (r : Byte) (m : Mod) : (svcDone s r m).hub.fw = m.hub.fw :=
  sendMsix_outside (·.hub.fw) (fun _ _ _ => rfl) ..

/-! ## STAGE and COMMIT (R609, R611) -/

section
variable {m : Mod} {v : Nat} (hbusy : m.hub.fwBusy = false) (hk : bits v 8 3 ≤ 5)
include hbusy hk

theorem stageWrite_verified (hcmd : bits v 0 4 = 1)
    (herr : imageErr (fwKind m (bits v 8 3)) (hostRead m (regN m rHubFwImage) (regF m rHubFwLen 0 32)) = none) :
    stageWrite v m = modHub (modFw m (bits v 8 3) (stageKind (hostRead m (regN m rHubFwImage) (regF m rHubFwLen 0 32))))
      fun h => { h with fwReason := 0 } := by
  simp [stageWrite, hbusy, hcmd, herr, Nat.not_lt.2 hk]

theorem stageWrite_refused (hcmd : bits v 0 4 = 1) {r : Byte}
    (herr : imageErr (fwKind m (bits v 8 3)) (hostRead m (regN m rHubFwImage) (regF m rHubFwLen 0 32)) = some r) :
    stageWrite v m = modHub m fun h => { h with fwReason := r } := by
  simp [stageWrite, hbusy, hcmd, herr, Nat.not_lt.2 hk]

theorem commitWrite_fuses (hcmd : bits v 0 4 = 2) (hrec : m.hub.recovery = false) :
    commitWrite v m = modHub (modFw m (bits v 8 3) fun x => { x with fused := max x.fused x.runVer }) fun h => { h with fwReason := 0 } := by
  simp [commitWrite, hbusy, hcmd, hrec, Nat.not_lt.2 hk]

end

/-! ## Service operations (R613, R614) -/

/-- The slot of an operation that runs. -/
def runningSvc (c : SvcCmd) : Svc := { busy := true, done := false, reason := 0, op := c.op, kind := c.kind, index := c.index }

section
variable {m : Mod} {op slot v : Nat} {t : Clk} (hop : (readSvc v).op = op) (hfits : opFits (readSvc v).op (readSvc v).kind = true)
  (hfree : (svcOf m slot).busy = false)
include hop hfits hfree

theorem svcWrite_refused {r : Byte} (herr : svcErr t m (readSvc v) = some r) : svcWrite op slot v t m = svcDone slot r m := by
  simp [svcWrite, hop, hop ▸ hfits, hfree, herr]

theorem svcWrite_starts (herr : svcErr t m (readSvc v) = none) :
    svcWrite op slot v t m = svcStart t (readSvc v) (modSvc slot (fun _ => runningSvc (readSvc v)) m) := by
  simp [svcWrite, hop, hop ▸ hfits, hfree, herr, runningSvc]

end

/-- An operation other than the RETRAIN of a port starts with no more than the setting of a regulator. -/
theorem svcStart_plain {c : SvcCmd} {t : Clk} {m : Mod} (hop : c.op ≠ 2) (slot : Nat) :
    svcOf (svcStart t c m) slot = svcOf m slot
      ∧ (c.op = 4 → sget 0 (svcStart t c m).hub.rails c.index = BitVec.ofNat 32 c.setting) := by
  rw [svcStart, if_neg fun h => hop h.1]
  split_ifs with h4
  · exact ⟨rfl, fun _ => sget_sset_same ..⟩
  · exact ⟨rfl, fun h => absurd h h4⟩

/-- A port that is trained again is in TRAINING from now on, and the service slots are as they were. -/
theorem retrainPort_spec (t : Clk) (p : Nat) (m : Mod) :
    (port (retrainPort t p m) p).st = .training ∧ (port (retrainPort t p m) p).since = t.now
      ∧ ∀ slot, svcOf (retrainPort t p m) slot = svcOf m slot := by
  have hslots (slot : Nat) : svcOf (portDown t p 0 m) slot = svcOf m slot := portDown_outside t p 0 m (svcOf · slot) fun _ _ _ _ _ => rfl
  refine ⟨?_, ?_, hslots⟩ <;> rw [retrainPort, port_modPort_same]

/-- RETRAIN takes a port that is enabled to TRAINING. -/
theorem svcStart_retrain {c : SvcCmd} {m : Mod} (hop : c.op = 2) (t : Clk) (slot : Nat) :
    svcOf (svcStart t c m) slot = svcOf m slot
      ∧ (c.kind = 7 → portEn m c.index = true →
        (port (svcStart t c m) c.index).st = .training ∧ (port (svcStart t c m) c.index).since = t.now) := by
  obtain ⟨htraining, hsince, hslots⟩ := retrainPort_spec t c.index m
  by_cases hport : c.kind = 7 ∧ portEn m c.index = true
  · rw [svcStart, if_pos ⟨hop, hport⟩]
    exact ⟨hslots slot, fun _ _ => ⟨htraining, hsince⟩⟩
  · rw [svcStart, if_neg fun h => hport h.2, if_neg (by omega)]
    exact ⟨rfl, fun hkind hen => absurd ⟨hkind, hen⟩ hport⟩

/-! ## The end of an operation (R610, R613) -/

theorem svcEnd_reserved {result : Byte} (h : reasonOk result = false) (slot : Nat) (m : Mod) : svcEnd slot result m = m :=
  if_pos (.inr (by simp [h]))

section
variable {m : Mod} {slot : Nat} (hbusy : (svcOf m slot).busy = true)
include hbusy

theorem svcEnd_done {result : Byte} (hok : reasonOk result = true) :
    (svcOf (svcEnd slot result m) slot).busy = false ∧ (svcOf (svcEnd slot result m) slot).done = true := by
  simp only [svcEnd, hbusy, hok, not_true_eq_false, or_self, if_false, svcOf_svcDone, and_self]

theorem svcEnd_failed {result : Byte} (hok : reasonOk result = true) (hne : result ≠ 0) : svcEnd slot result m = svcDone slot result m := by
  simp only [svcEnd, hbusy, hok, ne_eq, hne, not_true_eq_false, not_false_eq_true, or_self, if_false, if_true, and_false]

/-- An activation that succeeds brings its unit to the staged image. -/
theorem svcEnd_activates (hop : (svcOf m slot).op = 1)
    (hbank : bankOk (fwKind m ((svcOf m slot).kind - 1)) (!(fwKind m ((svcOf m slot).kind - 1)).activeB) = true) :
    svcEnd slot 0 m = svcDone slot 0 (activate (svcOf m slot).kind (svcOf m slot).index m) := by
  have herr : activateErr m (svcOf m slot) = none := by simp [activateErr, hbank]
  have hok : reasonOk 0 = true := by decide
  simp only [svcEnd, hbusy, hok, herr, hop, ne_eq, not_true_eq_false, or_self, if_false, Option.getD_none, and_self, if_true]

end

/-- As many units as R626 counts of a kind are all that FW_ACTIVATE has to bring to the staged image. -/
theorem fwUnits_le {kind n : Nat} (hn : 0 < n) (h : unitCount kind ≤ n) : fwUnits (kind - 1) ≤ n := by
  match kind with
  | 0 => exact hn
  | 1 | 2 | 3 | 4 | 5 | 6 => exact h
  | _ + 7 => exact hn

/-- The unit that comes last makes the staged bank the active one (R610). -/
theorem runStaged_last {k index : Nat} {x : FwKind} (hstaged : x.staged = true) (hbank : bankOk x (!x.activeB) = true)
    (hall : fwUnits k ≤ ((index :: x.moved).dedup).length) :
    runStaged k index x = { x with activeB := !x.activeB, runningB := !x.activeB, runVer := if !x.activeB then x.verB else x.verA
                                   staged := false, moved := [] } := by
  simp only [runStaged, hstaged, hbank, not_true_eq_false, or_self, if_false]
  rw [if_neg (by omega)]

/-- Ageing that ends leaves no rail below its end-of-life voltage (R536). -/
theorem serviceCfg_spec (f v : Nat) (m : Mod) :
    (serviceCfg f v m).bar0 = (storeFields f rHubServiceCfg v m).bar0
      ∧ (ageEn m = true → ageEn (serviceCfg f v m) = false → (serviceCfg f v m).pwr.rail = [])
      ∧ (ageEn (serviceCfg f v m) = true → (serviceCfg f v m).pwr = m.pwr) := by
  have hpwr : (storeFields f rHubServiceCfg v m).pwr = m.pwr := storeFields_outside (·.pwr) (fun _ _ => rfl) ..
  rw [serviceCfg]
  split_ifs with hends
  · have hstays : ageEn (modPwr (storeFields f rHubServiceCfg v m) fun p => { p with rail := [] })
        = ageEn (storeFields f rHubServiceCfg v m) := rfl
    exact ⟨rfl, fun _ _ => rfl, fun h => absurd (hstays ▸ h) hends.2⟩
  · exact ⟨rfl, fun hage hoff => absurd ⟨hage, by simp [hoff]⟩ hends, fun _ => hpwr⟩

/-! ## The rows -/

/-- A row of the hub's block that the function may write. -/
theorem next_of_writable {s : State} {f off : Nat} (act : Clk → Mod → Mod) (hw : writable s.m f off = true) :
    onMod (fun t m => gated f off (act t) m) s = .next { s with m := act s.clk s.m } := by
  rw [onMod, gated_of_writable _ hw]

/-- A service row other than RETRAIN: it starts its operation or ends it with the first reason. -/
theorem svcRow_spec {i : Instr} {s : State} {f : Func} {slot : Fin 16} {op v : Nat} (hi : exec i s = onMod (svcRow op f slot v) s)
    (hne : op ≠ 2) (hw : writable s.m f (0x100 + 0x10 * slot.val) = true) (hop : (readSvc v).op = op)
    (hfits : opFits (readSvc v).op (readSvc v).kind = true) (hfree : (svcOf s.m slot).busy = false) :
    ∃ t, exec i s = .next t
      ∧ (svcErr s.clk s.m (readSvc v) = none → svcOf t.m slot = runningSvc (readSvc v)
          ∧ (op = 4 → sget 0 t.m.hub.rails (readSvc v).index = BitVec.ofNat 32 (readSvc v).setting))
      ∧ ∀ r, svcErr s.clk s.m (readSvc v) = some r →
          (svcOf t.m slot).busy = false ∧ (svcOf t.m slot).done = true ∧ (svcOf t.m slot).reason = r := by
  refine ⟨_, hi.trans (next_of_writable (svcWrite op slot v) hw), fun herr => ?_, fun r herr => ?_⟩
  · obtain ⟨hslot, hrail⟩ := svcStart_plain (t := s.clk) (m := modSvc slot (fun _ => runningSvc (readSvc v)) s.m) (hop ▸ hne) slot
    simp only [svcWrite_starts hop hfits hfree herr]
    exact ⟨hslot.trans (svcOf_modSvc ..), fun h => hrail (hop.trans h)⟩
  · simp only [svcWrite_refused hop hfits hfree herr, svcOf_svcDone, and_self]

end Sys2Proof.Machine

namespace Sys2Proof
open Machine

/-- Settles O40: STAGE and COMMIT by their writes, the service rows by `svcRow_spec` and `svcStart_retrain`, their end by `svcEnd`. -/
theorem serviceRuns : Obligations.ServiceRuns := by
  unfold Obligations.ServiceRuns
  refine ⟨?bank, ?rows, ?retrain, ?reserved, ?ends, ?cfg⟩
  case bank =>
    intro f v s hbusy
    refine ⟨fun hw hk hcmd => ⟨_, next_of_gated (stageWrite v.toNat) hw, fun herr => ?_, fun r herr => ?_⟩,
      fun hw hk hcmd hrec => ⟨_, next_of_gated (commitWrite v.toNat) hw, ?_⟩⟩
    · simp only [stageWrite_verified hbusy hk hcmd herr]
      exact ⟨fwKind_modFw .., rfl⟩
    · simp only [stageWrite_refused hbusy hk hcmd herr]
      exact ⟨rfl, rfl⟩
    · simp only [commitWrite_fuses hbusy hk hcmd hrec]
      exact fwKind_modFw s.m (bits v.toNat 8 3) fun x => { x with fused := max x.fused x.runVer }
  case rows =>
    intro row hrow f slot v s
    simp only [List.mem_cons, List.not_mem_nil, or_false] at hrow
    obtain rfl | rfl | rfl := hrow <;> exact svcRow_spec rfl (by decide)
  case retrain =>
    intro f slot v s c hw hop hfits hfree herr
    refine links_onPort (f := svcRow 2 f slot v.toNat) ?_
    obtain ⟨hslot, hport⟩ := svcStart_retrain (m := modSvc slot (fun _ => runningSvc c) s.m) hop s.clk slot
    rw [svcRow, gated_of_writable _ hw, svcWrite_starts hop hfits hfree herr]
    exact ⟨hslot.trans (by rw [svcOf_modSvc, runningSvc, hop]), hport⟩
  case reserved =>
    intro slot result s h
    exact congrArg (fun m => Host.Outcome.next { s with m := m }) (svcEnd_reserved h slot s.m)
  case ends =>
    intro slot result s hbusy hok x k
    obtain ⟨hidle, hdone⟩ := svcEnd_done hbusy hok
    refine ⟨_, rfl, hidle, hdone, fun hne => ?_, ?_⟩
    · simp only [svcEnd_failed hbusy hok hne]
      exact ⟨by rw [svcOf_svcDone], fw_svcDone ..⟩
    · rintro rfl hop hstaged hbank hall
      have hlast := runStaged_last (k := x.kind - 1) hstaged hbank (fwUnits_le (List.length_pos_iff.2 (by simp)) hall)
      have hkind : fwKind (svcEnd slot 0 s.m) (x.kind - 1) = runStaged (x.kind - 1) x.index k := by
        rw [svcEnd_activates hbusy hop hbank, fwKind, fw_svcDone]
        exact fwKind_modFw ..
      simp only [hkind, hlast, true_and]
      refine ⟨by cases k.activeB <;> rfl, ?_⟩
      rw [svcEnd_activates hbusy hop hbank, svcOf_svcDone]
  case cfg =>
    intro f v s hw
    exact ⟨_, next_of_gated (serviceCfg f v.toNat) hw, serviceCfg_spec ..⟩

end Sys2Proof
end

/-! # POWER_CMD and the steps of its walk (R512 to R520, R604, R653, R654) -/

section
namespace Sys2Proof.Machine

/-! ## POWER_CMD (R519, R520) -/

/-- A table filled for a list of keys reads at each of them as filled. -/
theorem sget_foldl_sset {α : Type} [DecidableEq α] (d : α) (g : Nat → α) {l : List Nat} {x : Nat} (hx : x ∈ l) (t : Sparse α) :
    sget d (l.foldl (fun t u => sset d t u (g u)) t) x = g x := by
  have hkeeps : ∀ (l : List Nat) t, sget d t x = g x → sget d (l.foldl (fun t u => sset d t u (g u)) t) x = g x := by
    intro l t ht
    refine List.foldlRecOn (motive := fun t => sget d t x = g x) l _ ht fun t ht u _ => ?_
    rw [sget_sset]
    split_ifs with h
    · rw [h]
    · exact ht
  induction l generalizing t with
  | nil => simp at hx
  | cons u r ih =>
    rcases List.mem_cons.1 hx with rfl | hr
    · exact hkeeps r _ (sget_sset_same ..)
    · exact ih hr _

/-- A field of another register stays over a write of PWR_CMD. -/
theorem regF_storeFields_other (f : Nat) {off o : Nat} (v : Nat) (m : Mod) (h : o ≠ off) (lo n : Nat) :
    regF (storeFields f off v m) o lo n = regF m o lo n := by
  rw [regF, regN, reg_storeFields_other f v m h, ← regN, ← regF]

theorem pwr_storeFields (f off v : Nat) (m : Mod) : (storeFields f off v m).pwr = m.pwr := storeFields_outside (·.pwr) (fun _ _ => rfl) ..

/-- The walk has ended, and GO reads 0 (R521). -/
theorem endWalk_spec (m : Mod) : (endWalk m).pwr = { m.pwr with walk := none } ∧ regB (endWalk m) rPwrCmd 0 = false :=
  ⟨sendMsix_outside (·.pwr) (fun _ _ _ => rfl) ..,
    (sendMsix_outside (regB · rPwrCmd 0) (fun _ _ _ => rfl) ..).trans (regB_setBit_same m _ (by decide) false)⟩

/-- The module as a walk begins: the staged values in effect, GO set. -/
def walkBegun (w : Walk) (m : Mod) : Mod := modPwr (setBit (applyStaged m) rPwrCmd 0 true) fun p => { p with reason := 0, walk := some w }

theorem walkAt_walkBegun (w : Walk) (m : Mod) : walkAt (walkBegun w m) w = walkAt m w := rfl

section
variable {f v scope : Nat} {m : Mod} {th : Bool} {c : Clk}
  (hgo : bit v 0 = true) (hscope : (readPower v).scope = scope) (hidle : regB m rPwrCmd 0 = false)
include hgo hscope hidle

theorem powerWrite_refused {r : Byte} (herr : powerErr (storeFields f rPwrCmd v m) (readPower v) th = some r) :
    powerWrite scope f v th c m = (c, modPwr (storeFields f rPwrCmd v m) fun p => { p with reason := r }) := by
  simp [powerWrite, hgo, hscope, hidle, herr]

theorem powerWrite_begins (htrip : m.pwr.tripped = false) (herr : powerErr (storeFields f rPwrCmd v m) (readPower v) th = none) :
    powerWrite scope f v th c m = (c, settleWalk { scope := (readPower v).scope, unit := (readPower v).unit, target := (readPower v).target }
      (walkBegun { scope := (readPower v).scope, unit := (readPower v).unit, target := (readPower v).target } (storeFields f rPwrCmd v m))) := by
  simp [powerWrite, hgo, hscope, hidle, herr, pwr_storeFields, htrip, walkBegun]

end

/-- A walk that begins: the staged limit and budgets count, and it ends at once where it stands at its target (R519). -/
theorem settleWalk_walkBegun (w : Walk) (m : Mod) :
    let u := settleWalk w (walkBegun w m)
    u.pwr.reason = 0 ∧ u.pwr.state = m.pwr.state ∧ u.pwr.limit = regF m rPwrLimit 0 13
      ∧ (∀ n < 22, sget 0 u.pwr.budget n = regF m (rPwrBudget n) 0 16)
      ∧ (walkAt m w ≠ w.target → u.pwr.walk = some w ∧ regB u rPwrCmd 0 = true)
      ∧ (walkAt m w = w.target → u.pwr.walk = none ∧ regB u rPwrCmd 0 = false) := by
  intro u
  have hbudget : ∀ n < 22, sget 0 (walkBegun w m).pwr.budget n = regF m (rPwrBudget n) 0 16 :=
    fun n hn => sget_foldl_sset 0 (fun n => regF m (rPwrBudget n) 0 16) (List.mem_range.2 hn) m.pwr.budget
  by_cases hends : walkAt m w = w.target
  · have hu : u = endWalk (walkBegun w m) := if_pos ((walkAt_walkBegun w m).trans hends)
    obtain ⟨hpwr, hgo⟩ := endWalk_spec (walkBegun w m)
    rw [hu, hpwr]
    exact ⟨rfl, rfl, rfl, hbudget, fun h => absurd hends h, fun _ => ⟨rfl, hgo⟩⟩
  · have hu : u = walkBegun w m := if_neg hends
    rw [hu]
    exact ⟨rfl, rfl, rfl, hbudget, fun _ => ⟨rfl, regB_setBit_same (applyStaged m) _ (by decide) true⟩, fun h => absurd h hends⟩

/-- POWER_CMD by the row of its scope. -/
theorem powerCmd_row {i : Instr} {f : Func} {v : W64} {th : Bool} {s : State} {scope : Nat}
    (hi : exec i s = onBoth (powerCmd scope f v.toNat th) s) (hw : writable s.m f rPwrCmd = true) (hrec : s.m.hub.recovery = false)
    (hgo : bit v.toNat 0 = true) (hidle : regB s.m rPwrCmd 0 = false) (htrip : s.m.pwr.tripped = false) :
    let x := readPower v.toNat
    let m1 := storeFields f rPwrCmd v.toNat s.m
    let w : Walk := { scope := x.scope, unit := x.unit, target := x.target }
    x.scope = scope →
    (∀ r, powerErr m1 x th = some r → exec i s = .next { s with m := modPwr m1 fun p => { p with reason := r } })
    ∧ (powerErr m1 x th = none → ∃ t, exec i s = .next t ∧ t.clk = s.clk
        ∧ t.m.pwr.reason = 0 ∧ t.m.pwr.state = s.m.pwr.state ∧ t.m.pwr.limit = regF s.m rPwrLimit 0 13
        ∧ (∀ u < 22, sget 0 t.m.pwr.budget u = regF s.m (rPwrBudget u) 0 16)
        ∧ (walkAt s.m w ≠ x.target → t.m.pwr.walk = some w ∧ regB t.m rPwrCmd 0 = true)
        ∧ (walkAt s.m w = x.target → t.m.pwr.walk = none ∧ regB t.m rPwrCmd 0 = false)) := by
  intro x m1 w hscope
  have hwrite : powerCmd scope f v.toNat th s.clk s.m = powerWrite scope f v.toNat th s.clk s.m := by
    rw [powerCmd, if_neg (by simp [hrec]), gatedBoth_of_writable _ _ hw]
  rw [hi]
  refine ⟨fun r herr => ?_, fun herr => ?_⟩
  · rw [onBoth, hwrite, powerWrite_refused hgo hscope hidle herr]
  · obtain ⟨hreason, hstate, hlimit, hbudget, hwalks, hstands⟩ := settleWalk_walkBegun w m1
    have hpwr : m1.pwr = s.m.pwr := pwr_storeFields ..
    have hat : walkAt m1 w = walkAt s.m w := by simp only [walkAt, hpwr]
    refine ⟨{ s with m := settleWalk w (walkBegun w m1) }, ?_, rfl, hreason, hstate.trans (by rw [hpwr]), ?_, fun u hu => ?_, ?_, ?_⟩
    · rw [onBoth, hwrite, powerWrite_begins hgo hscope hidle htrip herr]
    · exact hlimit.trans (regF_storeFields_other f v.toNat s.m (by decide) 0 13)
    · exact (hbudget u hu).trans (regF_storeFields_other f v.toNat s.m (by simp only [rPwrBudget, rPwrCmd]; omega) 0 16)
    · exact fun h => hwalks (hat ▸ h)
    · exact fun h => hstands (hat ▸ h)

/-! ## The steps of a walk (R513, R653, R654) -/

/-- The states that a walk commands: of the module, of the compute dies, of the ports. -/
def commandedStates (m : Mod) : MState × Sparse Nat × Sparse Nat := (m.pwr.state, m.pwr.dieCmd, m.pwr.portCmd)

/-- What a change of state brings with it leaves the commanded states as the change set them. -/
theorem commandedStates_powerEffects (t : Clk) (before after : Mod) :
    commandedStates (powerEffects t before after) = commandedStates after := by
  have hports (l : List Nat) (m : Mod) : commandedStates (l.foldl (fun m p => portDown t p 0 m) m) = commandedStates m :=
    OutsideAccess.foldl (fun u p => portDown_outside t p 0 u commandedStates fun _ _ _ _ _ => rfl) l m
  have hfw (l : List (Nat × Nat)) (m : Mod) :
      commandedStates (l.foldl (fun m u => modFw m u.1 (runStaged u.1 u.2)) m) = commandedStates m :=
    OutsideAccess.foldl (fun u x => (rfl : commandedStates (modFw u x.1 (runStaged x.1 x.2)) = commandedStates u)) l m
  have hdies (l : List Nat) (m : Mod) : commandedStates (l.foldl dieLost m) = commandedStates m :=
    OutsideAccess.foldl (fun u n => (rfl : commandedStates (dieLost u n) = commandedStates u)) l m
  have hstacks (l : List Nat) (m : Mod) : commandedStates (l.foldl stackLost m) = commandedStates m :=
    OutsideAccess.foldl (fun u n => (rfl : commandedStates (stackLost u n) = commandedStates u)) l m
  have hmodule (c3 c4 c5 : Prop) [Decidable c3] [Decidable c4] [Decidable c5] (m : Mod) :
      commandedStates (if c3 then enterMs3 m else if c4 then enterMs4 m else if c5 then leaveMs4 m else m) = commandedStates m := by
    split_ifs
    · rfl
    · rfl
    · exact OutsideAccess.foldl (fun u k => (rfl : commandedStates (modFw u k bootDies) = commandedStates u)) [1, 2, 3, 4, 5] m
    · rfl
  simp only [powerEffects]
  rw [hfw, hmodule, hports, hstacks, hdies]

theorem walkAt_congr {m u : Mod} (h : commandedStates u = commandedStates m) (w : Walk) : walkAt u w = walkAt m w := by
  simp only [commandedStates, Prod.mk.injEq] at h
  obtain ⟨hstate, hdies, hports⟩ := h
  simp only [walkAt, hstate, hdies, hports]

/-- The module after one step of a walk, the floor of an entered module state measured (R526). -/
def walkedOn (w : Walk) (watts : Nat) (c : Clk) (m : Mod) : Mod :=
  let m1 := powerEffects c m (targetMod (stepOf m w) m)
  if w.scope = 0 then modPwr m1 fun p => { p with floors := let s := msNum p.state; sset (Config.floorWatts s) p.floors s watts } else m1

theorem commandedStates_walkedOn (w : Walk) (watts : Nat) (c : Clk) (m : Mod) :
    commandedStates (walkedOn w watts c m) = commandedStates (targetMod (stepOf m w) m) := by
  rw [walkedOn]
  refine Eq.trans ?_ (commandedStates_powerEffects c m _)
  split_ifs <;> rfl

theorem walkStep_moves {m : Mod} {w : Walk} (hwalk : m.pwr.walk = some w) (watts : Nat) (c : Clk) :
    walkStep none watts c m = (clkEffects m (targetMod (stepOf m w) m) c, settleWalk w (walkedOn w watts c m)) := by
  simp only [walkStep, hwalk, walkedOn]

theorem walkStep_fails {m : Mod} {w : Walk} (hwalk : m.pwr.walk = some w) (hfails : stepFails m w = true) {r : Byte}
    (hok : reasonOk r = true) (unit : Fin 32) (watts : Nat) (c : Clk) :
    walkStep (some (unit, r)) watts c m = (c, walkFailed c unit.val r m) := by
  simp only [walkStep, hwalk, hfails, hok, if_true]

theorem commandedStates_settleWalk (w : Walk) (m : Mod) : commandedStates (settleWalk w m) = commandedStates m := by
  rw [settleWalk]
  split_ifs
  · simp only [commandedStates, (endWalk_spec m).1]
  · rfl

/-- A walk that has come to its target has ended. -/
theorem settleWalk_ends {w : Walk} {m : Mod} (h : walkAt m w = w.target) :
    (settleWalk w m).pwr.walk = none ∧ regB (settleWalk w m) rPwrCmd 0 = false := by
  rw [settleWalk, if_pos h]
  obtain ⟨hpwr, hgo⟩ := endWalk_spec m
  exact ⟨by rw [hpwr], hgo⟩

theorem msNum_msOf {n : Nat} (h : n ≤ 4) : msNum (msOf n) = n := by
  match n, h with
  | 0, _ | 1, _ | 2, _ | 3, _ | 4, _ => rfl

/-- The step of a walk commands its state, of the module, a die or a port. -/
theorem targetMod_stepOf (m : Mod) (w : Walk) :
    let u := targetMod (stepOf m w) m
    (w.scope = 0 → u.pwr.state = msOf (stepOf m w).target) ∧ (w.scope = 1 → sget 0 u.pwr.dieCmd w.unit = (stepOf m w).target)
      ∧ (w.scope = 2 → sget 0 u.pwr.portCmd w.unit = w.target) := by
  obtain ⟨scope, unit, target⟩ := w
  refine ⟨?_, ?_, ?_⟩ <;> rintro rfl
  · rfl
  · exact sget_sset_same ..
  · exact sget_sset_same ..

/-- A step that commands the target stands there, in each scope that has states. -/
theorem walkAt_targetMod_stepOf {m : Mod} {w : Walk} (hat : walkAt m w ≠ w.target) (hstep : (stepOf m w).target = w.target)
    (htarget : w.target ≤ 4) : walkAt (targetMod (stepOf m w) m) w = w.target := by
  obtain ⟨hstate, hdie, hport⟩ := targetMod_stepOf m w
  obtain ⟨scope, unit, target⟩ := w
  match scope with
  | 0 => exact (congrArg msNum ((hstate rfl).trans (congrArg msOf hstep))).trans (msNum_msOf htarget)
  | 1 => exact (hdie rfl).trans hstep
  | 2 => exact hport rfl
  | _ + 3 => exact absurd rfl hat

end Sys2Proof.Machine

namespace Sys2Proof
open Machine

/-- Settles O41: `powerCmd_row` for the commands, `walkStep_moves` for a step, `walkStep_fails` for one that fails. -/
theorem powerWalks : Obligations.PowerWalks := by
  unfold Obligations.PowerWalks
  refine ⟨?command, ?step, ?fails⟩
  case command =>
    intro row hrow f v th s hw hrec hgo hidle htrip
    simp only [List.mem_cons, List.not_mem_nil, or_false] at hrow
    obtain rfl | rfl | rfl | rfl := hrow <;> exact powerCmd_row rfl hw hrec hgo hidle htrip
  case step =>
    intro watts w s hwalk hat at_ c
    have hstates := (commandedStates_settleWalk w _).trans (commandedStates_walkedOn w watts s.clk s.m)
    obtain ⟨hmodule, hdie, hport⟩ := targetMod_stepOf s.m w
    have hparts := hstates
    simp only [commandedStates, Prod.mk.injEq] at hparts
    obtain ⟨hstate, hdies, hports⟩ := hparts
    refine ⟨settleWalk w (walkedOn w watts s.clk s.m), ?_, ?_, ?_, ?_, ?_⟩
    · change onLink (walkStep none watts) s = _
      simp only [onLink, onBoth, walkStep_moves hwalk, c]
    · exact fun h => hstate.trans (hmodule h)
    · exact fun h => by rw [hdies]; exact hdie h
    · exact fun h => by rw [hports]; exact hport h
    · intro _ hends htarget
      exact settleWalk_ends ((walkAt_congr (commandedStates_walkedOn ..) w).trans (walkAt_targetMod_stepOf hat hends htarget))
  case fails =>
    intro unit r watts w s hwalk hfails hok
    refine ⟨walkFailed s.clk unit.val r s.m, ?_, rfl, rfl, rfl⟩
    change onLink (walkStep (some (unit, r)) watts) s = _
    simp only [onLink, onBoth, walkStep_fails hwalk hfails hok]

end Sys2Proof
end

/-! # Module resets and the reset of a VF (R600, R602, R607) -/

section
namespace Sys2Proof.Machine

/-! ## Module resets -/

/-- What a reset needs to know of the module it starts from: the Almanac, the fuses, the memory, the log of HN, and what stands on
the input and at PERST#. -/
structure ResetFrom (i : Instr) (m m' : Mod) : Prop where
  almanac : m'.pwr.almanac = m.pwr.almanac
  fw : m'.hub.fw = m.hub.fw
  mem : m'.mem = m.mem
  logs : m'.logs = if i = .powerOn ∨ i = .inputPowerLoss then [] else m.logs
  input : m'.hub.input = if i = .powerOn then true else if i = .inputPowerLoss then false else m.hub.input
  perst : m'.hub.perst = if i = .perstAssert then true else m.hub.perst

/-- Each trigger is a module reset of a module that has kept what a reset keeps. -/
theorem exec_resets {i : Instr} {s : State}
    (h : (i = .pcieHotReset ∨ i = .pf0Flr) ∨ (i = .perstAssert ∧ s.m.hub.perst = false)
      ∨ (∃ f : Func, i = .moduleResetWrite f ∧ writable s.m f 0x20 = true)
      ∨ (i = .powerOn ∧ s.m.hub.input = false) ∨ (i = .inputPowerLoss ∧ s.m.hub.input = true)) :
    ∃ m', exec i s = .next { s with clk := (moduleReset s.clk m').1, m := (moduleReset s.clk m').2 } ∧ ResetFrom i s.m m' := by
  obtain (rfl | rfl) | ⟨rfl, hperst⟩ | ⟨f, rfl, hw⟩ | ⟨rfl, hin⟩ | ⟨rfl, hin⟩ := h
  · exact ⟨s.m, rfl, rfl, rfl, rfl, rfl, rfl, rfl⟩
  · exact ⟨s.m, rfl, rfl, rfl, rfl, rfl, rfl, rfl⟩
  · have hlow : exec .perstAssert s = onBoth perstLow s := rfl
    refine ⟨modHub s.m fun h => { h with perst := true, pcie := none }, ?_, rfl, rfl, rfl, rfl, rfl, rfl⟩
    rw [hlow, onBoth, perstLow, if_neg (by simp [hperst])]
  · have hrow : exec (.moduleResetWrite f) s = onBoth (gatedBoth f.val 0x20 moduleReset) s := rfl
    refine ⟨s.m, ?_, rfl, rfl, rfl, rfl, rfl, rfl⟩
    rw [hrow]
    simp only [onBoth, gatedBoth_of_writable _ _ hw]
  · have hrow : exec .powerOn s = onBoth powerOn s := rfl
    rw [hrow, onBoth, powerOn, if_neg (by simp [hin])]
    exact ⟨_, rfl, rfl, rfl, rfl, rfl, rfl, rfl⟩
  · have hrow : exec .inputPowerLoss s = onBoth powerLoss s := rfl
    rw [hrow, onBoth, powerLoss, if_neg (by simp [hin])]
    exact ⟨_, rfl, rfl, rfl, rfl, rfl, rfl, rfl⟩

/-- A reset keeps the fused versions. -/
theorem fused_moduleReset (c : Clk) (m : Mod) (k : Nat) : (fwKind (moduleReset c m).2 k).fused = (fwKind m k).fused :=
  Still.sget_map_keep FwKind.fused {} (resetKind m) (fun _ _ => rfl) m.hub.fw k

theorem bootAt_moduleReset (c : Clk) (m : Mod) : (moduleReset c m).2.hub.bootAt ≤ c.now + 640000000 :=
  Nat.add_le_add_left (Nat.le_of_lt_succ (Nat.mod_lt _ (by decide))) _

/-- PERST# rises: the link trains to what both ends have. -/
theorem pcie_perstHigh {m : Mod} (h : m.hub.perst = true) (gen : Fin 8) (width : Nat) : perstHigh gen.val width m
    = modHub m fun h => { h with perst := false, pcie := if gen.val = 0 ∨ width = 0 then none else some (gen.val, linkWidth width) } := by
  have hgen : min 7 gen.val = gen.val := by omega
  rw [perstHigh, if_neg (by simp [h]), hgen]

/-! ## What the end of a VF's commands leaves -/

/-- Registers and memory are as they were. -/
def RegsMemKept (m u : Mod) : Prop := u.bar0 = m.bar0 ∧ u.mem = m.mem

namespace RegsMemKept

theorem refl (m : Mod) : RegsMemKept m m := ⟨rfl, rfl⟩

theorem trans {a b c : Mod} (h : RegsMemKept a b) (k : RegsMemKept b c) : RegsMemKept a c := ⟨k.1.trans h.1, k.2.trans h.2⟩

theorem of_undisturbed {m u : Mod} (h : Undisturbed m u) : RegsMemKept m u :=
  ⟨congrArg (·.bar0) h.1, congrArg (·.mem) h.1⟩

theorem foldl {α : Type} (f : Mod → α → Mod) (h : ∀ m x, RegsMemKept m (f m x)) (l : List α) (m : Mod) :
    RegsMemKept m (l.foldl f m) :=
  List.foldlRecOn (motive := RegsMemKept m) _ _ (refl m) fun u hu x _ => hu.trans (h u x)

/-- The tasks of a program that are still in issue end it. -/
theorem endTasks (ids : List Nat) (m : Mod) : RegsMemKept m (ids.foldl (fun m tk =>
      let x := ctx m (tk / 4) (tk % 4)
      if x.st = .finished ∨ x.st = .faulted ∨ x.st = .empty then m
      else Machine.dropCollects (Machine.resetQueues (Machine.stopTask m tk .faulted none) tk) tk) m) := by
  refine foldl _ (fun m tk => of_undisturbed ?_) _ m
  simp only
  split_ifs
  · exact Still.refl m
  · exact Still.trans (Still.trans (Still.stopTask ..) (Still.resetQueues ..)) (Still.dropCollects ..)

theorem abortEffect (c : Cmd) (m : Mod) : RegsMemKept m (abortEffect c m) := by
  unfold Machine.abortEffect
  simp only
  split
  · split
    · exact endTasks ..
    · exact refl m
  · exact of_undisturbed (Still.stopChain ..)
  · exact of_undisturbed (Still.discardRuns ..)
  · exact refl m

theorem gatherClose (t : Clk) (m : Mod) (d : Nat) (part : Option Nat) (g : Gather) (ok : Bool) :
    RegsMemKept m (gatherClose t m d part g ok) := by
  unfold Machine.gatherClose
  split
  · exact refl m
  · simp only
    split
    · exact refl m
    · exact of_undisturbed (undisturbed_regionRefused ..)

theorem endQuietly (m : Mod) (c : Cmd) : RegsMemKept m (endQuietly m c) := by
  unfold Machine.endQuietly
  extract_lets m1 m2
  have hstate : RegsMemKept m m1 := by
    simp only [m1]
    split
    · exact of_undisturbed (Still.returnResv ..)
    · exact abortEffect c m
    · exact refl m
  have hxch : RegsMemKept m m2 := by
    simp only [m2]
    split_ifs
    · exact hstate
    · exact hstate
  split_ifs
  · exact hxch.trans (gatherClose ..)
  · exact hxch

theorem stopTasks (k : Nat) (m : Mod) : RegsMemKept m (stopTasks k m) := by
  unfold Machine.stopTasks
  split
  · exact refl m
  · exact endTasks ..

end RegsMemKept

/-! ## The rings of a function close -/

/-- No ring changes its function, and none opens. -/
def NoneOpens (m u : Mod) : Prop :=
  (∀ off, regF u off 2 4 = regF m off 2 4) ∧ (∀ off, regB u off 0 = true → regB m off 0 = true) ∧ u.mem = m.mem
    ∧ u.cmds = m.cmds

theorem NoneOpens.refl (m : Mod) : NoneOpens m m := ⟨fun _ => rfl, fun _ => id, rfl, rfl⟩

theorem NoneOpens.trans {a b c : Mod} (h : NoneOpens a b) (k : NoneOpens b c) : NoneOpens a c :=
  ⟨fun off => (k.1 off).trans (h.1 off), fun off => h.2.1 off ∘ k.2.1 off, k.2.2.1.trans h.2.2.1, k.2.2.2.trans h.2.2.2⟩

/-- A cleared enable bit: the register without its lowest bit. -/
theorem regN_clearEnable (m : Mod) (off : Nat) : regN (setBit m off 0 false) off = regN m off / 2 * 2 := by
  have hlt : regN m off < 2 ^ 64 := (reg m off).isLt
  rw [setBit, regN, reg_setReg_same, BitVec.toNat_ofNat]
  simp only [bit, Nat.pow_zero, Nat.div_one, decide_eq_true_eq, Bool.false_eq_true, if_false]
  split_ifs <;> omega

theorem NoneOpens.clearEnable (m : Mod) (off : Nat) : NoneOpens m (setBit m off 0 false) := by
  refine ⟨fun o => ?_, fun o ho => ?_, rfl, rfl⟩
  · by_cases heq : o = off
    · subst heq
      simp only [regF, regN_clearEnable, bits]
      omega
    · rw [regF, regF, regN, setBit, reg_setReg_other m _ heq, regN]
  · by_cases heq : o = off
    · subst heq
      rw [regB_setBit_same m _ (by decide)] at ho
      exact absurd ho (by decide)
    · rwa [regB, regN, setBit, reg_setReg_other m _ heq] at ho

/-- The rings numbered n of a function close. -/
def closeRing (f : Nat) (m : Mod) (n : Nat) : Mod :=
  let m1 := if sqOwner m n = f ∧ sqEn m n then setBit m (rSq n + 0x10) 0 false else m
  if cqOwner m1 n = f ∧ cqEn m1 n then setBit m1 (rCq n + 0x10) 0 false else m1

theorem closeRings_eq (f : Nat) (m : Mod) : closeRings f m = (List.range 1024).foldl (closeRing f) m := rfl

/-- A bit of a register cleared where a condition asks it. -/
theorem NoneOpens.clearIf (m : Mod) (off : Nat) (p : Prop) [Decidable p] : NoneOpens m (if p then setBit m off 0 false else m) := by
  split_ifs
  · exact .clearEnable m off
  · exact .refl m

theorem NoneOpens.closeRing (f : Nat) (m : Mod) (n : Nat) : NoneOpens m (closeRing f m n) :=
  (NoneOpens.clearIf m (rSq n + 0x10) _).trans (.clearIf _ (rCq n + 0x10) _)

theorem NoneOpens.closing (f : Nat) (l : List Nat) (m : Mod) : NoneOpens m (l.foldl (Machine.closeRing f) m) :=
  List.foldlRecOn (motive := NoneOpens m) _ _ (.refl m) fun _ hu n _ => hu.trans (.closeRing f _ n)

theorem sqEn_closeRing {f : Nat} {m : Mod} {n : Nat} (h : sqOwner m n = f) : sqEn (closeRing f m n) n = false := by
  have hopens := (NoneOpens.clearIf (if sqOwner m n = f ∧ sqEn m n then setBit m (rSq n + 0x10) 0 false else m) (rCq n + 0x10)
    (cqOwner (if sqOwner m n = f ∧ sqEn m n then setBit m (rSq n + 0x10) 0 false else m) n = f
      ∧ cqEn (if sqOwner m n = f ∧ sqEn m n then setBit m (rSq n + 0x10) 0 false else m) n)).2.1 (rSq n + 0x10)
  have hclear : sqEn (if sqOwner m n = f ∧ sqEn m n then setBit m (rSq n + 0x10) 0 false else m) n = false := by
    split_ifs with hen
    · exact sqEn_setBit m n false
    · exact Bool.eq_false_iff.2 fun he => hen ⟨h, he⟩
  exact Bool.eq_false_iff.2 fun he => absurd (hopens he) (Bool.eq_false_iff.1 hclear)

theorem cqEn_closeRing {f : Nat} {m : Mod} {n : Nat} (h : cqOwner m n = f) : cqEn (closeRing f m n) n = false := by
  have howner : cqOwner (if sqOwner m n = f ∧ sqEn m n then setBit m (rSq n + 0x10) 0 false else m) n = f :=
    ((NoneOpens.clearIf m (rSq n + 0x10) _).1 (rCq n + 0x10)).trans h
  simp only [closeRing]
  split_ifs with hen hcq hcq
  · exact cqEn_setBit _ n false
  · exact Bool.eq_false_iff.2 fun he => hcq ⟨(if_pos hen ▸ howner :), he⟩
  · exact cqEn_setBit _ n false
  · exact Bool.eq_false_iff.2 fun he => hcq ⟨(if_neg hen ▸ howner :), he⟩

/-- What the step of a ring's number establishes stands once all are done: owners stay and no ring opens again. -/
theorem closed_of_mem {off : Nat → Nat} {f : Nat} {l : List Nat} {m : Mod} {n : Nat} (hn : n ∈ l)
    (hstep : ∀ u, regF u (off n) 2 4 = f → regB (closeRing f u n) (off n) 0 = false) (howner : regF m (off n) 2 4 = f) :
    regB (l.foldl (closeRing f) m) (off n) 0 = false := by
  obtain ⟨l₁, l₂, rfl⟩ := List.append_of_mem hn
  rw [List.foldl_append, List.foldl_cons]
  have hclosed := hstep _ (((NoneOpens.closing f l₁ m).1 (off n)).trans howner)
  exact Bool.eq_false_iff.2 fun he => absurd ((NoneOpens.closing f l₂ _).2.1 _ he) (Bool.eq_false_iff.1 hclosed)

theorem sqEn_closeRings {f : Nat} {m : Mod} (n : RingId) (h : sqOwner m n = f) : sqEn (closeRings f m) n = false :=
  closed_of_mem (off := fun n => rSq n + 0x10) (List.mem_range.2 n.isLt) (fun _ => sqEn_closeRing) h

theorem cqEn_closeRings {f : Nat} {m : Mod} (n : RingId) (h : cqOwner m n = f) : cqEn (closeRings f m) n = false :=
  closed_of_mem (off := fun n => rCq n + 0x10) (List.mem_range.2 n.isLt) (fun _ => cqEn_closeRing) h

theorem mem_closeRings (f : Nat) (m : Mod) : (closeRings f m).mem = m.mem := (NoneOpens.closing f _ m).2.2.1

theorem cmds_closeRings (f : Nat) (m : Mod) : (closeRings f m).cmds = m.cmds := (NoneOpens.closing f _ m).2.2.2

/-- The work of a VF is over; its rings are still enabled. -/
def vfStopped (k : Nat) (m : Mod) : Mod :=
  let mine := fun (n : Nat) => sqOwner m n == k + 1
  let m1 := dropBreaks mine (stopTasks k ((m.cmds.filter fun c => mine c.sq).foldl endQuietly m))
  { m1 with
    cmds := m1.cmds.filter fun c => !mine c.sq
    rings := (m1.rings.map fun r => (r.1, if mine r.1 then { r.2 with waiting := [] } else r.2)).filter fun r => r.2 != {} }

theorem vfReset_eq (k : Nat) (m : Mod) : vfReset k m = modHub (closeRings (k + 1) (vfStopped k m)) fun h => { h with
    masked := h.masked.filter fun x => x.1 / 2048 != k + 1
    msixPend := h.msixPend.filter fun x => x.1 / 2048 != k + 1 } := rfl

theorem regsMemKept_vfStopped (k : Nat) (m : Mod) : RegsMemKept m (vfStopped k m) := by
  have hcmds := RegsMemKept.foldl _ RegsMemKept.endQuietly (m.cmds.filter fun c => sqOwner m c.sq == k + 1) m
  have htasks := hcmds.trans (.stopTasks k _)
  exact ⟨htasks.1, htasks.2⟩

theorem cmds_vfStopped {k : Nat} {m : Mod} {c : Cmd} (h : c ∈ (vfStopped k m).cmds) : sqOwner m c.sq ≠ k + 1 := by
  simpa using (List.mem_filter.1 h).2

theorem sqEn_modHub (m : Mod) (f : Hub → Hub) (n : Nat) : sqEn (modHub m f) n = sqEn m n := rfl
theorem cqEn_modHub (m : Mod) (f : Hub → Hub) (n : Nat) : cqEn (modHub m f) n = cqEn m n := rfl
theorem hub_modHub (m : Mod) (f : Hub → Hub) : (modHub m f).hub = f m.hub := rfl

theorem exec_vfReset (k : Part) (s : State) : exec (.vfReset k) s = onAll (fun _ m => vfReset k.val m) s := rfl

theorem sqOwner_of_bar0 {m u : Mod} (h : u.bar0 = m.bar0) (n : Nat) : sqOwner u n = sqOwner m n := by
  simp only [sqOwner, regF, regN, reg, h]

theorem cqOwner_of_bar0 {m u : Mod} (h : u.bar0 = m.bar0) (n : Nat) : cqOwner u n = cqOwner m n := by
  simp only [cqOwner, regF, regN, reg, h]

end Sys2Proof.Machine

namespace Sys2Proof
open Machine

/-- Settles O42: every trigger is one reset of the module; the work of a VF moves no register and no memory, then its rings close. -/
theorem moduleResets : Obligations.ModuleResets := by
  unfold Obligations.ModuleResets
  refine ⟨⟨fun i s h => ?reset, fun gen width s h => ?perst⟩, fun k s => exec_vfReset k s ▸ settlesAll_onAll ?vf⟩
  case reset =>
    obtain ⟨m', hrow, hfrom⟩ := exec_resets h
    refine ⟨_, hrow, rfl, rfl, rfl, rfl, rfl, rfl, rfl, rfl, rfl, rfl, rfl, rfl, rfl, rfl, rfl, rfl, rfl, hfrom.almanac,
      fun j => ?fused, fun a => ?mem, ?log, hfrom.input, hfrom.perst, rfl, bootAt_moduleReset s.clk m'⟩
    case fused => exact (fused_moduleReset s.clk m' j).trans (by rw [fwKind, hfrom.fw, fwKind])
    case mem => rw [← hfrom.mem]; exact peek_hostCells m' a _ rfl
    case log =>
      refine (flog_filter_logHN m' _ rfl).trans ?_
      rw [flog, hfrom.logs]
      split_ifs <;> rfl
  case perst =>
    have hrow : exec (.perstDeassert gen width) s = .next { s with m := perstHigh gen.val width.val s.m } := rfl
    refine ⟨_, hrow, ?_⟩
    rw [pcie_perstHigh h]
    refine ⟨rfl, rfl, ?_⟩
    change Option.any (fun x => decide (6 ≤ x.1)) (if gen.val = 0 ∨ width.val = 0 then none else some (gen.val, linkWidth width.val)) = _
    by_cases hgen : gen.val = 0 <;> by_cases hwidth : width.val = 0 <;> simp [hgen, hwidth]
  case vf =>
    have hkept := regsMemKept_vfStopped k.val s.m
    rw [vfReset_eq]
    refine ⟨fun c hc => ?cmds, fun n h => ?sq, fun n h => ?cq, fun x hx => ?pend, fun a => ?mem⟩
    case cmds =>
      rw [modHub_cmds, cmds_closeRings] at hc
      exact cmds_vfStopped hc
    case sq =>
      rw [sqEn_modHub]
      exact sqEn_closeRings n ((sqOwner_of_bar0 hkept.1 n).trans h)
    case cq =>
      rw [cqEn_modHub]
      exact cqEn_closeRings n ((cqOwner_of_bar0 hkept.1 n).trans h)
    case pend =>
      simp only [hub_modHub, List.mem_filter] at hx
      simpa using hx.2
    case mem => rw [modHub_mem, mem_closeRings, hkept.2]

end Sys2Proof
end

/-! # Fault logs, the trace ring and event counters (R572, R580, R586, R587, R591, R634) -/

section
namespace Sys2Proof.Machine

/-! ## FLT_CLEAR and ECC_STORM -/

theorem exec_fltClear {f : Func} {log : Fin 288} {s : State} (v : W64) (hw : writable s.m f (0x600050 + 0x80 * log.val) = true) :
    exec (.fltClear f log v) s = .next { s with m := fltClear log.val v.toNat s.m } := by
  change onMod (fun _ m => gated f.val (0x600050 + 0x80 * log.val) (fltClear log.val v.toNat) m) s = _
  rw [onMod, gated_of_writable _ hw]

theorem flog_fltClear (log v : Nat) (m : Mod) (j : Nat) :
    flog (fltClear log v m) j = if j = log then clearLog v (flog m log) else flog m j := sget_smod ..

theorem clearLog_entries {v : Nat} (h : bit v 0 = true) (l : FLog) :
    (clearLog v l).first = {} ∧ (clearLog v l).last = {} ∧ (clearLog v l).count = 0 := by
  simp only [clearLog, h, if_true]
  split_ifs <;> exact ⟨rfl, rfl, rfl⟩

theorem clearLog_keeps {v : Nat} (h : bit v 0 = false) (l : FLog) :
    (clearLog v l).first = l.first ∧ (clearLog v l).last = l.last ∧ (clearLog v l).count = l.count := by
  simp only [clearLog, h, Bool.false_eq_true, if_false]
  split_ifs <;> exact ⟨rfl, rfl, rfl⟩

theorem corr_clearLog (v : Nat) (l : FLog) : (clearLog v l).corr = if bit v 1 then 0 else l.corr := by
  simp only [clearLog]
  split_ifs <;> rfl

/-- The log judged for the second that ends. -/
def stormJudged (log now : Nat) (m : Mod) : Mod := { m with logs := smod {} m.logs log fun x => { x with corrMark := x.corr, stormAt := now } }

/-- The entry of a storm. -/
def stormEntry (log risen : Nat) : FEntry :=
  { kind := (logUnit log).1, index := (logUnit log).2, typ := fEccStorm, info := BitVec.ofNat 64 risen }

theorem eccStorm_early {log : Nat} {t : Clk} {m : Mod} (h : secondEnds t (flog m log) = false) : eccStorm log t m = m :=
  if_pos (by simp [h])

section
variable {log : Nat} {t : Clk} {m : Mod} (h : secondEnds t (flog m log) = true)
include h

theorem eccStorm_calm (hle : (flog m log).corr - (flog m log).corrMark ≤ regF m (rFltLimit log) 0 32) :
    eccStorm log t m = stormJudged log t.now m := by
  rw [eccStorm, if_neg (by simp [h]), if_pos hle]
  rfl

theorem eccStorm_storm (hlt : regF m (rFltLimit log) 0 32 < (flog m log).corr - (flog m log).corrMark) :
    eccStorm log t m = if log < 256
      then logEngine t log (stormEntry log ((flog m log).corr - (flog m log).corrMark)) (stormJudged log t.now m)
      else logFault t log (stormEntry log ((flog m log).corr - (flog m log).corrMark)) (stormJudged log t.now m) := by
  rw [eccStorm, if_neg (by simp [h]), if_neg (by omega)]
  rfl

end

theorem flog_stormJudged (log now : Nat) (m : Mod) :
    flog (stormJudged log now m) log = { flog m log with corrMark := (flog m log).corr, stormAt := now } := by
  simp [flog, stormJudged]

/-- An entry in the log of an engine stands there as in any other, of that engine. -/
theorem flog_logEngine (t : Clk) (g : Nat) (e : FEntry) (m : Mod) :
    flog (logEngine t g e m) g = logApply (flog m g) { e with kind := 1, index := BitVec.ofNat 8 g, time := t.sid } := by
  rw [logEngine, flog, logs_trace]
  exact flog_logFault ..

theorem mem_logEngine (t : Clk) (g : Nat) (e : FEntry) (m : Mod) : (logEngine t g e m).mem = m.mem :=
  (trace_outside (·.mem) (fun _ _ _ => rfl) ..).trans rfl

/-! ## The trace ring -/

theorem traceOn_setBit (m : Mod) (k : Nat) (b : Bool) : traceOn (setBit m (rPart k + 0x488) 31 b) k = b :=
  regB_setBit_same m _ (by decide) b

theorem partSt_setBit (m : Mod) (off i : Nat) (b : Bool) (k : Nat) : partSt (setBit m off i b) k = partSt m k := rfl

theorem traceOn_modPart (m : Mod) (j k : Nat) (f : PartSt → PartSt) : traceOn (modPart m j f) k = traceOn m k := rfl

theorem traceOn_traceWrite (f k : Nat) {v : Nat} (h : bit v 31 = true) (m : Mod) : traceOn (traceWrite f k v m) k = true := by
  simp only [traceWrite]
  split_ifs
  · rw [traceOn_modPart, traceOn_setBit, h]
  · rw [traceOn_setBit, h]

theorem traceHead_traceWrite (f k : Nat) {v : Nat} (h : bit v 31 = true) (m : Mod) :
    (partSt (traceWrite f k v m) k).traceHead = if traceOn m k then (partSt m k).traceHead else 0 := by
  have hpart : partSt (setBit (storeReg f (rPart k + 0x488) v m) (rPart k + 0x488) 31 (bit v 31)) k = partSt m k := by
    rw [partSt_setBit, storeReg, partSt_storeFields]
  simp only [traceWrite]
  by_cases hon : traceOn m k = true
  · rw [if_neg (by simp [hon]), if_pos hon, hpart]
  · rw [if_pos ⟨h, hon⟩, if_neg hon]
    simp

/-- A die whose partition's ring takes no record is not the one whose turn it is. -/
theorem traceDie_ne {m : Mod} {d k : Nat} (howner : dieOwner m d = some k) (h : traceOn m k = false ∨ traceFull m k = true) :
    traceDie m ≠ some d := by
  intro hdie
  have hready := List.find?_some hdie
  simp only [traceReady, howner, Bool.and_eq_true, Bool.not_eq_true'] at hready
  obtain h | h := h
  · exact absurd hready.2.1 (by simp [h])
  · exact absurd hready.2.2 (by simp [h])

/-- The record of the die whose turn it is reaches the ring. -/
theorem traceMove_moves {d k g : Nat} {r : BitVec 128} {rest : List (BitVec 128)} {t : Clk} {m : Mod} (hdie : traceDie m = some d)
    (howner : dieOwner m d = some k) (hnext : traceNext m d = some g) (hrec : (engine m g).trace = r :: rest)
    (hecc : Config.traceEcc m.draw = .clean) :
    traceMove d t m = traceWriteOut g k r rest { traceTurn g m with draw := m.draw + 1 } := by
  have hdraw : drawId (traceTurn g m) = (m.draw, { traceTurn g m with draw := m.draw + 1 }) := rfl
  rw [traceMove, if_neg (by simp [hdie])]
  simp only [howner, hnext, hrec, hdraw, hecc]

theorem engine_traceWriteOut (g k : Nat) (r : BitVec 128) (rest : List (BitVec 128)) (m : Mod) (h : Nat) :
    engine (traceWriteOut g k r rest m) h = if h = g then { engine m g with trace := rest } else engine m h := by
  have hhost : ∀ a bs j, engine (hostWrite m a bs) j = engine m j := fun _ _ _ => rfl
  have hpart : ∀ u f j, engine (modPart u k f) j = engine u j := fun _ _ _ => rfl
  rw [traceWriteOut, hpart, engine_modEngine, hhost, hhost]

theorem traceHead_traceWriteOut (g k : Nat) (r : BitVec 128) (rest : List (BitVec 128)) (m : Mod) :
    (partSt (traceWriteOut g k r rest m) k).traceHead = ((partSt m k).traceHead + 16) % traceSize m k := by
  rw [traceWriteOut, partSt_modPart, if_pos rfl]
  rfl

theorem hostRead_traceWriteOut (g k : Nat) (r : BitVec 128) (rest : List (BitVec 128)) (m : Mod) :
    hostRead (traceWriteOut g k r rest m) (regF m (rPart k + 0x480) 12 52 * 4096 + (partSt m k).traceHead) 16 = toLe 16 r.toNat := by
  have h := peeks_pokes m.mem (hostBase + (regF m (rPart k + 0x480) 12 52 * 4096 + (partSt m k).traceHead)) (toLe 16 r.toNat)
  rwa [length_toLe] at h

/-! ## Counters -/

theorem engine_snapEngine_other (t : Clk) (m : Mod) {g h : Nat} (hne : h ≠ g) : engine (snapEngine t m g) h = engine m h := by
  rw [snapEngine, engine_modEngine, if_neg hne]

theorem ecnt_snapEngine (t : Clk) (m : Mod) (g h : Nat) : (engine (snapEngine t m g) h).ecnt = (engine m h).ecnt := by
  rw [snapEngine, engine_modEngine]
  split_ifs with heq
  · rw [heq]
  · rfl

/-- A snapshot does not change what the counters read. -/
theorem counterSample_snapEngine (t : Clk) (m : Mod) (g h c : Nat) :
    counterSample t (snapEngine t m g) h c = counterSample t m h c := by
  have hcleared : (engine (snapEngine t m g) h).cleared = (engine m h).cleared := by
    rw [snapEngine, engine_modEngine]
    split_ifs with heq
    · rw [heq]
    · rfl
  rw [counterSample, counterSample, hcleared, ecnt_snapEngine]
  rfl

theorem shadow_snapEngine (t : Clk) (m : Mod) (g : Nat) {c : Nat} (hc : c < 32) :
    sget 0 (engine (snapEngine t m g) g).shadow c = counterSample t m g c := by
  rw [snapEngine, engine_modEngine, if_pos rfl]
  exact sget_foldl_sset 0 (counterSample t m g) (List.mem_range.2 hc) _

/-- The engines d·16 + i of a list are snapped. -/
def snapEngines (d : Nat) (t : Clk) (l : List Nat) (m : Mod) : Mod := l.foldl (fun m i => snapEngine t m (16 * d + i)) m

theorem engine_snapEngines_other (d : Nat) (t : Clk) {l : List Nat} {g : Nat} (h : ∀ i ∈ l, g ≠ 16 * d + i) (m : Mod) :
    engine (snapEngines d t l m) g = engine m g :=
  List.foldlRecOn (motive := fun u => engine u g = engine m g) _ _ rfl fun _ hu i hi =>
    (engine_snapEngine_other t _ (h i hi)).trans hu

theorem ecnt_snapEngines (d : Nat) (t : Clk) (l : List Nat) (m : Mod) (g : Nat) :
    (engine (snapEngines d t l m) g).ecnt = (engine m g).ecnt :=
  List.foldlRecOn (motive := fun u => (engine u g).ecnt = (engine m g).ecnt) _ _ rfl fun _ hu _ _ =>
    (ecnt_snapEngine ..).trans hu

theorem mem_snapEngines (d : Nat) (t : Clk) (l : List Nat) (m : Mod) : (snapEngines d t l m).mem = m.mem :=
  List.foldlRecOn (motive := fun u : Mod => u.mem = m.mem) _ _ rfl fun _ hu _ _ => hu

theorem shadow_snapEngines (d : Nat) (t : Clk) {l : List Nat} {i : Nat} (hi : i ∈ l) {c : Nat} (hc : c < 32) (m : Mod) :
    sget 0 (engine (snapEngines d t l m) (16 * d + i)).shadow c = counterSample t m (16 * d + i) c := by
  induction l generalizing m with
  | nil => exact absurd hi (by simp)
  | cons j r ih =>
    change sget 0 (engine (snapEngines d t r (snapEngine t m (16 * d + j))) (16 * d + i)).shadow c = _
    by_cases hr : i ∈ r
    · rw [ih hr, counterSample_snapEngine]
    · obtain rfl : i = j := (List.mem_cons.1 hi).resolve_right hr
      have hother : ∀ k ∈ r, 16 * d + i ≠ 16 * d + k := fun k hk heq => hr (by rwa [show i = k by omega])
      rw [engine_snapEngines_other d t hother, shadow_snapEngine t m _ hc]

theorem mem_snapped {v i : Nat} : i ∈ (List.range 16).filter (bit v) ↔ i < 16 ∧ bit v i = true := by simp

theorem exec_ecntSnap {f : Func} {d : Die} {s : State} (v : W64) (hw : writable s.m f (rCd d + 8) = true) :
    exec (.ecntSnap f d v) s = .next { s with m := snapEngines d.val s.clk ((List.range 16).filter (bit v.toNat)) s.m } := by
  change onMod (fun t m => gated f.val (rCd d.val + 8) (ecntSnap d.val v.toNat t) m) s = _
  rw [onMod, gated_of_writable _ hw]
  rfl

/-- An aligned read of a whole register. -/
theorem barRead_register {t : Clk} {m : Mod} {f off : Nat} (hup : hnUp m = true) (hbusy : hnBusy m = false) (hlive : vfLive m f = true)
    (hoff : off % 8 = 0) : barRead t f off 8 m = emit (.regRead f (readReg t m f off)) m := by
  have hserves : barServes off 8 = true := by simp [barServes, hoff]
  have hregister : off / 8 * 8 = off := by omega
  rw [barRead, if_neg (by simp [hup, hbusy]), if_neg (by simp [hlive]), if_neg (by simp [hserves]), if_pos rfl, hregister]
  exact congrArg (fun v => emit (.regRead f v) m) (BitVec.ofNat_toNat 64 _)

theorem counter_aligned (g c : Nat) : (rTraceCtrl g + 0x200 + 8 * c) % 8 = 0 := by
  simp only [rTraceCtrl, rCd]
  omega

theorem engine_selWrite (f g c v : Nat) (m : Mod) (h : Nat) :
    engine (selWrite f g c v m) h = if h = g then { engine m g with ecnt := sset {} (engine m g).ecnt c {} } else engine m h := by
  have hengine : ∀ h, engine (storeReg f (rEcntSel g c) v m) h = engine m h := fun h =>
    storeFields_outside (engine · h) (fun _ _ => rfl) ..
  rw [selWrite, engine_modEngine, hengine, hengine]

theorem mem_selWrite (f g c v : Nat) (m : Mod) : (selWrite f g c v m).mem = m.mem :=
  storeFields_outside (·.mem) (fun _ _ => rfl) ..

end Sys2Proof.Machine

namespace Sys2Proof
open Machine

/-- Settles O60: each clause by the equation of its row. -/
theorem logsAndCounters : Obligations.LogsAndCounters := by
  unfold Obligations.LogsAndCounters
  refine ⟨fun f log v s hw => ?clear, fun log s => ⟨fun h => ?early, fun h => ?storm⟩, fun f k v s hw hv => ?on,
    fun d k g r rest s howner hnext hrec => ⟨fun h => ?stays, fun hdie hecc => ?moves⟩, fun f d v s hw => ?snap,
    fun f e c s hup hbusy hlive => ?read, fun f e c v s hw => ?select⟩
  case clear =>
    refine ⟨_, exec_fltClear v hw, rfl, fun j hj => ?_, rfl, fun hv => ?_, fun hv => ?_, ?_⟩
    · rw [flog_fltClear, if_neg hj]
    · rw [flog_fltClear, if_pos rfl]
      exact clearLog_entries hv _
    · rw [flog_fltClear, if_pos rfl]
      exact clearLog_keeps hv _
    · rw [flog_fltClear, if_pos rfl]
      exact corr_clearLog ..
  case early => exact congrArg (fun m => Host.Outcome.next { s with m := m }) (eccStorm_early h)
  case storm =>
    have hrow : exec (.eccStorm log) s = .next { s with m := eccStorm log.val s.clk s.m } := rfl
    refine ⟨_, hrow, rfl, ?_⟩
    obtain hle | hlt := Nat.lt_or_ge (regF s.m (rFltLimit log) 0 32) ((flog s.m log).corr - (flog s.m log).corrMark) |>.symm
    · simp only [eccStorm_calm h hle, flog_stormJudged]
      exact ⟨rfl, trivial, trivial, fun _ => trivial, fun hlt => absurd hlt (by omega)⟩
    · simp only [eccStorm_storm h hlt]
      split_ifs
      · rw [flog_logEngine, flog_stormJudged]
        exact ⟨mem_logEngine .., rfl, rfl, fun hle => absurd hle (by omega), fun _ => ⟨rfl, rfl, rfl⟩⟩
      · rw [flog_logFault, flog_stormJudged]
        exact ⟨rfl, rfl, rfl, fun hle => absurd hle (by omega), fun _ => ⟨rfl, rfl, rfl⟩⟩
  case on =>
    have hrow : exec (.traceEnable f k v) s = .next { s with m := traceWrite f.val k.val v.toNat s.m } := by
      change onMod (fun _ m => if bit v.toNat 31 then gated f.val (rPart k.val + 0x488) (traceWrite f.val k.val v.toNat) m else m) s = _
      rw [onMod, if_pos hv, gated_of_writable _ hw]
    exact ⟨_, hrow, traceOn_traceWrite f.val k.val hv s.m, traceHead_traceWrite f.val k.val hv s.m⟩
  case stays =>
    have hdie : traceDie s.m ≠ some d.val := by
      obtain h | h | h := h
      · exact traceDie_ne howner (.inl h)
      · exact traceDie_ne howner (.inr h)
      · exact h
    have hsame : traceMove d.val s.clk s.m = s.m := if_pos hdie
    exact congrArg (fun m => Host.Outcome.next { s with m := m }) hsame
  case moves =>
    have hrow : exec (.traceRecordTransfer d) s = .next { s with m := traceMove d.val s.clk s.m } := rfl
    rw [traceMove_moves hdie howner hnext hrec hecc] at hrow
    refine ⟨_, hrow, ?_, traceHead_traceWriteOut .., hostRead_traceWriteOut .., fun h hne => ?_⟩
    · rw [engine_traceWriteOut, if_pos rfl]
    · rw [engine_traceWriteOut, if_neg hne]
      rfl
  case snap =>
    refine ⟨_, exec_ecntSnap v hw, mem_snapEngines .., fun i hi hbit c hc => ⟨?_, ecnt_snapEngines ..⟩, fun g hg => ?_⟩
    · exact shadow_snapEngines d.val s.clk (mem_snapped.2 ⟨hi, hbit⟩) hc s.m
    · exact engine_snapEngines_other d.val s.clk (fun i hi => hg i (mem_snapped.1 hi).1 (mem_snapped.1 hi).2) s.m
  case read =>
    exact congrArg (fun m => Host.Outcome.next { s with m := m }) (barRead_register hup hbusy hlive (counter_aligned e.val c.val))
  case select =>
    have hrow : exec (.ecntSelWrite f e c v) s = .next { s with m := selWrite f.val e.val c.val v.toNat s.m } := by
      change onMod (fun _ m => gated f.val (rEcntSel e.val c.val) (selWrite f.val e.val c.val v.toNat) m) s = _
      rw [onMod, gated_of_writable _ hw]
    refine ⟨_, hrow, fun j => ?_, fun g hg => ?_, mem_selWrite ..⟩
    · rw [engine_selWrite, if_pos rfl]
      exact sget_sset {} (engine s.m e).ecnt c.val j {}
    · rw [engine_selWrite, if_neg hg]

end Sys2Proof
end

/-! # A BAR4 read at a stack under RETRAIN (R172, R484, R614)

`memoryRead` answers nothing while a service runs on the stack that it reaches; the clauses about BAR4 do not ask that none does. -/

section
namespace Sys2Proof.Machine

/-- A RETRAIN of stack 0 under way. -/
def retrainingSvc : Svc := { busy := true, op := 2, kind := 8, index := 0 }

/-- The module in MS0, stack 0 under RETRAIN. -/
def retrainingState : State :=
  { State.reset with m := { modReset with hub := { hubReset with svc := [(0, retrainingSvc)] }, pwr := { pwrReset with state := .ms0 } } }

theorem bar4Base_retraining : bar4Base retrainingState.m 0 + 0 = 0 := by
  have hfield : regF retrainingState.m rHubBar4Base 30 19 = 0 := by decide
  simp [bar4Base, hfield]

theorem bar4Err_retraining : bar4Err retrainingState.m 0 0 1 = none := by decide

theorem accessWaits_retraining : accessWaits retrainingState.m (reqOf retrainingState.m (.host 0)) false 0 1 = true := by decide

/-- The byte itself can be read. -/
theorem readMem_retraining : ∃ m1 bs bad,
    readMem retrainingState.clk retrainingState.m (reqOf retrainingState.m (.host 0)) 0 1 .clean = (m1, .ok (bs, bad)) := by
  have hspans : spans 0 1 = [(0, 1)] := by decide
  have hcheck : spanCheck retrainingState.m (reqOf retrainingState.m (.host 0)) false 0 = .ok (.hbm 0 0, false) := by rfl
  simp only [readMem, hspans, readSpans, hcheck]
  exact ⟨_, _, _, rfl⟩

/-- The read waits. -/
theorem bar4Read_retraining : bar4Read 0 0 1 .clean retrainingState.clk retrainingState.m = retrainingState.m := by
  have hlive : vfLive retrainingState.m 0 = true := rfl
  have hroom : 0 + 1 ≤ bar4Bytes 0 := Nat.two_pow_pos _
  have hreads : bar4Read 0 0 1 .clean retrainingState.clk retrainingState.m
      = memoryRead (.host 0) 0 1 .clean retrainingState.clk retrainingState.m := by
    have hserved : ¬ (¬ vfLive retrainingState.m 0 = true ∨ 0 + 1 > bar4Bytes 0) := not_or.2 ⟨not_not.2 hlive, Nat.not_lt.2 hroom⟩
    have hup : ¬ ¬ hnUp retrainingState.m = true := not_not.2 rfl
    simp only [bar4Read, Fin.val_zero, if_neg hup, if_neg hserved, bar4Base_retraining, bar4Err_retraining]
  rw [hreads, memoryRead]
  exact if_pos accessWaits_retraining

theorem exec_bar4Read (f : Func) (off n : Nat) (ecc : Ecc) (s : State) :
    exec (.bar4Read f off n ecc) s = onEng (bar4Read f off n ecc) s := rfl

end Sys2Proof.Machine

namespace Sys2Proof
open Machine

/-- Refutes O39: while stack 0 is under RETRAIN, a BAR4 read of it waits, and no data is answered (R614). -/
theorem not_bar4Serves : ¬ Obligations.Bar4Serves := by
  unfold Obligations.Bar4Serves
  intro h
  obtain ⟨m1, bs, bad, hread⟩ := readMem_retraining
  have hroom : 0 + 1 ≤ bar4Bytes 0 := Nat.two_pow_pos _
  obtain ⟨hserves, -⟩ := h.1 0 0 1 .clean retrainingState rfl rfl hroom
  rw [Fin.val_zero, bar4Base_retraining] at hserves
  obtain ⟨u, hu, hout, -⟩ := hserves m1 bs bad bar4Err_retraining hread
  rw [exec_bar4Read] at hu
  have hsettled := settled_eq_of_onEng hu
  rw [bar4Read_retraining] at hsettled
  have hsame : u.out = retrainingState.m.out := by
    rw [← out_of_undisturbed (Still.settle retrainingState.clk u), ← hsettled,
      out_of_undisturbed (Still.settle retrainingState.clk retrainingState.m)]
  rw [hsame] at hout
  exact absurd (congrArg List.length hout) (by simp)

end Sys2Proof
end

/-! # A NOP that a saturation is recorded for (R495, R508)

`cmdReady` leaves free whether a saturation is recorded for the command, which its completion then reports in place of success. -/

section
namespace Sys2Proof.Machine

/-- A NOP that waits at its turn, with a saturation recorded. -/
def saturatedNop : Cmd := { saturatedResume with op := 0x00 }

/-- The NOP alone in its ring. -/
def nopState : State := { State.reset with m := { modReset with cmds := [saturatedNop] } }

theorem cmdReady_saturatedNop : cmdReady nopState 0 9 0x00 saturatedNop :=
  ⟨rfl, rfl, rfl, rfl, Or.inl ⟨rfl, rfl⟩⟩

theorem waiting_nopState : (ring nopState.m 0).waiting = [] := rfl

/-- The command completes with status 6 (SAT). -/
theorem waiting_saturatedNop : (ring (startCmd 0x00 nopBody 0 9 nopState.clk nopState.m) 0).waiting = [cmdEntry true 9 6 0 0 0] := by
  decide

end Sys2Proof.Machine

namespace Sys2Proof
open Machine

/-- Refutes O31: a NOP with a saturation recorded completes with status 6 (SAT), not 0 (R508); `cmdReady` asks that no fault and no
fallback is recorded, and says nothing of a saturation. -/
theorem not_completionsWritten : ¬ Obligations.CompletionsWritten := by
  unfold Obligations.CompletionsWritten
  rintro ⟨-, h⟩
  obtain ⟨hnop, -⟩ := h 0 9 saturatedNop nopState
  have hentry := entry_of_answered (hnop cmdReady_saturatedNop) (fun _ hu => hu.1) waiting_nopState waiting_saturatedNop
  exact absurd hentry (by decide)

end Sys2Proof
end

/-! # Doorbells, and the fetch of entries (R487 to R490, R515) -/

section
namespace Sys2Proof.Machine

/-! ## Doorbells -/

theorem exec_sqDoorbell (f : Func) (n : RingId) (off size : Nat) (v : W32) (s : State) :
    exec (.sqDoorbell f n off size v) s = .next { s with m := sqDoorbell f.val n.val off size v.toNat s.clk s.m } := rfl

theorem exec_cqDoorbell (f : Func) (n : RingId) (off size : Nat) (v : W32) (s : State) :
    exec (.cqDoorbell f n off size v) s = .next { s with m := cqDoorbell f.val n.val off size v.toNat s.clk s.m } := rfl

section
variable {t : Clk} {f owner n off size v : Nat} {m : Mod} (hlive : vfLive m f = true)
include hlive

/-- The owner's write of a whole doorbell is one. -/
theorem doorbellErr_none (howner : owner = f) (hgood : off = 0 ∧ size = 4) : doorbellErr t f owner n off size v m = none := by
  rw [doorbellErr, if_neg (by simp [hlive]), if_neg (by simp [howner, hgood])]

theorem doorbellErr_some (h : ¬ (owner = f ∧ off = 0 ∧ size = 4)) :
    doorbellErr t f owner n off size v m = some (emit (.aerUR f) (hnFault t fRing 0 n v none m)) := by
  rw [doorbellErr, if_neg (by simp [hlive]), if_pos (by tauto)]

theorem sqDoorbell_records (howner : sqOwner m n = f) (hgood : off = 0 ∧ size = 4) (hen : sqEn m n = true) (hin : v % 65536 < sqSize m n) :
    sqDoorbell f n off size v t m = modRing m n fun r => { r with tail := v % 65536 } := by
  simp only [sqDoorbell, doorbellErr_none hlive howner hgood]
  rw [if_neg (by simp [hen]), if_neg (by omega)]

theorem sqDoorbell_stops (howner : sqOwner m n = f) (hgood : off = 0 ∧ size = 4) (hen : sqEn m n = true) (hout : sqSize m n ≤ v % 65536)
    (hms : msLevel m ≤ 1) (hbusy : hnBusy m = false) : sqDoorbell f n off size v t m = stopSq t n 0x14 v m := by
  simp only [sqDoorbell, doorbellErr_none hlive howner hgood]
  rw [if_neg (by simp [hen]), if_pos ⟨hout, hms, by simp [hbusy]⟩]

theorem sqDoorbell_discards (h : ¬ (sqOwner m n = f ∧ off = 0 ∧ size = 4)) :
    sqDoorbell f n off size v t m = emit (.aerUR f) (hnFault t fRing 0 n v none m) := by
  simp only [sqDoorbell, doorbellErr_some hlive h]

section
variable (howner : cqOwner m n = f) (hgood : off = 0 ∧ size = 4) (hen : cqEn m n = true)
include howner hgood hen

theorem cqDoorbell_records (hhead : badHead m n (v % 65536) = false) :
    cqDoorbell f n off size v t m = modRing m n fun r => { r with cqHead := v % 65536, cqBell := none } := by
  simp only [cqDoorbell, doorbellErr_none hlive howner hgood]
  rw [if_neg (by simp [hen]), if_neg (by simp [hhead])]

theorem cqDoorbell_bad (hhead : badHead m n (v % 65536) = true) : cqDoorbell f n off size v t m
    = if msLevel m ≤ 1 ∧ ¬ hnBusy m = true then stopCq t n 0x14 v m else modRing m n fun r => { r with cqBell := some (v % 65536) } := by
  simp only [cqDoorbell, doorbellErr_none hlive howner hgood]
  rw [if_neg (by simp [hen]), if_pos hhead]

end

end

/-- A head within the ring and the written entries. -/
theorem badHead_false {m : Mod} {n x : Nat} (hin : x < cqSize m n)
    (hwritten : (x + cqSize m n - (ring m n).cqHead) % cqSize m n ≤ ((ring m n).cqTail + cqSize m n - (ring m n).cqHead) % cqSize m n) :
    badHead m n x = false := by
  rw [badHead, Bool.or_eq_false_iff, decide_eq_false_iff_not, decide_eq_false_iff_not]
  omega

theorem sqEn_stopSq (t : Clk) (n : Nat) (r : Byte) (info : Nat) (m : Mod) : sqEn (stopSq t n r info m) n = false :=
  sqEn_setBit m n false

theorem cqEn_stopCq (t : Clk) (n : Nat) (r : Byte) (info : Nat) (m : Mod) : cqEn (stopCq t n r info m) n = false :=
  cqEn_setBit m n false

theorem reason_stopSq (t : Clk) (n : Nat) (r : Byte) (info : Nat) (m : Mod) : (ring (stopSq t n r info m) n).reason = r := by
  have h := ring_modRing (m := setBit m (rSq n + 0x10) 0 false) n n fun x => { x with reason := r }
  rw [if_pos rfl] at h
  exact congrArg Ring.reason h

theorem cqReason_stopCq (t : Clk) (n : Nat) (r : Byte) (info : Nat) (m : Mod) : (ring (stopCq t n r info m) n).cqReason = r := by
  have h := ring_modRing (m := setBit m (rCq n + 0x10) 0 false) n n fun x => { x with cqReason := r }
  rw [if_pos rfl] at h
  exact congrArg Ring.cqReason h

theorem flog_stopSq (t : Clk) (n : Nat) (r : Byte) (info : Nat) (m : Mod) :
    (flog (stopSq t n r info m) logHN).last.typ = fRing ∧ (flog (stopSq t n r info m) logHN).last.reason = r := by
  rw [stopSq, hnFault, flog_logFault]
  exact ⟨rfl, rfl⟩

/-! ## The turn of a ring -/

/-- A table whose values change by key and that drops the defaults: an entry that stays reads as changed. -/
theorem sget_filter_map {α : Type} [DecidableEq α] (d : α) (g : Nat → α → α) {n : Nat} (t : Sparse α) (hold : sget d t n ≠ d)
    (hnew : g n (sget d t n) ≠ d) : sget d ((t.map fun e => (e.1, g e.1 e.2)).filter fun e => e.2 != d) n = g n (sget d t n) := by
  induction t with
  | nil => exact absurd rfl hold
  | cons e r ih =>
    obtain ⟨k, v⟩ := e
    rw [sget_cons] at hold hnew ⊢
    rw [List.map_cons, List.filter_cons]
    by_cases hk : k = n
    · subst hk
      rw [if_pos rfl] at hnew ⊢
      rw [if_pos (by simpa using hnew), sget_cons, if_pos rfl]
    · rw [if_neg hk] at hold hnew ⊢
      split_ifs
      · rw [sget_cons, if_neg hk, ih hold hnew]
      · exact ih hold hnew

/-- A module as another but for its rings and its hub. -/
def RingsHub (m u : Mod) : Prop := ∃ rings hub, u = { m with rings := rings, hub := hub }

/-- A ring as another but for its deficit. -/
def SameQueue (r x : Ring) : Prop := x = { r with deficit := x.deficit }

/-- The deficit of ring i at the turn of ring n. -/
def quantum (m : Mod) (n i d : Nat) : Nat :=
  if ¬ (sqsWaiting m).contains i then 0
  else if (sqLevel m n != 7 && (sqsAble m).isEmpty) = true ∧ sqLevel m i ≠ 7 then d + 16 * sqWeight m i else d

theorem ring_sqQuanta {m : Mod} {n : Nat} (h : (ring m n).head ≠ 0 ∨ (ring m n).tail ≠ 0) :
    ring (sqQuanta n m) n = { ring m n with deficit := quantum m n n (ring m n).deficit } := by
  refine sget_filter_map {} (fun i r => { r with deficit := quantum m n i r.deficit }) m.rings ?_ ?_
  · intro hempty
    have hring : ring m n = {} := hempty
    simp [hring] at h
  · intro hempty
    have hring := Ring.mk.inj hempty
    obtain h | h := h
    · exact h hring.1
    · exact h hring.2.1

theorem ringsHub_sqQuanta (n : Nat) (m : Mod) : RingsHub m (sqQuanta n m) := ⟨_, _, rfl⟩

/-- The turn of a ring whose burst counts against its deficit. -/
def turned (n k : Nat) (m : Mod) : Mod := sqSpend n k (sqQuanta n m)

theorem ringsHub_turned (n k : Nat) (m : Mod) : RingsHub m (turned n k m) := by
  obtain ⟨rings, hub, h⟩ := ringsHub_sqQuanta n m
  rw [turned, sqSpend, h]
  split_ifs
  · exact ⟨_, _, rfl⟩
  · exact ⟨_, _, rfl⟩

theorem ring_turned {m : Mod} {n : Nat} (k : Nat) (h : (ring m n).head ≠ 0 ∨ (ring m n).tail ≠ 0) :
    SameQueue (ring m n) (ring (turned n k m) n) := by
  rw [turned, sqSpend]
  split_ifs
  · rw [ring_sqQuanta h, SameQueue]
  · rw [ring_modRing, if_pos rfl, ring_sqQuanta h, SameQueue]

/-! ## Entries -/

/-- The registers, and the head and the tail of an SQ, are as they were. -/
structure QueueKept (n : Nat) (m u : Mod) : Prop where
  bar0 : u.bar0 = m.bar0
  head : (ring u n).head = (ring m n).head
  tail : (ring u n).tail = (ring m n).tail

theorem QueueKept.refl (n : Nat) (m : Mod) : QueueKept n m m := ⟨rfl, rfl, rfl⟩

theorem QueueKept.trans {n : Nat} {a b c : Mod} (h : QueueKept n a b) (k : QueueKept n b c) : QueueKept n a c :=
  ⟨k.bar0.trans h.bar0, k.head.trans h.head, k.tail.trans h.tail⟩

theorem QueueKept.putEntry (n i : Nat) (x : CqEntry) (m : Mod) : QueueKept n m (putEntry i x m) := by
  have hring : ring (Machine.putEntry i x m) n = if n = i then { ring m i with waiting := (ring m i).waiting ++ [x] } else ring m n :=
    ring_modRing ..
  refine ⟨rfl, ?_, ?_⟩
  · rw [hring]
    split_ifs with h
    · rw [h]
    · rfl
  · rw [hring]
    split_ifs with h
    · rw [h]
    · rfl

theorem QueueKept.addCmd (n i : Nat) (b : List Byte) (st : CmdSt) (m : Mod) : QueueKept n m (addCmd i b st m) := ⟨rfl, rfl, rfl⟩

theorem QueueKept.refuseEntry (n : Nat) (t : Clk) (i : Nat) (b : List Byte) (r : Byte) (m : Mod) : QueueKept n m (refuseEntry t i b r m) := by
  unfold Machine.refuseEntry
  simp only
  split_ifs
  · exact .putEntry ..
  · exact (QueueKept.addCmd ..).trans (.putEntry ..)

theorem QueueKept.acceptCmd (n : Nat) (t : Clk) (i : Nat) (b : List Byte) (m : Mod) : QueueKept n m (acceptCmd t i b m) := by
  unfold Machine.acceptCmd
  simp only
  split_ifs
  · exact .refuseEntry ..
  · exact .refuseEntry ..
  · exact ⟨rfl, rfl, rfl⟩
  · exact .addCmd ..
  · split
    next => exact QueueKept.trans (b := (fresh m).2) ⟨rfl, rfl, rfl⟩ (.refuseEntry ..)
    next hresv =>
      simp only [reserveLeave] at hresv
      split_ifs at hresv
      obtain rfl := Except.ok.inj hresv
      exact ⟨rfl, rfl, rfl⟩

theorem QueueKept.takeEntry (n : Nat) (t : Clk) (i : Nat) (b : List Byte) (m : Mod) : QueueKept n m (takeEntry t i b m) := by
  unfold Machine.takeEntry
  split
  · exact .refuseEntry ..
  · split_ifs
    · exact .refuseEntry ..
    · exact .acceptCmd ..
    · exact .addCmd ..

theorem sqSize_of_bar0 {m u : Mod} (h : u.bar0 = m.bar0) (n : Nat) : sqSize u n = sqSize m n := by
  simp only [sqSize, regF, regN, reg, h]

/-- The head of a ring moves on, the registers and its tail are as they were. -/
structure HeadAt (n : Nat) (m u : Mod) (i : Nat) : Prop where
  bar0 : u.bar0 = m.bar0
  head : (ring u n).head = i
  tail : (ring u n).tail = (ring m n).tail

theorem headAt_fetchOne (t : Clk) (n : Nat) (m : Mod) : HeadAt n m (fetchOne t n m) (((ring m n).head + 1) % sqSize m n) := by
  have hkept := QueueKept.takeEntry n t n (entryAt m n (ring m n).head)
    (modRing m n fun r => { r with head := ((ring m n).head + 1) % sqSize m n })
  refine ⟨hkept.bar0, hkept.head.trans ?_, hkept.tail.trans ?_⟩
  · rw [ring_modRing, if_pos rfl]
  · rw [ring_modRing, if_pos rfl]

/-- The fetch of k + 1 entries. -/
theorem headAt_fetches (t : Clk) (n k : Nat) (m : Mod) :
    HeadAt n m ((List.range (k + 1)).foldl (fun m _ => fetchOne t n m) m) (((ring m n).head + (k + 1)) % sqSize m n) := by
  induction k with
  | zero => exact headAt_fetchOne t n m
  | succ k ih =>
    rw [List.range_succ, List.foldl_append, List.foldl_cons, List.foldl_nil]
    have hone := headAt_fetchOne t n ((List.range (k + 1)).foldl (fun m _ => fetchOne t n m) m)
    refine ⟨hone.bar0.trans ih.bar0, hone.head.trans ?_, hone.tail.trans ih.tail⟩
    rw [ih.head, sqSize_of_bar0 ih.bar0, Nat.mod_add_mod, Nat.add_assoc]

theorem exec_sqEntryFetch (n : RingId) (burst : Nat) (bad : Bool) (s : State) :
    exec (.sqEntryFetch n burst bad) s = .next { s with m := entryFetch n.val burst bad s.clk s.m } := rfl

/-- How many entries a burst takes. -/
def burstOf (burst left : Nat) : Nat := min (min 16 (max 1 burst)) left

theorem entryFetch_fetches {n burst : Nat} {t : Clk} {m : Mod} (hf : fetches m n = true) (htail : (ring m n).tail < sqSize m n)
    (hpick : sqPick m = some n) (hleft : sqLeft m n ≠ 0) : entryFetch n burst false t m
      = (List.range (burstOf burst (sqLeft m n))).foldl (fun m _ => fetchOne t n m) (turned n (burstOf burst (sqLeft m n)) m) := by
  rw [entryFetch, if_neg (by simp [hf]), if_neg (by omega), if_neg (by simp [hpick])]
  simp only [if_neg hleft]
  rfl

/-- A ring with entries to fetch is not empty at its start. -/
theorem notFresh_of_left {m : Mod} {n : Nat} (h : sqLeft m n ≠ 0) : (ring m n).head ≠ 0 ∨ (ring m n).tail ≠ 0 := by
  by_contra hno
  obtain ⟨hhead, htail⟩ := not_or.1 hno
  simp [sqLeft, not_not.1 hhead, not_not.1 htail] at h

/-- One entry, taken as the check says. -/
theorem entryFetch_one {n burst : Nat} {t : Clk} {m : Mod} (hf : fetches m n = true) (htail : (ring m n).tail < sqSize m n)
    (hpick : sqPick m = some n) (hleft : sqLeft m n ≠ 0) (hburst : burst ≤ 1) :
    entryFetch n burst false t m = fetchOne t n (turned n 1 m) := by
  have hone : burstOf burst (sqLeft m n) = 1 := by
    rw [burstOf]
    omega
  rw [entryFetch_fetches hf htail hpick hleft, hone]
  rfl

/-- The module whose next entry of ring n is taken. -/
def headMoved (n : Nat) (m : Mod) : Mod := modRing m n fun r => { r with head := ((ring m n).head + 1) % sqSize m n }

theorem fetchOne_eq (t : Clk) (n : Nat) (m : Mod) : fetchOne t n m = takeEntry t n (entryAt m n (ring m n).head) (headMoved n m) := rfl

theorem waiting_headMoved (n : Nat) (m : Mod) : (ring (headMoved n m) n).waiting = (ring m n).waiting := by
  rw [headMoved, ring_modRing, if_pos rfl]

namespace RingsHub
variable {m u : Mod}

theorem headMoved (h : RingsHub m u) (n : Nat) : RingsHub m (headMoved n u) := by
  obtain ⟨rings, hub, rfl⟩ := h
  exact ⟨_, hub, rfl⟩

theorem entryAt (h : RingsHub m u) (n i : Nat) : entryAt u n i = entryAt m n i := by
  obtain ⟨rings, hub, rfl⟩ := h
  rfl

theorem entryErr (h : RingsHub m u) (n : Nat) (b : List Byte) : entryErr u n b = entryErr m n b := by
  obtain ⟨rings, hub, rfl⟩ := h
  rfl

theorem findCmd (h : RingsHub m u) (n tag : Nat) : findCmd u n tag = findCmd m n tag := by
  obtain ⟨rings, hub, rfl⟩ := h
  rfl

/-- A command that is added is the one that the module itself would add. -/
theorem cmds_addCmd (h : RingsHub m u) (n : Nat) (b : List Byte) (st : CmdSt) :
    (addCmd n b st u).cmds = m.cmds ++ [newCmd m n m.nextId b st] := by
  obtain ⟨rings, hub, rfl⟩ := h
  rfl

end RingsHub

section
variable {t : Clk} {n : Nat} {b : List Byte} {m : Mod} (hfree : findCmd m n (fld b 2 2) = none)
include hfree

theorem takeEntry_refuses {r : Byte} (herr : entryErr m n b = some r) :
    takeEntry t n b m = putEntry n (cmdEntry true (fld b 2 2) 2 r 0 t.sid) (addCmd n b .retired m) := by
  simp only [takeEntry, herr, refuseEntry, hfree, Option.isSome_none, Bool.false_eq_true, if_false]

theorem takeEntry_waits (herr : entryErr m n b = none) (ht : fld b 1 1 % 2 = 0) : takeEntry t n b m = addCmd n b .waiting m := by
  simp only [takeEntry, herr, hfree, Option.isSome_none, Bool.false_eq_true, if_false]
  rw [if_neg (by omega)]

end

theorem waiting_putEntry (n : Nat) (x : CqEntry) (m : Mod) : (ring (putEntry n x m) n).waiting = (ring m n).waiting ++ [x] := by
  rw [putEntry, ring_modRing, if_pos rfl]

/-- The one entry of a burst: the module it is taken by, and what waits there. -/
theorem entryFetch_takes {n burst : Nat} {t : Clk} {m : Mod} (hf : fetches m n = true) (htail : (ring m n).tail < sqSize m n)
    (hpick : sqPick m = some n) (hleft : sqLeft m n ≠ 0) (hburst : burst ≤ 1) :
    ∃ u, RingsHub m u ∧ (ring u n).waiting = (ring m n).waiting
      ∧ entryFetch n burst false t m = takeEntry t n (entryAt m n (ring m n).head) u := by
  have hhub := ringsHub_turned n 1 m
  have hring : SameQueue (ring m n) (ring (turned n 1 m) n) := ring_turned 1 (notFresh_of_left hleft)
  have hhead : (ring (turned n 1 m) n).head = (ring m n).head := by rw [hring]
  refine ⟨_, hhub.headMoved n, ?_, ?_⟩
  · rw [waiting_headMoved, hring]
  · rw [entryFetch_one hf htail hpick hleft hburst, fetchOne_eq, hhead, hhub.entryAt]

end Sys2Proof.Machine

namespace Sys2Proof
open Machine

/-- Settles O30: a doorbell by its cases; a fetch moves the head entry by entry, and each entry goes as its check says. -/
theorem ringsFetch : Obligations.RingsFetch := by
  unfold Obligations.RingsFetch
  refine ⟨fun f n off size v s hlive => ⟨?tail, ?stop, ?discard, ?head, ?bad⟩,
    fun n burst s hf htail hpick hleft => ⟨?moves, ?refused, ?waits⟩⟩
  case tail =>
    intro howner hgood hen hin
    rw [exec_sqDoorbell, sqDoorbell_records hlive howner hgood hen hin]
  case stop =>
    intro howner hgood hen hout hms hbusy
    refine ⟨_, exec_sqDoorbell f n off size v s, ?_⟩
    simp only [sqDoorbell_stops hlive howner hgood hen hout hms hbusy]
    exact ⟨sqEn_stopSq .., reason_stopSq .., flog_stopSq ..⟩
  case discard =>
    intro h
    refine ⟨_, exec_sqDoorbell f n off size v s, ?_⟩
    simp only [sqDoorbell_discards hlive h]
    exact ⟨rfl, rfl⟩
  case head =>
    intro howner hgood hen hin hwritten
    rw [exec_cqDoorbell, cqDoorbell_records hlive howner hgood hen (badHead_false hin hwritten)]
  case bad =>
    intro howner hgood hen hhead
    refine ⟨fun hms hbusy => ?_, fun hms => ?_⟩
    · refine ⟨_, exec_cqDoorbell f n off size v s, ?_⟩
      simp only [cqDoorbell_bad hlive howner hgood hen hhead]
      rw [if_pos ⟨hms, by simp [hbusy]⟩]
      exact ⟨cqEn_stopCq .., cqReason_stopCq ..⟩
    · rw [exec_cqDoorbell, cqDoorbell_bad hlive howner hgood hen hhead, if_neg (by omega)]
  case moves =>
    refine ⟨_, exec_sqEntryFetch n burst false s, ?_⟩
    simp only [entryFetch_fetches hf htail hpick hleft]
    obtain ⟨k, hk⟩ : ∃ k, burstOf burst (sqLeft s.m n) = k + 1 := Nat.exists_eq_succ_of_ne_zero (by
      have hpos : sqLeft s.m n ≠ 0 := hleft
      rw [burstOf]
      omega)
    have hring := ring_turned (burstOf burst (sqLeft s.m n)) (notFresh_of_left hleft)
    obtain ⟨-, hhead, htail'⟩ := headAt_fetches s.clk n k (turned n (burstOf burst (sqLeft s.m n)) s.m)
    obtain ⟨rings, hub, hhub⟩ := ringsHub_turned n (burstOf burst (sqLeft s.m n)) s.m
    have hsize : sqSize (turned n (burstOf burst (sqLeft s.m n)) s.m) n = sqSize s.m n := by
      rw [hhub]
      rfl
    rw [← hk] at hhead htail'
    refine ⟨hhead.trans ?_, htail'.trans ?_⟩
    · rw [hring, hsize]
      rfl
    · rw [hring]
  case refused =>
    intro hburst r herr hfree
    obtain ⟨u, hhub, hwaiting, htakes⟩ := entryFetch_takes (t := s.clk) hf htail hpick hleft hburst
    refine ⟨_, exec_sqEntryFetch n burst false s, ?_⟩
    simp only [htakes, takeEntry_refuses ((hhub.findCmd ..).trans hfree) ((hhub.entryErr ..).trans herr)]
    exact ⟨hhub.cmds_addCmd .., (waiting_putEntry ..).trans (congrArg (· ++ _) hwaiting)⟩
  case waits =>
    intro hburst herr hfree ht
    obtain ⟨u, hhub, hwaiting, htakes⟩ := entryFetch_takes (t := s.clk) hf htail hpick hleft hburst
    refine ⟨_, exec_sqEntryFetch n burst false s, ?_⟩
    simp only [htakes, takeEntry_waits ((hhub.findCmd ..).trans hfree) ((hhub.entryErr ..).trans herr) ht]
    exact ⟨hhub.cmds_addCmd .., hwaiting⟩

end Sys2Proof
end

/-! # Gather runs (R200, R501) -/

section
namespace Sys2Proof.Machine

/-! ## Reads that meet no error, and the end of a command -/

/-- A read of what ECC finds clean disturbs nothing. -/
theorem undisturbed_readPlace_clean (t : Clk) (m : Mod) (p : Place) (n : Nat) : Undisturbed m (readPlace t m p n .clean).1 := by
  cases p with
  | hbm => exact undisturbed_checkLine ..
  | tier => exact undisturbed_checkLine ..
  | _ => exact Still.refl m

theorem undisturbed_readSpans_clean (t : Clk) (rq : Req) (m : Mod) (l : List (Nat × Nat)) :
    Undisturbed m (readSpans t rq .clean m l).1 := by
  fun_induction readSpans t rq .clean m l
  case case6 hplace _ _ hrest ih =>
    exact Still.trans (undisturbed_of_fst hplace (undisturbed_readPlace_clean ..)) (undisturbed_of_fst hrest ih)
  case case7 hplace _ _ _ hrest ih =>
    exact Still.trans (undisturbed_of_fst hplace (undisturbed_readPlace_clean ..)) (undisturbed_of_fst hrest ih)
  all_goals exact Still.refl _

theorem undisturbed_readMem_clean (t : Clk) (m : Mod) (rq : Req) (a len : Nat) : Undisturbed m (readMem t m rq a len .clean).1 := by
  have hspans := undisturbed_readSpans_clean t rq m (spans a len)
  unfold readMem
  split
  next heq => exact Still.trans (undisturbed_of_fst heq hspans) (undisturbed_logErr ..)
  next => exact hspans

theorem outsideAccess_cmds : OutsideAccess (·.cmds) where
  engine _ _ _ := rfl
  logs _ _ := rfl
  mem _ _ := rfl
  sync _ _ := rfl
  out _ _ := rfl
  part _ _ _ _ := rfl

theorem outsideAccess_gather : OutsideAccess (·.gather) where
  engine _ _ _ := rfl
  logs _ _ := rfl
  mem _ _ := rfl
  sync _ _ := rfl
  out _ _ := rfl
  part _ _ _ _ := rfl

/-- The command that a number names bears that number. -/
theorem key_of_findCmd {m : Mod} {sq tag : Nat} {c : Cmd} (h : findCmd m sq tag = some c) : c.sq = sq ∧ c.tag = tag := by
  simpa using List.find?_some h

/-- An update of a command that keeps its number. -/
theorem findCmd_modCmd (m : Mod) (sq tag : Nat) {f : Cmd → Cmd} (hf : ∀ c, (f c).sq = c.sq ∧ (f c).tag = c.tag) :
    findCmd (modCmd m sq tag f) sq tag = (findCmd m sq tag).map f := by
  have hkey : ∀ c : Cmd, ((if c.sq = sq ∧ c.tag = tag then f c else c).sq == sq && (if c.sq = sq ∧ c.tag = tag then f c else c).tag == tag)
      = (c.sq == sq && c.tag == tag) := by
    intro c
    split_ifs
    · rw [(hf c).1, (hf c).2]
    · rfl
  rw [findCmd, modCmd, List.find?_map]
  simp only [Function.comp_def, hkey]
  cases hfind : m.cmds.find? fun c => c.sq == sq && c.tag == tag with
  | none => simp [findCmd, hfind]
  | some c =>
    have hc := key_of_findCmd (m := m) hfind
    rw [findCmd, hfind, Option.map_some, Option.map_some, if_pos hc]

theorem findCmd_retireAt (time : W64) (sq tag status : Nat) (r : Byte) (fl : BitVec 16) (m : Mod) :
    findCmd (retireAt time sq tag status r fl m) sq tag = (findCmd m sq tag).map fun c => { c with st := .retired } :=
  findCmd_modCmd m sq tag fun _ => ⟨rfl, rfl⟩

/-- A command that ends has retired, whatever its status. -/
theorem retired_endCmd {m : Mod} {sq tag : Nat} {c : Cmd} (h : findCmd m sq tag = some c) (t : Clk) (status : Nat) :
    ∃ y, findCmd (endCmd t sq tag status m) sq tag = some y ∧ y.st = .retired := by
  have hretired : ∀ time st r fl, ∃ y, findCmd (retireAt time sq tag st r fl m) sq tag = some y ∧ y.st = .retired := fun time st r fl =>
    ⟨_, by rw [findCmd_retireAt, h, Option.map_some], rfl⟩
  simp only [endCmd, h]
  split
  next hst => exact ⟨c, h, hst⟩
  · exact hretired ..
  · split
    · exact hretired ..
    · exact hretired ..

theorem gather_endCmd (t : Clk) (sq tag status : Nat) (m : Mod) : (endCmd t sq tag status m).gather = m.gather :=
  congrArg (·.gather) (Still.endCmd t sq tag status m).1

theorem mem_endCmd (t : Clk) (sq tag status : Nat) (m : Mod) : (endCmd t sq tag status m).mem = m.mem :=
  mem_of_undisturbed (Still.endCmd ..)

/-- A command whose result can be written completes with it. -/
theorem cmdResult_written {t : Clk} {c : Cmd} {a : Nat} {bs : List Byte} {m m1 : Mod}
    (h : writeMem t m (cmdReq c) a bs false .clean = (m1, none)) : cmdResult t c a bs m = cmdDone t c m1 := by
  simp only [cmdResult, h]

@[simp] theorem gatherOf_modGather (m : Mod) (d : Nat) (f : Gather → Gather) : gatherOf (modGather m d f) d = f (gatherOf m d) :=
  sget_smod_same ..

/-! ## GATHER_RUN -/

theorem exec_gatherRun (sq : RingId) (tag : BitVec 16) (s : State) : exec (.gatherRun sq tag) s = onAll (gatherStart sq tag) s := rfl

/-- A command that is ready starts. -/
theorem startCmd_ready {s : State} {sq : RingId} {tag : BitVec 16} {op : Nat} {c : Cmd} (h : cmdReady s sq tag op c)
    (body : Cmd → Clk → Mod → Mod) : startCmd op body sq tag s.clk s.m = body c s.clk (markStarted c s.m) := by
  obtain ⟨hfind, hop, -, -, hst⟩ := h
  obtain ⟨hwaiting, hmay⟩ | ⟨l, r, haccepted, hrun, hl⟩ := hst
  · simp only [startCmd, hfind, hop, hwaiting, hmay]
    simp
  · simp only [startCmd, hfind, hop, haccepted]
    simp [hrun, hl]

section
variable {sq : RingId} {tag : BitVec 16} {t : Clk} {m : Mod} {c : Cmd} (hfind : findCmd m sq.val tag.toNat = some c)
include hfind

theorem gatherStart_waits (h : (gatherOf m (carg c 0x10 1)).busy = true ∨ (svcRuns m 1 6 (carg c 0x10 1) = true ∧ opensRegion t m c = true)) :
    gatherStart sq tag t m = m := by
  simp only [gatherStart, hfind]
  exact if_pos h

theorem gatherStart_starts (hbusy : (gatherOf m (carg c 0x10 1)).busy = false)
    (hgo : (svcRuns m 1 6 (carg c 0x10 1) && opensRegion t m c) = false) :
    gatherStart sq tag t m = startCmd 0x21 gatherBody sq tag t m := by
  simp only [gatherStart, hfind]
  refine if_neg ?_
  rw [hbusy, ← Bool.and_eq_true, hgo]
  simp

end

/-- A run without region takes its record. -/
theorem gatherBody_takes {c : Cmd} {t : Clk} {m m1 : Mod} {b : List Byte} {x : Bool}
    (hread : readMem t m (cmdReq c) (carg c 0x18 8) 320 .clean = (m1, .ok (b, x))) (hok : recordBad b = false) (hbase : fld b 0 8 = 0) :
    gatherBody c t m = modGather (fresh m1).2 (carg c 0x10 1) fun _ =>
      { id := m1.nextId, busy := true, sq := c.sq, tag := c.tag, region := none, sealD := fld b 0xC 2, record := b } := by
  have hregion : gatherRegion t m1 c (carg c 0x10 1) b = .ok (m1, none) := if_pos hbase
  simp only [gatherBody, hread, hok, Bool.false_eq_true, if_false, hregion]
  rfl

/-! ## GATHER_RUN_END -/

theorem exec_gatherRunEnd (d : Tier) (s : State) : exec (.gatherRunEnd d) s = onAll (gatherEnd d.val) s := rfl

section
variable {m : Mod} {d : Nat} {g : Gather} (hkinds : ∀ i < 4, (readStream g.record i).kind = 0)
include hkinds

/-- A run without streams waits for no pin. -/
theorem gatherHeld_none : gatherHeld m d g.record = false := by
  rw [gatherHeld, List.any_eq_false]
  intro i hi
  simp [hkinds i (List.mem_range.1 hi)]

/-- A run without streams reaches nothing. -/
theorem runPieces_none (t : Clk) : runPieces t m d g.record = [] := by
  rw [runPieces, List.flatMap_eq_nil_iff]
  intro i hi
  simp [gatherPieces, hkinds i (List.mem_range.1 hi)]

theorem gatherServed_none (t : Clk) (hregion : g.region = none) : gatherServed t m d g = false := by
  simp [gatherServed, hregion, runPieces_none hkinds]

end

/-- A stream of kind 0 moves nothing. -/
theorem runStream_none (t : Clk) (d : Nat) (m : Mod) {s : GStream} (h : s.kind = 0) : runStream t d m s = m := by
  have hsources : gatherSources t d s m = [] := by simp [gatherSources, h]
  have hbarred : gatherBarred t d s m = none := by
    simp only [gatherBarred, hsources]
    split_ifs <;> rfl
  rw [runStream, hbarred]
  simp only [h]
  exact ite_self m

theorem runStreams_none (t : Clk) (d : Nat) (m : Mod) {b : List Byte} (h : ∀ i < 4, (readStream b i).kind = 0) :
    ((List.range 4).map (readStream b)).foldl (runStream t d) m = m := by
  refine List.foldlRecOn (motive := fun u => u = m) _ _ rfl fun u hu x hx => ?_
  obtain ⟨i, hi, rfl⟩ := List.mem_map.1 hx
  rw [hu, runStream_none t d m (h i (List.mem_range.1 hi))]

/-- The end of a run without streams and region: the result, 256 bytes. -/
theorem gatherEnd_result {d : Nat} {t : Clk} {m : Mod} {c : Cmd} (hbusy : (gatherOf m d).busy = true)
    (hfind : findCmd m (gatherOf m d).sq (gatherOf m d).tag = some c) (hst : c.st = .started) (hregion : (gatherOf m d).region = none)
    (hstop : (gatherOf m d).stop = none) (hkinds : ∀ i < 4, (readStream (gatherOf m d).record i).kind = 0) :
    gatherEnd d t m = cmdResult t c (carg c 0x20 8) (gatherResult (gatherOf m d)) (modGather m d fun _ => {}) := by
  have haborting : isAborting c = false := by simp [isAborting, hst]
  have hclose : ∀ ok, gatherClose t m d c.part (gatherOf m d) ok = m := fun ok => by simp only [gatherClose, hregion]
  simp only [gatherEnd, hfind]
  rw [if_neg (by simp [hbusy, gatherHeld_none hkinds, gatherServed_none hkinds t hregion])]
  simp only [haborting, Bool.false_eq_true, if_false, runStreams_none t d m hkinds, hclose, hstop]
  rfl

end Sys2Proof.Machine

namespace Sys2Proof
open Machine

/-- Settles O35: the start takes the record, and an end with nothing to move is its result. -/
theorem gatherRuns : Obligations.GatherRuns := by
  unfold Obligations.GatherRuns
  refine ⟨fun sq tag c m1 b x s hready => ⟨fun h => ?waits, fun hbusy hgo hread hok hbase => ?takes⟩,
    fun d c m1 s hbusy hfind hst hfault hfallback hregion hstop hkinds hwrite => ?result⟩
  case waits => exact exec_gatherRun sq tag s ▸ settlesAll_onAll (gatherStart_waits hready.1 h)
  case takes =>
    obtain ⟨hsq, htag⟩ := key_of_findCmd hready.1
    have hmem : m1.mem = s.m.mem := mem_of_undisturbed (undisturbed_of_fst hread (undisturbed_readMem_clean ..))
    rw [exec_gatherRun]
    refine settlesAll_onAll ?_
    rw [gatherStart_starts hready.1 hbusy hgo, startCmd_ready hready, gatherBody_takes hread hok hbase, hsq, htag]
    exact ⟨gatherOf_modGather .., hmem⟩
  case result =>
    obtain ⟨hsq, htag⟩ := key_of_findCmd hfind
    have hcmds : m1.cmds = s.m.cmds := OutsideAccess.of_fst (f := (·.cmds)) hwrite (outsideAccess_cmds.writeMem ..)
    have hgather : m1.gather = (modGather s.m d fun _ => {}).gather :=
      OutsideAccess.of_fst (f := (·.gather)) hwrite (outsideAccess_gather.writeMem ..)
    rw [exec_gatherRunEnd]
    refine settlesAll_onAll ?_
    rw [gatherEnd_result hbusy hfind hst hregion hstop hkinds, cmdResult_written hwrite, cmdDone, hsq, htag]
    refine ⟨?_, mem_endCmd .., retired_endCmd (by rw [findCmd, hcmds]; exact hfind) s.clk 0⟩
    rw [gatherOf, gather_endCmd, hgather]
    exact gatherOf_modGather s.m d fun _ => {}

end Sys2Proof
end

/-! # What the work on a stream writes, and what it leaves (R452 to R456) -/

section
namespace Sys2Proof.Machine

/-! ## Facts that the work on a stream keeps -/

/-- A fact about the module that stays through the work on the streams of a slot number: whatever happens to that slot of a media
die and to what is set aside of it, to what waits at rings and goes out, to regions, logs and signals under way, and to the shuffle
segments and samples of a partition. -/
structure KeptByStreams (s : Nat) (P : Mod → Prop) : Prop where
  slot : ∀ m d f, P m → P (modStrm m d s f)
  aside : ∀ m d f, P m → P (modStrm m d (asideSlot m d s) f)
  drop : ∀ m d, P m → P (dropAside d s m)
  emit : ∀ o m, P m → P (emit o m)
  ring : ∀ m n h, P m → P (modRing m n h)
  region : ∀ m td e r, P m → P (setRegion m td e r)
  log : ∀ t l e m, P m → P (logFault t l e m)
  signals : ∀ m id, P m → P (dropSignals m id)
  pool : ∀ m k (h : PartSt → PartSt), (∀ p, h p = { p with shuf := (h p).shuf, samples := (h p).samples }) → P m → P (modPart m k h)

/-- What lies outside the reach of a stream's work. -/
def besidesStreams (m : Mod) : Mod :=
  { m with media := [], out := [], rings := [], regions := [], logs := [], syncQ := [], parts := [] }

theorem kept_besides {s : Nat} (m0 : Mod) : KeptByStreams s fun m => besidesStreams m = besidesStreams m0 where
  slot _ _ _ h := h
  aside _ _ _ h := h
  drop m d h := by
    refine Eq.trans ?_ h
    unfold dropAside
    split_ifs
    · rfl
    · rfl
  emit _ _ h := h
  ring _ _ _ h := h
  region _ _ _ _ h := h
  log _ _ _ _ h := h
  signals _ _ h := h
  pool _ _ _ _ h := h

/-- What is sent is not called back. -/
theorem kept_out {s : Nat} (o : Out) : KeptByStreams s fun m => o ∈ m.out where
  slot _ _ _ h := h
  aside _ _ _ h := h
  drop m d h := by
    unfold dropAside
    split_ifs
    · exact h
    · exact h
  emit _ _ h := List.mem_append_left _ h
  ring _ _ _ h := h
  region _ _ _ _ h := h
  log _ _ _ _ h := h
  signals _ _ h := h
  pool _ _ _ _ h := h

/-- A media die but for its slots. -/
def dieRest (m : Mod) (d : Nat) : MDie := { mdie m d with slots := [] }

theorem dieRest_slots (m : Mod) (d j : Nat) (h : Sparse Strm → Sparse Strm) :
    dieRest (modMdie m j fun x => { x with slots := h x.slots }) d = dieRest m d := by
  unfold dieRest
  rw [mdie_modMdie]
  split_ifs with hj
  · rw [hj]
  · rfl

theorem kept_dieRest {s : Nat} (d : Nat) (y : MDie) : KeptByStreams s fun m => dieRest m d = y where
  slot m j f h := (dieRest_slots m d j fun t => smod {} t s f).trans h
  aside m j f h := (dieRest_slots m d j fun t => smod {} t (asideSlot m j s) f).trans h
  drop m j h := by
    unfold dropAside
    split_ifs
    · exact h
    · exact (dieRest_slots m d j fun t => t.filter fun z => z.1 != s).trans h
  emit _ _ h := h
  ring _ _ _ h := h
  region _ _ _ _ h := h
  log _ _ _ _ h := h
  signals _ _ h := h
  pool _ _ _ _ h := h

/-- A partition but for its shuffle segments and samples. -/
def partRest (m : Mod) (k : Nat) : PartSt := { partSt m k with shuf := [], samples := [] }

theorem kept_partRest {s : Nat} (k : Nat) (p : PartSt) : KeptByStreams s fun m => partRest m k = p where
  slot _ _ _ h := h
  aside _ _ _ h := h
  drop m d h := by
    refine Eq.trans ?_ h
    unfold dropAside
    split_ifs
    · rfl
    · rfl
  emit _ _ h := h
  ring _ _ _ h := h
  region _ _ _ _ h := h
  log _ _ _ _ h := h
  signals _ _ h := h
  pool m j h hh hm := by
    subst hm
    unfold partRest
    rw [partSt_modPart]
    split_ifs with hj
    · rw [hj, hh]
    · rfl

/-- The write of a slot leaves the others. -/
theorem strm_modStrm_other {d j s n : Nat} (m : Mod) (f : Strm → Strm) (h : n ≠ s) : strm (modStrm m j s f) d n = strm m d n := by
  unfold strm modStrm
  rw [mdie_modMdie]
  split_ifs with hj
  · rw [hj, sget_smod, if_neg h]
  · rfl

/-- Another slot of the table. -/
theorem kept_otherSlot {s n : Nat} (d : Nat) (x : Strm) (hn : n < 64) (h : n ≠ s) : KeptByStreams s fun m => strm m d n = x where
  slot m j f hm := (strm_modStrm_other m f h).trans hm
  aside m j f hm := (strm_modStrm_other m f (by rw [asideSlot]; omega)).trans hm
  drop m j hm := by
    unfold dropAside
    split_ifs
    · exact hm
    · rw [strm, mdie_modMdie]
      split_ifs with hj
      · rw [sget_filter_ne, if_neg h, ← hj]
        exact hm
      · exact hm
  emit _ _ h := h
  ring _ _ _ h := h
  region _ _ _ _ h := h
  log _ _ _ _ h := h
  signals _ _ h := h
  pool _ _ _ _ h := h

/-! ## Media operations on regions -/

section
variable {P : Mod → Prop} {i : Nat}

theorem KeptByStreams.strm (m : Mod) (d s : Nat) (f : Strm → Strm) (hP : KeptByStreams s P) (hm : P m) : P (modStrm m d s f) :=
  hP.slot m d f hm

theorem KeptByStreams.mediaStep (t : Clk) (td d k e : Nat) (op : RegOp) (b : Bool) (m : Mod) (hP : KeptByStreams i P) (hm : P m) :
    P (mediaStep t td (mediaOp d k e op b) m).2 := by
  unfold Machine.mediaStep
  split
  · exact hP.log _ _ _ _ (hP.signals _ _ hm)
  · exact hP.region _ _ _ _ hm

theorem KeptByStreams.sealMedia (t : Clk) (d td k e n : Nat) (m : Mod) (hP : KeptByStreams i P) (hm : P m) : P (sealMedia t d td k e n m) := by
  have h1 := hP.mediaStep t td d k e (.seal n) false m hm
  unfold Machine.sealMedia
  split
  next heq => rw [heq] at h1; exact h1
  next heq => rw [heq] at h1; exact hP.mediaStep _ _ _ _ _ _ _ _ h1

theorem KeptByStreams.sealSeg (t : Clk) (d s : Nat) (m : Mod) (hP : KeptByStreams s P) (hm : P m) : P (sealSeg t d s m) := by
  unfold Machine.sealSeg
  dsimp only
  split
  · exact hm
  · exact hP.strm _ _ _ _ (hP.sealMedia _ _ _ _ _ _ _ hm)

theorem KeptByStreams.consume (t : Clk) (d s fuel n : Nat) (m : Mod) (hP : KeptByStreams s P) (hm : P m) : P (consume t d s fuel n m) := by
  induction fuel generalizing n m with
  | zero => exact hm
  | succ fuel ih =>
    unfold Machine.consume
    dsimp only
    split
    · exact hm
    · split_ifs
      · exact hm
      · exact ih _ _ (hP.strm _ _ _ _ (hP.mediaStep _ _ _ _ _ _ _ _ hm))
      · exact hP.strm _ _ _ _ hm

theorem KeptByStreams.freeDecoded (t : Clk) (d s : Nat) (m : Mod) (hP : KeptByStreams s P) (hm : P m) : P (freeDecoded t d s m) :=
  hP.consume _ _ _ _ _ _ (hP.sealSeg _ _ _ _ hm)

theorem KeptByStreams.closeShuffle (t : Clk) (d : Nat) (m : Mod) (hP : KeptByStreams i P) (hm : P m) : P (closeShuffle t d m) := by
  unfold Machine.closeShuffle
  dsimp only
  split_ifs
  · exact hm
  · exact hP.mediaStep _ _ _ _ _ _ _ _ (hP.pool _ _ _ (fun _ => rfl) hm)
  · exact hP.pool _ _ _ (fun _ => rfl) (hP.sealMedia _ _ _ _ _ _ _ (hP.pool _ _ _ (fun _ => rfl) hm))

/-! ## Events and control messages -/

theorem KeptByStreams.postEvent (t : Clk) (d s why : Nat) (m : Mod) (hP : KeptByStreams s P) (hm : P m) : P (postEvent t d s why m) := by
  unfold Machine.postEvent
  dsimp only
  split_ifs
  · exact hP.strm _ _ _ _ hm
  · exact hP.ring _ _ _ hm
  · exact hP.emit _ _ (hP.ring _ _ _ hm)

theorem KeptByStreams.enterState (t : Clk) (d s : Nat) (st : SSt) (why : Nat) (m : Mod) (hP : KeptByStreams s P) (hm : P m) : P (enterState t d s st why m) :=
  hP.postEvent _ _ _ _ _ (hP.strm _ _ _ _ hm)

theorem KeptByStreams.sendCtl (d s typ : Nat) (pl : List Byte) (m : Mod) (hP : KeptByStreams s P) (hm : P m) : P (sendCtl d s typ pl m) :=
  hP.emit _ _ (hP.strm _ _ _ _ hm)

theorem KeptByStreams.sendClose (t : Clk) (d s why code : Nat) (m : Mod) (hP : KeptByStreams s P) (hm : P m) : P (sendClose t d s why code m) :=
  hP.sendCtl _ _ _ _ _ (hP.strm _ _ _ _ hm)

theorem KeptByStreams.sendPause (t : Clk) (d s : Nat) (pl : List Byte) (m : Mod) (hP : KeptByStreams s P) (hm : P m) : P (sendPause t d s pl m) :=
  hP.sendCtl _ _ _ _ _ (hP.strm _ _ _ _ hm)

/-! ## Pauses -/

theorem KeptByStreams.pauseFor (t : Clk) (d s why : Nat) (m : Mod) (hP : KeptByStreams s P) (hm : P m) : P (pauseFor t d s why m) := by
  unfold Machine.pauseFor
  dsimp only
  split_ifs
  · exact hP.enterState _ _ _ _ _ _ (hP.sendPause _ _ _ _ _ (hP.strm _ _ _ _ (hP.sealSeg _ _ _ _ hm)))
  · exact hP.sendPause _ _ _ _ _ (hP.strm _ _ _ _ hm)
  · exact hm

theorem KeptByStreams.checkSpace (t : Clk) (d s : Nat) (m : Mod) (hP : KeptByStreams s P) (hm : P m) : P (checkSpace t d s m) := by
  unfold Machine.checkSpace
  dsimp only
  split_ifs
  · exact hP.pauseFor _ _ _ _ _ hm
  · exact hm

theorem KeptByStreams.tryResume (t : Clk) (d s : Nat) (m : Mod) (hP : KeptByStreams s P) (hm : P m) : P (tryResume t d s m) := by
  have h1 : P (endSpace d s m) := hP.strm _ _ _ _ hm
  unfold Machine.tryResume
  dsimp only
  split_ifs
  · exact h1
  · exact hP.checkSpace _ _ _ _ (hP.enterState _ _ _ _ _ _ (hP.sendCtl _ _ _ _ _ (hP.strm _ _ _ _ h1)))

/-! ## The end of a stream -/

theorem KeptByStreams.toClosed (t : Clk) (d s : Nat) (m : Mod) (hP : KeptByStreams s P) (hm : P m) : P (toClosed t d s m) := by
  have h1 := hP.strm _ d s (fun x => if x.segs.isEmpty ∧ (x.st = .closed ∨ x.st = .error ∨ x.st = .disabled) then { x with pool := 0 } else x)
    (hP.closeShuffle t d _ (hP.enterState t d s .closed 0 _ (hP.strm m d s noPause hm)))
  unfold Machine.toClosed
  dsimp only
  split
  · exact hP.enterState _ _ _ _ _ _ (hP.strm _ _ _ _ (hP.enterState _ _ _ _ _ _ h1))
  · split_ifs
    · exact h1
    · exact hP.enterState _ _ _ _ _ _ h1

theorem KeptByStreams.dropAside (d s : Nat) (m : Mod) (hP : KeptByStreams s P) (hm : P m) : P (dropAside d s m) := by
  exact hP.drop m d hm

theorem KeptByStreams.tryDrained (t : Clk) (d s : Nat) (m : Mod) (hP : KeptByStreams s P) (hm : P m) : P (tryDrained t d s m) := by
  unfold Machine.tryDrained
  dsimp only
  split_ifs
  · exact hm
  · exact hP.dropAside _ _ _ (hP.closeShuffle _ _ _ (hP.strm _ _ _ _ (hP.freeDecoded _ _ _ _ hm)))
  · exact hP.strm _ _ _ _ (hP.freeDecoded _ _ _ _ hm)
  · exact hP.toClosed _ _ _ _ (hP.freeDecoded _ _ _ _ hm)
  · exact hm

theorem KeptByStreams.setAside (d s : Nat) (m : Mod) (hP : KeptByStreams s P) (hm : P m) : P (setAside d s m) := by
  unfold Machine.setAside
  dsimp only
  refine hP.strm _ _ _ _ ?_
  split_ifs
  · exact hm
  · exact hP.aside _ _ _ hm

theorem KeptByStreams.leaveError (t : Clk) (d s : Nat) (m : Mod) (hP : KeptByStreams s P) (hm : P m) : P (leaveError t d s m) := by
  have h1 := hP.enterState t d s .disabled 0 _ (hP.setAside d s m hm)
  unfold Machine.leaveError
  dsimp only
  split
  · exact hP.enterState _ _ _ _ _ _ (hP.strm _ _ _ _ h1)
  · exact h1

theorem KeptByStreams.enterError (t : Clk) (d s : Nat) (m : Mod) (hP : KeptByStreams s P) (hm : P m) : P (enterError t d s m) := by
  have h1 := hP.tryDrained t d s _ (hP.enterState t d s .error 0 m hm)
  unfold Machine.enterError
  dsimp only
  split_ifs
  · exact h1
  · exact hP.leaveError _ _ _ _ h1

theorem KeptByStreams.demuxError (t : Clk) (d s : Nat) (m : Mod) (hP : KeptByStreams s P) (hm : P m) : P (demuxError t d s m) := by
  unfold Machine.demuxError
  split_ifs
  · exact hm
  · exact hP.enterError _ _ _ _ (hP.strm _ _ _ _ (hP.sealSeg _ _ _ _ hm))

theorem KeptByStreams.beginDrain (t : Clk) (d s final : Nat) (m : Mod) (hP : KeptByStreams s P) (hm : P m) : P (beginDrain t d s final m) :=
  hP.tryDrained _ _ _ _ (hP.enterState _ _ _ _ _ _ (hP.strm _ _ _ _ (hP.sealSeg _ _ _ _ hm)))

theorem KeptByStreams.reclaimSegs (d s : Nat) (m : Mod) (hP : KeptByStreams s P) (hm : P m) : P (reclaimSegs d s m) := by
  unfold Machine.reclaimSegs
  exact hP.strm _ _ _ _ (List.foldlRecOn (motive := P) _ _ hm fun m h e _ => hP.region _ _ _ _ h)

theorem KeptByStreams.scrubClose (t : Clk) (d s : Nat) (m : Mod) (hP : KeptByStreams s P) (hm : P m) : P (scrubClose t d s m) := by
  have h1 := hP.sendClose t d s 3 0 m hm
  unfold Machine.scrubClose
  dsimp only
  refine hP.toClosed _ _ _ _ (hP.reclaimSegs _ _ _ ?_)
  split_ifs
  · exact h1
  · exact hP.enterState _ _ _ _ _ _ (hP.strm _ _ _ _ h1)

theorem KeptByStreams.scrubLimit (t : Clk) (d s : Nat) (m : Mod) (hP : KeptByStreams s P) (hm : P m) : P (scrubLimit t d s m) := by
  unfold Machine.scrubLimit
  dsimp only
  split_ifs
  · exact hP.scrubClose _ _ _ _ hm
  · exact hm

end

/-! ## The slot itself -/

theorem strm_emit (o : Out) (m : Mod) (d s : Nat) : strm (emit o m) d s = strm m d s := rfl

theorem strm_mediaStep (t : Clk) (td j k e : Nat) (op : RegOp) (b : Bool) (m : Mod) (d s : Nat) :
    strm (mediaStep t td (mediaOp j k e op b) m).2 d s = strm m d s := by
  unfold mediaStep
  split <;> rfl

theorem strm_sealMedia (t : Clk) (j td k e n : Nat) (m : Mod) (d s : Nat) : strm (sealMedia t j td k e n m) d s = strm m d s := by
  have h1 := strm_mediaStep t td j k e (.seal n) false m d s
  unfold sealMedia
  split
  next heq => rw [heq] at h1; exact h1
  next heq => rw [heq] at h1; exact (strm_mediaStep ..).trans h1

theorem strm_sealSeg (t : Clk) (d s : Nat) (m : Mod) : strm (sealSeg t d s m) d s = { strm m d s with cur := none } := by
  unfold sealSeg
  dsimp only
  split
  next h => rw [← h]
  next => rw [strm_modStrm, strm_sealMedia]

theorem strm_closeShuffle (t : Clk) (j : Nat) (m : Mod) (d s : Nat) : strm (closeShuffle t j m) d s = strm m d s := by
  have hpart : ∀ m k h, strm (modPart m k h) d s = strm m d s := fun _ _ _ => rfl
  unfold closeShuffle
  dsimp only
  split_ifs
  · rfl
  · rw [strm_mediaStep, hpart]
  · rw [hpart, strm_sealMedia, hpart]

theorem strm_postEvent (t : Clk) (d s why : Nat) (m : Mod) : ∃ e, strm (postEvent t d s why m) d s = { strm m d s with evDropped := e } := by
  unfold postEvent
  dsimp only
  split_ifs
  · exact ⟨_, strm_modStrm ..⟩
  · exact ⟨(strm m d s).evDropped, rfl⟩
  · exact ⟨(strm m d s).evDropped, rfl⟩

theorem strm_enterState (t : Clk) (d s : Nat) (st : SSt) (why : Nat) (m : Mod) :
    ∃ e, strm (enterState t d s st why m) d s = { strm m d s with st := st, evDropped := e } := by
  obtain ⟨e, he⟩ := strm_postEvent t d s why (modStrm m d s fun x => { x with st := st })
  exact ⟨e, by rw [enterState, he, strm_modStrm]⟩

theorem strm_sendCtl (d s typ : Nat) (pl : List Byte) (m : Mod) :
    strm (sendCtl d s typ pl m) d s = { strm m d s with ctrlTx := (strm m d s).ctrlTx + 1 } :=
  (strm_emit ..).trans (strm_modStrm ..)

/-- A new control message bears the next number, and goes to the stream's source. -/
theorem out_sendCtl (d s typ : Nat) (pl : List Byte) (m : Mod) :
    (sendCtl d s typ pl m).out = m.out ++ [.isf d (strm m d s).src (strm m d s).srcPort (isfMsg typ (strm m d s).id ((strm m d s).ctrlTx + 1) pl)] := by
  simp only [sendCtl, toSource, strm_modStrm]
  rfl

/-- The first CLOSE of the module, as its repeats will be. -/
def closing (t : Clk) (pl : List Byte) (x : Strm) : Strm :=
  { x with
    ctrlTx := x.ctrlTx + 1, closeLeft := 7, closePl := pl, closeCtrl := x.ctrlTx + 1, closeId := x.id, closeTo := x.src
    closePort := x.srcPort, closeAt := t.now, resumeAt := none }

theorem strm_sendClose (t : Clk) (d s why code : Nat) (m : Mod) :
    strm (sendClose t d s why code m) d s = closing t (closePayload why code (strm m d s).highest) (strm m d s) := by
  simp only [sendClose, strm_sendCtl, strm_modStrm, closing]

theorem out_sendClose (t : Clk) (d s why code : Nat) (m : Mod) :
    .isf d (strm m d s).src (strm m d s).srcPort
      (isfMsg 6 (strm m d s).id ((strm m d s).ctrlTx + 1) (closePayload why code (strm m d s).highest)) ∈ (sendClose t d s why code m).out := by
  simp only [sendClose, out_sendCtl, strm_modStrm]
  exact List.mem_append_right _ (List.mem_singleton.2 rfl)

/-- What a stream has once its end has begun: the state, the landing segments and what is decoded of them, the pauses and the
profile may change; the rest stays. -/
def drainRest (x : Strm) : Strm :=
  { x with
    st := .disabled, evDropped := 0, cur := none, segs := [], undecoded := 0, taken := 0, pool := 0
    pauseSpace := false, pauseHost := false, pauseScrub := false, profile := [], nextProfile := none }

theorem drainRest_enterState (t : Clk) (d s : Nat) (st : SSt) (why : Nat) (m : Mod) :
    drainRest (strm (enterState t d s st why m) d s) = drainRest (strm m d s) := by
  obtain ⟨e, he⟩ := strm_enterState t d s st why m
  rw [he]
  rfl

theorem drainRest_endCommit (d s : Nat) (m : Mod) : drainRest (strm (endCommit d s m) d s) = drainRest (strm m d s) := by
  rw [endCommit, strm_modStrm]
  split_ifs <;> rfl

theorem strm_consume (t : Clk) (d s fuel n : Nat) (m : Mod) : ∃ segs u k,
    strm (consume t d s fuel n m) d s = { strm m d s with segs := segs, undecoded := u, taken := k } := by
  induction fuel generalizing n m with
  | zero => exact ⟨_, _, _, rfl⟩
  | succ fuel ih =>
    unfold consume
    dsimp only
    split
    · exact ⟨_, _, _, rfl⟩
    · split_ifs
      · exact ⟨_, _, _, rfl⟩
      · obtain ⟨segs, u, k, h⟩ := ih (n - min n _) (modStrm (mediaStep t _ (mediaOp d _ _ .done false) m).2 d s _)
        rw [h, strm_modStrm, strm_mediaStep]
        exact ⟨segs, u, k, rfl⟩
      · rw [strm_modStrm]
        exact ⟨_, _, _, rfl⟩

theorem strm_freeDecoded (t : Clk) (d s : Nat) (m : Mod) : ∃ segs u k,
    strm (freeDecoded t d s m) d s = { strm m d s with cur := none, segs := segs, undecoded := u, taken := k } := by
  obtain ⟨segs, u, k, h⟩ := strm_consume t d s ((strm (sealSeg t d s m) d s).segs.length + 1) 0 (sealSeg t d s m)
  exact ⟨segs, u, k, by rw [freeDecoded, h, strm_sealSeg]⟩

theorem drainRest_freeDecoded (t : Clk) (d s : Nat) (m : Mod) : drainRest (strm (freeDecoded t d s m) d s) = drainRest (strm m d s) := by
  obtain ⟨_, _, _, h⟩ := strm_freeDecoded t d s m
  rw [h]
  rfl

theorem drainRest_toClosed (t : Clk) (d s : Nat) (m : Mod) : drainRest (strm (toClosed t d s m) d s) = drainRest (strm m d s) := by
  have h1 : drainRest (strm (endCommit d s (closeShuffle t d (enterState t d s .closed 0 (modStrm m d s noPause)))) d s) = drainRest (strm m d s) := by
    rw [drainRest_endCommit, strm_closeShuffle, drainRest_enterState, strm_modStrm]
    rfl
  unfold toClosed
  generalize endCommit d s _ = m1 at h1
  dsimp only
  split
  next b _ =>
    have h2 : ∀ x : Strm, drainRest { x with profile := b, nextProfile := none } = drainRest x := fun _ => rfl
    rw [drainRest_enterState, strm_modStrm, h2, drainRest_enterState, h1]
  next =>
    split_ifs
    · exact h1
    · rw [drainRest_enterState, h1]

/-- A stream that has a slot of its own keeps all but that. -/
theorem drainRest_tryDrained (t : Clk) (d s : Nat) (m : Mod) (hs : s < 64) :
    drainRest (strm (tryDrained t d s m) d s) = drainRest (strm m d s) := by
  unfold tryDrained
  dsimp only
  split_ifs
  · rfl
  · rw [dropAside, if_pos hs, strm_closeShuffle, drainRest_endCommit, drainRest_freeDecoded]
  · rw [drainRest_endCommit, drainRest_freeDecoded]
  · rw [drainRest_toClosed, drainRest_freeDecoded]
  · rfl

/-! ## Closed, with no profile waiting -/

/-- The commitment of the pool is ended or not. -/
theorem strm_endCommit (d s : Nat) (m : Mod) : ∃ p, strm (endCommit d s m) d s = { strm m d s with pool := p } := by
  rw [endCommit, strm_modStrm]
  split_ifs
  · exact ⟨_, rfl⟩
  · exact ⟨_, rfl⟩

theorem streamEn_of_besides {m m' : Mod} (h : besidesStreams m' = besidesStreams m) (d s : Nat) : streamEn m' d s = streamEn m d s := by
  have h' := congrArg (fun u : Mod => streamEn u d s) h
  exact h'

theorem mem_of_besides {m m' : Mod} (h : besidesStreams m' = besidesStreams m) : m'.mem = m.mem := by
  have h' := congrArg Mod.mem h
  exact h'

/-- CLOSED, or at once DISABLED while EN is 0. -/
theorem strm_toClosed (t : Clk) (d s : Nat) (m : Mod) (hn : (strm m d s).nextProfile = none) : ∃ e p,
    strm (toClosed t d s m) d s
      = { noPause (strm m d s) with st := if streamEn m d s then .closed else .disabled, evDropped := e, pool := p } := by
  have hb := (kept_besides m).strm _ d s (fun x => if x.segs.isEmpty ∧ (x.st = .closed ∨ x.st = .error ∨ x.st = .disabled) then { x with pool := 0 } else x)
    ((kept_besides (s := s) m).closeShuffle t d _ ((kept_besides m).enterState t d s .closed 0 _ ((kept_besides m).strm m d s noPause rfl)))
  have hen := streamEn_of_besides hb d s
  obtain ⟨e, he⟩ := strm_enterState t d s .closed 0 (modStrm m d s noPause)
  obtain ⟨p, hp⟩ := strm_endCommit d s (closeShuffle t d (enterState t d s .closed 0 (modStrm m d s noPause)))
  rw [strm_closeShuffle, he, strm_modStrm] at hp
  unfold toClosed
  dsimp only
  rw [hp]
  dsimp only [noPause]
  rw [hn]
  dsimp only
  change streamEn (endCommit d s _) d s = _ at hen
  rw [hen]
  split_ifs with h
  · exact ⟨e, p, by rw [hp, noPause, hn]⟩
  · obtain ⟨e', he'⟩ := strm_enterState t d s .disabled 0 (endCommit d s (closeShuffle t d (enterState t d s .closed 0 (modStrm m d s noPause))))
    exact ⟨e', p, by rw [he', hp, noPause, hn]⟩

end Sys2Proof.Machine
end

/-! # The port of a media die, repeats and the end of an idle stream (R432 to R453, R561) -/

section
namespace Sys2Proof.Machine

theorem ingestUp_closed {m : Mod} (h : ingestUp m = true) : ¬ ¬ ingestUp m = true := not_not_intro h

/-- A frame changes the drop counters of its die alone. -/
theorem frameIn_up {d : Nat} {x : Frame} {m : Mod} (h : ingestUp m = true) : frameIn d x m = modMdie m d fun y =>
    let y := { y with fec := sat64 y.fec x.fecCorr }
    if x.etherType ≠ 0x86DD ∨ x.bytes > 9216 ∨ x.extHeaders ∨ x.fragment then { y with frames := sat64 y.frames 1 }
    else if x.udp ∧ (¬ x.checksumOk ∨ x.dstPort.toNat ≠ udpPort m d) then { y with dgrams := sat64 y.dgrams 1 }
    else y := by
  rw [frameIn, if_neg (ingestUp_closed h)]

theorem icmpIn_own {d : Nat} {echo : Bool} {m : Mod} (h : ingestUp m = true) :
    icmpIn d echo (netAddr m d) m = emit (.icmp d echo (netAddr m d)) m := if_pos ⟨h, rfl⟩

theorem icmpIn_other {d : Nat} {echo : Bool} {target : List Byte} {m : Mod} (h : target ≠ netAddr m d) : icmpIn d echo target m = m :=
  if_neg fun hh => h hh.2

theorem exec_neighborSolicitation (d : Media) (target : List Byte) (s : State) :
    exec (.neighborSolicitation d target) s = .next { s with m := icmpIn d.val false target s.m } := rfl

theorem exec_echoRequest (d : Media) (target : List Byte) (s : State) :
    exec (.echoRequest d target) s = .next { s with m := icmpIn d.val true target s.m } := rfl

theorem strm_repeatCtl (t : Clk) (d s typ ctrl : Nat) (pl : List Byte) (m : Mod) :
    strm (repeatCtl t d s typ ctrl pl m) d s = { strm m d s with lastTx := t.now } :=
  (strm_emit ..).trans (strm_modStrm ..)

/-- A repeat bears the number of the message it repeats. -/
theorem out_repeatCtl (t : Clk) (d s typ ctrl : Nat) (pl : List Byte) (m : Mod) : (repeatCtl t d s typ ctrl pl m).out
    = m.out ++ [.isf d (strm m d s).src (strm m d s).srcPort (isfMsg typ (strm m d s).id ctrl pl)] := by
  simp only [repeatCtl, toSource, strm_modStrm]
  rfl

theorem pauseRepeat_due {d s : Nat} {t : Clk} {m : Mod} (h : ingestUp m = true) (hlast : (strm m d s).lastTx + 16000 ≤ t.now)
    (hst : (strm m d s).st = .paused) :
    pauseRepeat d s t m = repeatCtl t d s 4 (strm m d s).pauseCtrl (strm m d s).pausePl m := by
  refine if_neg ?_
  rintro (hn | hn | hn)
  · exact hn h
  · exact hn hst
  · simp only [usTicks] at hn
    omega

theorem resumeRepeat_due {d s seq at_ : Nat} {t : Clk} {m : Mod} (hr : (strm m d s).resumeAt = some (seq, at_))
    (hlast : (strm m d s).lastTx + 16000 ≤ t.now) (hat : t.now < at_ + 1600000) :
    resumeRepeat d s t m = repeatCtl t d s 5 (strm m d s).resumeCtrl (resumePayload seq) m := by
  unfold resumeRepeat
  dsimp only
  rw [hr]
  dsimp only
  rw [if_neg (by simp only [usTicks]; omega), if_neg (by simp only [usTicks]; omega)]

theorem resumeRepeat_over {d s seq at_ : Nat} {t : Clk} {m : Mod} (hr : (strm m d s).resumeAt = some (seq, at_))
    (hat : at_ + 1600000 ≤ t.now) : resumeRepeat d s t m = modStrm m d s fun y => { y with resumeAt := none } := by
  unfold resumeRepeat
  dsimp only
  rw [hr]
  dsimp only
  rw [if_pos (by simp only [usTicks]; omega)]

theorem closeRepeat_due {d s : Nat} {t : Clk} {m : Mod} (h : ingestUp m = true) (hleft : (strm m d s).closeLeft ≠ 0)
    (hat : (strm m d s).closeAt + 16000 ≤ t.now) : closeRepeat d s t m
      = emit (.isf d (strm m d s).closeTo (strm m d s).closePort (isfMsg 6 (strm m d s).closeId (strm m d s).closeCtrl (strm m d s).closePl))
          (modStrm m d s fun y => { y with closeLeft := y.closeLeft - 1, closeAt := t.now }) := by
  refine if_neg ?_
  rintro (hn | hn | hn)
  · exact hn h
  · exact hleft hn
  · simp only [usTicks] at hn
    omega

theorem scrubIdle_due {d s : Nat} {t : Clk} {m : Mod} (hp : streamsPhase m d = true) (hst : (strm m d s).st = .paused)
    (hs : (strm m d s).pauseScrub = true) (hat : (strm m d s).sinceData + 1600000 ≤ t.now) : scrubIdle d s t m = scrubClose t d s m :=
  if_pos ⟨hp, hst, hs, by simpa only [usTicks] using hat⟩

theorem strm_foldl {α : Type} {d s : Nat} {f : Mod → α → Mod} (hf : ∀ m e, strm (f m e) d s = strm m d s) (l : List α) (m : Mod) :
    strm (l.foldl f m) d s = strm m d s :=
  List.foldlRecOn (motive := fun u : Mod => strm u d s = strm m d s) _ _ rfl fun u h e _ => (hf u e).trans h

theorem strm_reclaimSegs (d s : Nat) (m : Mod) : strm (reclaimSegs d s m) d s = { strm m d s with
    segs := [], cur := none, undecoded := 0, gapAt := [], ready := [], shown := [], ahead := [], hole := none, resync := none, scan := [], pool := 0 } := by
  refine (strm_modStrm ..).trans (congrArg (fun y : Strm => { y with
    segs := [], cur := none, undecoded := 0, gapAt := [], ready := [], shown := [], ahead := [], hole := none, resync := none, scan := [], pool := 0 })
    (strm_foldl ?_ _ _))
  exact fun _ _ => rfl

/-- A stream that a scrub closes while it is not draining: CLOSED or DISABLED, nothing of it left to land or to decode, and its CLOSE
with REASON 3 sent. -/
theorem scrubClose_closes (t : Clk) (d s : Nat) (m : Mod) (hst : (strm m d s).st ≠ .draining) (hn : (strm m d s).nextProfile = none) :
    (strm (scrubClose t d s m) d s).st = (if streamEn m d s then .closed else .disabled)
      ∧ (strm (scrubClose t d s m) d s).segs = [] ∧ (strm (scrubClose t d s m) d s).ahead = []
      ∧ .isf d (strm m d s).src (strm m d s).srcPort
          (isfMsg 6 (strm m d s).id ((strm m d s).ctrlTx + 1) (closePayload 3 0 (strm m d s).highest)) ∈ (scrubClose t d s m).out := by
  set m2 := enterState t d s .draining 0 (modStrm (sendClose t d s 3 0 m) d s noPause) with hm2
  have hm : scrubClose t d s m = toClosed t d s (reclaimSegs d s m2) := by
    unfold scrubClose
    dsimp only
    rw [strm_sendClose, if_neg (by exact hst)]
  have hen : streamEn (reclaimSegs d s m2) d s = streamEn m d s :=
    streamEn_of_besides ((kept_besides m).reclaimSegs _ _ _ ((kept_besides m).enterState _ _ _ _ _ _
      ((kept_besides m).strm _ _ _ _ ((kept_besides m).sendClose _ _ _ _ _ _ rfl)))) d s
  obtain ⟨e, he⟩ := strm_enterState t d s .draining 0 (modStrm (sendClose t d s 3 0 m) d s noPause)
  have hr := strm_reclaimSegs d s m2
  rw [hm2, he, strm_modStrm, strm_sendClose, ← hm2] at hr
  obtain ⟨e', p, hc⟩ := strm_toClosed t d s (reclaimSegs d s m2) (by rw [hr]; exact hn)
  have ho := kept_out (s := s) (.isf d (strm m d s).src (strm m d s).srcPort
    (isfMsg 6 (strm m d s).id ((strm m d s).ctrlTx + 1) (closePayload 3 0 (strm m d s).highest)))
  rw [hm, hc, hr, hen]
  exact ⟨rfl, rfl, rfl, ho.toClosed _ _ _ _ (ho.reclaimSegs _ _ _ (ho.enterState _ _ _ _ _ _ (ho.strm _ _ _ _ (out_sendClose ..))))⟩

end Sys2Proof.Machine

namespace Sys2Proof
open Machine

/-- Settles O53: a frame and an ICMPv6 message by their branches, a repeat by its number, and the stream that a scrub finds idle by
`scrubClose_closes`. -/
theorem portFrames : Obligations.PortFrames := by
  unfold Obligations.PortFrames
  refine ⟨fun d s hup => ⟨fun x => ?_, fun target => ⟨?_, fun h => ?_⟩⟩, fun d n s hup => ⟨fun hlast => ⟨fun hst => ?_, fun seq at_ hr hat => ?_⟩,
    fun hleft hat => ?_, fun seq at_ hr hat => ?_, fun hp hst hs hn hat => ?_⟩⟩
  · refine ⟨{ s with m := frameIn d x s.m }, rfl, rfl, ?_⟩
    simp only [frameIn_up hup, mdie_modMdie, if_true]
    refine ⟨fun e he => if_neg fun h => he (Fin.ext h), rfl, fun h => if_pos h, fun h hw => ?_, fun h hw => ?_⟩
    · rw [if_neg (by exact h), if_pos (by simpa using hw)]
    · rw [if_neg (by exact h), if_neg (by simpa using hw)]
  · rintro rfl
    exact ⟨by rw [exec_neighborSolicitation, icmpIn_own hup], by rw [exec_echoRequest, icmpIn_own hup]⟩
  · exact ⟨by rw [exec_neighborSolicitation, icmpIn_other h], by rw [exec_echoRequest, icmpIn_other h]⟩
  · exact ⟨{ s with m := pauseRepeat d n s.clk s.m }, rfl, rfl, by rw [pauseRepeat_due hup hlast hst, out_repeatCtl],
      by rw [pauseRepeat_due hup hlast hst, strm_repeatCtl]⟩
  · exact ⟨{ s with m := resumeRepeat d n s.clk s.m }, rfl, rfl, by rw [resumeRepeat_due hr hlast hat, out_repeatCtl],
      by rw [resumeRepeat_due hr hlast hat, strm_repeatCtl]⟩
  · exact ⟨{ s with m := closeRepeat d n s.clk s.m }, rfl, rfl, by rw [closeRepeat_due hup hleft hat]; rfl,
      by rw [closeRepeat_due hup hleft hat, strm_emit, strm_modStrm]⟩
  · exact ⟨{ s with m := resumeRepeat d n s.clk s.m }, rfl, by rw [resumeRepeat_over hr hat]; rfl,
      by rw [resumeRepeat_over hr hat, strm_modStrm]⟩
  · have hnot : (strm s.m d n).st ≠ .draining := by
      rw [hst]
      decide
    have h := scrubClose_closes s.clk d n s.m hnot hn
    rw [← scrubIdle_due hp hst hs hat] at h
    obtain ⟨h1, h2, h3, h4⟩ := h
    refine ⟨{ s with m := scrubIdle d n s.clk s.m }, rfl, h1, h2, h3, ?_⟩
    exact h4

end Sys2Proof
end

/-! # OFFER and its answers (R442 to R444) -/

section
namespace Sys2Proof.Machine

theorem exec_offer (d : Media) (g : Datagram) (s : State) : exec (.offer d g) s = .next { s with m := offerIn d.val g s.clk s.m } := rfl

section
variable {d : Nat} {g : Datagram} {t : Clk} {m : Mod}

/-- An OFFER that is looked at: the source's open stream answers it, or it is judged as a new one. -/
theorem offerIn_heard (hup : ingestUp m = true) (hf : fetchLevel m < 2) (hg : isfBad 2 g = false) :
    offerIn d g t m = match openOf m d g with
      | some s =>
        if scrubsDie m d then refuseOpen d s g 0x56 m
        else if (strm m d s).offer = isfPayload g then toSource d s 3 (strm m d s).acceptCtrl (strm m d s).accept m
        else refuseOpen d s g 0x55 m
      | none => if scrubsDie m d then refuseOffer d ((slotFor m d g).getD 0) g 0x56 m
        else match slotFor m d g with
        | none => refuseOffer d 0 g 0x50 m
        | some s => match offerErr m d (strm m d s) (isfPayload g) with
          | some r => refuseOffer d s g r m
          | none => acceptOffer t d s g m := by
  unfold offerIn
  rw [if_neg (by rintro (h | h) <;> [exact h hup; omega]), if_neg (by rw [hg]; decide)] <;> rfl

/-- The same OFFER gets the same refusal again. -/
theorem refuseOpen_again {s ctrl : Nat} {r : Byte} (h : (strm m d s).refused = some (isfPayload g, r, ctrl)) :
    refuseOpen d s g r m = toSource d s 3 ctrl (acceptPayload r.toNat s 0 0) m := by
  unfold refuseOpen
  dsimp only
  rw [h]
  exact if_pos ⟨rfl, rfl⟩

theorem refuseOpen_first {s : Nat} {r : Byte} (h : (strm m d s).refused = none) :
    refuseOpen d s g r m = sendCtl d s 3 (acceptPayload r.toNat s 0 0) (modStrm m d s fun y => { y with
      ctrlRx := max y.ctrlRx (isfCtrl g), refused := some (isfPayload g, r, (strm m d s).ctrlTx + 1) }) := by
  unfold refuseOpen
  dsimp only
  rw [h]
  rfl

/-- What an OFFER makes of the stream of a slot that was x: its contract, its numbers, and nothing landed. -/
structure Contracted (g : Datagram) (s : Nat) (x z : Strm) : Prop where
  profile : z.profile = x.profile
  id : z.id = isfStream g
  src : z.src = g.srcAddr
  srcPort : z.srcPort = g.srcPort
  offer : z.offer = isfPayload g
  rate : z.rate = fldBe (isfPayload g) 0 8
  restart : z.restart = fldBe (isfPayload g) 0x10 4
  v : z.v = offerV (isfPayload g)
  pool : z.pool = offerP x (offerV (isfPayload g))
  next : z.next = fldBe (isfPayload g) 0x1A 6
  highest : z.highest = fldBe (isfPayload g) 0x1A 6
  undecoded : z.undecoded = 0
  segs : z.segs = []
  accept : z.accept = acceptPayload 0 s (offerV (isfPayload g)) (offerP x (offerV (isfPayload g)))
  pauseHost : z.pauseHost = false

/-- The search for sync is no part of the contract. -/
theorem contracted_wantSync {g : Datagram} {s : Nat} {x z : Strm} (h : Contracted g s x z) : Contracted g s x (wantSync z) := by
  unfold wantSync
  split_ifs
  · exact { h with }
  · exact h

theorem ctrlTx_wantSync (x : Strm) : (wantSync x).ctrlTx = x.ctrlTx := by
  unfold wantSync
  split_ifs <;> rfl

theorem contracted_openStrm (t : Clk) (g : Datagram) (s : Nat) (x : Strm) : Contracted g s x (openStrm t g s x) := by
  unfold openStrm
  refine contracted_wantSync ?_
  constructor <;> rfl

theorem ctrlTx_openStrm (t : Clk) (g : Datagram) (s : Nat) (x : Strm) : (openStrm t g s x).ctrlTx = 0 := by
  unfold openStrm
  rw [ctrlTx_wantSync]

/-- A slot without HOLD, whose stream no host pauses. -/
theorem applyHold_idle {s : Nat} (hh : regB m (rSlot d s) 1 = false) (hp : (strm m d s).pauseHost = false) : applyHold t d s m = m := by
  unfold applyHold
  dsimp only
  rw [hh, hp, if_neg (by simp), if_neg (by simp)]

theorem hold_of_besides {m m' : Mod} (h : besidesStreams m' = besidesStreams m) (d s : Nat) :
    regB m' (rSlot d s) 1 = regB m (rSlot d s) 1 := by
  have h' := congrArg (fun u : Mod => regB u (rSlot d s) 1) h
  exact h'

/-- An accepted stream: open under the contract of its OFFER, which the answer bears. -/
theorem acceptOffer_opens (t : Clk) (d s : Nat) (g : Datagram) (m : Mod) (hh : regB m (rSlot d s) 1 = false) :
    (strm (acceptOffer t d s g m) d s).st = .opn ∧ Contracted g s (strm m d s) (strm (acceptOffer t d s g m) d s)
      ∧ .isf d g.srcAddr g.srcPort (isfMsg 3 (isfStream g) 1
          (acceptPayload 0 s (offerV (isfPayload g)) (offerP (strm m d s) (offerV (isfPayload g))))) ∈ (acceptOffer t d s g m).out := by
  have hx : strm (modStrm m d s (openStrm t g s)) d s = openStrm t g s (strm m d s) := strm_modStrm ..
  have hz := contracted_openStrm t g s (strm m d s)
  have htx := ctrlTx_openStrm t g s (strm m d s)
  rw [← hx] at hz htx
  set m1 := modStrm m d s (openStrm t g s) with hm1
  have hout := out_sendCtl d s 3 (strm m1 d s).accept m1
  have hsent := strm_sendCtl d s 3 (strm m1 d s).accept m1
  have hb : besidesStreams (sendCtl d s 3 (strm m1 d s).accept m1) = besidesStreams m :=
    (kept_besides m).sendCtl _ _ _ _ _ ((kept_besides m).strm _ _ _ _ rfl)
  have hacc : acceptOffer t d s g m = applyHold t d s (enterState t d s .opn 0 (sendCtl d s 3 (strm m1 d s).accept m1)) := rfl
  generalize sendCtl d s 3 (strm m1 d s).accept m1 = m2 at hout hsent hb hacc
  obtain ⟨e, he⟩ := strm_enterState t d s .opn 0 m2
  have hb' := (kept_besides m).enterState t d s .opn 0 m2 hb
  have ho := (kept_out (.isf d (strm m1 d s).src (strm m1 d s).srcPort
    (isfMsg 3 (strm m1 d s).id ((strm m1 d s).ctrlTx + 1) (strm m1 d s).accept))).enterState t d s .opn 0 m2
    (by rw [hout]; exact List.mem_append_right _ (List.mem_singleton.2 rfl))
  rw [hsent] at he
  rw [applyHold_idle ((hold_of_besides hb' d s).trans hh) (by rw [he]; exact hz.pauseHost)] at hacc
  rw [hz.src, hz.srcPort, hz.id, hz.accept, htx] at ho
  rw [hacc, he]
  exact ⟨rfl, { hz with }, ho⟩

end

end Sys2Proof.Machine

namespace Sys2Proof
open Machine

/-- Settles O54: the branches of `offerIn`, and the accepted stream by `acceptOffer_opens`. -/
theorem offersAnswered : Obligations.OffersAnswered := by
  unfold Obligations.OffersAnswered
  intro d g s hup hf hg o
  have hin := offerIn_heard (d := d.val) (t := s.clk) hup hf hg
  refine ⟨fun hopen hscrub => ?_, fun hopen hscrub => ⟨fun hslot => ?_, fun n hslot => ⟨fun r hr => ?_, fun hr hhold => ?_⟩⟩,
    fun n hopen => ⟨fun hscrub hsame => ?_, fun r hr => ?_⟩⟩
  · refine ⟨(slotFor s.m d g).getD 0, ?_⟩
    rw [exec_offer, hin, hopen]
    dsimp only
    rw [if_pos hscrub]
    rfl
  · rw [exec_offer, hin, hopen]
    dsimp only
    rw [if_neg (by rw [hscrub]; decide), hslot]
    rfl
  · rw [exec_offer, hin, hopen]
    dsimp only
    rw [if_neg (by rw [hscrub]; decide), hslot]
    dsimp only
    rw [hr]
    rfl
  · have hacc : offerIn d g s.clk s.m = acceptOffer s.clk d n g s.m := by
      rw [hin, hopen]
      dsimp only
      rw [if_neg (by rw [hscrub]; decide), hslot]
      dsimp only
      rw [hr]
    obtain ⟨hst, hz, ho⟩ := acceptOffer_opens s.clk d n g s.m hhold
    exact ⟨{ s with m := acceptOffer s.clk d n g s.m }, by rw [exec_offer, hacc], rfl, ho, hst, hz.id, hz.src, hz.srcPort, hz.offer,
      hz.profile, hz.rate, hz.restart, hz.v, hz.pool, hz.next, hz.highest, hz.undecoded, hz.segs⟩
  · rw [exec_offer, hin, hopen]
    dsimp only
    rw [if_neg (by rw [hscrub]; decide), if_pos hsame]
    rfl
  · have href : offerIn d g s.clk s.m = refuseOpen d n g r s.m := by
      rw [hin, hopen]
      dsimp only
      cases hscrub : scrubsDie s.m d.val with
      | true =>
        rw [if_pos rfl]
        rw [hscrub, if_pos rfl] at hr
        rw [hr]
      | false =>
        rw [hscrub, if_neg (by decide)] at hr
        rw [if_neg (by decide), if_neg hr.1, hr.2]
    refine ⟨fun ctrl hc => ?_, fun hnone => ⟨{ s with m := refuseOpen d n g r s.m }, by rw [exec_offer, href], ?_, ?_⟩⟩
    · rw [exec_offer, href, refuseOpen_again hc]
      rfl
    · rw [refuseOpen_first hnone, out_sendCtl, strm_modStrm]
      rfl
    · rw [refuseOpen_first hnone, strm_sendCtl, strm_modStrm]

end Sys2Proof
end

/-! # STREAM_CTRL: enable, disable and HOLD (R440, R451, R453) -/

section
namespace Sys2Proof.Machine

/-! ## The register -/

/-- STREAM_CTRL among the registers of the media dies: HOLD and EN. -/
def streamCtrlReg : RDef := ⟨0x1C01000, 6, 0x100000, 64, 0x40, .free, .stream, [⟨1, 1, .rw, 0⟩, ⟨0, 0, .rw, 0⟩]⟩

/-- A register of a media die, by its place `y` from the first of its family in the die. -/
theorem rdefMatch_die {r : RDef} {off i y : Nat} (hn1 : r.n1 = 6) (hs1 : r.s1 = 0x100000) (hbase : r.base + 0x100000 * i + y = off)
    (hi : i < 6) (hy : y < 0x100000) :
    rdefMatch r off = if (if r.n2 ≤ 1 then 0 else y / r.s2) < r.n2 ∧ y = (if r.n2 ≤ 1 then 0 else y / r.s2) * r.s2
      then some (i, if r.n2 ≤ 1 then 0 else y / r.s2) else none := by
  have hx : off - r.base = 0x100000 * i + y := by omega
  have hdiv : min 5 ((0x100000 * i + y) / 0x100000) = i := by omega
  have hrest : 0x100000 * i + y - i * 0x100000 = y := by omega
  have hlow : ¬ off < r.base := by omega
  rw [rdefMatch, if_neg hlow]
  simp only [hx, hn1, hs1, show ¬ 6 ≤ 1 by decide, if_false, Nat.reduceSub, hdiv, hrest]

theorem lookReg_streamCtrl (d : Media) (n : Slot) : lookReg (rSlot d n) = some (streamCtrlReg, d.val, n.val) := by
  have hd := d.isLt
  have hn := n.isLt
  have hoff : rSlot d n = 0x1C00000 + 0x100000 * d.val + (0x1000 + 0x40 * n.val) := by rw [rSlot, rMd, Nat.add_assoc]
  have hblock : blockRegs (rSlot d n) = regsMd := by
    rw [hoff, blockRegs, if_neg (by omega), if_neg (by omega), if_neg (by omega), if_neg (by omega), if_neg (by omega), if_neg (by omega),
      if_neg (by omega), if_neg (by omega), if_neg (by omega), if_pos (by omega)]
  rw [lookReg, hblock, regsMd, findReg_skip, findReg_skip, findReg_skip]
  · refine findReg_here ?_
    rw [rdefMatch_die (y := 0x40 * n.val) rfl rfl (by rw [hoff]; dsimp only; omega) hd (by omega)]
    have h64 : (if 64 ≤ 1 then 0 else 0x40 * n.val / 0x40) = n.val := by rw [if_neg (by decide)]; omega
    dsimp only
    rw [h64, if_pos (by omega)]
  · rw [rdefMatch_die (y := 0xFE0 + 0x40 * n.val) rfl rfl (by rw [hoff]; dsimp only; omega) hd (by omega)]
    dsimp only
    exact if_neg (by rw [if_neg (by decide)]; omega)
  · rw [rdefMatch_die (y := 0xFF0 + 0x40 * n.val) rfl rfl (by rw [hoff]; dsimp only; omega) hd (by omega)]
    dsimp only
    exact if_neg (by rw [if_pos (by decide)]; omega)
  · rw [rdefMatch_die (y := 0x1000 + 0x40 * n.val) rfl rfl (by rw [hoff]) hd (by omega)]
    dsimp only
    exact if_neg (by rw [if_neg (by decide)]; omega)

theorem enableBit_streamCtrl (d : Media) (n : Slot) : enableBit (rSlot d n) ⟨0, 0, .rw, 0⟩ = true := by
  have hd := d.isLt
  have hn := n.isLt
  have hoff : rSlot d n = 0x1C00000 + 0x100000 * d.val + (0x1000 + 0x40 * n.val) := by rw [rSlot, rMd, Nat.add_assoc]
  have h1 : 0x1C00000 ≤ rSlot d n ∧ rSlot d n < 0x2200000 ∧ rSlot d n % 0x100000 ≥ 0x1000 ∧ rSlot d n % 0x40 = 0 := by omega
  obtain ⟨hlo, hhi, hplace, hmod⟩ := h1
  simp [enableBit, hlo, hhi, hplace, hmod]

theorem streamEn_storeFields (d : Media) (n : Slot) (f v : Nat) (m : Mod) : streamEn (storeFields f (rSlot d n) v m) d n = streamEn m d n := by
  refine regB_storeFields_enable (lookReg_streamCtrl d n) ?_ f v m
  simp [streamCtrlReg, enableBit_streamCtrl]

theorem bit_one_congr {x y : Nat} (h : x / 2 % 2 = y / 2 % 2) : bit x 1 = bit y 1 := by simp [bit, h]

theorem bits_one (x : Nat) : bits x 1 1 = x / 2 % 2 := by simp [bits]

/-- HOLD is stored as it is written. -/
theorem hold_storeFields (d : Media) (n : Slot) (f v : Nat) (m : Mod) : regB (storeFields f (rSlot d n) v m) (rSlot d n) 1 = bit v 1 := by
  have hbar : vfBarred (rSlot d n) ⟨1, 1, .rw, 0⟩ = false := by
    have hoff : rSlot d n = 0x1C00000 + 0x100000 * d.val + (0x1000 + 0x40 * n.val) := by rw [rSlot, rMd, Nat.add_assoc]
    rw [vfBarred, if_neg (by omega), if_neg (by omega), if_neg (by omega)]
  have hskip : enableBit (rSlot d n) ⟨1, 1, .rw, 0⟩ = false := by simp [enableBit]
  have hword : regN (storeFields f (rSlot d n) v m) (rSlot d n)
      = (regN m (rSlot d n) - bits (regN m (rSlot d n)) 1 1 * 2 ^ 1 + bits v 1 1 * 2 ^ 1) % 2 ^ 64 := by
    simp only [storeFields, lookReg_streamCtrl, regN, reg_setReg_same, BitVec.toNat_ofNat, streamCtrlReg, writeFields, hbar, hskip,
      enableBit_streamCtrl]
    simp
  have hbit : bit ((regN m (rSlot d n) - bits (regN m (rSlot d n)) 1 1 * 2 ^ 1 + bits v 1 1 * 2 ^ 1) % 2 ^ 64) 1 = bit v 1 := by
    refine bit_one_congr ?_
    rw [bits_one, bits_one]
    omega
  rw [regB, hword, hbit]

/-- EN and HOLD are bits of their own. -/
theorem hold_setEnable (m : Mod) (off : Nat) (b : Bool) : regB (setBit m off 0 b) off 1 = regB m off 1 := by
  have hv : regN m off < 2 ^ 64 := (reg m off).isLt
  have hword : regN (setBit m off 0 b) off
      = (if b then regN m off - (if bit (regN m off) 0 then 2 ^ 0 else 0) + 2 ^ 0 else regN m off - (if bit (regN m off) 0 then 2 ^ 0 else 0))
        % 2 ^ 64 := by
    simp only [setBit, regN, reg_setReg_same, BitVec.toNat_ofNat]
  rw [regB, hword]
  refine bit_one_congr ?_
  rw [bit_zero]
  cases b <;> simp only [decide_eq_true_eq, if_true, Bool.false_eq_true, if_false] <;> split_ifs <;> omega

/-! ## The read of a profile -/

theorem OutsideAccess.readProfile {α : Type} {f : Mod → α} (hf : OutsideAccess f) (t : Clk) (m : Mod) (d a : Nat) :
    f (readProfile t m d a).1 = f m := by
  unfold Machine.readProfile
  dsimp only
  split
  · rfl
  · split_ifs
    · rfl
    · split
      next heq => exact of_fst heq (hf.readMem ..)
      next heq => exact of_fst heq (hf.readMem ..)

theorem outsideAccess_media : OutsideAccess (·.media) where
  engine _ _ _ := rfl
  logs _ _ := rfl
  mem _ _ := rfl
  sync _ _ := rfl
  out _ _ := rfl
  part _ _ _ _ := rfl

theorem strm_of_media {m m' : Mod} (h : m'.media = m.media) (d s : Nat) : strm m' d s = strm m d s := by
  rw [strm, mdie, h, ← mdie, ← strm]

theorem regB_of_bar0 {m m' : Mod} (h : m'.bar0 = m.bar0) (off i : Nat) : regB m' off i = regB m off i := by
  rw [regB, regN, reg, h, ← reg, ← regN, ← regB]

/-! ## EN set -/

section
variable {t : Clk} {d s : Nat} {m m1 : Mod}

theorem streamOn_unread (h : readProfile t m d (regF m (rSlot d s + 8) 0 57) = (m1, none)) :
    streamOn t d s m = modStrm m1 d s fun x => { x with reason := 0x51 } := by
  rw [streamOn, h]

theorem streamOn_refused {b : List Byte} {r : Byte} (h : readProfile t m d (regF m (rSlot d s + 8) 0 57) = (m1, some b))
    (hr : profileErr m1 d b = some r) : streamOn t d s m = modStrm m1 d s fun x => { x with reason := r } := by
  rw [streamOn, h]
  dsimp only
  rw [hr]

theorem streamOn_draining {b : List Byte} (h : readProfile t m d (regF m (rSlot d s + 8) 0 57) = (m1, some b))
    (hr : profileErr m1 d b = none) (hst : (strm m1 d s).st = .draining) :
    streamOn t d s m = modStrm (setBit m1 (rSlot d s) 0 true) d s fun x => { x with nextProfile := some b, reason := 0 } := by
  rw [streamOn, h]
  dsimp only
  rw [hr]
  exact if_pos hst

theorem streamOn_listens {b : List Byte} (h : readProfile t m d (regF m (rSlot d s + 8) 0 57) = (m1, some b))
    (hr : profileErr m1 d b = none) (hst : (strm m1 d s).st ≠ .draining) :
    streamOn t d s m = enterState t d s .listening 0 (modStrm (setBit m1 (rSlot d s) 0 true) d s fun x => { x with profile := b, reason := 0 }) := by
  rw [streamOn, h]
  dsimp only
  rw [hr]
  exact if_neg hst

/-! ## EN cleared -/

/-- What the end of a stream at a sequence number makes of it at once: bytes held beyond that number are dropped. -/
def drainUpTo (final : Nat) (y : Strm) : Strm :=
  { holdList (cutAhead final y.ahead) (noPause y) with
    final := some final, resumeAt := none, bytesDropped := sat64 y.bytesDropped (aheadBytes y.ahead - aheadBytes (cutAhead final y.ahead)) }

/-- A stream that still has something to decode begins to drain. -/
theorem strm_beginDrain {final : Nat} (hu : (strm m d s).undecoded ≠ 0) : ∃ e, strm (beginDrain t d s final m) d s
    = { drainUpTo final { strm m d s with cur := none } with st := .draining, evDropped := e } := by
  have hb : beginDrain t d s final m
      = tryDrained t d s (enterState t d s .draining 0 (modStrm (sealSeg t d s m) d s (drainUpTo final))) := rfl
  obtain ⟨e, he⟩ := strm_enterState t d s .draining 0 (modStrm (sealSeg t d s m) d s (drainUpTo final))
  rw [strm_modStrm, strm_sealSeg] at he
  generalize enterState t d s .draining 0 (modStrm (sealSeg t d s m) d s (drainUpTo final)) = m2 at hb he
  have hkeep : tryDrained t d s m2 = m2 := if_pos (Or.inl (by rw [he]; exact hu))
  exact ⟨e, by rw [hb, hkeep, he]⟩

theorem streamOff_open (hst : (strm m d s).st = .opn ∨ (strm m d s).st = .paused) : streamOff t d s m
    = beginDrain t d s (strm m d s).highest (sendClose t d s 2 0 (setBit m (rSlot d s) 0 false)) := by
  have hx : strm (setBit m (rSlot d s) 0 false) d s = strm m d s := rfl
  unfold streamOff
  dsimp only
  rw [hx]
  rcases hst with h | h
  · rw [h]
  · rw [h]

theorem streamOff_draining (hst : (strm m d s).st = .draining) :
    streamOff t d s m = modStrm (setBit m (rSlot d s) 0 false) d s fun y => { y with nextProfile := none } := by
  have hx : strm (setBit m (rSlot d s) 0 false) d s = strm m d s := rfl
  unfold streamOff
  dsimp only
  rw [hx, hst]

theorem streamOff_idle (hst : (strm m d s).st = .listening ∨ (strm m d s).st = .closed) :
    streamOff t d s m = endCommit d s (enterState t d s .disabled 0 (setBit m (rSlot d s) 0 false)) := by
  have hx : strm (setBit m (rSlot d s) 0 false) d s = strm m d s := rfl
  unfold streamOff
  dsimp only
  rw [hx]
  rcases hst with h | h
  · rw [h]
  · rw [h]

theorem streamOff_error (hst : (strm m d s).st = .error) : streamOff t d s m = leaveError t d s (setBit m (rSlot d s) 0 false) := by
  have hx : strm (setBit m (rSlot d s) 0 false) d s = strm m d s := rfl
  unfold streamOff
  dsimp only
  rw [hx, hst]

theorem strm_setAside (d s : Nat) (m : Mod) : strm (setAside d s m) d s = slotRest (strm m d s) := by
  have hother : ∀ n x, n ≠ s → strm (modStrm m d n x) d s = strm m d s := by
    intro n x hn
    simp only [strm, modStrm, mdie_modMdie, if_true]
    exact (sget_smod ..).trans (if_neg hn.symm)
  have haside : asideSlot m d s ≠ s := by rw [asideSlot]; omega
  unfold setAside
  dsimp only
  rw [strm_modStrm]
  split_ifs
  · rfl
  · rw [hother _ _ haside]

/-- A stream that leaves ERROR, with no profile waiting: the slot is disabled. -/
theorem strm_leaveError (hn : (strm m d s).nextProfile = none) :
    ∃ e, strm (leaveError t d s m) d s = { slotRest (strm m d s) with st := .disabled, evDropped := e } := by
  obtain ⟨e, he⟩ := strm_enterState t d s .disabled 0 (setAside d s m)
  have hl : leaveError t d s m = enterState t d s .disabled 0 (setAside d s m) := by
    unfold leaveError
    dsimp only
    rw [hn]
  exact ⟨e, by rw [hl, he, strm_setAside]⟩

/-! ## HOLD -/

/-- The host's pause of an open stream: its segment sealed, the limit set by its reserve, and the PAUSE sent. -/
theorem pauseHost_pauses (hst : (strm m d s).st = .opn) :
    (strm (pauseFor t d s 2 m) d s).st = .paused ∧ (strm (pauseFor t d s 2 m) d s).pauseHost = true
      ∧ (strm (pauseFor t d s 2 m) d s).limit = (strm m d s).highest + (strm m d s).v
      ∧ .isf d (strm m d s).src (strm m d s).srcPort (isfMsg 4 (strm m d s).id ((strm m d s).ctrlTx + 1)
          (pausePayload 2 (strm m d s).highest ((strm m d s).highest + (strm m d s).v))) ∈ (pauseFor t d s 2 m).out := by
  set pl := pausePayload 2 (strm m d s).highest ((strm m d s).highest + (strm m d s).v) with hpl
  set m1 := modStrm (sealSeg t d s m) d s fun y =>
    { y with pauseHost := true, pauseSeq := y.highest, limit := y.highest + y.v, resumeAt := none } with hm1
  have hx : strm m1 d s = { strm m d s with
      cur := none, pauseHost := true, pauseSeq := (strm m d s).highest, limit := (strm m d s).highest + (strm m d s).v, resumeAt := none } := by
    rw [hm1, strm_modStrm, strm_sealSeg]
  have hp : pauseFor t d s 2 m = enterState t d s .paused 2 (sendPause t d s pl m1) := if_pos hst
  obtain ⟨e, he⟩ := strm_enterState t d s .paused 2 (sendPause t d s pl m1)
  rw [sendPause, strm_sendCtl, strm_modStrm, hx] at he
  have ho : .isf d (strm m d s).src (strm m d s).srcPort (isfMsg 4 (strm m d s).id ((strm m d s).ctrlTx + 1) pl) ∈ (sendPause t d s pl m1).out := by
    rw [sendPause, out_sendCtl, strm_modStrm, hx]
    exact List.mem_append_right _ (List.mem_singleton.2 rfl)
  rw [hp]
  refine ⟨?_, ?_, ?_, (kept_out _).enterState _ _ _ _ _ _ ho⟩
  · rw [sendPause, he]
  · rw [sendPause, he]
  · rw [sendPause, he]

theorem checkSpace_idle (huse : poolUse (strm m d s) ≤ (strm m d s).work * (strm m d s).seg) : checkSpace t d s m = m :=
  if_neg fun h => absurd h.2 (Nat.not_lt.2 huse)

/-- A paused stream with no reason left: open again, and the RESUME sent. -/
theorem tryResume_resumes (hst : (strm m d s).st = .paused) (hs : (strm m d s).pauseSpace = false) (hh : (strm m d s).pauseHost = false)
    (hc : (strm m d s).pauseScrub = false) (huse : poolUse (strm m d s) ≤ (strm m d s).work * (strm m d s).seg) :
    (strm (tryResume t d s m) d s).st = .opn ∧ (strm (tryResume t d s m) d s).pauseHost = false
      ∧ .isf d (strm m d s).src (strm m d s).srcPort (isfMsg 5 (strm m d s).id ((strm m d s).ctrlTx + 1) (resumePayload (strm m d s).highest))
          ∈ (tryResume t d s m).out := by
  have hx : strm (endSpace d s m) d s = strm m d s := by
    rw [endSpace, strm_modStrm, if_neg (by rw [hs]; simp)]
  set m1 := modStrm (endSpace d s m) d s fun y =>
    { y with resumeAt := some (y.highest, t.now), resumeCtrl := y.ctrlTx + 1, lastTx := t.now } with hm1
  have hx1 : strm m1 d s = { strm m d s with
      resumeAt := some ((strm m d s).highest, t.now), resumeCtrl := (strm m d s).ctrlTx + 1, lastTx := t.now } := by
    rw [hm1, strm_modStrm, hx]
  obtain ⟨e, he⟩ := strm_enterState t d s .opn 0 (sendCtl d s 5 (resumePayload (strm m d s).highest) m1)
  rw [strm_sendCtl, hx1] at he
  have ho : .isf d (strm m d s).src (strm m d s).srcPort (isfMsg 5 (strm m d s).id ((strm m d s).ctrlTx + 1) (resumePayload (strm m d s).highest))
      ∈ (sendCtl d s 5 (resumePayload (strm m d s).highest) m1).out := by
    rw [out_sendCtl, hx1]
    exact List.mem_append_right _ (List.mem_singleton.2 rfl)
  have hr : tryResume t d s m = checkSpace t d s (enterState t d s .opn 0 (sendCtl d s 5 (resumePayload (strm m d s).highest) m1)) := by
    unfold tryResume
    dsimp only
    rw [hx, if_neg (by rw [hst, hs, hh, hc]; simp)]
  generalize sendCtl d s 5 (resumePayload (strm m d s).highest) m1 = m2 at he ho hr
  rw [checkSpace_idle (by rw [he]; exact huse)] at hr
  rw [hr]
  refine ⟨?_, ?_, (kept_out _).enterState _ _ _ _ _ _ ho⟩
  · rw [he]
  · rw [he]
    exact hh

end

/-! ## The write as a whole -/

section
variable {f : Func} {d : Media} {n : Slot} {v : W64} {s : State} (hw : writable s.m f (rSlot d n) = true)
include hw

theorem exec_streamEnable (hv : bit v.toNat 0 = true) (hen : streamEn s.m d n = false) : exec (.streamEnable f d n v) s
    = .next { s with m := applyHold s.clk d n (streamOn s.clk d n (storeFields f (rSlot d n) v.toNat s.m)) } := by
  have hrow : exec (.streamEnable f d n v) s = .next { s with m :=
      (if bit v.toNat 0 ∧ ¬ streamEn s.m d n then gated f (rSlot d n) (streamWrite f d n v.toNat s.clk) s.m else s.m) } := rfl
  rw [hrow, if_pos (by simp [hv, hen]), gated_of_writable _ hw, streamWrite]
  rw [if_pos (by simp [hv, hen])]

theorem exec_streamDisable (hv : bit v.toNat 0 = false) (hen : streamEn s.m d n = true) : exec (.streamDisable f d n v) s
    = .next { s with m := applyHold s.clk d n (streamOff s.clk d n (storeFields f (rSlot d n) v.toNat s.m)) } := by
  have hrow : exec (.streamDisable f d n v) s = .next { s with m :=
      (if bit v.toNat 0 then s.m else gated f (rSlot d n) (streamWrite f d n v.toNat s.clk) s.m) } := rfl
  rw [hrow, if_neg (by simp [hv]), gated_of_writable _ hw, streamWrite]
  rw [if_neg (by simp [hv]), if_pos (by simp [hv, hen])]

theorem exec_hold (hv : bit v.toNat 0 = streamEn s.m d n) : exec (.hold f d n v) s
    = .next { s with m := applyHold s.clk d n (storeFields f (rSlot d n) v.toNat s.m) } := by
  have hrow : exec (.hold f d n v) s = .next { s with m :=
      (if bit v.toNat 0 = streamEn s.m d n then gated f (rSlot d n) (streamWrite f d n v.toNat s.clk) s.m else s.m) } := rfl
  rw [hrow, if_pos hv, gated_of_writable _ hw, streamWrite]
  rw [if_neg (by simp [hv]), if_neg (by simp [hv])]

end

theorem strm_storeFields (f off v : Nat) (m : Mod) (d s : Nat) : strm (storeFields f off v m) d s = strm m d s :=
  storeFields_outside (strm · d s) (fun _ _ => rfl) ..

theorem mem_storeFields (f off v : Nat) (m : Mod) : (storeFields f off v m).mem = m.mem :=
  storeFields_outside (·.mem) (fun _ _ => rfl) ..

theorem streamEn_setEnable (m : Mod) (d s : Nat) (b : Bool) : streamEn (setBit m (rSlot d s) 0 b) d s = b :=
  regB_setBit_same _ _ (by decide) b

section
variable {t : Clk} {d s : Nat} {m : Mod}

/-- A slot that works on streams and registers leave under a HOLD that is off. -/
theorem applyHold_after {m' : Mod} (hb : besidesStreams m' = besidesStreams m) (hh : regB m (rSlot d s) 1 = false)
    (hp : (strm m' d s).pauseHost = false) : applyHold t d s m' = m' :=
  applyHold_idle ((hold_of_besides hb d s).trans hh) hp

/-- EN cleared on an open stream: its CLOSE with REASON 2, and the rest drains. -/
theorem streamOff_drains (hh : regB m (rSlot d s) 1 = false) (hst : (strm m d s).st = .opn ∨ (strm m d s).st = .paused)
    (hu : (strm m d s).undecoded ≠ 0) :
    let u := applyHold t d s (streamOff t d s m)
    (strm u d s).st = .draining ∧ (strm u d s).final = some (strm m d s).highest ∧ streamEn u d s = false
      ∧ .isf d (strm m d s).src (strm m d s).srcPort (isfMsg 6 (strm m d s).id ((strm m d s).ctrlTx + 1)
          (closePayload 2 0 (strm m d s).highest)) ∈ u.out ∧ u.mem = m.mem := by
  have hx : strm (setBit m (rSlot d s) 0 false) d s = strm m d s := rfl
  have hmem : (setBit m (rSlot d s) 0 false).mem = m.mem := rfl
  have hen := streamEn_setEnable m d s false
  have hh' := (hold_setEnable m (rSlot d s) false).trans hh
  rw [streamOff_open hst]
  generalize setBit m (rSlot d s) 0 false = m1 at *
  have hsent := out_sendClose t d s 2 0 m1
  have hclose := strm_sendClose t d s 2 0 m1
  have hb := (kept_besides m1).sendClose t d s 2 0 m1 rfl
  rw [hx] at hsent hclose
  generalize sendClose t d s 2 0 m1 = m2 at *
  obtain ⟨e, he⟩ := strm_beginDrain (t := t) (m := m2) (d := d) (s := s) (final := (strm m d s).highest) (by rw [hclose]; exact hu)
  have hb2 := (kept_besides m1).beginDrain t d s (strm m d s).highest m2 hb
  have ho := (kept_out _).beginDrain t d s (strm m d s).highest m2 hsent
  generalize beginDrain t d s (strm m d s).highest m2 = m3 at *
  dsimp only
  rw [applyHold_after hb2 hh' (by rw [he]; rfl), he]
  exact ⟨rfl, rfl, (streamEn_of_besides hb2 d s).trans hen, ho, (mem_of_besides hb2).trans hmem⟩

/-- EN cleared on a slot with no open stream: disabled. -/
theorem streamOff_ends (hh : regB m (rSlot d s) 1 = false) (hp : (strm m d s).pauseHost = false)
    (hst : (strm m d s).st = .listening ∨ (strm m d s).st = .closed ∨ (strm m d s).st = .error) (hn : (strm m d s).nextProfile = none) :
    let u := applyHold t d s (streamOff t d s m)
    (strm u d s).st = .disabled ∧ streamEn u d s = false ∧ u.mem = m.mem := by
  have hx : strm (setBit m (rSlot d s) 0 false) d s = strm m d s := rfl
  have hmem : (setBit m (rSlot d s) 0 false).mem = m.mem := rfl
  have hen := streamEn_setEnable m d s false
  have hh' := (hold_setEnable m (rSlot d s) false).trans hh
  have hoff : ∃ u, streamOff t d s m = u ∧ besidesStreams u = besidesStreams (setBit m (rSlot d s) 0 false)
      ∧ (strm u d s).st = .disabled ∧ (strm u d s).pauseHost = false := by
    rw [← or_assoc] at hst
    rcases hst with hidle | herr
    · obtain ⟨e, he⟩ := strm_enterState t d s .disabled 0 (setBit m (rSlot d s) 0 false)
      obtain ⟨p, hpool⟩ := strm_endCommit d s (enterState t d s .disabled 0 (setBit m (rSlot d s) 0 false))
      refine ⟨_, streamOff_idle hidle, (kept_besides _).strm _ _ _ _ ((kept_besides _).enterState _ _ _ _ _ _ rfl), ?_⟩
      rw [hpool, he]
      exact ⟨rfl, hp⟩
    · obtain ⟨e, he⟩ := strm_leaveError (t := t) (m := setBit m (rSlot d s) 0 false) (d := d) (s := s) hn
      refine ⟨_, streamOff_error herr, (kept_besides _).leaveError _ _ _ _ rfl, ?_⟩
      rw [he]
      exact ⟨rfl, rfl⟩
  obtain ⟨u, hu, hb, hdis, hpause⟩ := hoff
  generalize setBit m (rSlot d s) 0 false = m1 at *
  dsimp only
  rw [hu, applyHold_after hb hh' hpause]
  exact ⟨hdis, (streamEn_of_besides hb d s).trans hen, (mem_of_besides hb).trans hmem⟩

/-- EN cleared on a slot that drains: it drains on, and no profile waits. -/
theorem streamOff_drainsOn (hh : regB m (rSlot d s) 1 = false) (hp : (strm m d s).pauseHost = false) (hst : (strm m d s).st = .draining) :
    let u := applyHold t d s (streamOff t d s m)
    strm u d s = { strm m d s with nextProfile := none } ∧ streamEn u d s = false ∧ u.mem = m.mem := by
  have hx : strm (setBit m (rSlot d s) 0 false) d s = strm m d s := rfl
  have hmem : (setBit m (rSlot d s) 0 false).mem = m.mem := rfl
  have hen := streamEn_setEnable m d s false
  have hh' := (hold_setEnable m (rSlot d s) false).trans hh
  rw [streamOff_draining hst]
  generalize setBit m (rSlot d s) 0 false = m1 at *
  have hb := (kept_besides m1).strm m1 d s (fun y => { y with nextProfile := none }) rfl
  have hy := strm_modStrm m1 d s fun y => { y with nextProfile := none }
  rw [hx] at hy
  generalize modStrm m1 d s _ = m2 at *
  dsimp only
  rw [applyHold_after hb hh' (by rw [hy]; exact hp)]
  exact ⟨hy, (streamEn_of_besides hb d s).trans hen, (mem_of_besides hb).trans hmem⟩

/-- EN set, and the profile not to be had or not to be taken: its reason, and nothing else at the slot. -/
theorem streamOn_fails {r : Byte} {m1 : Mod} (hon : streamOn t d s m = modStrm m1 d s fun x => { x with reason := r })
    (hmedia : m1.media = m.media) (hbar : m1.bar0 = m.bar0) (hh : regB m (rSlot d s) 1 = false) (hp : (strm m d s).pauseHost = false) :
    let u := applyHold t d s (streamOn t d s m)
    (strm u d s).reason = r ∧ streamEn u d s = streamEn m d s ∧ (strm u d s).st = (strm m d s).st := by
  have hb := (kept_besides m1).strm m1 d s (fun x => { x with reason := r }) rfl
  have hy := strm_modStrm m1 d s fun x => { x with reason := r }
  have hen := streamEn_of_besides hb d s
  rw [← hon] at hb hy hen
  rw [strm_of_media hmedia] at hy
  dsimp only
  rw [applyHold_after hb ((regB_of_bar0 hbar _ _).trans hh) (by rw [hy]; exact hp), hy]
  exact ⟨rfl, hen.trans (regB_of_bar0 hbar _ _), rfl⟩

/-- EN set, and the profile taken: at once, or after a stream that still drains. -/
theorem streamOn_passes {b : List Byte} {m1 : Mod} (hread : readProfile t m d (regF m (rSlot d s + 8) 0 57) = (m1, some b))
    (herr : profileErr m1 d b = none) (hmedia : m1.media = m.media) (hbar : m1.bar0 = m.bar0) (hh : regB m (rSlot d s) 1 = false)
    (hp : (strm m d s).pauseHost = false) :
    let u := applyHold t d s (streamOn t d s m)
    streamEn u d s = true ∧ (strm u d s).reason = 0
      ∧ ((strm m d s).st ≠ .draining → (strm u d s).st = .listening ∧ (strm u d s).profile = b)
      ∧ ((strm m d s).st = .draining → (strm u d s).st = .draining ∧ (strm u d s).profile = (strm m d s).profile
          ∧ (strm u d s).nextProfile = some b) := by
  have hx1 : strm m1 d s = strm m d s := strm_of_media hmedia d s
  have hx : strm (setBit m1 (rSlot d s) 0 true) d s = strm m d s := hx1
  have hen := streamEn_setEnable m1 d s true
  have hh' := (hold_setEnable m1 (rSlot d s) true).trans ((regB_of_bar0 hbar _ _).trans hh)
  by_cases hst : (strm m d s).st = .draining
  · rw [streamOn_draining hread herr (by rw [hx1]; exact hst)]
    generalize setBit m1 (rSlot d s) 0 true = m2 at *
    have hb := (kept_besides m2).strm m2 d s (fun x => { x with nextProfile := some b, reason := 0 }) rfl
    have hy := strm_modStrm m2 d s fun x => { x with nextProfile := some b, reason := 0 }
    rw [hx] at hy
    generalize modStrm m2 d s _ = m3 at *
    dsimp only
    rw [applyHold_after hb hh' (by rw [hy]; exact hp), hy]
    exact ⟨(streamEn_of_besides hb d s).trans hen, rfl, fun h => absurd hst h, fun _ => ⟨hst, rfl, rfl⟩⟩
  · rw [streamOn_listens hread herr (by rw [hx1]; exact hst)]
    generalize setBit m1 (rSlot d s) 0 true = m2 at *
    have hb := (kept_besides m2).enterState t d s .listening 0 _ ((kept_besides m2).strm m2 d s (fun x => { x with profile := b, reason := 0 }) rfl)
    obtain ⟨e, hy⟩ := strm_enterState t d s .listening 0 (modStrm m2 d s fun x => { x with profile := b, reason := 0 })
    rw [strm_modStrm, hx] at hy
    generalize enterState t d s .listening 0 _ = m3 at *
    dsimp only
    rw [applyHold_after hb hh' (by rw [hy]; exact hp), hy]
    exact ⟨(streamEn_of_besides hb d s).trans hen, rfl, fun _ => ⟨rfl, rfl⟩, fun h => absurd h hst⟩

/-- HOLD set on an open stream. -/
theorem applyHold_pauses (hh : regB m (rSlot d s) 1 = true) (hst : (strm m d s).st = .opn) (hp : (strm m d s).pauseHost = false) :
    applyHold t d s m = pauseFor t d s 2 m := by
  refine if_pos ⟨hh, ?_, Or.inl hst⟩
  rw [hp]
  decide

/-- HOLD cleared on a stream that the host pauses. -/
theorem applyHold_resumes (hh : regB m (rSlot d s) 1 = false) (hp : (strm m d s).pauseHost = true) :
    applyHold t d s m = tryResume t d s (modStrm m d s fun y => { y with pauseHost := false }) := by
  unfold applyHold
  dsimp only
  rw [if_neg (by rw [hh]; simp), if_pos (by rw [hh, hp]; decide)]

end

end Sys2Proof.Machine

namespace Sys2Proof
open Machine

/-- Settles O56: what setting and clearing EN and HOLD make of the slot, after the fields of the write are stored. -/
theorem streamControl : Obligations.StreamControl := by
  unfold Obligations.StreamControl
  intro f d n v s hw
  have hx := strm_storeFields f (rSlot d n) v.toNat s.m d n
  have hhold := hold_storeFields d n f v.toNat s.m
  have hen := streamEn_storeFields d n f v.toNat s.m
  have hmem := mem_storeFields f (rSlot d n) v.toNat s.m
  refine ⟨fun hv hv1 hoff hp => ?enable, fun hv hv1 hon hp => ⟨fun hst hu => ?drains, fun hst hn => ?ends, fun hst => ?keeps⟩,
    fun hv => ⟨fun hv1 hst hp => ?pauses, fun hv1 hst hp hs hc huse => ?resumes⟩⟩
  case enable =>
    have hrow := exec_streamEnable hw hv hoff
    generalize storeFields f (rSlot d n) v.toNat s.m = m1 at *
    have hmedia := outsideAccess_media.readProfile s.clk m1 d (regF m1 (rSlot d n + 8) 0 57)
    have hbar := outsideAccess_bar0.readProfile s.clk m1 d (regF m1 (rSlot d n + 8) 0 57)
    refine ⟨_, hrow, rfl, fun hnone => ?_, fun b hb => ⟨fun e he => ?_, fun he => ?_⟩⟩
    · obtain ⟨hr, he, hst⟩ := streamOn_fails (streamOn_unread (Prod.ext rfl hnone)) hmedia hbar (hhold.trans hv1) (by rw [hx]; exact hp)
      exact ⟨hr, he.trans (hen.trans hoff), by rw [hst, hx]⟩
    · obtain ⟨hr, he, hst⟩ := streamOn_fails (streamOn_refused (Prod.ext rfl hb) he) hmedia hbar (hhold.trans hv1) (by rw [hx]; exact hp)
      exact ⟨hr, he.trans (hen.trans hoff), by rw [hst, hx]⟩
    · have h := streamOn_passes (Prod.ext rfl hb) he hmedia hbar (hhold.trans hv1) (by rw [hx]; exact hp)
      rw [hx] at h
      exact h
  case drains =>
    have hrow := exec_streamDisable hw hv hon
    generalize storeFields f (rSlot d n) v.toNat s.m = m1 at *
    have h := streamOff_drains (t := s.clk) (hhold.trans hv1) (by rw [hx]; exact hst) (by rw [hx]; exact hu)
    rw [hx, hmem] at h
    exact ⟨_, hrow, h⟩
  case ends =>
    have hrow := exec_streamDisable hw hv hon
    generalize storeFields f (rSlot d n) v.toNat s.m = m1 at *
    have h := streamOff_ends (t := s.clk) (hhold.trans hv1) (by rw [hx]; exact hp) (by rw [hx]; exact hst) (by rw [hx]; exact hn)
    rw [hmem] at h
    exact ⟨_, hrow, h⟩
  case keeps =>
    have hrow := exec_streamDisable hw hv hon
    generalize storeFields f (rSlot d n) v.toNat s.m = m1 at *
    have h := streamOff_drainsOn (t := s.clk) (hhold.trans hv1) (by rw [hx]; exact hp) (by rw [hx]; exact hst)
    rw [hx, hmem] at h
    exact ⟨_, hrow, h⟩
  case pauses =>
    have hrow := exec_hold hw hv
    generalize storeFields f (rSlot d n) v.toNat s.m = m1 at *
    rw [applyHold_pauses (hhold.trans hv1) (by rw [hx]; exact hst) (by rw [hx]; exact hp)] at hrow
    have h := pauseHost_pauses (t := s.clk) (m := m1) (d := d) (s := n) (by rw [hx]; exact hst)
    rw [hx] at h
    exact ⟨_, hrow, h⟩
  case resumes =>
    have hrow := exec_hold hw hv
    generalize storeFields f (rSlot d n) v.toNat s.m = m1 at *
    rw [applyHold_resumes (hhold.trans hv1) (by rw [hx]; exact hp)] at hrow
    have hy : strm (modStrm m1 d n fun y => { y with pauseHost := false }) d n = { strm s.m d n with pauseHost := false } := by
      rw [strm_modStrm, hx]
    have h := tryResume_resumes (t := s.clk) (m := modStrm m1 d n fun y => { y with pauseHost := false }) (d := d) (s := n)
      (by rw [hy]; exact hst) (by rw [hy]; exact hs) (by rw [hy]) (by rw [hy]; exact hc) (by rw [hy]; exact huse)
    rw [hy] at h
    exact ⟨_, hrow, h⟩

end Sys2Proof
end

/-! # Pictures, samples and draws (R457, R467 to R470) -/

section
namespace Sys2Proof.Machine

/-! ## The leave of a core -/

/-- What a core's request for leave leaves: all but power, the numbers of work and the leaves of the die's cores. -/
theorem coreReady_outside {α : Type} (f : Mod → α) (hgov : ∀ m g h, f (modGov m g h) = f m) (hid : ∀ m n, f { m with nextId := n } = f m)
    (hdie : ∀ m d (h : MDie → Sparse Nat), f (modMdie m d fun x => { x with coreLeave := h x }) = f m) (d core : Nat) (m : Mod) : f (coreReady d core m).2 = f m := by
  have hreq : ∀ g id level units m, f (requestLeave m g id level units).2 = f m := by
    intro g id level units m
    unfold requestLeave
    split_ifs
    · exact hgov ..
    · exact hgov ..
  unfold coreReady
  dsimp only
  split_ifs
  · rfl
  · exact (hdie ..).trans ((hreq ..).trans (hid ..))

theorem strm_coreReady (d core : Nat) (m : Mod) (j s : Nat) : strm (coreReady d core m).2 j s = strm m j s := by
  refine coreReady_outside (strm · j s) (fun _ _ _ => rfl) (fun _ _ => rfl) (fun m i h => ?_) d core m
  unfold strm
  rw [mdie_modMdie]
  split_ifs with hj
  · rw [hj]
  · rfl

theorem mem_coreReady (d core : Nat) (m : Mod) : (coreReady d core m).2.mem = m.mem :=
  coreReady_outside (·.mem) (fun _ _ _ => rfl) (fun _ _ => rfl) (fun _ _ _ => rfl) d core m

theorem streamEn_coreReady (d core : Nat) (m : Mod) (j s : Nat) : streamEn (coreReady d core m).2 j s = streamEn m j s :=
  coreReady_outside (streamEn · j s) (fun _ _ _ => rfl) (fun _ _ => rfl) (fun _ _ _ => rfl) d core m

/-- A core that works from now on. -/
def coreStarts (d core now : Nat) (m : Mod) : Mod := modMdie m d fun y => { y with coreSince := sset 0 y.coreSince core now }

theorem strm_coreStarts (d core now : Nat) (m : Mod) (s : Nat) : strm (coreStarts d core now m) d s = strm m d s := by
  unfold strm coreStarts
  rw [mdie_modMdie, if_pos rfl]

theorem since_coreStarts (d core now : Nat) (m : Mod) : sget 0 (dieRest (coreStarts d core now m) d).coreSince core = now := by
  unfold dieRest coreStarts
  rw [mdie_modMdie, if_pos rfl]
  exact sget_sset_same ..

/-! ## The picture -/

section
variable {t : Clk} {d s0 : Nat} {p : Picture} {m : Mod}

theorem decodePicture_waits (h : coreSwitches m d (Config.coreOf d s0 % 8) p = true ∨ regionsWait m (landDie (strm m d (workSlot m d s0)) d) = true) :
    decodePicture d s0 p t m = m := by
  refine if_pos ?_
  rcases h with h | h
  · exact Or.inr (Or.inr (Or.inr (Or.inl h)))
  · exact Or.inr (Or.inr (Or.inr (Or.inr h)))

section
variable {s : Nat} (hs : workSlot m d s0 = s) (hup : ingestUp m = true) (hsealed : sealedBytes (strm m d s) ≠ 0)
  (hstops : decoderStops t d s m = false) (hsw : coreSwitches m d (Config.coreOf d s0 % 8) p = false)
  (hwait : regionsWait m (landDie (strm m d s) d) = false)
include hs hup hsealed hstops hsw hwait

/-- What keeps a decoder from its picture is not there. -/
theorem decodePicture_free : ¬ (¬ ingestUp m = true ∨ sealedBytes (strm m d (workSlot m d s0)) = 0 ∨ decoderStops t d (workSlot m d s0) m = true
    ∨ coreSwitches m d (Config.coreOf d s0 % 8) p = true ∨ regionsWait m (landDie (strm m d (workSlot m d s0)) d) = true) := by
  rw [hs, hup, hstops, hsw, hwait]
  simpa using hsealed

theorem decodePicture_denied {m1 : Mod} (hc : coreReady d (Config.coreOf d s0 % 8) m = (false, m1)) : decodePicture d s0 p t m = m1 := by
  unfold decodePicture
  dsimp only
  rw [if_neg (decodePicture_free hs hup hsealed hstops hsw hwait), hc]

theorem decodePicture_undecodable {m1 : Mod} (hc : coreReady d (Config.coreOf d s0 % 8) m = (true, m1)) (hu : undecodable (strm m d s) p = true) :
    decodePicture d s0 p t m = tryDrained t d s (demuxError t d s
      (consume t d s ((strm m d s).segs.length + 1) (min p.consumed (sealedBytes (strm m d s))) (coreStarts d (Config.coreOf d s0 % 8) t.now m1))) := by
  unfold decodePicture
  dsimp only
  rw [if_neg (decodePicture_free hs hup hsealed hstops hsw hwait), hc]
  dsimp only
  rw [hs, if_pos hu]
  rfl

theorem decodePicture_decodes {m1 : Mod} (hc : coreReady d (Config.coreOf d s0 % 8) m = (true, m1)) (hu : undecodable (strm m d s) p = false) :
    let n := min p.consumed (sealedBytes (strm m d s))
    let r := readLanding t d s n (coreStarts d (Config.coreOf d s0 % 8) t.now m1)
    decodePicture d s0 p t m = tryDrained t d s (tryResume t d s (endCommit d s (modStrm
      (consume t d s ((strm m d s).segs.length + 1) n (addFrames d s (gapIn (strm m d s) n) { p with inError := p.inError || r.2 } r.1))
      d s fun y => { y with gapAt := y.gapAt.filter fun g => decide (y.taken < g + 16) }))) := by
  unfold decodePicture
  dsimp only
  rw [if_neg (decodePicture_free hs hup hsealed hstops hsw hwait), hc]
  dsimp only
  rw [hs, if_neg (by rw [hu]; decide)]
  rfl

end
end

theorem OutsideAccess.readLanding {α : Type} {f : Mod → α} (hf : OutsideAccess f) (t : Clk) (d s n : Nat) (m : Mod) :
    f (readLanding t d s n m).1 = f m := by
  unfold Machine.readLanding
  refine List.foldlRecOn (motive := fun acc : Mod × Bool => f acc.1 = f m) _ _ rfl fun acc h c _ => ?_
  dsimp only
  split
  next heq => exact (of_fst heq (hf.readMem ..)).trans h
  next heq => exact (hf.logErr ..).trans ((of_fst heq (hf.readMem ..)).trans h)
  next heq => exact (of_fst heq (hf.readMem ..)).trans h

/-! ### What a picture leaves beside streams -/

section
variable {P : Mod → Prop} {s : Nat} (hP : KeptByStreams s P)
include hP

theorem KeptByStreams.produce (hmod : KeptByStreams (s % 64) P) (d : Nat) (ends : Bool) (fuel : Nat) (m : Mod) (hm : P m) :
    P (produce d s ends fuel m) := by
  induction fuel generalizing m with
  | zero => exact hm
  | succ fuel ih =>
    unfold Machine.produce
    dsimp only
    split_ifs
    · exact hm
    · exact ih _ (hmod.strm _ _ _ _ (hP.strm _ _ _ _ hm))
    · exact ih _ (hP.strm _ _ _ _ hm)

theorem KeptByStreams.addFrames (hmod : KeptByStreams (s % 64) P) (d : Nat) (gap : Bool) (p : Picture) (m : Mod) (hm : P m) :
    P (addFrames d s gap p m) := by
  unfold Machine.addFrames
  dsimp only
  have hmade := fun f fuel => hP.produce hmod d p.last fuel _ (hP.strm m d s f hm)
  by_cases hlast : p.last = true ∧ endKnown (Machine.strm m d s) = true
  · rw [if_pos hlast]
    exact hP.strm _ _ _ _ (hmade _ _)
  · rw [if_neg hlast]
    exact hmade _ _

end

/-! ### The output frames -/

theorem outFrames_length (x : Strm) (gap hurt : Bool) (p : Picture) (e : Bool) :
    (outFrames x gap hurt { p with inError := e }).length = (outFrames x false false p).length := by
  unfold outFrames
  dsimp only
  by_cases hone : ¬ p.fields = true ∨ pf x 0x28 1 = 1
  · rw [if_pos hone, if_pos hone]
    rfl
  · rw [if_neg hone, if_neg hone]
    rfl

section
variable {t : Clk} {d s : Nat}

theorem frames_produce (hs : s < 64) (ends : Bool) (fuel : Nat) (m : Mod) : (strm (produce d s ends fuel m) d s).frames = (strm m d s).frames := by
  induction fuel generalizing m with
  | zero => rfl
  | succ fuel ih =>
    unfold produce
    dsimp only
    split_ifs
    · rfl
    · rw [ih, smpDrop, Nat.mod_eq_of_lt hs, strm_modStrm, strm_modStrm]
    · rw [ih, strm_modStrm]

theorem frames_addFrames (hs : s < 64) (gap : Bool) (p : Picture) (m : Mod) : ∃ g h,
    (strm (addFrames d s gap p m) d s).frames = (strm m d s).frames + (outFrames (strm m d s) g h p).length := by
  refine ⟨gap, pictureHurt (strm m d s) gap p, ?_⟩
  unfold addFrames
  dsimp only
  by_cases hlast : p.last = true ∧ endKnown (strm m d s) = true
  · rw [if_pos hlast, strm_modStrm]
    dsimp only
    rw [frames_produce hs, strm_modStrm]
  · rw [if_neg hlast, frames_produce hs, strm_modStrm]

theorem frames_consume (fuel n : Nat) (m : Mod) : (strm (consume t d s fuel n m) d s).frames = (strm m d s).frames := by
  obtain ⟨_, _, _, h⟩ := strm_consume t d s fuel n m
  rw [h]

theorem frames_enterState (st : SSt) (why : Nat) (m : Mod) : (strm (enterState t d s st why m) d s).frames = (strm m d s).frames := by
  obtain ⟨_, h⟩ := strm_enterState t d s st why m
  rw [h]

theorem frames_sendPause (pl : List Byte) (m : Mod) : (strm (sendPause t d s pl m) d s).frames = (strm m d s).frames := by
  rw [sendPause, strm_sendCtl, strm_modStrm]

theorem frames_pauseSpace (m : Mod) : (strm (pauseFor t d s 1 m) d s).frames = (strm m d s).frames := by
  unfold pauseFor
  dsimp only
  split_ifs
  · rw [frames_enterState, frames_sendPause, strm_modStrm, strm_sealSeg]
    rfl
  · rw [frames_sendPause, strm_modStrm]
    rfl
  · rfl

theorem frames_tryResume (m : Mod) : (strm (tryResume t d s m) d s).frames = (strm m d s).frames := by
  have hend : (strm (endSpace d s m) d s).frames = (strm m d s).frames := by
    rw [endSpace, strm_modStrm]
    split_ifs <;> rfl
  have hspace : ∀ m, (strm (checkSpace t d s m) d s).frames = (strm m d s).frames := by
    intro m
    unfold checkSpace
    dsimp only
    split_ifs
    · exact frames_pauseSpace m
    · rfl
  unfold tryResume
  dsimp only
  split_ifs
  · exact hend
  · rw [hspace, frames_enterState, strm_sendCtl, strm_modStrm]
    exact hend

theorem frames_endCommit (m : Mod) : (strm (endCommit d s m) d s).frames = (strm m d s).frames := by
  obtain ⟨_, h⟩ := strm_endCommit d s m
  rw [h]

theorem frames_of_rest {x y : Strm} (h : drainRest x = drainRest y) : x.frames = y.frames := by
  have h' := congrArg Strm.frames h
  exact h'

theorem ready_of_rest {x y : Strm} (h : drainRest x = drainRest y) : x.ready = y.ready := by
  have h' := congrArg Strm.ready h
  exact h'

theorem smpDropped_of_rest {x y : Strm} (h : drainRest x = drainRest y) : x.smpDropped = y.smpDropped := by
  have h' := congrArg Strm.smpDropped h
  exact h'


theorem frames_tryDrained (hs : s < 64) (m : Mod) : (strm (tryDrained t d s m) d s).frames = (strm m d s).frames :=
  frames_of_rest (drainRest_tryDrained t d s m hs)

end

/-! ### The stream that cannot be decoded -/

/-- A stream in ERROR stays there while what it has landed is decoded and freed. -/
theorem strm_tryDrained_error {t : Clk} {d s : Nat} {m : Mod} (hs : s < 64) (hst : (strm m d s).st = .error) : ∃ c l u k p,
    strm (tryDrained t d s m) d s = { strm m d s with cur := c, segs := l, undecoded := u, taken := k, pool := p } := by
  obtain ⟨l, u, k, hf⟩ := strm_freeDecoded t d s m
  obtain ⟨p, hp⟩ := strm_endCommit d s (freeDecoded t d s m)
  rw [hf] at hp
  unfold tryDrained
  dsimp only
  split_ifs
  · exact ⟨_, _, _, _, _, rfl⟩
  · rw [dropAside, if_pos hs, strm_closeShuffle, hp]
    exact ⟨_, _, _, _, _, rfl⟩
  · rw [hp]
    exact ⟨_, _, _, _, _, rfl⟩

theorem demuxError_stops {t : Clk} {d s : Nat} {m : Mod} (hs : s < 64) (hst : (strm m d s).st ≠ .error) (hen : streamEn m d s = true)
    (hn : (strm m d s).nextProfile = none) :
    (strm (demuxError t d s m) d s).st = .error ∧ (strm (demuxError t d s m) d s).reason = 0x51 := by
  set f : Strm → Strm := fun y => { noPause y with reason := 0x51, ahead := [], hole := none, resync := none, scan := [] } with hf
  have hd : demuxError t d s m = enterError t d s (modStrm (sealSeg t d s m) d s f) := if_neg hst
  have hx : strm (modStrm (sealSeg t d s m) d s f) d s = f { strm m d s with cur := none } := by rw [strm_modStrm, strm_sealSeg]
  have hb : besidesStreams (modStrm (sealSeg t d s m) d s f) = besidesStreams m :=
    (kept_besides m).strm _ _ _ _ ((kept_besides m).sealSeg _ _ _ _ rfl)
  generalize modStrm (sealSeg t d s m) d s f = m1 at *
  obtain ⟨e, he⟩ := strm_enterState t d s .error 0 m1
  have hb2 := (kept_besides m).tryDrained t d s _ ((kept_besides m).enterState t d s .error 0 m1 hb)
  have henter : enterError t d s m1 = if streamEn (tryDrained t d s (enterState t d s .error 0 m1)) d s
      ∧ (strm (tryDrained t d s (enterState t d s .error 0 m1)) d s).nextProfile.isNone
      then tryDrained t d s (enterState t d s .error 0 m1) else leaveError t d s (tryDrained t d s (enterState t d s .error 0 m1)) := rfl
  generalize enterState t d s .error 0 m1 = m2 at *
  obtain ⟨c, l, u, k, p, hq⟩ := strm_tryDrained_error (t := t) hs (by rw [he])
  rw [he, hx] at hq
  generalize tryDrained t d s m2 = m3 at *
  have hstay : streamEn m3 d s = true ∧ (strm m3 d s).nextProfile.isNone = true := by
    refine ⟨(streamEn_of_besides hb2 d s).trans hen, ?_⟩
    rw [hq, hf]
    dsimp only [noPause]
    rw [hn]
    rfl
  rw [hd, henter, if_pos hstay, hq]
  exact ⟨rfl, rfl⟩

/-! ## A sample placed -/

theorem OutsideAccess.writeTier {α : Type} {f : Mod → α} (hf : OutsideAccess f) (t : Clk) (d td off : Nat) (data : List Byte) (m : Mod) :
    f (writeTier t d td off data m).1 = f m := by
  unfold Machine.writeTier
  refine List.foldlRecOn (motive := fun acc : Mod × Nat => f acc.1 = f m) _ _ rfl fun acc h c _ => ?_
  split
  next heq => exact (of_fst heq (hf.writeMem ..)).trans h
  next heq => exact (of_fst heq (hf.writeMem ..)).trans h

section
variable {t : Clk} {d s0 : Nat} {m : Mod}

theorem placeSample_waits (h : nextSample (strm m d (workSlot m d s0)) = none ∨ shufWaits m d = true) : placeSample d s0 t m = m := by
  unfold placeSample
  extract_lets w x
  split
  next => rfl
  next heq =>
    refine if_pos (h.resolve_left fun hn => ?_)
    rw [hn] at heq
    exact absurd heq (by simp)

section
variable {y : MadeSample} {rest : List MadeSample} (hnext : nextSample (strm m d (workSlot m d s0)) = some (y, rest)) (hw : shufWaits m d = false)
include hnext hw

theorem placeSample_unroomed (hroom : shufRoom t d (streamPart m d) (extentBytes d s0 y (strm m d (workSlot m d s0))) m = none) :
    placeSample d s0 t m = shufSealed t d (streamPart m d) (extentBytes d s0 y (strm m d (workSlot m d s0))) m := by
  unfold placeSample
  extract_lets w x
  rw [show nextSample x = some (y, rest) from hnext]
  refine (if_neg (by rw [hw]; decide)).trans ?_
  extract_lets len
  rw [show shufRoom t d (streamPart m d) len m = none from hroom]

/-- The segment with one sample more, and that sample among the partition's. -/
def putSample (d k len : Nat) (g : ShufSeg) (p : PartSt) : PartSt :=
  { p with
    shuf := sset noShuf p.shuf d { g with fill := g.fill + len, count := g.count + 1 }
    samples := p.samples ++ [{
      addr := BitVec.ofNat 64 (Config.tierVa k (tierAddr g.td (g.va.toNat + g.fill))).toNat, len := len, td := g.td, region := g.region
      isSealed := false }] }

/-- The write of a sample's extent after what the segment that fills holds, and how much of it is refused. -/
def sampleWrite (t : Clk) (d s0 k : Nat) (y : MadeSample) (x : Strm) (m : Mod) : Mod × Nat :=
  let g := sget noShuf (partSt m k).shuf d
  let off := g.va.toNat + g.fill
  writeTier t d g.td off (sampleExtent d s0 y x off) m

/-- The sample in the segment that fills, or dropped when its write was refused. -/
def placeWritten (d s k len : Nat) (g : ShufSeg) (puts : Mod × Nat) : Mod :=
  if puts.2 = 0 then modPart puts.1 k (putSample d k len g) else smpDrop d s puts.1

theorem placeSample_places {m1 : Mod} (hroom : shufRoom t d (streamPart m d) (extentBytes d s0 y (strm m d (workSlot m d s0))) m = some m1) :
    placeSample d s0 t m = tryDrained t d (workSlot m d s0) (modStrm
      (placeWritten d (workSlot m d s0) (streamPart m d) (extentBytes d s0 y (strm m d (workSlot m d s0)))
        (sget noShuf (partSt m1 (streamPart m d)).shuf d) (sampleWrite t d s0 (streamPart m d) y (strm m d (workSlot m d s0)) m1))
      d (workSlot m d s0) fun z => { z with ready := rest }) := by
  unfold placeSample
  extract_lets w x
  rw [show nextSample x = some (y, rest) from hnext]
  refine (if_neg (by rw [hw]; decide)).trans ?_
  extract_lets len
  split
  next heq => exact absurd (heq.symm.trans hroom) (by simp)
  next m' heq =>
    obtain rfl : m' = m1 := Option.some.inj (heq.symm.trans hroom)
    extract_lets g off
    split
    next m2 lost hputs =>
      rw [show sampleWrite t d s0 (streamPart m d) y (strm m d (workSlot m d s0)) m' = (m2, lost) from hputs]
      rfl

end
end

theorem strm_dropAside (d s : Nat) (m : Mod) (hs : ¬ s < 64) : strm (dropAside d s m) d s = {} := by
  rw [dropAside, if_neg hs, strm, mdie_modMdie, if_pos rfl]
  dsimp only
  rw [sget_filter_ne, if_pos rfl]

/-- What waits to be placed is no matter of the draining. -/
theorem ready_tryDrained (t : Clk) (d s : Nat) (m : Mod) : (strm (tryDrained t d s m) d s).ready = (strm m d s).ready := by
  by_cases hs : s < 64
  · exact ready_of_rest (drainRest_tryDrained t d s m hs)
  · have hfree : (strm (endCommit d s (freeDecoded t d s m)) d s).ready = (strm m d s).ready :=
      ready_of_rest ((drainRest_endCommit d s (freeDecoded t d s m)).trans (drainRest_freeDecoded t d s m))
    unfold tryDrained
    dsimp only
    split_ifs with _ _ hempty
    · rfl
    · rw [strm_dropAside _ _ _ hs]
      exact (List.isEmpty_iff.1 hempty).symm
    · exact hfree
    · exact ready_of_rest ((drainRest_toClosed t d s _).trans (drainRest_freeDecoded t d s m))
    · rfl

theorem workSlot_mod (m : Mod) (d : Nat) {n : Nat} (hn : n < 64) : workSlot m d n % 64 = n := by
  unfold workSlot
  cases hf : (slotsOf m d).find? fun z => decide (64 ≤ z.1) && z.1 % 64 == n with
  | none => exact Nat.mod_eq_of_lt hn
  | some z =>
    have hz := List.find?_some hf
    simp only [Bool.and_eq_true, beq_iff_eq] at hz
    exact hz.2

theorem outsideAccess_parts_rest (k : Nat) : OutsideAccess fun m => ((partSt m k).shuf, (partSt m k).samples) where
  engine _ _ _ := rfl
  logs _ _ := rfl
  mem _ _ := rfl
  sync _ _ := rfl
  out _ _ := rfl
  part m j h hh := by
    rw [partSt_modPart]
    split_ifs with hj
    · rw [hj, hh]
    · rfl

theorem outsideAccess_sampleWrite {α : Type} {f : Mod → α} (hf : OutsideAccess f) (t : Clk) (d s0 k : Nat) (y : MadeSample) (x : Strm) (m : Mod) :
    f (sampleWrite t d s0 k y x m).1 = f m := hf.writeTier ..

section
variable {d s k len : Nat} {g : ShufSeg} {puts : Mod × Nat}

theorem placeWritten_placed (h : puts.2 = 0) : placeWritten d s k len g puts = modPart puts.1 k (putSample d k len g) := if_pos h

theorem placeWritten_refused (h : puts.2 ≠ 0) : placeWritten d s k len g puts = smpDrop d s puts.1 := if_neg h

theorem mem_placeWritten : (placeWritten d s k len g puts).mem = puts.1.mem := by
  unfold placeWritten
  split_ifs
  · rfl
  · rfl

/-- The slot of a sample that is dropped counts it, under whichever number its stream goes on. -/
theorem smpDropped_placeWritten {n : Nat} (hs : s % 64 = n) (h : puts.2 ≠ 0) :
    (strm (placeWritten d s k len g puts) d n).smpDropped = satAdd 0xFFFFFFFF (strm puts.1 d n).smpDropped 1 := by
  rw [placeWritten_refused h, smpDrop, hs, strm_modStrm]

theorem strm_placeWritten_placed (h : puts.2 = 0) (n : Nat) : strm (placeWritten d s k len g puts) d n = strm puts.1 d n := by
  rw [placeWritten_placed h]
  rfl

theorem parts_placeWritten (h : puts.2 = 0) :
    sget noShuf (partSt (placeWritten d s k len g puts) k).shuf d = { g with fill := g.fill + len, count := g.count + 1 }
      ∧ ∃ z : Sample, (partSt (placeWritten d s k len g puts) k).samples = (partSt puts.1 k).samples ++ [z] ∧ z.len = len
        ∧ z.td = g.td ∧ z.region = g.region ∧ z.isSealed = false := by
  rw [placeWritten_placed h, partSt_modPart, if_pos rfl]
  exact ⟨sget_sset_same .., _, rfl, rfl, rfl, rfl, rfl⟩

end

/-! ## A draw -/

theorem exec_sampleDraw (k : Part) (s : State) : exec (.sampleDraw k) s = onAll (drawSample k.val) s := rfl

/-- A push leaves the handles that wait. -/
theorem mem_items_pushHandle {key j : Nat} {h h' : Handle} {m : Mod} (hm : h ∈ (hqAt m j).items) : h ∈ (hqAt (pushHandle key h' m) j).items := by
  by_cases hj : j = key
  · subst hj
    rw [hqAt_pushHandle]
    exact List.mem_append_left _ hm
  · have hother : hqAt (pushHandle key h' m) j = hqAt m j :=
      (hqAt_modHqAt m key j fun q => { q with items := q.items ++ [h'] }).trans (if_neg hj)
    rw [hother]
    exact hm

/-- The end of the pool's handles: other fields of the module, what is drawn, and the handles before, stay. -/
theorem poolEnd_keeps {k : Nat} {m : Mod} : (poolEnd k m).draw = m.draw ∧ (poolEnd k m).mem = m.mem
    ∧ (partSt (poolEnd k m) k).samples = (partSt m k).samples ∧ (partSt (poolEnd k m) k).rr = (partSt m k).rr
    ∧ ∀ q h, h ∈ (hqAt m q).items → h ∈ (hqAt (poolEnd k m) q).items := by
  have hpush : ∀ l : List Nat, ∀ m' : Mod, (l.foldl (fun m q => pushHandle q { fin := true } m) m').draw = m'.draw
      ∧ (l.foldl (fun m q => pushHandle q { fin := true } m) m').mem = m'.mem
      ∧ (l.foldl (fun m q => pushHandle q { fin := true } m) m').parts = m'.parts
      ∧ ∀ q h, h ∈ (hqAt m' q).items → h ∈ (hqAt (l.foldl (fun m q => pushHandle q { fin := true } m) m') q).items := by
    intro l m'
    refine List.foldlRecOn (motive := fun u : Mod => u.draw = m'.draw ∧ u.mem = m'.mem ∧ u.parts = m'.parts
      ∧ ∀ q h, h ∈ (hqAt m' q).items → h ∈ (hqAt u q).items) _ _ ⟨rfl, rfl, rfl, fun _ _ h => h⟩ fun u hu j _ => ?_
    obtain ⟨h1, h2, h3, h4⟩ := hu
    refine ⟨h1, h2, h3, fun q h hq => ?_⟩
    exact mem_items_pushHandle (h4 q h hq)
  unfold poolEnd
  dsimp only
  split_ifs
  · exact ⟨rfl, rfl, rfl, rfl, fun _ _ h => h⟩
  · obtain ⟨h1, h2, h3, h4⟩ := hpush (poolTargets m k) m
    refine ⟨h1, h2, ?_, ?_, h4⟩
    · rw [partSt_modPart, if_pos rfl, partSt, h3]
      rfl
    · rw [partSt_modPart, if_pos rfl, partSt, h3]
      rfl

/-- A draw: one sample less, the next target in turn, and the handle in its queue. -/
theorem drawSample_draws {k i q : Nat} {y : Sample} {t : Clk} {m : Mod}
    (hgo : (partSt m k).drawing = true ∨ max 1 (minFill m k) ≤ (undrawn (partSt m k)).length) (hscrub : (partSt m k).scrub = none)
    (hnext : nextTarget m k = some (i, q)) (hy : (undrawn (partSt m k))[Config.drawNat m.draw % (undrawn (partSt m k)).length]? = some y) :
    (drawSample k t m).draw = m.draw + 1 ∧ (partSt (drawSample k t m) k).samples = (partSt m k).samples.erase y
      ∧ (partSt (drawSample k t m) k).rr = i + 1 ∧ drawHandle y ∈ (hqAt (drawSample k t m) q).items ∧ (drawSample k t m).mem = m.mem := by
  have hsome : (undrawn (partSt m k)).isEmpty = false := by
    cases hu : undrawn (partSt m k) with
    | nil => rw [hu] at hy; exact absurd hy (by simp)
    | cons => rfl
  have hpos : (partSt m k).drawing = true ∨ decide ((undrawn (partSt m k)).length ≥ max 1 (minFill m k)) = true := hgo.imp_right decide_eq_true
  set m1 := pushHandle q (drawHandle y) { m with draw := m.draw + 1 } with hm1
  have hdraw : drawSample k t m = poolEnd k (modPart m1 k fun z => { z with
      samples := z.samples.erase y, rr := i + 1, drawnSince := true, drawing := decide (1 < (undrawn (partSt m k)).length) }) := by
    unfold drawSample
    dsimp only
    rw [hsome, hscrub, if_neg (by rintro (h | h | h) <;> simp_all), hnext, hy]
  have hpart : partSt m1 k = partSt m k := rfl
  obtain ⟨h1, h2, h3, h4, h5⟩ := poolEnd_keeps (k := k) (m := modPart m1 k fun z => { z with
    samples := z.samples.erase y, rr := i + 1, drawnSince := true, drawing := decide (1 < (undrawn (partSt m k)).length) })
  rw [partSt_modPart, if_pos rfl, hpart] at h3 h4
  rw [hdraw]
  refine ⟨h1, h3, h4, h5 q _ ?_, h2⟩
  have hq : hqAt (modPart m1 k fun z => { z with
      samples := z.samples.erase y, rr := i + 1, drawnSince := true, drawing := decide (1 < (undrawn (partSt m k)).length) }) q = hqAt m1 q := rfl
  rw [hq, hm1, hqAt_pushHandle]
  exact List.mem_append_right _ (List.mem_singleton.2 rfl)

theorem exec_decodePicture (d : Media) (n : Slot) (p : Picture) (s : State) :
    exec (.decodePicture d n p) s = .next { s with m := decodePicture d.val n.val p s.clk s.m } := rfl

theorem exec_samplePlace (d : Media) (n : Slot) (s : State) :
    exec (.samplePlace d n) s = .next { s with m := placeSample d.val n.val s.clk s.m } := rfl

/-! ## The picture as a whole -/

section
variable {t : Clk} {d s0 s : Nat} {p : Picture} {m m1 : Mod} (hs : workSlot m d s0 = s) (hup : ingestUp m = true)
  (hsealed : sealedBytes (strm m d s) ≠ 0) (hstops : decoderStops t d s m = false)
  (hsw : coreSwitches m d (Config.coreOf d s0 % 8) p = false) (hwait : regionsWait m (landDie (strm m d s) d) = false)
  (hc : coreReady d (Config.coreOf d s0 % 8) m = (true, m1))
include hs hup hsealed hstops hsw hwait hc

/-- A core that has its leave works from now on. -/
theorem decodePicture_since : sget 0 (mdie (decodePicture d s0 p t m) d).coreSince (Config.coreOf d s0 % 8) = t.now := by
  set m2 := coreStarts d (Config.coreOf d s0 % 8) t.now m1 with hm2
  have hk : ∀ i, KeptByStreams i fun u => dieRest u d = dieRest m2 d := fun _ => kept_dieRest d _
  have hdie : dieRest (decodePicture d s0 p t m) d = dieRest m2 d := by
    cases hu : undecodable (strm m d s) p with
    | true =>
      rw [decodePicture_undecodable hs hup hsealed hstops hsw hwait hc hu]
      exact (hk s).tryDrained _ _ _ _ ((hk s).demuxError _ _ _ _ ((hk s).consume _ _ _ _ _ _ rfl))
    | false =>
      rw [decodePicture_decodes hs hup hsealed hstops hsw hwait hc hu]
      have hread : ∀ n, dieRest (readLanding t d s n m2).1 d = dieRest m2 d := fun n => by
        rw [dieRest, mdie, outsideAccess_media.readLanding, ← mdie, ← dieRest]
      exact (hk s).tryDrained _ _ _ _ ((hk s).tryResume _ _ _ _ ((hk s).strm _ _ _ _ ((hk s).strm _ _ _ _
        ((hk s).consume _ _ _ _ _ _ ((hk s).addFrames (hk _) _ _ _ _ (hread _))))))
  have hsince := since_coreStarts d (Config.coreOf d s0 % 8) t.now m1
  rw [← hm2, ← hdie] at hsince
  exact hsince

/-- A stream that cannot be decoded ends in ERROR, and memory stays. -/
theorem decodePicture_stops (hn : s < 64) (hu : undecodable (strm m d s) p = true) (hst : (strm m d s).st ≠ .error)
    (hen : streamEn m d s = true) (hnp : (strm m d s).nextProfile = none) :
    (strm (decodePicture d s0 p t m) d s).st = .error ∧ (strm (decodePicture d s0 p t m) d s).reason = 0x51
      ∧ (decodePicture d s0 p t m).mem = m.mem := by
  have hx1 := strm_coreReady d (Config.coreOf d s0 % 8) m d s
  have hmem1 := mem_coreReady d (Config.coreOf d s0 % 8) m
  have hen1 := streamEn_coreReady d (Config.coreOf d s0 % 8) m d s
  rw [hc] at hx1 hmem1 hen1
  dsimp only at hx1 hmem1 hen1
  have hx2 := (strm_coreStarts d (Config.coreOf d s0 % 8) t.now m1 s).trans hx1
  have hmem2 : (coreStarts d (Config.coreOf d s0 % 8) t.now m1).mem = m.mem := hmem1
  have hen2 : streamEn (coreStarts d (Config.coreOf d s0 % 8) t.now m1) d s = streamEn m d s := hen1
  rw [decodePicture_undecodable hs hup hsealed hstops hsw hwait hc hu]
  generalize coreStarts d (Config.coreOf d s0 % 8) t.now m1 = m2 at *
  obtain ⟨l, u, k, hl⟩ := strm_consume t d s ((strm m d s).segs.length + 1) (min p.consumed (sealedBytes (strm m d s))) m2
  have hb := (kept_besides m2).consume t d s ((strm m d s).segs.length + 1) (min p.consumed (sealedBytes (strm m d s))) m2 rfl
  rw [hx2] at hl
  generalize consume t d s ((strm m d s).segs.length + 1) (min p.consumed (sealedBytes (strm m d s))) m2 = m3 at *
  obtain ⟨hst3, hr3⟩ := demuxError_stops (t := t) (m := m3) (d := d) hn (by rw [hl]; exact hst)
    ((streamEn_of_besides hb d s).trans (hen2.trans hen)) (by rw [hl]; exact hnp)
  have hb3 := (kept_besides m2).demuxError t d s m3 hb
  generalize demuxError t d s m3 = m4 at *
  obtain ⟨c, l', u', k', p', h5⟩ := strm_tryDrained_error (t := t) hn hst3
  have hb5 := (kept_besides m2).tryDrained t d s m4 hb3
  rw [h5]
  exact ⟨hst3, hr3, (mem_of_besides hb5).trans hmem2⟩

/-- A picture that is decoded adds its output frames. -/
theorem decodePicture_adds (hn : s < 64) (hu : undecodable (strm m d s) p = false) :
    (strm (decodePicture d s0 p t m) d s).frames = (strm m d s).frames + (outFrames (strm m d s) false false p).length := by
  have hx1 := strm_coreReady d (Config.coreOf d s0 % 8) m d s
  rw [hc] at hx1
  dsimp only at hx1
  have hx2 := (strm_coreStarts d (Config.coreOf d s0 % 8) t.now m1 s).trans hx1
  rw [decodePicture_decodes hs hup hsealed hstops hsw hwait hc hu]
  generalize coreStarts d (Config.coreOf d s0 % 8) t.now m1 = m2 at *
  have hx3 := strm_of_media (outsideAccess_media.readLanding t d s (min p.consumed (sealedBytes (strm m d s))) m2) d s
  generalize readLanding t d s (min p.consumed (sealedBytes (strm m d s))) m2 = r at *
  obtain ⟨g, h, hf⟩ := frames_addFrames (d := d) hn (gapIn (strm m d s) (min p.consumed (sealedBytes (strm m d s))))
    { p with inError := p.inError || r.2 } r.1
  rw [hx3, hx2, outFrames_length] at hf
  rw [frames_tryDrained hn, frames_tryResume, frames_endCommit, strm_modStrm]
  dsimp only
  rw [frames_consume, hf]

end

/-! ## The sample as a whole -/

/-- A stream that is neither over nor draining. -/
theorem tryDrained_active {t : Clk} {d s : Nat} {m : Mod} (hdrain : (strm m d s).st ≠ .draining) (herror : (strm m d s).st ≠ .error) :
    tryDrained t d s m = m := by
  unfold tryDrained
  dsimp only
  rw [if_neg herror, if_neg fun h : _ ∧ _ => hdrain h.1, ite_self]

theorem strm_shufSealed (t : Clk) (j k n : Nat) (m : Mod) (d s : Nat) : strm (shufSealed t j k n m) d s = strm m d s := by
  have hpart : ∀ m k h, strm (modPart m k h) d s = strm m d s := fun _ _ _ => rfl
  unfold shufSealed
  split_ifs
  · exact (hpart ..).trans (strm_sealMedia ..)
  · rfl

theorem strm_applyMedia {t : Clk} {td : Nat} {q : RegReq} {m : Mod} {x : Nat × Mod} (h : applyMedia t td q m = some x) (d s : Nat) :
    strm x.2 d s = strm m d s := by
  unfold applyMedia at h
  generalize regionStep t m td q = o at h
  cases o with
  | error => exact absurd h (by simp)
  | ok y =>
    obtain rfl := Option.some.inj h
    rfl

theorem strm_openMedia {t : Clk} {j td k n : Nat} {b : Bool} {m : Mod} {r : Nat × Nat × Mod} (h : openMedia t j td k n b m = some r) (d s : Nat) :
    strm r.2.2 d s = strm m d s := by
  unfold openMedia at h
  generalize pickBase m td k n b = place at h
  cases place with
  | none => exact absurd h (by simp)
  | some place =>
    generalize hm : ({ m with draw := m.draw + 1 } : Mod) = m' at h
    obtain ⟨r', ha, rfl⟩ := Option.map_eq_some_iff.1 h
    have hkept : strm m' d s = strm m d s := by rw [← hm]; rfl
    exact (strm_applyMedia ha d s).trans hkept

/-- The room for a sample is made without the streams. -/
theorem strm_shufRoom {t : Clk} {j k n : Nat} {m m1 : Mod} (h : shufRoom t j k n m = some m1) (d s : Nat) : strm m1 d s = strm m d s := by
  unfold shufRoom at h
  dsimp only at h
  split_ifs at h
  · rw [← Option.some.inj h, strm_shufSealed]
  · unfold openShuf at h
    split_ifs at h
    obtain ⟨td, _, htd⟩ := List.exists_of_findSome?_eq_some h
    obtain ⟨r, hr, rfl⟩ := Option.map_eq_some_iff.1 htd
    exact (strm_openMedia hr d s).trans (strm_shufSealed ..)

section
variable {t : Clk} {d s0 : Nat} {y : MadeSample} {rest : List MadeSample} {m m1 : Mod} 
  (hnext : nextSample (strm m d (workSlot m d s0)) = some (y, rest)) (hw : shufWaits m d = false)
  (hroom : shufRoom t d (streamPart m d) (extentBytes d s0 y (strm m d (workSlot m d s0))) m = some m1)
include hnext hw hroom

theorem placeSample_ready : (strm (placeSample d s0 t m) d (workSlot m d s0)).ready = rest := by
  rw [placeSample_places hnext hw hroom, ready_tryDrained, strm_modStrm]

theorem placeSample_mem : (placeSample d s0 t m).mem
    = (sampleWrite t d s0 (streamPart m d) y (strm m d (workSlot m d s0)) m1).1.mem := by
  rw [placeSample_places hnext hw hroom]
  generalize sampleWrite t d s0 (streamPart m d) y (strm m d (workSlot m d s0)) m1 = puts
  have hb := (kept_besides (placeWritten d (workSlot m d s0) (streamPart m d) (extentBytes d s0 y (strm m d (workSlot m d s0)))
    (sget noShuf (partSt m1 (streamPart m d)).shuf d) puts)).tryDrained t d (workSlot m d s0) _
    ((kept_besides _).strm _ d (workSlot m d s0) (fun z => { z with ready := rest }) rfl)
  exact (mem_of_besides hb).trans mem_placeWritten

theorem placeSample_drops (hs0 : s0 < 64) (hlost : (sampleWrite t d s0 (streamPart m d) y (strm m d (workSlot m d s0)) m1).2 ≠ 0) :
    (strm (placeSample d s0 t m) d s0).smpDropped = satAdd 0xFFFFFFFF (strm m1 d s0).smpDropped 1 := by
  have hx := strm_of_media (outsideAccess_sampleWrite outsideAccess_media t d s0 (streamPart m d) y (strm m d (workSlot m d s0)) m1) d s0
  rw [placeSample_places hnext hw hroom]
  generalize sampleWrite t d s0 (streamPart m d) y (strm m d (workSlot m d s0)) m1 = puts at *
  have hcount := smpDropped_placeWritten (d := d) (k := streamPart m d) (len := extentBytes d s0 y (strm m d (workSlot m d s0)))
    (g := sget noShuf (partSt m1 (streamPart m d)).shuf d) (workSlot_mod m d hs0) hlost
  rw [hx] at hcount
  generalize placeWritten d (workSlot m d s0) (streamPart m d) _ _ puts = m2 at *
  by_cases hself : workSlot m d s0 = s0
  · rw [hself, smpDropped_of_rest (drainRest_tryDrained t d s0 _ hs0), strm_modStrm]
    exact hcount
  · have hother : strm (tryDrained t d (workSlot m d s0) (modStrm m2 d (workSlot m d s0) fun z => { z with ready := rest })) d s0 = strm m2 d s0 :=
      (kept_otherSlot d _ hs0 (Ne.symm hself)).tryDrained _ _ _ _ ((kept_otherSlot d _ hs0 (Ne.symm hself)).strm _ _ _ _ rfl)
    rw [hother]
    exact hcount

theorem placeSample_puts (hlost : (sampleWrite t d s0 (streamPart m d) y (strm m d (workSlot m d s0)) m1).2 = 0)
    (hdrain : (strm m d (workSlot m d s0)).st ≠ .draining) (herror : (strm m d (workSlot m d s0)).st ≠ .error) :
    let k := streamPart m d
    let g := sget noShuf (partSt m1 k).shuf d
    let len := extentBytes d s0 y (strm m d (workSlot m d s0))
    sget noShuf (partSt (placeSample d s0 t m) k).shuf d = { g with fill := g.fill + len, count := g.count + 1 }
      ∧ ∃ z : Sample, (partSt (placeSample d s0 t m) k).samples = (partSt m1 k).samples ++ [z] ∧ z.len = len ∧ z.td = g.td
        ∧ z.region = g.region ∧ z.isSealed = false := by
  have hm1 := strm_shufRoom hroom d (workSlot m d s0)
  have hx := strm_of_media (outsideAccess_sampleWrite outsideAccess_media t d s0 (streamPart m d) y (strm m d (workSlot m d s0)) m1)
    d (workSlot m d s0)
  have hp := congrArg Prod.snd (outsideAccess_sampleWrite (outsideAccess_parts_rest (streamPart m d)) t d s0 (streamPart m d) y
    (strm m d (workSlot m d s0)) m1)
  rw [placeSample_places hnext hw hroom]
  generalize sampleWrite t d s0 (streamPart m d) y (strm m d (workSlot m d s0)) m1 = puts at *
  have hparts := parts_placeWritten (d := d) (s := workSlot m d s0) (k := streamPart m d)
    (len := extentBytes d s0 y (strm m d (workSlot m d s0))) (g := sget noShuf (partSt m1 (streamPart m d)).shuf d) hlost
  have hy := strm_placeWritten_placed (d := d) (s := workSlot m d s0) (k := streamPart m d)
    (len := extentBytes d s0 y (strm m d (workSlot m d s0))) (g := sget noShuf (partSt m1 (streamPart m d)).shuf d) hlost (workSlot m d s0)
  dsimp only at hp
  rw [hp] at hparts
  rw [hx] at hy
  generalize placeWritten d (workSlot m d s0) (streamPart m d) _ _ puts = m2 at *
  have hst : (strm (modStrm m2 d (workSlot m d s0) fun z => { z with ready := rest }) d (workSlot m d s0)).st = (strm m1 d (workSlot m d s0)).st := by
    rw [strm_modStrm, hy]
  dsimp only
  rw [tryDrained_active (by rw [hst, hm1]; exact hdrain) (by rw [hst, hm1]; exact herror)]
  exact hparts

end

end Sys2Proof.Machine

namespace Sys2Proof
open Machine

/-- Settles O57: the picture by what keeps it waiting, by the core's leave and by whether it can be decoded; the sample by the room
there is and what its write leaves out; the draw by `drawSample_draws`. -/
theorem samplesFlow : Obligations.SamplesFlow := by
  unfold Obligations.SamplesFlow
  refine ⟨fun d n p s hup => ?picture, fun d n s h => ?waits, fun d n y rest s => ?sample, fun k i q y s => ?draw⟩
  case picture =>
    intro w x hsealed hstops core
    refine ⟨fun h => ?_, fun hwait => ⟨fun m1 hsw hc => ?_, fun m1 hsw hc => ⟨_, exec_decodePicture d n p s, ?_, fun hu hn hst hen hnp => ?_, fun hu hn => ?_⟩⟩⟩
    · rw [exec_decodePicture, decodePicture_waits h]
    · rw [exec_decodePicture, decodePicture_denied rfl hup hsealed hstops hsw hwait hc]
    · exact decodePicture_since rfl hup hsealed hstops hsw hwait hc
    · have hx : x = strm s.m d n := congrArg (strm s.m d) hn
      exact decodePicture_stops hn hup (hx ▸ hsealed) (hn ▸ hstops) hsw (hx ▸ hwait) hc n.isLt (hx ▸ hu) (hx ▸ hst) hen (hx ▸ hnp)
    · have hx : x = strm s.m d n := congrArg (strm s.m d) hn
      rw [hx]
      exact decodePicture_adds hn hup (hx ▸ hsealed) (hn ▸ hstops) hsw (hx ▸ hwait) hc n.isLt (hx ▸ hu)
  case waits =>
    rw [exec_samplePlace, placeSample_waits h]
  case sample =>
    intro w x hnext hw k len
    refine ⟨fun hroom => ?_, fun m1 hroom => ?_⟩
    · rw [exec_samplePlace, placeSample_unroomed hnext hw hroom]
    · intro g off puts
      have hready := placeSample_ready hnext hw hroom
      have hmem := placeSample_mem hnext hw hroom
      have hdrops := placeSample_drops hnext hw hroom n.isLt
      have hputs := placeSample_puts hnext hw hroom
      have hp : sampleWrite s.clk d n (streamPart s.m d) y (strm s.m d (workSlot s.m d n)) m1 = puts := rfl
      rw [hp] at hmem hdrops hputs
      exact ⟨_, exec_samplePlace d n s, hready, hmem, hdrops, hputs⟩
  case draw =>
    intro p us hgo hscrub hnext hy
    rw [exec_sampleDraw]
    exact settlesAll_onAll (drawSample_draws hgo hscrub hnext hy)

end Sys2Proof
end

/-! # A stream that breaks under a number set aside (R448, R452)

The slot numbers from 64 on hold streams that are over and wait to be decoded (`setAside`). The statement about DATA past LIMIT_SEQ
ranges over every number under which a stream is open; one that stands PAUSED under such a number, with nothing landed, is gone once
it is in ERROR, and its number reads as a slot that is DISABLED. -/

section
namespace Sys2Proof.Machine

theorem exec_data (d : Media) (g : Datagram) (s : State) : exec (.data d g) s = .next { s with m := dataRow d.val g s.clk s.m } := rfl

section
variable {t : Clk} {d s : Nat} {m : Mod}

/-- A datagram past the limit of a paused stream. -/
theorem dataRow_breaks {g : Datagram} {seq : Nat} (hup : ingestUp m = true) (hg : isfBad 1 g = false) (ho : openOf m d g = some s)
    (hw : landWaits m d s (isfPayload g).length = false) (hseq : unwrapSeq (strm m d s) (isfSeq g) = some seq)
    (hst : (strm m d s).st = .paused) (hlim : (strm m d s).limit < seq + (isfPayload g).length) (hlen : (isfPayload g).length ≠ 0) :
    dataRow d g t m = breakStream t d s 0x58 (modStrm (modStrm m d s fun y => { y with window := y.window + (isfPayload g).length }) d s
      fun y => { y with bytesDropped := sat64 y.bytesDropped (isfPayload g).length }) := by
  unfold dataRow
  rw [if_neg (not_not_intro hup), if_neg (by rw [hg]; decide), ho]
  dsimp only
  rw [if_neg (by rw [hw]; decide), hseq]
  exact if_pos ⟨hst, hlim, hlen⟩

/-- A stream in ERROR under a number set aside, with nothing left of it, is gone. -/
theorem strm_tryDrained_aside (hs : ¬ s < 64) (hst : (strm m d s).st = .error) (hu : (strm m d s).undecoded = 0)
    (ha : (strm m d s).ahead = []) (hr : (strm m d s).ready = []) : strm (tryDrained t d s m) d s = {} := by
  unfold tryDrained
  dsimp only
  rw [if_neg (by rw [hu, ha]; simp), if_pos hst, if_pos (by rw [hr]; rfl)]
  exact strm_dropAside _ _ _ hs

/-- So is one that breaks there. -/
theorem strm_breakStream_aside {code : Nat} (hs : ¬ s < 64) (hu : (strm m d s).undecoded = 0) (hr : (strm m d s).ready = [])
    (hen : streamEn m d s = true) : strm (breakStream t d s code m) d s = {} := by
  set f : Strm → Strm := fun y => { noPause y with reason := BitVec.ofNat 8 code, ahead := [], hole := none } with hf
  have hb : breakStream t d s code m = enterError t d s (modStrm (sendClose t d s 1 code (sealSeg t d s m)) d s f) := rfl
  have hx : strm (modStrm (sendClose t d s 1 code (sealSeg t d s m)) d s f) d s
      = f (closing t (closePayload 1 code (strm m d s).highest) { strm m d s with cur := none }) := by
    rw [strm_modStrm, strm_sendClose, strm_sealSeg]
  have hkept : besidesStreams (modStrm (sendClose t d s 1 code (sealSeg t d s m)) d s f) = besidesStreams m :=
    (kept_besides m).strm _ _ _ _ ((kept_besides m).sendClose _ _ _ _ _ _ ((kept_besides m).sealSeg _ _ _ _ rfl))
  generalize modStrm (sendClose t d s 1 code (sealSeg t d s m)) d s f = m1 at *
  obtain ⟨e, he⟩ := strm_enterState t d s .error 0 m1
  have hkept2 := (kept_besides m).tryDrained t d s _ ((kept_besides m).enterState t d s .error 0 m1 hkept)
  have henter : enterError t d s m1 = if streamEn (tryDrained t d s (enterState t d s .error 0 m1)) d s
      ∧ (strm (tryDrained t d s (enterState t d s .error 0 m1)) d s).nextProfile.isNone
      then tryDrained t d s (enterState t d s .error 0 m1) else leaveError t d s (tryDrained t d s (enterState t d s .error 0 m1)) := rfl
  generalize enterState t d s .error 0 m1 = m2 at *
  have hgone : strm (tryDrained t d s m2) d s = {} :=
    strm_tryDrained_aside hs (by rw [he]) (by rw [he, hx]; exact hu) (by rw [he, hx]) (by rw [he, hx]; exact hr)
  rw [hb, henter, if_pos ⟨(streamEn_of_besides hkept2 d s).trans hen, by rw [hgone]; rfl⟩, hgone]

end

/-! ## The counterexample -/

/-- A stream PAUSED under number 64 of media die 0, its EN bit set, in MS0. -/
def asideState : State :=
  { State.reset with m := { modReset with
      pwr := { pwrReset with state := .ms0 }, bar0 := [(rSlot 0 64, 1)], media := [(0, { slots := [(64, { st := .paused })] })] } }

/-- One byte of DATA at sequence number 0. -/
def oneByteData : Datagram :=
  { srcAddr := [], srcPort := 0, udp := [0x10, 1, 0, 1] ++ List.replicate 29 0 }

end Sys2Proof.Machine

namespace Sys2Proof
open Machine

/-- Refutes O55: DATA past the limit of a stream that stands PAUSED under number 64 breaks it, and its number then reads DISABLED, not
ERROR. -/
theorem not_dataLands : ¬ Obligations.DataLands := by
  unfold Obligations.DataLands
  intro h
  have hup : ingestUp asideState.m = true := by decide
  have hg : isfBad 1 oneByteData = false := by decide
  have ho : openOf asideState.m 0 oneByteData = some 64 := by decide
  have hx : strm asideState.m 0 64 = { st := .paused } := by decide
  have hlen : (isfPayload oneByteData).length = 1 := by decide
  have hseq : unwrapSeq (strm asideState.m 0 64) (isfSeq oneByteData) = some 0 := by rw [hx]; decide
  have hw : landWaits asideState.m 0 64 (isfPayload oneByteData).length = false := by rfl
  have hen : streamEn asideState.m 0 64 = true := by decide
  have hpaused : (strm asideState.m 0 64).st = .paused := by rw [hx]
  have hlimit : (strm asideState.m 0 64).limit < 0 + (isfPayload oneByteData).length := by rw [hx, hlen]; decide
  have hpos : 0 < (isfPayload oneByteData).length := by rw [hlen]; decide
  have hnone : (strm asideState.m 0 64).nextProfile = none := by rw [hx]
  obtain ⟨hdata, -, -⟩ := h 0 asideState hup
  obtain ⟨-, -, hpast⟩ := ((hdata oneByteData).2 64 0 hg ho hseq).2 hw hpos
  obtain ⟨t, ht, hst, -⟩ := hpast hpaused hlimit hen hnone
  have hbreaks := dataRow_breaks (t := asideState.clk) hup hg ho hw hseq hpaused hlimit hpos.ne'
  have ht' : t.m = dataRow 0 oneByteData asideState.clk asideState.m := by
    rw [exec_data] at ht
    exact (congrArg State.m (Host.Outcome.next.inj ht)).symm
  have hgone : strm t.m 0 64 = {} := by
    rw [ht', hbreaks]
    refine strm_breakStream_aside (by decide) ?_ ?_ ?_
    · rw [strm_modStrm, strm_modStrm, hx]
    · rw [strm_modStrm, strm_modStrm, hx]
    · exact hen
  have hbad : (strm t.m 0 64).st = .error := hst
  rw [hgone] at hbad
  exact absurd hbad (by decide)

end Sys2Proof
end

/-! # The phases of a SCRUB (R559 to R564) -/

section
namespace Sys2Proof.Machine

/-! ## The record of a scrub, and the leave of its units (R562) -/

theorem exec_scrub (sq : RingId) (tag : BitVec 16) (s : State) : exec (.scrub sq tag) s = onAll (startCmd 0x50 scrubBody sq tag) s := rfl

theorem exec_scrubQuiesceEnd (k : Part) (s : State) : exec (.scrubQuiesceEnd k) s = onAll (quiesceEnd k.val) s := rfl

theorem exec_scrubStreamsEnd (k : Part) (s : State) : exec (.scrubStreamsEnd k) s = onAll (streamsEnd k.val) s := rfl

theorem exec_overwriteEnd (u : Fin 20) (l : List Nat) (s : State) : exec (.overwriteEnd u l) s = onAll (unitDone u.val l) s := rfl

theorem exec_scrubOverwriteEnd (k : Part) (s : State) : exec (.scrubOverwriteEnd k) s = onPort (scrubEnd k.val) s := rfl

theorem partSt_modScrub (m : Mod) (k : Nat) (f : Scrub → Scrub) :
    partSt (modScrub m k f) k = { partSt m k with scrub := (partSt m k).scrub.map f } := by
  rw [modScrub, partSt_modPart, if_pos rfl]

theorem scrub_modScrub {m : Mod} {k : Nat} {x : Scrub} (h : (partSt m k).scrub = some x) (f : Scrub → Scrub) :
    (partSt (modScrub m k f) k).scrub = some (f x) := by
  rw [partSt_modScrub, h, Option.map_some]

/-- The leave of an overwrite is a matter of its governor. -/
theorem askLeave_outside {α : Type} (f : Mod → α) (hf : ∀ m g h, f (modGov m g h) = f m) (k : Nat) (m : Mod) (u : Nat) :
    f (askLeave k m u) = f m := by
  unfold askLeave requestLeave
  simp only
  split_ifs
  · exact hf ..
  · exact hf ..
  · exact hf ..

theorem askUnits_outside {α : Type} (f : Mod → α) (hf : ∀ m g h, f (modGov m g h) = f m) (k : Nat) (us : List Nat) (m : Mod) :
    f (askUnits k us m) = f (modScrub m k fun x => { x with going := x.going ++ us }) :=
  OutsideAccess.foldl (fun u x => askLeave_outside f hf k u x) us _

/-! ## The end of phase 1 (R560, R563) -/

/-- A die of the partition as phase 1 ends: the cells of its SRAM and its leave go. -/
def clearDie (m : Mod) (d : Nat) : Mod := modGov (dropCells (fun a => !inSram d a) m) d clearGov

theorem partSt_clearDies (k : Nat) (m : Mod) : partSt (clearDies k m) k = { partSt m k with xlat := [], chains := [] } := by
  have hparts : ((partDies m k).foldl clearDie m).parts = m.parts := parts_foldl fun _ _ => rfl
  have hset : (clearDies k m).parts = smod {} ((partDies m k).foldl clearDie m).parts k fun p => { p with xlat := [], chains := [] } := rfl
  rw [partSt, hset, hparts, sget_smod_same, partSt]

theorem sync_clearDies (k : Nat) (m : Mod) :
    (clearDies k m).sync = m.sync.filter fun kv => !(partDies m k).contains (kv.1 / 16384) := by
  have hsync : ((partDies m k).foldl clearDie m).sync = m.sync :=
    OutsideAccess.foldl (f := (·.sync)) (h := clearDie) (fun _ _ => rfl) _ m
  rw [← hsync]
  rfl

/-- A stream that phase 2 begins with keeps what its slot does not hold. -/
theorem KeptByStreams.enterStreams {s : Nat} {P : Mod → Prop} (hP : KeptByStreams s P) (t : Clk) (d : Nat) (m : Mod) (hm : P m) :
    P (enterStreams t m (d, s)) := by
  unfold Machine.enterStreams
  split_ifs
  · exact hP.scrubClose t d s m hm
  · exact hP.scrubLimit t d s m hm

theorem foldl_enterStreams {P : Mod → Prop} (hP : ∀ s, KeptByStreams s P) (t : Clk) (l : List (Nat × Nat)) (m : Mod) (hm : P m) :
    P (l.foldl (enterStreams t) m) :=
  List.foldlRecOn (motive := P) _ _ hm fun u hu x _ => (hP x.2).enterStreams t x.1 u hu

theorem partRest_foldl_enterStreams (k : Nat) (t : Clk) (l : List (Nat × Nat)) (m : Mod) :
    partRest (l.foldl (enterStreams t) m) k = partRest m k :=
  foldl_enterStreams (P := fun u => partRest u k = partRest m k) (fun _ => kept_partRest k _) t l m rfl

theorem sync_foldl_enterStreams (t : Clk) (l : List (Nat × Nat)) (m : Mod) : (l.foldl (enterStreams t) m).sync = m.sync := by
  have h := foldl_enterStreams (P := fun u => besidesStreams u = besidesStreams m) (fun _ => kept_besides m) t l m rfl
  exact congrArg (·.sync) h

/-- What the end of phase 1 leaves of the partition and of the sync objects. -/
theorem quiesceEnd_leaves {k : Nat} {m : Mod} {x : Scrub} (hx : (partSt m k).scrub = some x) (hphase : x.phase = .quiesce)
    (hquiet : partQuiet m k = true) (ht : m.pwr.tripped = false) (t : Clk) :
    (∃ y, (partSt (quiesceEnd k t m) k).scrub = some y ∧ y.phase = .streams)
      ∧ (partSt (quiesceEnd k t m) k).xlat = [] ∧ (partSt (quiesceEnd k t m) k).chains = []
      ∧ ∀ y ∈ (quiesceEnd k t m).sync, (partDies m k).contains (y.1 / 16384) = false := by
  obtain ⟨sq, tag, phase, going, failed, fl⟩ := x
  obtain rfl : phase = .quiesce := hphase
  have heq : quiesceEnd k t m =
      let m1 := modScrub (clearDies k m) k fun x => { x with phase := .streams }
      let m2 := (partSlots m1 k).foldl (enterStreams t) m1
      askUnits k ((unitsOf m2 k).filter fun u => decide (u < 16)) m2 := by
    simp only [quiesceEnd, hx, hquiet, ht]
    simp
  rw [heq]
  extract_lets m1 m2
  have hm1 : partSt m1 k = { partSt m k with xlat := [], chains := [], scrub := some ⟨sq, tag, .streams, going, failed, fl⟩ } := by
    simp only [m1, partSt_modScrub, partSt_clearDies, hx, Option.map_some]
  have hrest : partRest m2 k = partRest m1 k := partRest_foldl_enterStreams ..
  have hscrub : (partSt m2 k).scrub = some ⟨sq, tag, .streams, going, failed, fl⟩ := (congrArg (·.scrub) hrest).trans (by simp [partRest, hm1])
  have hxlat : (partSt m2 k).xlat = [] := (congrArg (·.xlat) hrest).trans (by simp [partRest, hm1])
  have hchains : (partSt m2 k).chains = [] := (congrArg (·.chains) hrest).trans (by simp [partRest, hm1])
  have hsync : m2.sync = m.sync.filter fun kv => !(partDies m k).contains (kv.1 / 16384) :=
    (sync_foldl_enterStreams t _ m1).trans (sync_clearDies k m)
  generalize (unitsOf m2 k).filter (fun u => decide (u < 16)) = us
  generalize m2 = v at *
  have hpart : partSt (askUnits k us v) k = partSt (modScrub v k fun x => { x with going := x.going ++ us }) k :=
    askUnits_outside (partSt · k) (fun _ _ _ => rfl) k us v
  have hsame : (askUnits k us v).sync = v.sync := askUnits_outside (·.sync) (fun _ _ _ => rfl) k us v
  rw [hpart, hsame, partSt_modScrub, hscrub, hsync]
  refine ⟨⟨_, rfl, rfl⟩, hxlat, hchains, fun y hy => ?_⟩
  simpa using (List.mem_filter.1 hy).2

/-! ## Phases 2 and 3 -/

/-- Once no stream is open the tier's units join those under way. -/
theorem streamsEnd_leaves {k : Nat} {m : Mod} {x : Scrub} (hx : (partSt m k).scrub = some x) (hphase : x.phase = .streams)
    (hclosed : ∀ y ∈ partSlots m k, isOpen (strm m y.1 y.2).st = false) (ht : m.pwr.tripped = false) (t : Clk) :
    (partSt (streamsEnd k t m) k).scrub = some { x with
      phase := .overwrite, going := x.going ++ (unitsOf m k).filter fun u => decide (16 ≤ u) } := by
  obtain ⟨sq, tag, phase, going, failed, fl⟩ := x
  obtain rfl : phase = .streams := hphase
  have hnone : (partSlots m k).any (fun x => isOpen (strm m x.1 x.2).st) = false := by
    rw [List.any_eq_false]
    exact fun y hy => by simp [hclosed y hy]
  have heq : streamsEnd k t m = askUnits k ((unitsOf m k).filter fun u => decide (16 ≤ u)) (modScrub m k fun x => { x with phase := .overwrite }) := by
    simp only [streamsEnd, hx]
    exact if_neg (by simp [hnone, ht])
  rw [heq, askUnits_outside (fun u => (partSt u k).scrub) (fun _ _ _ => rfl), scrub_modScrub (scrub_modScrub hx _)]

theorem peek_overwrite (k u : Nat) (m : Mod) (a : Nat) : peek (overwrite k u [] m).mem a = if unitHolds m k u a then 0 else peek m.mem a := by
  have hcells : (overwrite k u [] m).mem.cells
      = m.mem.cells.filter fun kv => (fun a => !unitHolds m k u a || List.contains [] (a / 256)) kv.1 := rfl
  rw [peek, hcells, sget_filter_keys (p := fun a => !unitHolds m k u a || List.contains [] (a / 256))]
  cases unitHolds m k u a <;> simp [peek]

/-- A unit overwritten without a failed line. -/
theorem unitDone_clean {k u : Nat} {m : Mod} (hk : overwriting m u = some k) (t : Clk) :
    unitDone u [] t m = modScrub (returnLeave (overwrite k u [] m) (unitGov u) (scrubId k u)) k fun x => { x with going := x.going.erase u } := by
  simp only [unitDone, hk]
  rfl

end Sys2Proof.Machine
end

/-! # What the last phase of a SCRUB leaves (R559, R561) -/

section
namespace Sys2Proof.Machine

/-! ## A command that ends -/

section
variable {α : Type} (f : Mod → α) (hf : ∀ m c r, f { m with cmds := c, rings := r } = f m)
include hf

theorem retireAt_outside (time : W64) (sq tag status : Nat) (r : Byte) (fl : BitVec 16) (m : Mod) :
    f (retireAt time sq tag status r fl m) = f m := hf m _ _

/-- The end of a command is told to its record and its ring alone. -/
theorem endCmd_outside (t : Clk) (sq tag status : Nat) (m : Mod) : f (endCmd t sq tag status m) = f m := by
  unfold endCmd
  split
  · rfl
  · split
    · rfl
    · exact hf m _ _
    · split
      · exact hf m _ _
      · exact hf m _ _

end

/-! ## What belongs to the partition -/

/-- What no part of clearing a partition changes but the sweep of its regions. -/
def regionsCmds (m : Mod) : Sparse Region × List Cmd := (m.regions, m.cmds)

theorem fst_regionsCmds (m : Mod) : (regionsCmds m).1 = m.regions := rfl

theorem snd_regionsCmds (m : Mod) : (regionsCmds m).2 = m.cmds := rfl

theorem regionsCmds_closePartRings (k : Nat) (m : Mod) : regionsCmds (closePartRings k m) = regionsCmds m := by
  refine OutsideAccess.foldl (fun u n => ?_) _ m
  simp only
  split_ifs <;> rfl

theorem regionsCmds_clearTallies (k : Nat) (m : Mod) : regionsCmds (clearTallies k m) = regionsCmds m := by
  unfold clearTallies
  extract_lets ds m1
  exact Eq.trans (OutsideAccess.foldl (f := regionsCmds) (fun _ _ => by rfl) _ _) rfl

theorem cmds_foldl_dropLanding (l : List (Nat × Nat)) (m : Mod) : (l.foldl dropLanding m).cmds = m.cmds :=
  OutsideAccess.foldl (f := (·.cmds)) (h := dropLanding) (fun u x => by
    have h := KeptByStreams.reclaimSegs x.1 x.2 u (kept_besides u) rfl
    exact congrArg (·.cmds) h) l m

/-- The ports that carried the partition's traffic go down. -/
def partPortsDown (t : Clk) (k : Nat) (m : Mod) : Mod :=
  (List.range 18).foldl (fun m p => if portPart m p = k ∧ (portEn m p ∨ (port m p).st ≠ .down) then portDown t p 0 m else m) m

theorem regionsCmds_partPortsDown (t : Clk) (k : Nat) (m : Mod) : regionsCmds (partPortsDown t k m) = regionsCmds m := by
  refine OutsideAccess.foldl (fun u p => ?_) _ m
  split_ifs
  · exact portDown_outside t p 0 u regionsCmds fun _ _ _ _ _ => rfl
  · rfl

/-- The partition's regions, media slots that are set aside, experts and unlocks go. -/
def sweepPart (k : Nat) (was m : Mod) : Mod :=
  { m with
    media := m.media.map fun d => if bit (partIngest was k) d.1 then (d.1, { d.2 with slots := d.2.slots.filter fun z => decide (z.1 < 64) }) else d
    regions := m.regions.filter fun kv => kv.2.part != k
    exp := m.exp.filter fun kv => !(partDies m k).contains (kv.1 / 4096 / 16)
    sec := { m.sec with unlocks := m.sec.unlocks.filter fun u => u.part != some k } }

/-- The partition once its record is as new. -/
def newPart (k : Nat) (m : Mod) : Mod :=
  modPart (setBit m (rPart k) 0 false) k fun p => { ({} : PartSt) with reason := p.reason, traceHead := p.traceHead }

theorem clearPart_eq (t : Clk) (k : Nat) (m : Mod) : clearPart t k m
    = newPart k (partPortsDown t k (closePartRings k (clearTallies k (sweepPart k m
        ((partSlots m k).foldl dropLanding (freeProgram (clearLayouts k m) k)))))) := by
  simp only [clearPart, newPart, partPortsDown, sweepPart]

theorem partSt_newPart (k : Nat) (m : Mod) :
    partSt (newPart k m) k = { ({} : PartSt) with reason := (partSt m k).reason, traceHead := (partSt m k).traceHead } := by
  rw [newPart, partSt_modPart, if_pos rfl]
  rfl

theorem regionsCmds_newPart (k : Nat) (m : Mod) : regionsCmds (newPart k m) = regionsCmds m := rfl

theorem partEn_newPart (k : Nat) (m : Mod) : partEn (newPart k m) k = false := regB_setBit_same m (rPart k) (by decide) false

/-- From the sweep on, regions and commands stay. -/
theorem regionsCmds_swept (t : Clk) (k : Nat) (m : Mod) :
    regionsCmds (newPart k (partPortsDown t k (closePartRings k (clearTallies k m)))) = regionsCmds m := by
  rw [regionsCmds_newPart, regionsCmds_partPortsDown, regionsCmds_closePartRings, regionsCmds_clearTallies]

theorem cmds_freeProgram (k : Nat) (m : Mod) : (freeProgram (clearLayouts k m) k).cmds = m.cmds := rfl

theorem regionsCmds_clearPart (t : Clk) (k : Nat) (m : Mod) :
    ∃ m1 : Mod, m1.cmds = m.cmds ∧ regionsCmds (clearPart t k m) = (m1.regions.filter fun kv => kv.2.part != k, m1.cmds) := by
  refine ⟨(partSlots m k).foldl dropLanding (freeProgram (clearLayouts k m) k), ?_, ?_⟩
  · rw [cmds_foldl_dropLanding, cmds_freeProgram]
  · rw [clearPart_eq, regionsCmds_swept]
    rfl

theorem cmds_clearPart (t : Clk) (k : Nat) (m : Mod) : (clearPart t k m).cmds = m.cmds := by
  obtain ⟨m1, hcmds, heq⟩ := regionsCmds_clearPart t k m
  rw [← snd_regionsCmds, heq, hcmds]

/-- Clearing a partition leaves none of its regions. -/
theorem regions_clearPart {t : Clk} {k : Nat} {m : Mod} {y : Nat × Region} (h : y ∈ (clearPart t k m).regions) : y.2.part ≠ k := by
  obtain ⟨m1, -, heq⟩ := regionsCmds_clearPart t k m
  rw [← fst_regionsCmds, heq] at h
  simpa using (List.mem_filter.1 h).2

/-- The last step of clearing a partition. -/
theorem clearPart_ends (t : Clk) (k : Nat) (m : Mod) : ∃ v, clearPart t k m = newPart k v := ⟨_, clearPart_eq t k m⟩

theorem partSt_clearPart (t : Clk) (k : Nat) (m : Mod) :
    ∃ r h, partSt (clearPart t k m) k = { ({} : PartSt) with reason := r, traceHead := h } := by
  obtain ⟨v, hv⟩ := clearPart_ends t k m
  rw [hv]
  exact ⟨_, _, partSt_newPart k v⟩

theorem partEn_clearPart (t : Clk) (k : Nat) (m : Mod) : partEn (clearPart t k m) k = false := by
  obtain ⟨v, hv⟩ := clearPart_ends t k m
  rw [hv, partEn_newPart]

/-- The end of a SCRUB: its partition cleared, and its command's end with the fault of a failed line. -/
theorem scrubEnd_eq {k : Nat} {m v : Mod} {sq tag : Nat} {failed : Bool} {fl : BitVec 16}
    (hx : (partSt m k).scrub = some ⟨sq, tag, .overwrite, [], failed, fl⟩) (ht : m.pwr.tripped = false) (t : Clk)
    (hv : clearPart t k m = v) :
    scrubEnd k t m = endCmd t sq tag 0 (if failed then modCmd v sq tag fun c => { c with fault := some (fl, 0) } else v) := by
  unfold scrubEnd
  rw [hv, hx]
  simp only [ht]
  rfl

/-- Its effect, whether a line has failed or not. -/
theorem scrubEnd_ends {k : Nat} {m : Mod} {x : Scrub} (hx : (partSt m k).scrub = some x) (hphase : x.phase = .overwrite)
    (hgoing : x.going = []) (ht : m.pwr.tripped = false) (t : Clk) : ∃ (v : Mod) (f : Cmd → Cmd), v = clearPart t k m
      ∧ (∀ c, (f c).sq = c.sq ∧ (f c).tag = c.tag) ∧ scrubEnd k t m = endCmd t x.sq x.tag 0 (modCmd v x.sq x.tag f) := by
  obtain ⟨sq, tag, phase, going, failed, fl⟩ := x
  obtain rfl : phase = .overwrite := hphase
  obtain rfl : going = [] := hgoing
  obtain ⟨v, hv⟩ : ∃ v, clearPart t k m = v := ⟨_, rfl⟩
  have heq := scrubEnd_eq hx ht t hv
  cases failed with
  | false => exact ⟨v, id, hv.symm, fun _ => ⟨rfl, rfl⟩, by simpa [modCmd] using heq⟩
  | true => exact ⟨v, fun c => { c with fault := some (fl, 0) }, hv.symm, fun _ => ⟨rfl, rfl⟩, by simpa using heq⟩

/-- What the end of a SCRUB leaves. -/
theorem scrubEnd_leaves {k : Nat} {m : Mod} {x : Scrub} (hx : (partSt m k).scrub = some x) (hphase : x.phase = .overwrite)
    (hgoing : x.going = []) (ht : m.pwr.tripped = false) (t : Clk) :
    (partSt (scrubEnd k t m) k).scrub = none ∧ (partSt (scrubEnd k t m) k).prog = none ∧ (partSt (scrubEnd k t m) k).keyGen = none
      ∧ partEn (scrubEnd k t m) k = false ∧ (∀ y ∈ (scrubEnd k t m).regions, y.2.part ≠ k)
      ∧ ∀ c, findCmd m x.sq x.tag = some c → ∃ d, findCmd (scrubEnd k t m) x.sq x.tag = some d ∧ d.st = .retired := by
  obtain ⟨v, f, hv, hf, heq⟩ := scrubEnd_ends hx hphase hgoing ht t
  obtain ⟨r, h, hpart⟩ := partSt_clearPart t k m
  have hen := partEn_clearPart t k m
  have hregions : ∀ y ∈ (clearPart t k m).regions, y.2.part ≠ k := fun _ hy => regions_clearPart hy
  have hcmds := cmds_clearPart t k m
  rw [← hv] at hpart hen hregions hcmds
  have hsame : partSt (scrubEnd k t m) k = partSt v k := by
    rw [heq, endCmd_outside (partSt · k) (fun _ _ _ => rfl)]
    rfl
  have hregs : (scrubEnd k t m).regions = v.regions := by
    rw [heq, endCmd_outside (·.regions) (fun _ _ _ => rfl)]
    rfl
  have hbar0 : partEn (scrubEnd k t m) k = partEn v k := by
    rw [heq, endCmd_outside (partEn · k) (fun _ _ _ => rfl)]
    rfl
  rw [hsame, hregs, hbar0, hpart]
  refine ⟨rfl, rfl, rfl, hen, hregions, fun c hc => ?_⟩
  rw [heq]
  refine retired_endCmd (c := f c) ?_ t 0
  rw [findCmd_modCmd v _ _ hf, findCmd, hcmds, ← findCmd, hc, Option.map_some]

end Sys2Proof.Machine
end

/-! # The start of a SCRUB (R559, R563, R599) -/

section
namespace Sys2Proof.Machine

/-! ## What the start of a scrub leaves once it stands -/

/-- The scrub of a partition, and the unlocks in force. -/
def scrubKey (k : Nat) (m : Mod) : Option Scrub × List Unlock := ((partSt m k).scrub, m.sec.unlocks)

theorem scrubKey_of_parts {k : Nat} {m u : Mod} (hp : u.parts = m.parts) (hs : u.sec = m.sec) : scrubKey k u = scrubKey k m := by
  rw [scrubKey, partSt, hp, hs, scrubKey, partSt]

theorem scrubKey_modPart {k j : Nat} {h : PartSt → PartSt} (hh : ∀ p, (h p).scrub = p.scrub) (m : Mod) :
    scrubKey k (modPart m j h) = scrubKey k m := by
  have hscrub : (partSt (modPart m j h) k).scrub = (partSt m k).scrub := by
    rw [partSt_modPart]
    split_ifs with hj
    · rw [hh, hj]
    · rfl
  rw [scrubKey, hscrub, modPart_sec, scrubKey]

theorem outsideAccess_scrubKey (k : Nat) : OutsideAccess (scrubKey k) where
  engine _ _ _ := rfl
  logs _ _ := rfl
  mem _ _ := rfl
  sync _ _ := rfl
  out _ _ := rfl
  part m j h hh := scrubKey_modPart (fun p => by rw [hh p]) m

theorem scrubKey_undisturbed {k : Nat} {m u : Mod} (hp : u.parts = m.parts) (h : Undisturbed m u) : scrubKey k u = scrubKey k m := by
  have hs : (stillMod u).sec = (stillMod m).sec := congrArg (·.sec) h.1
  exact scrubKey_of_parts hp hs

/-! ## Tasks, commands and breaks that end -/

theorem scrubKey_endTasks (k : Nat) (ids : List Nat) (m : Mod) : scrubKey k (ids.foldl (fun m tk =>
      let x := ctx m (tk / 4) (tk % 4)
      if x.st = .finished ∨ x.st = .faulted ∨ x.st = .empty then m
      else dropCollects (resetQueues (stopTask m tk .faulted none) tk) tk) m) = scrubKey k m := by
  refine OutsideAccess.foldl (fun u tk => ?_) ids m
  simp only
  split_ifs
  · rfl
  · refine scrubKey_undisturbed ?_ (Still.trans (Still.trans (Still.stopTask ..) (Still.resetQueues ..)) (Still.dropCollects ..))
    rw [parts_dropCollects, parts_resetQueues, parts_stopTask]

theorem scrubKey_stopTasks (k j : Nat) (m : Mod) : scrubKey k (stopTasks j m) = scrubKey k m := by
  unfold stopTasks
  split
  · rfl
  · exact scrubKey_endTasks ..

theorem scrubKey_discardRuns (k sq tag : Nat) (m : Mod) : scrubKey k (discardRuns sq tag m) = scrubKey k m := by
  refine scrubKey_undisturbed ?_ (Still.discardRuns ..)
  exact parts_foldl fun u ge => parts_returnDescs ge.2 ge.1 _ u

theorem scrubKey_abortEffect (k : Nat) (c : Cmd) (m : Mod) : scrubKey k (abortEffect c m) = scrubKey k m := by
  unfold abortEffect
  simp only
  split
  · split
    · exact scrubKey_endTasks ..
    · rfl
  · unfold stopChain modChain
    refine scrubKey_modPart (fun _ => ?_) m
    rfl
  · exact scrubKey_discardRuns ..
  · rfl

theorem scrubKey_gatherClose (k : Nat) (t : Clk) (m : Mod) (d : Nat) (part : Option Nat) (g : Gather) (ok : Bool) :
    scrubKey k (gatherClose t m d part g ok) = scrubKey k m := by
  unfold gatherClose
  split
  · rfl
  · simp only
    split
    · rfl
    · exact (outsideAccess_scrubKey k).logFault ..

theorem scrubKey_endQuietly (k : Nat) (m : Mod) (c : Cmd) : scrubKey k (endQuietly m c) = scrubKey k m := by
  unfold endQuietly
  extract_lets m1 m2
  have hstate : scrubKey k m1 = scrubKey k m := by
    simp only [m1]
    split
    · rfl
    · exact scrubKey_abortEffect ..
    · rfl
  have hxch : scrubKey k m2 = scrubKey k m1 := by
    simp only [m2]
    split_ifs <;> rfl
  rw [← hstate, ← hxch]
  split_ifs
  · exact scrubKey_gatherClose ..
  · rfl

theorem scrubKey_abortOf (k : Nat) (t : Clk) (m : Mod) (c : Cmd) : scrubKey k (abortOf t m c) = scrubKey k m := by
  unfold abortOf
  split
  · rfl
  · exact (retireAt_outside (scrubKey k) (fun _ _ _ => rfl) ..).trans (scrubKey_endQuietly ..)

theorem scrubKey_cmdDone (k : Nat) (t : Clk) (c : Cmd) (m : Mod) : scrubKey k (cmdDone t c m) = scrubKey k m :=
  endCmd_outside (scrubKey k) (fun _ _ _ => rfl) ..

theorem scrubKey_cmdResult (k : Nat) (t : Clk) (c : Cmd) (a : Nat) (bs : List Byte) (m : Mod) :
    scrubKey k (cmdResult t c a bs m) = scrubKey k m := by
  have hwrite := (outsideAccess_scrubKey k).writeMem t m (cmdReq c) a bs false .clean
  unfold cmdResult
  split
  next heq =>
    rw [heq] at hwrite
    exact (scrubKey_cmdDone k t c _).trans hwrite
  next heq =>
    rw [heq] at hwrite
    exact (scrubKey_cmdDone k t c _).trans hwrite

theorem scrubKey_endBrk (k : Nat) (t : Clk) (b : Brk) (m : Mod) : scrubKey k (endBrk t b m) = scrubKey k m := by
  unfold endBrk
  simp only
  split
  · exact scrubKey_cmdResult ..
  · rfl

theorem scrubKey_endClears (k : Nat) (t : Clk) (b : Brk) (m : Mod) : scrubKey k (endClears t b m) = scrubKey k m :=
  OutsideAccess.foldl (fun u c => scrubKey_cmdDone k t c u) _ m

theorem scrubKey_resumeEngine (k : Nat) (t : Clk) (g : Nat) (m : Mod) : scrubKey k (resumeEngine t g m) = scrubKey k m := by
  unfold resumeEngine
  split_ifs
  · rfl
  · exact trace_outside (scrubKey k) (fun _ _ _ => rfl) ..

theorem scrubKey_endHalting (k : Nat) (m : Mod) (g : Nat) : scrubKey k (endHalting m g) = scrubKey k m := by
  unfold endHalting
  split_ifs <;> rfl

theorem scrubKey_clearDebug (k : Nat) (t : Clk) (ks : List Nat) (m : Mod) : scrubKey k (clearDebug t ks m) = scrubKey k m := by
  have hbreaks : ∀ (l : List Brk) (v : Mod), scrubKey k (l.foldl (fun m b => endClears t b (endBrk t { b with hit := none } m)) v) = scrubKey k v :=
    fun l v => OutsideAccess.foldl (fun u b => (scrubKey_endClears ..).trans (scrubKey_endBrk ..)) l v
  have hengines : ∀ (l : List Nat) (v : Mod), scrubKey k (l.foldl (fun m g => endHalting (resumeEngine t g m) g) v) = scrubKey k v :=
    fun l v => OutsideAccess.foldl (fun u g => (scrubKey_endHalting ..).trans (scrubKey_resumeEngine ..)) l v
  unfold clearDebug
  extract_lets mine m1
  refine Eq.trans (OutsideAccess.foldl (fun u j => ?_) ks m1) (hbreaks _ m)
  exact hengines (haltSet u j 0xFF) u

theorem scrubKey_quietPort (k j : Nat) (m : Mod) (p : Nat) : scrubKey k (quietPort j m p) = scrubKey k m := by
  unfold quietPort
  simp only
  split_ifs
  · rfl
  · exact foldl_dropSignals_outside (scrubKey k) (fun _ _ => rfl) ..

theorem scrubKey_quietPorts (k j : Nat) (l : List Nat) (m : Mod) : scrubKey k (l.foldl (quietPort j) m) = scrubKey k m :=
  OutsideAccess.foldl (scrubKey_quietPort k j) l m

/-- The work on a stream is no scrub's. -/
theorem kept_scrubKey {s : Nat} (k : Nat) {m0 : Mod} (t : Clk) (d : Nat) (f : Strm → Strm) :
    scrubKey k (pauseFor t d s 3 (modStrm m0 d s f)) = scrubKey k m0 := by
  have hpart := KeptByStreams.pauseFor t d s 3 _ (kept_partRest k (partRest m0 k)) (KeptByStreams.strm m0 d s f (kept_partRest k _) rfl)
  have hrest := KeptByStreams.pauseFor t d s 3 _ (kept_besides m0) (KeptByStreams.strm m0 d s f (kept_besides m0) rfl)
  exact Prod.ext (congrArg (·.scrub) hpart) (congrArg (·.sec.unlocks) hrest)

theorem scrubKey_pauses (k : Nat) (t : Clk) (l : List (Nat × Nat)) (m : Mod) :
    scrubKey k (l.foldl (fun m x => pauseFor t x.1 x.2 3 (modStrm m x.1 x.2 fun y => { y with sinceData := t.now })) m) = scrubKey k m := by
  refine OutsideAccess.foldl (fun u x => ?_) l m
  obtain ⟨d, s⟩ := x
  have h := kept_scrubKey (m0 := u) (s := s) k t d fun y => { y with sinceData := t.now }
  exact h

/-! ## The start -/

theorem scrubErr_markStarted (c : Cmd) (m : Mod) (k : Nat) : scrubErr (markStarted c m) k = scrubErr m k := rfl

/-- The scrub stands in its partition, and the partition's unlocks are gone. -/
def standing (k : Nat) (x : Scrub) (m : Mod) : Mod :=
  let m1 := modPart m k fun p => { p with scrub := some x }
  { m1 with sec := { m1.sec with unlocks := m1.sec.unlocks.filter fun u => u.part != some k } }

theorem scrubKey_standing (k : Nat) (x : Scrub) (m : Mod) :
    scrubKey k (standing k x m) = (some x, m.sec.unlocks.filter fun u => u.part != some k) := by
  have hparts : (standing k x m).parts = smod {} m.parts k fun p => { p with scrub := some x } := rfl
  rw [scrubKey, partSt, hparts, sget_smod_same]
  rfl

theorem scrubKey_stopChains (k j : Nat) (m : Mod) : scrubKey k (stopChains j m) = scrubKey k m := by
  refine scrubKey_modPart (fun _ => ?_) m
  rfl

theorem scrubKey_dropBreaks (k : Nat) (gone : Nat → Bool) (m : Mod) : scrubKey k (dropBreaks gone m) = scrubKey k m := rfl

/-- A scrub that starts stands in its partition, whose unlocks are gone. -/
theorem scrubBody_stands {c : Cmd} {m : Mod} (h : scrubErr m (carg c 0x10 1) = none) (t : Clk) :
    scrubKey (carg c 0x10 1) (scrubBody c t m)
      = (some { sq := c.sq, tag := c.tag, phase := .quiesce, going := [], failed := false, flog := 0 },
          m.sec.unlocks.filter fun u => u.part != some (carg c 0x10 1)) := by
  unfold scrubBody
  extract_lets k gone m1 src m2 m3 m4 m5
  have hk : scrubErr m k = none := h
  change scrubKey k _ = (_, m.sec.unlocks.filter fun u => u.part != some k)
  clear_value k
  simp -zeta only [hk]
  have h2 : scrubKey k m2 = scrubKey k (standing k _ m) := scrubKey_clearDebug k t [k] _
  rw [scrubKey_standing] at h2
  clear_value m2
  have h3 : scrubKey k m3 = scrubKey k m2 := by
    simp only [m3, scrubKey_stopChains, scrubKey_stopTasks, scrubKey_dropBreaks]
  clear_value m3
  have h4 : scrubKey k m4 = scrubKey k m3 := OutsideAccess.foldl (scrubKey_abortOf k t) _ m3
  clear_value m4
  have h5 : scrubKey k m5 = scrubKey k m4 := by
    simp only [m5, scrubKey_quietPorts]
  clear_value m5
  rw [← h2, ← h3, ← h4, ← h5]
  exact scrubKey_pauses k t _ m5

end Sys2Proof.Machine

namespace Sys2Proof
open Machine

/-- Settles O36: each phase by what its last step leaves, the start by what stays once the scrub stands. -/
theorem scrubPhases : Obligations.ScrubPhases := by
  unfold Obligations.ScrubPhases
  refine ⟨fun sq tag c s hready herr _ _ => ?start, fun k x s hx ht => ⟨fun hphase hquiet => ?quiesced, fun hphase hclosed => ?closed,
    fun hphase hgoing => ?ended⟩, fun u k x s hk hx => ?unit⟩
  case start =>
    obtain ⟨hsq, htag⟩ := key_of_findCmd hready.1
    have hstands := scrubBody_stands (m := markStarted c s.m) ((scrubErr_markStarted ..).trans herr) s.clk
    obtain ⟨hscrub, hunlocks⟩ := Prod.mk.inj hstands
    rw [exec_scrub]
    refine settlesAll_onAll ?_
    rw [startCmd_ready hready, hscrub, hunlocks]
    exact ⟨_, rfl, rfl, hsq, htag, fun y hy => by simpa using (List.mem_filter.1 hy).2⟩
  case quiesced => exact exec_scrubQuiesceEnd k s ▸ settlesAll_onAll (quiesceEnd_leaves hx hphase hquiet ht s.clk)
  case closed => exact exec_scrubStreamsEnd k s ▸ settlesAll_onAll ⟨_, streamsEnd_leaves hx hphase hclosed ht s.clk, rfl, rfl⟩
  case ended =>
    obtain ⟨hscrub, hprog, hkeys, hen, hregions, hcmd⟩ := scrubEnd_leaves hx hphase hgoing ht s.clk
    exact exec_scrubOverwriteEnd k s ▸ links_onPort ⟨hscrub, hprog, hkeys, hen, hregions, fun c hc _ => hcmd c hc⟩
  case unit =>
    rw [exec_overwriteEnd]
    refine settlesAll_onAll ?_
    rw [unitDone_clean hk]
    refine ⟨fun a ha => ?_, fun a ha => ?_, grants_returnLeave .., _, scrub_modScrub hx _, rfl⟩
    · exact (peek_overwrite k u s.m a).trans (by simp [ha])
    · exact (peek_overwrite k u s.m a).trans (by simp [ha])

end Sys2Proof
end

/-! # An unlock that lapses and clears a BREAK (R598, R599)

The BREAKs of the partition complete with their results, 32 bytes in memory; the statement says that memory is as it was. What
follows a command by itself writes DRAM only through the shards of a layout, so the lines of the result are still written once it
is done. -/

section
namespace Sys2Proof.Machine

/-! ## DRAM lines and layouts -/

/-- The DRAM lines, and the layouts in force. -/
def lineView (m : Mod) : Sparse Line × Option Layout × Option Layout := (m.mem.lines, m.xch.current, m.xch.previous)

theorem lineView_of_undisturbed {m u : Mod} (h : Undisturbed m u) : lineView u = lineView m := by
  have hview : lineView (stillMod u) = lineView (stillMod m) := congrArg lineView h.1
  exact hview

theorem lineView_foldl {α : Type} {f : Mod → α → Mod} (h : ∀ u x, lineView (f u x) = lineView u) (l : List α) (m : Mod) :
    lineView (l.foldl f m) = lineView m := OutsideAccess.foldl h l m

/-- A fold over a module and what it gathers beside it. -/
theorem lineView_foldl_fst {α β : Type} {f : Mod × β → α → Mod × β} (h : ∀ acc x, lineView (f acc x).1 = lineView acc.1) (l : List α)
    (acc : Mod × β) : lineView (l.foldl f acc).1 = lineView acc.1 :=
  List.foldlRecOn (motive := fun u : Mod × β => lineView u.1 = lineView acc.1) _ _ rfl fun u hu x _ => (h u x).trans hu

@[simp] theorem lineView_faultTask (t : Clk) (task : Nat) (typ reason : Byte) (addr info : W64) (poison : Bool) (m : Mod) :
    lineView (faultTask t task typ reason addr info poison m) = lineView m := lineView_of_undisturbed (Still.faultTask ..)

@[simp] theorem lineView_failTask (t : Clk) (task : Nat) (reason : Byte) (log : Nat) (m : Mod) :
    lineView (failTask t task reason log m) = lineView m := lineView_of_undisturbed (Still.failTask ..)

@[simp] theorem lineView_dropSignals (m : Mod) (id : Nat) : lineView (dropSignals m id) = lineView m := rfl

@[simp] theorem lineView_modEngine (m : Mod) (g : Nat) (f : Engine → Engine) : lineView (modEngine m g f) = lineView m := rfl

@[simp] theorem lineView_modExp (m : Mod) (g n : Nat) (f : ExpRound → ExpRound) : lineView (modExp m g n f) = lineView m := rfl

/-! ## Collects and multicasts -/

theorem lines_pokes (mem : Mem) (a : Nat) (bs : List Byte) : (pokes mem a bs).lines = mem.lines := by
  induction bs generalizing mem a with
  | nil => rfl
  | cons b r ih => exact ih (poke mem a b) (a + 1)

theorem lineView_poked (m : Mod) (a : Nat) (bs : List Byte) : lineView { m with mem := pokes m.mem a bs } = lineView m :=
  congrArg (·, m.xch.current, m.xch.previous) (lines_pokes ..)

@[simp] theorem lineView_padWrite (m : Mod) (g off : Nat) (data : List Byte) : lineView (padWrite m g off data) = lineView m := by
  refine Eq.trans (lineView_foldl (fun _ _ => ?_) _ _) (lineView_poked m (padAddr g off) data)
  rfl

@[simp] theorem lineView_zeroBuffer (s : Shard) (m : Mod) : lineView (zeroBuffer s m) = lineView m := by
  refine Eq.trans (lineView_foldl (fun _ _ => ?_) _ _) (lineView_poked m _ _)
  rfl

theorem lineView_sectorPoison (m : Mod) (a n : Nat) (b : Bool) : lineView (sectorPoison m a n b) = lineView m := by
  refine lineView_foldl (fun _ _ => ?_) _ m
  rfl

theorem lineView_runCollect (t : Clk) (m : Mod) (c : Collect) : lineView (runCollect t c m) = lineView m := by
  have hxch : ∀ (u : Mod) (f : Xch → List Round), lineView (modXch u fun x => { x with rounds := f x }) = lineView u := fun _ _ => rfl
  have hleft : ∀ (u : Mod) (f : Xch → List Collect), lineView (modXch u fun x => { x with collects := f x }) = lineView u := fun _ _ => rfl
  have hprog : ∀ (u : Mod) k f, lineView (modProg u k f) = lineView u := fun _ _ _ => rfl
  unfold runCollect
  split
  · simp only
    split_ifs
    · rfl
    · refine (lineView_faultTask ..).trans ?_
      rfl
    · rw [hxch, lineView_zeroBuffer, lineView_padWrite, lineView_padWrite, hleft]
    · rw [hxch, lineView_zeroBuffer, hprog, lineView_padWrite, lineView_padWrite, hleft]
    · rfl
  · rfl

theorem lineView_runCollects (t : Clk) (m : Mod) : lineView (runCollects t m) = lineView m := lineView_foldl (lineView_runCollect t) _ m

theorem lineView_writePlace {p : Place} (hp : onDie p) (m : Mod) (bs : List Byte) (b : Bool) : lineView (writePlace m p bs b) = lineView m := by
  cases p with
  | pad => exact (lineView_sectorPoison ..).trans (lineView_poked ..)
  | pool => exact (lineView_sectorPoison ..).trans (lineView_poked ..)
  | _ => exact hp.elim

theorem lineView_putCopyAt {p : Place} (hp : onDie p) (bs : List Byte) (b : Bool) (m : Mod) : lineView (putCopyAt p bs b m) = lineView m := by
  refine lineView_foldl (fun u x => lineView_writePlace ?_ ..) _ m
  cases p with
  | pad => trivial
  | pool => trivial
  | _ => exact hp.elim

theorem lineView_logCopyDrop (t : Clk) (task part : Nat) (d : Nat × Bool × Nat) (off : Nat) (m : Mod) :
    lineView (logCopyDrop t task part d off m) = lineView m := rfl

theorem lineView_runMcast (t : Clk) (g : Nat) (v : VOp) (m : Mod) : lineView (runMcast t g v m) = lineView m := by
  unfold runMcast
  simp only
  generalize hr : List.foldl _ (m, ([] : List Nat), ([] : List ((Nat × Bool × Nat) × Nat))) _ = r
  have hcopies : lineView r.1 = lineView m := by
    rw [← hr]
    refine lineView_foldl_fst (fun acc i => ?_) _ _
    split
    · rfl
    · split_ifs
      · rfl
      · refine List.foldlRecOn (motive := fun u : Mod => lineView u = lineView acc.1) _ _ rfl fun u hu x hx => ?_
        obtain ⟨y, -, hy⟩ := List.mem_filterMap.1 hx
        obtain ⟨p, hp, rfl⟩ := Option.map_eq_some_iff.1 hy
        exact (lineView_putCopyAt (onDie_copyPlace hp) ..).trans hu
  have hleft : lineView (if r.2.1.isEmpty then dropVop g v.id r.1
      else modEngine r.1 g fun e => { e with vops := e.vops.map fun x => if x.id = v.id then { x with args := x.args.take 2 ++ r.2.1 } else x })
      = lineView m := by
    split_ifs
    · exact hcopies
    · exact hcopies
  split
  · exact hleft
  · rw [lineView_failTask, lineView_foldl fun _ _ => lineView_logCopyDrop .., lineView_dropSignals, hleft]

theorem lineView_runMcasts (t : Clk) (m : Mod) : lineView (runMcasts t m) = lineView m := by
  refine lineView_foldl (fun u x => ?_) _ m
  obtain ⟨g, v⟩ := x
  exact lineView_runMcast t g v u

/-! ## Tokens -/

@[simp] theorem lineView_gridPut (m : Mod) (g base row fmt t off : Nat) (bs : List Byte) :
    lineView (gridPut m g base row fmt t off bs) = lineView m := by
  refine lineView_foldl (fun _ _ => ?_) _ m
  simp only
  split_ifs
  · exact lineView_padWrite ..
  · rfl

@[simp] theorem lineView_putToken (g : Nat) (b : Bank) (x : Expert) (slot : Nat) (k : Packet) (m : Mod) :
    lineView (putToken g b x slot k m) = lineView m := lineView_gridPut ..

@[simp] theorem lineView_countTokenDrop (part : Nat) (m : Mod) : lineView (countTokenDrop part m) = lineView m := rfl

@[simp] theorem lineView_setTicket (m : Mod) (g n : Nat) (x : Option Ticket) : lineView (setTicket m g n x) = lineView m := rfl

@[simp] theorem lineView_applySignal (t : Clk) (d i n : Nat) (m : Mod) : lineView (applySignal t d i n m) = lineView m :=
  applySignal_outside lineView (fun _ _ _ => rfl) ..

@[simp] theorem lineView_completeRound (t : Clk) (g n : Nat) (b : Bank) (x : Expert) (m : Mod) :
    lineView (completeRound t g n b x m) = lineView m := by
  unfold completeRound
  simp only [lineView_applySignal, lineView_modExp]
  rw [lineView_foldl fun _ _ => lineView_padWrite .., lineView_padWrite, lineView_padWrite, lineView_foldl fun _ _ => lineView_gridPut ..]

@[simp] theorem lineView_finishTicket (g n : Nat) (m : Mod) : lineView (finishTicket g n m) = lineView m := by
  have hcnt : ∀ (u : Mod) c i v, lineView (setCnt g c i v u) = lineView u := fun _ _ _ _ => rfl
  have hdrop : ∀ (u : Mod) id, lineView (dropVop g id u) = lineView u := fun _ _ => rfl
  unfold finishTicket
  split
  · rfl
  · simp only
    split_ifs
    · rfl
    · split <;> simp [hdrop]
    · split <;> simp [hdrop, hcnt]

/-- What a packet does at its engine leaves the lines. -/
def KeepsLines (m : Mod) : Vc2 → Prop
  | .done u => lineView u = lineView m
  | .reply _ u => lineView u = lineView m
  | .held => True
  | .pinned => True

theorem keepsLines_tokenAt (part g n : Nat) (x : Expert) (k : Packet) (m : Mod) : KeepsLines m (tokenAt part g n x k m) := by
  unfold tokenAt
  extract_lets b r key m1 m2 m3
  have hstored : lineView m3 = lineView m := (lineView_padWrite ..).trans <| (lineView_padWrite ..).trans <| lineView_putToken ..
  split
  · trivial
  · split
    · split
      · exact (lineView_countTokenDrop ..).trans (lineView_modExp ..)
      · split
        · trivial
        · exact (lineView_modExp ..).trans hstored
    · split
      · exact lineView_modExp ..
      · split
        · rfl
        · split
          · trivial
          · exact (lineView_modExp ..).trans (lineView_putToken ..)

theorem keepsLines_tokenRetAt (g : Nat) (k : Packet) (m : Mod) : KeepsLines m (tokenRetAt g k m) := by
  unfold tokenRetAt
  extract_lets n
  split
  · rfl
  · simp only
    split_ifs
    · rfl
    · trivial
    · exact (lineView_finishTicket ..).trans ((lineView_setTicket ..).trans (lineView_gridPut ..))
    · exact lineView_gridPut ..

theorem keepsLines_tokenDropAt (g : Nat) (k : Packet) (m : Mod) : KeepsLines m (tokenDropAt g k m) := by
  fun_cases tokenDropAt <;> simp [KeepsLines]

theorem keepsLines_tokenEndAt (t : Clk) (g : Nat) (k : Packet) (m : Mod) : KeepsLines m (tokenEndAt t g k m) := by
  unfold tokenEndAt
  simp only
  split_ifs
  · trivial
  · trivial
  · refine lineView_foldl (fun _ _ => ?_) _ m
    split_ifs
    · exact lineView_completeRound ..
    · rfl

theorem keepsLines_vc2At (t : Clk) (port part : Nat) (k : Packet) (m : Mod) : KeepsLines m (vc2At t port part k m) := by
  have hdrop : KeepsLines m (.done (dropToken t port part k m)) := rfl
  unfold vc2At
  simp only
  split_ifs
  · exact hdrop
  · split
    · split
      · split_ifs
        · exact keepsLines_tokenAt ..
        · exact hdrop
      · exact hdrop
    · exact keepsLines_tokenRetAt ..
    · exact keepsLines_tokenDropAt ..
    · exact keepsLines_tokenEndAt ..

theorem lineView_sendReply (part : Nat) (k : Packet) (m : Mod) : lineView (sendReply part k m) = lineView m := by
  unfold sendReply
  split
  · split_ifs <;> rfl
  · rfl

@[simp] theorem lineView_arriveAt (t : Clk) (port part : Nat) (k : Packet) (w : Option (Nat × Nat)) (m : Mod) :
    lineView (arriveAt t port part k w m) = lineView m := by
  unfold arriveAt
  induction 3 generalizing k w m with
  | zero => rfl
  | succ fuel ih =>
    have hat := keepsLines_vc2At t port part k m
    unfold vc2Arrive
    simp only
    split
    · rfl
    · rfl
    · generalize vc2At t port part k m = v at hat
      cases v with
      | done u => exact hat
      | held => rfl
      | pinned => rfl
      | reply a u =>
        refine Eq.trans ?_ hat
        simp only
        split_ifs
        · exact ih ..
        · exact lineView_sendReply ..

theorem lineView_releaseHeld (t : Clk) (g n : Nat) (m : Mod) : lineView (releaseHeld t g n m) = lineView m :=
  (lineView_foldl (fun _ _ => lineView_arriveAt ..) _ _).trans (lineView_modExp ..)

theorem lineView_releasePins (t : Clk) (g n : Nat) (m : Mod) : lineView (releasePins t g n m) = lineView m :=
  (lineView_foldl (fun _ _ => lineView_arriveAt ..) _ _).trans (lineView_modExp ..)

theorem lineView_releaseAll (t : Clk) (m : Mod) : lineView (releaseAll t m) = lineView m := by
  unfold releaseAll
  simp only
  rw [lineView_foldl fun _ _ => lineView_releaseHeld .., lineView_foldl fun _ _ => lineView_releasePins ..]

/-! ## DISPATCH -/

theorem lineView_sendToken {t : Clk} {part task id : Nat} {k : Packet} {m u : Mod} {b : Bool}
    (h : sendToken t part task id k m = .ok (u, b)) : lineView u = lineView m := by
  unfold sendToken at h
  by_cases hdst : k.dst.toNat = moduleNum m
  · rw [if_pos hdst] at h
    obtain ⟨rfl, -⟩ := Prod.mk.inj (Except.ok.inj h)
    exact lineView_arriveAt ..
  · rw [if_neg hdst] at h
    split at h
    · cases h
    · split_ifs at h <;> cases h <;> rfl

theorem lineView_sendAll (t : Clk) (part task id g tk : Nat) (ks : List Packet) (acc : Mod × Option Byte) :
    lineView (sendAll t part task id g tk ks acc).1 = lineView acc.1 := by
  refine lineView_foldl_fst (fun acc k => ?_) ks acc
  split_ifs
  · rfl
  · split
    · rfl
    next hsent =>
      rw [← lineView_sendToken hsent]
      split_ifs
      · simp only
        split <;> rfl
      · rfl

theorem lineView_sendEntry (t : Clk) (part task id g tk : Nat) (b : Bank) (d : DispOp) (me row i : Nat) (acc : Mod × Option Byte) :
    lineView (sendEntry t part task id g tk b d me row i acc).1 = lineView acc.1 := by
  unfold sendEntry
  simp only
  split
  · rfl
  · split
    · split_ifs
      · split <;> rfl
      · rw [lineView_sendAll]
        split <;> rfl
    · split <;> rfl

theorem lineView_zeroRun (m : Mod) (g base row rows : Nat) : lineView (zeroRun m g base row rows) = lineView m :=
  lineView_foldl (fun _ _ => lineView_padWrite ..) _ m

theorem lineView_beginDispatch (t : Clk) (g : Nat) (v : VOp) (m : Mod) : lineView (beginDispatch t g v m) = lineView m := by
  unfold beginDispatch
  simp only
  split_ifs
  · rfl
  · generalize hr : sendAll t _ _ _ _ _ _ _ = r
    have hsent : lineView r.1 = lineView m := by
      rw [← hr, lineView_sendAll, lineView_foldl_fst fun acc row => lineView_foldl_fst (fun acc i => lineView_sendEntry ..) _ acc,
        lineView_modEngine, lineView_zeroRun]
    split
    · rw [lineView_faultTask, lineView_dropSignals]
      split <;> simp [hsent]
    · split <;> simp [hsent]

/-! ## Copies of a shard -/

/-- No layout is in force. -/
def noLayout (m : Mod) : Prop := m.xch.current = none ∧ m.xch.previous = none

theorem noLayout_of_lineView {m u : Mod} (h : lineView u = lineView m) (hm : noLayout m) : noLayout u := by
  obtain ⟨-, hboth⟩ := Prod.mk.inj h
  obtain ⟨hcurrent, hprevious⟩ := Prod.mk.inj hboth
  exact ⟨hcurrent.trans hm.1, hprevious.trans hm.2⟩

/-- Without a layout a copy finds no shard, and is dropped. -/
theorem lineView_runReplica {m : Mod} (h : noLayout m) (t : Clk) (g : Nat) (v : VOp) : lineView (runReplica t g v m) = lineView m := by
  have hlook : lookShard m (arg v.args 1) = .error 0x48 := by
    simp only [lookShard, h.1, h.2, Option.bind_none]
  unfold runReplica
  simp only [hlook]
  rfl

/-- The layouts in force alone. -/
def layouts (m : Mod) : Option Layout × Option Layout := (lineView m).2

theorem layouts_of_lineView {m u : Mod} (h : lineView u = lineView m) : layouts u = layouts m := congrArg (·.2) h

theorem outsideAccess_layouts : OutsideAccess layouts where
  engine _ _ _ := rfl
  logs _ _ := rfl
  mem _ _ := rfl
  sync _ _ := rfl
  out _ _ := rfl
  part _ _ _ _ := rfl

theorem layouts_arrivalSignal (t : Clk) (part : Nat) (s : Shard) (m : Mod) : layouts (arrivalSignal t part s m) = layouts m := by
  unfold arrivalSignal
  split
  · exact outsideAccess_layouts.applySignal ..
  · rfl

theorem layouts_faultAccess (t : Clk) (task id : Nat) (e : XErr) (m : Mod) : layouts (faultAccess t task e (dropSignals m id)) = layouts m :=
  layouts_of_lineView (lineView_failTask ..)

/-- With a layout a copy is written where its shard lies, and no layout changes. -/
theorem layouts_runReplica (t : Clk) (g : Nat) (v : VOp) (m : Mod) : layouts (runReplica t g v m) = layouts m := by
  unfold runReplica
  simp only
  split
  · rfl
  · split_ifs
    · rfl
    · split
      next heq =>
        refine (layouts_faultAccess ..).trans ?_
        exact OutsideAccess.of_fst (m := dropVop g v.id m) heq (outsideAccess_layouts.paramWrite ..)
      next heq =>
        refine (layouts_arrivalSignal ..).trans ?_
        exact OutsideAccess.of_fst (m := dropVop g v.id m) heq (outsideAccess_layouts.paramWrite ..)

theorem lineView_runHeld {m : Mod} (h : noLayout m) (t : Clk) : lineView (runHeld t m) = lineView m := by
  unfold runHeld
  simp only
  rw [lineView_foldl fun _ _ => lineView_beginDispatch ..]
  refine List.foldlRecOn (motive := fun u : Mod => lineView u = lineView m) _ _ rfl fun u hu x _ => ?_
  exact (lineView_runReplica (noLayout_of_lineView hu h) ..).trans hu

theorem layouts_runHeld (t : Clk) (m : Mod) : layouts (runHeld t m) = layouts m := by
  unfold runHeld
  simp only
  rw [layouts_of_lineView (lineView_foldl (fun _ _ => lineView_beginDispatch ..) _ _)]
  refine OutsideAccess.foldl (fun u x => ?_) _ m
  obtain ⟨g, v⟩ := x
  exact layouts_runReplica t g v u

theorem lineView_moved (t : Clk) (m : Mod) : lineView (runMcasts t (runCollects t m)) = lineView m :=
  (lineView_runMcasts ..).trans (lineView_runCollects ..)

theorem lineView_settleAll_held (t : Clk) (m : Mod) : lineView (settleAll t m) = lineView (runHeld t (runMcasts t (runCollects t m))) :=
  (lineView_of_undisturbed (Still.settle ..)).trans (lineView_releaseAll ..)

/-- No layout changes as a command settles. -/
theorem layouts_settleAll (t : Clk) (m : Mod) : layouts (settleAll t m) = layouts m := by
  rw [layouts_of_lineView (lineView_settleAll_held t m), layouts_runHeld, layouts_of_lineView (lineView_moved t m)]

/-- What follows a command by itself leaves the lines where no layout is in force. -/
theorem lineView_settleAll {m : Mod} (h : noLayout m) (t : Clk) : lineView (settleAll t m) = lineView m := by
  rw [lineView_settleAll_held, lineView_runHeld (noLayout_of_lineView (lineView_moved ..) h), lineView_moved]

/-- Where two states settle into one and the one has no layout, their lines are the same. -/
theorem lines_eq_of_settled {m u : Mod} {t : Clk} (h : settleAll t u = settleAll t m) (hm : noLayout m) : u.mem.lines = m.mem.lines := by
  have hlayouts : layouts u = layouts m := by rw [← layouts_settleAll t u, h, layouts_settleAll]
  obtain ⟨hcurrent, hprevious⟩ := Prod.mk.inj hlayouts
  have hu : noLayout u := ⟨hcurrent.trans hm.1, hprevious.trans hm.2⟩
  have hview : lineView u = lineView m := by rw [← lineView_settleAll hu t, h, lineView_settleAll hm]
  exact congrArg (·.1) hview

end Sys2Proof.Machine
end

section
namespace Sys2Proof.Machine

theorem exec_debugUnlockExpiry (i : Nat) (s : State) : exec (.debugUnlockExpiry i) s = onAll (unlockExpiry i) s := rfl

/-! ## The counterexample -/

/-- A BREAK of a core of die 0, its result at 1 GiB + 4 KiB of partition 0. -/
def lapsingBrk : Brk :=
  { sq := 0, tag := 0, core := true, target := 0, task := 0, index := 0, va := 0, skip := 0, whole := false, result := 0x40001000, hit := none }

def lapsingCmd : Cmd :=
  { sq := 0, tag := 0, seq := 0, op := 0x41, fence := false, entry := [], part := some 0, func := 0, st := .started, works := [],
    fallback := false, fault := none }

/-- Partition 0 reaches the first GiB of HBM. Its table at address 0 names itself in its first entry, and in its second the whole
GiB as one page. Its unlock ends at time 0. -/
def lapsingState : State :=
  { State.reset with
    m := { modReset with
      pwr := { pwrReset with state := .ms0 }
      bar0 := [(0x200100, 1), (0x200108, 0x40000000)]
      mem := { cells := [(0, 1), (8, 0xF)], lines := [(0, { key := 0, marked := false, poison := false })], poison := [], keep := [] }
      sec := { modReset.sec with unlocks := [{ part := some 0, ends := 0, func := 0 }] }
      cmds := [lapsingCmd]
      coreBreaks := [lapsingBrk] } }

/-- The line of the result is written. -/
theorem lineView_lapsing : lineView (unlockExpiry 0 lapsingState.clk lapsingState.m)
    = ([(0, { key := 0, marked := false, poison := false }), (16, { key := 0, marked := false, poison := false })], none, none) := by
  decide +kernel

end Sys2Proof.Machine

namespace Sys2Proof
open Machine

/-- Refutes O58: an unlock that lapses clears an armed BREAK of its partition, whose result is written to memory (R598, R599). -/
theorem not_mailboxRequests : ¬ Obligations.MailboxRequests := by
  unfold Obligations.MailboxRequests
  intro h
  obtain ⟨-, -, -, -, -, -, -, -, -, -, -, -, hlapse⟩ := h 0 lapsingState
  obtain ⟨u, hu, -, hmem⟩ := hlapse 0 _ rfl (Nat.le_refl 0)
  rw [exec_debugUnlockExpiry] at hu
  have hsettled := settled_eq_of_onAll hu
  have hwritten := lineView_lapsing
  generalize unlockExpiry 0 lapsingState.clk lapsingState.m = v at *
  have hnone : noLayout v := ⟨congrArg (·.2.1) hwritten, congrArg (·.2.2) hwritten⟩
  have hlines : lapsingState.m.mem.lines = v.mem.lines := (congrArg (·.lines) hmem).symm.trans (lines_eq_of_settled hsettled.symm hnone)
  have hresult : v.mem.lines.length = 2 := congrArg (·.1.length) hwritten
  rw [← hlines] at hresult
  exact absurd hresult (by decide)

end Sys2Proof
end
